-- ==== Sys2Proof/Word.lean ====
section
/-!
DEFINITION. The word types of the UM9220: bytes, 64-bit data words, 4-bit type tags and tagged words (R40), with the
tag codes named as the manual names them.
-/

namespace Sys2Proof

/-- One byte. -/
abbrev Byte := BitVec 8

/-- One 64-bit data word or register. -/
abbrev Word := BitVec 64

/-- A 4-bit type tag (R40). -/
abbrev Tag := BitVec 4

/-- NIL, code 0x0 (R40). -/
abbrev Tag.nil : Tag := 0x0#4
/-- INT64, code 0x1 (R40). -/
abbrev Tag.int64 : Tag := 0x1#4
/-- FP64, code 0x2 (R40). -/
abbrev Tag.fp64 : Tag := 0x2#4
/-- FP32x2, code 0x3 (R40). -/
abbrev Tag.fp32x2 : Tag := 0x3#4
/-- BF16x4, code 0x4 (R40). -/
abbrev Tag.bf16x4 : Tag := 0x4#4
/-- FP16x4, code 0x5 (R40). -/
abbrev Tag.fp16x4 : Tag := 0x5#4
/-- E4M3x8, code 0x6 (R40). -/
abbrev Tag.e4m3x8 : Tag := 0x6#4
/-- E5M2x8, code 0x7 (R40). -/
abbrev Tag.e5m2x8 : Tag := 0x7#4
/-- MXFP8, code 0x8 (R40). -/
abbrev Tag.mxfp8 : Tag := 0x8#4
/-- MXFP6, code 0x9 (R40). -/
abbrev Tag.mxfp6 : Tag := 0x9#4
/-- MXFP4, code 0xA (R40). -/
abbrev Tag.mxfp4 : Tag := 0xA#4
/-- MXINT8, code 0xB (R40). -/
abbrev Tag.mxint8 : Tag := 0xB#4
/-- HANDLE, code 0xC (R40). -/
abbrev Tag.handle : Tag := 0xC#4
/-- CODE, code 0xD (R40). -/
abbrev Tag.code : Tag := 0xD#4
/-- The reserved tag 0xE (R40). -/
abbrev Tag.rsvd : Tag := 0xE#4
/-- POISON, code 0xF (R40). -/
abbrev Tag.poison : Tag := 0xF#4

/-- A tagged word of memory or of an S or H register (R40). -/
structure TWord where
  bits : Word
  tag  : Tag
deriving DecidableEq, Repr

/-- Data zero with tag NIL: what every initialised word and register holds (R42). -/
abbrev TWord.zero : TWord := ⟨0, Tag.nil⟩

/-- An INT64-tagged word. -/
abbrev TWord.int (w : Word) : TWord := ⟨w, Tag.int64⟩

end Sys2Proof
end

