-- ==== Sys2Proof/Syntax.lean ====
section
/-!
DEFINITION. The commands of the UM9220: the operand types of the Sorryn instruction set and of the device's requests,
register accesses and events, and `Instr`, one constructor per row of the table of operations and events.
-/

namespace Sys2Proof

/-- An S register, 0 to 31 (R79). -/
abbrev SReg := Fin 32
/-- A V register, 0 to 63 (R79). -/
abbrev VReg := Fin 64
/-- An M register, 0 to 7 (R79). -/
abbrev MReg := Fin 8
/-- An H register, 0 to 15 (R79). -/
abbrev HReg := Fin 16
/-- An exact accumulator, 0 to 15 (R79). -/
abbrev XReg := Fin 16

/-- A resident context slot of an engine (R155): the agent that issues a Sorryn instruction. -/
structure CtxId where
  eng  : Fin 128
  slot : Fin 8
deriving DecidableEq, Repr

/-- The vector formats, in the order of their codes 0x0 to 0xC (R54). -/
inductive Fmt where
  | fp32 | bf16 | fp16 | e4m3 | e5m2 | mxfp8e4 | mxfp8e5 | mxfp6e2 | mxfp6e3 | mxfp4 | mxint8 | int32 | int8
deriving DecidableEq, Repr

/-- The rounding modes of R61. -/
inductive Rm where
  | rne | rz | ru | rd | sr
deriving DecidableEq, Repr

/-- The targets of xrd and scvt, in the order of their codes (R82). -/
inductive STarget where
  | fp64 | fp32 | bf16 | fp16 | e5m2 | e4m3 | int64 | int32
deriving DecidableEq, Repr

/-- The prefixes of an instruction (R84): format, mask, repeat count and ordered. -/
structure Px where
  fmt  : Option Fmt
  mask : Option MReg
  rep  : Option (BitVec 8)
  ord  : Bool
deriving DecidableEq, Repr

/-- No prefix. -/
abbrev Px.none : Px := ⟨.none, .none, .none, false⟩

/-- An address pair with its displacement (R81). -/
structure Addr where
  h     : HReg
  scale : BitVec 2
  idx   : Option SReg
  disp  : BitVec 32
deriving DecidableEq, Repr

/-- A barrier unit named by a bar instruction (R146): a unit of the engine's cluster or of the device. -/
inductive BarUnit where
  | cluster (u : Fin 16)
  | device (u : Fin 256)
deriving DecidableEq, Repr

/-- Which part of a 64-bit register an access reaches (R4). -/
inductive RegPart where
  | full | low | high
deriving DecidableEq, Repr

/-- A Wymoug packet in its frame (R252, R253, R266): addresses, DSCP, the VLAN ID of an 802.1Q tag, UDP ports, whether FCS, framing and
checksum hold, header fields, extension, payload as it reads under the key of its SA, and GCM tag. -/
structure Pkt where
  src    : BitVec 128
  dst    : BitVec 128
  dscp   : BitVec 6
  vlan   : Option (BitVec 12)
  sport  : BitVec 16
  dport  : BitVec 16
  frame  : Bool
  ver    : BitVec 8
  typ    : BitVec 8
  flags  : BitVec 8
  path   : BitVec 8
  spi    : BitVec 32
  sid    : BitVec 32
  sendts : BitVec 32
  msgid  : Word
  nonce  : Word
  rkey   : BitVec 32
  rgen   : BitVec 16
  ordgrp : BitVec 16
  roff   : Word
  msglen : BitVec 32
  pidx   : BitVec 16
  plen   : BitVec 16
  spec   : Word
  ext    : Option (BitVec 32 × BitVec 32 × Word)
  payload : List Byte
  tag    : List Byte
deriving DecidableEq, Repr

/-- A host's change of a function's conditions (R369): MSI-X Enable, Function Mask, a table entry, Bus Master Enable set, the
return to D0, PME_En, VF Enable of the function's PF, and the further configuration that the device's own requests obey. -/
inductive MsixOp where
  | enable (b : Bool)
  | funcMask (b : Bool)
  | entry (v : Nat) (addr : Word) (data : BitVec 32) (mask : Bool)
  | busMaster
  | d0
  | pmeEn (b : Bool)
  | vfEnable (b : Bool)
  /-- PCI Express Device Control: Max_Payload_Size, Max_Read_Request_Size, completion timeout in µs, and ATS Enable -/
  | devctl (mps mrrs cto : Nat) (ats : Bool)
  /-- the memory window of downstream port `port`'s bridge: first address, and the address after the last -/
  | window (port base top : Nat)
  /-- a port's ACS controls SV, TB, RR, CR, UF, EC, DT, its bridge's bus range, and Link Disable -/
  | acs (port : Nat) (bits : BitVec 7)
  | buses (port first last : Nat)
  | linkDisable (port : Nat) (b : Bool)
  /-- an address range that an endpoint function of a hierarchy decodes: first address, and the address after the last -/
  | bar (vh base top : Nat)
  /-- the bus number of a hierarchy's endpoint bus, and that of its internal bus (R351) -/
  | epBus (vh bus : Nat)
  | internalBus (vh bus : Nat)
deriving DecidableEq, Repr

/-- Which token-bucket register an SCH write names (R318): the control shaper, a Peck's committed or peak shaper, or a policer's
committed or peak bucket. -/
inductive ShReg where
  | ctl | peckC | peckP | polC | polP
deriving DecidableEq, Repr

/-- Which register of a gate bank an SCH write names (R318): BASE, NENT or an entry. -/
inductive ChainReg where
  | base | nent
  | entry (e : Fin 1024)
deriving DecidableEq, Repr

/-- A message about a checkpoint mirror on the pair link (R477, R478): from the origin, the opening with the image's units, slot, GEN, slot
size, DSTDIR, PKEYSLOT and its NONE bit, container header with section table, and sequence section; a unit's words; the release; from
the partner, whether there is room, a unit's arrival, and the confirmation of takeover. -/
inductive MirMsg where
  | open_ (units slot gen slotsz dstdir pkey : Nat) (noKey : Bool) (head gens : List Byte)
  | unit (u : Nat) (ws : List TWord)
  | free
  | room (ok : Bool)
  | ack (u : Nat)
  | confirm
deriving DecidableEq, Repr

/-- A partner's join record (R534). -/
structure JoinRec where
  role    : Bool
  isa     : Nat
  fwmajor : Nat
  wymver  : Nat
  epoch   : Word
  devid   : BitVec 48
  fabric  : BitVec 128
deriving DecidableEq, Repr

/-- A flit about a pair-wide barrier unit (R184, R539): an arrival, the primary's completion of a phase with the COUNT then in force, and the
unit's PAIR, PECK and COUNT on the partner. -/
inductive BarFlit where
  | arrival
  | complete (count : BitVec 12)
  | config (pair : Bool) (peck : BitVec 8) (count : BitVec 12)
deriving DecidableEq, Repr

/-- The address registers of the PAIR block (R546): half h of the base fabric address, the MAC base, and half h of a port's next hop. -/
inductive AddrReg where
  | fabric (h : Fin 2)
  | mac
  | nhop (p : Fin 16) (h : Fin 2)
deriving DecidableEq, Repr

/-- What a targeted self-test tests (R438, R439): the line or row that holds a memory address, or the rows of an engine. -/
inductive SelfTest where
  | word (a : Nat)
  | row (e : Fin 128)
deriving DecidableEq, Repr

/-- An IEEE 1588 message received on a port (R563): its sender, and what the time receiver takes from it. Times and corrections are in ns; an
event message arrives at the device time of the command. -/
inductive PtpMsg where
  /-- the values that the best master clock algorithm compares, in its order -/
  | announce (prio : List Nat)
  /-- the origin time, none for a two-step Sync -/
  | sync (seq : Nat) (origin : Option Int) (corr : Int)
  | followUp (seq : Nat) (origin corr : Int)
  /-- the receipt time of the device's request -/
  | delayResp (seq : Nat) (receipt corr : Int)
  /-- the receipt time of the device's request; one-step carries the turnaround in the correction -/
  | pdelayResp (seq : Nat) (twoStep : Bool) (receipt corr : Int)
  | pdelayFollowUp (seq : Nat) (origin corr : Int)
deriving DecidableEq, Repr

/-- What the board and the parts bring to a boot (R498, R552): the PAIR_ROLE strap (secondary), a rail that does not come up, the die-to-die links
that stay DOWN, whether an HBM stack fails training, and the addresses of the fault list whose repeated tests fail. -/
structure BootIn where
  strap : Bool
  rail  : Option (Fin 5)
  links : List (Fin 17)
  hbm   : Bool
  fails : List Nat
  /-- die-to-die lanes that training finds failing, as (link × 16 + module) × 2 + direction, one entry a lane (R19) -/
  lanes : List Nat
deriving DecidableEq, Repr

/-- A unit whose progress counter is sampled (R509); a control core's heartbeat is firmware's. -/
inductive ProgUnit where
  | engine (e : Fin 128)
  | peckRing (p : Fin 256) (r : Fin 16)
  | mgrRing (r : Fin 4)
  | core (n : Fin 60) (beat : Nat)
  | inst (i : Fin 4)
deriving DecidableEq, Repr

/-- What a failing die-to-die lane has to show: its errors within the last second, and the flits that were retried (R17, R19). -/
structure LaneErrs where
  errs    : Nat
  retried : Nat
deriving DecidableEq, Repr

/-- The commands: one constructor per row of the table of operations and events. -/
inductive Instr where
  /-- NOP (R91). Instruction nop does nothing and advances PC. -/
  | nop (c : CtxId)
  /-- MOV (R111). Copies an S register to another with its tag. -/
  | mov (c : CtxId) (d a : SReg)
  /-- MOVI (R111). Writes a sign-extended 4-byte immediate to an S register. -/
  | movi (c : CtxId) (d : SReg) (imm : BitVec 32)
  /-- MOVI64 (R111). Writes an 8-byte immediate to an S register. -/
  | movi64 (c : CtxId) (d : SReg) (imm : Word)
  /-- ADD (R111). Adds two INT64 registers modulo 2^64 and sets Z N C V. -/
  | add (c : CtxId) (d a b : SReg)
  /-- SUB (R111). Subtracts two INT64 registers and sets Z N C V. -/
  | sub (c : CtxId) (d a b : SReg)
  /-- MUL (R111). Writes the low 64 bits of a product and sets flags. -/
  | mul (c : CtxId) (d a b : SReg)
  /-- MULH (R111). Writes the high 64 bits of the signed product. -/
  | mulh (c : CtxId) (d a b : SReg)
  /-- MULHU (R111). Writes the high 64 bits of the unsigned product. -/
  | mulhu (c : CtxId) (d a b : SReg)
  /-- DIV (R112). Signed division rounding toward zero without faulting. -/
  | div (c : CtxId) (d a b : SReg)
  /-- DIVU (R112). Unsigned division without faulting. -/
  | divu (c : CtxId) (d a b : SReg)
  /-- REM (R112). Signed remainder with the sign of the dividend. -/
  | rem (c : CtxId) (d a b : SReg)
  /-- REMU (R112). Unsigned remainder. -/
  | remu (c : CtxId) (d a b : SReg)
  /-- AND (R111). Bitwise AND of two registers. -/
  | and_ (c : CtxId) (d a b : SReg)
  /-- OR (R111). Bitwise OR of two registers. -/
  | or_ (c : CtxId) (d a b : SReg)
  /-- XOR (R111). Bitwise XOR of two registers. -/
  | xor_ (c : CtxId) (d a b : SReg)
  /-- SHL (R113). Shifts left by Sb[5:0], C takes the last bit out. -/
  | shl (c : CtxId) (d a b : SReg)
  /-- SHR (R113). Logical shift right by Sb[5:0]. -/
  | shr (c : CtxId) (d a b : SReg)
  /-- SAR (R113). Arithmetic shift right by Sb[5:0]. -/
  | sar (c : CtxId) (d a b : SReg)
  /-- ROL (R113). Rotates left by Sb[5:0]. -/
  | rol (c : CtxId) (d a b : SReg)
  /-- MIN (R111). Signed minimum of two registers. -/
  | min_ (c : CtxId) (d a b : SReg)
  /-- MAX (R111). Signed maximum of two registers. -/
  | max_ (c : CtxId) (d a b : SReg)
  /-- MINU (R111). Unsigned minimum of two registers. -/
  | minu (c : CtxId) (d a b : SReg)
  /-- MAXU (R111). Unsigned maximum of two registers. -/
  | maxu (c : CtxId) (d a b : SReg)
  /-- CMP (R111). Compares by subtraction, writing only flags. -/
  | cmp (c : CtxId) (a b : SReg)
  /-- TST (R111). Tests the AND of two registers, writing only flags. -/
  | tst (c : CtxId) (a b : SReg)
  /-- NEG (R111). Negates a register modulo 2^64. -/
  | neg (c : CtxId) (d a : SReg)
  /-- NOT (R111). Bitwise complement of a register. -/
  | not_ (c : CtxId) (d a : SReg)
  /-- CLZ (R111). Counts leading zero bits. -/
  | clz (c : CtxId) (d a : SReg)
  /-- CTZ (R111). Counts trailing zero bits. -/
  | ctz (c : CtxId) (d a : SReg)
  /-- POPC (R111). Counts one bits. -/
  | popc (c : CtxId) (d a : SReg)
  /-- BSWAP (R111). Reverses byte order. -/
  | bswap (c : CtxId) (d a : SReg)
  /-- ADDI (R111). Adds a sign-extended immediate. -/
  | addi (c : CtxId) (d a : SReg) (imm : BitVec 32)
  /-- MULI (R111). Multiplies by a sign-extended immediate. -/
  | muli (c : CtxId) (d a : SReg) (imm : BitVec 32)
  /-- ANDI (R111). ANDs with an immediate. -/
  | andi (c : CtxId) (d a : SReg) (imm : BitVec 32)
  /-- ORI (R111). ORs with an immediate. -/
  | ori (c : CtxId) (d a : SReg) (imm : BitVec 32)
  /-- XORI (R111). XORs with an immediate. -/
  | xori (c : CtxId) (d a : SReg) (imm : BitVec 32)
  /-- SHLI (R113). Shifts left by an immediate count. -/
  | shli (c : CtxId) (d a : SReg) (n : BitVec 6)
  /-- SHRI (R113). Logical shift right by an immediate count. -/
  | shri (c : CtxId) (d a : SReg) (n : BitVec 6)
  /-- SARI (R113). Arithmetic shift right by an immediate count. -/
  | sari (c : CtxId) (d a : SReg) (n : BitVec 6)
  /-- ROLI (R113). Rotates left by an immediate count. -/
  | roli (c : CtxId) (d a : SReg) (n : BitVec 6)
  /-- CMPI (R111). Compares with an immediate, writing only flags. -/
  | cmpi (c : CtxId) (a : SReg) (imm : BitVec 32)
  /-- TSTI (R111). Tests against an immediate, writing only flags. -/
  | tsti (c : CtxId) (a : SReg) (imm : BitVec 32)
  /-- SXT_B (R111). Sign-extends bits [7:0]. -/
  | sxtB (c : CtxId) (d a : SReg)
  /-- SXT_H (R111). Sign-extends bits [15:0]. -/
  | sxtH (c : CtxId) (d a : SReg)
  /-- SXT_W (R111). Sign-extends bits [31:0]. -/
  | sxtW (c : CtxId) (d a : SReg)
  /-- ZXT_B (R111). Zero-extends bits [7:0]. -/
  | zxtB (c : CtxId) (d a : SReg)
  /-- ZXT_H (R111). Zero-extends bits [15:0]. -/
  | zxtH (c : CtxId) (d a : SReg)
  /-- ZXT_W (R111). Zero-extends bits [31:0]. -/
  | zxtW (c : CtxId) (d a : SReg)
  /-- RETAG (R114). Changes a register's tag between NIL and data tags. -/
  | retag (c : CtxId) (d a : SReg) (t : Tag)
  /-- TAGOF (R114). Reads a register's tag code without faulting. -/
  | tagof (c : CtxId) (d a : SReg)
  /-- B_CC (R115). Branches relative when the condition code holds. -/
  | bCc (c : CtxId) (k : BitVec 4) (disp : BitVec 32)
  /-- CALL (R115). Writes the return offset to S30 and branches. -/
  | call_ (c : CtxId) (disp : BitVec 32)
  /-- JR (R115). Jumps to the offset held in a register. -/
  | jr (c : CtxId) (a : SReg)
  /-- CALLR (R115). Calls the offset held in a register. -/
  | callr (c : CtxId) (a : SReg)
  /-- RET (R115). Jumps to the offset in S30. -/
  | ret (c : CtxId)
  /-- DBNZ (R115). Decrements a register and branches if nonzero. -/
  | dbnz (c : CtxId) (a : SReg) (disp : BitVec 32)
  /-- SETCC (R115). Writes 1 or 0 by a condition code. -/
  | setcc (c : CtxId) (d : SReg) (k : BitVec 4)
  /-- CSEL (R115). Selects one of two registers by a condition code. -/
  | csel (c : CtxId) (d a b : SReg) (k : BitVec 4)
  /-- RDFLG (R115). Reads FLG into a register. -/
  | rdflg (c : CtxId) (d : SReg)
  /-- WRFLG (R115). Writes FLG[7:0] from an INT64 register. -/
  | wrflg (c : CtxId) (a : SReg)
  /-- CLRFLG (R115). Clears the flags named by an immediate mask. -/
  | clrflg (c : CtxId) (m : BitVec 8)
  /-- LD_B (R119). Loads one byte zero-extended through a handle. -/
  | ldB (c : CtxId) (ord : Bool) (r : SReg) (at_ : Addr)
  /-- LD_H (R119). Loads two bytes zero-extended through a handle. -/
  | ldH (c : CtxId) (ord : Bool) (r : SReg) (at_ : Addr)
  /-- LD_W (R119). Loads four bytes zero-extended through a handle. -/
  | ldW (c : CtxId) (ord : Bool) (r : SReg) (at_ : Addr)
  /-- LD_D (R119). Loads a full word with its tag through a handle. -/
  | ldD (c : CtxId) (ord : Bool) (r : SReg) (at_ : Addr)
  /-- LD_BS (R119). Loads one byte sign-extended. -/
  | ldBs (c : CtxId) (ord : Bool) (r : SReg) (at_ : Addr)
  /-- LD_HS (R119). Loads two bytes sign-extended. -/
  | ldHs (c : CtxId) (ord : Bool) (r : SReg) (at_ : Addr)
  /-- LD_WS (R119). Loads four bytes sign-extended. -/
  | ldWs (c : CtxId) (ord : Bool) (r : SReg) (at_ : Addr)
  /-- ST_B (R119). Stores one byte as a sub-word store. -/
  | stB (c : CtxId) (ord : Bool) (r : SReg) (at_ : Addr)
  /-- ST_H (R119). Stores two bytes as a sub-word store. -/
  | stH (c : CtxId) (ord : Bool) (r : SReg) (at_ : Addr)
  /-- ST_W (R119). Stores four bytes as a sub-word store. -/
  | stW (c : CtxId) (ord : Bool) (r : SReg) (at_ : Addr)
  /-- ST_D (R119). Stores a full word with its tag. -/
  | stD (c : CtxId) (ord : Bool) (r : SReg) (at_ : Addr)
  /-- VLD (R120). Loads a V register's active lanes from tagged words. -/
  | vld (c : CtxId) (px : Px) (v : VReg) (at_ : Addr)
  /-- VST (R120). Stores a V register's active lanes to memory. -/
  | vst (c : CtxId) (px : Px) (v : VReg) (at_ : Addr)
  /-- VLDSC (R121). Loads an MX scale field from scale words. -/
  | vldsc (c : CtxId) (px : Px) (v : VReg) (at_ : Addr)
  /-- VSTSC (R121). Stores an MX scale field to scale words. -/
  | vstsc (c : CtxId) (px : Px) (v : VReg) (at_ : Addr)
  /-- LDH (R119). Loads a HANDLE word into an H register. -/
  | ldh (c : CtxId) (ord : Bool) (h : HReg) (at_ : Addr)
  /-- STH (R119). Stores an H register as a full word. -/
  | sth (c : CtxId) (ord : Bool) (h : HReg) (at_ : Addr)
  /-- H2S (R125). Copies an H register to an S register with its tag. -/
  | h2s (c : CtxId) (d : SReg) (h : HReg)
  /-- S2H (R125). Writes a HANDLE or NIL S register to an H register. -/
  | s2h (c : CtxId) (h : HReg) (a : SReg)
  /-- HDERIVE (R126). Derives a narrowed handle using a derive slot. -/
  | hderive (c : CtxId) (hd hs : HReg) (a b : SReg) (mask : BitVec 8)
  /-- HCHECK (R128). Reports a handle's rights and tests a mask. -/
  | hcheck (c : CtxId) (d : SReg) (h : HReg) (mask : BitVec 8)
  /-- HLEN (R128). Writes a handle's region length. -/
  | hlen (c : CtxId) (d : SReg) (h : HReg)
  /-- AMO_ADD (R122). Atomically adds to a memory word, returning the old word. -/
  | amoAdd (c : CtxId) (ord : Bool) (d : SReg) (at_ : Addr) (b : SReg)
  /-- AMO_AND (R122). Atomically ANDs a memory word. -/
  | amoAnd (c : CtxId) (ord : Bool) (d : SReg) (at_ : Addr) (b : SReg)
  /-- AMO_OR (R122). Atomically ORs a memory word. -/
  | amoOr (c : CtxId) (ord : Bool) (d : SReg) (at_ : Addr) (b : SReg)
  /-- AMO_XOR (R122). Atomically XORs a memory word. -/
  | amoXor (c : CtxId) (ord : Bool) (d : SReg) (at_ : Addr) (b : SReg)
  /-- AMO_SWAP (R122). Atomically swaps a memory word. -/
  | amoSwap (c : CtxId) (ord : Bool) (d : SReg) (at_ : Addr) (b : SReg)
  /-- AMO_MIN (R122). Atomic signed minimum on a memory word. -/
  | amoMin (c : CtxId) (ord : Bool) (d : SReg) (at_ : Addr) (b : SReg)
  /-- AMO_MAX (R122). Atomic signed maximum on a memory word. -/
  | amoMax (c : CtxId) (ord : Bool) (d : SReg) (at_ : Addr) (b : SReg)
  /-- AMO_CAS (R122). Atomic compare-and-swap, setting Z on a write. -/
  | amoCas (c : CtxId) (ord : Bool) (d : SReg) (at_ : Addr) (b : SReg)
  /-- RETAG_M (R123). Indivisibly changes a memory word's tag. -/
  | retagM (c : CtxId) (ord : Bool) (t : Tag) (at_ : Addr)
  /-- VADD (R129). Element-wise vector addition. -/
  | vadd (c : CtxId) (px : Px) (d a b : VReg) (rm : Rm)
  /-- VSUB (R129). Element-wise vector subtraction. -/
  | vsub (c : CtxId) (px : Px) (d a b : VReg) (rm : Rm)
  /-- VMUL (R129). Element-wise vector multiplication. -/
  | vmul (c : CtxId) (px : Px) (d a b : VReg) (rm : Rm)
  /-- VFMA (R129). Fused multiply-add per element. -/
  | vfma (c : CtxId) (px : Px) (d a b e : VReg) (rm : Rm)
  /-- VFMS (R129). Fused multiply-subtract per element. -/
  | vfms (c : CtxId) (px : Px) (d a b e : VReg) (rm : Rm)
  /-- VFNMA (R129). Negated fused multiply-add per element. -/
  | vfnma (c : CtxId) (px : Px) (d a b e : VReg) (rm : Rm)
  /-- VMIN (R130). Element-wise minimumNumber. -/
  | vmin (c : CtxId) (px : Px) (d a b : VReg)
  /-- VMAX (R130). Element-wise maximumNumber. -/
  | vmax (c : CtxId) (px : Px) (d a b : VReg)
  /-- VABS (R129). Element-wise absolute value. -/
  | vabs (c : CtxId) (px : Px) (d a : VReg)
  /-- VNEG (R129). Element-wise negation. -/
  | vneg (c : CtxId) (px : Px) (d a : VReg)
  /-- VDIV (R129). Element-wise division. -/
  | vdiv (c : CtxId) (px : Px) (d a b : VReg) (rm : Rm)
  /-- VSQRT (R129). Element-wise square root. -/
  | vsqrt (c : CtxId) (px : Px) (d a : VReg) (rm : Rm)
  /-- VRSQRT (R129). Element-wise reciprocal square root. -/
  | vrsqrt (c : CtxId) (px : Px) (d a : VReg) (rm : Rm)
  /-- VRCP (R129). Element-wise reciprocal. -/
  | vrcp (c : CtxId) (px : Px) (d a : VReg) (rm : Rm)
  /-- VEXP2 (R129). Element-wise base-2 exponential. -/
  | vexp2 (c : CtxId) (px : Px) (d a : VReg) (rm : Rm)
  /-- VLOG2 (R129). Element-wise base-2 logarithm. -/
  | vlog2 (c : CtxId) (px : Px) (d a : VReg) (rm : Rm)
  /-- VDOT (R131). Adds exact per-lane dot products to Vd with one rounding. -/
  | vdot (c : CtxId) (px : Px) (d a b : VReg) (rm : Rm)
  /-- VCMP_EQ (R132). Writes a mask of equal lanes. -/
  | vcmpEq (c : CtxId) (px : Px) (m : MReg) (a b : VReg)
  /-- VCMP_LT (R132). Writes a mask of less-than lanes. -/
  | vcmpLt (c : CtxId) (px : Px) (m : MReg) (a b : VReg)
  /-- VCMP_LE (R132). Writes a mask of less-or-equal lanes. -/
  | vcmpLe (c : CtxId) (px : Px) (m : MReg) (a b : VReg)
  /-- VCMP_UN (R132). Writes a mask of unordered FP32 lanes. -/
  | vcmpUn (c : CtxId) (px : Px) (m : MReg) (a b : VReg)
  /-- VSEL (R129). Selects lanes of two vectors by a mask. -/
  | vsel (c : CtxId) (px : Px) (d a b : VReg) (m : MReg)
  /-- VAND (R129). Bitwise AND of integer vectors. -/
  | vand (c : CtxId) (px : Px) (d a b : VReg)
  /-- VOR (R129). Bitwise OR of integer vectors. -/
  | vor (c : CtxId) (px : Px) (d a b : VReg)
  /-- VXOR (R129). Bitwise XOR of integer vectors. -/
  | vxor (c : CtxId) (px : Px) (d a b : VReg)
  /-- VSHL (R129). Shifts INT32 lanes left. -/
  | vshl (c : CtxId) (px : Px) (d a b : VReg)
  /-- VSHR (R129). Logical right shift of INT32 lanes. -/
  | vshr (c : CtxId) (px : Px) (d a b : VReg)
  /-- VSAR (R129). Arithmetic right shift of INT32 lanes. -/
  | vsar (c : CtxId) (px : Px) (d a b : VReg)
  /-- VMOV (R109). Copies a V register with its tag and scales. -/
  | vmov (c : CtxId) (px : Px) (d a : VReg)
  /-- VSPLAT (R129). Broadcasts element 0 of an S register to every element. -/
  | vsplat (c : CtxId) (px : Px) (d : VReg) (a : SReg)
  /-- VSPLATI (R129). Broadcasts a 32-bit immediate to every lane. -/
  | vsplati (c : CtxId) (px : Px) (d : VReg) (imm : BitVec 32)
  /-- VLANE (R129). Writes each lane's number. -/
  | vlane (c : CtxId) (px : Px) (d : VReg)
  /-- VREDMAX (R133). Reduces active lanes to their maximum. -/
  | vredmax (c : CtxId) (px : Px) (d : SReg) (a : VReg)
  /-- VREDMIN (R133). Reduces active lanes to their minimum. -/
  | vredmin (c : CtxId) (px : Px) (d : SReg) (a : VReg)
  /-- VARGMAX (R133). Writes the index of the maximum lane. -/
  | vargmax (c : CtxId) (px : Px) (d : SReg) (a : VReg)
  /-- VARGMIN (R133). Writes the index of the minimum lane. -/
  | vargmin (c : CtxId) (px : Px) (d : SReg) (a : VReg)
  /-- VPERM (R129). Permutes lanes by an index vector. -/
  | vperm (c : CtxId) (px : Px) (d a b : VReg)
  /-- VROT (R129). Rotates lanes by an immediate. -/
  | vrot (c : CtxId) (px : Px) (d a : VReg) (n : BitVec 7)
  /-- VEXT (R133). Extracts one lane to an S register. -/
  | vext (c : CtxId) (px : Px) (d : SReg) (a : VReg) (n : BitVec 7)
  /-- VINS (R133). Inserts an S register into one lane. -/
  | vins (c : CtxId) (px : Px) (d : VReg) (a : SReg) (n : BitVec 7)
  /-- MAND (R134). ANDs two masks. -/
  | mand (c : CtxId) (d a b : MReg)
  /-- MOR (R134). ORs two masks. -/
  | mor (c : CtxId) (d a b : MReg)
  /-- MXOR (R134). XORs two masks. -/
  | mxor (c : CtxId) (d a b : MReg)
  /-- MNOT (R134). Complements a mask. -/
  | mnot (c : CtxId) (d a : MReg)
  /-- MSET (R134). Sets the low n mask bits. -/
  | mset (c : CtxId) (d : MReg) (n : BitVec 8)
  /-- MPOP (R134). Counts set mask bits. -/
  | mpop (c : CtxId) (d : SReg) (m : MReg)
  /-- MFIRST (R134). Writes the lowest set mask bit index. -/
  | mfirst (c : CtxId) (d : SReg) (m : MReg)
  /-- MFROMV (R134). Makes a mask of nonzero lanes. -/
  | mfromv (c : CtxId) (m : MReg) (a : VReg)
  /-- COPY (R171). cpy with OP COPY checks and queues a linear copy. -/
  | copy (c : CtxId) (ord : Bool) (q : Fin 4) (h : HReg) (a : SReg)
  /-- COPY2D (R171). cpy with OP COPY2D checks and queues a strided copy. -/
  | copy2d (c : CtxId) (ord : Bool) (q : Fin 4) (h : HReg) (a : SReg)
  /-- FILL (R171). cpy with OP FILL checks and queues a pattern fill. -/
  | fill (c : CtxId) (ord : Bool) (q : Fin 4) (h : HReg) (a : SReg)
  /-- CPYSTAT (R144). Reads and clears a copy queue's status word. -/
  | cpystat (c : CtxId) (d : SReg) (q : Fin 4)
  /-- CPYWAIT (R144). Waits until the context's copies on a queue complete. -/
  | cpywait (c : CtxId) (q : Fin 4)
  /-- SEM_ADD (R145). Adds to an engine semaphore as a release. -/
  | semAdd (c : CtxId) (ord : Bool) (a : SReg) (n : BitVec 6)
  /-- SEM_WAIT (R145). Waits in order for a semaphore value and subtracts it. -/
  | semWait (c : CtxId) (a : SReg) (n : BitVec 6)
  /-- SEM_RD (R145). Reads a semaphore. -/
  | semRd (c : CtxId) (d : SReg) (n : BitVec 6)
  /-- SEM_SET (R145). Sets a semaphore. -/
  | semSet (c : CtxId) (ord : Bool) (a : SReg) (n : BitVec 6)
  /-- BAR_ARRIVE (R146). Records an arrival on a barrier unit. -/
  | barArrive (c : CtxId) (u : BarUnit)
  /-- BAR_WAIT (R146). Waits for the phase of the last arrival. -/
  | barWait (c : CtxId) (u : BarUnit)
  /-- BAR_SYNC (R146). Arrives and waits on a barrier unit. -/
  | barSync (c : CtxId) (u : BarUnit)
  /-- FENCE (R147). Waits until earlier accesses and copies are visible. -/
  | fence (c : CtxId)
  /-- SYSR (R104). Reads a system register. -/
  | sysr (c : CtxId) (d : SReg) (n : BitVec 16)
  /-- SYSW (R105). Writes a system register, lowering ISA level only. -/
  | sysw (c : CtxId) (a : SReg) (n : BitVec 16)
  /-- YIELD (R154). Lets other ready contexts issue first. -/
  | yield_ (c : CtxId)
  /-- HALT (R154). Stops the context with a result value. -/
  | halt (c : CtxId) (a : SReg)
  /-- RDCST (R154). Reads CST. -/
  | rdcst (c : CtxId) (d : SReg)
  /-- XCLR (R135). Clears an exact accumulator. -/
  | xclr (c : CtxId) (px : Px) (x : XReg)
  /-- XACC (R135). Enters every element of a vector into an accumulator. -/
  | xacc (c : CtxId) (px : Px) (x : XReg) (a : VReg)
  /-- XACC_S (R135). Enters the elements of an S register into an accumulator. -/
  | xaccS (c : CtxId) (px : Px) (x : XReg) (a : SReg)
  /-- XACCP (R136). Enters exact element products into an accumulator. -/
  | xaccp (c : CtxId) (px : Px) (x : XReg) (a b : VReg)
  /-- XMERGE (R71). Merges one accumulator into another. -/
  | xmerge (c : CtxId) (px : Px) (d a : XReg)
  /-- XMOV (R135). Copies an accumulator. -/
  | xmov (c : CtxId) (px : Px) (d a : XReg)
  /-- XLD (R72). Loads an accumulator image with validity checks. -/
  | xld (c : CtxId) (px : Px) (x : XReg) (at_ : Addr)
  /-- XST (R72). Stores an accumulator image. -/
  | xst (c : CtxId) (px : Px) (x : XReg) (at_ : Addr)
  /-- XRD (R73). Reads out an accumulator with one rounding. -/
  | xrd (c : CtxId) (d : SReg) (x : XReg) (t : STarget) (rm : Rm)
  /-- XCNT (R135). Reads an accumulator's CNT. -/
  | xcnt (c : CtxId) (d : SReg) (x : XReg)
  /-- XSTAT (R135). Reads an accumulator's STATE byte. -/
  | xstat (c : CtxId) (d : SReg) (x : XReg)
  /-- VCVT (R139). Converts vector elements by window. -/
  | vcvt (c : CtxId) (px : Px) (d a : VReg) (t : Fmt) (w : Bool) (rm : Rm)
  /-- VCVT2 (R139). Narrows two source vectors into one. -/
  | vcvt2 (c : CtxId) (px : Px) (d a b : VReg) (t : Fmt) (w : Bool) (rm : Rm)
  /-- VCVTH (R139). Converts using the high windows. -/
  | vcvth (c : CtxId) (px : Px) (d a : VReg) (t : Fmt) (w : Bool) (rm : Rm)
  /-- SCVT (R141). Converts element 0 of an S register. -/
  | scvt (c : CtxId) (d a : SReg) (t : STarget) (rm : Rm)
  /-- RNG_RD (R103). Reads a stochastic-rounding register. -/
  | rngRd (c : CtxId) (d : SReg) (n : BitVec 8)
  /-- RNG_WR (R103). Writes a stochastic-rounding register. -/
  | rngWr (c : CtxId) (a : SReg) (n : BitVec 8)
  /-- RNG_STEP (R103). Adds 1 to SRSTEP. -/
  | rngStep (c : CtxId)
  /-- PHILOX (R148). Computes Philox4x32-10 per lane. -/
  | philox (c : CtxId) (px : Px) (d a : VReg) (w : BitVec 2) (form : BitVec 2)
  /-- VTOPK (R149). Writes indices of the k largest lanes. -/
  | vtopk (c : CtxId) (px : Px) (d a : VReg) (k : SReg)
  /-- VSCAN (R150). Writes exact prefix sums of active lanes. -/
  | vscan (c : CtxId) (px : Px) (d a : VReg) (excl : Bool) (rm : Rm)
  /-- VSAMPLE (R151). Finds the first lane exceeding a threshold. -/
  | vsample (c : CtxId) (px : Px) (d : SReg) (a b : VReg)
  /-- VPENAL (R152). Applies a repetition penalty per lane. -/
  | vpenal (c : CtxId) (px : Px) (d a b : VReg) (rm : Rm)
  /-- VACCEPT (R153). Writes a mask of accepted speculative drafts. -/
  | vaccept (c : CtxId) (px : Px) (m : MReg) (a b e : VReg)
  /-- CONTEXT_READY (R157). A waiting context becomes READY after its awaited event. -/
  | contextReady (c : CtxId)
  /-- ORDERED_START (R89). An ordered-prefix instruction starts after earlier accesses complete. -/
  | orderedStart (c : CtxId)
  /-- ACCUMULATOR_WAIT_END (R138). An instruction waiting on an occupied accumulator proceeds. -/
  | accumulatorWaitEnd (c : CtxId)
  /-- COPY_COMPLETE (R175). A copy completes, releases its entry, signals and updates status. -/
  | copyComplete (e : Fin 128) (q : Fin 4)
  /-- COPY_START (R169). A queued copy begins moving data in issue order. -/
  | copyStart (e : Fin 128) (id : Nat) (deny : List Nat)
  /-- NOP_REQUEST (R386). Ring NOP completes with ST_OK. -/
  | nopRequest (id : Nat)
  /-- ABORT (R396). Aborts the oldest uncommitted item with a TAG on a ring. -/
  | abort (id : Nat)
  /-- SPRING_CFG (R393). Configures a Peck Spring. -/
  | springCfg (id : Nat)
  /-- LOG_READ (R403). Copies manager log records to host memory. -/
  | logRead (id : Nat)
  /-- CTX_START (R164). Checks a start record and places a context. -/
  | ctxStart (id : Nat)
  /-- CONTEXT_PLACE (R165). A waiting start request takes a freed slot and begins fetching. -/
  | contextPlace (id : Nat)
  /-- WORK_ITEM_COMPLETE (R167). A context's item completes after its copies and SAVE record. -/
  | workItemComplete (c : CtxId)
  /-- PROG_LOAD (R161). Firmware copies bytes into CODE words. -/
  | progLoad (id : Nat) (data : List Byte) (st : BitVec 16)
  /-- PROG_UNLOAD (R162). Firmware clears CODE words of a region. -/
  | progUnload (id : Nat)
  /-- ALLREDUCE (R194). Collective OP ALLREDUCE is checked and started. -/
  | allreduce (id : Nat)
  /-- REDUCE_SCATTER (R194). Collective OP REDUCE_SCATTER is checked and started. -/
  | reduceScatter (id : Nat)
  /-- ALLGATHER (R194). Collective OP ALLGATHER is checked and started. -/
  | allgather (id : Nat)
  /-- REDUCE (R194). Collective OP REDUCE is checked and started. -/
  | reduce (id : Nat)
  /-- BROADCAST (R194). Collective OP BROADCAST is checked and started. -/
  | broadcast (id : Nat)
  /-- ALLTOALL (R210). Collective OP ALLTOALL dispatches or combines token rows. -/
  | alltoall (id : Nat)
  /-- STEP (R194). Collective OP STEP reduces gradients and applies the optimizer. -/
  | step (id : Nat)
  /-- ANNOUNCE_RESEND (R203). An unanswered announce is resent every 1 ms. -/
  | announceResend (c : Nat)
  /-- COLL_SEND (R203). Pieces are copied to a member once its announce arrives. -/
  | collSend (c chunk member : Nat) (deny : List Nat)
  /-- COLL_REDUCE (R204). The owner sums a piece once all contributions are complete. -/
  | collReduce (c chunk : Nat)
  /-- COLL_VERDICT (R213). The verdict is decided once all votes are held. -/
  | collVerdict (c : Nat)
  /-- COLL_VERDICT_TIMEOUT (R213). RED_CFG.VERDICT expires with votes missing. -/
  | collVerdictTimeout (c : Nat)
  /-- COLL_APPLY (R217). The optimizer is applied to a reduced piece. -/
  | collApply (c chunk : Nat)
  /-- COLL_RESULT (R203). A result piece is sent by the gather algorithm. -/
  | collResult (c chunk owner : Nat) (deny : List Nat)
  /-- COLL_DELIVER (R203). A complete chunk is copied to the destinations. -/
  | collDeliver (c chunk : Nat) (deny : List Nat)
  /-- COLL_STALL_EXPIRY (R220). RED_CFG.STALL expires and the collective fails member lost. -/
  | collStallExpiry (c : Nat)
  /-- COLL_COMPLETE (R203). A collective completes after deliveries and acknowledgements. -/
  | collComplete (c lost : Nat)
  /-- GEN_REGISTER (R230). Registers a decode sequence. -/
  | genRegister (id : Nat)
  /-- GEN_UPDATE (R231). Replaces a sequence's record. -/
  | genUpdate (id : Nat)
  /-- GEN_DEREGISTER (R231). Removes a sequence entry. -/
  | genDeregister (id : Nat)
  /-- GEN_STEP (R233). Queues a decode step for a sequence. -/
  | genStep (id : Nat)
  /-- GEN_DISPATCH (R233). A queued step is dispatched, POS-checked and its input pulled. -/
  | genDispatch (q : Nat)
  /-- GEN_SAMPLE (R236). The sampler runs on the staged input and verifies drafts. -/
  | genSample (q : Nat)
  /-- GEN_OUTPUT_WRITE (R241). The output record is written to accelerator memory. -/
  | genOutputWrite (q : Nat)
  /-- KV_APPEND (R244). KV rows are appended after the output record completes. -/
  | kvAppend (q : Nat) (deny : List Nat)
  /-- GEN_KVMOVE (R245). Moves KV pages by copies. -/
  | genKvmove (id : Nat) (deny : List Nat)
  /-- WYM_ARM (R259). Arms or re-arms a region for remote access. -/
  | wymArm (id : Nat)
  /-- WYM_DISARM (R262). Disarms a region. -/
  | wymDisarm (id : Nat)
  /-- WYM_POST (R280). Posts a receive buffer on an endpoint. -/
  | wymPost (id : Nat)
  /-- WYM_SEND (R279). Sends a two-sided message to an endpoint. -/
  | wymSend (id : Nat)
  /-- WYM_ATOMIC (R278). Issues a remote atomic. -/
  | wymAtomic (id : Nat)
  /-- PECK_CREATE (R328). Creates a Peck bound to its functions. -/
  | peckCreate (id : Nat)
  /-- PECK_GRANT (R323). Moves resource units to a Peck and zeroes them. -/
  | peckGrant (id : Nat)
  /-- PECK_RELEASE (R323). Returns resource units to the pool. -/
  | peckRelease (id : Nat)
  /-- PECK_MINT (R335). Mints a root handle into a directory entry. -/
  | peckMint (id : Nat)
  /-- PECK_REVOKE (R337). Revokes a directory entry and its descendants. -/
  | peckRevoke (id : Nat)
  /-- PECK_QUIESCE (R332). Stops dispatch and drains a Peck's work. -/
  | peckQuiesce (id : Nat)
  /-- PECK_QUIESCED (R331). A quiescing Peck finishes draining and becomes QUIESCED. -/
  | peckQuiesced (p : Fin 256)
  /-- PECK_RESUME (R328). Returns a QUIESCED Peck to ACTIVE. -/
  | peckResume (id : Nat)
  /-- PECK_DISABLE (R333). Fences a Peck's work with ST_FUNCTION_DISABLED. -/
  | peckDisable (id : Nat)
  /-- PECK_RESET (R332). Resets a Peck to QUIESCED. -/
  | peckReset (id : Nat)
  /-- PECK_REMOVE (R332). Removes a Peck and releases its resources. -/
  | peckRemove (id : Nat)
  /-- PECK_LOG_START (R339). Starts dirty-page logging for a Peck. -/
  | peckLogStart (id : Nat)
  /-- PECK_LOG_STOP (R339). Stops dirty-page logging. -/
  | peckLogStop (id : Nat)
  /-- PECK_EXPORT (R340). Writes a Peck export container. -/
  | peckExport (id : Nat) (pub : List Byte) (st : BitVec 16)
  /-- PECK_IMPORT (R341). Loads a Peck from an export container. -/
  | peckImport (id : Nat) (data : List Byte) (pub : List Byte) (st : BitVec 16)
  /-- PECK_ATTEST (R344). Writes a signed attestation report. -/
  | peckAttest (id : Nat)
  /-- PECK_HPLACE (R336). Copies a directory handle word to memory. -/
  | peckHplace (id : Nat)
  /-- PECK_HDERIVE (R336). Derives a root entry into another directory entry. -/
  | peckHderive (id : Nat)
  /-- PECK_HDROP (R336). Drops a directory entry, revoking derived ones. -/
  | peckHdrop (id : Nat)
  /-- FEED_START (R422). Starts a data feed. -/
  | feedStart (id : Nat)
  /-- FEED_ADVANCE (R424). Raises a feed's batch LIMIT. -/
  | feedAdvance (id : Nat)
  /-- FEED_STOP (R424). Stops a feed after its current batch. -/
  | feedStop (id : Nat)
  /-- FEED_BATCH (R424). The feed packs and writes one batch. -/
  | feedBatch (p : Fin 256) (id : Fin 16)
  /-- FEED_POSITION_RECORD (R425). A position record is written after a batch's copies complete. -/
  | feedPositionRecord (p : Fin 256) (id : Fin 16)
  /-- KEY_IMPORT (R457). Loads a wrapped key into a slot. -/
  | keyImport (id : Nat) (data : List Byte) (st : BitVec 16)
  /-- KEY_GENERATE (R457). Generates a key in a slot. -/
  | keyGenerate (id : Nat)
  /-- KEY_ERASE (R458). Erases a slot after its reserved invocations complete. -/
  | keyErase (id : Nat)
  /-- KEY_CQCFG (R461). Configures a cipher command queue. -/
  | keyCqcfg (id : Nat)
  /-- KEY_INFO (R453). Writes the signed key information record. -/
  | keyInfo (id : Nat)
  /-- CBC_ENCRYPT (R463). Cipher command OP CBC encrypt runs. -/
  | cbcEncrypt (p : Fin 256) (q : Fin 4)
  /-- CBC_DECRYPT (R463). Cipher command OP CBC decrypt runs. -/
  | cbcDecrypt (p : Fin 256) (q : Fin 4)
  /-- CFB_ENCRYPT (R463). Cipher command OP CFB encrypt runs. -/
  | cfbEncrypt (p : Fin 256) (q : Fin 4)
  /-- CFB_DECRYPT (R463). Cipher command OP CFB decrypt runs. -/
  | cfbDecrypt (p : Fin 256) (q : Fin 4)
  /-- CTR (R463). Cipher command OP CTR runs. -/
  | ctr (p : Fin 256) (q : Fin 4)
  /-- CKPT_BEGIN (R470). Checks and accepts a checkpoint. -/
  | ckptBegin (id : Nat)
  /-- CKPT_GUARD (R475). Completes once a source range is captured. -/
  | ckptGuard (id : Nat)
  /-- CKPT_CANCEL (R483). Cancels a checkpoint not yet STAGED. -/
  | ckptCancel (id : Nat)
  /-- CKPT_RESTORE (R491). Restores sections from a sealed slot. -/
  | ckptRestore (id : Nat)
  /-- CKPT_NOTICE (R467). Delivers a pre-emption notice with a deadline. -/
  | ckptNotice (id : Nat)
  /-- CKPT_AT_TIME (R471). Device time reaches AT and a waiting checkpoint starts. -/
  | ckptAtTime (p : Fin 256)
  /-- CKPT_CUT (R471). The cut is taken once applying collectives and steps complete. -/
  | ckptCut (p : Fin 256)
  /-- CKPT_UNIT_CAPTURE (R473). One 1 MiB unit is copied into the Tarn. -/
  | ckptUnitCapture (p : Fin 256) (deny : List Nat)
  /-- CKPT_MIRROR_UNIT (R477). A captured unit arrives at the partner's mirror. -/
  | ckptMirrorUnit (p : Fin 256) (m : MirMsg)
  /-- CKPT_STREAM_RECORD (R480). One encrypted record is written to the destination. -/
  | ckptStreamRecord (p : Fin 256)
  /-- CKPT_SEAL (R481). The manifest is written SEALED after all records complete. -/
  | ckptSeal (p : Fin 256)
  /-- CKPT_DEADLINE_EXPIRY (R476). A notice deadline passes before STAGED. -/
  | ckptDeadlineExpiry (p : Fin 256)
  /-- CKPT_TAKEOVER_START (R478). The partner begins streaming a confirmed mirror after its wait. -/
  | ckptTakeoverStart (p : Fin 256)
  /-- FW_STAGE (R501). Stages a firmware bundle. -/
  | fwStage (id : Nat) (data : List Byte) (st : BitVec 16)
  /-- FW_ACTIVATE (R503). Starts live activation of the staged image. -/
  | fwActivate (id : Nat)
  /-- FW_ABANDON (R501). Discards a staged or deferred image. -/
  | fwAbandon (id : Nat)
  /-- FW_GROUP_SWITCH (R503). One control-core group switches to the new image. -/
  | fwGroupSwitch (g : Fin 7)
  /-- FW_DEFERRED_START (R506). A deferred activation starts after 1 s clear of emergency. -/
  | fwDeferredStart
  /-- FW_PROBATION_END (R505). Probation ends without a trip and the image commits. -/
  | fwProbationEnd
  /-- FW_FLASH_WRITE (R505). The committed bundle is written and verified in flash. -/
  | fwFlashWrite (ok : Bool)
  /-- RCV_WARMRESET (R528). Requests a device warm reset. -/
  | rcvWarmreset (id : Nat)
  /-- RCV_POWERCYCLE (R526). Requests a board power cycle. -/
  | rcvPowercycle (id : Nat)
  /-- PAIR_JOIN (R536). Requests a pair join. -/
  | pairJoin (id : Nat)
  /-- PAIR_LEAVE (R536). Splits the pair with cause MANAGER. -/
  | pairLeave (id : Nat)
  /-- VF_DB (R382). A Peck doorbell write updates a ring's PI. -/
  | vfDb (vf : Fin 256) (r : Fin 16) (part : RegPart) (v : Word)
  /-- RING_MDB (R382). A manager doorbell write updates a ring's PI. -/
  | ringMdb (r : Fin 4) (part : RegPart) (v : Word)
  /-- RING_DISPATCH (R384). The next descriptor of a ring is read and dispatched. -/
  | ringDispatch (p : Fin 256) (r : Fin 16)
  /-- VF_RRESET (R383). Resets a Peck ring. -/
  | vfRreset (vf : Fin 256) (r : Fin 16) (part : RegPart) (v : Word)
  /-- RING_RESET (R383). RING_MCFG.RESET resets a manager ring. -/
  | ringReset (r : Fin 4) (part : RegPart) (v : Word)
  /-- RING_CFG_WRITE (R380). A RING_PRING or RING_MCFG write sizes or enables a ring. -/
  | ringCfgWrite (p : Fin 256) (r : Fin 16) (part : RegPart) (v : Word)
  /-- RING_WINDOW_WRITE (R381). A host write to a ring window writes descriptor words. -/
  | ringWindowWrite (vf : Fin 256) (off : Nat) (data : List Byte) (ep : Bool)
  /-- VF_SPRCI (R392). A Peck advances a Spring's CI, releasing held records. -/
  | vfSprci (vf : Fin 256) (sp : Fin 16) (part : RegPart) (v : Word)
  /-- SPRG_CI_WRITE (R392). The manager advances a Spring's CI. -/
  | sprgCiWrite (sp : Fin 16) (part : RegPart) (v : Word)
  /-- SPRG_CFG_WRITE (R407). A manager Spring configuration write. -/
  | sprgCfgWrite (sp : Fin 16) (base : Bool) (part : RegPart) (v : Word)
  /-- SPRING_DELAY_EXPIRY (R394). A Spring's DELAY passes and its vector is signalled. -/
  | springDelayExpiry (p : Fin 256) (sp : Fin 16)
  /-- MSIX_UNMASK (R369). Clearing a hold condition sends pending vector messages. -/
  | msixUnmask (f : Nat) (op : MsixOp)
  /-- RING_ATTACH (R402). Attaches the manager driver. -/
  | ringAttach (part : RegPart) (v : Word)
  /-- RING_HBEAT (R400). A manager heartbeat write. -/
  | ringHbeat (part : RegPart) (v : Word)
  /-- RING_DETACH (R400). Detaches the manager driver. -/
  | ringDetach (part : RegPart) (v : Word)
  /-- MGR_HEARTBEAT_TIMEOUT (R400). No heartbeat within PERIOD detaches the manager. -/
  | mgrHeartbeatTimeout
  /-- ENG_CTL_RESET (R191). Requests an engine reset. -/
  | engCtlReset (e : Fin 128) (part : RegPart) (v : Word)
  /-- ENGINE_RESET_COMPLETE (R187). An engine reset finishes. -/
  | engineResetComplete (e : Fin 128)
  /-- ENG_BAR_WRITE (R185). An ENG_DBAR or ENG_CBAR write changes COUNT or PECK. -/
  | engBarWrite (u : Fin 384) (part : RegPart) (v : Word)
  /-- INTG_SCRUB_START (R442). START begins a scrub pass. -/
  | intgScrubStart (part : RegPart) (v : Word)
  /-- SCRUB_PASS_END (R444). A scrub pass ends with its results. -/
  | scrubPassEnd
  /-- TARGETED_SELF_TEST (R438). Firmware tests a word line or row after an error. -/
  | targetedSelfTest (t : SelfTest) (fail : Bool)
  /-- STOR_DRV_RELEASE (R408). RELEASE unbinds an absent or failed drive number. -/
  | storDrvRelease (d : Fin 32) (part : RegPart) (v : Word)
  /-- STOR_VOL_WRITE (R411). A STOR_VOL write enables, disables or grants a volume. -/
  | storVolWrite (v : Fin 1024) (part : RegPart) (w : Word)
  /-- SCH_Q_WRITE (R316). A SCH_Q write configures or disables a queue. -/
  | schQWrite (d : Fin 4) (q : Fin 4096) (part : RegPart) (v : Word)
  /-- SCH_SHAPER_WRITE (R306). A shaper or policer write sets rates and token count by INIT. -/
  | schShaperWrite (r : ShReg) (port : Fin 16) (k : Fin 256) (part : RegPart) (v : Word)
  /-- SCH_GATECTL_SWITCH (R311). SWITCH requests a gate bank switch. -/
  | schGatectlSwitch (port : Fin 16) (part : RegPart) (v : Word)
  /-- SCH_CHAIN_WRITE (R311). A Chain, BASE or NENT write, refused for the bank in force. -/
  | schChainWrite (port : Fin 16) (bank : Fin 2) (r : ChainReg) (part : RegPart) (v : Word)
  /-- GATE_ENTRY_BOUNDARY (R308). A new Chain entry comes into force, possibly switching bank. -/
  | gateEntryBoundary (port : Fin 16)
  /-- SCH_TRANSMIT (R307). A free port chooses and starts the next frame. -/
  | schTransmit (port : Fin 16)
  /-- WYM_SA_KEY_WRITE (R295). A WYM_SA_KEY write validates or invalidates an SA. -/
  | wymSaKeyWrite (n : Fin 1024) (id : Bool) (part : RegPart) (v : Word)
  /-- WYM_HORIZON_WRITE (R284). A WYM_HORIZON write accepted only with ports disabled. -/
  | wymHorizonWrite (part : RegPart) (v : Word)
  /-- WYM_PORT_CFG_WRITE (R251). A port is enabled or disabled in a mode. -/
  | wymPortCfgWrite (port : Fin 16) (part : RegPart) (v : Word)
  /-- KEY_LIMIT_WRITE (R451). The manager sets a slot's LIMIT. -/
  | keyLimitWrite (n : Fin 4096) (part : RegPart) (v : Word)
  /-- KEY_ALARM_CLEAR (R460). W1C clears latched alarm bits whose condition has ended. -/
  | keyAlarmClear (part : RegPart) (v : Word)
  /-- PECK_LOGRD_WRITE (R339). Consumes log entries and resets the repeat filter. -/
  | peckLogrdWrite (p : Fin 256) (part : RegPart) (v : Word)
  /-- PECK_MTRCI_WRITE (R342). Consumes meter records so held records may be written. -/
  | peckMtrciWrite (part : RegPart) (v : Word)
  /-- PWR_LIMIT_WRITE (R555). Sets the sustained power limit. -/
  | pwrLimitWrite (part : RegPart) (v : Word)
  /-- TIME_STEP_WRITE (R564). Steps device time in MANUAL mode. -/
  | timeStepWrite (part : RegPart) (v : Word)
  /-- TIME_NOW_READ (R562). A low-half read latches the high half. -/
  | timeNowRead (f : Fin 512) (part : RegPart)
  /-- INTC_TEST_WRITE (R379). Signals a named vector without a record. -/
  | intcTestWrite (part : RegPart) (v : Word)
  /-- DEVCTL_PORTCFG_WRITE (R349). Reconfigures a lane group's ports. -/
  | devctlPortcfgWrite (g : Fin 16) (part : RegPart) (v : Word)
  /-- DEVCTL_VHCFG_WRITE (R377). Assigns VF numbers to a VH. -/
  | devctlVhcfgWrite (vh : Fin 4) (part : RegPart) (v : Word)
  /-- CKPT_MIRCFG_WRITE (R477). Sets the partner mirror Grains. -/
  | ckptMircfgWrite (part : RegPart) (v : Word)
  /-- PAIR_ADDRESS_WRITE (R546). Sets fabric, MAC or next-hop addresses. -/
  | pairAddressWrite (r : AddrReg) (part : RegPart) (v : Word)
  /-- REGISTER_WRITE (R5). A write to a register with no behaviour of its own. -/
  | registerWrite (f : Fin 512) (off : Nat) (part : RegPart) (v : Word) (ep : Bool)
  /-- REGISTER_ACCESS_INVALID (R4). An access of wrong width or alignment has no effect and is counted. -/
  | registerAccessInvalid (f : Fin 512) (off len : Nat) (write : Bool)
  /-- BAR2_READ (R324). A host read of the Mere through PF0 BAR2. -/
  | bar2Read (off n : Nat)
  /-- BAR2_WRITE (R50). A host write of the Mere through PF0 BAR2. -/
  | bar2Write (off : Nat) (data : List Byte) (ep : Bool)
  /-- PCIE_READ_COMPLETION (R361). A read completion arrives for a device request. -/
  | pcieReadCompletion (tag f : Nat) (ok ep : Bool) (data : List Byte)
  /-- PCIE_COMPLETION_TIMEOUT (R362). A read times out and its tag is quarantined. -/
  | pcieCompletionTimeout (tag : Nat)
  /-- TAG_QUARANTINE_EXPIRY (R362). A quarantined tag is released after a further timeout. -/
  | tagQuarantineExpiry (tag : Nat)
  /-- ATS_INVALIDATION (R365). An Invalidation Request is processed and completed. -/
  | atsInvalidation (f page n : Nat)
  /-- PEER_REQUEST (R367). A request at a downstream port is routed under ACS. -/
  | peerRequest (port : Fin 64) (rid : Nat) (tr : Bool) (a n : Nat)
  /-- DPC_TRIGGER (R368). A downstream port is contained. -/
  | dpcTrigger (port : Fin 64)
  /-- DPC_RELEASE (R368). Clearing DPC Trigger Status ends containment. -/
  | dpcRelease (port : Fin 64)
  /-- VF_BUS_MASTER_DISABLE (R372). Clearing a VF's Bus Master Enable fences its Peck. -/
  | vfBusMasterDisable (f : Fin 512)
  /-- VF_FLR (R372). A function-level reset of a VF fences its Peck. -/
  | vfFlr (f : Fin 512)
  /-- VF_D3HOT (R372). Placing a VF in D3hot fences its Peck. -/
  | vfD3hot (f : Fin 512)
  /-- PF0_FENCE (R373). PF0 Bus Master clear or FLR fences the manager function. -/
  | pf0Fence (flr : Bool)
  /-- PF0_D3HOT (R370). PF0 enters D3hot and events go to the log. -/
  | pf0D3hot
  /-- D3COLD_ENTRY (R371). Rails are removed after meter close and key erasure. -/
  | d3coldEntry
  /-- D3COLD_EXIT (R371). Return to D0 boots as after a power cycle. -/
  | d3coldExit (b : BootIn)
  /-- UPSTREAM_LINK_LOSS (R374). Loss or Hot Reset of an upstream port resets its VH. -/
  | upstreamLinkLoss (vh : Fin 4) (down : Bool)
  /-- PERST_ASSERT (R553). PERST# resets the upstream port of a VH. -/
  | perstAssert (vh : Fin 4)
  /-- PF1_FENCE (R421). FLR or Bus Master clear of a PF1 VF resets its controller. -/
  | pf1Fence (p : Fin 256) (flr : Bool)
  /-- NVME_CONTROLLER_RESET (R421). CC.EN cleared resets a Peck NVMe controller. -/
  | nvmeControllerReset (p : Fin 256)
  /-- NVME_DELETE_IO_SQ (R419). Admin Delete I/O Submission Queue. -/
  | nvmeDeleteIoSq (p : Fin 256) (cid : BitVec 16) (q : BitVec 16)
  /-- NVME_CREATE_IO_SQ (R419). Admin Create I/O Submission Queue. -/
  | nvmeCreateIoSq (p : Fin 256) (cid : BitVec 16) (q : BitVec 16) (size : Nat) (base : Word) (contig : Bool) (cq : BitVec 16)
  /-- NVME_GET_LOG_PAGE (R419). Admin Get Log Page. -/
  | nvmeGetLogPage (p : Fin 256) (cid : BitVec 16) (lid : BitVec 8) (dwords : Nat) (off : Nat) (retain : Bool) (prp : List Word)
  /-- NVME_DELETE_IO_CQ (R419). Admin Delete I/O Completion Queue. -/
  | nvmeDeleteIoCq (p : Fin 256) (cid : BitVec 16) (q : BitVec 16)
  /-- NVME_CREATE_IO_CQ (R419). Admin Create I/O Completion Queue. -/
  | nvmeCreateIoCq (p : Fin 256) (cid : BitVec 16) (q : BitVec 16) (size : Nat) (base : Word) (contig ien : Bool) (vec : BitVec 16)
  /-- NVME_IDENTIFY (R419). Admin Identify. -/
  | nvmeIdentify (p : Fin 256) (cid : BitVec 16) (cns : BitVec 8) (nsid : BitVec 32) (prp : List Word)
  /-- NVME_ABORT (R419). Admin Abort. -/
  | nvmeAbort (p : Fin 256) (cid : BitVec 16) (sq target : BitVec 16)
  /-- NVME_SET_FEATURES (R419). Admin Set Features. -/
  | nvmeSetFeatures (p : Fin 256) (cid : BitVec 16) (fid : BitVec 8) (v : BitVec 32)
  /-- NVME_GET_FEATURES (R419). Admin Get Features. -/
  | nvmeGetFeatures (p : Fin 256) (cid : BitVec 16) (fid : BitVec 8)
  /-- NVME_ASYNC_EVENT_REQUEST (R419). Admin Asynchronous Event Request. -/
  | nvmeAsyncEventRequest (p : Fin 256) (cid : BitVec 16)
  /-- NVME_FLUSH (R419). I/O Flush of earlier writes. -/
  | nvmeFlush (p : Fin 256) (q cid : BitVec 16) (nsid : BitVec 32)
  /-- NVME_WRITE (R419). I/O Write to a volume namespace. -/
  | nvmeWrite (p : Fin 256) (q cid : BitVec 16) (nsid : BitVec 32) (slba : Word) (nlb : BitVec 16) (data : List Byte) (st : BitVec 16)
  /-- NVME_READ (R419). I/O Read from a volume namespace. -/
  | nvmeRead (p : Fin 256) (q cid : BitVec 16) (nsid : BitVec 32) (slba : Word) (nlb : BitVec 16) (prp : List Word)
  /-- NVME_WRITE_ZEROES (R419). I/O Write Zeroes. -/
  | nvmeWriteZeroes (p : Fin 256) (q cid : BitVec 16) (nsid : BitVec 32) (slba : Word) (nlb : BitVec 16)
  /-- NVME_DATASET_MANAGEMENT (R419). I/O Dataset Management, deallocate only. -/
  | nvmeDatasetManagement (p : Fin 256) (q cid : BitVec 16) (nsid : BitVec 32) (ad : Bool) (ranges : List (Nat × Nat)) (st : BitVec 16)
  /-- VOLUME_REQUEST_START (R413). A volume request waiting on an overlapping write proceeds. -/
  | volumeRequestStart (id : Nat)
  /-- DRIVE_COMMAND_COMPLETE (R409). A drive reports completion of a command. -/
  | driveCommandComplete (id : Nat) (err : Option (BitVec 16)) (fatal : Bool) (data : List Byte)
  /-- DRIVE_COMMAND_TIMEOUT (R410). A drive command times out and the drive fails. -/
  | driveCommandTimeout (id : Nat)
  /-- DRIVE_HOTPLUG (R408). A drive is added or removed and enumerated. -/
  | driveHotplug (port : Nat) (ident : Nat) (size : Option Nat) (added : Bool)
  /-- MIRROR_TIMEOUT (R417). No mirror reply within MIRTO degrades the volume. -/
  | mirrorTimeout (id : Nat)
  /-- WRITE (R272). A received WRITE packet is checked and placed. -/
  | write (port : Fin 16) (p : Pkt)
  /-- SEND (R280). A received SEND packet takes a buffer and is placed. -/
  | send (port : Fin 16) (p : Pkt)
  /-- READREQ (R277). A received read request is answered with READRESPs. -/
  | readreq (port : Fin 16) (p : Pkt)
  /-- READRESP (R277). A received read response is placed at the requester. -/
  | readresp (port : Fin 16) (p : Pkt)
  /-- ATOMIC (R278). A received atomic is executed once and answered. -/
  | atomic (port : Fin 16) (p : Pkt)
  /-- ATOMICRESP (R278). A received atomic response writes the old word. -/
  | atomicresp (port : Fin 16) (p : Pkt)
  /-- ACK (R285). A received ACK updates a message and congestion state. -/
  | ack (port : Fin 16) (p : Pkt)
  /-- NAK (R285). A received NAK delays or fails a message. -/
  | nak (port : Fin 16) (p : Pkt)
  /-- PROBE (R267). A received PROBE is answered by an ACK. -/
  | probe (port : Fin 16) (p : Pkt)
  /-- NEIGHBOUR_DISCOVERY (R254). An IPv6 neighbour message is handled by firmware. -/
  | neighbourDiscovery (port : Fin 16) (sol : Bool) (target : BitVec 128) (mac : BitVec 48)
  /-- ARP_REQUEST (R254). An ARP request is answered for the management address. -/
  | arpRequest (port : Fin 16) (target : BitVec 32) (own : Option (BitVec 32))
  /-- PTP_MESSAGE (R563). An IEEE 1588 message feeds the time servo. -/
  | ptpMessage (port : Fin 16) (domain ident : Nat) (m : PtpMsg)
  /-- ETH_FRAME_INVALID (R252). An oversize, bad-FCS or other frame is dropped and counted. -/
  | ethFrameInvalid (port : Fin 16)
  /-- WYM_PACING_SLOT (R287). A path's pacing slot sends the oldest eligible packet. -/
  | wymPacingSlot (i : Fin 4) (dst : BitVec 128) (path : Fin 128)
  /-- WYM_SEAL_RELEASE (R275). A sealed write is released when its scope drains. -/
  | wymSealRelease (key : Nat)
  /-- WYM_RTO_EXPIRY (R282). RTO expires and unacknowledged packets are resent. -/
  | wymRtoExpiry (key : Nat)
  /-- WYM_HORIZON_EXPIRY (R283). A message unacknowledged at H fails. -/
  | wymHorizonExpiry (key : Nat)
  /-- WYM_ACKDELAY_EXPIRY (R273). ACKDELAY passes and an ACK is sent. -/
  | wymAckdelayExpiry (i : Fin 4) (src : BitVec 128) (msgid : Word)
  /-- TRACKER_LINGER_EXPIRY (R274). A complete tracker is freed after LINGER. -/
  | trackerLingerExpiry (i : Fin 4) (src : BitVec 128) (msgid : Word)
  /-- TRACKER_IDLE_EXPIRY (R274). An idle incomplete tracker is freed. -/
  | trackerIdleExpiry (i : Fin 4) (src : BitVec 128) (msgid : Word)
  /-- RESULT_CACHE_EXPIRY (R281). A result-cache entry expires after H. -/
  | resultCacheExpiry (i : Fin 4) (src : BitVec 128) (msgid : Word)
  /-- PATH_AVOID_EXPIRY (R287). An avoided path's avoid time passes. -/
  | pathAvoidExpiry (i : Fin 4) (dst : BitVec 128) (path : Fin 128)
  /-- PATH_PROBE_TIMER (R287). An avoided path sends a PROBE per smoothed RTT. -/
  | pathProbeTimer (i : Fin 4) (dst : BitVec 128) (path : Fin 128)
  /-- WYM_HOLD_END (R290). An instance's post-reset hold of one H ends. -/
  | wymHoldEnd (i : Fin 4)
  /-- ETH_LINK_UP (R290). A port's link comes up. -/
  | ethLinkUp (port : Fin 16)
  /-- ETH_LINK_DOWN (R299). A port's link leaves UP and its packets are handed back. -/
  | ethLinkDown (port : Fin 16)
  /-- PAIR_LINK_TRAINED (R535). The pair link trains and a join attempt starts. -/
  | pairLinkTrained (low high : Bool)
  /-- PAIR_LINK_DOWN (R537). The pair link goes DOWN and the pair splits. -/
  | pairLinkDown
  /-- PAIR_LANE_ERRORS (R533). A lane over threshold takes its half out of service. -/
  | pairLaneErrors (lane : Fin 16) (errors retried poisoned : Nat)
  /-- PAIR_JOIN_RECORD (R534). A received join record is compared and may join the pair. -/
  | pairJoinRecord (r : JoinRec) (answer : Bool)
  /-- PAIR_LEAVE_FLIT (R537). A LEAVE flit from the partner splits the pair. -/
  | pairLeaveFlit (manager : Bool)
  /-- PAIR_HEARTBEAT_TIMEOUT (R537). No partner heartbeat within HBTO splits the pair. -/
  | pairHeartbeatTimeout
  /-- PAIR_HEARTBEAT_SEND (R537). A heartbeat is sent every 100 µs. -/
  | pairHeartbeatSend
  /-- PAIR_RETRY_TIMER (R536). RETRY passes and a join is retried. -/
  | pairRetryTimer
  /-- PAIR_TIME_EXCHANGE (R540). A two-way timestamp exchange adjusts secondary time. -/
  | pairTimeExchange (ps : Int)
  /-- PAIR_BARRIER_FLIT (R184). A barrier arrival or completion flit from the partner is applied. -/
  | pairBarrierFlit (u : Fin 256) (f : BarFlit)
  /-- D2D_LINK_DOWN (R20). A die-to-die link goes DOWN and the device fences all work. -/
  | d2dLinkDown (l : Fin 17)
  /-- LANE_SPARING (R19). A failing die-to-die lane is replaced by a spare. -/
  | laneSparing (l : Fin 17) (m : Fin 16) (dir : Bool) (n : LaneErrs) (lost : List (List Nat))
  /-- BOOT (R498). VDD_GUARD good starts the boot sequence. -/
  | boot (b : BootIn)
  /-- DEVICE_WARM_RESET (R525). The device performs a warm reset. -/
  | deviceWarmReset (b : BootIn)
  /-- BOARD_POWER_CYCLE (R31). The board removes and restores power. -/
  | boardPowerCycle
  /-- POWERCYCLE_REQUEST_REPEAT (R526). The power-cycle request is repeated every 1 s. -/
  | powercycleRequestRepeat
  /-- WATCHDOG_TRIP (R500). A control core's watchdog trips and the core restarts. -/
  | watchdogTrip (n : Fin 60) (held : List Nat)
  /-- PROGRESS_SAMPLE (R510). A progress counter is sampled and a hang may be declared. -/
  | progressSample (u : ProgUnit)
  /-- REPLAY_RUN (R517). The next suspect is reset and replayed alone. -/
  | replayRun (e : Fin 128)
  /-- METER_MINUTE (R342). A minute boundary closes signed meter records. -/
  | meterMinute
  /-- TAMPER_ALARM (R459). An alarm source fires and every key is erased. -/
  | tamperAlarm (src : Fin 4)
  /-- EMERG_PWR_ASSERT (R557). EMERG_PWR# low starts a power emergency. -/
  | emergPwrAssert
  /-- EMERG_THM_ASSERT (R557). EMERG_THM# low starts a thermal emergency. -/
  | emergThmAssert
  /-- EMERGENCY_CLEAR (R557). An emergency clears after its inputs recover. -/
  | emergencyClear (pwr thm : Bool)
  /-- THERMAL_SENSOR_CROSSING (R559). A sensor crosses WARN, HOT or TRIP. -/
  | thermalSensorCrossing (i : Fin 54) (t : Int)
  /-- RAIL_PG_FALL (R552). A rail-good input falls while running. -/
  | railPgFall (r : Fin 5)
  /-- ROOT_PLL_UNLOCK (R561). The root PLL loses lock and every link goes DOWN. -/
  | rootPllUnlock
  /-- PWR_SAMPLE (R555). Package power is sampled and the engine clock adjusted. -/
  | pwrSample (us100 ms1 s1 : Nat)
  /-- AVS_POLL (R551). The guard die reads VDD_CORE over AVSBus. -/
  | avsPoll (mv amps : Nat) (temp : Int)
  /-- PPS_EDGE (R565). PPS_OUT rises at a whole second of device time. -/
  | ppsEdge
  /-- HBM_SELF_REFRESH_ENTRY (R566). An HBM half enters self-refresh after 20 µs idle. -/
  | hbmSelfRefreshEntry (h : Fin 2) (enter : Bool)
  /-- ENTDAA (R542). I3C dynamic address assignment. -/
  | entdaa (da : BitVec 7)
  /-- SETNEWDA (R542). I3C sets a new dynamic address. -/
  | setnewda (da : BitVec 7)
  /-- RSTDAA (R543). I3C resets the dynamic address. -/
  | rstdaa
  /-- GETPID (R542). I3C returns the provisioned ID. -/
  | getpid
  /-- GETBCR (R542). I3C returns BCR. -/
  | getbcr
  /-- GETDCR (R542). I3C returns DCR. -/
  | getdcr
  /-- GETSTATUS (R542). I3C returns target status. -/
  | getstatus
  /-- ENEC (R545). I3C enables IBIs. -/
  | enec (b : Byte)
  /-- DISEC (R542). I3C disables IBIs. -/
  | disec (b : Byte)
  /-- GET_STATE (R544). Management command returning device state. -/
  | getState
  /-- NOTICE (R544). Management command delivering a pre-emption notice. -/
  | notice (p : Fin 256) (ms : BitVec 32)
  /-- WAKE (R544). Management command requesting wake. -/
  | wake
  /-- GET_ID (R544). Management command returning DEVID, order and role. -/
  | getId
  /-- I3C_PRIVATE_READ (R544). A private read returns the last command's status and response. -/
  | i3cPrivateRead
  /-- RESERVED_ENCODING (R93). A context fetches a byte sequence whose prefix, opcode or escape byte is reserved and faults with ST_UNDEFINED_OPCODE. -/
  | reservedEncoding (c : CtxId)
  /-- FETCH_FAULT (R116). The fetch at a context's PC fails its handle, bounds or tag check before any opcode is known, for example after a branch outside the code region. -/
  | fetchFault (c : CtxId)
  /-- CPY_REFUSED (R172). A cpy whose descriptor is POISON, mis-tagged or names a reserved OP faults and queues nothing. -/
  | cpyRefused (c : CtxId) (ord : Bool) (q : Fin 4) (h : HReg) (a : SReg)
  /-- COLLECTIVE_REFUSED (R198). A COLLECTIVE request whose record is refused before a valid OP is known, or names a reserved OP, completes with its refusal status. -/
  | collectiveRefused (id : Nat)
  /-- CIPHER_COMMAND_REFUSED (R463). A cipher command with a reserved OP or failing its checks before its mode is known completes with a failure status and no output. -/
  | cipherCommandRefused (p : Fin 256) (q : Fin 4)
  /-- MALFORMED_PACKET (R266). A received Wymoug packet with a wrong major version, reserved TYPE or nonzero reserved field is dropped and counted in WYM_MALFORMED. -/
  | malformedPacket (port : Fin 16) (p : Pkt)
  /-- NVME_INVALID_OPCODE (R419). A PF1 controller command with an opcode, feature, log page or CNS not supported completes with Invalid Command Opcode or Invalid Field in Command. -/
  | nvmeInvalidOpcode (p : Fin 256) (q cid : BitVec 16) (field : Bool)
  /-- I3C_RESERVED_COMMAND (R544). A private write with a reserved command byte sets the status ST_UNDEFINED_OPCODE for the next private read. -/
  | i3cReservedCommand
  /-- PCIE_LINK_TRAINED (R350). A PCIe port's link trains to UP at a rate and width, so that DEVCTL_PORTSTAT changes and a pending DEVCTL_PORTCFG takes effect. -/
  | pcieLinkTrained (port : Fin 64) (rate width : Nat) (flit : Bool)
  /-- PERST_DEASSERT (R553). Deassertion of PERST# for a VH lets its upstream port train and starts the Request Retry Status window. -/
  | perstDeassert (vh : Fin 4)
  /-- NVME_CONTROLLER_ENABLE (R418). A host sets CC.EN of a Peck's PF1 controller and the controller becomes ready. -/
  | nvmeControllerEnable (p : Fin 256) (asq acq : Word) (asqs acqs : Nat)
  /-- ALARM_SOURCE_CLEARED (R460). A tamper source's condition ends and its LIVE bit clears, allowing latched bits to be cleared and slots to be loaded again. -/
  | alarmSourceCleared (src : Fin 4)
  /-- QUIESCE_WAIT_EXPIRY (R332). The WAIT of a PECK_QUIESCE runs out and the Peck's work items not yet complete are fenced with ST_FENCED. -/
  | quiesceWaitExpiry (p : Fin 256)
  /-- PECK_RESET_DONE (R332). A Peck reset finishes its fences and zeroing and the Peck moves from RESETTING to QUIESCED. -/
  | peckResetDone (p : Fin 256)
  /-- PECK_REMOVE_DONE (R332). A Peck removal finishes and the Peck moves from REMOVING to FREE. -/
  | peckRemoveDone (p : Fin 256)
  /-- ANNOUNCE_RECEIPT_TIMEOUT (R563). The PTP announce receipt timeout expires and the time receiver loses its selected transmitter. -/
  | announceReceiptTimeout
  /-- PTP_DELAY_REQUEST (R563). The time receiver sends its periodic two-step delay request or peer-delay request. -/
  | ptpDelayRequest
deriving DecidableEq, Repr

end Sys2Proof
end

