-- ==== Sys2Proof/Decode.lean ====
section
/-!
DEFINITION. The command that a word spells by the bits of the opcode table. The table of this hardware gives no row any bits (its commands are
writes, operations and events), so no word spells a command. The instructions of the engines are decoded in Machine/Sorryn.lean.
-/

namespace Sys2Proof

def decodeTableWord (_nbits _w : Nat) : Option Instr := none

end Sys2Proof
end

