-- ==== Sys2Proof/Config.lean ====
section
/-!
DEFINITION. What the manual leaves open: values it does not state. Each is an opaque constant without a body, so that nothing
can evaluate it; a statement about one holds for every value of it.
-/

namespace Sys2Proof

/-- Values that the manual leaves open, applied to a counter of the state that the step advances (assumption 3). -/
opaque Config.freeWord : Nat → Word

/-- Bytes of the NVMe Identify and log pages that the manual does not state: by page (CNS, or 256 + log identifier), Peck and offset
(assumption 40). -/
opaque Config.nvmeByte : Nat → Nat → Nat → Byte

/-- The private halves of the device key pairs IMPORT and SIGN, which the guard die derives from its fused secret and never releases (R452,
assumption 60). -/
opaque Config.importKey : Nat
opaque Config.signKey : Nat

/-- The provisioned ID, DEVID (R453, R541). -/
opaque Config.devId : BitVec 48

/-- The device's certificate chain: its length and its bytes (R453). -/
opaque Config.certLen : Nat
opaque Config.certByte : Nat → Byte

/-- The SIGN public key of the pair partner (R491). -/
opaque Config.peerSignX : Nat
opaque Config.peerSignY : Nat

/-- Digests of the factory firmware bundle's components, by TYPE and byte (R497). -/
opaque Config.fwDigest : Nat → Nat → Byte

/-- The public half of the Nankoben firmware key, whose digest is fused (R497). -/
opaque Config.fwPubX : Nat
opaque Config.fwPubY : Nat

/-- The word line, column or row that holds an address, within its unit (R438), and the further Gills and Grains that a column or row covers
(R440, assumption 80). -/
opaque Config.lineOf : Nat → Nat
opaque Config.gillsOfCol : Nat → List Nat
opaque Config.grainsOfRow : Nat → List Nat

/-- The ordering code: a UM9220-L in place of a UM9220-A (R8, R356). -/
opaque Config.lowPower : Bool

/-- The fused voltage-frequency table: 5 mV steps above 0.65 V for each n (R551, assumption 82). -/
opaque Config.vfSteps : Nat → Nat

/-- Whether firmware holds redundant state for a word of its reserve (R437, assumption 81). -/
opaque Config.fwRedundant : Nat → Bool

/-- Register fields that the manual leaves to the device at hand: the reference clock's presence (R571) and CAP.TO of the NVMe controllers
(R418), by offset; and the silicon stepping (R356); assumption 83. -/
opaque Config.regOpen : Nat → Word
opaque Config.stepping : Byte

end Sys2Proof
end

