-- ==== Sys2Proof/Machine/Tbl.lean ====
section
/-!
DEFINITION. Sparse tables: a list of key and value pairs in one canonical form (keys strictly rising, no entry equal to
what an unlisted key reads as). Register files, memories and device tables are held this way, so that equal contents are
equal lists. The mendable operations are here; their laws are in `Laws/Tbl.lean`.
-/

namespace Sys2Proof.Machine

/-- The value at key `k`; `d` where the table lists none. -/
def tblGet {α : Type} (d : α) : List (Nat × α) → Nat → α
  | [], _ => d
  | (j, v) :: t, k => if j = k then v else tblGet d t k

/-- The table without any entry at `k`. -/
def tblErase {α : Type} : List (Nat × α) → Nat → List (Nat × α)
  | [], _ => []
  | (j, v) :: t, k => if j = k then tblErase t k else (j, v) :: tblErase t k

/-- Insert an entry before the first larger key. -/
def tblInsert {α : Type} : List (Nat × α) → Nat → α → List (Nat × α)
  | [], k, v => [(k, v)]
  | (j, w) :: t, k, v => if k < j then (k, v) :: (j, w) :: t else (j, w) :: tblInsert t k v

/-- Set key `k` to `v`; writing the default `d` removes the entry. -/
def tblSet {α : Type} [DecidableEq α] (d : α) (t : List (Nat × α)) (k : Nat) (v : α) : List (Nat × α) :=
  if v = d then tblErase t k else tblInsert (tblErase t k) k v

/-- Apply `f` to the value at key `k`. -/
def tblUpd {α : Type} [DecidableEq α] (d : α) (t : List (Nat × α)) (k : Nat) (f : α → α) : List (Nat × α) :=
  tblSet d t k (f (tblGet d t k))

/-- Every key from `lo` up to, but not including, `hi` reads as the default again. -/
def tblClear {α : Type} (t : List (Nat × α)) (lo hi : Nat) : List (Nat × α) :=
  t.filter fun e => decide (e.1 < lo) || decide (hi ≤ e.1)

/-- The keys of a table are all at least `lo` and strictly rising, and no entry equals the default. -/
def tblWfFrom {α : Type} [DecidableEq α] (d : α) : Nat → List (Nat × α) → Bool
  | _, [] => true
  | lo, (k, v) :: t => decide (lo ≤ k) && decide (v ≠ d) && tblWfFrom d (k + 1) t

/-- The canonical form of a table. -/
def tblWf {α : Type} [DecidableEq α] (d : α) (t : List (Nat × α)) : Bool := tblWfFrom d 0 t

end Sys2Proof.Machine
end

