-- ==== Sys2Proof/Machine/State.lean ====
section
/-!
DEFINITION. The state of the UM9220: everything the manual gives the device, as plain data, block by block, and
`State.reset`.
-/

namespace Sys2Proof.Machine

/-! ## Status codes, completion and event records -/

/-- The status of an item, copy, message or fault (R398, R222, R248, R317 and the chapters' own ranges), by its 16-bit
code. -/
abbrev Status := BitVec 16

/-! ## Memory -/

/-- The device-internal memory (R27): data bytes by address, 0 where unlisted, and the tag of each 64-bit word by word
number (address ÷ 8), NIL where unlisted (R42). Both tables are in canonical form. -/
structure Memory where
  data : List Host.Cell
  tags : List (Nat × Tag)
deriving DecidableEq, Repr

/-- Memory with every word zero and NIL (R42). -/
def Memory.empty : Memory := ⟨[], []⟩

/-- The canonical form of memory: both tables strictly rising and without default entries. -/
def Memory.wf (m : Memory) : Bool := tblWf (0 : Byte) m.data && tblWf Tag.nil m.tags

/-! ## Region table and handles -/

/-- The kinds of region a handle may name (R335). -/
inductive HKind where
  | local_ | host | accel | remote | volume
deriving DecidableEq, Repr

/-- A region-table entry (R325): in use or free, its kind, owner, range, maximum rights, generation, parent and
retirement (R338). -/
structure Region where
  used    : Bool
  retired : Bool
  kind    : HKind
  peck    : BitVec 8
  base    : Word
  len     : Word
  rights  : BitVec 8
  gen     : BitVec 16
  parent  : Option Nat
  /-- a derived entry's parent generation -/
  pgen    : BitVec 16
  /-- what a mint records beside the range: the ACCEL lane group, the SA, target and queue of a REMOTE region as BASE names
  them, or the volume number (R335) -/
  aux     : Word
  /-- REMOTE: the key, index [23:0] and generation [39:24], and the fabric address of the destination device -/
  rkey    : BitVec 40
  raddr   : BitVec 128
deriving DecidableEq, Repr

/-- A free entry at generation 0 (R325). -/
def Region.free : Region := ⟨false, false, .local_, 0, 0, 0, 0, 0, none, 0, 0, 0, 0⟩

/-- A region resolved at issue: the checks made then hold for the whole operation (R118, R174, R387). -/
structure Loc where
  index : Nat
  gen   : BitVec 16
  kind  : HKind
  base  : Word
  len   : Word
  aux   : Word
  rkey  : BitVec 40
  raddr : BitVec 128
deriving DecidableEq, Repr

/-! ## Contexts and engines -/

/-- What a V register's format tag holds (R97). -/
inductive VTag where
  | fmt (f : Fmt)
  | poison
  | nil
deriving DecidableEq, Repr

/-- A V register: 128 lanes of 32 bits, the 32-byte scale field and the format tag (R56, R97). -/
structure VVal where
  lanes : BitVec 4096
  scale : BitVec 256
  tag   : VTag
deriving DecidableEq, Repr

/-- The start value of a V register (R95). -/
def VVal.zero : VVal := ⟨0, 0, .nil⟩

/-- An exact accumulator (R67). -/
structure XAcc where
  mag     : BitVec 320
  sign    : Bool
  cnt     : BitVec 44
  nan     : Bool
  pinf    : Bool
  ninf    : Bool
  allneg0 : Bool
  limit   : Bool
  /-- an uncorrectable error struck it (R434): reading it gives ST_POISON until xclr, xld or xmov writes it -/
  poison  : Bool
deriving DecidableEq, Repr

/-- The reset or cleared accumulator (R67). -/
def XAcc.clear : XAcc := ⟨0, false, 0, false, false, false, true, false, false⟩

/-- The states of a resident context slot: CST.STATE (R100), and a slot that holds no context (R190). -/
inductive CtxState where
  | free | ready | running | waitSem | waitBar | waitCopy | halted | faulted
deriving DecidableEq, Repr

/-- What a waiting context waits for (R157). -/
inductive Wait where
  | none
  /-- the event has come: the context may become READY -/
  | done
  /-- an ordered-prefix instruction waits for the context's earlier copies (R89) -/
  | order
  /-- the copy issued by an ordered cpy (R89) -/
  | ordCopy (id : Nat)
  /-- a free entry of a copy queue (R143) -/
  | queue (q : Nat)
  /-- cpywait on a queue (R144) -/
  | cpywait (q : Nat)
  /-- fence (R147) -/
  | fence
  /-- an accumulator still occupied by an earlier instruction (R138) -/
  | acc (n : Nat)
  /-- sem.wait on a semaphore (R145) -/
  | sem (n : Nat)
  /-- the current phase of a barrier unit; `again` when the instruction then arrives anew (R146) -/
  | bar (unit : Nat) (again : Bool)
deriving DecidableEq, Repr

/-- A copy status word (R176). -/
structure CpyStat where
  status   : Status
  errcount : BitVec 8
  seq      : BitVec 8
  faultoff : BitVec 32
deriving DecidableEq, Repr

def CpyStat.clear : CpyStat := ⟨0, 0, 0, 0⟩

/-- Where a work item was submitted: the function (0 the manager, else the Peck), the ring and the item's own number in
the device's store (R384). -/
abbrev ItemId := Nat

/-- A resident context slot: the architectural state of R95 and what its start record fixed (R163). -/
structure Ctx where
  state    : CtxState
  wait     : Wait
  fault    : Status
  repidx   : BitVec 8
  peck     : BitVec 8
  isa      : BitVec 4
  replay   : Bool
  s        : List (Nat × TWord)
  v        : List (Nat × VVal)
  m        : List (Nat × BitVec 128)
  h        : List (Nat × TWord)
  flg      : Word
  pc       : Word
  srkey    : Word
  srstream : BitVec 32
  srstep   : Word
  /-- the context's code handle, held in no H register (R94) -/
  code     : Word
  /-- quarter engine cycles counted when the context started (SYS_CYCLES, R104) -/
  cyc0     : Nat
  /-- length of the instruction a waiting context has issued -/
  ilen     : Nat
  /-- the work item that started the context -/
  item     : Option ItemId
  /-- copy status words of the four queues (R176) -/
  cpystat  : List (Nat × CpyStat)
  /-- copies issued so far on each queue (R176, SEQ) -/
  cpyseq   : List (Nat × Nat)
  /-- barrier units on which the slot's last arrival is in the unit's current phase (R146) -/
  arrived  : List (Nat × Bool)
  /-- halt value (R154) -/
  result   : Word
  /-- SAVE region of the start record (R163) -/
  save     : Option Loc
  replayable : Bool
  /-- status that a reset or fence of one of its copies imposes on the item (R574) -/
  cpyFence : Status
  /-- the start record's location, read again by a replay (R517) -/
  start    : List TWord
  /-- waiting on a barrier unit that spans the pair, or held by recovery (R515): not issued -/
  held     : Bool
deriving DecidableEq, Repr

/-- A free slot: registers as at context start, no context. -/
def Ctx.free : Ctx :=
  { state := .free, wait := .none, fault := 0, repidx := 0, peck := 0, isa := 0, replay := false, s := [], v := [],
    m := [], h := [], flg := 0, pc := 0, srkey := 0, srstream := 0, srstep := 0, code := 0, cyc0 := 0, ilen := 0,
    item := none, cpystat := [], cpyseq := [], arrived := [], result := 0, save := none, replayable := false,
    cpyFence := 0, start := [], held := false }

/-- The operations of a copy descriptor (R171). -/
inductive CopyOp where
  | copy | copy2d | fill
deriving DecidableEq, Repr

/-- Which service waits for an access, message or drive request. -/
inductive User where
  | none
  /-- a copy: engine, queue and copy number -/
  | copy (eng queue id : Nat)
  /-- a ring item -/
  | item (id : Nat)
  /-- a piece of a collective: collective number and piece -/
  | coll (c k : Nat)
  /-- an NVMe command: Peck, queue, command identifier and slot -/
  | nvme (p q cid : Nat)
  /-- a feed of a Peck -/
  | feed (p f : Nat)
  /-- a checkpoint of a Peck, and which of its units or records -/
  | ckpt (p n : Nat)
  /-- the mirror of a volume request, or the reply to one -/
  | mirror (v n : Nat)
  /-- a write that a mirror device makes for an origin: volume and request number (R416) -/
  | reply (v n : Nat)
  /-- the answer to a READREQ whose bytes lie outside the device: its number -/
  | resp (n : Nat)
  /-- a read that a service makes: its number -/
  | svc (n : Nat)
  /-- the decode step of a sequence: 0 its input, 1 its KV rows -/
  | gen (q k : Nat)
  /-- a move of a KV page: its number, and 0 its reading or 1 its writing -/
  | kv (n k : Nat)
deriving DecidableEq, Repr

/-- The progress of a queued copy (R169). -/
inductive CopyPhase where
  | queued | moving | done
deriving DecidableEq, Repr

/-- A copy between issue and completion (R169, R170). -/
structure Copy where
  id      : Nat
  slot    : Nat
  seq     : Nat
  ordered : Bool
  op      : CopyOp
  imp     : Tag
  sig     : Bool
  sealed  : Bool
  sem     : Nat
  ordgrp  : BitVec 16
  src     : Option Loc
  srcOff  : Word
  dst     : Loc
  dstOff  : Word
  len     : Nat
  rows    : Nat
  sigval  : BitVec 32
  sstride : Nat
  dstride : Nat
  phase   : CopyPhase
  /-- requests, messages or drive requests still outstanding -/
  open_   : Nat
  /-- reads still to be issued, offset in the copy and length (R360) -/
  todo    : List (Nat × Nat)
  /-- bytes read from an external source for an external destination, by offset in the copy -/
  buf     : List (Nat × Byte)
  /-- the source of an external-to-external copy is still being read -/
  reading : Bool
  status  : Status
  fault   : BitVec 32
  /-- address of the word that `fault` names, for a failure that is of a word (R177) -/
  wordAt  : Option Nat
  /-- parts of the destination being written, position and length, and the bytes moved so far (R188) -/
  parts   : List (Nat × Nat)
  moved   : Nat
  /-- a write's number in the order in which the device accepted writes (R275) -/
  wr      : Nat
deriving DecidableEq, Repr

/-- A checked copy of a slot that waits for an entry of copy queue `q`, and whether its cpy is ordered (R157, R174). -/
structure QWait where
  slot : Nat
  q    : Nat
  ord  : Bool
  copy : Copy
deriving DecidableEq, Repr

/-- A waiter of a semaphore (R145): slot, semaphore, value. -/
structure SemWaiter where
  slot : Nat
  sem  : Nat
  need : Word
deriving DecidableEq, Repr

/-- An engine: its slots and the resources its contexts share (R155), its ownership and its counters (R188). -/
structure Engine where
  peck      : BitVec 8
  avail     : Bool
  resetting : Bool
  /-- failed rows that the pending row test will find (R25, R439) -/
  badRows   : Nat
  /-- a Pool word line failed with no spare left: the engine is withdrawn at its next reset (R440) -/
  poolBad   : Bool
  ctxs      : List (Nat × Ctx)
  xs        : List (Nat × XAcc)
  /-- accumulators occupied by an earlier instruction (R138) -/
  occ       : BitVec 16
  sems      : List (Nat × Word)
  semQ      : List SemWaiter
  queues    : List (Nat × List Copy)
  /-- copies waiting for an entry of a copy queue, in the order in which they began to wait (R157) -/
  queueQ    : List QWait
  retired   : Word
  cpybytes  : Word
  cpyerr    : Word
  /-- copy progress: parts moved and copies completed (R510) -/
  progress  : Nat
deriving DecidableEq, Repr

/-- An engine at reset: available, unassigned, every slot free (R190). -/
def Engine.reset : Engine :=
  { peck := 0, avail := true, resetting := false, badRows := 0, poolBad := false, ctxs := [], xs := [], occ := 0, sems := [],
    semQ := [], queues := [], queueQ := [], retired := 0, cpybytes := 0, cpyerr := 0, progress := 0 }

/-- A barrier unit (R192): unit numbers 0 to 255 are the device units, 256 + 16c + u the unit u of cluster c. -/
structure Barrier where
  peck    : BitVec 8
  pair    : Bool
  count   : BitVec 12
  phase   : BitVec 16
  arrived : BitVec 12
  /-- a COUNT write held until the phase completes (R185) -/
  held    : Option (BitVec 12)
  /-- arrivals of the partner counted in the current phase of a pair-wide unit (R184) -/
  remote  : BitVec 12
  /-- the pair has split: every bar instruction on the unit faults (R184) -/
  split   : Bool
  /-- the partner's PAIR, PECK and COUNT for the unit, as its last flit gave them (R184, R539) -/
  mate    : Option (Bool × BitVec 8 × BitVec 12)
deriving DecidableEq, Repr

/-- The reset value of ENG_DBAR and ENG_CBAR (R188). -/
def Barrier.reset : Barrier := ⟨0, false, 1, 0, 0, none, 0, false, none⟩

/-! ## Functions, records, Springs, rings and items -/

/-- An MSI-X vector of a function (R369): its table entry and pending bit. -/
structure Vec where
  addr    : Word
  data    : BitVec 32
  mask    : Bool
  pending : Bool
deriving DecidableEq, Repr

def Vec.reset : Vec := ⟨0, 0, true, false⟩

/-- A PCI Express function: 0 is PF0 of VH 0, 1 to 255 the device-global VFs of PF0, 256 is PF1 and 257 to 511 the VFs of
PF1, 512 + v the satellite PF0 of VH v (R351 to R354). -/
structure Fn where
  enabled : Bool
  bme     : Bool
  d3      : Bool
  msixEn  : Bool
  fmask   : Bool
  pmeEn   : Bool
  /-- Max_Payload_Size and Max_Read_Request_Size in force, bytes (R360) -/
  mps     : Nat
  mrrs    : Nat
  /-- completion timeout of the function's reads, µs (R362) -/
  cto     : Nat
  ats     : Bool
  /-- AER status: Poisoned TLP Received, Completion Timeout, Unexpected Completion (R362, R436) -/
  aerPoison : Bool
  aerTimeout : Bool
  aerUnexp : Bool
  vecs    : List (Nat × Vec)
deriving DecidableEq, Repr

/-- The kinds of function (R351, R352). -/
inductive FnKind where
  | manager | satellite | vf0 | pf1 | vf1
deriving DecidableEq, Repr

/-- A BAR (R353): the function, the BAR's number, its size, and whether it is prefetchable. Each is 64-bit. -/
structure BarSpec where
  fn    : FnKind
  bar   : Nat
  size  : Nat
  pref  : Bool
deriving DecidableEq, Repr

/-- A function at reset (PCI Express: Bus Master and MSI-X Enable clear, D0). -/
def Fn.reset : Fn := ⟨false, false, false, false, false, false, 128, 512, 40000, false, false, false, false, []⟩

/-- A 32-byte record (R391), without the PHASE and OVF flags, which depend on where it is written. -/
structure Rec where
  kind   : Nat
  byte3  : BitVec 8
  status : BitVec 16
  typ    : BitVec 16
  w1     : Word
  w2     : Word
  w3     : Word
deriving DecidableEq, Repr

/-- A Spring (R392 to R394): its configuration, indices, hold and moderation. -/
structure Spring where
  en      : Bool
  events  : Bool
  log2    : Nat
  vector  : Nat
  count   : Nat
  delay   : Nat
  /-- where records go: IOVA in the function's host memory, and the region whose staleness disables the Spring -/
  base    : Word
  loc     : Option Loc
  pi      : BitVec 32
  ci      : BitVec 32
  /-- records held, oldest first (R392) -/
  hold    : List Rec
  /-- the next record written carries OVF -/
  ovf     : Bool
  /-- records written since the last signal, and when the first of them was written (R394) -/
  unsig   : Nat
  first   : Option Nat
deriving DecidableEq, Repr

def Spring.reset : Spring := ⟨false, false, 0, 0, 0, 0, 0, none, 0, 0, [], false, 0, none⟩

/-- A submission ring (R380): slots hold descriptor words by slot × 8 + word. -/
structure Ring where
  en     : Bool
  log2   : Nat
  offset : Nat
  pi     : BitVec 32
  ci     : BitVec 32
  error  : Bool
  words  : List (Nat × TWord)
  /-- items before PI that an ABORT completed while undispatched (R396) -/
  gone   : List (BitVec 32)
  /-- values that doorbells gave PI, and when, as long as their items wait (R246, R249) -/
  bells  : List (BitVec 32 × Nat)
deriving DecidableEq, Repr

def Ring.reset : Ring := ⟨false, 0, 0, 0, 0, false, [], [], []⟩

/-- A handle reference as read at dispatch (R387): its status, the handle word and the region it names. -/
structure Ref where
  st  : Status
  h   : Word
  loc : Loc
deriving DecidableEq, Repr

/-- How far a dispatched item has come (R396, R397). -/
inductive ItemPhase where
  /-- accepted, waiting for a resource: a start request for a free slot (R165) -/
  | waiting
  /-- dispatched, its own checks not yet made -/
  | dispatched
  /-- accepted and running, not committed -/
  | active
  /-- committed: an abort comes too late -/
  | committed
deriving DecidableEq, Repr

/-- A dispatched item in the device's store (R384). -/
structure Item where
  id      : ItemId
  fn      : Nat
  ring    : Nat
  tag     : Word
  typ     : BitVec 16
  spring  : Nat
  /-- words 2 to 7 of the descriptor as read at dispatch -/
  body    : List Word
  /-- the handle references resolved at dispatch, in body order (R387) -/
  refs    : List Ref
  phase   : ItemPhase
  /-- a WYM_SEND's number in the order in which the device accepted writes (R275) -/
  wr      : Nat
  /-- parts outstanding of an item whose work is read, sent or copied in parts, its first failure, and what was read -/
  open_   : Nat
  st      : Status
  buf     : List (Nat × Byte)
  /-- device time of the doorbell that submitted it -/
  t0      : Nat
deriving DecidableEq, Repr

/-- What leaves the device: the model's own record of its outputs, newest first. -/
inductive Out where
  /-- a memory write request in a function's host memory, with the function's Routing ID (R351); `ep` is the poison bit -/
  | hostWrite (fn rid : Nat) (iova : Word) (data : List Byte) (ep : Bool)
  /-- a memory read request in a function's host memory, under a device tag -/
  | hostRead (tag : Nat) (fn rid : Nat) (iova : Word) (len : Nat)
  /-- requests to an accelerator, with the Routing ID of the Peck's VF of PF0 -/
  | accelWrite (rid group : Nat) (addr : Word) (data : List Byte) (ep : Bool)
  | accelRead (tag rid group : Nat) (addr : Word) (len : Nat)
  /-- an MSI-X message with the address and data of its table entry (R369) -/
  | msix (fn : Nat) (vec : Nat) (addr : Word) (data : BitVec 32)
  /-- a completion the device returns to a requester: data bytes and the poison bit -/
  | completion (data : List Byte) (ep : Bool)
  /-- a completion with an error status: Unsupported Request or Completer Abort -/
  | completionError (code : Nat)
  /-- a message of a named kind with its fields: ATS, PME, AER and pin events -/
  | signal (what : String) (args : List Nat)
  /-- an Ethernet frame sent on a port -/
  | frame (port : Nat) (what : String) (vlan : Option (BitVec 12)) (dscp : BitVec 6) (fields : List Nat) (data : List Byte)
  /-- a flit sent to the partner on the pair link -/
  | flit (what : String) (fields : List Nat)
  /-- a command sent to an NVMe drive -/
  | drive (drive : Nat) (cmd : Nat) (op : Nat) (lba : Nat) (blocks : Nat) (payload : List Byte)
  /-- bytes returned, or an in-band interrupt raised, on the management bus -/
  | i3c (what : String) (data : List Byte)
deriving DecidableEq, Repr

/-- An outstanding non-posted request of the device (R360, R362). -/
structure ReadReq where
  tag   : Nat
  group : Nat
  fn    : Nat
  iova  : Word
  len   : Nat
  user  : User
  /-- offset of the request in its user's range -/
  off   : Nat
  sent  : Nat
  /-- the tag is quarantined after a timeout, until this time (R362) -/
  quar  : Option Nat
  /-- a request for a HOST region (R362) -/
  host  : Bool
deriving DecidableEq, Repr

/-- A latent error of a memory word: the flips of its data, row and column check bits and tag code (R430). -/
structure ErrPat where
  data : Word
  row  : BitVec 8
  col  : BitVec 8
  tag  : BitVec 8
deriving DecidableEq, Repr

def ErrPat.none : ErrPat := ⟨0, 0, 0, 0⟩

/-- A cipher command queue of a Peck (R461): its header in LOCAL memory, the indices the device holds, and whether an
out-of-range PI has stopped it. -/
structure CipherQ where
  en      : Bool
  base    : Nat
  log2    : Nat
  pi      : Word
  ci      : Word
  stopped : Bool
deriving DecidableEq, Repr

def CipherQ.reset : CipherQ := ⟨false, 0, 0, 0, 0, false⟩

/-! ## Pecks (R327 to R346) -/

/-- The states of a Peck (R327). -/
inductive PeckState where
  | free | active | quiescing | quiesced | disabled | resetting | removing
deriving DecidableEq, Repr

/-- The counts of a meter interval (R343). -/
structure Meter where
  seq     : Nat
  start   : Nat
  engus   : Nat
  tx      : List (Nat × Nat)
  rx      : Nat
  crypto  : Nat
  storrd  : Nat
  storwr  : Nat
  storops : Nat
  prev    : BitVec 384
  fresh   : Bool
  gap     : Bool
  stepped : Bool
  /-- device time up to which engine time is counted, ns; `engus` counts ns -/
  engAt   : Nat
deriving DecidableEq, Repr

def Meter.reset : Meter := ⟨0, 0, 0, [], 0, 0, 0, 0, 0, 0, true, false, false, 0⟩

/-- A Peck: its state and functions, quotas, holdings as bit masks, dirty log and meter. -/
structure Peck where
  state    : PeckState
  vf0      : Nat
  vf1      : Nat
  roots    : Nat
  trk      : Nat
  cache    : Nat
  grains   : Nat
  gills    : Nat
  keys     : Nat
  eps      : Nat
  logging  : Bool
  logovf   : Bool
  logBase  : Word
  logLog2  : Nat
  logwr    : BitVec 32
  logrd    : BitVec 32
  /-- pages already logged since the manager last wrote PECK_LOGRD -/
  filter   : List Nat
  exported : Bool
  imported : Bool
  meter    : Meter
  /-- an event was dropped: the Peck's next record carries OVF (R395) -/
  ovf      : Bool
  /-- the running PECK_QUIESCE and its deadline -/
  quiesce  : Option (ItemId × Nat)
  /-- the PECK_RESET or PECK_REMOVE in progress; none while firmware resets the Peck itself -/
  doing    : Option ItemId
  /-- the Peck was disabled by a fence of its VF: its work completes with ST_FENCED (R372) -/
  fenced   : Bool
deriving DecidableEq, Repr

/-- No Peck (R327). -/
def Peck.reset : Peck :=
  { state := .free, vf0 := 0, vf1 := 0, roots := 0, trk := 0, cache := 0, grains := 0, gills := 0, keys := 0, eps := 0,
    logging := false, logovf := false, logBase := 0, logLog2 := 0, logwr := 0, logrd := 0, filter := [], exported := false,
    imported := false, meter := Meter.reset, ovf := false, quiesce := none, doing := none, fenced := false }

/-! ## Key slots (R448) -/

inductive KeyState where
  | empty | loaded | erased
deriving DecidableEq, Repr

/-- A key slot: its attributes, its key bytes, which no command returns, and whether KEY_EXHAUSTED has been raised since LIMIT
last rose above COUNT (R451). -/
structure KeySlot where
  state  : KeyState
  /-- 0 none, 1 IMPORTED, 2 GENERATED, 3 MIGRATED -/
  origin : Nat
  kind   : Nat
  use    : BitVec 8
  peck   : Nat
  count  : Nat
  limit  : Nat
  key    : List Byte
  warned : Bool
  /-- a KEY_ERASE waits for invocations already reserved (R458) -/
  erasing : Bool
deriving DecidableEq, Repr

def KeySlot.reset : KeySlot := ⟨.empty, 0, 0, 0, 0, 0, 0xFFFFFFFFFFFFFFFF, [], false, false⟩

/-! ## Wymoug transport (R251 to R295) -/

/-- The arm state of a region-table entry (R258): security association, remote rights RD, WR, ATOM, and import tag. -/
structure Arm where
  sa     : Nat
  rights : BitVec 3
  imp    : Tag
deriving DecidableEq, Repr

inductive MsgKind where
  | write | send | read | atomic
deriving DecidableEq, Repr

/-- Where a message's payload lies. -/
inductive MsgSrc where
  /-- device memory, read when a packet is chosen (R299) -/
  | mem (addr : Nat)
  /-- bytes already read from an external source -/
  | bytes (l : List Byte)
  /-- a SEND: IMM, then device memory -/
  | send (imm : Word) (addr : Nat)
  /-- a SEND: IMM, then bytes already read -/
  | sendBytes (imm : Word) (l : List Byte)
  | none
  | atomic (op : Nat) (a b : Word)
deriving DecidableEq, Repr

/-- What a packet of a message is doing. -/
inductive PktPhase where
  | ready
  /-- released by pacing to the scheduler queue of a path's port (R288) -/
  | queued
  /-- sent, with its number on its path -/
  | flight (seq : Nat)
deriving DecidableEq, Repr

/-- A packet of a message not yet acknowledged. -/
structure MsgPkt where
  phase : PktPhase
  path  : Nat
  /-- time of its last transmission, or until when a BUSY holds it -/
  sent  : Nat
  tried : Bool
  /-- later packets of its path acknowledged before it (R287) -/
  later : Nat
deriving DecidableEq, Repr

/-- A message of a sending instance (R270). -/
structure Msg where
  key    : Nat
  /-- its instance; 4 while no instance has a port up -/
  inst   : Nat
  /-- the engine or ring in whose turn it is dealt (R257) -/
  dealer : Nat
  kind   : MsgKind
  peck   : Nat
  sa     : Nat
  queue  : Nat
  /-- fabric address of the receiver instance -/
  dst    : BitVec 128
  rkey   : BitVec 40
  ordgrp : BitVec 16
  roff   : Word
  len    : Nat
  psize  : Nat
  /-- number of the write in its ordering scope (R275) -/
  wr     : Option Nat
  /-- flagged SEAL -/
  sealed : Bool
  /-- still held under R275 -/
  held   : Bool
  coll   : Option (BitVec 32 × Word)
  user   : User
  off    : Nat
  src    : MsgSrc
  /-- a packet of it has been released, which fixes its destination (R257) -/
  begun  : Bool
  /-- the paths that its packets have taken (R282) -/
  paths  : List Nat
  /-- its number, given at its first transmission (R270) -/
  msgid  : Option Nat
  /-- time of its first transmission -/
  t0     : Option Nat
  acked  : Nat
  pkts   : List (Nat × MsgPkt)
deriving DecidableEq, Repr

/-- A receiver's message tracker (R271). -/
structure Trk where
  src    : BitVec 128
  msgid  : Word
  peck   : Nat
  npkt   : Nat
  bits   : Nat
  last   : Nat
  done   : Option Nat
  /-- packets since the last ACK, and the arrival of the first of them (R273) -/
  since  : Nat
  first  : Option Nat
  /-- the packet that an ACK would answer, and its arrival -/
  pkt    : Pkt
  at_    : Nat
  port   : Nat
deriving DecidableEq, Repr

/-- A posted receive buffer (R279, R280). -/
structure Post where
  loc    : Loc
  off    : Word
  len    : Nat
  cookie : Word
  imp    : Tag
  spring : Nat
deriving DecidableEq, Repr

/-- What a result-cache entry remembers (R281). -/
inductive CacheKind where
  | atomic (st : Status) (old : Word)
  | send (buf : Post) (ep : Nat) (imm : Word) (bits : Nat) (short : Bool) (evented : Bool)
  /-- a SEND to an endpoint of the storage service: its bytes so far, by offset (R416) -/
  | mail (ep : Nat) (bits : Nat) (got : List (Nat × Byte))
deriving DecidableEq, Repr

/-- An entry of the result cache: the sender's address, its message, the Peck it counts against, when it was made and what it remembers (R281). -/
structure CacheEnt where
  src   : BitVec 128
  msgid : Word
  peck  : Nat
  made  : Nat
  kind  : CacheKind
deriving DecidableEq, Repr

/-- A receive endpoint (R280). -/
structure Endpoint where
  peck : Nat
  gen  : BitVec 16
  posts : List Post
deriving DecidableEq, Repr

def Endpoint.reset : Endpoint := ⟨0, 0, []⟩

inductive PathPhase where
  | eligible
  /-- AVOIDED until a time (R287) -/
  | avoided (until_ : Nat)
  /-- sending probes, some answered in a row -/
  | probing (good : Nat)
deriving DecidableEq, Repr

/-- A path's congestion state (R286, R287); rates in bits per second, times in ns. -/
structure Path where
  rate  : Nat
  /-- RTT samples of the last second, newest first -/
  rtts  : List (Nat × Nat)
  srtt  : Nat
  adj   : Nat
  next  : Nat
  seq   : Nat
  hist  : List Bool
  phase : PathPhase
  /-- an unanswered probe: its MSGID, and when the last probe was sent -/
  probe : Option Word
  probed : Nat
deriving DecidableEq, Repr

def Path.none : Path := ⟨0, [], 0, 0, 0, 0, [], .eligible, .none, 0⟩

/-- A destination entry of an instance (R257). -/
structure Dest where
  addr  : BitVec 128
  used  : Nat
  paths : List (Nat × Path)
deriving DecidableEq, Repr

/-- A transport instance (R255). -/
structure Inst where
  nextMsg : Nat
  /-- when the hold of R290 ends; none before the first port comes up -/
  hold    : Option Nat
  trks    : List Trk
  cache   : List CacheEnt
  dests   : List Dest
  /-- its progress counter: acknowledged bytes and message outcomes (R509) -/
  prog    : Nat
deriving DecidableEq, Repr

def Inst.reset : Inst := ⟨0, none, [], [], [], 0⟩

/-- A READRESP not yet sent (R277): its number, the port its READREQ came by and the READREQ, its packet index, the path it takes and the Peck of
the region. Its bytes lie in device memory, where they are read when it is chosen (R299), or are read from outside before it is released. -/
structure Resp where
  num  : Nat
  port : Nat
  req  : Pkt
  k    : Nat
  path : Nat
  peck : Nat
  /-- its range in device memory, if it lies there -/
  addr : Option Nat
  got  : List Byte
  /-- bytes are still to come -/
  wait : Bool
deriving DecidableEq, Repr

/-- A packet waiting in a scheduler queue: of a message, or a read response. -/
inductive QEnt where
  | msg (key : Nat) (pidx : Nat)
  | resp (r : Resp)
deriving DecidableEq, Repr

/-- A token bucket: its tokens in units of 2^-16 ÷ 125 byte, and the unstepped time at which they were counted (R305). -/
structure Tok where
  n   : Int
  at_ : Nat
deriving DecidableEq, Repr

def Tok.zero : Tok := ⟨0, 0⟩

/-- A scheduler queue of one port (R298): packets, start tag, the head that was last counted as passed over, with the gate window in
which it was, and the head that has been tested under R312. -/
structure PQueue where
  ents : List QEnt
  tag  : Nat
  gmark : Option (QEnt × Nat)
  tested : Option QEnt
deriving DecidableEq, Repr

def PQueue.reset : PQueue := ⟨[], 0, none, none⟩

/-- A sharing of start-time fair queuing (R302, R303): virtual time, largest finish tag, start tags and present members. -/
structure Share where
  v    : Nat
  maxF : Nat
  tags : List (Nat × Nat)
  mem  : List Nat
deriving DecidableEq, Repr

def Share.reset : Share := ⟨0, 0, [], []⟩

/-- A network port: link, scheduler and policer state (R296 to R315). -/
structure Port where
  link  : Nat
  mode  : Nat
  /-- answers and probes of the control class, each with the unstepped time at which the packet that it answers arrived (R268) -/
  ctl   : List (Pkt × Nat)
  qs    : List (Nat × PQueue)
  /-- sharings of the queues of one class, by 8 × Peck + class -/
  classes : List (Nat × Share)
  commit : Share
  excess : Share
  ctlTok : Tok
  cTok  : List (Nat × Tok)
  pTok  : List (Nat × Tok)
  polC  : List (Nat × Tok)
  polP  : List (Nat × Tok)
  /-- when the port falls free, in 1/100 ns of unstepped time (R310) -/
  busy  : Nat
  /-- firmware frames of the control class: neighbour discovery, ARP and IEEE 1588, by kind and fields -/
  fw    : List (String × List Nat × Nat)
  bank  : Nat
  switch_ : Bool
  /-- when a pending bank switch takes effect (R311) -/
  swAt  : Nat
  /-- the MAC address that firmware resolved for the next hop (R254, R546) -/
  nhop  : Option (BitVec 48)
  /-- WYM_PORT_FEC: corrected codewords in [31:0], uncorrectable ones in [63:32] (R292) -/
  fec   : Word
  /-- the gate window in which the head of the control class has been counted as passed over -/
  cmark : Nat
deriving DecidableEq, Repr

def Port.reset : Port :=
  { link := 0, mode := 0, ctl := [], qs := [], classes := [], commit := Share.reset, excess := Share.reset,
    ctlTok := Tok.zero, cTok := [], pTok := [], polC := [], polP := [], busy := 0, fw := [], bank := 0, switch_ := false, swAt := 0, nhop := none,
    fec := 0, cmark := 0 }

/-- An outstanding write of an ordering scope (R275): Peck, ORDGRP and destination device. -/
structure WrScope where
  num  : Nat
  peck : Nat
  grp  : BitVec 16
  dst  : BitVec 128
  /-- messages without an outcome -/
  left : Nat
deriving DecidableEq, Repr

/-! ## Storage (R408 to R421) -/

inductive DriveState where
  | absent | ready | unsuitable | failed
deriving DecidableEq, Repr

/-- A drive number (R408): its state, port, size in blocks, and the identity bound to it. -/
structure Drive where
  state  : DriveState
  port   : Nat
  blocks : Nat
  ident  : Option Nat
  errs   : Nat
deriving DecidableEq, Repr

def Drive.reset : Drive := ⟨.absent, 0, 0, none, 0⟩

inductive VolState where
  | off | online | degraded | failed
deriving DecidableEq, Repr

/-- A volume's state beside its registers: the request number of its next mirrored write (R416). -/
structure Vol where
  state : VolState
  next  : Nat
deriving DecidableEq, Repr

def Vol.reset : Vol := ⟨.off, 0⟩

inductive VKind where
  | read | write | zeroes | dealloc
deriving DecidableEq, Repr

/-- A request to a volume (R413): blocks, the blocks to write as they are stored, progress and outcome. -/
structure VReq where
  id    : Nat
  vol   : Nat
  kind  : VKind
  blk   : Nat
  n     : Nat
  data  : List Byte
  user  : User
  off   : Nat
  /-- accepted and waiting for an overlapping request -/
  waiting : Bool
  /-- drive commands outstanding -/
  open_ : Nat
  st    : Status
  /-- lowest block that failed -/
  bad   : Option Nat
  /-- mirror exchange outstanding: request number and the time of the SEND -/
  mirror : Option (Nat × Nat)
  /-- blocks written as they stand, for a mirror target (R416) -/
  raw   : Bool
  /-- the Peck has been fenced: the result is discarded (R415) -/
  dead  : Bool
  /-- an alarm erased its key: nothing it reads from now on is delivered (R459) -/
  lost  : Bool
deriving DecidableEq, Repr

/-- A command issued to a drive (R409): the run of volume blocks it carries. -/
structure DriveCmd where
  id    : Nat
  drive : Nat
  req   : Nat
  blk   : Nat
  n     : Nat
  sent  : Nat
deriving DecidableEq, Repr

/-! ## Collectives: groups and landing regions (R200) -/

/-- A group of a Peck: LAST + 1, the SEQ that its next record must have, and SEQs above LAST whose collectives have completed before their turn
(R200). -/
structure Group where
  peck  : Nat
  group : BitVec 32
  done  : Nat
  next  : Nat
  gone  : List Nat
deriving DecidableEq, Repr

/-- A landing region bound to a group: region-table entry and generation (R200). -/
structure Binding where
  index : Nat
  gen   : BitVec 16
  peck  : Nat
  group : BitVec 32
deriving DecidableEq, Repr

/-- A complete message in a landing region: the collective's SEQ, and the range it placed (R204). -/
structure Landed where
  index : Nat
  seq   : Nat
  off   : Nat
  len   : Nat
deriving DecidableEq, Repr

/-! ## Reads that a service makes of a region, and firmware jobs -/

/-- A read of a range by a service of the device: what is still to be requested, outstanding and here, and the pages that the host
denies (R364). -/
structure SvcRead where
  num   : Nat
  owner : User
  peck  : Nat
  loc   : Loc
  off   : Nat
  todo  : List (Nat × Nat)
  open_ : Nat
  got   : List (Nat × List Byte)
  st    : Status
  deny  : List Nat
deriving DecidableEq, Repr

/-- Memory of the firmware reserve lent to a piece of work (R323). -/
structure Scratch where
  owner : User
  base  : Nat
  len   : Nat
deriving DecidableEq, Repr

/-! ## Collectives (R193 to R221) -/

/-- What a collective does with a run of bytes that it reads from an external source: the members that it goes to, or the collective's
own buffer, at an offset. -/
structure CXfer where
  num   : Nat
  tos   : List Nat
  own   : Bool
  off   : Nat
deriving DecidableEq, Repr

/-- A context that runs for a piece: chunk, engine, and whether it is a tenant optimizer (R218) or a reduction program (R207). -/
structure CJob where
  chunk  : Nat
  eng    : Nat
  tenant : Bool
  base   : Nat
deriving DecidableEq, Repr

/-- A collective of this device, from acceptance to completion. -/
structure Coll where
  id      : Nat
  peck    : Nat
  item    : ItemId
  rec_    : List TWord
  hyper   : List TWord
  members : List Loc
  srcs    : List (Loc × Word)
  dsts    : List (Loc × Word)
  landing : Loc
  /-- SEQ, and offset in LANDING and length of its exchange rows (R199) -/
  seq     : Nat
  rowsAt  : Nat
  rowsLen : Nat
  state_  : Loc
  hyp     : Loc
  route   : List Word
  digest  : Word
  running : Bool
  /-- start of phase 1, and the last announce -/
  t0      : Nat
  lastAnn : Nat
  /-- limits of RED_CFG at acceptance, ms -/
  stall   : Nat
  vlim    : Nat
  engs    : List Nat
  /-- messages and reads outstanding -/
  sent    : Nat
  xfers   : List CXfer
  nextX   : Nat
  /-- pieces sent: chunk and member -/
  sends   : List (Nat × Nat)
  /-- own elements read for a TREE reduction, by byte offset -/
  own     : List (Nat × List Byte)
  /-- sums of owned pieces by chunk: bytes in OUT, or in FP32 for STEP -/
  red     : List (Nat × List Byte)
  /-- result pieces by chunk, in OUT -/
  res     : List (Nat × List Byte)
  norm    : XAcc
  nonfin  : Bool
  voted   : Option Nat
  /-- R214: 0 APPLY, 1 SKIP, 2 FAIL, 3 none -/
  verdict : Option Nat
  norm2   : BitVec 32
  /-- STEP of the state header when the collective's turn came -/
  step    : Word
  jobs    : List CJob
  /-- results passed on: chunk and owner -/
  fwd     : List (Nat × Nat)
  done    : List Nat
  /-- the first state or destination write has been made -/
  wrote   : Bool
  dropped : Nat
  /-- decided with a status other than ST_OK: only its acknowledgements are awaited -/
  endSt   : Option Status
deriving DecidableEq, Repr

/-! ## Decode steps (R229 to R245) -/

inductive GenPhase where
  /-- the input block is being pulled -/
  | pull
  /-- sampled, or failed: the output record is due -/
  | sampled
  /-- the record is written; KV rows may be due -/
  | written
  /-- KV rows are being read -/
  | append
deriving DecidableEq, Repr

/-- A dispatched decode step. -/
structure GenStep where
  item   : ItemId
  phase  : GenPhase
  /-- the entry's record at dispatch (R231) -/
  rec_   : List TWord
  input  : List Byte
  here   : Bool
  st     : Status
  toks   : List Nat
  nacc   : Nat
  /-- engine on which a tenant sampler runs, and its scratch memory -/
  job    : Option (Nat × Nat)
  /-- the entry's POS at dispatch, and whether a GEN_UPDATE has set another since (R231) -/
  pos    : Word
  moved  : Bool
  /-- the Peck's sampler engines at dispatch (R239, R250) -/
  engs   : List Nat
  /-- regions resolved at dispatch (R231): OUTPUT, KVSRC, HISTORY and KVTABLE -/
  out    : Loc
  kvsrc  : Loc
  hist   : Loc
  kvt    : Loc
deriving DecidableEq, Repr

/-- An entry of the sequence table. -/
structure GenSeq where
  index   : Nat
  peck    : Nat
  rec_    : List TWord
  pos     : Word
  kvfault : Bool
  step    : Option GenStep
  /-- items waiting, in submission order -/
  queue   : List ItemId
  /-- a GEN_DEREGISTER that waits for the running step -/
  leaving : Option ItemId
deriving DecidableEq, Repr

/-- A move of a KV page (R245). -/
structure KvMove where
  num    : Nat
  item   : ItemId
  seq    : Nat
  page   : Nat
  /-- destination handle -/
  hword  : TWord
  dst    : Loc
  kvt    : Loc
  open_  : Nat
  st     : Status
deriving DecidableEq, Repr

/-! ## Checkpoints (R467 to R495) -/

/-- A section of a container (R487): its fields, and the image unit at which its data begins. -/
structure Sect where
  sectid : Nat
  skind  : Nat
  fmt    : Nat
  len    : Nat
  first  : Nat
  nunits : Nat
  tagged : Bool
  poison : Bool
  /-- bytes 32 to 63 of its entry -/
  extra  : List Byte
  unit0  : Nat
deriving DecidableEq, Repr

/-- What a checkpoint's stream-out is doing (R479 to R481). -/
inductive OutPhase where
  | idle
  /-- reading the first bytes of both slots -/
  | heads
  /-- writing block 0 as WRITING -/
  | opening
  /-- writing records -/
  | records
  /-- writing the container header and section table -/
  | table
  /-- writing the manifest -/
  | sealing
deriving DecidableEq, Repr

/-- A checkpoint of a Peck on this device, or a takeover of one from the partner's mirror. -/
structure Ckpt where
  peck    : Nat
  item    : Option ItemId
  /-- CKPT_PECK.PHASE (R495) -/
  phase   : Nat
  rec_    : List TWord
  srcs    : List (Loc × List TWord)
  tarn    : Loc
  dest    : Loc
  cut     : Nat
  /-- device memory as it stood at the cut (R471, R474) -/
  snap    : Memory
  /-- the sequence section at the cut -/
  gens    : List Byte
  sects   : List Sect
  gen     : Nat
  slot    : Nat
  out_    : OutPhase
  heads   : List (Nat × List Byte)
  /-- units captured, units being read, and units that guards wait for, in order -/
  done    : List Nat
  busy    : List Nat
  want    : List Nat
  /-- slot bytes written, by record -/
  data    : List (Nat × List Byte)
  /-- reads and writes of the stream-out outstanding -/
  open_   : Nat
  poison  : Nat
  /-- 0 none, 1 in progress, 2 complete, 3 takeover confirmed, 4 abandoned -/
  mir     : Nat
  acked   : List Nat
  /-- where the image lies: the Tarn's image, or the mirror's -/
  image   : Nat
  slotsz  : Nat
  keyslot : Nat
  /-- the container header as the origin formed it, for a takeover -/
  head    : List Byte
deriving DecidableEq, Repr

/-- A mirror that this device holds for its partner (R477, R478). -/
structure Mirror where
  peck    : Nat
  base    : Nat
  nunits  : Nat
  head    : List Byte
  gens    : List Byte
  sects   : List Sect
  gen     : Nat
  slot    : Nat
  slotsz  : Nat
  dstdir  : Nat
  pkeyslot : Nat
  noKey   : Bool
  got     : List Nat
  poison  : Nat
  confirmed : Bool
  /-- when the pair split after the confirmation -/
  split   : Option Nat
deriving DecidableEq, Repr

/-! ## The pair and the management bus (R531 to R548) -/

/-- The pair: PAIR_STAT, the last join attempt, the moment of the join and the time exchanges. -/
structure PairState where
  /-- 0 DOWN, 1 EXCHANGE, 2 JOINED, 3 SPLIT -/
  state   : Nat
  cause   : Nat
  /-- halves of the link in service -/
  low     : Bool
  high    : Bool
  tlock   : Bool
  /-- consecutive exchanges within ±2 ns -/
  good    : Nat
  /-- the pair was joined when the attempt in progress began (R503) -/
  was     : Bool
  /-- when the pair joined, from which heartbeats are awaited, and when the last heartbeat was sent -/
  hbIn    : Nat
  hbOut   : Nat
  /-- when the last join attempt began -/
  tried   : Nat
deriving DecidableEq, Repr

/-- The pair functions work: JOINED, and during an exchange that a joined pair makes anew (R503, R535). -/
def PairState.joined (p : PairState) : Bool := p.state == 2 || (p.state == 1 && p.was)

def PairState.reset : PairState := ⟨0, 0, false, false, false, 0, false, 0, 0, 0⟩

/-- The I3C target: dynamic address, IBIs enabled, and the status and response of the last command (R542 to R545). -/
structure I3c where
  da    : Option (BitVec 7)
  ibi   : Bool
  st    : Status
  resp  : List Byte
deriving DecidableEq, Repr

def I3c.reset : I3c := ⟨none, false, 0, []⟩

/-! ## Firmware (R496 to R508) -/

/-- A bundle as the ROM and the staging check read it (R497): header fields, component digests by TYPE, the board record, and whether its
signature and digests hold. -/
structure Bundle where
  ver    : Nat
  secver : Nat
  horead : Nat
  hoback : Nat
  isa    : Nat
  raise_ : Bool
  comps  : List (Nat × List Byte)
  board  : Option (List Byte)
  ok     : Bool
deriving DecidableEq, Repr

/-- A control core (R496, R500): FW_CORE.STATE, its trips, when it last tripped and cleared its watchdog. -/
structure Core where
  state : Nat
  trips : Nat
  last  : Option Nat
deriving DecidableEq, Repr

def Core.reset : Core := ⟨0, 0, none⟩

/-- Firmware state (R498 to R506). -/
structure FwState where
  /-- flash slots A and B, and the active one -/
  flashA   : Option Bundle
  flashB   : Option Bundle
  active   : Bool
  /-- fused minimum security version -/
  minsec   : Nat
  /-- FW_STAT.SLOT -/
  booted   : Bool
  /-- components of the boot, and the image in force by group -/
  boot     : Option Bundle
  run      : Option Bundle
  /-- groups that run the staged image -/
  switched : List Nat
  staged   : Option Bundle
  flash    : Bool
  activating : Bool
  probation : Bool
  deferred : Bool
  rolled   : Bool
  group    : Nat
  /-- when the activation began, and when the last group switched -/
  began    : Nat
  switchAt : Nat
  /-- the committed bundle still to be written to flash -/
  toFlash  : Option Bundle
  errStep  : Nat
  errCause : Nat
  errSlot  : Bool
  cores    : List (Nat × Core)
deriving DecidableEq, Repr

/-- The factory bundle: its digests are open (DESIGN CHOICE: the manual gives no version). -/
def Bundle.factory : Bundle :=
  ⟨0x00010000, 0, 1, 1, 1, false, (List.range 6).map fun k => (k + 1, (List.range 48).map fun j => Config.fwDigest (k + 1) j), none, true⟩

/-- Power-on: slot A holds the factory bundle and is active. -/
def FwState.reset : FwState :=
  { flashA := some Bundle.factory, flashB := none, active := false, minsec := 0, booted := false, boot := none, run := none, switched := [],
    staged := none, flash := false, activating := false, probation := false, deferred := false, rolled := false, group := 0, began := 0, switchAt := 0,
    toFlash := none, errStep := 0, errCause := 0, errSlot := false, cores := [] }

/-! ## Recovery (R509 to R530) -/

/-- A progress counter under watch (R509, R510): its code, the samples of the current comparison with their times, newest first. -/
structure Watch where
  code    : Nat
  samples : List (Nat × Nat)
  /-- when recovery last acted on the unit -/
  acted   : Option Nat
deriving DecidableEq, Repr

/-- The replay of an engine (R516 to R520): its suspects, those without a verdict, the guilty, the slot that runs, and the samples of its run,
newest first. -/
structure Replay where
  eng      : Nat
  suspects : List Nat
  left     : List Nat
  guilty   : List Nat
  run      : Option Nat
  /-- times and counter values -/
  samples  : List (Nat × Nat)
deriving DecidableEq, Repr

/-! ## Ports, integrity, power, time and recovery (R347 to R379, R430 to R447, R509 to R530, R549 to R572) -/

/-- PCI Express beside functions and registers (R347 to R375). -/
structure Pcie where
  /-- ACS controls by port: bits SV, TB, RR, CR, UF, EC, DT (R367) -/
  acs      : List (Nat × BitVec 7)
  /-- secondary and subordinate bus of a port's bridge -/
  buses    : List (Nat × Nat × Nat)
  /-- address ranges that endpoint functions decode: VH, first address, address after the last -/
  bars     : List (Nat × Nat × Nat)
  /-- ports with Link Disable set (R349) -/
  disabled : List Nat
  /-- accepted DEVCTL_PORTCFG values that wait for training, by lane group (R349) -/
  next     : List (Nat × Word)
  /-- hierarchies whose PERST# is deasserted, and since when (R498, R553) -/
  up       : List (Nat × Nat)
  /-- endpoint and internal bus number of each hierarchy, as its software assigned them (R351) -/
  epBus    : List (Nat × Nat)
  intBus   : List (Nat × Nat)
  /-- the board record breaks R348: groups with an upstream port do not train -/
  refused  : Bool
  /-- WAKE# and THERMTRIP# are asserted (R371, R559) -/
  wake     : Bool
  trip     : Bool
deriving DecidableEq, Repr

def Pcie.reset : Pcie := ⟨[], [], [], [], [], [], [], [], false, false, false⟩

/-- Tests and repairs (R438 to R441) and spare lanes (R19). -/
structure Intg where
  /-- words whose error awaits its test, in order of their errors -/
  faults   : List Nat
  /-- lines that passed a test: line and time -/
  passes   : List (Nat × Nat)
  grains   : List Nat
  gills    : List Nat
  /-- soft repairs awaiting hard repair, by stack -/
  soft     : List (Nat × Nat)
  /-- spare lanes used, by (link × 16 + module) × 2 + direction -/
  lanes    : List (Nat × Nat)
  /-- modules out of service, as link × 16 + module -/
  out_     : List Nat
  /-- what the scrub pass in progress has found: corrected and uncorrectable words, and the first of the latter (R444) -/
  scrub    : Option (Nat × Nat × List Nat)
deriving DecidableEq, Repr

def Intg.reset : Intg := ⟨[], [], [], [], [], [], [], none⟩

/-- The power controller and sensors (R551 to R559). -/
structure Power where
  epwr     : Bool
  ethm     : Bool
  /-- when the emergency in force was detected, and when the last one cleared; 0 none yet -/
  since    : Nat
  cleared  : Nat
  /-- n of R556, the n towards which it moves, the n that waits for the voltage to be read back (R551), and when the next step may come (R554) -/
  n        : Nat
  goal     : Nat
  want     : Nat
  stepAt   : Nat
  /-- gated engines, gated engines due to leave their gates, clusters in power gating, and when the next engine and cluster may leave (R554, R566) -/
  gated    : BitVec 128
  rise     : BitVec 128
  off      : BitVec 8
  gateAt   : Nat
  offAt    : Nat
  /-- VDD_CORE target and reading: mV, A, °C -/
  vcore    : Nat
  volts    : Nat
  amps     : Nat
  temp     : Int
  /-- start of a run of 100 µs averages above the sustained limit -/
  ovr     : Option Nat
  /-- the last sample, and up to when thermal emergency time is counted -/
  sampled  : Nat
  hotAt    : Nat
  /-- a PWR_LIMIT write that waits for the emergency to clear (R558) -/
  limit    : Option Nat
  /-- sensor readings and highest readings since power-up, °C -/
  temps    : List (Nat × Int)
  highs    : List (Nat × Int)
  /-- rails enabled and good: bits of RAIL_EN and RAIL_PG (R552) -/
  en       : BitVec 4
  pg       : BitVec 5
  /-- root PLL locked; the guard die runs on its oscillator (R561) -/
  lock     : Bool
  fallback : Bool
deriving DecidableEq, Repr

/-- Power-on: no rail is up but the guard die's (R552); n and the first VDD_CORE target as R572 and R552 give them. -/
def Power.reset : Power :=
  { epwr := false, ethm := false, since := 0, cleared := 0, n := 16, goal := 16, want := 16, stepAt := 0, gated := 0, rise := 0,
    off := 0, gateAt := 0, offAt := 0, vcore := 0, volts := 0, amps := 0, temp := 0, ovr := none, sampled := 0,
    hotAt := 0, limit := none, temps := [], highs := [], en := 0, pg := 0, lock := false, fallback := false }

/-- A transmitter that the time receiver hears (R563): port, identity, comparison values in the order of the best master clock algorithm, and
Announce messages heard. -/
structure PtpMaster where
  port   : Nat
  ident  : Nat
  prio   : List Nat
  count  : Nat
deriving DecidableEq, Repr

/-- Device time beside its count (R562 to R565). -/
structure TimeState where
  /-- part of a ns counted, and offset still to be slewed, in 10⁻⁹ ns -/
  frac    : Int
  slew    : Int
  /-- whole seconds at which PPS_OUT has risen -/
  pps     : Nat
  /-- high halves latched by low-half reads of TIME_NOW, by function -/
  latch   : List (Nat × Nat)
  masters : List PtpMaster
  /-- the selected transmitter: port and identity -/
  chosen  : Option (Nat × Nat)
  /-- a two-step Sync whose Follow_Up is awaited: sequence and arrival -/
  sync    : Option (Nat × Nat)
  /-- the last arrival of a Sync less its origin time and correction, ns -/
  ms      : Option Int
  /-- the delay request outstanding: sequence and departure, and a two-step peer-delay response to it: its arrival, and the request's receipt
  time at the peer -/
  req     : Option (Nat × Nat)
  resp    : Option (Nat × Int)
  seq     : Nat
  /-- the mean path delay, once measured -/
  delay   : Option Int
deriving DecidableEq, Repr

def TimeState.reset : TimeState :=
  { frac := 0, slew := 0, pps := 0, latch := [], masters := [], chosen := none, sync := none, ms := none, req := none, resp := none, seq := 0,
    delay := none }

/-- Escalation (R523 to R526). -/
structure Rcv where
  /-- resets that escalation entered and that have not completed: level, counter code and start -/
  escals : List (Nat × Word × Nat)
  /-- a device warm reset is due, with its cause -/
  warm   : Option Nat
  /-- an uncorrectable error of the firmware reserve escalates (R437) -/
  reserve : Bool
  /-- no new work is accepted on any function (R20) -/
  fenced : Bool
  /-- when the power cycle was last requested -/
  asked  : Nat
deriving DecidableEq, Repr

def Rcv.reset : Rcv := ⟨[], none, false, false, 0⟩

/-! ## NVMe controllers of PF1 (R418 to R421) and the data feed (R422 to R425) -/

/-- A submission queue: base address, entries, completion queue and head. -/
structure NvSq where
  base : Word
  size : Nat
  cq   : Nat
  head : Nat
deriving DecidableEq, Repr

/-- A completion entry: submission queue and its head, command identifier, command-specific word, status code type and code. -/
structure NvEnt where
  sq   : Nat
  head : Nat
  cid  : Nat
  dw0  : Nat
  sct  : Nat
  sc   : Nat
deriving DecidableEq, Repr

/-- A completion queue: base address, entries, vector, interrupt enable, entries written so far, entries that the host's head doorbell has released, and
entries held while it is full. -/
structure NvCq where
  base : Word
  size : Nat
  vec  : Nat
  ien  : Bool
  tail : Nat
  head : Nat
  held : List NvEnt
deriving DecidableEq, Repr

/-- A command that waits for the volume, or for earlier writes (Flush). -/
structure NvCmd where
  seq   : Nat
  q     : Nat
  cid   : Nat
  isWrite : Bool
  flush : Bool
  /-- requests outstanding -/
  open_ : Nat
  st    : Status
  /-- data pointer entries in order -/
  prp   : List Word
deriving DecidableEq, Repr

/-- A controller: that of PF1 (number 0) or of a Peck's VF of PF1. -/
structure Nvme where
  en    : Bool
  /-- CSTS.CFS -/
  cfs   : Bool
  sqs   : List (Nat × NvSq)
  cqs   : List (Nat × NvCq)
  cmds  : List NvCmd
  next  : Nat
  /-- Asynchronous Event Requests outstanding -/
  aers  : List Nat
  /-- a Namespace Attribute Changed event not yet reported -/
  event : Bool
  changed : List Nat
  feats : List (Nat × Nat)
deriving DecidableEq, Repr

def Nvme.reset : Nvme := ⟨false, false, [], [], [], 0, [], false, [], []⟩

/-- What a feed is doing. -/
inductive FeedPhase where
  | idle
  /-- reading the documents of the batch -/
  | reading
  /-- the batch is written, its position record is not -/
  | written
deriving DecidableEq, Repr

/-- A running feed of a Peck (R422): its record's words, its place in the stream, and the batch in progress. -/
structure Feed where
  peck  : Nat
  id    : Nat
  item  : ItemId
  eng   : Nat
  slot  : Nat
  rec_  : List TWord
  limit : Nat
  stop  : Bool
  /-- batches written -/
  batch : Nat
  epoch : Nat
  sample : Nat
  /-- tokens of the sample already written, the separator counted as the last -/
  tok   : Nat
  /-- batches delivered since the feed began -/
  count : Nat
  phase : FeedPhase
  open_ : Nat
  st    : Status
deriving DecidableEq, Repr

/-- Reasons a step stops. -/
inductive Fault where
  /-- A self-test is told to test an address outside the address space that R27 lays out. Raised by
  TARGETED_SELF_TEST only; safe: the manual gives the device no behaviour for an address that does not exist. -/
  | addressHole (addr : Nat)
deriving DecidableEq, Repr

/-- Reasons a command has no meaning in the model. -/
inductive Refusal where
  /-- The command has no meaning yet. Raised by the dispatch only, by the command's mnemonic; safe. -/
  | notModelled (mnemonic : String)
deriving DecidableEq, Repr

/-- A revocation between its third step and its last (R337): its item, its Peck, the directory entry that it names, and the revoked entries with the
generation that they had. -/
structure Revoke where
  item : ItemId
  peck : Nat
  dir  : Nat
  ents : List (Nat × BitVec 16)
deriving DecidableEq, Repr

/-- The whole device. -/
structure State where
  /-- commands waiting, first in, first out -/
  pending : List Instr
  mem     : Memory
  regions : List (Nat × Region)
  engines : List (Nat × Engine)
  barriers : List (Nat × Barrier)
  /-- derive slots filled from the reserve or unfilled (R127) -/
  deriveFill : List (Nat × Option (Option Nat))
  /-- reserve entries already used (R127) -/
  deriveRsv : Nat
  /-- retired derive entries that a device warm reset has returned to the reserve (R127) -/
  deriveBack : List Nat
  /-- revocations that wait for earlier accesses -/
  revokes : List Revoke
  /-- contexts of accepted start requests that wait for a slot (R165) -/
  starts  : List (ItemId × Ctx)
  /-- device time, ns (R104, R561) -/
  time    : Nat
  /-- ns that the timer tick has counted: device time without its trims and steps -/
  mono    : Nat
  /-- quarter engine cycles elapsed -/
  qcycles : Nat
  /-- copies issued so far -/
  nextCopy : Nat
  /-- free values drawn so far: the model's own counter -/
  free    : Nat
  secondary : Bool
  /-- registers with no structure of their own, by PF0 BAR0 offset; unlisted registers read their reset value -/
  regs    : List (Nat × Word)
  /-- latent errors by word number (R430) -/
  latent  : List (Nat × ErrPat)
  fns     : List (Nat × Fn)
  /-- Springs by 16 × function + number, function 0 the manager, 1 to 255 the Pecks -/
  springs : List (Nat × Spring)
  /-- rings by 16 × function + number -/
  rings   : List (Nat × Ring)
  /-- dispatched items, oldest first -/
  items   : List Item
  nextItem : Nat
  /-- the manager log: records by number (R401) -/
  log     : List (Nat × Rec)
  logpi   : Nat
  attached : Bool
  /-- time of the last manager heartbeat (R400) -/
  hbeat   : Nat
  reads   : List ReadReq
  nextTag : Nat
  out     : List Out
  /-- cipher command queues by 4 × Peck + queue -/
  cqs     : List (Nat × CipherQ)
  pecks   : List (Nat × Peck)
  /-- FW_STAT.PHASE (R498): 0 ROM, 1 TRAINING, 2 READY, 3 HALTED -/
  phase   : Nat
  /-- translations held, function and page (R364), and invalidations not yet completed, function, page and the tags of the reads awaited (R365) -/
  ats     : List (Nat × Nat)
  atsInv  : List (Nat × Nat × List Nat)
  keys    : List (Nat × KeySlot)
  arms    : List (Nat × Arm)
  /-- generation values that have been retired: entry, value and device time (R260) -/
  retired : List (Nat × BitVec 16 × Nat)
  insts   : List (Nat × Inst)
  msgs    : List Msg
  nextKey : Nat
  eps     : List (Nat × Endpoint)
  ports   : List (Nat × Port)
  writes  : List WrScope
  /-- READRESPs that pacing has not released, oldest first -/
  resps   : List Resp
  nextResp : Nat
  groups  : List Group
  bindings : List Binding
  landed  : List Landed
  nextWr  : Nat
  /-- the instance that last took a message of an engine (its number) or a ring (256 + 16 × function + ring) (R257) -/
  deal    : List (Nat × Nat)
  /-- outcomes of messages and reads that a service has not yet taken -/
  outcomes : List (User × Nat × Status)
  /-- data read for a service that has not yet taken it -/
  arrivals : List (User × Nat × List Byte)
  /-- memory windows of the downstream ports' bridges: port, first address, address after the last (R366) -/
  windows : List (Nat × Nat × Nat)
  drives  : List (Nat × Drive)
  vols    : List (Nat × Vol)
  vreqs   : List VReq
  nextVreq : Nat
  dcmds   : List DriveCmd
  /-- NVMe controllers by Peck, 0 for PF1's own -/
  nvmes   : List (Nat × Nvme)
  feeds   : List Feed
  nextDcmd : Nat
  fetches : List SvcRead
  nextFetch : Nat
  scratch : List Scratch
  colls   : List Coll
  nextColl : Nat
  seqs    : List GenSeq
  /-- device shares of the decode steps of this and the last 1 s window: when each step's record was written, and its share in ns (R246, R249) -/
  shares  : List (Nat × Nat)
  kvmoves : List KvMove
  nextMove : Nat
  /-- KEY_ALARM.LIVE (R460) -/
  alarmLive : BitVec 4
  /-- every rail but VDD_GUARD is removed (R371) -/
  d3cold  : Bool
  ckpts   : List Ckpt
  /-- pending notices: Peck and deadline in device time (R467) -/
  notices : List (Nat × Nat)
  mirrors : List Mirror
  pair    : PairState
  i3c     : I3c
  fw      : FwState
  watches : List Watch
  replays : List Replay
  /-- verdicts whose engine has not hung since: engine and time (R520) -/
  verdicts : List (Nat × Nat)
  /-- times of device warm resets (R524) -/
  warms   : List Nat
  /-- closed meter records not yet written, oldest first, and the last minute boundary at which records were closed (R342) -/
  mtr     : List (List Byte)
  minute  : Nat
  pcie    : Pcie
  intg    : Intg
  pwr     : Power
  clk     : TimeState
  rcv     : Rcv
deriving DecidableEq, Repr

/-- The device right after power-on, before BOOT. -/
def State.reset : State :=
  { pending := [], mem := .empty, regions := [], engines := [], barriers := [], deriveFill := [], deriveRsv := 0, deriveBack := [], revokes := [], starts := [],
    time := 0, mono := 0, qcycles := 0, nextCopy := 0, free := 0, secondary := false,
    regs := [], latent := [], fns := [], springs := [], rings := [], items := [], nextItem := 0, log := [], logpi := 0,
    attached := false, hbeat := 0, reads := [], nextTag := 0, out := [], cqs := [],
    pecks := [], phase := 0, ats := [], atsInv := [],
    keys := [], arms := [], retired := [], insts := [], msgs := [], nextKey := 0, eps := [], ports := [], writes := [], resps := [], nextResp := 0, groups := [], bindings := [], landed := [], nextWr := 0, deal := [],
    outcomes := [], arrivals := [], windows := [], drives := [], vols := [], vreqs := [], nextVreq := 0, dcmds := [], nvmes := [], feeds := [], nextDcmd := 0,
    fetches := [], nextFetch := 0, scratch := [], colls := [], nextColl := 0, seqs := [], shares := [], kvmoves := [], nextMove := 0,
    alarmLive := 0, d3cold := false,
    ckpts := [], notices := [], mirrors := [], pair := PairState.reset, i3c := I3c.reset, fw := FwState.reset, watches := [], replays := [],
    verdicts := [], warms := [], mtr := [], minute := 0,
    pcie := Pcie.reset, intg := Intg.reset, pwr := Power.reset, clk := TimeState.reset, rcv := Rcv.reset }

end Sys2Proof.Machine
end

