-- ==== Sys2Proof/Machine/RegMap.lean ====
section
/-!
DEFINITION. The registers that the model keeps by their PF0 BAR0 offset: their offsets by name and the reset value of each,
from the register tables of the chapters (0 where the table says 0).
-/

namespace Sys2Proof.Machine

def rAlive : Nat := 0x010008
def rCto : Nat := 0x010018
def rErrAcc : Nat := 0x010020
def rErrWr : Nat := 0x010028
def rErrBar2 : Nat := 0x010030
def rUnexpCpl : Nat := 0x010038
def rCplTo : Nat := 0x010040
def rMgrStat : Nat := 0x020010
def rHbCfg : Nat := 0x020028
def rAlarmVec : Nat := 0x0A0010
def rMsgs : Nat := 0x0A0020
def rHeld : Nat := 0x0A0028
def rScrubBase : Nat := 0x400010
def rScrubLen : Nat := 0x400018
def rScrubCtl : Nat := 0x400020
def rScrubStat : Nat := 0x400028
def rIntgCfg : Nat := 0x400030
def rScrubAddr (i : Nat) : Nat := 0x400100 + 8 * i
def rIntgPool (e : Nat) : Nat := 0x401000 + 8 * e
def rIntgMere (c : Nat) : Nat := 0x401400 + 8 * c
def rIntgHbm (s : Nat) : Nat := 0x401440 + 8 * s
def rLink (l : Nat) : Nat := 0x402000 + 0x20 * l
def rLinkRetry (l : Nat) : Nat := 0x402008 + 0x20 * l
def rLinkUnc (l : Nat) : Nat := 0x402010 + 0x20 * l
def rLinkSpared (l : Nat) : Nat := 0x402018 + 0x20 * l

/-! ### WYM (R292) -/
def rWymCfg : Nat := 0x200018
def rWymHorizon : Nat := 0x200020
def rWymCc : Nat := 0x200028
def rWymPath : Nat := 0x200030
/-- Counters of an instance in the table's order: 0 TXPKT, 1 RXPKT, 2 RETX, 3 DUP_DROPPED, 4 AUTH_FAIL, 5 MALFORMED, 6 NAK_TX,
7 NAK_RX, 8 BUSY, 9 HORIZON_FAIL, 10 AVOID, 11 TRK_EXPIRED, 12 UNSOL. -/
def rWymCtr (i k : Nat) : Nat := 0x200100 + i * 0x80 + k * 8
def rWymPort (p : Nat) : Nat := 0x200400 + p * 0x20
def rWymOther (p : Nat) : Nat := 0x200418 + p * 0x20
def rSaKey (n : Nat) : Nat := 0x208000 + n * 0x10
def rSaId (n : Nat) : Nat := 0x208008 + n * 0x10

/-! ### SCH (R318) -/
def rGateCtl (p : Nat) : Nat := 0x300100 + p * 0x40
def rCtlShp (p : Nat) : Nat := 0x300108 + p * 0x40
def rSwitchAt (p : Nat) : Nat := 0x300110 + p * 0x40
def rSchBase (p b : Nat) : Nat := 0x300120 + p * 0x40 + b * 8
def rSchNent (p b : Nat) : Nat := 0x300130 + p * 0x40 + b * 8
/-- Counters of a port: 0 TXFRM, 1 TXBYTES, 2 GUARDHOLD, 3 GREEN, 4 YELLOW, 5 RED. -/
def rSchCtr (p k : Nat) : Nat := 0x300800 + p * 0x40 + k * 8
def rDscpCol (p h : Nat) : Nat := 0x300830 + p * 0x40 + h * 8
def rSchQ (d q : Nat) : Nat := 0x310000 + (d * 4096 + q) * 8
def rPshpC (p k : Nat) : Nat := 0x330000 + (p * 256 + k) * 0x10
def rPshpP (p k : Nat) : Nat := 0x330008 + (p * 256 + k) * 0x10
def rPolC (p k : Nat) : Nat := 0x340000 + (p * 256 + k) * 0x10
def rPolP (p k : Nat) : Nat := 0x340008 + (p * 256 + k) * 0x10
def rChain (p b e : Nat) : Nat := 0x350000 + (p * 2048 + b * 1024 + e) * 8

/-! ### KEY (R465) -/
def rKeyAlarm : Nat := 0x500010
def rKeyErasures : Nat := 0x500018
def rKeyInvoc : Nat := 0x500020
def rKeyRefused : Nat := 0x500028

/-! ### STOR (R428) -/
def rStorCfg : Nat := 0xA00010
def rStorWin : Nat := 0xA00018
def rStorRd : Nat := 0xA00020
def rStorWr : Nat := 0xA00028
def rStorCmds : Nat := 0xA00030
def rDrvNs (d : Nat) : Nat := 0xA01008 + d * 0x20
def rVol (v : Nat) : Nat := 0xA08000 + v * 0x20
def rVol2 (v : Nat) : Nat := 0xA08008 + v * 0x20
def rExt (v k : Nat) : Nat := 0xA40000 + (32 * v + k) * 8

/-! ### PAIR addresses (R546) and DEVCTL ports (R376) -/
def rFabric (h : Nat) : Nat := 0x900100 + h * 8
def rPairMac : Nat := 0x900110
def rNhop (p h : Nat) : Nat := 0x900200 + p * 0x10 + h * 8
def rPortCfg (g : Nat) : Nat := 0x011000 + g * 8
def rPortStat (g : Nat) : Nat := 0x011080 + g * 8
def rVhCfg (v : Nat) : Nat := 0x011100 + v * 8
def rQuar : Nat := 0x010048

/-! ### RED (R224) -/
def rRedCfg : Nat := 0x180010
def rRedDone : Nat := 0x180020
def rRedFail : Nat := 0x180028
def rRedSkip : Nat := 0x180030
def rRedAddends : Nat := 0x180038
def rRedStale : Nat := 0x180040
def rRedMismatch : Nat := 0x180048
def rRedPeck (p : Nat) : Nat := 0x181000 + p * 8

/-! ### GEN (R249) -/
def rGenCfg : Nat := 0x1C0010
def rGenSteps : Nat := 0x1C0020
def rGenFail : Nat := 0x1C0028
def rGenTokens : Nat := 0x1C0030
def rGenDrafts : Nat := 0x1C0038
def rGenAccepted : Nat := 0x1C0040
def rGenPeck (p : Nat) : Nat := 0x1C1000 + p * 8

/-! ### CKPT (R494) -/
def rCkptCfg : Nat := 0x600010
def rMirCfg : Nat := 0x600018
def rCkptSealed : Nat := 0x600028
def rCkptFailed : Nat := 0x600030
def rCkptTakeovers : Nat := 0x600038
def rCkptBytes : Nat := 0x600040

/-! ### RCV (R529) -/
def rRcvCfg : Nat := 0x700010
def rRcvHangs : Nat := 0x700020
def rRcvGuilty : Nat := 0x700028
def rRcvRefused : Nat := 0x700030
def rRcvEscal : Nat := 0x700038
def rRcvLast : Nat := 0x700040
def rRcvLastTime : Nat := 0x700048
def rRcvWarm : Nat := 0x700050
def rRcvPcreq : Nat := 0x700058
def rRcvPeck (p : Nat) : Nat := 0x701000 + p * 8
def rRcvPeckHang (p : Nat) : Nat := 0x701800 + p * 8
def rRcvEng (e : Nat) : Nat := 0x702000 + e * 8

/-! ### PAIR (R548) -/
def rPairCfg : Nat := 0x900018
def rPairPeer : Nat := 0x900020
def rPairOffset : Nat := 0x900028
def rPairLinkErr : Nat := 0x900030
def rPairSplits : Nat := 0x900038

/-! ### FW (R508) -/
def rFwCfg : Nat := 0xB00030
def rFwTrips : Nat := 0xB00040

/-! ### PECK (R345) -/
def rEpoch : Nat := 0x040010
def rMtrBase : Nat := 0x040028
def rMtrCfg : Nat := 0x040030
def rMtrPi : Nat := 0x040038
def rMtrCi : Nat := 0x040040

/-! ### PWR, CLK, THM and TIME (R571) -/
def rPwrLimit : Nat := 0x800010
def rPwrMeas : Nat := 0x800020
def rPwrWake : Nat := 0x800028
def rPwrCapTime : Nat := 0x800030
def rPwrEmergs : Nat := 0x800038
def rPwrIdle : Nat := 0x800040
def rPeckWake (p : Nat) : Nat := 0x801000 + p * 8
def rUnlocks : Nat := 0x820018
def rThmLimits : Nat := 0x840008
def rThmHot : Nat := 0x840018
def rTimeCfg : Nat := 0x860010
def rTimeAdj : Nat := 0x860018
def rTimeStat : Nat := 0x860028
def rTimeSteps : Nat := 0x860030

/-! ### INTG (R446) -/
def rIntgRetired : Nat := 0x400038
/-- The reset value of the register at an offset. -/
def regReset (off : Nat) : Word :=
  if off = rAlive then 0x92200000#64
  else if off = rCto then 0x9C40#64
  else if off = rHbCfg then 0x3E8#64
  else if off = rIntgCfg then 0x40#64
  else if off = rWymCfg then 0x31C2E#64
  else if off = rWymHorizon then 0x1400640A14#64
  else if off = rWymCc then 0x0A04800A000A0032#64
  else if off = rWymPath then 0x0000202040000A03#64
  else if 0x300100 ≤ off ∧ off < 0x300500 ∧ off % 0x40 = 8 then 0x0000060002409C40#64
  else if 0x330000 ≤ off ∧ off < 0x340000 then (if off % 16 = 0 then 0x0001000002400000#64 else 0x00000000024C3500#64)
  else if 0x340000 ≤ off ∧ off < 0x350000 then (if off % 16 = 0 then 0x0000000002400000#64 else 0x00000000024C3500#64)
  else if off = rStorCfg then 0x3E8#64
  else if off = rStorWin then 0x0000FF0000000000#64
  else if 0xA01000 ≤ off ∧ off < 0xA01400 ∧ off % 0x20 = 8 then 1#64
  else if off = rVhCfg 0 then 0xFF01FF01#64
  else if off = rRedCfg then 0x6403E8#64
  else if off = rGenCfg then 4#64
  else if off = rCkptCfg then 0x7530#64
  else if off = rRcvCfg then 0x3E83006400640064#64
  else if 0x701008 ≤ off ∧ off < 0x701800 ∧ off % 8 = 0 then 0x64#64
  else if off = rPairCfg then 0x103E80032#64
  else if off = rFwCfg then 0x32#64
  else if off = rPwrWake then 0x186A0#64
  else if off = rThmLimits then 0x73695F#64
  else if 0x401000 ≤ off ∧ off < 0x401400 ∧ off % 8 = 0 then 0x0060000000000000#64
  else if 0x401400 ≤ off ∧ off < 0x401440 ∧ off % 8 = 0 then 0x0200000000000000#64
  else if 0x401440 ≤ off ∧ off < 0x401480 ∧ off % 8 = 0 then 0x0400000000000000#64
  else if off = rLink 0 then 0x800000#64
  else if 0x402020 ≤ off ∧ off ≤ 0x402200 ∧ off % 0x20 = 0 then
    (if off < rLink 9 then 0x100000#64 else if off < rLink 13 then 0x200000#64 else if off = rLink 13 then 0x100000#64 else 0x080000#64)
  else 0

end Sys2Proof.Machine
end

