-- ==== Sys2Proof/Machine/Status.lean ====
section
/-!
DEFINITION. Status codes (R398, R222, R248, R317 and the chapters' own ranges) and event types (R399 and the chapters' own
ranges), by name.
-/

namespace Sys2Proof.Machine

def stOk : Status := 0x0000#16
def stAborted : Status := 0x0001#16
def stAbortTooLate : Status := 0x0002#16
def stFenced : Status := 0x0010#16
def stFunctionDisabled : Status := 0x0011#16
def stTag : Status := 0x0100#16
def stRights : Status := 0x0101#16
def stStale : Status := 0x0102#16
def stUndef : Status := 0x0103#16
def stPoison : Status := 0x0104#16
def stHang : Status := 0x0200#16
def stGuilty : Status := 0x0201#16
def stReplayRefused : Status := 0x0202#16
def stRearmTooSoon : Status := 0x0300#16
def stDuplicate : Status := 0x0301#16
def stHorizon : Status := 0x0302#16
def stKeyExhausted : Status := 0x0400#16
def stKeyErased : Status := 0x0401#16
def stCplTimeout : Status := 0x0500#16
def stDeferredEmergency : Status := 0x0600#16
def stPairSplit : Status := 0x0700#16
def stCkptUnsealed : Status := 0x0800#16
def stGenBadRecord : Status := 0x0A00#16
def stGenTableFull : Status := 0x0A01#16
def stGenNoSeq : Status := 0x0A02#16
def stGenPos : Status := 0x0A03#16
def stGenBusy : Status := 0x0A04#16
def stGenBadLogits : Status := 0x0A05#16
def stGenKvFull : Status := 0x0A06#16
def stGenNoEngines : Status := 0x0A07#16
def stRedBadRecord : Status := 0x0B00#16
def stRedAlgo : Status := 0x0B01#16
def stRedLandingSmall : Status := 0x0B02#16
def stRedSeq : Status := 0x0B03#16
def stRedResources : Status := 0x0B04#16
def stRedShape : Status := 0x0B05#16
def stRedMemberLost : Status := 0x0B06#16
def stRedStepSkipped : Status := 0x0B07#16
def stRedVerdict : Status := 0x0B08#16
def stRedRoute : Status := 0x0B09#16
def stRedHyper : Status := 0x0B0A#16
def stSchNoQueue : Status := 0x0C00#16
def stSchGateNever : Status := 0x0C01#16

def stPairMismatch : Status := 0x0D80#16

/-- Severities of an event (R391). -/
def sevInfo : Nat := 0
def sevWarn : Nat := 1
def sevFatal : Nat := 2

def evRingError : BitVec 16 := 0x0001#16
def evSpringStale : BitVec 16 := 0x0002#16
def evDriverLost : BitVec 16 := 0x0003#16
def evAttached : BitVec 16 := 0x0004#16
def evVfFenced : BitVec 16 := 0x0005#16
def evPortContained : BitVec 16 := 0x0006#16
def evEngResetDone : BitVec 16 := 0x0100#16
def evEngWithdrawn : BitVec 16 := 0x0101#16
def evMeter : BitVec 16 := 0x0500#16
def evLinkSpare : BitVec 16 := 0x0D00#16
def evLinkModuleOut : BitVec 16 := 0x0D01#16
def evLinkDown : BitVec 16 := 0x0D02#16
def evMemUncorrectable : BitVec 16 := 0x0D03#16
def evFaultTransient : BitVec 16 := 0x0D04#16
def evRepaired : BitVec 16 := 0x0D05#16
def evSparesOut : BitVec 16 := 0x0D06#16
def evUnitRetired : BitVec 16 := 0x0D07#16
def evScrubDone : BitVec 16 := 0x0D08#16
def evHardRepairDone : BitVec 16 := 0x0D09#16

end Sys2Proof.Machine
end

