-- ==== Sys2Proof/Machine/Ops.lean ====
section
/-!
DEFINITION. The named operations over the state that every family shares: registers by offset, memory bytes, words and tags
(R42, R45, R50), engines, contexts and their registers, the region table and handles (R53, R325, R338), and the delivery of
records, events and MSI-X messages (R369, R391 to R395).
-/

namespace Sys2Proof.Machine

/-- Bits [lo + w − 1 : lo] of a word, as a number. -/
def bitsOf (x : Word) (lo w : Nat) : Nat := x.toNat / 2 ^ lo % 2 ^ w

/-- The bytes of a number, least significant first (R3). -/
def bytesOf : Nat → Nat → List Byte
  | 0, _ => []
  | n + 1, v => BitVec.ofNat 8 v :: bytesOf n (v / 256)

/-- The number that bytes spell, least significant first (R3). -/
def natOfBytes : List Byte → Nat
  | [] => 0
  | b :: bs => b.toNat + 256 * natOfBytes bs

/-! ## Registers kept by offset -/

/-- The register at an offset. -/
def State.reg (s : State) (off : Nat) : Word := tblGet (regReset off) s.regs off

/-- Write the register at an offset. -/
def State.setReg (s : State) (off : Nat) (v : Word) : State := { s with regs := tblSet (regReset off) s.regs off v }

/-- Add to a counter that wraps at 2^64. -/
def State.bump (s : State) (off : Nat) (n : Nat) : State := s.setReg off (s.reg off + BitVec.ofNat 64 n)

/-- Replace the field [lo + w − 1 : lo] of a word. -/
def putField (x : Word) (lo w v : Nat) : Word :=
  BitVec.ofNat 64 (x.toNat - bitsOf x lo w * 2 ^ lo + v % 2 ^ w * 2 ^ lo)

/-- Set a field of the register at an offset. -/
def State.setRegField (s : State) (off lo w v : Nat) : State := s.setReg off (putField (s.reg off) lo w v)

/-- Add one to a saturating field of a register. -/
def State.satField (s : State) (off lo w : Nat) : State :=
  let v := bitsOf (s.reg off) lo w
  s.setRegField off lo w (if v + 1 < 2 ^ w then v + 1 else v)

/-- Count a register write that is ignored for range, state or conflict (R376). -/
def State.errWr (s : State) : State := s.bump rErrWr 1

/-- A fresh free value, and the state with the counter advanced. -/
def State.draw (s : State) : Word × State := (Config.freeWord s.free, { s with free := s.free + 1 })

/-- Record an output of the device. -/
def State.emit (s : State) (o : Out) : State := { s with out := o :: s.out }

/-! ## Memory -/

/-- The byte at an address. -/
def Memory.byte (m : Memory) (a : Nat) : Byte := tblGet (0 : Byte) m.data a

/-- The tag of the word that holds an address. -/
def Memory.tagAt (m : Memory) (a : Nat) : Tag := tblGet Tag.nil m.tags (a / 8)

/-- `n` bytes from an address, least significant first. -/
def Memory.bytes (m : Memory) (a : Nat) : Nat → List Byte
  | 0 => []
  | n + 1 => m.byte a :: m.bytes (a + 1) n

/-- The number in `n` bytes at an address, little-endian (R3). -/
def Memory.num (m : Memory) (a n : Nat) : Nat := natOfBytes (m.bytes a n)

/-- The tagged word at an address, which is a multiple of 8. -/
def Memory.word (m : Memory) (a : Nat) : TWord := ⟨BitVec.ofNat 64 (m.num a 8), m.tagAt a⟩

/-- Write one byte, leaving the tag. -/
def Memory.setByte (m : Memory) (a : Nat) (b : Byte) : Memory := { m with data := tblSet (0 : Byte) m.data a b }

/-- Write bytes from an address, leaving tags. -/
def Memory.setBytes (m : Memory) (a : Nat) : List Byte → Memory
  | [] => m
  | b :: bs => (m.setByte a b).setBytes (a + 1) bs

/-- Set the tag of the word that holds an address. -/
def Memory.setTag (m : Memory) (a : Nat) (t : Tag) : Memory := { m with tags := tblSet Tag.nil m.tags (a / 8) t }

/-- Write a whole word with its tag, whatever it held. -/
def Memory.setWord (m : Memory) (a : Nat) (w : TWord) : Memory := (m.setBytes a (bytesOf 8 w.bits.toNat)).setTag a w.tag

/-- Set a range of whole words to zero and NIL (R42). -/
def Memory.zero (m : Memory) (a len : Nat) : Memory :=
  { data := tblClear m.data a (a + len), tags := tblClear m.tags (a / 8) ((a + len + 7) / 8) }

/-- NIL or a data tag (R40): the tags that retag, sub-word stores and import tags take. -/
def tagIsData (t : Tag) : Bool := decide (t.toNat ≤ 0xB)

/-- A full-word write (R45): refused on a CODE word, which stays as it was. -/
def Memory.storeWord (m : Memory) (a : Nat) (w : TWord) : Option Memory :=
  if m.tagAt a = Tag.code then none else some (m.setWord a w)

/-- A sub-word store of bytes that lie within one word (R45): a HANDLE word becomes NIL, a POISON or 0xE word is or becomes
POISON and keeps its bytes, a CODE word refuses. -/
def Memory.storeSub (m : Memory) (a : Nat) (bs : List Byte) : Option Memory :=
  let t := m.tagAt a
  if t = Tag.code then none
  else if t = Tag.poison ∨ t = Tag.rsvd then some (m.setTag a Tag.poison)
  else
    let m := m.setBytes a bs
    some (if t = Tag.handle then m.setTag a Tag.nil else m)

/-- A copy-in of bytes that lie within one word, under an import tag (R45): a full word is written, a part follows the
table's last column. -/
def Memory.copyIn (m : Memory) (a : Nat) (bs : List Byte) (imp : Tag) : Option Memory :=
  if bs.length = 8 then m.storeWord a ⟨BitVec.ofNat 64 (natOfBytes bs), imp⟩
  else
    let t := m.tagAt a
    if t = Tag.code then none
    else if t = Tag.poison ∨ t = Tag.rsvd then some (m.setTag a Tag.poison)
    else some ((m.setBytes a bs).setTag a imp)

/-- Bytes from an address split at word boundaries: each piece with its address; `fuel` bounds the pieces. -/
def splitWords : Nat → Nat → List Byte → List (Nat × List Byte)
  | 0, _, _ => []
  | _ + 1, _, [] => []
  | fuel + 1, a, b :: bs =>
    let n := 8 - a % 8
    (a, (b :: bs).take n) :: splitWords fuel (a + n) ((b :: bs).drop n)

/-- Copy bytes in word by word (R45, R48); a CODE word is left as it was. The second part lists the addresses of the words
that refused. -/
def Memory.copyInAll (m : Memory) (a : Nat) (bs : List Byte) (imp : Tag) : Memory × List Nat :=
  (splitWords (bs.length + 1) a bs).foldl (fun (m, bad) (a, ws) =>
    match m.copyIn a ws imp with
    | some m' => (m', bad)
    | none => (m, bad ++ [a])) (m, [])

/-! ## Address space (R27) -/

def hbmTop : Nat := 0x6000000000
def mereBase : Nat := 0x8000000000
def mereTop : Nat := 0x8020000000
def poolBase : Nat := 0x9000000000
def poolTop : Nat := 0x9010000000

/-- An address that R27 assigns to HBM, the Mere or a Pool. -/
def addrExists (a : Nat) : Bool :=
  decide (a < hbmTop) || (decide (mereBase ≤ a) && decide (a < mereTop)) || (decide (poolBase ≤ a) && decide (a < poolTop))

/-- A whole range within one of the three assigned areas. -/
def rangeExists (a len : Nat) : Bool :=
  decide (a + len ≤ hbmTop) || (decide (mereBase ≤ a) && decide (a + len ≤ mereTop)) ||
    (decide (poolBase ≤ a) && decide (a + len ≤ poolTop))

/-- Set a range of whole words to zero and NIL in the device, latent errors included (R42). -/
def State.zeroMem (s : State) (a len : Nat) : State :=
  { s with mem := s.mem.zero a len, latent := tblClear s.latent (a / 8) ((a + len + 7) / 8) }

/-- Write a whole word with its tag, whatever it held; a latent error goes with the old word. -/
def State.putWord (s : State) (a : Nat) (w : TWord) : State :=
  { s with mem := s.mem.setWord a w, latent := tblErase s.latent (a / 8) }

/-- Write whole words from an address, whatever they held. -/
def State.putWords (s : State) (a : Nat) : List TWord → State
  | [] => s
  | w :: ws => (s.putWord a w).putWords (a + 8) ws

/-! ## Engines and contexts -/

def State.eng (s : State) (e : Nat) : Engine := tblGet Engine.reset s.engines e
def State.setEng (s : State) (e : Nat) (x : Engine) : State := { s with engines := tblSet Engine.reset s.engines e x }
def State.updEng (s : State) (e : Nat) (f : Engine → Engine) : State := s.setEng e (f (s.eng e))

def Engine.ctx (x : Engine) (k : Nat) : Ctx := tblGet Ctx.free x.ctxs k
def Engine.setCtx (x : Engine) (k : Nat) (c : Ctx) : Engine := { x with ctxs := tblSet Ctx.free x.ctxs k c }
def Engine.sem (x : Engine) (n : Nat) : Word := tblGet 0 x.sems n
def Engine.setSem (x : Engine) (n : Nat) (w : Word) : Engine := { x with sems := tblSet 0 x.sems n w }
def Engine.acc (x : Engine) (n : Nat) : XAcc := tblGet XAcc.clear x.xs n
def Engine.setAcc (x : Engine) (n : Nat) (a : XAcc) : Engine := { x with xs := tblSet XAcc.clear x.xs n a }
def Engine.queue (x : Engine) (q : Nat) : List Copy := tblGet [] x.queues q
def Engine.setQueue (x : Engine) (q : Nat) (l : List Copy) : Engine := { x with queues := tblSet [] x.queues q l }

def State.ctx (s : State) (c : CtxId) : Ctx := (s.eng c.eng.val).ctx c.slot.val
def State.setCtx (s : State) (c : CtxId) (x : Ctx) : State := s.updEng c.eng.val (fun e => e.setCtx c.slot.val x)
def State.updCtx (s : State) (c : CtxId) (f : Ctx → Ctx) : State := s.setCtx c (f (s.ctx c))

def Ctx.sreg (x : Ctx) (r : Nat) : TWord := tblGet TWord.zero x.s r
def Ctx.setS (x : Ctx) (r : Nat) (w : TWord) : Ctx := { x with s := tblSet TWord.zero x.s r w }
def Ctx.hreg (x : Ctx) (r : Nat) : TWord := tblGet TWord.zero x.h r
def Ctx.setH (x : Ctx) (r : Nat) (w : TWord) : Ctx := { x with h := tblSet TWord.zero x.h r w }
def Ctx.vreg (x : Ctx) (r : Nat) : VVal := tblGet VVal.zero x.v r
def Ctx.setV (x : Ctx) (r : Nat) (w : VVal) : Ctx := { x with v := tblSet VVal.zero x.v r w }
def Ctx.mreg (x : Ctx) (r : Nat) : BitVec 128 := tblGet 0 x.m r
def Ctx.setM (x : Ctx) (r : Nat) (w : BitVec 128) : Ctx := { x with m := tblSet 0 x.m r w }

/-- Every context of the device that is in a slot, with its id. -/
def State.allCtx (s : State) : List (CtxId × Ctx) :=
  s.engines.flatMap fun (e, x) => x.ctxs.map fun (k, c) => (⟨Fin.ofNat 128 e, Fin.ofNat 8 k⟩, c)

/-- CST.STATE codes (R100). -/
def ctxStateCode : CtxState → Nat
  | .ready => 0 | .running => 1 | .waitSem => 2 | .waitBar => 3 | .waitCopy => 4 | .halted => 5 | .faulted => 6
  | .free => 0xF

/-- CST as the context itself, the firmware and a state record read it (R100). -/
def cstOf (slot : Nat) (x : Ctx) (state : CtxState) : Word :=
  BitVec.ofNat 64 (x.fault.toNat + slot * 2 ^ 16 + x.peck.toNat * 2 ^ 24 + x.isa.toNat * 2 ^ 32 +
    ctxStateCode state * 2 ^ 36 + x.repidx.toNat * 2 ^ 40 + x.replay.toNat * 2 ^ 48)

/-! ## Taking a fault (R101): Sorryn's exception entry -/

/-- The context stops: PC stays at the instruction, CST.FAULT takes the status, CST.REPIDX the instance and CST.STATE
becomes FAULTED. Nothing else changes; no Sorryn code runs on a fault, so there is no return from one. -/
def State.faultCtx (s : State) (c : CtxId) (st : Status) (rep : Nat) : State :=
  s.updCtx c fun x => { x with state := .faulted, wait := .none, fault := st, repidx := BitVec.ofNat 8 rep }

/-! ## Region table and handles -/

/-- INDEX of a handle word (R53). -/
def hIndex (w : Word) : Nat := bitsOf w 0 20
/-- GEN of a handle word (R53). -/
def hGen (w : Word) : Nat := bitsOf w 20 16
/-- The rights of a handle word, RD to DRV in bits 0 to 7 (R53). -/
def hRights (w : Word) : BitVec 8 := BitVec.ofNat 8 (bitsOf w 36 8)

def rightRd : Nat := 0
def rightWr : Nat := 1
def rightEx : Nat := 2
def rightCpin : Nat := 3
def rightCpout : Nat := 4
def rightAtom : Nat := 5
def rightRed : Nat := 6
def rightDrv : Nat := 7

/-- Whether a handle word carries a right. -/
def hasRight (w : Word) (r : Nat) : Bool := (hRights w).getLsbD r

/-- A handle word (R53). -/
def mkHandle (index : Nat) (gen : BitVec 16) (rights : BitVec 8) : Word :=
  BitVec.ofNat 64 (index % 2 ^ 20 + gen.toNat * 2 ^ 20 + rights.toNat * 2 ^ 36)

def State.region (s : State) (i : Nat) : Region := tblGet Region.free s.regions i
def State.setRegion (s : State) (i : Nat) (r : Region) : State := { s with regions := tblSet Region.free s.regions i r }

/-- Whether an entry and every entry of its parent chain are in use at the generation the chain names: a derived entry goes
stale with its ancestors (R127, R337). The model revokes descendants when an ancestor goes, so one look suffices. -/
def Region.live (r : Region) : Bool := r.used && !r.retired

/-- The entry a handle names, when the handle is current (R338): entry 0 and free or retired entries are stale. -/
def State.current (s : State) (w : Word) : Option Region :=
  let r := s.region (hIndex w)
  if hIndex w ≠ 0 ∧ r.live ∧ r.gen.toNat = hGen w then some r else none

/-- Reserved bits of a structure are checked at minor version 0 only: at a higher one they may be fields that it adds, which are ignored (R7). -/
def reservedOk (minor : Nat) (zero : Bool) : Bool := minor != 0 || zero

/-- A region resolved from a current handle. -/
def locOf (w : Word) (r : Region) : Loc := ⟨hIndex w, r.gen, r.kind, r.base, r.len, r.aux, r.rkey, r.raddr⟩

/-- No region. -/
def Loc.none : Loc := ⟨0, 0, .local_, 0, 0, 0, 0, 0⟩

/-- Where a Peck's directory lies in the HBM firmware reserve (DESIGN CHOICE: the manual gives no address). -/
def dirBase (p : Nat) : Nat := 0x2FE0000000 + p * 0x8000

/-! ## Records, Springs, events and MSI-X -/

def State.fn (s : State) (f : Nat) : Fn := tblGet Fn.reset s.fns f
def State.setFn (s : State) (f : Nat) (x : Fn) : State := { s with fns := tblSet Fn.reset s.fns f x }
def Fn.vec (f : Fn) (v : Nat) : Vec := tblGet Vec.reset f.vecs v
def Fn.setVec (f : Fn) (v : Nat) (x : Vec) : Fn := { f with vecs := tblSet Vec.reset f.vecs v x }

/-- Whether a function's message is held (R369). -/
def Fn.holds (f : Fn) (v : Nat) : Bool := !f.msixEn || f.fmask || (f.vec v).mask || !f.bme || f.d3

/-- Signal a vector of a function: one message, or its pending bit with a count in INTC_HELD (R369). -/
def State.signalVec (s : State) (f v : Nat) : State :=
  let x := s.fn f
  if x.holds v then (s.setFn f (x.setVec v { x.vec v with pending := true })).bump rHeld 1
  else (s.emit (.msix f v (x.vec v).addr (x.vec v).data)).bump rMsgs 1

/-- Send the pending messages of a function that nothing holds any longer (R369). -/
def State.releaseVecs (s : State) (f : Nat) : State :=
  (s.fn f).vecs.foldl (fun s (v, x) =>
    if x.pending && !(s.fn f).holds v then
      ((s.setFn f ((s.fn f).setVec v { x with pending := false })).emit (.msix f v x.addr x.data)).bump rMsgs 1
    else s) s

/-- The 32 bytes of record `k` of a Spring of 2^log2 records (R391, R392). -/
def recBytes (r : Rec) (phase ovf : Bool) : List Byte :=
  bytesOf 8 (0x10 + r.kind * 2 ^ 8 + (phase.toNat + 2 * ovf.toNat) * 2 ^ 16 + r.byte3.toNat * 2 ^ 24 +
    r.status.toNat * 2 ^ 32 + r.typ.toNat * 2 ^ 48) ++ bytesOf 8 r.w1.toNat ++ bytesOf 8 r.w2.toNat ++ bytesOf 8 r.w3.toNat

def State.spring (s : State) (k : Nat) : Spring := tblGet Spring.reset s.springs k
def State.setSpring (s : State) (k : Nat) (x : Spring) : State := { s with springs := tblSet Spring.reset s.springs k x }

def State.peck (s : State) (p : Nat) : Peck := tblGet Peck.reset s.pecks p
def State.setPeck (s : State) (p : Nat) (x : Peck) : State := { s with pecks := tblSet Peck.reset s.pecks p x }
def State.updPeck (s : State) (p : Nat) (f : Peck → Peck) : State := s.setPeck p (f (s.peck p))

/-- The PF0 function through which the device sends for the manager (0) or a Peck: PF0 of VH 0, or the Peck's VF0. -/
def State.fnOf (s : State) (p : Nat) : Nat := if p = 0 then 0 else (s.peck p).vf0

/-- The link state of a PCI Express port: 0 DOWN, 1 TRAINING, 2 UP, 3 CONTAINED (R377). -/
def pcieLink (s : State) (port : Nat) : Nat := bitsOf (s.reg (rPortStat (port / 4))) (16 * (port % 4)) 2

/-- The virtual hierarchy to which DEVCTL_VHCFG assigns a device-global VF, of PF0 or of PF1 (R352, R377). -/
def State.vhOfVf (s : State) (pf1 : Bool) (vf : Nat) : Nat :=
  let at_ := if pf1 then 16 else 0
  ((List.range 4).find? fun v =>
    let c := s.reg (rVhCfg v)
    decide (bitsOf c at_ 8 ≤ vf) && decide (vf < bitsOf c at_ 8 + bitsOf c (at_ + 8) 8)).getD 0

/-- The Routing ID of a function (R351): PF0 is function 0 and PF1 function 1 of the hierarchy's endpoint bus; VF n of PF0 stands 256 + (n − 1)
after PF0, and VF n of PF1 511 + (n − 1) after PF1. -/
def State.rid (s : State) (f : Nat) : Nat :=
  let bus (v : Nat) : Nat := tblGet 0 s.pcie.epBus v * 256
  let nth (pf1 : Bool) (vf : Nat) : Nat := vf - bitsOf (s.reg (rVhCfg (s.vhOfVf pf1 vf))) (if pf1 then 16 else 0) 8
  if f = 0 then bus 0
  else if f < 256 then bus (s.vhOfVf false f) + 256 + nth false f
  else if f = 256 then bus 0 + 1
  else if f < 512 then bus (s.vhOfVf true (f - 256)) + 1 + 511 + nth true (f - 256)
  else if f < 516 then bus (f - 512)
  else bus (f - 516) + 1

/-- Log one dirty page of a Peck before it is written (R339). -/
def State.logPage (s : State) (p page : Nat) : State :=
  let x := s.peck p
  if !x.logging || x.filter.contains page then s
  else if (x.logwr - x.logrd).toNat ≥ 2 ^ x.logLog2 then s.setPeck p { x with logovf := true }
  else
    let a := x.logBase + BitVec.ofNat 64 (x.logwr.toNat % 2 ^ x.logLog2 * 8)
    let f := if x.filter.length < 65536 then page :: x.filter else x.filter
    (s.emit (.hostWrite 0 (s.rid 0) a (bytesOf 8 (page % 2 ^ 52)) false)).setPeck p { x with logwr := x.logwr + 1, filter := f }

/-- Log every page of a range a Peck's work writes in host memory (R339). -/
def State.logRange (s : State) (p : Nat) (iova : Word) (len : Nat) : State :=
  if !(s.peck p).logging ∨ len = 0 then s
  else (List.range ((iova.toNat + len - 1) / 4096 - iova.toNat / 4096 + 1)).foldl
    (fun s i => s.logPage p (iova.toNat / 4096 + i)) s

/-- A write request the device sends for the manager or a Peck, after the log entries that cover it. -/
def State.hostWrite (s : State) (p : Nat) (iova : Word) (bs : List Byte) (ep : Bool) : State :=
  (s.logRange p iova bs.length).emit (.hostWrite (s.fnOf p) (s.rid (s.fnOf p)) iova bs ep)

/-- Whether the manager or a Peck has a function that can send now: PF0 needs Bus Master Enable and D0 (R370, R373); a fenced
VF sends nothing (R372). -/
def State.canSend (s : State) (p : Nat) : Bool :=
  let x := s.fn (s.fnOf p)
  x.bme && !x.d3 && (p == 0 || ((s.peck p).state != .free && !(s.peck p).fenced))

/-- Write the records a Spring can take now, oldest first: bytes 8 to 31 and then bytes 0 to 7 of each (R392). -/
def drainSpring (p : Nat) : Nat → State → Nat → State
  | 0, s, _ => s
  | fuel + 1, s, k =>
    let x := s.spring k
    match x.hold with
    | [] => s
    | r :: rs =>
      if x.en && s.canSend p && decide ((x.pi - x.ci).toNat < 2 ^ x.log2) then
        let n := x.pi.toNat
        let phase := ((n / 2 ^ x.log2) + 1) % 2 == 1
        let a := x.base + BitVec.ofNat 64 (n % 2 ^ x.log2 * 32)
        let bs := recBytes r phase (x.ovf || (s.peck p).ovf)
        let s := ((s.updPeck p fun y => { y with ovf := false }).hostWrite p (a + 8) (bs.drop 8) false).hostWrite p a (bs.take 8) false
        let unsig := x.unsig + 1
        let x := { x with pi := x.pi + 1, hold := rs, ovf := false, unsig := unsig, first := x.first.or (some s.time) }
        -- COUNT records written, or DELAY of 0: signal (R394)
        let s := if unsig ≥ x.count ∨ x.delay = 0
          then (s.setSpring k { x with unsig := 0, first := none }).signalVec (s.fnOf p) x.vector
          else s.setSpring k x
        drainSpring p fuel s k
      else s

/-- Write what the Spring's hold can release. -/
def State.drain (s : State) (p sp : Nat) : State := drainSpring p ((s.spring (16 * p + sp)).hold.length + 1) s (16 * p + sp)

/-- Write what every Spring of the manager or a Peck can release. -/
def State.drainAll (s : State) (p : Nat) : State := (List.range 16).foldl (fun s sp => s.drain p sp) s

/-- Append a record to the manager log, which holds the last 131,072 (R401). -/
def State.logRec (s : State) (r : Rec) : State :=
  { s with log := (tblSet ⟨0, 0, 0, 0, 0, 0, 0⟩ s.log s.logpi r).filter (fun e => decide (s.logpi < e.1 + 131072)),
           logpi := s.logpi + 1 }

/-- Hand a record to a Spring of a function; an event beyond 1,024 held records is dropped, and the next record written
carries OVF (R392). -/
def State.toSpring (s : State) (f sp : Nat) (r : Rec) : State :=
  let k := 16 * f + sp
  let x := s.spring k
  if r.kind = 2 ∧ x.hold.length ≥ 1024 then s.setSpring k { x with ovf := true }
  else (s.setSpring k { x with hold := x.hold ++ [r] }).drain f sp

/-- Deliver a completion or receive record to a Spring; while the manager is detached its records go to the log (R401). -/
def State.record (s : State) (f sp : Nat) (r : Rec) : State :=
  if f = 0 ∧ !s.attached then s.logRec r else s.toSpring f sp r

/-- The lowest-numbered enabled Spring of a function with EVENTS set (R395). -/
def State.eventSpring (s : State) (f : Nat) : Option Nat :=
  (List.range 16).find? fun sp => (s.spring (16 * f + sp)).en && (s.spring (16 * f + sp)).events

/-- An event record (R391). -/
def evRec (s : State) (sev : Nat) (ty : BitVec 16) (a0 a1 : Word) : Rec :=
  ⟨2, BitVec.ofNat 8 sev, 0, ty, BitVec.ofNat 64 s.time, a0, a1⟩

/-- An event to the manager log; a fatal one that no Spring takes signals the alarm vector (R379, R395). -/
def State.logEvent (s : State) (sev : Nat) (ty : BitVec 16) (a0 a1 : Word) : State :=
  let s := s.logRec (evRec s sev ty a0 a1)
  let av := s.reg rAlarmVec
  if sev = sevFatal ∧ bitsOf av 15 1 = 1 then s.signalVec 0 (bitsOf av 0 11) else s

/-- A manager event (R395): to the event Spring while attached, else to the manager log. PF0 in D3hot sends no request and
its events are logged (R370). -/
def State.mgrEvent (s : State) (sev : Nat) (ty : BitVec 16) (a0 a1 : Word) : State :=
  match (if s.attached && !(s.fn 0).d3 then s.eventSpring 0 else none) with
  | some sp => s.toSpring 0 sp (evRec s sev ty a0 a1)
  | none =>
    let s := s.logEvent sev ty a0 a1
    if (s.fn 0).d3 && (s.fn 0).pmeEn then s.emit (.signal "PME" [0]) else s

/-- A Peck event (R395): dropped when no enabled Spring takes events, and then the Peck's next record carries OVF. A Peck
that is FREE has no driver. -/
def State.peckEvent (s : State) (p sev : Nat) (ty : BitVec 16) (a0 a1 : Word) : State :=
  if (s.peck p).state = .free then s
  else match s.eventSpring p with
    | some sp => s.toSpring p sp (evRec s sev ty a0 a1)
    | none => s.updPeck p fun x => { x with ovf := true }

/-- An in-band interrupt with its mandatory data byte and a second byte, when the controller has enabled them (R545). -/
def State.ibi (s : State) (b x : Nat) : State :=
  if s.i3c.ibi && s.i3c.da.isSome then s.emit (.i3c "IBI" [BitVec.ofNat 8 b, BitVec.ofNat 8 x]) else s

/-- The completion record of an item (R390, R391), and the item leaves the store. -/
def State.completeItem (s : State) (i : Item) (st : Status) (result aux : Word) : State :=
  let s := { s with items := s.items.filter (fun j => decide (j.id ≠ i.id)), starts := s.starts.filter fun x => x.1 ≠ i.id }
  s.record i.fn i.spring ⟨1, BitVec.ofNat 8 i.ring, st, i.typ, i.tag, result, aux⟩

def State.item (s : State) (id : ItemId) : Option Item := s.items.find? fun i => decide (i.id = id)

/-- Replace an item in the store. -/
def State.updItem (s : State) (id : ItemId) (f : Item → Item) : State :=
  { s with items := s.items.map fun i => if i.id = id then f i else i }

/-- The ring slots of a function's ring. -/
def State.ring (s : State) (k : Nat) : Ring := tblGet Ring.reset s.rings k
def State.setRing (s : State) (k : Nat) (x : Ring) : State := { s with rings := tblSet Ring.reset s.rings k x }

/-! ## Reads of memory words: error correction and the reserved tag -/

/-- The unit register that counts the errors of an address, and its unit code (R445, R446). -/
def unitOf (a : Nat) : Nat × Nat :=
  if a < hbmTop then
    let st := (if a ≥ 0x3000000000 then 4 else 0) + a / 4096 % 4
    (rIntgHbm st, 0x03 + st * 256)
  else if a < poolBase then
    let c := (a - mereBase) / 0x4000000
    (rIntgMere c, 0x02 + c * 256)
  else
    let e := (a - poolBase) / 0x200000
    (rIntgPool e, 0x01 + e * 256)

/-- The parity of the bits of a number below 2^n. -/
def parity : Nat → Nat → Nat
  | 0, _ => 0
  | n + 1, x => (x % 2 + parity n (x / 2)) % 2

/-- How many of the low n bits are set. -/
def weight : Nat → Nat → Nat
  | 0, _ => 0
  | n + 1, x => x % 2 + weight n (x / 2)

/-- Row syndrome of an error pattern: bit i set where the parity of byte i disagrees with its stored row parity (R430). -/
def rowSyn (e : ErrPat) : Nat :=
  (List.range 8).foldl (fun a i => a + (parity 8 (bitsOf e.data (8 * i) 8) + e.row.toNat / 2 ^ i) % 2 * 2 ^ i) 0

/-- Column syndrome of an error pattern (R430). -/
def colSyn (e : ErrPat) : Nat :=
  (List.range 8).foldl (fun a j =>
    a + ((List.range 8).foldl (fun p i => p + bitsOf e.data (8 * i + j) 1) (e.col.toNat / 2 ^ j) % 2) * 2 ^ j) 0

/-- What a read of a word finds (R430, R432): nothing, a corrected word (with the flips that remain after the correction),
or an uncorrectable one. -/
inductive EccResult where
  | clean
  | corrected (flips : Word)
  | uncorrectable
deriving DecidableEq, Repr

/-- Decode the data code and the tag code independently (R430); HBM words carry a SECDED code instead (R432). -/
def eccOf (hbm : Bool) (e : ErrPat) : EccResult :=
  if e = ErrPat.none then .clean
  else
    let tagW := weight 8 e.tag.toNat
    if hbm then
      let w := weight 64 e.data.toNat + weight 8 e.row.toNat + weight 8 e.col.toNat + tagW
      if w = 1 then .corrected 0 else .uncorrectable
    else if tagW ≥ 2 then .uncorrectable
    else
      let r := rowSyn e
      let c := colSyn e
      let wr := weight 8 r
      let wc := weight 8 c
      if r = 0 ∧ c = 0 then .corrected e.data
      else if wr = 1 ∧ wc = 1 then .corrected (e.data ^^^ BitVec.ofNat 64 (2 ^ (8 * Nat.log2 r + Nat.log2 c)))
      else if (wr = 1 ∧ c = 0) ∨ (r = 0 ∧ wc = 1) then .corrected e.data
      else .uncorrectable

/-- The word awaits a targeted self-test (R438). -/
def State.addFault (s : State) (a : Nat) : State := { s with intg := { s.intg with faults := s.intg.faults ++ [a] } }

/-- An address of the firmware reserve other than of a Peck directory (R323, R437). -/
def inReserve (a : Nat) : Bool :=
  (decide (0x2FE0800000 ≤ a) && decide (a < 0x3000000000)) || (decide (0x5FE0000000 ≤ a) && decide (a < hbmTop)) ||
    (decide (mereBase ≤ a) && decide (a < mereTop) && decide ((a - mereBase) / 0x10000 % 1024 ≥ 960))

/-- The error of the word at `a` is corrected and counted (R433); `flips` are the bits that the correction itself damages. -/
def State.correctWord (s : State) (a : Nat) (flips : Word) : State :=
  let n := a / 8
  let m := if flips = 0 then s.mem else s.mem.setBytes (n * 8) (bytesOf 8 ((s.mem.word (n * 8)).bits ^^^ flips).toNat)
  (State.satField { s with mem := m, latent := tblSet ErrPat.none s.latent n ErrPat.none } (unitOf a).1 0 32).addFault (n * 8)

/-- The word at `a` is lost: it becomes POISON, is counted and is reported (R434); in the firmware reserve, redundant state repairs it, or a
warm reset is due (R437). -/
def State.loseWord (s : State) (a : Nat) : State :=
  let n := a / 8
  let m := if inReserve a ∧ Config.fwRedundant n then s.mem else s.mem.setTag a Tag.poison
  let r := if inReserve a ∧ !Config.fwRedundant n then { s.rcv with reserve := true } else s.rcv
  ((State.satField { s with mem := m, latent := tblSet ErrPat.none s.latent n ErrPat.none, rcv := r } (unitOf a).1 32 16).mgrEvent sevWarn
    evMemUncorrectable (BitVec.ofNat 64 (unitOf a).2) (BitVec.ofNat 64 (n * 8))).addFault (n * 8)

/-- What a read does about the latent error of a word (R430, R432). -/
def State.eccWord (s : State) (a : Nat) : State :=
  match eccOf (decide (a < hbmTop)) (tblGet ErrPat.none s.latent (a / 8)) with
  | .clean => s
  | .corrected flips => s.correctWord a flips
  | .uncorrectable => s.loseWord a

/-- A word tagged 0xE becomes POISON when it is read (R40, R52). -/
def State.readTag (s : State) (a : Nat) : State :=
  if s.mem.tagAt a = Tag.rsvd then { s with mem := s.mem.setTag a Tag.poison } else s

/-- One word is read by any requester (R433, R434): a latent error is corrected and counted, or the word becomes POISON and
is reported; a word tagged 0xE becomes POISON (R40, R52). -/
def State.settleWord (s : State) (a : Nat) : State := (s.eccWord a).readTag a

/-- The words of a range are read; only words with a latent error or tag 0xE change anything. -/
def State.settle (s : State) (a len : Nat) : State :=
  let hit (n : Nat) : Bool := decide (a / 8 ≤ n) && decide (n * 8 < a + len)
  let ns := (s.latent.filter fun e => hit e.1).map (·.1) ++ (s.mem.tags.filter fun e => hit e.1 && e.2 == Tag.rsvd).map (·.1)
  ns.foldl (fun s n => s.settleWord (n * 8)) s

end Sys2Proof.Machine
end

