-- ==== Sys2Proof/Machine/Crypto.lean ====
section
/-!
DEFINITION. The cryptographic functions that the manual names: AES (FIPS 197) with CBC, CFB128, CTR, GCM and XTS, the key
unwrap of SP 800-38F (KWP), SHA-384 (FIPS 180-4) and membership of P-384. Byte strings are lists of bytes in their own order.
-/

namespace Sys2Proof.Machine

/-! ## AES -/

/-- The AES S-box as one number, entry i in bits [8i + 7 : 8i]. -/
def sboxNum : Nat :=
  0x16bb54b00f2d99416842e6bf0d89a18cdf2855cee9871e9b948ed9691198f8e19e1dc186b95735610ef6034866b53e708a8bbd4b1f74dde8c6b4a61c2e2578ba08ae7a65eaf4566ca94ed58d6d37c8e779e4959162acd3c25c2406490a3a32e0db0b5ede14b8ee4688902a22dc4f816073195d643d7ea7c41744975fec130ccdd2f3ff1021dab6bcf5389d928f40a351a89f3c507f02f94585334d43fbaaefd0cf584c4a39becb6a5bb1fc20ed00d153842fe329b3d63b52a05a6e1b1a2c830975b227ebe28012079a059618c323c7041531d871f1e5a534ccf73f362693fdb7c072a49cafa2d4adf04759fa7dc982ca76abd7fe2b670130c56f6bf27b777c63

/-- The inverse S-box. -/
def invSboxNum : Nat :=
  0x7d0c2155631469e126d677ba7e042b17619953833cbbebc8b0f52aae4d3be0a0ef9cc9939f7ae52d0d4ab519a97f51605fec8027591012b131c7078833a8dd1ff45acd78fec0db9a2079d2c64b3e56fc1bbe18aa0e62b76f89c5291d711af1476edf751ce837f9e28535ade72274ac9673e6b4f0cecff297eadc674f4111913a6b8a130103bdafc1020f3fca8f1e2cd00645b3b80558e4f70ad3bc8c00abd890849d8da75746155edab9edfd5048706c92b6655dcc5ca4d41698688664f6f87225d18b6d49a25b76b224d92866a12e084ec3fa420b954cee3d23c2a632947b54cbe9dec444438e3487ff2f9b8239e37cfbd7f3819ea340bf38a53630d56a0952

def sbox (b : Nat) : Nat := sboxNum / 2 ^ (8 * b) % 256
def invSbox (b : Nat) : Nat := invSboxNum / 2 ^ (8 * b) % 256

/-- Multiplication by x in GF(2^8). -/
def xtime (b : Nat) : Nat := if b < 128 then 2 * b else Nat.xor (2 * b - 256) 0x1B

/-- Multiplication in GF(2^8) by a factor of at most four bits. -/
def gmul (f b : Nat) : Nat :=
  let b2 := xtime b
  let b4 := xtime b2
  let b8 := xtime b4
  Nat.xor (Nat.xor (if f % 2 = 1 then b else 0) (if f / 2 % 2 = 1 then b2 else 0))
    (Nat.xor (if f / 4 % 2 = 1 then b4 else 0) (if f / 8 % 2 = 1 then b8 else 0))

/-- Entry i of a list of numbers. -/
def nth (l : List Nat) (i : Nat) : Nat := l.getD i 0

/-- Xor of two lists of bytes, as long as the first. -/
def xorL : List Nat → List Nat → List Nat
  | [], _ => []
  | a :: as, b :: bs => Nat.xor a b :: xorL as bs
  | a :: as, [] => a :: as

/-- Key expansion: words of four bytes, newest first; `nk` is 4 or 8. -/
def expandKey (nk : Nat) : Nat → Nat → Nat → List (List Nat) → List (List Nat)
  | 0, _, _, ws => ws
  | n + 1, i, rcon, ws =>
    let t := ws.headD []
    let prev := ws.getD (nk - 1) []
    let rot := [sbox (nth t 1), sbox (nth t 2), sbox (nth t 3), sbox (nth t 0)]
    let (t, rcon) :=
      if i % nk = 0 then (xorL rot [rcon, 0, 0, 0], xtime rcon)
      else if nk > 6 ∧ i % nk = 4 then (t.map sbox, rcon)
      else (t, rcon)
    expandKey nk n (i + 1) rcon (xorL prev t :: ws)

/-- Split a list into blocks of n; `fuel` bounds them. -/
def chunks (n : Nat) : Nat → List α → List (List α)
  | 0, _ => []
  | _ + 1, [] => []
  | fuel + 1, l => l.take n :: chunks n fuel (l.drop n)

/-- The round keys of a 16- or 32-byte key, 16 bytes each. -/
def roundKeys (key : List Nat) : List (List Nat) :=
  let nk := key.length / 4
  let total := 4 * (nk + 7)
  let ws := expandKey nk (total - nk) nk 1 (chunks 4 nk key).reverse
  chunks 16 (nk + 7) ws.reverse.flatten

/-- One AES column under MixColumns with the factors of its first row. -/
def mixCol (f : List Nat) (c : List Nat) : List Nat :=
  (List.range 4).map fun r => (List.range 4).foldl (fun a k => Nat.xor a (gmul (nth f ((k + 4 - r) % 4)) (nth c k))) 0

/-- Rows shifted left by r × d columns. -/
def shiftRows (d : Nat) (st : List Nat) : List Nat :=
  (List.range 16).map fun i => nth st ((i / 4 + d * (i % 4)) % 4 * 4 + i % 4)

def encRounds : List (List Nat) → List Nat → List Nat
  | [], st => st
  | [k], st => xorL (shiftRows 1 (st.map sbox)) k
  | k :: ks, st => encRounds ks (xorL ((chunks 4 4 (shiftRows 1 (st.map sbox))).flatMap (mixCol [2, 3, 1, 1])) k)

/-- AES encryption of one 16-byte block. -/
def aesEnc (key blk : List Nat) : List Nat :=
  match roundKeys key with
  | [] => blk
  | k :: ks => encRounds ks (xorL blk k)

def decRounds : List (List Nat) → List Nat → List Nat
  | [], st => st
  | [k], st => xorL ((shiftRows 3 st).map invSbox) k
  | k :: ks, st => decRounds ks ((chunks 4 4 (xorL ((shiftRows 3 st).map invSbox) k)).flatMap (mixCol [14, 11, 13, 9]))

/-- AES decryption of one 16-byte block. -/
def aesDec (key blk : List Nat) : List Nat :=
  match (roundKeys key).reverse with
  | [] => blk
  | k :: ks => decRounds ks (xorL blk k)

/-- Bytes as numbers, and back. -/
def toNats (l : List Byte) : List Nat := l.map BitVec.toNat
def ofNats (l : List Nat) : List Byte := l.map (BitVec.ofNat 8)

/-- The number a byte string spells, most significant byte first, and its n-byte string. -/
def beNat (l : List Nat) : Nat := l.foldl (fun a b => a * 256 + b) 0
def beBytes (n v : Nat) : List Nat := (List.range n).map fun i => v / 256 ^ (n - 1 - i) % 256

/-! ### Modes -/

def cbcEnc (key : List Nat) : List (List Nat) → List Nat → List Nat × List Nat
  | [], iv => ([], iv)
  | b :: bs, iv =>
    let c := aesEnc key (xorL b iv)
    let (r, iv') := cbcEnc key bs c
    (c ++ r, iv')

def cbcDec (key : List Nat) : List (List Nat) → List Nat → List Nat × List Nat
  | [], iv => ([], iv)
  | b :: bs, iv =>
    let (r, iv') := cbcDec key bs b
    (xorL (aesDec key b) iv ++ r, iv')

/-- CFB with a 128-bit segment; `dec` decrypts. The second result is the last ciphertext block. -/
def cfb (dec : Bool) (key : List Nat) : List (List Nat) → List Nat → List Nat × List Nat
  | [], iv => ([], iv)
  | b :: bs, iv =>
    let o := xorL b (aesEnc key iv)
    let (r, iv') := cfb dec key bs (if dec then b else o)
    (o ++ r, iv')

/-- CTR; the second result is the next counter block. -/
def ctrMode (key : List Nat) : List (List Nat) → List Nat → List Nat × List Nat
  | [], iv => ([], iv)
  | b :: bs, iv =>
    let o := xorL b (aesEnc key iv)
    let (r, iv') := ctrMode key bs (beBytes 16 ((beNat iv + 1) % 2 ^ 128))
    (o ++ r, iv')

/-- Blocks of 16 bytes. -/
def blocks16 (l : List Nat) : List (List Nat) := chunks 16 (l.length / 16 + 1) l

/-! ### XTS-AES-256 (IEEE 1619): whole blocks only, since data units are 4,096 bytes -/

/-- Multiplication of a tweak, taken little-endian, by x in GF(2^128). -/
def xtsNext (t : Nat) : Nat := if t < 2 ^ 127 then 2 * t else Nat.xor (2 * t - 2 ^ 128) 0x87

def leNat (l : List Nat) : Nat := l.foldr (fun b a => a * 256 + b) 0
def leBytes (n v : Nat) : List Nat := (List.range n).map fun i => v / 256 ^ i % 256

def xtsBlocks (f : List Nat → List Nat) : List (List Nat) → Nat → List Nat
  | [], _ => []
  | b :: bs, t => xorL (f (xorL b (leBytes 16 t))) (leBytes 16 t) ++ xtsBlocks f bs (xtsNext t)

/-- One data unit under a 64-byte key, data key first (R448), and its tweak number (R414). -/
def xts (dec : Bool) (key : List Nat) (n : Nat) (unit_ : List Nat) : List Nat :=
  let t := leNat (aesEnc (key.drop 32) (leBytes 16 n))
  xtsBlocks (if dec then aesDec (key.take 32) else aesEnc (key.take 32)) (blocks16 unit_) t

/-! ### GCM -/

/-- Multiplication in GF(2^128) with the bit order of GCM: bit 0 is the most significant. -/
def gcmMulLoop : Nat → Nat → Nat → Nat → Nat
  | 0, _, _, z => z
  | n + 1, x, v, z =>
    let z := if x / 2 ^ n % 2 = 1 then Nat.xor z v else z
    let v := if v % 2 = 1 then Nat.xor (v / 2) (0xE1 * 2 ^ 120) else v / 2
    gcmMulLoop n x v z

def ghash (h : Nat) (l : List (List Nat)) : Nat :=
  l.foldl (fun y b => gcmMulLoop 128 (Nat.xor y (beNat (b ++ List.replicate (16 - b.length) 0))) h 0) 0

def gctr (key : List Nat) : List (List Nat) → Nat → List Nat
  | [], _ => []
  | b :: bs, c => xorL b (aesEnc key (beBytes 16 c)) ++ gctr key bs (c / 2 ^ 32 * 2 ^ 32 + (c + 1) % 2 ^ 32)

/-- AES-GCM with a 96-bit nonce: ciphertext and 16-byte tag. -/
def gcmEnc (key iv aad pt : List Nat) : List Nat × List Nat :=
  let h := beNat (aesEnc key (List.replicate 16 0))
  let j0 := beNat iv * 2 ^ 32 + 1
  let ct := gctr key (blocks16 pt) (j0 + 1)
  let s := ghash h (blocks16 aad ++ blocks16 ct ++ [beBytes 8 (8 * aad.length) ++ beBytes 8 (8 * ct.length)])
  (ct, xorL (beBytes 16 s) (aesEnc key (beBytes 16 j0)))

/-- AES-GCM decryption: the plaintext when the tag verifies. -/
def gcmDec (key iv aad ct tag : List Nat) : Option (List Nat) :=
  let h := beNat (aesEnc key (List.replicate 16 0))
  let j0 := beNat iv * 2 ^ 32 + 1
  let s := ghash h (blocks16 aad ++ blocks16 ct ++ [beBytes 8 (8 * aad.length) ++ beBytes 8 (8 * ct.length)])
  if xorL (beBytes 16 s) (aesEnc key (beBytes 16 j0)) = tag then some (gctr key (blocks16 ct) (j0 + 1)) else none

/-! ### Key wrap with padding (SP 800-38F, KWP) -/

/-- One unwrap step on (A, R) for counter t = n·j + i. -/
def kwStep (key : List Nat) (a : List Nat) (r : List (List Nat)) (i t : Nat) : List Nat × List (List Nat) :=
  let b := aesDec key (xorL a (beBytes 8 t) ++ r.getD (i - 1) [])
  (b.take 8, r.set (i - 1) (b.drop 8))

/-- The unwrap steps in decreasing order of t. -/
def kwLoop (key : List Nat) (n : Nat) : Nat → List Nat → List (List Nat) → List Nat × List (List Nat)
  | 0, a, r => (a, r)
  | t + 1, a, r =>
    let (a, r) := kwStep key a r (t % n + 1) (t + 1)
    kwLoop key n t a r

/-- KWP unwrap of a string of 64-bit semiblocks: the key bytes when the integrity check holds. -/
def kwpUnwrap (key c : List Nat) : Option (List Nat) :=
  let sb := chunks 8 (c.length / 8 + 1) c
  let n := sb.length - 1
  let (a, r) := if n = 1 then let b := aesDec key c; (b.take 8, [b.drop 8]) else kwLoop key n (6 * n) (sb.headD []) (sb.drop 1)
  let p := r.flatten
  let len := beNat (a.drop 4)
  if a.take 4 = [0xA6, 0x59, 0x59, 0xA6] ∧ 8 * (n - 1) < len ∧ len ≤ 8 * n ∧ (p.drop len).all (· == 0) then some (p.take len)
  else none

/-! ## SHA-384 -/

/-- The 80 round constants, constant i in bits [64i + 63 : 64i]. -/
def shaKNum : Nat :=
  0x6c44198c4a4758175fcb6fab3ad6faec597f299cfc657e2a4cc5d4becb3e42b6431d67c49c100d4c3c9ebe0a15c9bebc32caab7b40c7249328db77f523047d841b710b35131c471b113f9804bef90dae0a637dc5a2c898a606f067aa72176fbaf57d4f7fee6ed178eada7dd6cde0eb1ed186b8c721c0c207ca273eceea26619cc67178f2e372532bbef9a3f7b2c67915a4506cebde82bde990befffa23631e288cc702081a6439ec84c87814a1f0ab7278a5636f43172f60748f82ee5defb2fc682e6ff3d6b2b8a35b9cca4f7763e3734ed8aa4ae3418acb391c0cb3c5c95a6334b0bcb5e19b48a82748774cdf8eeb991e376c085141ab5319a4c116b8d2d0c8106aa07032bbd1b8f40e35855771202ad69906245565a910d192e819d6ef5218c76c51a30654be30c24b8b70d0f89791a81a664bbc423001a2bfe8a14cf1036492722c851482353b81c2c92e47edaee6766a0abb3c77b2a8650a73548baf63de53380d139d95b3df4d2c6dfc5ac42aed2e1b21385c26c92627b70a8546d22ffc142929670a0e6e7006ca6351e003826fd5a79147930aa725c6e00bf33da88fc2bf597fc7beef0ee4b00327c898fb213fa831c66d2db43210983e5152ee66dfab76f988da831153b55cb0a9dcbd41fbd44a7484aa6ea6e4832de92c6f592b0275240ca1cc77ac9c650fc19dc68b8cd5b5efbe4786384f25e3e49b69c19ef14ad2c19bf174cf6926949bdc06a725c7123580deb1fe3b1696b172be5d74f27b896f550c7dc3d5ffb4e2243185be4ee4b28c12835b0145706fbed807aa98a3030242ab1c5ed5da6d8118923f82a4af194f9b59f111f1b605d0193956c25bf348b538e9b5dba58189dbbcb5c0fbcfec4d3b2f7137449123ef65cd428a2f98d728ae22

/-- The initial hash value. -/
def shaHNum : Nat :=
  0x47b5481dbefa4fa4db0c2e0d64f98fa78eb44a876858151167332667ffc00b31152fecd8f70e59399159015a3070dd17629a292a367cd507cbbb9d5dc1059ed8

def shaK (i : Nat) : Word := BitVec.ofNat 64 (shaKNum / 2 ^ (64 * i))

/-- The message schedule, newest word first. -/
def shaSched : Nat → List Word → List Word
  | 0, w => w
  | n + 1, w =>
    let x := w.getD 14 0
    let y := w.getD 1 0
    let s0 := x.rotateRight 1 ^^^ x.rotateRight 8 ^^^ (x >>> 7)
    let s1 := y.rotateRight 19 ^^^ y.rotateRight 61 ^^^ (y >>> 6)
    shaSched n ((w.getD 15 0 + s0 + w.getD 6 0 + s1) :: w)

def shaRounds : Nat → List Word → List Word → List Word
  | _, [], h => h
  | i, w :: ws, h =>
    let a := h.getD 0 0
    let b := h.getD 1 0
    let c := h.getD 2 0
    let e := h.getD 4 0
    let f := h.getD 5 0
    let g := h.getD 6 0
    let s1 := e.rotateRight 14 ^^^ e.rotateRight 18 ^^^ e.rotateRight 41
    let ch := (e &&& f) ^^^ (~~~e &&& g)
    let t1 := h.getD 7 0 + s1 + ch + shaK i + w
    let s0 := a.rotateRight 28 ^^^ a.rotateRight 34 ^^^ a.rotateRight 39
    let maj := (a &&& b) ^^^ (a &&& c) ^^^ (b &&& c)
    shaRounds (i + 1) ws [t1 + s0 + maj, a, b, c, h.getD 3 0 + t1, e, f, g]

def addWords : List Word → List Word → List Word
  | a :: as, b :: bs => (a + b) :: addWords as bs
  | _, _ => []

def shaBlock (h : List Word) (blk : List Nat) : List Word :=
  let w := (chunks 8 16 blk).map fun b => BitVec.ofNat 64 (beNat b)
  addWords h (shaRounds 0 (shaSched 64 w.reverse).reverse h)

/-- SHA-384 of a byte string: 48 bytes. -/
def sha384 (m : List Nat) : List Nat :=
  let pad := (256 - (m.length + 17) % 128) % 128
  let p := m ++ [0x80] ++ List.replicate pad 0 ++ beBytes 16 (8 * m.length)
  let h0 := (List.range 8).map fun i => BitVec.ofNat 64 (shaHNum / 2 ^ (64 * i))
  let h := (chunks 128 (p.length / 128) p).foldl shaBlock h0
  ((h.take 6).flatMap fun w => beBytes 8 w.toNat)

/-! ## P-384 -/

def p384 : Nat := 2 ^ 384 - 2 ^ 128 - 2 ^ 96 + 2 ^ 32 - 1
def b384 : Nat := 0xb3312fa7e23ee7e4988e056be3f82d19181d9c6efe8141120314088f5013875ac656398d8a2ed19d2a85c8edd3ec2aef

/-- Whether a coordinate pair is a point of P-384. -/
def onP384 (x y : Nat) : Bool :=
  decide (x < p384) && decide (y < p384) && decide (y * y % p384 = (x * x * x + (p384 - 3) * x + b384) % p384)

end Sys2Proof.Machine
end

