-- ==== Sys2Proof/Machine/Ecc.lean ====
section
/-!
DEFINITION. P-384 (FIPS 186-5) for the device key pairs: points, ECDH, ECDSA with SHA-384 (R452 to R456), the key wrap, and random bits
drawn from the guard die's generator.
-/

namespace Sys2Proof.Machine

/-- A field of a record's bytes as a number. -/
def recNum (bs : List Byte) (at_ n : Nat) : Nat := natOfBytes ((bs.drop at_).take n)

/-- Bytes of zero. -/
def zeros (n : Nat) : List Byte := List.replicate n 0

/-! ## The curve -/

/-- Order of the base point. -/
def n384 : Nat := 0xffffffffffffffffffffffffffffffffffffffffffffffffc7634d81f4372ddf581a0db248b0a77aecec196accc52973
/-- The base point. -/
def g384 : Nat × Nat :=
  (0xaa87ca22be8b05378eb1c71ef320ad746e1d3b628ba79b9859f741e082542a385502f25dbf55296c3a545e3872760ab7,
   0x3617de4a96262c6f5d9e98bf9292dc29f8f41dbd289a147ce9da3113b5f0b8c00a60b1ce1d7e819d7a431d7c90ea0e5f)

/-- b^e modulo m over the low `fuel` bits of e. -/
def powMod (m : Nat) : Nat → Nat → Nat → Nat → Nat
  | 0, _, _, acc => acc
  | fuel + 1, b, e, acc => powMod m fuel (b * b % m) (e / 2) (if e % 2 = 1 then acc * b % m else acc)

/-- Inverse modulo a prime below 2^384. -/
def invMod (m a : Nat) : Nat := powMod m 384 (a % m) (m - 2) 1

/-- A point: none at infinity. -/
abbrev EcPoint := Option (Nat × Nat)

/-- Addition of points. -/
def ecAdd (a b : EcPoint) : EcPoint :=
  match a, b with
  | none, q => q
  | p, none => p
  | some (x1, y1), some (x2, y2) =>
    let p := p384
    if x1 = x2 ∧ (y1 + y2) % p = 0 then none
    else
      let l := if x1 = x2 then (3 * x1 * x1 + p - 3) * invMod p (2 * y1) % p else (y2 + p - y1) * invMod p (x2 + p - x1) % p
      let x := (l * l + 2 * p - x1 - x2) % p
      some (x, (l * (x1 + p - x) + p - y1) % p)

/-- Multiple of a point over the low `fuel` bits of k. -/
def ecMul : Nat → Nat → EcPoint → EcPoint → EcPoint
  | 0, _, _, acc => acc
  | fuel + 1, k, q, acc => ecMul fuel (k / 2) (ecAdd q q) (if k % 2 = 1 then ecAdd acc q else acc)

/-- k times a point. -/
def ecTimes (k : Nat) (q : EcPoint) : EcPoint := ecMul 384 k q none

def ecX (q : EcPoint) : Nat := (q.getD (0, 0)).1
def ecY (q : EcPoint) : Nat := (q.getD (0, 0)).2

/-- Private scalars: nonzero and below the order. -/
def scalar (n : Nat) : Nat := n % (n384 - 1) + 1

/-- The device's public keys (R452, R453). -/
def importPub : EcPoint := ecTimes (scalar Config.importKey) (some g384)
def signPub : EcPoint := ecTimes (scalar Config.signKey) (some g384)

/-! ## Random bits -/

/-- n bytes of the guard die's random generator: open values. -/
def randomBytes (s : State) (n : Nat) : State × List Byte :=
  let k := (n + 7) / 8
  ({ s with free := s.free + k }, ((List.range k).flatMap fun i => bytesOf 8 (Config.freeWord (s.free + i)).toNat).take n)

/-! ## ECDSA -/

/-- A signature by SIGN: R_ and S_ of 48 bytes each, little-endian (R453). The nonce is an open value. -/
def ecdsaSign (s : State) (msg : List Byte) : State × List Byte :=
  let (s, kb) := randomBytes s 48
  let k := scalar (natOfBytes kb)
  let e := beNat (sha384 (toNats msg))
  let r := ecX (ecTimes k (some g384)) % n384
  let v := invMod n384 k * ((e + r * scalar Config.signKey) % n384) % n384
  (s, bytesOf 48 r ++ bytesOf 48 v)

/-- Whether a signature verifies under a public key. -/
def ecdsaVerify (pub : EcPoint) (msg sig : List Byte) : Bool :=
  let r := natOfBytes (sig.take 48)
  let v := natOfBytes ((sig.drop 48).take 48)
  let e := beNat (sha384 (toNats msg))
  let w := invMod n384 v
  let q := ecAdd (ecTimes (e * w % n384) (some g384)) (ecTimes (r * w % n384) pub)
  decide (0 < r) && decide (r < n384) && decide (0 < v) && decide (v < n384) && q.isSome && ecX q % n384 == r

/-! ## ECDH and the key wrap (R456) -/

/-- The key-encryption key of R456 from a shared x coordinate and otherinfo. -/
def kekOf (z : Nat) (info : List Byte) : List Nat := (sha384 ([0, 0, 0, 1] ++ beBytes 48 z ++ toNats info)).take 32

/-- otherinfo of R456. -/
def otherInfo (devid : BitVec 48) (peck kind use count : Nat) : List Byte :=
  bytesOf 8 devid.toNat ++ bytesOf 1 peck ++ bytesOf 1 kind ++ bytesOf 1 use ++ bytesOf 8 count

/-- One wrap step, the inverse of `kwStep`. -/
def kwWrapStep (key : List Nat) (a : List Nat) (r : List (List Nat)) (i t : Nat) : List Nat × List (List Nat) :=
  let b := aesEnc key (a ++ r.getD (i - 1) [])
  (xorL (b.take 8) (beBytes 8 t), r.set (i - 1) (b.drop 8))

/-- The wrap steps in increasing order of t, `left` of them to do. -/
def kwWrapLoop (key : List Nat) (n : Nat) : Nat → Nat → List Nat → List (List Nat) → List Nat × List (List Nat)
  | 0, _, a, r => (a, r)
  | left + 1, t, a, r =>
    let (a, r) := kwWrapStep key a r (t % n + 1) (t + 1)
    kwWrapLoop key n left (t + 1) a r

/-- KWP wrap (SP 800-38F) of a key of a multiple of 8 bytes, at least 16. -/
def kwpWrap (key p : List Nat) : List Nat :=
  let r := chunks 8 (p.length / 8) p
  let n := r.length
  let (a, r) := kwWrapLoop key n (6 * n) 0 ([0xA6, 0x59, 0x59, 0xA6] ++ beBytes 4 p.length) r
  a ++ r.flatten

end Sys2Proof.Machine
end

