-- ==== Sys2Proof/Machine/Float.lean ====
section
/-!
DEFINITION. Exact values and rounding: the element encodings of R57, exact arithmetic on decoded values (R60), one
rounding by the modes of R61 and R75, and the conversion rules of R63 to R66 for single elements.
-/

namespace Sys2Proof.Machine

/-- A decoded value: a finite value is (−1)^neg × m × 2^e with `m` positive, so that every element is held exactly. -/
inductive FVal where
  | nan
  | inf (neg : Bool)
  | zero (neg : Bool)
  | num (neg : Bool) (m : Nat) (e : Int)
deriving DecidableEq, Repr

/-- How an element format marks infinities and NaNs (R57). -/
inductive Specials where
  | ieee      -- exponent all ones: mantissa 0 infinity, else NaN
  | e4m3      -- only S.1111.111 is NaN, no infinity
  | finite    -- every code is a number
deriving DecidableEq, Repr

/-- A floating-point element format (R57). -/
structure EFmt where
  ebits : Nat
  mbits : Nat
  bias  : Int
  sp    : Specials
deriving DecidableEq, Repr

def fmtFp64 : EFmt := ⟨11, 52, 1023, .ieee⟩
def fmtFp32 : EFmt := ⟨8, 23, 127, .ieee⟩
def fmtBf16 : EFmt := ⟨8, 7, 127, .ieee⟩
def fmtFp16 : EFmt := ⟨5, 10, 15, .ieee⟩
def fmtE5m2 : EFmt := ⟨5, 2, 15, .ieee⟩
def fmtE4m3 : EFmt := ⟨4, 3, 7, .e4m3⟩
def fmtE3m2 : EFmt := ⟨3, 2, 3, .finite⟩
def fmtE2m3 : EFmt := ⟨2, 3, 1, .finite⟩
def fmtE2m1 : EFmt := ⟨2, 1, 1, .finite⟩

/-- Width of an element in bits. -/
def EFmt.width (f : EFmt) : Nat := 1 + f.ebits + f.mbits

/-- The value of an element's bits (R57). -/
def decodeE (f : EFmt) (b : Nat) : FVal :=
  let man := b % 2 ^ f.mbits
  let ex := b / 2 ^ f.mbits % 2 ^ f.ebits
  let neg := b / 2 ^ (f.mbits + f.ebits) % 2 == 1
  let emax := 2 ^ f.ebits - 1
  if f.sp = .ieee ∧ ex = emax then (if man = 0 then .inf neg else .nan)
  else if f.sp = .e4m3 ∧ ex = emax ∧ man = 2 ^ f.mbits - 1 then .nan
  else if ex = 0 then (if man = 0 then .zero neg else .num neg man (1 - f.bias - f.mbits))
  else .num neg (2 ^ f.mbits + man) ((ex : Int) - f.bias - f.mbits)

/-- The bits of the largest finite magnitude (R57). -/
def maxFinBits (f : EFmt) : Nat :=
  match f.sp with
  | .ieee => (2 ^ f.ebits - 1) * 2 ^ f.mbits - 1
  | .e4m3 => 2 ^ (f.ebits + f.mbits) - 2
  | .finite => 2 ^ (f.ebits + f.mbits) - 1

/-- The bits of +∞ where the format has one. -/
def infBits (f : EFmt) : Nat := (2 ^ f.ebits - 1) * 2 ^ f.mbits

/-- The canonical NaN of a format, positive (R64): quiet bit only for the IEEE formats above 8 bits, all mantissa ones
for E5M2 and E4M3 (0x7F). -/
def nanBits (f : EFmt) : Nat :=
  if f.mbits ≤ 3 then 2 ^ (f.ebits + f.mbits) - 1
  else (2 ^ f.ebits - 1) * 2 ^ f.mbits + 2 ^ (f.mbits - 1)

/-- The sign bit of a format. -/
def signBit (f : EFmt) (neg : Bool) : Nat := if neg then 2 ^ (f.ebits + f.mbits) else 0

/-- Floor of the binary logarithm of a positive m × 2^e. -/
def ilog2 (m : Nat) (e : Int) : Int := (Nat.log2 m : Int) + e

/-- Exact comparison of m × 2^e with n × 2^g. -/
def cmpMag (m : Nat) (e : Int) (n : Nat) (g : Int) : Ordering :=
  if e ≥ g then compare (m * 2 ^ (e - g).toNat) n else compare m (n * 2 ^ (g - e).toNat)

/-- The signed integer m × 2^(e − q), for e at least q. -/
def scaleTo (neg : Bool) (m : Nat) (e q : Int) : Int :=
  let k : Nat := m * 2 ^ (e - q).toNat
  if neg then -(k : Int) else k

/-- A signed integer times 2^q as a value; zero takes the sign `zneg`. -/
def ofScaled (zneg : Bool) (k : Int) (q : Int) : FVal :=
  if k = 0 then .zero zneg else .num (decide (k < 0)) k.natAbs q

def FVal.neg : FVal → FVal
  | .nan => .nan
  | .inf n => .inf (!n)
  | .zero n => .zero (!n)
  | .num n m e => .num (!n) m e

def FVal.isNeg : FVal → Bool
  | .nan => false
  | .inf n => n
  | .zero n => n
  | .num n _ _ => n

def FVal.isNan : FVal → Bool
  | .nan => true
  | _ => false

def FVal.isZero : FVal → Bool
  | .zero _ => true
  | _ => false

def FVal.isFinite : FVal → Bool
  | .zero _ => true
  | .num _ _ _ => true
  | _ => false

def FVal.abs : FVal → FVal
  | .nan => .nan
  | .inf _ => .inf false
  | .zero _ => .zero false
  | .num _ m e => .num false m e

/-- The exact product (R60): 0 × ∞ is NaN (R129). -/
def FVal.mul : FVal → FVal → FVal
  | .nan, _ => .nan
  | _, .nan => .nan
  | .inf a, .inf b => .inf (a != b)
  | .inf _, .zero _ => .nan
  | .zero _, .inf _ => .nan
  | .inf a, .num b _ _ => .inf (a != b)
  | .num a _ _, .inf b => .inf (a != b)
  | .zero a, .zero b => .zero (a != b)
  | .zero a, .num b _ _ => .zero (a != b)
  | .num a _ _, .zero b => .zero (a != b)
  | .num a m e, .num b n g => .num (a != b) (m * n) (e + g)

/-- The sign of a zero that a sum of nonzero terms of both signs gives: negative only when rounding toward −∞
(IEEE 754-2019, R60). -/
def zeroSumNeg (rm : Rm) : Bool := rm == .rd

/-- The exact sum of two values (R60). -/
def FVal.add (rm : Rm) : FVal → FVal → FVal
  | .nan, _ => .nan
  | _, .nan => .nan
  | .inf a, .inf b => if a = b then .inf a else .nan
  | .inf a, _ => .inf a
  | _, .inf b => .inf b
  | .zero a, .zero b => .zero (if a = b then a else zeroSumNeg rm)
  | .zero _, y => y
  | x, .zero _ => x
  | .num a m e, .num b n g =>
    let q := min e g
    ofScaled (zeroSumNeg rm) (scaleTo a m e q + scaleTo b n g q) q

/-- Multiply a value by 2^k exactly. -/
def FVal.scale (k : Int) : FVal → FVal
  | .num a m e => .num a m (e + k)
  | x => x

/-- Exact comparison of two numbers, NaN excluded: less, equal or greater; −0 equals +0. -/
def FVal.cmp : FVal → FVal → Ordering
  | .inf a, .inf b => if a = b then .eq else if a then .lt else .gt
  | .inf a, _ => if a then .lt else .gt
  | _, .inf b => if b then .gt else .lt
  | .zero _, .zero _ => .eq
  | .zero _, .num b _ _ => if b then .gt else .lt
  | .num a _ _, .zero _ => if a then .lt else .gt
  | .num a m e, .num b n g =>
    match a, b with
    | false, true => .gt
    | true, false => .lt
    | false, false => cmpMag m e n g
    | true, true => cmpMag n g m e
  | _, _ => .eq

/-- The exact sum of a list (R60, R131, R150): one NaN or two opposite infinities give NaN; a zero total is −0 when every
addend is −0, and otherwise takes the sign of a mixed zero sum. The empty sum is +0 in every rounding mode (DESIGN CHOICE, log
entry 11). -/
def sumF (rm : Rm) (xs : List FVal) : FVal :=
  if xs.any FVal.isNan then .nan else
  let pinf := xs.any fun x => x == .inf false
  let ninf := xs.any fun x => x == .inf true
  if pinf && ninf then .nan else if pinf then .inf false else if ninf then .inf true else
  let q : Int := xs.foldl (fun (q : Int) x => match x with | .num _ _ e => min q e | _ => q) 0
  let k : Int := xs.foldl (fun (k : Int) x => match x with | .num a m e => k + scaleTo a m e q | _ => k) 0
  let anyNum := xs.any fun x => match x with | .num _ _ _ => true | _ => false
  let allNeg := xs.all fun x => x == .zero true
  let allPos := xs.all fun x => x == .zero false
  ofScaled (if anyNum then zeroSumNeg rm else if allNeg then !xs.isEmpty else if allPos then false else zeroSumNeg rm) k q

/-- What a rounding draws on: the mode and the random word of a stochastic rounding (R61, R76). -/
structure Rnd where
  rm : Rm
  r  : BitVec 32
deriving DecidableEq, Repr

/-- Round the non-negative m × 2^e to a multiple of 2^q: the multiple, and whether the result is inexact. The sign selects
the direction of RU and RD; SR follows R75. -/
def roundInt (d : Rnd) (neg : Bool) (m : Nat) (e q : Int) : Nat × Bool :=
  if e ≥ q then (m * 2 ^ (e - q).toNat, false)
  else
    let k := (q - e).toNat
    let lo := m / 2 ^ k
    let rem := m % 2 ^ k
    if rem = 0 then (lo, false)
    else
      let up : Bool := match d.rm with
        | .rz => false
        | .ru => !neg
        | .rd => neg
        | .rne => decide (2 * rem > 2 ^ k) || (decide (2 * rem = 2 ^ k) && lo % 2 == 1)
        | .sr => decide (d.r.toNat < rem * 2 ^ 32 / 2 ^ k)
      (if up then lo + 1 else lo, true)

/-- How a finite overflow ends (R63): by IEEE 754 for the rounding direction, under SR as infinity (rule N, R75), or
saturated (rules S and M). -/
inductive Ovf where
  | ieee | sat
deriving DecidableEq, Repr

/-- Bits of the magnitude n × 2^q in a format, where q is the rounding quantum the value was rounded at. -/
def packMag (f : EFmt) (n : Nat) (q : Int) : Nat :=
  if n = 0 then 0
  else
    let emin := 1 - f.bias - f.mbits
    -- bring the leading bit to the hidden position unless the value is subnormal
    let l := Nat.log2 n
    if l < f.mbits ∨ (q = emin ∧ l < f.mbits) then n
    else
      let sh := l - f.mbits
      let man := n / 2 ^ sh - 2 ^ f.mbits
      let ex := q + sh + f.mbits + f.bias
      ex.toNat * 2 ^ f.mbits + man

/-- Round a value once into a format: its bits, and whether the result differs from the exact value (R62). -/
def roundE (f : EFmt) (o : Ovf) (d : Rnd) (v : FVal) : Nat × Bool :=
  match v with
  | .nan => (nanBits f, false)
  | .inf neg =>
    match f.sp with
    | .ieee => (infBits f + signBit f neg, false)
    | _ => (nanBits f, true)
  | .zero neg => (signBit f neg, false)
  | .num neg m e =>
    let emin := 1 - f.bias - f.mbits
    let q := max (ilog2 m e - f.mbits) emin
    let (n, ix) := roundInt d neg m e q
    let big : Bool := match decodeE f (maxFinBits f) with
      | .num _ mm me =>
        (if d.rm = .sr then decide (cmpMag m e mm me = .gt) else decide (n ≠ 0) && decide (cmpMag n q mm me = .gt))
      | _ => false
    if big then
      let toInf : Bool := match o with
        | .sat => false
        | .ieee => match d.rm with
          | .rne => true
          | .rz => false
          | .ru => !neg
          | .rd => neg
          | .sr => true
      ((if toInf then infBits f else maxFinBits f) + signBit f neg, true)
    else (packMag f n q + signBit f neg, ix)

/-- Round a value to a two's complement integer of `w` bits, saturated (rule F of R63, R64). -/
def roundI (w : Nat) (d : Rnd) (v : FVal) : Int × Bool :=
  let hi : Int := 2 ^ (w - 1) - 1
  let lo : Int := -(2 ^ (w - 1))
  match v with
  | .nan => (0, true)
  | .inf neg => (if neg then lo else hi, true)
  | .zero _ => (0, false)
  | .num neg m e =>
    -- under SR a magnitude beyond the end of the range saturates without a draw (R75)
    let ovr : Bool := if neg then decide (cmpMag m e (2 ^ (w - 1)) 0 = .gt) else decide (cmpMag m e (2 ^ (w - 1) - 1) 0 = .gt)
    if d.rm = .sr ∧ ovr then (if neg then lo else hi, true)
    else
      let (n, ix) := roundInt d neg m e 0
      let k : Int := if neg then -(n : Int) else n
      if k > hi then (hi, true) else if k < lo then (lo, true) else (k, ix)

/-! ## Quotients and roots: the exact value truncated far below the rounding quantum, with a sticky bit -/

/-- Extra quotient bits kept below the widest mantissa: enough for the 32-bit draw of R75. -/
def guardBits : Nat := 128

/-- A truncated value with a sticky bit below it: m bits and one more that is set when anything was lost. -/
def sticky (neg : Bool) (m : Nat) (lost : Bool) (e : Int) : FVal :=
  .num neg (2 * m + (if lost then 1 else 0)) (e - 1)

/-- The quotient a ÷ b of two values (IEEE 754-2019, R60). -/
def FVal.div : FVal → FVal → FVal
  | .nan, _ => .nan
  | _, .nan => .nan
  | .inf _, .inf _ => .nan
  | .inf a, y => .inf (a != y.isNeg)
  | x, .inf b => .zero (x.isNeg != b)
  | .zero _, .zero _ => .nan
  | .zero a, .num b _ _ => .zero (a != b)
  | .num a _ _, .zero b => .inf (a != b)
  | .num a m e, .num b n g =>
    let k := guardBits + Nat.log2 n
    let num := m * 2 ^ k
    sticky (a != b) (num / n) (decide (num % n ≠ 0)) (e - g - k)

/-- One Newton step towards the integer square root of `n`. -/
def isqrtStep (n x : Nat) : Nat := if x = 0 then 0 else (x + n / x) / 2

/-- Newton iterations from above, stopping when the estimate no longer falls. -/
def isqrtLoop (n : Nat) : Nat → Nat → Nat
  | 0, x => x
  | k + 1, x =>
    let y := isqrtStep n x
    if y < x then isqrtLoop n k y else x

/-- The integer square root. -/
def isqrt (n : Nat) : Nat :=
  if n = 0 then 0 else isqrtLoop n (Nat.log2 n + 4) (2 ^ (Nat.log2 n / 2 + 1))

/-- √a: NaN for a negative non-zero value (R129). -/
def FVal.sqrt : FVal → FVal
  | .nan => .nan
  | .zero n => .zero n
  | .inf n => if n then .nan else .inf false
  | .num neg m e =>
    if neg then .nan
    else
      let k := 2 * guardBits
      let (m', e') := if e % 2 = 0 then (m * 2 ^ k, e - k) else (2 * m * 2 ^ k, e - 1 - k)
      let r := isqrt m'
      sticky false r (decide (r * r ≠ m')) (e' / 2)

/-- 1/√a: ±∞ for ±0 (R129), NaN for a negative non-zero value. -/
def FVal.rsqrt : FVal → FVal
  | .nan => .nan
  | .zero n => .inf n
  | .inf n => if n then .nan else .zero false
  | .num neg m e =>
    if neg then .nan
    else
      -- 1/√(m' × 2^e') with e' even is √(2^(2k) ÷ m') × 2^(−k − e'/2)
      let (m', e') := if e % 2 = 0 then (m, e) else (2 * m, e - 1)
      let k := guardBits + Nat.log2 m'
      let r := isqrt (2 ^ (2 * k) / m')
      sticky false r (decide (r * r * m' ≠ 2 ^ (2 * k))) (-(k : Int) - e' / 2)

/-- 1/a. -/
def FVal.rcp (x : FVal) : FVal := FVal.div (.num false 1 0) x

/-! ## Base-2 exponential and logarithm, in fixed point -/

/-- Fraction bits of the fixed-point series. -/
def fixBits : Nat := 512

/-- 2 × atanh(num ÷ den) in fixed point, by its odd power series. -/
def atanh2Loop (z2 : Nat) : Nat → Nat → Nat → Nat → Nat
  | 0, _, _, acc => acc
  | k + 1, p, n, acc => atanh2Loop z2 k (p * z2 / 2 ^ fixBits) (n + 2) (acc + p / n)

/-- ln(a ÷ b) in fixed point for b ≤ a ≤ 2b. -/
def lnFix (a b : Nat) : Nat :=
  let z := (a - b) * 2 ^ fixBits / (a + b)
  2 * atanh2Loop (z * z / 2 ^ fixBits) 180 z 1 0

/-- ln 2 in fixed point. -/
def ln2Fix : Nat := lnFix 2 1

/-- The exponential series Σ x^k ÷ k! in fixed point. -/
def expLoop (x : Nat) : Nat → Nat → Nat → Nat → Nat
  | 0, _, _, acc => acc
  | n + 1, k, t, acc => expLoop x n (k + 1) (t * x / 2 ^ fixBits / (k + 1)) (acc + t)

/-- 2^a: exact for an integer a; otherwise the value truncated far below any rounding quantum (R129). -/
def FVal.exp2 : FVal → FVal
  | .nan => .nan
  | .zero _ => .num false 1 0
  | .inf n => if n then .zero false else .inf false
  | .num neg m e =>
    -- beyond any element's range the rounded result is decided by the direction alone
    if ilog2 m e ≥ 12 then (if neg then .num false 1 (-8192) else .num false 1 8192)
    else
      let x := scaleTo neg m (e + fixBits) 0          -- exact when e + fixBits ≥ 0
      let i := x / 2 ^ fixBits                          -- floor
      let f := (x - i * 2 ^ fixBits).toNat
      if f = 0 then .num false 1 i
      else sticky false (expLoop (f * ln2Fix / 2 ^ fixBits) 140 0 (2 ^ fixBits) 0) true (i - fixBits)

/-- log₂ a: NaN for a negative value, −∞ for a zero (R129). -/
def FVal.log2 : FVal → FVal
  | .nan => .nan
  | .zero _ => .inf true
  | .inf n => if n then .nan else .inf false
  | .num neg m e =>
    if neg then .nan
    else
      let l := Nat.log2 m
      let i : Int := l + e
      if m = 2 ^ l then ofScaled false i 0
      else
        let k := fixBits / 2
        -- log₂(m ÷ 2^l) × 2^k, truncated
        let f := lnFix m (2 ^ l) * 2 ^ k / ln2Fix
        let t : Int := i * 2 ^ k + f
        -- the true value lies strictly between t and t + 1 units of 2^(−k)
        .num (decide (t < 0)) (2 * t + 1).natAbs (-(k : Int) - 1)

end Sys2Proof.Machine
end

