-- ==== Sys2Proof/Machine/Formats.lean ====
section
/-!
DEFINITION. The vector formats: codes, word tags, elements per lane and per word (R54, R56, R58, R59), the reading of
elements with block scales (R65), and Philox4x32-10 with the draw of a stochastic rounding (R76).
-/

namespace Sys2Proof.Machine

/-- The format code of R54. -/
def fmtCode : Fmt → Nat
  | .fp32 => 0 | .bf16 => 1 | .fp16 => 2 | .e4m3 => 3 | .e5m2 => 4 | .mxfp8e4 => 5 | .mxfp8e5 => 6 | .mxfp6e2 => 7
  | .mxfp6e3 => 8 | .mxfp4 => 9 | .mxint8 => 10 | .int32 => 11 | .int8 => 12

/-- The format a code names, if it is assigned (R54). -/
def fmtOfCode : Nat → Option Fmt
  | 0 => some .fp32 | 1 => some .bf16 | 2 => some .fp16 | 3 => some .e4m3 | 4 => some .e5m2 | 5 => some .mxfp8e4
  | 6 => some .mxfp8e5 | 7 => some .mxfp6e2 | 8 => some .mxfp6e3 | 9 => some .mxfp4 | 10 => some .mxint8
  | 11 => some .int32 | 12 => some .int8 | _ => none

/-- The memory word tag of a format (R54). -/
def fmtTag : Fmt → Tag
  | .fp32 => Tag.fp32x2 | .bf16 => Tag.bf16x4 | .fp16 => Tag.fp16x4 | .e4m3 => Tag.e4m3x8 | .e5m2 => Tag.e5m2x8
  | .mxfp8e4 => Tag.mxfp8 | .mxfp8e5 => Tag.mxfp8 | .mxfp6e2 => Tag.mxfp6 | .mxfp6e3 => Tag.mxfp6 | .mxfp4 => Tag.mxfp4
  | .mxint8 => Tag.mxint8 | .int32 => Tag.int64 | .int8 => Tag.int64

/-- Elements per lane (R54). -/
def fmtLane : Fmt → Nat
  | .fp32 => 1 | .int32 => 1 | .bf16 => 2 | .fp16 => 2 | .mxfp4 => 8 | _ => 4

/-- Bits of an element within a lane (R56): six for MXFP6. -/
def fmtBits : Fmt → Nat
  | .fp32 => 32 | .int32 => 32 | .bf16 => 16 | .fp16 => 16 | .mxfp4 => 4 | .mxfp6e2 => 6 | .mxfp6e3 => 6 | _ => 8

/-- The MX formats (R54). -/
def fmtIsMx : Fmt → Bool
  | .mxfp8e4 => true | .mxfp8e5 => true | .mxfp6e2 => true | .mxfp6e3 => true | .mxfp4 => true | .mxint8 => true
  | _ => false

/-- The integer formats. -/
def fmtIsInt : Fmt → Bool
  | .int32 => true | .int8 => true | _ => false

/-- A format's floating-point element encoding; MXINT8 and the integers have none (R57). -/
def fmtElem : Fmt → Option EFmt
  | .fp32 => some fmtFp32 | .bf16 => some fmtBf16 | .fp16 => some fmtFp16 | .e4m3 => some fmtE4m3
  | .e5m2 => some fmtE5m2 | .mxfp8e4 => some fmtE4m3 | .mxfp8e5 => some fmtE5m2 | .mxfp6e2 => some fmtE2m3
  | .mxfp6e3 => some fmtE3m2 | .mxfp4 => some fmtE2m1 | .mxint8 => none | .int32 => none | .int8 => none

/-- Bits [lo + w − 1 : lo] of a number. -/
def field (x lo w : Nat) : Nat := x / 2 ^ lo % 2 ^ w

/-- The two's complement integer of `w` bits. -/
def toSigned (w x : Nat) : Int := if x % 2 ^ w < 2 ^ (w - 1) then (x % 2 ^ w : Nat) else (x % 2 ^ w : Nat) - (2 ^ w : Nat)

/-- The low `w` bits of an integer. -/
def ofSigned (w : Nat) (k : Int) : Nat := (k % (2 ^ w : Nat)).toNat

/-- An integer as a value. -/
def FVal.ofInt (k : Int) : FVal := ofScaled false k 0

/-- The value of an element's bits in a format, before any block scale (R57). -/
def elemVal (f : Fmt) (b : Nat) : FVal :=
  match fmtElem f with
  | some ef => decodeE ef b
  | none => match f with
    | .int32 => FVal.ofInt (toSigned 32 b)
    | .mxint8 => FVal.scale (-6) (FVal.ofInt (toSigned 8 b))
    | _ => FVal.ofInt (toSigned 8 b)

/-- An MX element under its block's scale (R65). -/
def mxVal (f : Fmt) (scale b : Nat) : FVal :=
  if scale = 0xFF then .nan else FVal.scale ((scale : Int) - 127) (elemVal f b)

/-- Lane `j` of a V register. -/
def laneOf (v : VVal) (j : Nat) : Nat := field v.lanes.toNat (32 * j) 32

/-- Lane `j` as an instruction that copies or tests whole lanes reads it: in an MXFP6 register bits [31:24] read as zero (R56). -/
def laneRead (v : VVal) (j : Nat) : Nat :=
  match v.tag with
  | .fmt f => laneOf v j % 2 ^ (fmtBits f * fmtLane f)
  | _ => laneOf v j

/-- Scale byte `b` of a V register (R56). -/
def scaleOf (v : VVal) (b : Nat) : Nat := field v.scale.toNat (8 * b) 8

/-- Scale byte `b` as an instruction or record that copies the scale field reads it: bytes 16 to 31 of an MX format other than MXFP4 read as zero
(R56). -/
def scaleRead (v : VVal) (b : Nat) : Nat :=
  match v.tag with
  | .fmt f => if fmtIsMx f && f != .mxfp4 && decide (16 ≤ b) then 0 else scaleOf v b
  | _ => scaleOf v b

/-- The bits of element `j` (R56). -/
def elemBits (f : Fmt) (v : VVal) (j : Nat) : Nat :=
  let n := fmtLane f
  field (laneOf v (j / n)) (fmtBits f * (j % n)) (fmtBits f)

/-- The value of element `j`, with its block's scale where the format has one (R56, R65). -/
def elemOf (f : Fmt) (v : VVal) (j : Nat) : FVal :=
  let b := elemBits f v j
  if fmtIsMx f then mxVal f (scaleOf v (j / 32)) b else elemVal f b

/-- Replace `w` bits at `lo` of a number by `x`. -/
def setField (n lo w x : Nat) : Nat := n - field n lo w * 2 ^ lo + x % 2 ^ w * 2 ^ lo

/-- Assemble lanes from a function of the lane number. -/
def lanesOf (f : Nat → Nat) : BitVec 4096 :=
  BitVec.ofNat 4096 ((List.range 128).foldl (fun acc j => acc + f j % 2 ^ 32 * 2 ^ (32 * j)) 0)

/-- Assemble a scale field from a function of the byte number. -/
def scalesOf (f : Nat → Nat) : BitVec 256 :=
  BitVec.ofNat 256 ((List.range 32).foldl (fun acc j => acc + f j % 256 * 2 ^ (8 * j)) 0)

/-- The scale field as it reads (R56). -/
def scaleField (v : VVal) : BitVec 256 := scalesOf (scaleRead v)

/-- One lane assembled from its elements. -/
def laneFrom (f : Fmt) (g : Nat → Nat) : Nat :=
  (List.range (fmtLane f)).foldl (fun acc k => acc + g k % 2 ^ fmtBits f * 2 ^ (fmtBits f * k)) 0

/-! ## Philox4x32-10 -/

/-- One Philox4x32 round on a counter of four 32-bit words under a key of two. -/
def philoxRound (c : Nat × Nat × Nat × Nat) (k : Nat × Nat) : Nat × Nat × Nat × Nat :=
  let p0 := 0xD2511F53 * c.1
  let p1 := 0xCD9E8D57 * c.2.2.1
  let hi (p : Nat) := p / 2 ^ 32
  let lo (p : Nat) := p % 2 ^ 32
  (Nat.xor (Nat.xor (hi p1) c.2.1) k.1, lo p1, Nat.xor (Nat.xor (hi p0) c.2.2.2) k.2, lo p0)

/-- `n` rounds, the key bumped by the Weyl constants between rounds. -/
def philoxRounds : Nat → Nat × Nat × Nat × Nat → Nat × Nat → Nat × Nat × Nat × Nat
  | 0, c, _ => c
  | n + 1, c, k => philoxRounds n (philoxRound c k) ((k.1 + 0x9E3779B9) % 2 ^ 32, (k.2 + 0xBB67AE85) % 2 ^ 32)

/-- Output word `w` of Philox4x32-10 (R76, R148). -/
def philox (key : Word) (c0 : Nat) (stream : BitVec 32) (step : Word) (w : Nat) : BitVec 32 :=
  let o := philoxRounds 10 (c0 % 2 ^ 32, stream.toNat, field step.toNat 0 32, field step.toNat 32 32)
    (field key.toNat 0 32, field key.toNat 32 32)
  BitVec.ofNat 32 (match w % 4 with | 0 => o.1 | 1 => o.2.1 | 2 => o.2.2.1 | _ => o.2.2.2)

/-- The rounding of element `idx` under mode `rm` in a context: its random word is drawn only under SR (R76, R142). -/
def rndAt (x : Ctx) (rm : Rm) (idx : Nat) : Rnd :=
  ⟨rm, if rm = .sr then philox x.srkey (idx / 4) x.srstream x.srstep (idx % 4) else 0⟩

end Sys2Proof.Machine
end

