-- ==== Sys2Proof/Machine/Accum.lean ====
section
/-!
DEFINITION. The exact accumulator (R67 to R74): addends, merge, image and read-out.
-/

namespace Sys2Proof.Machine

/-- The most addends an accumulator takes in (R70): 2^43. -/
def accLimit : Nat := 2 ^ 43

/-- MAG and SIGN as a signed integer multiple of 2^−149 (R67). -/
def accInt (x : XAcc) : Int := if x.sign then -(x.mag.toNat : Int) else x.mag.toNat

/-- MAG and SIGN from a signed integer; SIGN is 0 whenever MAG is 0 (R67). -/
def accWithInt (x : XAcc) (k : Int) : XAcc := { x with mag := BitVec.ofNat 320 k.natAbs, sign := decide (k < 0) }

/-- One addend (R68, R70): exact, counted, with its NaN, infinity and negative-zero marks; past the limit only LIMIT is
set, and a limited accumulator never changes. -/
def accAdd (x : XAcc) (v : FVal) : XAcc :=
  if x.limit then x
  else if x.cnt.toNat + 1 > accLimit then { x with limit := true }
  else
    let x := { x with cnt := x.cnt + 1, allneg0 := x.allneg0 && (v == .zero true) }
    match v with
    | .nan => { x with nan := true }
    | .inf neg => if neg then { x with ninf := true } else { x with pinf := true }
    | .zero _ => x
    | .num neg m e => accWithInt x (accInt x + scaleTo neg m e (-149))

/-- Several addends in turn. -/
def accAddAll (x : XAcc) (vs : List FVal) : XAcc := vs.foldl accAdd x

/-- A merge (R71). Where both sides have CNT = 0 the rule keeps each side's ALLNEG0 at once; the other (source) side's is taken
(DESIGN CHOICE, log entry 88). -/
def accMerge (x y : XAcc) : XAcc :=
  if x.limit then x
  else if y.limit then { x with limit := true }
  else if x.cnt.toNat + y.cnt.toNat > accLimit then { x with limit := true }
  else
    accWithInt { x with
      cnt := x.cnt + y.cnt, nan := x.nan || y.nan, pinf := x.pinf || y.pinf, ninf := x.ninf || y.ninf,
      allneg0 := if x.cnt = 0 then y.allneg0 else if y.cnt = 0 then x.allneg0 else x.allneg0 && y.allneg0 }
      (accInt x + accInt y)

/-- An MX element as an addend: a finite value of magnitude 2^128 or more enters as an infinity (R69). -/
def mxAddend (v : FVal) : FVal :=
  match v with
  | .num neg m e => if ilog2 m e ≥ 128 then .inf neg else v
  | _ => v

/-- The STATE byte of an image (R72). -/
def accStateByte (x : XAcc) : Nat :=
  x.sign.toNat + 2 * x.nan.toNat + 4 * x.pinf.toNat + 8 * x.ninf.toNat + 16 * x.allneg0.toNat + 32 * x.limit.toNat

/-- The six words of an image (R72): MAG, then CNT, STATE and VERSION 0x10. -/
def accImage (x : XAcc) : List Word :=
  (List.range 5).map (fun i => BitVec.ofNat 64 (field x.mag.toNat (64 * i) 64)) ++
    [BitVec.ofNat 64 (x.cnt.toNat + accStateByte x * 2 ^ 48 + 0x10 * 2 ^ 56)]

/-- The accumulator an image holds, or none where R72 refuses it; the tags are checked by the reader. -/
def accOfImage (ws : List Word) : Option XAcc :=
  let w (i : Nat) : Nat := (ws.getD i 0).toNat
  let mag := (List.range 5).foldl (fun a i => a + w i * 2 ^ (64 * i)) 0
  let last := w 5
  let cnt := field last 0 44
  let st := field last 48 8
  let major := field last 60 4
  let minor := field last 56 4
  let bit (i : Nat) : Bool := field st i 1 == 1
  if major ≠ 1 then none
  else if minor = 0 ∧ (field last 44 4 ≠ 0 ∨ field st 6 2 ≠ 0) then none
  else if bit 0 ∧ mag = 0 then none
  else if cnt > accLimit ∧ ¬ bit 5 then none
  else if mag ≠ 0 ∧ mag ≥ cnt * 2 ^ 277 ∧ ¬ bit 5 then none
  else some { mag := BitVec.ofNat 320 mag, sign := bit 0, cnt := BitVec.ofNat 44 cnt, nan := bit 1, pinf := bit 2,
              ninf := bit 3, allneg0 := bit 4, limit := bit 5, poison := false }

/-- The value a read-out rounds, with case 1 to 5 of R73 resolved to one value, and whether I is set whatever the rounding
(R74). -/
def accValue (x : XAcc) (isInt : Bool) : FVal × Bool :=
  if x.limit then (.nan, true)
  else if x.nan then (.nan, isInt)
  else if x.pinf && x.ninf then (.nan, true)
  else if x.pinf then (.inf false, isInt)
  else if x.ninf then (.inf true, isInt)
  else if x.mag = 0 then (.zero (decide (x.cnt.toNat ≥ 1) && x.allneg0), false)
  else (.num x.sign x.mag.toNat (-149), false)

/-- G: whether any guard bit of MAG is 1 (R74). -/
def accGuard (x : XAcc) : Bool := decide (x.mag.toNat ≥ 2 ^ 277)

/-- The element formats of the read-out and scalar conversion targets (R82). -/
def sTargetFmt : STarget → Option EFmt
  | .fp64 => some fmtFp64 | .fp32 => some fmtFp32 | .bf16 => some fmtBf16 | .fp16 => some fmtFp16
  | .e5m2 => some fmtE5m2 | .e4m3 => some fmtE4m3 | .int64 => none | .int32 => none

/-- The tag of the word a target is placed in (R137). -/
def sTargetTag : STarget → Tag
  | .fp64 => Tag.fp64 | .fp32 => Tag.fp32x2 | .bf16 => Tag.bf16x4 | .fp16 => Tag.fp16x4 | .e5m2 => Tag.e5m2x8
  | .e4m3 => Tag.e4m3x8 | .int64 => Tag.int64 | .int32 => Tag.int64

/-- Whether a finite overflow saturates in every mode (rule S of R63): E5M2 and E4M3. -/
def sTargetOvf : STarget → Ovf
  | .e5m2 => .sat | .e4m3 => .sat | _ => .ieee

/-- Convert a value to a target of R82 (R63, R64, R137): the word, and whether it is inexact. -/
def toTarget (t : STarget) (d : Rnd) (v : FVal) : TWord × Bool :=
  match sTargetFmt t with
  | some ef =>
    let (b, ix) := roundE ef (sTargetOvf t) d v
    (⟨BitVec.ofNat 64 b, sTargetTag t⟩, ix)
  | none =>
    let (k, ix) := roundI (if t = .int32 then 32 else 64) d v
    (⟨BitVec.ofNat 64 (ofSigned 64 k), Tag.int64⟩, ix)

/-- Read-out (R73, R137): the word, I and G. -/
def accReadOut (x : XAcc) (t : STarget) (d : Rnd) : TWord × Bool × Bool :=
  let (v, ix) := accValue x (sTargetFmt t).isNone
  let (w, ix') := toTarget t d v
  -- for an infinity or a NaN, R74 fixes I whatever the target's rounding reports
  (w, (match v with | .nan => ix | .inf _ => ix | _ => ix'), accGuard x)

end Sys2Proof.Machine
end

