-- ==== Sys2Proof/Machine/Flags.lean ====
section
/-!
DEFINITION. The flags (R98), the condition codes (R83) and the arithmetic of the scalar instructions with the flags each
writes (R111 to R113).
-/

namespace Sys2Proof.Machine

def flagZ : Nat := 0
def flagN : Nat := 1
def flagC : Nat := 2
def flagV : Nat := 3
def flagA : Nat := 4
def flagL : Nat := 5
def flagI : Nat := 6
def flagG : Nat := 7

/-- A flag of FLG. -/
def Ctx.flag (x : Ctx) (i : Nat) : Bool := x.flg.getLsbD i

/-- Set a flag of FLG. -/
def Ctx.setFlag (x : Ctx) (i : Nat) (b : Bool) : Ctx :=
  { x with flg := if b then x.flg ||| (1#64 <<< i) else x.flg &&& ~~~(1#64 <<< i) }

/-- Set Z, N, C and V. -/
def Ctx.setZNCV (x : Ctx) (z n c v : Bool) : Ctx :=
  (((x.setFlag flagZ z).setFlag flagN n).setFlag flagC c).setFlag flagV v

/-- A condition code tested against FLG (R83). -/
def Ctx.cond (x : Ctx) (k : BitVec 4) : Bool :=
  let z := x.flag flagZ
  let n := x.flag flagN
  let c := x.flag flagC
  let v := x.flag flagV
  match k.toNat with
  | 0x0 => true
  | 0x1 => z
  | 0x2 => !z
  | 0x3 => n != v
  | 0x4 => n == v
  | 0x5 => z || n != v
  | 0x6 => !z && n == v
  | 0x7 => !c
  | 0x8 => c
  | 0x9 => !c || z
  | 0xA => c && !z
  | 0xB => v
  | 0xC => x.flag flagA
  | 0xD => !x.flag flagA
  | 0xE => x.flag flagL
  | _ => !x.flag flagL

/-- The result of a scalar operation: its value, C and V; Z and N follow from the value (R98). -/
structure AluRes where
  val : Word
  c   : Bool
  v   : Bool
deriving DecidableEq, Repr

/-- Write Z, N, C and V of a result. -/
def Ctx.setAlu (x : Ctx) (r : AluRes) : Ctx := x.setZNCV (r.val == 0) r.val.msb r.c r.v

/-- Sa + Sb: C the carry out, V the signed overflow (R98, R111). -/
def aluAdd (a b : Word) : AluRes :=
  let r := a + b
  ⟨r, decide (a.toNat + b.toNat ≥ 2 ^ 64), a.msb == b.msb && r.msb != a.msb⟩

/-- Sa − Sb: C set when no borrow occurs (R83, R111). -/
def aluSub (a b : Word) : AluRes :=
  let r := a - b
  ⟨r, decide (a.toNat ≥ b.toNat), a.msb != b.msb && r.msb != a.msb⟩

/-- Low 64 bits of the product; C and V when the unsigned or signed product exceeds 64 bits (R111). -/
def aluMul (a b : Word) : AluRes :=
  let p := a.toInt * b.toInt
  ⟨a * b, decide (a.toNat * b.toNat ≥ 2 ^ 64), decide (p < -(2 ^ 63) ∨ p ≥ 2 ^ 63)⟩

/-- High 64 bits of the signed product. -/
def aluMulh (a b : Word) : AluRes := ⟨BitVec.ofInt 64 (a.toInt * b.toInt / 2 ^ 64), false, false⟩

/-- High 64 bits of the unsigned product. -/
def aluMulhu (a b : Word) : AluRes := ⟨BitVec.ofNat 64 (a.toNat * b.toNat / 2 ^ 64), false, false⟩

/-- Signed quotient rounded toward zero; all ones and V for a zero divisor, −2^63 and V for −2^63 ÷ −1 (R112). -/
def aluDiv (a b : Word) : AluRes :=
  if b = 0 then ⟨BitVec.allOnes 64, false, true⟩
  else ⟨BitVec.ofInt 64 (a.toInt.tdiv b.toInt), false, decide (a.toInt = -(2 ^ 63) ∧ b.toInt = -1)⟩

/-- Unsigned quotient (R112). -/
def aluDivu (a b : Word) : AluRes :=
  if b = 0 then ⟨BitVec.allOnes 64, false, true⟩ else ⟨BitVec.ofNat 64 (a.toNat / b.toNat), false, false⟩

/-- Signed remainder with the sign of the dividend; the dividend and V for a zero divisor (R112). -/
def aluRem (a b : Word) : AluRes :=
  if b = 0 then ⟨a, false, true⟩ else ⟨BitVec.ofInt 64 (a.toInt.tmod b.toInt), false, false⟩

/-- Unsigned remainder (R112). -/
def aluRemu (a b : Word) : AluRes :=
  if b = 0 then ⟨a, false, true⟩ else ⟨BitVec.ofNat 64 (a.toNat % b.toNat), false, false⟩

def aluAnd (a b : Word) : AluRes := ⟨a &&& b, false, false⟩
def aluOr (a b : Word) : AluRes := ⟨a ||| b, false, false⟩
def aluXor (a b : Word) : AluRes := ⟨a ^^^ b, false, false⟩

/-- The count of a shift: bits [5:0] of Sb (R113). -/
def shiftCount (b : Word) : Nat := b.toNat % 64

/-- Shift left; C the last bit shifted out, clear for a count of 0 (R113). -/
def aluShl (a b : Word) : AluRes :=
  let n := shiftCount b
  ⟨a <<< n, decide (n ≠ 0) && a.getLsbD (64 - n), false⟩

/-- Shift right with zeros (R113). -/
def aluShr (a b : Word) : AluRes :=
  let n := shiftCount b
  ⟨a >>> n, decide (n ≠ 0) && a.getLsbD (n - 1), false⟩

/-- Shift right with copies of bit 63 (R113). -/
def aluSar (a b : Word) : AluRes :=
  let n := shiftCount b
  ⟨a.sshiftRight n, decide (n ≠ 0) && a.getLsbD (n - 1), false⟩

/-- Rotate left; C takes bit 0 of the result, clear for a count of 0 (R113). -/
def aluRol (a b : Word) : AluRes :=
  let n := shiftCount b
  let r := a.rotateLeft n
  ⟨r, decide (n ≠ 0) && r.getLsbD 0, false⟩

def aluMin (a b : Word) : AluRes := ⟨if a.slt b then a else b, false, false⟩
def aluMax (a b : Word) : AluRes := ⟨if a.slt b then b else a, false, false⟩
def aluMinu (a b : Word) : AluRes := ⟨if a.ult b then a else b, false, false⟩
def aluMaxu (a b : Word) : AluRes := ⟨if a.ult b then b else a, false, false⟩

/-- Count of leading zero bits, 64 for zero (R111). -/
def countLeading (a : Word) : Nat := if a = 0 then 64 else 63 - Nat.log2 a.toNat

/-- Count of trailing zero bits among the low n, n when all are zero. -/
def countTrailing : Nat → Nat → Nat
  | 0, _ => 0
  | n + 1, x => if x % 2 = 1 then 0 else 1 + countTrailing n (x / 2)

/-- Byte order reversed. -/
def byteSwap (a : Word) : Word := BitVec.ofNat 64 (natOfBytes (bytesOf 8 a.toNat).reverse)

/-- Bits [w − 1 : 0] sign-extended. -/
def signExt (w : Nat) (a : Word) : Word := (a.setWidth w).signExtend 64
/-- Bits [w − 1 : 0] zero-extended. -/
def zeroExt (w : Nat) (a : Word) : Word := (a.setWidth w).setWidth 64

/-- A one-operand result that clears C and V. -/
def aluOne (w : Word) : AluRes := ⟨w, false, false⟩

end Sys2Proof.Machine
end

