-- ==== Sys2Proof/Machine/Sorryn.lean ====
section
/-!
DEFINITION. The encoding of Sorryn instructions: the opcode map and operand forms (R79 to R92), the decoder of R93 over any
source of bytes, and the encoder it inverts. The meanings of the instructions name them by `Insn`.
-/

namespace Sys2Proof.Machine

/-- The kinds of operand byte (R79); an address pair takes two bytes. -/
inductive OKind where
  | s | v | m | h | x | t | k | c | a
deriving DecidableEq, Repr

/-- Whether an opcode takes a format prefix (R85). -/
inductive FmtPx where
  | no | may | must
deriving DecidableEq, Repr

/-- An opcode's operand form, immediate size and permitted prefixes (R85, R91, R92). -/
structure OpInfo where
  kinds : List OKind
  imm   : Nat
  fmt   : FmtPx
  mask  : Bool
  rep   : Bool
  ord   : Bool
deriving DecidableEq, Repr

/-- A decoded instruction: opcode (0xDF00 + second byte for an escape), prefixes, operand bytes in order and the
immediate as it stands. -/
structure Insn where
  op  : Nat
  px  : Px
  ops : List Nat
  imm : Nat
deriving DecidableEq, Repr

/-- A form without prefixes. -/
def plain (ks : List OKind) (imm : Nat) : Option OpInfo := some ⟨ks, imm, .no, false, false, false⟩
/-- A form that accepts the ordered prefix. -/
def ordered (ks : List OKind) (imm : Nat) : Option OpInfo := some ⟨ks, imm, .no, false, false, true⟩
/-- A vector form with optional format, mask and, where every destination is a V register, repeat. -/
def vec (ks : List OKind) (imm : Nat) (rep : Bool) : Option OpInfo := some ⟨ks, imm, .may, true, rep, false⟩

/-- The one-byte opcode map with operand forms and prefixes (R85, R90, R91); none for a reserved opcode. -/
def opInfo1 (op : Nat) : Option OpInfo :=
  if op = 0x00 then plain [] 0
  else if op = 0x01 then plain [.s, .s] 0
  else if op = 0x02 then plain [.s] 4
  else if op = 0x03 then plain [.s] 8
  else if op ≤ 0x17 then plain [.s, .s, .s] 0
  else if op ≤ 0x1F then plain [.s, .s] 0
  else if op ≤ 0x24 then plain [.s, .s] 4
  else if op ≤ 0x28 then plain [.s, .s] 1
  else if op ≤ 0x2A then plain [.s] 4
  else if op ≤ 0x2F then none
  else if op ≤ 0x35 then plain [.s, .s] 0
  else if op = 0x36 then plain [.s, .s] 1
  else if op = 0x37 then plain [.s, .s] 0
  else if op ≤ 0x3F then none
  else if op ≤ 0x50 then plain [] 4
  else if op = 0x51 ∨ op = 0x52 then plain [.s] 0
  else if op = 0x53 then plain [] 0
  else if op = 0x54 then plain [.s] 4
  else if op = 0x55 then plain [.s, .k] 0
  else if op = 0x56 then plain [.s, .s, .s, .k] 0
  else if op = 0x57 ∨ op = 0x58 then plain [.s] 0
  else if op = 0x59 then plain [] 1
  else if op ≤ 0x5F then none
  else if op ≤ 0x6A then ordered [.s, .a] 4
  else if op = 0x6B ∨ op = 0x6C then some ⟨[.v, .a], 4, .must, true, true, true⟩
  else if op = 0x6D ∨ op = 0x6E then some ⟨[.v, .a], 4, .must, false, true, true⟩
  else if op = 0x6F ∨ op = 0x70 then ordered [.h, .a] 4
  else if op = 0x71 then plain [.s, .h] 0
  else if op = 0x72 then plain [.h, .s] 0
  else if op = 0x73 then plain [.h, .h, .s, .s] 1
  else if op = 0x74 then plain [.s, .h] 1
  else if op = 0x75 then plain [.s, .h] 0
  else if op ≤ 0x7D then ordered [.s, .a, .s] 4
  else if op = 0x7E then ordered [.t, .a] 4
  else if op = 0x7F then none
  else if op ≤ 0x82 then vec [.v, .v, .v, .c] 0 true
  else if op ≤ 0x85 then vec [.v, .v, .v, .v, .c] 0 true
  else if op ≤ 0x87 then vec [.v, .v, .v] 0 true
  else if op ≤ 0x89 then vec [.v, .v] 0 true
  else if op = 0x8A then vec [.v, .v, .v, .c] 0 true
  else if op ≤ 0x8F then vec [.v, .v, .c] 0 true
  else if op = 0x90 then vec [.v, .v, .v, .c] 0 true
  else if op ≤ 0x94 then vec [.m, .v, .v] 0 false
  else if op = 0x95 then vec [.v, .v, .v, .m] 0 true
  else if op ≤ 0x9B then vec [.v, .v, .v] 0 true
  else if op = 0x9C then vec [.v, .v] 0 true
  else if op = 0x9D then some ⟨[.v, .s], 0, .must, true, true, false⟩
  else if op = 0x9E then some ⟨[.v], 4, .must, true, true, false⟩
  else if op = 0x9F then some ⟨[.v], 0, .no, true, true, false⟩
  else if op ≤ 0xA3 then vec [.s, .v] 0 false
  else if op = 0xA4 then vec [.v, .v, .v] 0 true
  else if op = 0xA5 then vec [.v, .v] 1 true
  else if op = 0xA6 then vec [.s, .v] 1 false
  else if op = 0xA7 then vec [.v, .s] 1 false
  else if op ≤ 0xAA then plain [.m, .m, .m] 0
  else if op = 0xAB then plain [.m, .m] 0
  else if op = 0xAC then plain [.m] 1
  else if op ≤ 0xAE then plain [.s, .m] 0
  else if op = 0xAF then plain [.m, .v] 0
  else if op ≤ 0xBF then none
  else if op = 0xC0 then ordered [.c, .h, .s] 0
  else if op = 0xC1 then plain [.s] 1
  else if op = 0xC2 then plain [] 1
  else if op = 0xC3 then ordered [.s] 1
  else if op = 0xC4 ∨ op = 0xC5 then plain [.s] 1
  else if op = 0xC6 then ordered [.s] 1
  else if op ≤ 0xC9 then plain [] 2
  else if op = 0xCA then plain [] 0
  else if op ≤ 0xCF then none
  else if op ≤ 0xD1 then plain [.s] 2
  else if op = 0xD2 then plain [] 0
  else if op ≤ 0xD4 then plain [.s] 0
  else none

/-- The escape map with prefixes (R85, R92); none for a reserved second byte. -/
def opInfo2 (b : Nat) : Option OpInfo :=
  match b with
  | 0x00 => some ⟨[.x], 0, .no, false, true, false⟩
  | 0x01 => some ⟨[.x, .v], 0, .may, true, true, false⟩
  | 0x02 => some ⟨[.x, .s], 0, .no, false, true, false⟩
  | 0x03 => some ⟨[.x, .v, .v], 0, .may, true, true, false⟩
  | 0x04 => some ⟨[.x, .x], 0, .no, false, true, false⟩
  | 0x05 => some ⟨[.x, .x], 0, .no, false, true, false⟩
  | 0x06 => some ⟨[.x, .a], 4, .no, false, true, true⟩
  | 0x07 => some ⟨[.x, .a], 4, .no, false, true, true⟩
  | 0x08 => plain [.s, .x, .c] 0
  | 0x09 => plain [.s, .x] 0
  | 0x0A => plain [.s, .x] 0
  | 0x20 => vec [.v, .v, .c] 0 true
  | 0x21 => vec [.v, .v, .v, .c] 0 true
  | 0x22 => vec [.v, .v, .c] 0 true
  | 0x23 => plain [.s, .s, .c] 0
  | 0x40 => plain [.s] 1
  | 0x41 => plain [.s] 1
  | 0x42 => plain [] 0
  | 0x43 => vec [.v, .v, .c] 0 true
  | 0x44 => vec [.v, .v, .s] 0 true
  | 0x45 => vec [.v, .v, .c] 0 true
  | 0x46 => plain [.s, .v, .v] 0
  | 0x47 => vec [.v, .v, .v, .c] 0 true
  | 0x48 => vec [.m, .v, .v, .v] 0 false
  | _ => none

/-- The form of an opcode. -/
def opInfo (op : Nat) : Option OpInfo :=
  if op < 0xDF then opInfo1 op else if 0xDF00 ≤ op ∧ op < 0xE000 then opInfo2 (op - 0xDF00) else none

/-- The reserved bits of a control byte are zero and its rounding mode, target and form are assigned (R82, R148, R150,
R152). -/
def ctlOk (op c : Nat) : Bool :=
  let rm := decide (c % 8 ≤ 4)
  if op = 0xC0 then decide (c < 4)
  else if op = 0xDF08 ∨ op = 0xDF23 then rm && decide (field c 3 1 = 0) && decide (c < 128)
  else if op = 0xDF20 ∨ op = 0xDF21 ∨ op = 0xDF22 then rm && decide (c / 16 ≤ 0xC)
  else if op = 0xDF43 then decide (c < 16) && decide (c / 4 ≠ 3)
  else if op = 0xDF45 then rm && decide (c < 16)
  else rm && decide (c < 8)

/-- The reserved bits of an immediate are zero (R110, R146). -/
def immOk (op imm : Nat) : Bool :=
  if (0x25 ≤ op ∧ op ≤ 0x28) ∨ (0xC3 ≤ op ∧ op ≤ 0xC6) then decide (imm < 64)
  else if op = 0x36 then decide (imm < 16)
  else if op = 0xA5 ∨ op = 0xA6 ∨ op = 0xA7 then decide (imm < 128)
  else if op = 0xAC then decide (imm ≤ 128)
  else if op = 0xC1 ∨ op = 0xC2 then decide (imm < 4)
  else if 0xC7 ≤ op ∧ op ≤ 0xC9 then decide (imm < 512) && (decide (imm ≥ 256) || decide (imm < 16))
  else true

/-- The reserved bits of a one-byte operand are zero (R79). -/
def operandOk (op : Nat) (kd : OKind) (b : Nat) : Bool :=
  match kd with
  | .s => decide (b < 32)
  | .v => decide (b < 64)
  | .m => decide (b < 8)
  | .h => decide (b < 16)
  | .x => decide (b < 16)
  | .t => decide (b < 16)
  | .k => decide (b < 16)
  | .c => ctlOk op b
  | .a => true

/-- The first byte of an address pair: bit 7 reserved, no scale without an index (R81). -/
def addr1Ok (b : Nat) : Bool := decide (b < 128) && (decide (field b 6 1 = 1) || decide (field b 4 2 = 0))

/-- The second byte of an address pair: zero without an index (R81). -/
def addr2Ok (b1 b2 : Nat) : Bool := if field b1 6 1 = 1 then decide (b2 < 32) else decide (b2 = 0)

/-- ST_UNDEFINED_OPCODE (R398). -/
def stUndefined : Status := 0x0103#16

/-- What decoding carries: the prefixes seen so far and how many prefix bytes they took. -/
structure PxScan where
  px  : Px
  n   : Nat
deriving DecidableEq, Repr

/-- Record one prefix byte other than repeat, or fail on a reserved or repeated kind (R84). -/
def addPrefix (p : Px) (b : Nat) : Option Px :=
  if b < 0xF0 then
    match fmtOfCode (b - 0xE0), p.fmt with
    | some f, none => some { p with fmt := some f }
    | _, _ => none
  else if b < 0xF8 then
    match p.mask with
    | none => some { p with mask := some (Fin.ofNat 8 (b - 0xF0)) }
    | some _ => none
  else if b = 0xF9 then if p.ord then none else some { p with ord := true }
  else none

/-- The source of instruction bytes: byte `n` after the instruction's first, or the fault of its fetch (R94). -/
abbrev Fetch := Nat → Except Status Nat

/-- The prefix loop of R93 at byte `b`: the prefixes and the byte that ends them. -/
def scanPrefixes (f : Fetch) : Nat → Px → Nat → Nat → Except Status (Px × Nat × Nat)
  | 0, _, _, _ => .error stUndefined
  | fuel + 1, p, n, b =>
    if b < 0xE0 then .ok (p, n, b)
    else if b = 0xF8 then
      if p.rep.isSome then .error stUndefined
      else if n + 1 = 4 then .error stUndefined
      else match f (n + 1) with
        | .error e => .error e
        | .ok cnt =>
          if cnt = 0 then .error stUndefined
          else
            let p := { p with rep := some (BitVec.ofNat 8 cnt) }
            match f (n + 2) with
            | .error e => .error e
            | .ok b' => if n + 2 = 4 ∧ b' ≥ 0xE0 then .error stUndefined else scanPrefixes f fuel p (n + 2) b'
    else match addPrefix p b with
      | none => .error stUndefined
      | some p =>
        match f (n + 1) with
        | .error e => .error e
        | .ok b' => if n + 1 = 4 ∧ b' ≥ 0xE0 then .error stUndefined else scanPrefixes f fuel p (n + 1) b'

/-- Every prefix is permitted for the opcode, and a required format is present (R85, R86). -/
def pxOk (i : OpInfo) (p : Px) : Bool :=
  (match i.fmt with | .no => p.fmt.isNone | .may => true | .must => p.fmt.isSome) &&
  (i.mask || p.mask.isNone) && (i.rep || p.rep.isNone) && (i.ord || !p.ord)

/-- Fetch the operand bytes of a form in order, checking the reserved bits of each (R79, R81, R82). -/
def readOperands (f : Fetch) (op : Nat) : List OKind → Nat → Except Status (List Nat × Nat)
  | [], n => .ok ([], n)
  | .a :: ks, n =>
    match f n with
    | .error e => .error e
    | .ok b1 =>
      if addr1Ok b1 = false then .error stUndefined
      else match f (n + 1) with
        | .error e => .error e
        | .ok b2 =>
          if addr2Ok b1 b2 = false then .error stUndefined
          else match readOperands f op ks (n + 2) with
            | .error e => .error e
            | .ok (bs, n') => .ok (b1 :: b2 :: bs, n')
  | kd :: ks, n =>
    match f n with
    | .error e => .error e
    | .ok b =>
      if operandOk op kd b = false then .error stUndefined
      else match readOperands f op ks (n + 1) with
        | .error e => .error e
        | .ok (bs, n') => .ok (b :: bs, n')

/-- No V or X register field runs past its file under a repeat of `r` instances (R88). -/
def repOk : List OKind → List Nat → Nat → Bool
  | .v :: ks, b :: bs, r => decide (b + r ≤ 64) && repOk ks bs r
  | .x :: ks, b :: bs, r => decide (b + r ≤ 16) && repOk ks bs r
  | .a :: ks, _ :: _ :: bs, r => repOk ks bs r
  | _ :: ks, _ :: bs, r => repOk ks bs r
  | _, _, _ => true

/-- Fetch a little-endian immediate of `k` bytes (R80). -/
def readImm (f : Fetch) : Nat → Nat → Except Status Nat
  | 0, _ => .ok 0
  | k + 1, n =>
    match f n with
    | .error e => .error e
    | .ok b =>
      match readImm f k (n + 1) with
      | .error e => .error e
      | .ok r => .ok (b + 256 * r)

/-- The instances of an instruction: its repeat count, or one (R88). -/
def pxCount (p : Px) : Nat := match p.rep with | none => 1 | some r => r.toNat

/-- From the opcode on: escape, reserved and level check, prefixes, operands, repeat ranges, immediate (R93). -/
def decodeRest (f : Fetch) (isa : Nat) (p : Px) (n b : Nat) : Except Status (Insn × Nat) :=
  match (if b = 0xDF then match f (n + 1) with
           | .error e => Except.error e
           | .ok b2 => .ok (0xDF00 + b2, n + 2)
         else .ok (b, n + 1)) with
  | .error e => .error e
  | .ok (op, n) =>
    match opInfo op with
    | none => .error stUndefined
    | some i =>
      if isa < 1 then .error stUndefined
      else if pxOk i p = false then .error stUndefined
      else match readOperands f op i.kinds n with
        | .error e => .error e
        | .ok (ops, n) =>
          if repOk i.kinds ops (pxCount p) = false then .error stUndefined
          else match readImm f i.imm n with
            | .error e => .error e
            | .ok imm => if immOk op imm = false then .error stUndefined else .ok (⟨op, p, ops, imm⟩, n + i.imm)

/-- The decoder of R93 at ISA level `isa`: the instruction and its length, or the first fault in byte order (R102). -/
def decodeInsn (f : Fetch) (isa : Nat) : Except Status (Insn × Nat) :=
  match f 0 with
  | .error e => .error e
  | .ok b =>
    match scanPrefixes f 5 Px.none 0 b with
    | .error e => .error e
    | .ok (p, n, b) => decodeRest f isa p n b

/-! ## The encoder -/

/-- The prefix bytes of an instruction, in the order format, mask, repeat, ordered. -/
def encodePx (p : Px) : List Nat :=
  (match p.fmt with | none => [] | some f => [0xE0 + fmtCode f]) ++
  (match p.mask with | none => [] | some m => [0xF0 + m.val]) ++
  (match p.rep with | none => [] | some r => [0xF8, r.toNat]) ++
  (if p.ord then [0xF9] else [])

/-- A little-endian immediate of `k` bytes (R80). -/
def encodeImm : Nat → Nat → List Nat
  | 0, _ => []
  | k + 1, v => v % 256 :: encodeImm k (v / 256)

/-- The opcode byte or bytes. -/
def encodeOp (op : Nat) : List Nat := if op < 0xDF then [op] else [0xDF, op - 0xDF00]

/-- The bytes of an instruction (R77). -/
def encodeInsn (i : Insn) : List Nat :=
  encodePx i.px ++ encodeOp i.op ++ i.ops ++ encodeImm ((opInfo i.op).map OpInfo.imm |>.getD 0) i.imm

/-- Bytes as a source; beyond them every fetch fails. -/
def fetchList (bs : List Nat) : Fetch := fun n =>
  match bs[n]? with
  | some b => .ok b
  | none => .error stUndefined

/-- The operand bytes of a form are admissible (R79, R81, R82). -/
def opsOk (op : Nat) : List OKind → List Nat → Bool
  | [], [] => true
  | .a :: ks, b1 :: b2 :: bs => addr1Ok b1 && addr2Ok b1 b2 && opsOk op ks bs
  | .a :: _, _ => false
  | kd :: ks, b :: bs => decide (b < 256) && operandOk op kd b && opsOk op ks bs
  | _, _ => false

/-- A well-formed instruction: an assigned opcode, permitted prefixes taking at most four bytes, admissible operand bytes
and register ranges, and an immediate of its size without reserved bits. -/
def Insn.wf (i : Insn) : Bool :=
  match opInfo i.op with
  | none => false
  | some f =>
    pxOk f i.px && decide ((encodePx i.px).length ≤ 4) && decide (i.px.rep ≠ some 0) &&
    opsOk i.op f.kinds i.ops && repOk f.kinds i.ops (pxCount i.px) &&
    decide (i.imm < 256 ^ f.imm) && immOk i.op i.imm

end Sys2Proof.Machine
end

