-- ==== Sys2Proof/Machine/Operands.lean ====
section
/-!
DEFINITION. How a Sorryn instruction runs: fetch and decode at a context's PC (R93, R94), the tag checks of its operands in
the order of R102, the address check of R117, the writes of memory words, repeat (R88) and the completion of an instruction,
whose fault is taken by `State.faultCtx` (R101).
-/

namespace Sys2Proof.Machine

/-- How control goes on after an instruction. -/
inductive Flow where
  /-- the next instruction -/
  | seq
  /-- a branch taken -/
  | jump (pc : Word)
  /-- the context waits; PC stays until the awaited event -/
  | wait
  /-- the context stops; PC stays -/
  | stop
deriving DecidableEq, Repr

/-- The result of one instance of an instruction: done, or a fault (R101); a fault carries the state in which words that
were read have been checked (R52, R433, R434). -/
inductive IRes where
  | ok (s : State) (f : Flow)
  | fault (st : Status) (s : State)

/-! ## Fetch and decode -/

/-- One byte of the instruction stream at a context's PC (R94): the checks in order, on the word as a read finds it. -/
def fetchAt (s : State) (x : Ctx) : Fetch := fun n =>
  match s.current x.code with
  | none => .error stStale
  | some r =>
    let p := (x.pc + BitVec.ofNat 64 n).toNat
    if p ≥ r.len.toNat then .error stRights
    else
      let a := r.base.toNat + p
      let m := (s.settleWord a).mem
      let t := m.tagAt a
      if t = Tag.poison ∨ t = Tag.rsvd then .error stPoison
      else if t ≠ Tag.code then .error stTag
      else .ok (m.byte a).toNat

/-- Decode at a context's PC under its ISA level (R93, R105). -/
def decodeAt (s : State) (c : CtxId) : Except Status (Insn × Nat) :=
  decodeInsn (fetchAt s (s.ctx c)) (s.ctx c).isa.toNat

/-- The words that a fetch reads are checked: those of the instruction, or up to the byte whose fetch failed. -/
def settleFetch (s : State) (c : CtxId) (len : Nat) : State :=
  let x := s.ctx c
  match s.current x.code with
  | none => s
  | some r =>
    let bad := (List.range 16).find? fun n => match fetchAt s x n with | .error _ => true | .ok _ => false
    s.settle (r.base.toNat + x.pc.toNat) (match bad with | some n => min len (n + 1) | none => len)

/-- Whether a context has a copy between issue and completion. -/
def copiesOpen (s : State) (c : CtxId) : Bool :=
  (s.eng c.eng.val).queues.any fun q => q.2.any fun k => k.slot == c.slot.val

/-- A context may issue: it is READY or RUNNING, not held by recovery, and its engine is not resetting (R156). -/
def canIssue (s : State) (c : CtxId) : Bool :=
  let x := s.ctx c
  (x.state == .ready || x.state == .running) && !x.held && !(s.eng c.eng.val).resetting

/-- Instances of an instruction in sequence (R88): each sees what the one before it left; the first fault ends them. -/
def runReps (body : State → Nat → IRes) : Nat → Nat → State → IRes × Nat
  | 0, i, s => (.ok s .seq, i)
  | n + 1, i, s =>
    match body s i with
    | .fault st s' => (.fault st s', i)
    | .ok s' f => if n = 0 then (.ok s' f, i) else runReps body n (i + 1) s'

/-- Count one retired instruction of an engine (R188). -/
def retire (s : State) (e : Nat) : State := s.updEng e fun x => { x with retired := x.retired + 1 }

/-- The end of an instruction of length `len`: PC moves on, or the fault is taken (R101). -/
def finish (c : CtxId) (len : Nat) (r : IRes × Nat) : State :=
  match r with
  | (.fault st s, i) => s.faultCtx c st i
  | (.ok s .seq, _) => retire (s.updCtx c fun x => { x with pc := x.pc + BitVec.ofNat 64 len }) c.eng.val
  | (.ok s (.jump pc), _) => retire (s.updCtx c fun x => { x with pc := pc }) c.eng.val
  | (.ok s .wait, _) => s.updCtx c fun x => { x with ilen := len }
  | (.ok s .stop, _) => retire s c.eng.val

/-- A context issues the instruction `w`: when the bytes at its PC decode to `w`, its instances run and it completes; a
fetch or decode fault is taken; an ordered instruction first waits for the context's copies (R89). The command has no effect
when the context cannot issue or its code holds another instruction there. -/
def issueState (c : CtxId) (w : Insn) (body : State → Nat → IRes) (s : State) : State :=
  if canIssue s c = false then s
  else match decodeAt s c with
    | .error st => (if st = stPoison then settleFetch s c 16 else s).faultCtx c st 0
    | .ok (i, len) =>
      if i ≠ w then s
      else
        let s := settleFetch s c len
        if w.px.ord && copiesOpen s c then
          s.updCtx c fun x => { x with state := .waitCopy, wait := .order, ilen := len }
        else finish c len (runReps body (pxCount w.px) 0 (s.updCtx c fun x => { x with state := .running, wait := .none }))

/-- `issueState` as a command's outcome. -/
def issue (c : CtxId) (w : Insn) (body : State → Nat → IRes) (s : State) : Host.Outcome State Fault Refusal :=
  .next (issueState c w body s)

/-! ## Operands as bytes -/

/-- An instruction without prefixes. -/
def insn (op : Nat) (ops : List Nat) (imm : Nat) : Insn := ⟨op, Px.none, ops, imm⟩
/-- An instruction with the ordered prefix or none. -/
def insnOrd (op : Nat) (ord : Bool) (ops : List Nat) (imm : Nat) : Insn := ⟨op, { Px.none with ord := ord }, ops, imm⟩

/-- The two bytes of an address pair (R81). -/
def addrBytes (a : Addr) : List Nat :=
  match a.idx with
  | some r => [0x40 + a.scale.toNat * 16 + a.h.val, r.val]
  | none => [a.scale.toNat * 16 + a.h.val, 0]

/-- The 3-bit code of a rounding mode (R61). -/
def rmCode : Rm → Nat
  | .rne => 0 | .rz => 1 | .ru => 2 | .rd => 3 | .sr => 4

/-- The 3-bit code of a read-out target (R82). -/
def sTargetCode : STarget → Nat
  | .fp64 => 0 | .fp32 => 1 | .bf16 => 2 | .fp16 => 3 | .e5m2 => 4 | .e4m3 => 5 | .int64 => 6 | .int32 => 7

/-- The immediate of a bar instruction (R146). -/
def barImm : BarUnit → Nat
  | .cluster u => u.val
  | .device u => 256 + u.val

/-! ## Register operands: tag checks in the order of R52 and R102 -/

/-- Set an S register of a context. -/
def State.putS (s : State) (c : CtxId) (r : Nat) (w : TWord) : State := s.updCtx c fun x => x.setS r w

/-- An S register consumed in a role that admits the tags `ok` (R52): POISON first, then 0xE, which becomes POISON, then the
role. -/
def useS (s : State) (c : CtxId) (r : Nat) (ok : Tag → Bool) (k : TWord → IRes) : IRes :=
  let w := (s.ctx c).sreg r
  if w.tag = Tag.poison then .fault stPoison s
  else if w.tag = Tag.rsvd then .fault stPoison (s.putS c r ⟨w.bits, Tag.poison⟩)
  else if ok w.tag then k w
  else .fault stTag s

/-- An S register consumed in an integer role (R107). -/
def useInt (s : State) (c : CtxId) (r : Nat) (k : Word → IRes) : IRes :=
  useS s c r (fun t => t == Tag.int64) fun w => k w.bits

/-- An H register consumed as a handle (R52, R117). -/
def useH (s : State) (c : CtxId) (r : Nat) (k : Word → IRes) : IRes :=
  let w := (s.ctx c).hreg r
  if w.tag = Tag.poison ∨ w.tag = Tag.rsvd then .fault stPoison s
  else if w.tag = Tag.handle then k w.bits
  else .fault stTag s

/-! ## Memory addresses (R81, R117) -/

/-- The address operands of an instruction after their tag checks: the handle and the index value. -/
def useAddr (s : State) (c : CtxId) (a : Addr) (k : Word → Nat → IRes) : IRes :=
  useH s c a.h.val fun h =>
    match a.idx with
    | none => k h 0
    | some r => useInt s c r.val fun w => k h w.toNat

/-- The byte offset an address pair names, without wrapping (R81, R117): the index value is unsigned, the displacement
signed. -/
def addrOff (a : Addr) (idx adv : Nat) : Int :=
  (idx * 8 ^ a.scale.toNat : Nat) + a.disp.toInt + adv

/-- Steps 2 to 5 of R117: generation, kind, right, alignment and bounds. The device-internal address on success. -/
def checkAddr (s : State) (h : Word) (off : Int) (size align right : Nat) : Except Status Nat :=
  match s.current h with
  | none => .error stStale
  | some r =>
    if r.kind ≠ .local_ then .error stRights
    else if hasRight h right = false then .error stRights
    else if off < 0 ∨ off % align ≠ 0 ∨ off + size > r.len.toNat then .error stRights
    else .ok (r.base.toNat + off.toNat)

/-- The memory access of an instruction after its tag checks: the checks of R117, and where `rd` the words read for errors
(R433, R434). -/
def accessAt (s : State) (h : Word) (a : Addr) (idx adv size align right : Nat) (rd : Bool) (k : State → Nat → IRes) : IRes :=
  match checkAddr s h (addrOff a idx adv) size align right with
  | .error st => .fault st s
  | .ok p => k (if rd then s.settle p size else s) p

/-- Address tags, then the access (R102, R117). -/
def withAccess (s : State) (c : CtxId) (a : Addr) (adv size align right : Nat) (rd : Bool) (k : State → Nat → IRes) : IRes :=
  useAddr s c a fun h idx => accessAt s h a idx adv size align right rd k

/-- A doorbell word of a cipher command queue was written whole (R461): the device observes PI; one that moves backward or
past the queue stops it and raises RING_ERROR. -/
def observeWord (s : State) (a : Nat) : State :=
  match s.cqs.find? fun e => e.2.en && !e.2.stopped && e.2.base == a with
  | none => s
  | some (k, q) =>
    let pi := (s.mem.word a).bits
    if (pi - q.ci).toNat ≤ 2 ^ q.log2 ∧ (pi - q.pi).toNat ≤ 2 ^ q.log2 then
      { s with cqs := tblSet CipherQ.reset s.cqs k { q with pi := pi } }
    else
      let s := { s with cqs := tblSet CipherQ.reset s.cqs k { q with stopped := true } }
      let a0 := BitVec.ofNat 64 (k % 4 + 16 + k / 4 * 256)
      (s.peckEvent (k / 4) sevWarn evRingError a0 pi).mgrEvent sevWarn evRingError a0 pi

/-- Write a full word by an instruction (R45). -/
def writeWord (s : State) (a : Nat) (w : TWord) : Option State :=
  match s.mem.storeWord a w with
  | none => none
  | some m => some (observeWord { s with mem := m, latent := tblErase s.latent (a / 8) } a)

end Sys2Proof.Machine
end

