-- ==== Sys2Proof/Machine/Items.lean ====
section
/-!
DEFINITION. Ring requests as the device holds them: which types there are and on which rings (R386), the field checks of a
descriptor (R387 to R389 and the chapters' own layouts), handle references (R387), and the start of a request's own
processing.
-/

namespace Sys2Proof.Machine

/-! ## Request types (R386) -/

/-- Whether a request type exists, and whether manager rings and Peck rings take it (R386, R426, R464, R484, R507, R528,
R547). -/
def reqOn (t : Nat) : Option (Bool × Bool) :=
  if t = 0x0001 ∨ t = 0x0002 ∨ t = 0x050D ∨ t = 0x0704 then some (true, true)
  else if t = 0x0003 ∨ (0x0100 ≤ t ∧ t ≤ 0x0102) ∨ t = 0x0200 ∨ (0x0300 ≤ t ∧ t ≤ 0x0304) ∨ (0x0400 ≤ t ∧ t ≤ 0x0404) ∨
      (0x0510 ≤ t ∧ t ≤ 0x0512) ∨ (0x0600 ≤ t ∧ t ≤ 0x0602) ∨ (0x0700 ≤ t ∧ t ≤ 0x0703) ∨ (0x0800 ≤ t ∧ t ≤ 0x0803) then
    some (false, true)
  else if t = 0x0004 ∨ (0x0500 ≤ t ∧ t ≤ 0x050C) ∨ t = 0x0804 ∨ (0x0900 ≤ t ∧ t ≤ 0x0902) ∨ t = 0x0940 ∨ t = 0x0941 ∨
      t = 0x0980 ∨ t = 0x0981 then some (true, false)
  else none

/-- Word i of a request body: bytes 16 + 8i to 23 + 8i of the descriptor. -/
def bw (body : List Word) (i : Nat) : Word := body.getD i 0

/-- Words of a body that must be zero, from word i on. -/
def zeroFrom (body : List Word) (i : Nat) : Bool := (body.drop i).all fun w => w == 0

/-- Bits of a word that must be zero, from bit n on. -/
def zeroAbove (w : Word) (n : Nat) : Bool := decide (w.toNat < 2 ^ n)

/-- A handle reference names a directory index of 0 to 4,095 (R387). -/
def refOk (w : Word) : Bool := zeroAbove w 12

/-- A field lies between two bounds. -/
def within (lo hi n : Nat) : Bool := decide (lo ≤ n) && decide (n ≤ hi)

/-- Bodies of the Peck commands (R329, R336, R344). -/
def peckBodyOk (t : Nat) (mgr : Bool) (b : List Word) : Bool :=
  let w := bw b 0
  let dir := bitsOf w 16 16
  if t = 0x0500 then within 1 255 (bitsOf w 8 8) && decide (bitsOf w 24 40 = 0) && zeroFrom b 1
  else if t = 0x0501 ∨ t = 0x0502 then
    within 0 4 (bitsOf w 8 8) && decide (bitsOf w 16 48 = 0) && zeroFrom b 3 &&
    (if bitsOf w 8 8 = 0 then !(bw b 1 == 0 && bw b 2 == 0) else decide (1 ≤ (bw b 2).toNat))
  else if t = 0x0503 then
    let k := bitsOf w 8 8
    within 0 4 k && within 1 4095 dir && decide (bitsOf w 40 24 = 0) && decide (1 ≤ (bw b 2).toNat) &&
    (if k = 2 then zeroAbove (bw b 3) 4 && zeroFrom b 4
     else if k = 3 then zeroAbove (bw b 3) 40 && decide (bitsOf (bw b 1) 10 2 = 0) && decide (bitsOf (bw b 1) 13 3 = 0) &&
       decide (bitsOf (bw b 1) 28 36 = 0)
     else zeroFrom b 3)
  else if t = 0x0504 then decide (bitsOf w 8 8 = 0) && within 1 4095 dir && decide (bitsOf w 32 32 = 0) && zeroFrom b 1
  else if t = 0x0505 then
    decide (bitsOf w 8 24 = 0) && decide (bitsOf w 32 32 ≤ 60000) && zeroFrom b 1
  else if 0x0506 ≤ t ∧ t ≤ 0x0509 then zeroAbove w 8 && zeroFrom b 1
  else if t = 0x050A then
    decide (bitsOf w 16 16 = 0) && zeroFrom b 2 &&
    (if bitsOf w 8 8 = 0 then within 10 24 (bitsOf w 32 32) && decide ((bw b 1).toNat % 8 = 0)
     else decide (bitsOf w 8 8 = 1) && decide (bitsOf w 32 32 = 0) && bw b 1 == 0)
  else if t = 0x050B ∨ t = 0x050C then
    zeroAbove w 8 && decide ((bw b 1).toNat % 8 = 0) && decide ((bw b 3).toNat % 8 = 0) && zeroFrom b 4
  else if t = 0x050D then
    if mgr then zeroAbove w 8 && decide ((bw b 1).toNat % 8 = 0) else w == 0 && refOk (bw b 1)
  else if t = 0x0510 then zeroAbove w 12 && refOk (bw b 1) && decide ((bw b 2).toNat % 8 = 0) && zeroFrom b 3
  else if t = 0x0511 then zeroAbove w 40 && decide (bitsOf w 12 4 = 0) && decide (bitsOf w 28 4 = 0) && zeroFrom b 3
  else zeroAbove w 16 && within 1 4095 (bitsOf w 0 16) && zeroFrom b 1

/-- The bits of a Peck command's body words that its layout gives a field (R329, R336, R344). -/
def peckFieldBits (t : Nat) (mgr : Bool) (b : List Word) : List Nat :=
  let all := 2 ^ 64 - 1
  if t = 0x0500 then [0xFFFFFF]
  else if t = 0x0501 ∨ t = 0x0502 then [0xFFFF, all, all]
  else if t = 0x0503 then
    if bitsOf (bw b 0) 8 8 = 2 then [2 ^ 40 - 1, all, all, 0xF]
    else if bitsOf (bw b 0) 8 8 = 3 then [2 ^ 40 - 1, 0xFFF13FF, all, 2 ^ 40 - 1, all, all]
    else [2 ^ 40 - 1, all, all]
  else if t = 0x0504 then [0xFFFF00FF]
  else if t = 0x0505 then [0xFFFFFFFF000000FF]
  else if 0x0506 ≤ t ∧ t ≤ 0x0509 then [0xFF]
  else if t = 0x050A then (if bitsOf (bw b 0) 8 8 = 1 then [0xFFFF] else [0xFFFFFFFF0000FFFF, all])
  else if t = 0x050B ∨ t = 0x050C then [0xFF, all, all, all]
  else if t = 0x050D then [if mgr then 0xFF else 0, all, all, all, all, all]
  else if t = 0x0510 then [0xFFFF, all, all]
  else if t = 0x0511 then [2 ^ 40 - 1, all, all]
  else if t = 0x0512 then [0xFFFF]
  else []

/-- The bits of a request body's words that its layout gives a field; every other bit is reserved (R388, R233, R279, R393 and each
type's own layout). -/
def fieldBits (t : Nat) (mgr : Bool) (b : List Word) : List Nat :=
  let all := 2 ^ 64 - 1
  if t = 0x0002 then [all, 0xF]
  else if t = 0x0003 then [0xFFFFFFFFFFFF030F, all, all]
  else if t = 0x0004 then [all, all, 0xFFFFFFFF]
  else if t = 0x0100 ∨ t = 0x0200 ∨ t = 0x0300 ∨ t = 0x0600 ∨ t = 0x0800 then [all, all]
  else if t = 0x0101 then [all, all, all, all, all]
  else if t = 0x0102 ∨ t = 0x0401 then [all]
  else if t = 0x0301 then [0x1FFFF, all, all]
  else if t = 0x0302 then [0xFFFF]
  else if t = 0x0303 then [0xFFFFFFFF03FFFFFF, all, all, all, all, 0xFFFFFFFF]
  else if t = 0x0304 then [0x7FFFFF, all, all]
  else if t = 0x0400 then [all, 0xFFFFFFFF, 0xFF]
  else if t = 0x0402 then [all, all, all, all, 0xFFFF]
  else if t = 0x0403 then [all, all, all, all, all, 0x1FFFF]
  else if t = 0x0404 then [all, all, all, all, all, 2 ^ 40 - 1]
  else if t = 0x0601 then [0xFF, all]
  else if t = 0x0602 then [0xFF]
  else if t = 0x0700 then [0xFFF, all, all]
  else if t = 0x0701 then [0xFFFF0FFF]
  else if t = 0x0702 then [0xFFF]
  else if t = 0x0703 then [0x103, all, all, 0xFF]
  else if t = 0x0704 then (if mgr then [0, all] else [0, all, all])
  else if t = 0x0801 then [0xFFFFFFFF, all, all]
  else if t = 0x0803 then [all, 0xFF, all, 0xFFFFFFFF, all, all]
  else if t = 0x0804 then [0xFF, all]
  else if t = 0x0900 then [all, all, 1]
  else if t = 0x0901 then [1]
  else if 0x0500 ≤ t ∧ t ≤ 0x05FF then peckFieldBits t mgr b
  else []

/-- A body as its consumer reads it: with a minor version other than 0 the fields that it does not know are ignored (R7). -/
def knownBody (minor t : Nat) (mgr : Bool) (b : List Word) : List Word :=
  if minor = 0 then b
  else (List.range 6).map fun k => bw b k &&& BitVec.ofNat 64 ((fieldBits t mgr b).getD k 0)

/-- The reserved fields and ranges of a request body (R388, R389 step 2, R393 and each type's own layout). -/
def bodyOk (t : Nat) (mgr : Bool) (b : List Word) : Bool :=
  let w := bw b 0
  if t = 0x0002 then zeroAbove (bw b 1) 4 && zeroFrom b 2
  else if t = 0x0003 then
    decide (bitsOf w 4 4 = 0) && decide (bitsOf w 10 6 = 0) && zeroFrom b 3 &&
    (bitsOf w 8 1 == 0 ||
      (within 0 63 (bitsOf w 16 16) && within 1 255 (bitsOf w 32 8) && within 6 16 (bitsOf w 40 8) &&
       within 0 1023 (bitsOf w 48 16) && refOk (bw b 1)))
  else if t = 0x0004 then decide (w.toNat % 32 = 0) && within 1 65536 (bw b 2).toNat && zeroFrom b 3
  else if t = 0x0100 then refOk w && zeroFrom b 2
  else if t = 0x0101 then refOk w && refOk (bw b 2) && zeroFrom b 5
  else if t = 0x0102 then refOk w && zeroFrom b 1
  else if t = 0x0200 ∨ t = 0x0300 then refOk w && zeroFrom b 2
  else if t = 0x0301 then zeroAbove w 17 && refOk (bw b 1) && zeroFrom b 3
  else if t = 0x0302 then zeroAbove w 16 && zeroFrom b 1
  else if t = 0x0303 then decide (bitsOf w 26 6 = 0) && zeroAbove (bw b 5) 32
  else if t = 0x0304 then zeroAbove w 23 && within 1 64 (bitsOf w 16 7) && refOk (bw b 1) && zeroFrom b 3
  else if t = 0x0400 then refOk w && zeroAbove (bw b 1) 32 && zeroAbove (bw b 2) 8 && zeroFrom b 3
  else if t = 0x0401 then refOk w && zeroFrom b 1
  else if t = 0x0402 then refOk w && zeroAbove (bw b 4) 16 && zeroFrom b 5
  else if t = 0x0403 then refOk w && refOk (bw b 3) && zeroAbove (bw b 5) 17
  else if t = 0x0404 then refOk w && refOk (bw b 4) && zeroAbove (bw b 5) 40
  else if 0x0500 ≤ t ∧ t ≤ 0x05FF then peckBodyOk t mgr b
  else if t = 0x0600 then refOk w && zeroFrom b 2
  else if t = 0x0601 then zeroAbove w 4 && zeroFrom b 2
  else if t = 0x0602 then zeroAbove w 4 && zeroFrom b 1
  else if t = 0x0700 then zeroAbove w 12 && refOk (bw b 1) && decide ((bw b 2).toNat % 8 = 0) && zeroFrom b 3
  else if t = 0x0701 then zeroAbove w 32 && decide (bitsOf w 12 4 = 0) && zeroFrom b 1
  else if t = 0x0702 then zeroAbove w 12 && zeroFrom b 1
  else if t = 0x0703 then
    decide (bitsOf w 2 6 = 0) && zeroAbove w 9 && zeroFrom b 4 && zeroAbove (bw b 3) 8 &&
    (bitsOf w 8 1 == 0 || (refOk (bw b 1) && decide ((bw b 2).toNat % 64 = 0) && within 4 12 (bw b 3).toNat))
  else if t = 0x0704 then
    w == 0 && (if mgr then decide ((bw b 1).toNat % 8 = 0) && zeroFrom b 2
      else refOk (bw b 1) && decide ((bw b 2).toNat % 8 = 0) && zeroFrom b 3)
  else if t = 0x0800 then refOk w && zeroFrom b 2
  else if t = 0x0801 then zeroAbove w 32 && zeroFrom b 3
  else if t = 0x0803 then
    refOk w && zeroAbove (bw b 1) 8 && within 0 2 (bw b 1).toNat && zeroAbove (bw b 3) 32 &&
    within 1 256 (bitsOf (bw b 3) 16 16) && refOk (bw b 4)
  else if t = 0x0804 then zeroAbove w 8 && within 0 600000 (bw b 1).toNat && zeroFrom b 2
  else if t = 0x0900 then
    decide (w.toNat % 4096 = 0) && within 1 0x4000000 (bw b 1).toNat && zeroAbove (bw b 2) 1 && zeroFrom b 3
  else if t = 0x0901 then zeroAbove w 1 && zeroFrom b 1
  else zeroFrom b 0

/-- The body words that hold handle references (R387). -/
def refWords (t : Nat) (mgr : Bool) (b : List Word) : List Nat :=
  if t = 0x0003 then (if bitsOf (bw b 0) 8 1 = 1 then [1] else [])
  else if t = 0x0100 ∨ t = 0x0102 ∨ t = 0x0200 ∨ t = 0x0300 ∨ t = 0x0400 ∨ t = 0x0401 ∨ t = 0x0402 ∨ t = 0x0600 ∨ t = 0x0800 then [0]
  else if t = 0x0101 then [0, 2]
  else if t = 0x0301 ∨ t = 0x0304 ∨ t = 0x0510 ∨ t = 0x0700 then [1]
  else if t = 0x0403 then [0, 3]
  else if t = 0x0404 then [0, 4]
  else if t = 0x0703 then (if bitsOf (bw b 0) 8 1 = 1 then [1] else [])
  else if (t = 0x050D ∨ t = 0x0704) ∧ ¬mgr then [1]
  else if t = 0x0803 then [0, 4]
  else []

/-! ## Handle references (R387) -/

/-- The directory word of a Peck. -/
def State.dirWord (s : State) (p i : Nat) : TWord := s.mem.word (dirBase p + 8 * i)

/-- What a tagged word used as a handle gives: POISON, tag, generation (R52, R387). -/
def resolve (s : State) (w : TWord) : Ref :=
  if w.tag = Tag.poison ∨ w.tag = Tag.rsvd then ⟨stPoison, 0, Loc.none⟩
  else if w.tag ≠ Tag.handle then ⟨stTag, 0, Loc.none⟩
  else match s.current w.bits with
    | none => ⟨stStale, w.bits, Loc.none⟩
    | some r => ⟨stOk, w.bits, locOf w.bits r⟩

/-- The checks of a reference in use: its status, its kind and a right. -/
def Ref.check (r : Ref) (kinds : List HKind) (rights : List Nat) : Status :=
  if r.st ≠ stOk then r.st
  else if !kinds.contains r.loc.kind || rights.any (fun x => !hasRight r.h x) then stRights
  else stOk

/-- The first status that is not ST_OK. -/
def firstBad (l : List Status) : Status := (l.find? fun x => x ≠ stOk).getD stOk

def Item.ref (i : Item) (k : Nat) : Ref := i.refs.getD k ⟨stTag, 0, Loc.none⟩
def Item.w (i : Item) (k : Nat) : Word := bw i.body k

/-- A range lies within a region and starts at a multiple. -/
def Loc.holds (l : Loc) (off : Word) (len al : Nat) : Bool :=
  decide (off.toNat % al = 0) && decide (off.toNat + len ≤ l.len.toNat)

/-! ## Taking a request from the store -/

/-- A request row acts on a dispatched item of its own type whose own checks have not been made; otherwise it has no effect. -/
def State.request (s : State) (id : ItemId) (t : Nat) (k : Item → State) : State :=
  match s.item id with
  | none => s
  | some i => if i.typ.toNat = t ∧ i.phase = .dispatched then k i else s

/-- Complete an item with a status and RESULT 0. -/
def State.done (s : State) (i : Item) (st : Status) : State := s.completeItem i st 0 0

/-- Set the phase of an item. -/
def State.setPhase (s : State) (id : ItemId) (ph : ItemPhase) : State := s.updItem id fun i => { i with phase := ph }

/-- Distinct scopes in the ordering table (R276). -/
def scopes (s : State) : Nat :=
  (s.writes.foldl (fun (l : List (Nat × BitVec 16 × BitVec 128)) x =>
    if l.contains (x.peck, x.grp, x.dst) then l else (x.peck, x.grp, x.dst) :: l) []).length

/-- Whether the ordering table can take a write of a scope (R276). -/
def scopeFits (s : State) (peck : Nat) (grp : BitVec 16) (dst : BitVec 128) : Bool :=
  (s.writes.any fun x => x.peck == peck && x.grp == grp && x.dst == dst) || decide (scopes s < 4096)

/-- The outcome of a read that firmware or a service makes outside the device's memory: its bytes, or the status with which
it fails (R361 and the chapters of the transport and storage). An input of the command that names it. -/
abbrev ExtBytes := Except Status (List Byte)

end Sys2Proof.Machine
end

