-- ==== Sys2Proof/Machine/Rings.lean ====
section
/-!
DEFINITION. Submission rings, Springs, MSI-X vectors and the manager driver's attachment: register writes, dispatch, and the
requests NOP, SPRING_CFG and LOG_READ (R369, R379 to R384, R389, R392 to R395, R400 to R407).
-/

namespace Sys2Proof.Machine

/-! ## Register accesses (R4, R5) -/

/-- The register's new value when an access writes the whole word, its low or its high half (R4). -/
def mergePart (p : RegPart) (old v : Word) : Word :=
  match p with
  | .full => v
  | .low => putField old 0 32 (bitsOf v 0 32)
  | .high => putField old 32 32 (bitsOf v 32 32)

/-- Blocks other than the manifest ROM, DEVCTL and FW ignore writes before READY (R498). -/
def whenReady (s : State) (k : State) : Host.Outcome State Fault Refusal := .next (if s.phase = 2 then k else s)

/-- The Peck whose window a VF of PF0 shows; a DISABLED or FREE Peck's window discards writes (R354). -/
def State.vfPeck (s : State) (vf : Nat) : Option Nat :=
  (s.pecks.find? fun e => e.2.vf0 == vf && vf != 0 && e.2.state != .free && e.2.state != .disabled).map (·.1)

/-- A write to a VF window reaches its Peck, or is discarded (R354). -/
def withVf (s : State) (vf : Nat) (k : Nat → State) : State :=
  match s.vfPeck vf with
  | none => s
  | some p => k p

/-! ## Rings -/

/-- The undispatched items of a ring, as slot counts from CI up to PI, without those an ABORT has completed. -/
def Ring.waiting (x : Ring) : List (BitVec 32) :=
  ((List.range (x.pi - x.ci).toNat).map fun i => x.ci + BitVec.ofNat 32 i).filter fun n => !x.gone.contains n

/-- Word w of the descriptor that item number n occupies. -/
def Ring.word (x : Ring) (n : BitVec 32) (w : Nat) : TWord := tblGet TWord.zero x.words (n.toNat % 2 ^ x.log2 * 8 + w)

/-- A doorbell value covers an item number. -/
def covers (n pi : BitVec 32) : Bool := decide ((pi - n - 1).toNat < 2 ^ 31)

/-- When the doorbell that submitted an item was received. -/
def Ring.bellTime (x : Ring) (n : BitVec 32) : Nat := ((x.bells.find? fun b => covers n b.1).map (·.2)).getD 0

/-- The item that descriptor number n spells; header fields in a POISON word count as zero (R389). -/
def itemOf (p r : Nat) (x : Ring) (n : BitVec 32) : Item :=
  let ok (w : TWord) : Bool := w.tag != Tag.poison && w.tag != Tag.rsvd
  let w0 := x.word n 0
  let w1 := x.word n 1
  let h := if ok w0 then w0.bits else 0
  { id := 0, fn := p, ring := r, tag := if ok w1 then w1.bits else 0, typ := BitVec.ofNat 16 (bitsOf h 16 16),
    spring := bitsOf h 40 4,
    body := knownBody (bitsOf h 0 8) (bitsOf h 16 16) (p == 0) ((List.range 6).map fun i => (x.word n (i + 2)).bits), refs := [], phase := .dispatched, wr := 0, open_ := 0, st := stOk, buf := [],
    t0 := x.bellTime n }

/-- A WYM_SEND of a ring waits for an entry of the ordering table, and holds the ring (R276). -/
def sendWaits (s : State) (p r : Nat) : Bool :=
  s.items.any fun i => i.fn == p && i.ring == r && i.typ == 0x0403#16 && i.phase == .dispatched &&
    !scopeFits s p (BitVec.ofNat 16 (bitsOf (i.w 5) 0 16)) (i.ref 1).loc.raddr

/-- Whether a ring's next item may be dispatched (R276, R382, R384, R392, R401, R332, R20). -/
def canDispatch (s : State) (p r : Nat) : Bool :=
  let x := s.ring (16 * p + r)
  let w0 := x.word x.ci 0
  x.en && !x.error && !x.waiting.isEmpty && !s.rcv.fenced && !sendWaits s p r &&
  (if p = 0 then s.attached && !(s.fn 0).d3 else (s.peck p).state == .active) &&
  ((List.range 16).all fun sp => decide ((s.spring (16 * p + sp)).hold.length ≤ 1024)) &&
  (bitsOf w0.bits 32 1 == 0 || w0.tag == Tag.poison || !(s.items.any fun i => i.fn == p && i.ring == r))

/-- The checks of R389 on a descriptor: its first failure, or ST_OK. -/
def descStatus (p : Nat) (w0 : Word) (body : List Word) : Status :=
  match reqOn (bitsOf w0 16 16) with
  | none => stUndef
  | some (m, t) =>
    if bitsOf w0 8 8 ≠ 1 ∨ reservedOk (bitsOf w0 0 8) (bitsOf w0 33 7 == 0 && bitsOf w0 44 20 == 0) = false ∨ bodyOk (bitsOf w0 16 16) (p == 0) body = false then stUndef
    else if (if p = 0 then m else t) then stOk
    else stRights

/-- RING_DISPATCH: the next descriptor of a ring is read once into the device's store, CI advances, and the checks of R389
complete it at the first failure; handle references are read at this moment (R384, R387, R389). No effect while the ring may
not dispatch. -/
def execRingDispatch (p : Fin 256) (r : Fin 16) (s : State) : Host.Outcome State Fault Refusal :=
  if canDispatch s p.val r.val = false then .next s
  else
    let k := 16 * p.val + r.val
    let x := s.ring k
    match x.waiting with
    | [] => .next s
    | n :: _ =>
      let ws := (List.range 8).map fun i => x.word n i
      let i := { itemOf p.val r.val x n with id := s.nextItem }
      let s := { s.setRing k { x with ci := n + 1, gone := x.gone.filter fun m => decide ((m - n).toNat ≠ 0) } with
                 nextItem := s.nextItem + 1 }
      if ws.any fun w => w.tag == Tag.poison || w.tag == Tag.rsvd then
        .next (s.completeItem i stPoison (BitVec.ofNat 64 (n.toNat % 2 ^ x.log2)) 0)
      else
        let st := descStatus p.val (ws.getD 0 TWord.zero).bits i.body
        if st ≠ stOk then .next (s.done i st)
        else
          let idx := refWords i.typ.toNat (p.val == 0) i.body
          let s := idx.foldl (fun s j => s.settle (dirBase p.val + 8 * (bw i.body j).toNat) 8) s
          let refs := idx.map fun j => resolve s (s.dirWord p.val (bw i.body j).toNat)
          let i : Item := { i with refs := refs }
          if i.typ.toNat = 0x0403 then .next { s with items := s.items ++ [{ i with wr := s.nextWr }], nextWr := s.nextWr + 1 }
          else .next { s with items := s.items ++ [i] }

/-- RING_ERROR to the Peck and the manager (R382). -/
def ringError (s : State) (p r : Nat) (pi : Word) : State :=
  let a0 := BitVec.ofNat 64 (r % 16 + p * 256)
  let s := if p = 0 then s else s.peckEvent p sevWarn evRingError a0 pi
  s.mgrEvent sevWarn evRingError a0 pi

/-- A doorbell write (R382). A write of the high half alone names no PI and has no effect. -/
def doorbell (s : State) (p r : Nat) (part : RegPart) (v : Word) : State :=
  let k := 16 * p + r
  let x := s.ring k
  let w := mergePart part 0 v
  if part = .high then s
  else if !x.en then s.errWr
  else
    let pi := BitVec.ofNat 32 (bitsOf w 0 32)
    if bitsOf w 32 32 = 0 ∧ pi = x.pi then s
    else if bitsOf w 32 32 = 0 ∧ (pi - x.ci).toNat ≤ 2 ^ x.log2 ∧ (x.pi - x.ci).toNat ≤ (pi - x.ci).toNat then
      s.setRing k { x with pi := pi, bells := (x.bells.filter fun b => covers x.ci b.1) ++ [(pi, s.time)] }
    else ringError (s.setRing k { x with error := true }) p r w

/-- VF_DB: a Peck doorbell (R382, R404). -/
def execVfDb (vf : Fin 256) (r : Fin 16) (part : RegPart) (v : Word) (s : State) : Host.Outcome State Fault Refusal :=
  whenReady s (withVf s vf.val fun p => doorbell s p r.val part v)

/-- RING_MDB: a manager doorbell (R382, R405). -/
def execRingMdb (r : Fin 4) (part : RegPart) (v : Word) (s : State) : Host.Outcome State Fault Refusal :=
  whenReady s (doorbell s 0 r.val part v)

/-- Complete every undispatched item of a ring with a status, and empty the ring (R383). -/
def resetRing (s : State) (p r : Nat) (st : Status) : State :=
  let k := 16 * p + r
  let x := s.ring k
  let s := x.waiting.foldl (fun s n => s.done { itemOf p r x n with id := s.nextItem } st) s
  let x := s.ring k
  s.setRing k { x with pi := 0, ci := 0, error := false, gone := [] }

/-- VF_RRESET: resets a Peck ring (R383, R404). -/
def execVfRreset (vf : Fin 256) (r : Fin 16) (part : RegPart) (v : Word) (s : State) : Host.Outcome State Fault Refusal :=
  whenReady s (withVf s vf.val fun p =>
    if bitsOf (mergePart part 0 v) 0 1 = 1 then resetRing s p r.val stAborted else s)

/-- RING_MCFG.RESET set: resets a manager ring and changes no other field (R380, R383). A write without RESET is a
RING_CFG_WRITE. -/
def execRingReset (r : Fin 4) (part : RegPart) (v : Word) (s : State) : Host.Outcome State Fault Refusal :=
  whenReady s (if bitsOf (mergePart part 0 v) 5 1 = 1 then resetRing s 0 r.val stAborted else s)

/-- Slots that enabled rings hold of the pool (R380). -/
def poolUsed (s : State) : Nat := s.rings.foldl (fun n e => if e.2.en then n + 2 ^ e.2.log2 else n) 0

/-- Whether two ring windows overlap: offsets in units of 1,024 bytes, sizes as log2 of slots. -/
def ringsOverlap (a b : Ring) : Bool :=
  decide (a.offset * 1024 < b.offset * 1024 + 64 * 2 ^ b.log2) && decide (b.offset * 1024 < a.offset * 1024 + 64 * 2 ^ a.log2)

/-- RING_PRING[p][r], or RING_MCFG[r] for p = 0 (R380, R405, R406). -/
def ringCfgWord (p : Nat) (x : Ring) : Word :=
  BitVec.ofNat 64 (x.log2 + x.en.toNat * 16 + (if p = 0 then 0 else x.error.toNat * 32 + x.offset * 256 + x.ci.toNat * 2 ^ 32))

/-- Whether a ring configuration write is accepted (R380). -/
def ringCfgOk (s : State) (p r : Nat) (new : Ring) : Bool :=
  let x := s.ring (16 * p + r)
  let top := if p = 0 then 8 else 12
  (!x.en || x.waiting.isEmpty) && within 4 top new.log2 &&
  (p == 0 || (decide (new.offset ≤ 767) && decide (new.offset * 1024 + 64 * 2 ^ new.log2 ≤ 786432) &&
    ((List.range 16).all fun j => j == r || !(s.ring (16 * p + j)).en || !ringsOverlap new (s.ring (16 * p + j))))) &&
  (!new.en || decide (poolUsed s - (if x.en then 2 ^ x.log2 else 0) + 2 ^ new.log2 ≤ 262144))

/-- RING_CFG_WRITE: a write to RING_PRING of a Peck, or to RING_MCFG for p = 0 (R380, R405). A RING_MCFG write with RESET set
is a RING_RESET and has no effect here. -/
def execRingCfgWrite (p : Fin 256) (r : Fin 16) (part : RegPart) (v : Word) (s : State) : Host.Outcome State Fault Refusal :=
  let k := 16 * p.val + r.val
  let x := s.ring k
  let w := mergePart part (ringCfgWord p.val x) v
  if p.val = 0 ∧ (r.val ≥ 4 ∨ bitsOf (mergePart part 0 v) 5 1 = 1) then .next s
  else
    let new := { x with log2 := bitsOf w 0 4, en := bitsOf w 4 1 == 1,
                        offset := if p.val = 0 then r.val * 16 else bitsOf w 8 10 }
    let new := if new.en && !x.en then { new with pi := 0, ci := 0, error := false, gone := [] } else new
    whenReady s (if ringCfgOk s p.val r.val new then s.setRing k new else s.errWr)

/-- Where a word at a window offset goes: the enabled ring and the word's place in it (R381). -/
def windowSlot (s : State) (p off : Nat) : Option (Nat × Nat) :=
  (List.range 16).findSome? fun r =>
    let x := s.ring (16 * p + r)
    let base := if p = 0 then r * 0x4000 else x.offset * 1024
    if x.en ∧ base ≤ off ∧ off < base + 64 * 2 ^ x.log2 then some (16 * p + r, (off - base) / 8) else none

/-- Write the words of a ring window access one by one; the Bool says whether any was discarded (R381). -/
def windowWords (p : Nat) : Nat → Nat → List Byte → State → State × Bool
  | 0, _, _, s => (s, false)
  | n + 1, off, bs, s =>
    let w : TWord := ⟨BitVec.ofNat 64 (natOfBytes (bs.take 8)), Tag.nil⟩
    match windowSlot s p off with
    | none => ((windowWords p n (off + 8) (bs.drop 8) s).1, true)
    | some (k, j) =>
      let x := s.ring k
      windowWords p n (off + 8) (bs.drop 8) (s.setRing k { x with words := tblSet TWord.zero x.words j w })

/-- Poisoned TLP Received in a function's AER status (R436). -/
def logPoisoned (s : State) (f : Nat) : State := s.setFn f { s.fn f with aerPoison := true }

/-- RING_WINDOW_WRITE: a host write to a ring window, of the manager for vf = 0 (R381). A write of another size or alignment
has no effect and is counted (R4, R381); a poisoned one is discarded (R436). -/
def execRingWindowWrite (vf : Fin 256) (off : Nat) (data : List Byte) (ep : Bool) (s : State) : Host.Outcome State Fault Refusal :=
  let go (p : Nat) : State :=
    if ep then logPoisoned s.errWr (s.fnOf p)
    else if off % 8 ≠ 0 ∨ data.length % 8 ≠ 0 ∨ data.length < 8 ∨ data.length > 4096 then s.bump rErrAcc 1
    else
      let (s, bad) := windowWords p (data.length / 8) off data s
      if bad then s.errWr else s
  whenReady s (if vf.val = 0 then go 0 else withVf s vf.val go)

/-! ## Springs -/

/-- A Spring's CI is advanced and held records may be written (R392, R394). -/
def springCi (s : State) (p sp : Nat) (part : RegPart) (v : Word) : State :=
  if part = .high then s
  else
    let x := s.spring (16 * p + sp)
    (s.setSpring (16 * p + sp) { x with ci := BitVec.ofNat 32 (bitsOf v 0 32) }).drain p sp

/-- VF_SPRCI (R394, R404). -/
def execVfSprci (vf : Fin 256) (sp : Fin 16) (part : RegPart) (v : Word) (s : State) : Host.Outcome State Fault Refusal :=
  whenReady s (withVf s vf.val fun p => springCi s p sp.val part v)

/-- SPRG_CI (R394, R407). -/
def execSprgCiWrite (sp : Fin 16) (part : RegPart) (v : Word) (s : State) : Host.Outcome State Fault Refusal :=
  whenReady s (springCi s 0 sp.val part v)

/-- SPRG_CFG of a manager Spring (R407). -/
def sprgCfgWord (x : Spring) : Word :=
  BitVec.ofNat 64 (x.en.toNat + x.events.toNat * 2 + x.log2 * 2 ^ 8 + x.vector * 2 ^ 16 + x.count * 2 ^ 32 + x.delay * 2 ^ 48)

/-- A Spring with the fields of SPRG_CFG. -/
def sprgFields (x : Spring) (w : Word) : Spring :=
  { x with en := bitsOf w 0 1 == 1, events := bitsOf w 1 1 == 1, log2 := bitsOf w 8 5, vector := bitsOf w 16 11,
           count := bitsOf w 32 8, delay := bitsOf w 48 10 }

/-- SPRG_CFG_WRITE: a write to SPRG_BASE (`base`) or SPRG_CFG of a manager Spring (R407). Enabling sets PI and CI to 0
(R393). -/
def execSprgCfgWrite (sp : Fin 16) (base : Bool) (part : RegPart) (v : Word) (s : State) : Host.Outcome State Fault Refusal :=
  let x := s.spring sp.val
  whenReady s (
    if base then
      if x.en then s.errWr
      else s.setSpring sp.val { x with base := putField (mergePart part x.base v) 0 12 0 }
    else
      let y := sprgFields x (mergePart part (sprgCfgWord x) v)
      if (x.en && y.en) || (y.en && !(within 6 16 y.log2 && decide (1 ≤ y.count))) then s.errWr
      else if y.en then
        (s.setSpring sp.val { y with pi := 0, ci := 0, unsig := 0, first := none, loc := none }).drain 0 sp.val
      else s.setSpring sp.val y)

/-- SPRING_DELAY_EXPIRY: DELAY µs have passed since the first record not yet signalled (R394). No effect before. -/
def execSpringDelayExpiry (p : Fin 256) (sp : Fin 16) (s : State) : Host.Outcome State Fault Refusal :=
  let k := 16 * p.val + sp.val
  let x := s.spring k
  match x.first with
  | some t =>
    if t + x.delay * 1000 ≤ s.time then
      .next ((s.setSpring k { x with unsig := 0, first := none }).signalVec (s.fnOf p.val) x.vector)
    else .next s
  | none => .next s

/-- SPRING_CFG (R393): a disable checks nothing further; an enable needs a HOST region with WR that holds the Spring. -/
def execSpringCfg (id : Nat) (s : State) : Host.Outcome State Fault Refusal :=
  .next (s.request id 0x0003 fun i =>
    let w := i.w 0
    let sp := bitsOf w 0 4
    let k := 16 * i.fn + sp
    let x := s.spring k
    if bitsOf w 8 1 = 0 then (s.setSpring k { x with en := false }).done i stOk
    else
      let log2 := bitsOf w 40 8
      let ref := i.ref 0
      let st := ref.check [.host] [rightWr]
      if st ≠ stOk then s.done i st
      else if ref.loc.holds (i.w 2) (2 ^ log2 * 32) 4096 = false then s.done i stRights
      else
        let y := { x with en := true, events := bitsOf w 9 1 == 1, log2 := log2, vector := bitsOf w 16 16,
                          count := bitsOf w 32 8, delay := bitsOf w 48 16, base := ref.loc.base + i.w 2,
                          loc := some ref.loc, pi := 0, ci := 0, unsig := 0, first := none }
        ((s.setSpring k y).done i stOk).drain i.fn sp)

/-! ## MSI-X (R369, R379) -/

/-- One change of a function's interrupt conditions (R369). -/
def msixChange (x : Fn) : MsixOp → Fn
  | .enable b => { x with msixEn := b }
  | .funcMask b => { x with fmask := b }
  | .entry v addr data mask => x.setVec v { x.vec v with addr := addr, data := data, mask := mask }
  | .busMaster => { x with bme := true }
  | .d0 => { x with d3 := false }
  | .pmeEn b => { x with pmeEn := b }
  | .vfEnable b => { x with enabled := b }
  | .devctl mps mrrs cto ats => { x with mps := mps, mrrs := mrrs, cto := cto, ats := ats }
  | .window _ _ _ => x
  | .acs _ _ => x
  | .buses _ _ _ => x
  | .linkDisable _ _ => x
  | .bar _ _ _ => x
  | .epBus _ _ => x
  | .internalBus _ _ => x

/-- A port's memory window, ACS controls, buses or Link Disable, an endpoint's BAR, or a bus number, is set (R349, R351, R366, R367); other changes concern the
function alone. -/
def setWindow (s : State) : MsixOp → State
  | .window p b t => { s with windows := (s.windows.filter fun w => w.1 ≠ p) ++ (if b < t then [(p, b, t)] else []) }
  | .acs p b => { s with pcie := { s.pcie with acs := tblSet 0x5D s.pcie.acs p b } }
  | .buses p a b => { s with pcie := { s.pcie with buses := (s.pcie.buses.filter fun w => w.1 ≠ p) ++ [(p, a, b)] } }
  | .linkDisable p b =>
    -- a disabled link is DOWN, unless DPC holds it (PCI Express Base 6.0; R2)
    let s := if b && decide (p < 64) && pcieLink s p != 3 then s.setRegField (rPortStat (p / 4)) (16 * (p % 4)) 2 0 else s
    { s with pcie := { s.pcie with disabled := s.pcie.disabled.filter (· ≠ p) ++ (if b then [p] else []) } }
  | .epBus v b => { s with pcie := { s.pcie with epBus := tblSet 0 s.pcie.epBus v b } }
  | .internalBus v b => { s with pcie := { s.pcie with intBus := tblSet 0 s.pcie.intBus v b } }
  | .bar v b t => { s with pcie := { s.pcie with bars := s.pcie.bars ++ (if b < t then [(v, b, t)] else []) } }
  | _ => s

/-- The Peck that holds a VF of PF0, whatever its state. -/
def State.pfPeck (s : State) (f : Nat) : Option Nat := (s.pecks.find? fun e => e.2.vf0 == f && f != 0 && e.2.state != .free).map (·.1)

/-- MSIX_UNMASK: a host changes a condition that holds messages, or another part of a function's or bridge's configuration; when
none holds any longer, one message is sent for each pending vector and held records may be written (R369, R373). -/
def execMsixUnmask (f : Nat) (op : MsixOp) (s : State) : Host.Outcome State Fault Refusal :=
  let s := setWindow s op
  let s := (s.setFn f (msixChange (s.fn f) op)).releaseVecs f
  .next (if f = 0 then s.drainAll 0
    else match s.pfPeck f with
      | some p => s.drainAll p
      | none => s)

/-- INTC_TEST: signals the named vector without a record; a vector beyond the table or a VF that is not enabled is refused
(R379). -/
def execIntcTestWrite (part : RegPart) (v : Word) (s : State) : Host.Outcome State Fault Refusal :=
  let w := mergePart part 0 v
  let vec := bitsOf w 0 11
  let f := bitsOf w 16 8
  whenReady s (
    if part = .high then s
    else if f ≠ 0 ∧ (vec ≥ 64 ∨ (s.fn f).enabled = false) then s.errWr
    else s.signalVec f vec)

/-! ## The manager driver (R400 to R403) -/

/-- Detach the manager driver with a cause, recording DRIVER_LOST (R400, R401). -/
def detach (s : State) (cause : Nat) : State :=
  if !s.attached then s
  else
    let epoch := bitsOf (s.reg rMgrStat) 32 32
    let s := s.logEvent sevWarn evDriverLost (BitVec.ofNat 64 cause) (BitVec.ofNat 64 epoch)
    let s := (List.range 16).foldl (fun s sp => s.setSpring sp { s.spring sp with en := false }) s
    ({ s with attached := false }.setRegField rMgrStat 0 1 0).setRegField rMgrStat 8 8 cause

/-- RING_ATTACH: while attached, the driver is detached with cause 5; otherwise a nonzero EPOCH that differs from the last
attaches it (R400, R402). -/
def execRingAttach (part : RegPart) (v : Word) (s : State) : Host.Outcome State Fault Refusal :=
  let w := mergePart part 0 v
  let old := bitsOf (s.reg rMgrStat) 32 32
  let epoch := bitsOf w 0 32
  whenReady s (
    if s.attached then detach s 5
    else if epoch = 0 ∨ epoch = old then s.errWr
    else
      let s := if bitsOf w 32 1 = 1 then s else (List.range 4).foldl (fun s r => resetRing s 0 r stFenced) s
      let pi := s.logpi
      let s := ({ s with attached := true, hbeat := s.time }.setRegField rMgrStat 0 1 1).setRegField rMgrStat 32 32 epoch
      let ev := evRec s sevInfo evAttached (BitVec.ofNat 64 pi) (BitVec.ofNat 64 old)
      match s.eventSpring 0 with
      | some sp => (s.setSpring sp { s.spring sp with hold := ev :: (s.spring sp).hold }).drainAll 0
      | none => (s.logRec ev).drainAll 0)

/-- RING_HBEAT: a heartbeat; none while detached (R400, R405). -/
def execRingHbeat (_part : RegPart) (_v : Word) (s : State) : Host.Outcome State Fault Refusal :=
  whenReady s (if s.attached then { s with hbeat := s.time } else s)

/-- RING_DETACH: a write of 1 detaches the manager driver with cause 1 (R400). -/
def execRingDetach (part : RegPart) (v : Word) (s : State) : Host.Outcome State Fault Refusal :=
  whenReady s (if bitsOf (mergePart part 0 v) 0 1 = 1 then detach s 1 else s)

/-- MGR_HEARTBEAT_TIMEOUT: no heartbeat within PERIOD detaches the manager with cause 0 (R400). No effect before. -/
def execMgrHeartbeatTimeout (s : State) : Host.Outcome State Fault Refusal :=
  .next (if s.attached ∧ s.hbeat + bitsOf (s.reg rHbCfg) 0 14 * 1000000 ≤ s.time then detach s 0 else s)

/-- LOG_READ: copies the records that exist, from FIRST or the oldest on (R403); RESULT is the first record copied and AUX the
count (R391). With nothing copied, RESULT is open. -/
def execLogRead (id : Nat) (s : State) : Host.Outcome State Fault Refusal :=
  .next (s.request id 0x0004 fun i =>
    let first := max (i.w 1).toNat (s.logpi - 131072)
    let n := if (i.w 1).toNat ≥ s.logpi then 0 else min (i.w 2).toNat (s.logpi - first)
    let s := (List.range n).foldl (fun s k =>
      s.hostWrite i.fn (i.w 0 + BitVec.ofNat 64 (32 * k)) (recBytes (tblGet ⟨0, 0, 0, 0, 0, 0, 0⟩ s.log (first + k)) false false) false) s
    if n = 0 then
      let (r, s) := s.draw
      s.completeItem i stOk r 0
    else s.completeItem i stOk (BitVec.ofNat 64 first) (BitVec.ofNat 64 n))

/-- NOP_REQUEST: completes with ST_OK and RESULT 0 (R386). -/
def execNopRequest (id : Nat) (s : State) : Host.Outcome State Fault Refusal :=
  .next (s.request id 0x0001 fun i => s.done i stOk)

end Sys2Proof.Machine
end

