-- ==== Sys2Proof/Machine/Keys.lean ====
section
/-!
DEFINITION. Key slots as every path uses them: the reservation of invocations and its outcomes (R449, R451).
-/

namespace Sys2Proof.Machine

def evKeyTamper : BitVec 16 := 0x0700#16
def evKeyExhausted : BitVec 16 := 0x0701#16

def State.key (s : State) (n : Nat) : KeySlot := tblGet KeySlot.reset s.keys n
def State.setKey (s : State) (n : Nat) (k : KeySlot) : State := { s with keys := tblSet KeySlot.reset s.keys n k }

/-- Whether a Peck holds a slot (R322). -/
def slotHeld (s : State) (p n : Nat) : Bool := p != 0 && (s.peck p).keys.testBit n

/-- USE bits (R448). -/
def useWym : Nat := 0
def useVol : Nat := 1
def useCkpt : Nat := 2

/-- Whether a slot would grant n invocations to a path: the status of R449. -/
def keyStatus (k : KeySlot) (n : Nat) (kinds : List Nat) (use : Nat) : Status :=
  if k.state ≠ .loaded ∨ k.erasing then stKeyErased
  else if !kinds.contains k.kind || !k.use.getLsbD use then stRights
  else if k.count + n ≤ k.limit then stOk
  else stKeyExhausted

/-- Reserve n invocations of a slot: the status, the first counter value and the state (R449). The first refusal under LIMIT
raises KEY_EXHAUSTED (R451); the invocations are metered (R343). -/
def keyReserve (s : State) (slot n : Nat) (kinds : List Nat) (use : Nat) : Status × Nat × State :=
  let k := s.key slot
  let st := keyStatus k n kinds use
  if st = stOk then
    let s := (s.setKey slot { k with count := k.count + n }).bump rKeyInvoc n
    (st, k.count, s.updPeck k.peck fun x => { x with meter := { x.meter with crypto := x.meter.crypto + n } })
  else
    let s := s.bump rKeyRefused 1
    if st = stKeyExhausted ∧ !k.warned then
      let s := s.setKey slot { k with warned := true }
      let a0 := BitVec.ofNat 64 slot
      let a1 := BitVec.ofNat 64 k.count
      (st, k.count, (s.mgrEvent sevWarn evKeyExhausted a0 a1).peckEvent k.peck sevWarn evKeyExhausted a0 a1)
    else (st, k.count, s)

end Sys2Proof.Machine
end

