-- ==== Sys2Proof/Machine/WymMsg.lean ====
section
/-!
DEFINITION. The sending side of the Wymoug transport as data: configuration fields (R293, R294), security associations (R264),
ordering scopes (R275, R276), the division of a transfer into messages (R257, R270) and the end of a message (R285).
-/

namespace Sys2Proof.Machine

/-! ## Configuration -/

/-- H in ns (R293). -/
def wymH (s : State) : Nat := bitsOf (s.reg rWymHorizon) 0 7 * 1000000
/-- LIFE in ns. -/
def wymLife (s : State) : Nat := bitsOf (s.reg rWymHorizon) 8 8 * 100000
/-- LINGER in ns. -/
def wymLinger (s : State) : Nat := bitsOf (s.reg rWymHorizon) 16 14 * 1000
/-- TRKIDLE in ns. -/
def wymIdle (s : State) : Nat := bitsOf (s.reg rWymHorizon) 32 10 * 100000
/-- PSIZE in bytes. -/
def wymPsize (s : State) : Nat := 1024 * 2 ^ bitsOf (s.reg rWymCfg) 16 2

def State.inst (s : State) (i : Nat) : Inst := tblGet Inst.reset s.insts i
def State.setInst (s : State) (i : Nat) (x : Inst) : State := { s with insts := tblSet Inst.reset s.insts i x }
def State.port (s : State) (p : Nat) : Port := tblGet Port.reset s.ports p
def State.setPort (s : State) (p : Nat) (x : Port) : State := { s with ports := tblSet Port.reset s.ports p x }
def State.ep (s : State) (n : Nat) : Endpoint := tblGet Endpoint.reset s.eps n
def State.setEp (s : State) (n : Nat) (x : Endpoint) : State := { s with eps := tblSet Endpoint.reset s.eps n x }
def State.arm (s : State) (i : Nat) : Option Arm := (s.arms.find? fun e => e.1 == i).map (·.2)
def State.setArm (s : State) (i : Nat) (a : Arm) : State := { s with arms := tblInsert (tblErase s.arms i) i a }
def State.disarm (s : State) (i : Nat) : State := { s with arms := tblErase s.arms i }

/-- A port carries frames: enabled and its link UP. -/
def portUp (s : State) (p : Nat) : Bool := (s.port p).link == 2 && bitsOf (s.reg (rWymPort p)) 0 1 == 1
/-- An instance has a port that is up. -/
def instUp (s : State) (i : Nat) : Bool := (List.range 4).any fun k => portUp s (4 * i + k)
/-- The hold of R290 is in progress on an instance. -/
def instHeld (s : State) (i : Nat) : Bool := match (s.inst i).hold with
  | some t => decide (t ≠ 0)
  | none => false
/-- WYM_STAT.HOLD (R290). -/
def wymHold (s : State) : Bool := (List.range 4).any (instHeld s)
/-- When the last hold in progress ends. -/
def wymHoldEnd (s : State) : Nat := (List.range 4).foldl (fun a i => max a (((s.inst i).hold).getD 0)) 0

/-- MAC rate of a port in bits per second (R251). -/
def macRate (s : State) (p : Nat) : Nat := 800000000000 / 2 ^ (s.port p).mode

/-- The device's base fabric address, byte 0 lowest (R546). -/
def fabricBase (s : State) : BitVec 128 := BitVec.ofNat 128 ((s.reg (rFabric 0)).toNat + (s.reg (rFabric 1)).toNat * 2 ^ 64)
/-- The address of instance j: j is added to the base address's last byte (R255). -/
def instAddr (base : BitVec 128) (j : Nat) : BitVec 128 := base + BitVec.ofNat 128 (j * 2 ^ 120)
/-- The instance an address names under its base, and the base. -/
def addrBase (a : BitVec 128) : BitVec 128 := a - BitVec.ofNat 128 (a.toNat / 2 ^ 120 % 4 * 2 ^ 120)

/-! ## Security associations (R264, R294) -/

def saValid (s : State) (n : Nat) : Bool := bitsOf (s.reg (rSaKey n)) 13 1 == 1
def saPeck (s : State) (n : Nat) : Nat := bitsOf (s.reg (rSaKey n)) 16 8
def saSlot (s : State) (n : Nat) : Nat := bitsOf (s.reg (rSaKey n)) 0 12
def saEnc (s : State) (n : Nat) : Bool := bitsOf (s.reg (rSaKey n)) 12 1 == 1
def saSpi (s : State) (n : Nat) : Nat := bitsOf (s.reg (rSaId n)) 0 32
def saSid (s : State) (n : Nat) : Nat := bitsOf (s.reg (rSaId n)) 32 32

/-- The valid SA that holds an SPI. -/
def saBySpi (s : State) (spi : Nat) : Option Nat := (List.range 1024).find? fun n => saValid s n && saSpi s n == spi

/-! ## REMOTE regions (R335): fields of BASE as the mint recorded them -/

def remSa (l : Loc) : Nat := bitsOf l.aux 0 10
def remIsEp (l : Loc) : Bool := bitsOf l.aux 12 1 == 1
def remQueue (l : Loc) : Nat := bitsOf l.aux 16 12

/-! ## Outcomes -/

/-- Leave an outcome for the service that waits for it. -/
def State.outcome (s : State) (u : User) (off : Nat) (st : Status) : State :=
  if u = .none then s else { s with outcomes := s.outcomes ++ [(u, off, st)] }

/-- One message of a write has its outcome (R275). -/
def writeDone (s : State) (w : Option Nat) : State :=
  match w with
  | none => s
  | some n => { s with writes := (s.writes.map fun x => if x.num = n then { x with left := x.left - 1 } else x).filter fun x => x.left ≠ 0 }

/-- Remove a message's packets from every scheduler queue. -/
def unqueue (s : State) (key : Nat) : State :=
  s.ports.foldl (fun s (p, _) =>
    let x := s.port p
    let qs := x.qs.map fun (q, y) => (q, { y with ents := y.ents.filter fun e => match e with
      | .msg k _ => k ≠ key
      | .resp _ => true })
    s.setPort p { x with qs := qs }) s

/-- An instance makes progress (R509). -/
def instMoves (s : State) (i n : Nat) : State := s.setInst i { s.inst i with prog := (s.inst i).prog + n }

/-- A message ends with a status: it stops transmitting, and its user gets the outcome (R285). -/
def endMsg (s : State) (m : Msg) (st : Status) : State :=
  let s := unqueue { s with msgs := s.msgs.filter fun x => x.key ≠ m.key } m.key
  (writeDone (instMoves s m.inst 1) m.wr).outcome m.user m.off st

def State.msg (s : State) (key : Nat) : Option Msg := s.msgs.find? fun m => m.key == key
def State.updMsg (s : State) (key : Nat) (f : Msg → Msg) : State :=
  { s with msgs := s.msgs.map fun m => if m.key = key then f m else m }

/-! ## Making messages (R257, R270) -/

/-- Packets of a message of a length. -/
def npktOf (len psize : Nat) : Nat := (len + psize - 1) / psize

/-- The instance that takes the next message of a dealer: the next in turn with a port up (R257). -/
def dealNext (s : State) (dealer : Nat) : Option Nat :=
  let last := tblGet 3 s.deal dealer
  ([1, 2, 3, 4].map fun d => (last + d) % 4).find? fun i => instUp s i

/-- Whether some instance has a port up. -/
def anyUp (s : State) : Bool := (List.range 4).any (instUp s)

/-- Give a message to an instance: queue check, then it waits for pacing (R257, R298). While no instance has a port up it waits for one. -/
def dealMsg (s : State) (dealer : Nat) (base : BitVec 128) (m : Msg) : State :=
  let npkt := if m.kind = .read ∨ m.kind = .atomic then 1 else npktOf m.len m.psize
  let m := { m with key := s.nextKey, dealer := dealer, pkts := (List.range npkt).map fun k => (k, ⟨.ready, 0, 0, false, 0⟩) }
  let s := { s with nextKey := s.nextKey + 1 }
  match dealNext s dealer with
  | none => { s with msgs := s.msgs ++ [{ m with inst := 4, dst := base }] }
  | some i =>
    let m := { m with inst := i, dst := instAddr base i }
    let s := { s with deal := tblSet 3 s.deal dealer i, msgs := s.msgs ++ [m] }
    let q := s.reg (rSchQ i m.queue)
    if bitsOf q 0 1 = 1 ∧ bitsOf q 8 8 = m.peck then s else endMsg s m stSchNoQueue

/-- Deal the messages that waited for a port. -/
def dealWaiting (s : State) : State :=
  (s.msgs.filter fun m => m.inst == 4).foldl (fun s m => dealMsg { s with msgs := s.msgs.filter fun x => x.key ≠ m.key } m.dealer m.dst m) s

/-- A message without its place. -/
def newMsg (kind : MsgKind) (peck : Nat) (l : Loc) (grp : BitVec 16) (roff : Word) (len psize : Nat) (wr : Option Nat)
    (sealed : Bool) (coll : Option (BitVec 32 × Word)) (u : User) (off : Nat) (src : MsgSrc) : Msg :=
  { key := 0, inst := 0, dealer := 0, kind := kind, peck := peck, sa := remSa l, queue := remQueue l, dst := 0, rkey := l.rkey,
    ordgrp := grp, roff := roff, len := len, psize := psize, wr := wr, sealed := sealed, held := sealed, coll := coll, user := u,
    off := off, src := src, begun := false, paths := [], msgid := none, t0 := none, acked := 0, pkts := [] }

/-- The pieces of a run of bytes: at most 128 packets each; offset in the run and length. -/
def msgPieces (psize len : Nat) : List (Nat × Nat) :=
  (List.range (npktOf len (128 * psize))).map fun k => (k * (128 * psize), min (128 * psize) (len - k * (128 * psize)))

/-- Whether a write of a scope that the device accepted before write `n` is still outstanding (R275): it has messages without an
outcome, or it is a copy not yet divided into messages, or a WYM_SEND that has not completed. -/
def earlierWrite (s : State) (n peck : Nat) (grp : BitVec 16) (dst : BitVec 128) : Bool :=
  (s.writes.any fun x => decide (x.num < n) && x.peck == peck && x.grp == grp && x.dst == dst) ||
  (s.engines.any fun e => e.2.peck.toNat == peck && e.2.queues.any fun q => q.2.any fun k =>
    (k.phase == .queued || k.reading) && k.dst.kind == .remote && decide (k.wr < n) && k.ordgrp == grp && k.dst.raddr == dst) ||
  (s.items.any fun i => i.fn == peck && i.typ.toNat == 0x0403 && decide (i.wr < n) &&
    bitsOf (i.w 5) 0 16 == grp.toNat && (i.ref 1).loc.raddr == dst)

/-- Open the ordering scope entry of write `w` of `n` messages (R276). -/
def openWrite (s : State) (w peck : Nat) (grp : BitVec 16) (dst : BitVec 128) (n : Nat) : State :=
  { s with writes := if n = 0 then s.writes else s.writes ++ [⟨w, peck, grp, dst, n⟩] }

/-- WYM_SEAL_RELEASE's condition: no write of the same scope that was accepted earlier is outstanding (R275). -/
def sealFree (s : State) (m : Msg) : Bool :=
  match m.wr with
  | none => true
  | some n => match s.writes.find? fun x => x.num == n with
    | none => true
    | some w => !(earlierWrite s n w.peck w.grp w.dst)

/-! ## Frames for the control class (R288, R297) -/

/-- Put an answer to a packet that arrived at an unstepped time, or a probe, in a port's control class. -/
def ctlPut (s : State) (port : Nat) (p : Pkt) (at_ : Nat) : State :=
  let x := s.port port
  s.setPort port { x with ctl := x.ctl ++ [(p, at_)] }

/-- The VLAN ID that a port's frames carry, if they are tagged (R252, R294). -/
def portVlan (s : State) (port : Nat) : Option (BitVec 12) :=
  let c := s.reg (rWymPort port)
  if bitsOf c 3 1 = 1 then some (BitVec.ofNat 12 (bitsOf c 4 12)) else none

/-- Bytes that an 802.1Q tag adds to a frame. -/
def vlanLen (v : Option (BitVec 12)) : Nat := if v.isSome then 4 else 0

/-- Bytes of an Ethernet frame, FCS included, that carries a packet (R253) with or without an 802.1Q tag. -/
def pktFrame (v : Option (BitVec 12)) (ext : Bool) (payload : Nat) : Nat :=
  14 + vlanLen v + 40 + 8 + 64 + (if ext then 16 else 0) + payload + 16 + 4

/-- The frame length of a packet that a port sends. -/
def frameLen (s : State) (port : Nat) (p : Pkt) : Nat := pktFrame (portVlan s port) p.ext.isSome p.payload.length

/-- The frame length of a packet as it arrived (R313). -/
def rxLen (p : Pkt) : Nat := pktFrame p.vlan p.ext.isSome p.payload.length

/-- Wymoug packet types (R267). -/
def tWrite : Nat := 1
def tSend : Nat := 2
def tReadReq : Nat := 3
def tReadResp : Nat := 4
def tAtomic : Nat := 5
def tAtomicResp : Nat := 6
def tAck : Nat := 7
def tNak : Nat := 8
def tProbe : Nat := 9

/-- An answer to a packet: addresses swapped, PATH and bytes 16 to 23 and 32 to 39 copied (R268). What its transmission decides is
filled in then: DSCP, VLAN, ports, ENC, SID, SENDTS, NONCE, HOLD and the GCM tag. -/
def answer (p : Pkt) (typ : Nat) : Pkt :=
  { p with src := p.dst, dst := p.src, dscp := 0, vlan := none, sport := 0, dport := 0, frame := true, ver := 0x10, typ := BitVec.ofNat 8 typ,
           flags := 0, sid := 0, sendts := 0, nonce := 0, ext := none, payload := [], spec := 0, tag := [] }

/-- A NAK with a status, or with BUSY (R268). -/
def nak (s : State) (port : Nat) (p : Pkt) (busy : Bool) (st : Status) : State :=
  let a := answer p tNak
  let s := ctlPut s port { a with flags := if busy then 0x10 else 0, spec := if busy then 0 else st.setWidth 64 } s.mono
  s.bump (rWymCtr (port / 4) (if busy then 8 else 6)) 1

/-- An ACK with a bitmap; ECHOTS is that of the packet that triggers it, which arrived at the unstepped time `at_`, from which HOLD is taken when
the ACK leaves (R268). -/
def ack (s : State) (port : Nat) (p : Pkt) (bits at_ : Nat) : State :=
  let a := answer p tAck
  ctlPut s port { a with roff := BitVec.ofNat 64 bits, spec := BitVec.ofNat 64 (bits / 2 ^ 64), msglen := p.sendts, pidx := 0, plen := 0 } at_

end Sys2Proof.Machine
end

