-- ==== Sys2Proof/Machine/Place.lean ====
section
/-!
DEFINITION. Bytes that enter or leave device memory outside an instruction: placement under an import tag (R45, R48), what an
untagged destination receives (R49, R435), and the division of host and accelerator requests (R360, R364, R366, R368).
-/

namespace Sys2Proof.Machine

/-- Bytes within one word arrive under an import tag (R45): the Bool says that a CODE word refused them. A part of a word reads
the word first (R52). -/
def placeOne (s : State) (a : Nat) (bs : List Byte) (imp : Tag) : State × Bool :=
  let s := if bs.length = 8 then s else s.settle a 1
  match s.mem.copyIn a bs imp with
  | none => (s, true)
  | some m =>
    if bs.length = 8 then (observeWord { s with mem := m, latent := tblErase s.latent (a / 8) } a, false)
    else ({ s with mem := m }, false)

/-- Bytes arrive at an address (R45, R48); the addresses of the CODE words that refused come with the state. -/
def placeBytes (s : State) (a : Nat) (bs : List Byte) (imp : Tag) : State × List Nat :=
  (splitWords (bs.length + 1) a bs).foldl (fun (s, bad) (b, ws) =>
    let (s, r) := placeOne s b ws imp
    (s, if r then bad ++ [b] else bad)) (s, [])

/-- A word moves into memory with its tag (R44, R45); the Bool says that a CODE word refused it. -/
def placeWord (s : State) (a : Nat) (w : TWord) : State × Bool :=
  match writeWord s a w with
  | none => (s, true)
  | some s => (s, false)

/-- Words move into memory from an address; refusals as in `placeBytes`. -/
def placeWords (s : State) (a : Nat) : List TWord → State × List Nat
  | [] => (s, [])
  | w :: ws =>
    let (s, r) := placeWord s a w
    let (s, bad) := placeWords s (a + 8) ws
    (s, if r then a :: bad else bad)

/-- A word cannot be consumed: POISON or 0xE. -/
def wordPoison (w : TWord) : Bool := w.tag == Tag.poison || w.tag == Tag.rsvd

/-- The bytes of words as an untagged destination receives them: HANDLE and POISON words as zeros (R49, R435). -/
def exportWords (ws : List TWord) : List Byte :=
  ws.flatMap fun w => if w.tag = Tag.handle ∨ wordPoison w then List.replicate 8 0 else bytesOf 8 w.bits.toNat

/-- The words of a range that reach an untagged destination changed: word number in the range and the status it gives. -/
def exportFaults (ws : List TWord) : List (Nat × Status) :=
  (ws.zipIdx.filterMap fun (w, i) =>
    if wordPoison w then some (i, stPoison) else if w.tag = Tag.handle then some (i, stTag) else none)

/-- The words that hold a byte range of device memory, read for errors; they begin at the word that holds the first byte. -/
def readWords (s : State) (a n : Nat) : State × List TWord :=
  let s := s.settle a n
  (s, (List.range ((a + n + 7) / 8 - a / 8)).map fun k => s.mem.word (a / 8 * 8 + 8 * k))

/-- The bytes of a range as an untagged destination receives them, and its faults by word number. -/
def exportRange (s : State) (a n : Nat) : State × List Byte × List (Nat × Status) :=
  let (s, ws) := readWords s a n
  (s, ((exportWords ws).drop (a % 8)).take n, exportFaults ws)

/-! ## Requests to host and accelerator memory -/

/-- A range divided at 4 KiB boundaries of the target and at a size limit (R360): offset in the range and length. -/
def reqChunks (a max : Nat) : Nat → Nat → Nat → List (Nat × Nat)
  | 0, _, _ => []
  | fuel + 1, off, n =>
    if n = 0 then []
    else
      let c := min n (min (if max = 0 then 4096 else max) (4096 - (a + off) % 4096))
      (off, c) :: reqChunks a max fuel (off + c) (n - c)

/-- The virtual hierarchy of a device-global VF of PF0 (R352, R377). -/
def vhOf (s : State) (vf : Nat) : Nat := s.vhOfVf false vf

/-- The lane group that holds the upstream port of a hierarchy. -/
def upGroup (s : State) (vh : Nat) : Nat :=
  ((List.range 16).find? fun g =>
    let c := s.reg (rPortCfg g)
    (List.range 4).any fun k => bitsOf c (4 * k + 8) 2 == 1 && bitsOf c (4 * k + 10) 2 == vh).getD 0

/-- What a request to an accelerator meets: a window of its lane group, and a port not contained (R366, R368). -/
def accelStatus (s : State) (group a n : Nat) : Status :=
  match s.windows.find? fun w => w.1 / 4 == group && decide (w.2.1 ≤ a) && decide (a + n ≤ w.2.2) with
  | none => stRights
  | some w => if pcieLink s w.1 = 3 then stCplTimeout else stOk

/-- Pages of a range. -/
def pagesOf (a n : Nat) : List Nat := (List.range ((a + n - 1) / 4096 - a / 4096 + 1)).map fun k => a / 4096 + k

/-- Translate a host range for a function (R364): with ATS enabled, a page not held is asked for; `deny` holds the pages that the
host's answer denies. The cache holds 32,768 pages, the oldest leaving first. -/
def translate (s : State) (f a n : Nat) (deny : List Nat) : State × Bool :=
  if !(s.fn f).ats then (s, true)
  else (pagesOf a n).foldl (fun (s, ok) pg =>
    if s.ats.contains (f, pg) then (s, ok)
    else
      let s := s.emit (.signal "TRANSLATION" [f, pg])
      if deny.contains pg then (s, false)
      else ({ s with ats := ((f, pg) :: s.ats).take 32768 }, ok)) (s, true)

/-- Non-posted requests that a lane group holds, quarantined tags included (R360, R362). -/
def groupReads (s : State) (g : Nat) : Nat := (s.reads.filter fun r => r.group == g).length

/-- Issue one read request for a user (R360). -/
def issueRead (s : State) (g f : Nat) (host : Bool) (a : Word) (n : Nat) (u : User) (off : Nat) : State :=
  let s := { s with reads := s.reads ++ [(⟨s.nextTag, g, f, a, n, u, off, s.time, none, host⟩ : ReadReq)], nextTag := s.nextTag + 1 }
  s.emit (if host then .hostRead (s.nextTag - 1) f (s.rid f) a n else .accelRead (s.nextTag - 1) (s.rid f) g a n)

/-- The user's outstanding reads lose it: their answers are discarded on arrival, and their tags stay held until then or a timeout (R372,
R514). -/
def dropReads (s : State) (u : User) : State :=
  { s with reads := s.reads.map fun r => if r.user = u then { r with user := .none } else r }

end Sys2Proof.Machine
end

