-- ==== Sys2Proof/Machine/Container.lean ====
section
/-!
DEFINITION. The container of checkpoints and Peck exports (R484 to R489): manifest, header, section table and records as bytes.
-/

namespace Sys2Proof.Machine

/-- Bytes made up to a length with zeros. -/
def padTo (n : Nat) (bs : List Byte) : List Byte := bs ++ zeros (n - bs.length)

/-- Rounded up to a multiple of 4,096. -/
def round4k (n : Nat) : Nat := (n + 4095) / 4096 * 4096

/-- FWVER in force (R508). -/
def fwVer (s : State) : Nat := (s.fw.run.map (·.ver)).getD 0

def devIdNum : Nat := Config.devId.toNat

/-- The unit of a container: 1 MiB (R472). -/
def unitLen : Nat := 0x100000

/-- What a container's parts share. -/
structure CHead where
  kind   : Nat
  gens   : Bool
  gen    : Nat
  devid  : Nat
  cut    : Nat
  peck   : Nat
  keykind : Nat
  nsect  : Nat
  label  : Nat
  user   : Nat
  fwver  : Nat
  epx    : Nat
  epy    : Nat
deriving DecidableEq, Repr

/-- The container header (R486). -/
def containerHead (h : CHead) : List Byte :=
  padTo 256 (bytesOf 4 0x44484B43 ++ bytesOf 2 0x0100 ++ bytesOf 1 h.kind ++ bytesOf 1 h.gens.toNat ++ bytesOf 8 h.gen ++ bytesOf 8 h.devid ++
    bytesOf 8 h.cut ++ bytesOf 1 h.peck ++ bytesOf 1 h.keykind ++ bytesOf 2 h.nsect ++ bytesOf 4 h.label ++ bytesOf 8 h.user ++ bytesOf 4 h.fwver ++
    bytesOf 1 1 ++ zeros 3 ++ bytesOf 48 h.epx ++ bytesOf 48 h.epy)

/-- A section table entry (R487). -/
def sectEntry (x : Sect) : List Byte :=
  bytesOf 4 x.sectid ++ bytesOf 1 x.skind ++ bytesOf 1 (x.tagged.toNat + 2 * x.poison.toNat) ++ bytesOf 1 x.fmt ++ zeros 1 ++ bytesOf 8 x.len ++
  bytesOf 8 x.first ++ bytesOf 4 x.nunits ++ zeros 4 ++ padTo 32 x.extra

/-- Slot bytes 0x1000 to 0x5FFF. -/
def tableBytes (head : List Byte) (sects : List Sect) : List Byte := padTo 0x5000 (head ++ sects.flatMap sectEntry)

/-- PLEN of unit j of a section (R488). -/
def unitPlen (x : Sect) (j : Nat) : Nat := min unitLen (x.len - j * unitLen)
/-- TLEN of a unit: a tag code for every word, two to a byte. -/
def unitTlen (x : Sect) (j : Nat) : Nat := if x.tagged then (unitPlen x j + 15) / 16 else 0
/-- Bytes of a record (R484). -/
def recordLen (plen tlen : Nat) : Nat := round4k (64 + plen + tlen + 16)

/-- Units of a length. -/
def unitsOf (n : Nat) : Nat := (n + unitLen - 1) / unitLen

/-- Place sections one after another from an offset: their FIRSTOFF and image units (R484); the end comes with them. -/
def placeSects : Nat → Nat → List Sect → List Sect × Nat
  | off, _, [] => ([], off)
  | off, u, x :: xs =>
    let x := { x with nunits := unitsOf x.len, first := off, unit0 := u }
    let n := (List.range x.nunits).foldl (fun n j => n + recordLen (unitPlen x j) (unitTlen x j)) 0
    let (r, e) := placeSects (off + n) (u + x.nunits) xs
    (x :: r, e)

/-- The records of a container in order: section index, its entry and unit (R480). -/
def recordList (sects : List Sect) : List (Nat × Sect × Nat) :=
  sects.zipIdx.flatMap fun (x, k) => (List.range x.nunits).map fun j => (k, x, j)

/-- END of a container: the offset one past its last record. -/
def containerEnd (sects : List Sect) : Nat :=
  (recordList sects).foldl (fun n (_, x, j) => n + recordLen (unitPlen x j) (unitTlen x j)) 0x6000

/-- The data bytes of words as a record stores them: HANDLE and POISON words as zeros (R488). -/
def wordData (ws : List TWord) : List Byte :=
  ws.flatMap fun w => if w.tag = Tag.handle ∨ wordPoison w then zeros 8 else bytesOf 8 w.bits.toNat

/-- The tag code of a word in a record (R488). -/
def tagCode (w : TWord) : Nat := if wordPoison w then 0xF else w.tag.toNat

/-- The tag bytes of words (R488). -/
def tagBytes : List TWord → List Byte
  | [] => []
  | [a] => [BitVec.ofNat 8 (tagCode a)]
  | a :: b :: ws => BitVec.ofNat 8 (tagCode a + 16 * tagCode b) :: tagBytes ws

/-- The 96-bit nonce of a container (R480), as the byte string of GCM, most significant byte first. -/
def nonceBytes (hi counter : Nat) : List Nat := beBytes 12 (hi % 2 ^ 32 * 2 ^ 64 + counter % 2 ^ 64)

/-- The header of a record (R488). -/
def recordHead (k unit gen counter plen tlen hi : Nat) : List Byte :=
  padTo 64 (bytesOf 2 0x0100 ++ bytesOf 2 k ++ bytesOf 4 unit ++ bytesOf 8 gen ++ bytesOf 8 counter ++ bytesOf 4 plen ++ bytesOf 4 tlen ++ bytesOf 4 hi)

/-- A record (R488): header, ciphertext of data and tag bytes, GCM tag, zeros. -/
def recordBytes (key : List Byte) (hi counter k unit gen : Nat) (data tags : List Byte) : List Byte :=
  let h := recordHead k unit gen counter data.length tags.length hi
  let (ct, tag) := gcmEnc (toNats key) (nonceBytes hi counter) (toNats h) (toNats (data ++ tags))
  padTo (recordLen data.length tags.length) (h ++ ofNats (ct ++ tag))

/-- What a manifest holds beside the GCM tag and signature (R485). -/
structure Manifest where
  state  : Nat
  flags  : Nat
  gen    : Nat
  devid  : Nat
  stream : Nat
  cut    : Nat
  seal_  : Nat
  end_   : Nat
  nrec   : Nat
  nsect  : Nat
  digest : List Byte
  poison : Nat
  user   : Nat
  label  : Nat
  peck   : Nat
  kind   : Nat
  counter : Nat
deriving DecidableEq, Repr

/-- Bytes 0 to 143 of a manifest. -/
def manifestHead (m : Manifest) : List Byte :=
  bytesOf 4 0x54504B43 ++ bytesOf 2 0x0100 ++ bytesOf 1 m.state ++ bytesOf 1 m.flags ++ bytesOf 8 m.gen ++ bytesOf 8 m.devid ++ bytesOf 8 m.stream ++
  bytesOf 8 m.cut ++ bytesOf 8 m.seal_ ++ bytesOf 8 m.end_ ++ bytesOf 4 m.nrec ++ bytesOf 4 m.nsect ++ padTo 48 m.digest ++ bytesOf 8 m.poison ++
  bytesOf 8 m.user ++ bytesOf 4 m.label ++ bytesOf 1 m.peck ++ bytesOf 1 m.kind ++ zeros 2 ++ bytesOf 8 m.counter

/-- A manifest as one block, sealed under a key and signed by SIGN (R485). -/
def sealedManifest (s : State) (key : List Byte) (hi : Nat) (m : Manifest) : State × List Byte :=
  let h := manifestHead m
  let tag := (gcmEnc (toNats key) (nonceBytes hi m.counter) (toNats h) []).2
  let body := padTo 256 (h ++ ofNats tag)
  let (s, sig) := ecdsaSign s body
  (s, padTo 4096 (body ++ sig))

/-- Whether a slot's first bytes are a sealed manifest by their fields (R479). -/
def manifestSealed (bs : List Byte) : Bool := recNum bs 0 4 == 0x54504B43 && recNum bs 5 1 == 1 && recNum bs 6 1 == 1

/-- NONCEHI of a container (R480, R492). -/
def manifestHi (bs : List Byte) : Nat := if recNum bs 7 1 / 4 % 2 = 1 then 0xFFFFFFFF else recNum bs 24 4

/-- Whether GCMTAG verifies under a key (R485). -/
def manifestTagOk (key bs : List Byte) : Bool :=
  (gcmEnc (toNats key) (nonceBytes (manifestHi bs) (recNum bs 136 8)) (toNats (bs.take 144)) []).2 == toNats ((bs.drop 144).take 16)

/-- A section as a table entry spells it (R487). -/
def readSect (bs : List Byte) : Sect :=
  { sectid := recNum bs 0 4, skind := recNum bs 4 1, fmt := recNum bs 6 1, len := recNum bs 8 8, first := recNum bs 16 8, nunits := recNum bs 24 4,
    tagged := recNum bs 5 1 % 2 == 1, poison := recNum bs 5 1 / 2 % 2 == 1, extra := (bs.drop 32).take 32, unit0 := 0 }

end Sys2Proof.Machine
end

