-- ==== Sys2Proof/Machine/Scalar.lean ====
section
/-!
DEFINITION. Scalar integer and logic instructions (R111 to R114), branches and flags (R115, R116), and the system
instructions (R154, R103 to R105).
-/

namespace Sys2Proof.Machine

/-! ## Shared forms -/

/-- Sd = f(Sa, Sb) with its flags; both sources INT64, the result INT64 (R107, R111). -/
def alu3 (f : Word → Word → AluRes) (c : CtxId) (d a b : SReg) (s : State) : IRes :=
  useInt s c a.val fun x => useInt s c b.val fun y =>
    let r := f x y
    .ok (s.updCtx c fun X => (X.setS d.val (TWord.int r.val)).setAlu r) .seq

/-- Sd = f(Sa, immediate) (R111). -/
def aluI (f : Word → Word → AluRes) (c : CtxId) (d a : SReg) (imm : Word) (s : State) : IRes :=
  useInt s c a.val fun x =>
    let r := f x imm
    .ok (s.updCtx c fun X => (X.setS d.val (TWord.int r.val)).setAlu r) .seq

/-- Flags of f(Sa, Sb), the result not written (R111). -/
def aluCmp (f : Word → Word → AluRes) (c : CtxId) (a b : SReg) (s : State) : IRes :=
  useInt s c a.val fun x => useInt s c b.val fun y => .ok (s.updCtx c fun X => X.setAlu (f x y)) .seq

/-- Flags of f(Sa, immediate), the result not written (R111). -/
def aluCmpI (f : Word → Word → AluRes) (c : CtxId) (a : SReg) (imm : Word) (s : State) : IRes :=
  useInt s c a.val fun x => .ok (s.updCtx c fun X => X.setAlu (f x imm)) .seq

/-- Sd = f(Sa) with its flags (R111). -/
def alu2 (f : Word → AluRes) (c : CtxId) (d a : SReg) (s : State) : IRes :=
  useInt s c a.val fun x =>
    let r := f x
    .ok (s.updCtx c fun X => (X.setS d.val (TWord.int r.val)).setAlu r) .seq

/-- The next offset after an instruction of length `len` (R115). -/
def nextPc (s : State) (c : CtxId) (len : Nat) : Word := (s.ctx c).pc + BitVec.ofNat 64 len

/-- The target of a relative displacement (R115). -/
def relTarget (s : State) (c : CtxId) (len : Nat) (disp : BitVec 32) : Word := nextPc s c len + disp.signExtend 64

/-- Store the link register S30 (R95, R115). -/
def setLink (s : State) (c : CtxId) (len : Nat) : State := s.putS c 30 (TWord.int (nextPc s c len))

/-! ## Moves and arithmetic -/

/-- nop: no effect but the PC (R90). -/
def execNop (c : CtxId) (s : State) : Host.Outcome State Fault Refusal :=
  issue c (insn 0x00 [] 0) (fun s _ => .ok s .seq) s

/-- mov: copies Sa with its tag, whatever it is (R108, R111). -/
def execMov (c : CtxId) (d a : SReg) (s : State) : Host.Outcome State Fault Refusal :=
  issue c (insn 0x01 [d.val, a.val] 0) (fun s _ => .ok (s.putS c d.val ((s.ctx c).sreg a.val)) .seq) s

/-- movi: the sign-extended immediate, tag INT64 (R80, R111). -/
def execMovi (c : CtxId) (d : SReg) (imm : BitVec 32) (s : State) : Host.Outcome State Fault Refusal :=
  issue c (insn 0x02 [d.val] imm.toNat) (fun s _ => .ok (s.putS c d.val (TWord.int (imm.signExtend 64))) .seq) s

/-- movi64: the immediate as it stands, tag INT64 (R80, R111). -/
def execMovi64 (c : CtxId) (d : SReg) (imm : Word) (s : State) : Host.Outcome State Fault Refusal :=
  issue c (insn 0x03 [d.val] imm.toNat) (fun s _ => .ok (s.putS c d.val (TWord.int imm)) .seq) s

/-- add Sd, Sa, Sb (R111). -/
def execAdd (c : CtxId) (d a b : SReg) (s : State) : Host.Outcome State Fault Refusal :=
  issue c (insn 0x4 [d.val, a.val, b.val] 0) (fun s _ => alu3 aluAdd c d a b s) s

/-- sub Sd, Sa, Sb (R111). -/
def execSub (c : CtxId) (d a b : SReg) (s : State) : Host.Outcome State Fault Refusal :=
  issue c (insn 0x5 [d.val, a.val, b.val] 0) (fun s _ => alu3 aluSub c d a b s) s

/-- mul Sd, Sa, Sb (R111). -/
def execMul (c : CtxId) (d a b : SReg) (s : State) : Host.Outcome State Fault Refusal :=
  issue c (insn 0x6 [d.val, a.val, b.val] 0) (fun s _ => alu3 aluMul c d a b s) s

/-- mulh Sd, Sa, Sb (R111). -/
def execMulh (c : CtxId) (d a b : SReg) (s : State) : Host.Outcome State Fault Refusal :=
  issue c (insn 0x7 [d.val, a.val, b.val] 0) (fun s _ => alu3 aluMulh c d a b s) s

/-- mulhu Sd, Sa, Sb (R111). -/
def execMulhu (c : CtxId) (d a b : SReg) (s : State) : Host.Outcome State Fault Refusal :=
  issue c (insn 0x8 [d.val, a.val, b.val] 0) (fun s _ => alu3 aluMulhu c d a b s) s

/-- div Sd, Sa, Sb (R112). -/
def execDiv (c : CtxId) (d a b : SReg) (s : State) : Host.Outcome State Fault Refusal :=
  issue c (insn 0x9 [d.val, a.val, b.val] 0) (fun s _ => alu3 aluDiv c d a b s) s

/-- divu Sd, Sa, Sb (R112). -/
def execDivu (c : CtxId) (d a b : SReg) (s : State) : Host.Outcome State Fault Refusal :=
  issue c (insn 0xa [d.val, a.val, b.val] 0) (fun s _ => alu3 aluDivu c d a b s) s

/-- rem Sd, Sa, Sb (R112). -/
def execRem (c : CtxId) (d a b : SReg) (s : State) : Host.Outcome State Fault Refusal :=
  issue c (insn 0xb [d.val, a.val, b.val] 0) (fun s _ => alu3 aluRem c d a b s) s

/-- remu Sd, Sa, Sb (R112). -/
def execRemu (c : CtxId) (d a b : SReg) (s : State) : Host.Outcome State Fault Refusal :=
  issue c (insn 0xc [d.val, a.val, b.val] 0) (fun s _ => alu3 aluRemu c d a b s) s

/-- and Sd, Sa, Sb (R111). -/
def execAnd (c : CtxId) (d a b : SReg) (s : State) : Host.Outcome State Fault Refusal :=
  issue c (insn 0xd [d.val, a.val, b.val] 0) (fun s _ => alu3 aluAnd c d a b s) s

/-- or Sd, Sa, Sb (R111). -/
def execOr (c : CtxId) (d a b : SReg) (s : State) : Host.Outcome State Fault Refusal :=
  issue c (insn 0xe [d.val, a.val, b.val] 0) (fun s _ => alu3 aluOr c d a b s) s

/-- xor Sd, Sa, Sb (R111). -/
def execXor (c : CtxId) (d a b : SReg) (s : State) : Host.Outcome State Fault Refusal :=
  issue c (insn 0xf [d.val, a.val, b.val] 0) (fun s _ => alu3 aluXor c d a b s) s

/-- shl Sd, Sa, Sb (R113). -/
def execShl (c : CtxId) (d a b : SReg) (s : State) : Host.Outcome State Fault Refusal :=
  issue c (insn 0x10 [d.val, a.val, b.val] 0) (fun s _ => alu3 aluShl c d a b s) s

/-- shr Sd, Sa, Sb (R113). -/
def execShr (c : CtxId) (d a b : SReg) (s : State) : Host.Outcome State Fault Refusal :=
  issue c (insn 0x11 [d.val, a.val, b.val] 0) (fun s _ => alu3 aluShr c d a b s) s

/-- sar Sd, Sa, Sb (R113). -/
def execSar (c : CtxId) (d a b : SReg) (s : State) : Host.Outcome State Fault Refusal :=
  issue c (insn 0x12 [d.val, a.val, b.val] 0) (fun s _ => alu3 aluSar c d a b s) s

/-- rol Sd, Sa, Sb (R113). -/
def execRol (c : CtxId) (d a b : SReg) (s : State) : Host.Outcome State Fault Refusal :=
  issue c (insn 0x13 [d.val, a.val, b.val] 0) (fun s _ => alu3 aluRol c d a b s) s

/-- min Sd, Sa, Sb (R111). -/
def execMin (c : CtxId) (d a b : SReg) (s : State) : Host.Outcome State Fault Refusal :=
  issue c (insn 0x14 [d.val, a.val, b.val] 0) (fun s _ => alu3 aluMin c d a b s) s

/-- max Sd, Sa, Sb (R111). -/
def execMax (c : CtxId) (d a b : SReg) (s : State) : Host.Outcome State Fault Refusal :=
  issue c (insn 0x15 [d.val, a.val, b.val] 0) (fun s _ => alu3 aluMax c d a b s) s

/-- minu Sd, Sa, Sb (R111). -/
def execMinu (c : CtxId) (d a b : SReg) (s : State) : Host.Outcome State Fault Refusal :=
  issue c (insn 0x16 [d.val, a.val, b.val] 0) (fun s _ => alu3 aluMinu c d a b s) s

/-- maxu Sd, Sa, Sb (R111). -/
def execMaxu (c : CtxId) (d a b : SReg) (s : State) : Host.Outcome State Fault Refusal :=
  issue c (insn 0x17 [d.val, a.val, b.val] 0) (fun s _ => alu3 aluMaxu c d a b s) s

/-- cmp: flags of Sa − Sb (R111). -/
def execCmp (c : CtxId) (a b : SReg) (s : State) : Host.Outcome State Fault Refusal :=
  issue c (insn 0x18 [a.val, b.val] 0) (fun s _ => aluCmp aluSub c a b s) s

/-- tst: flags of Sa AND Sb (R111). -/
def execTst (c : CtxId) (a b : SReg) (s : State) : Host.Outcome State Fault Refusal :=
  issue c (insn 0x19 [a.val, b.val] 0) (fun s _ => aluCmp aluAnd c a b s) s

/-- neg: 0 − Sa (R111). -/
def execNeg (c : CtxId) (d a : SReg) (s : State) : Host.Outcome State Fault Refusal :=
  issue c (insn 0x1A [d.val, a.val] 0) (fun s _ => alu2 (fun x => aluSub 0 x) c d a s) s

/-- not: bitwise complement (R111). -/
def execNot (c : CtxId) (d a : SReg) (s : State) : Host.Outcome State Fault Refusal :=
  issue c (insn 0x1B [d.val, a.val] 0) (fun s _ => alu2 (fun x => aluOne (~~~x)) c d a s) s

/-- clz: leading zero bits, 64 for zero (R111). -/
def execClz (c : CtxId) (d a : SReg) (s : State) : Host.Outcome State Fault Refusal :=
  issue c (insn 0x1C [d.val, a.val] 0) (fun s _ => alu2 (fun x => aluOne (BitVec.ofNat 64 (countLeading x))) c d a s) s

/-- ctz: trailing zero bits, 64 for zero (R111). -/
def execCtz (c : CtxId) (d a : SReg) (s : State) : Host.Outcome State Fault Refusal :=
  issue c (insn 0x1D [d.val, a.val] 0) (fun s _ => alu2 (fun x => aluOne (BitVec.ofNat 64 (countTrailing 64 x.toNat))) c d a s) s

/-- popc: one bits (R111). -/
def execPopc (c : CtxId) (d a : SReg) (s : State) : Host.Outcome State Fault Refusal :=
  issue c (insn 0x1E [d.val, a.val] 0) (fun s _ => alu2 (fun x => aluOne (BitVec.ofNat 64 (weight 64 x.toNat))) c d a s) s

/-- bswap: byte order reversed (R111). -/
def execBswap (c : CtxId) (d a : SReg) (s : State) : Host.Outcome State Fault Refusal :=
  issue c (insn 0x1F [d.val, a.val] 0) (fun s _ => alu2 (fun x => aluOne (byteSwap x)) c d a s) s

/-- addi: the sign-extended immediate as Sb (R111). -/
def execAddi (c : CtxId) (d a : SReg) (imm : BitVec 32) (s : State) : Host.Outcome State Fault Refusal :=
  issue c (insn 0x20 [d.val, a.val] imm.toNat) (fun s _ => aluI aluAdd c d a (imm.signExtend 64) s) s

/-- muli: the sign-extended immediate as Sb (R111). -/
def execMuli (c : CtxId) (d a : SReg) (imm : BitVec 32) (s : State) : Host.Outcome State Fault Refusal :=
  issue c (insn 0x21 [d.val, a.val] imm.toNat) (fun s _ => aluI aluMul c d a (imm.signExtend 64) s) s

/-- andi: the sign-extended immediate as Sb (R111). -/
def execAndi (c : CtxId) (d a : SReg) (imm : BitVec 32) (s : State) : Host.Outcome State Fault Refusal :=
  issue c (insn 0x22 [d.val, a.val] imm.toNat) (fun s _ => aluI aluAnd c d a (imm.signExtend 64) s) s

/-- ori: the sign-extended immediate as Sb (R111). -/
def execOri (c : CtxId) (d a : SReg) (imm : BitVec 32) (s : State) : Host.Outcome State Fault Refusal :=
  issue c (insn 0x23 [d.val, a.val] imm.toNat) (fun s _ => aluI aluOr c d a (imm.signExtend 64) s) s

/-- xori: the sign-extended immediate as Sb (R111). -/
def execXori (c : CtxId) (d a : SReg) (imm : BitVec 32) (s : State) : Host.Outcome State Fault Refusal :=
  issue c (insn 0x24 [d.val, a.val] imm.toNat) (fun s _ => aluI aluXor c d a (imm.signExtend 64) s) s

/-- shli: bits [5:0] of the immediate as the count (R110, R113). -/
def execShli (c : CtxId) (d a : SReg) (n : BitVec 6) (s : State) : Host.Outcome State Fault Refusal :=
  issue c (insn 0x25 [d.val, a.val] n.toNat) (fun s _ => aluI aluShl c d a (n.setWidth 64) s) s

/-- shri: bits [5:0] of the immediate as the count (R110, R113). -/
def execShri (c : CtxId) (d a : SReg) (n : BitVec 6) (s : State) : Host.Outcome State Fault Refusal :=
  issue c (insn 0x26 [d.val, a.val] n.toNat) (fun s _ => aluI aluShr c d a (n.setWidth 64) s) s

/-- sari: bits [5:0] of the immediate as the count (R110, R113). -/
def execSari (c : CtxId) (d a : SReg) (n : BitVec 6) (s : State) : Host.Outcome State Fault Refusal :=
  issue c (insn 0x27 [d.val, a.val] n.toNat) (fun s _ => aluI aluSar c d a (n.setWidth 64) s) s

/-- roli: bits [5:0] of the immediate as the count (R110, R113). -/
def execRoli (c : CtxId) (d a : SReg) (n : BitVec 6) (s : State) : Host.Outcome State Fault Refusal :=
  issue c (insn 0x28 [d.val, a.val] n.toNat) (fun s _ => aluI aluRol c d a (n.setWidth 64) s) s

/-- cmpi: flags of Sa − immediate (R111). -/
def execCmpi (c : CtxId) (a : SReg) (imm : BitVec 32) (s : State) : Host.Outcome State Fault Refusal :=
  issue c (insn 0x29 [a.val] imm.toNat) (fun s _ => aluCmpI aluSub c a (imm.signExtend 64) s) s

/-- tsti: flags of Sa AND immediate (R111). -/
def execTsti (c : CtxId) (a : SReg) (imm : BitVec 32) (s : State) : Host.Outcome State Fault Refusal :=
  issue c (insn 0x2A [a.val] imm.toNat) (fun s _ => aluCmpI aluAnd c a (imm.signExtend 64) s) s

/-- sxt.b: the low 8 bits extended (R111). -/
def execSxtB (c : CtxId) (d a : SReg) (s : State) : Host.Outcome State Fault Refusal :=
  issue c (insn 0x30 [d.val, a.val] 0) (fun s _ => alu2 (fun x => aluOne (signExt 8 x)) c d a s) s

/-- sxt.h: the low 16 bits extended (R111). -/
def execSxtH (c : CtxId) (d a : SReg) (s : State) : Host.Outcome State Fault Refusal :=
  issue c (insn 0x31 [d.val, a.val] 0) (fun s _ => alu2 (fun x => aluOne (signExt 16 x)) c d a s) s

/-- sxt.w: the low 32 bits extended (R111). -/
def execSxtW (c : CtxId) (d a : SReg) (s : State) : Host.Outcome State Fault Refusal :=
  issue c (insn 0x32 [d.val, a.val] 0) (fun s _ => alu2 (fun x => aluOne (signExt 32 x)) c d a s) s

/-- zxt.b: the low 8 bits extended (R111). -/
def execZxtB (c : CtxId) (d a : SReg) (s : State) : Host.Outcome State Fault Refusal :=
  issue c (insn 0x33 [d.val, a.val] 0) (fun s _ => alu2 (fun x => aluOne (zeroExt 8 x)) c d a s) s

/-- zxt.h: the low 16 bits extended (R111). -/
def execZxtH (c : CtxId) (d a : SReg) (s : State) : Host.Outcome State Fault Refusal :=
  issue c (insn 0x34 [d.val, a.val] 0) (fun s _ => alu2 (fun x => aluOne (zeroExt 16 x)) c d a s) s

/-- zxt.w: the low 32 bits extended (R111). -/
def execZxtW (c : CtxId) (d a : SReg) (s : State) : Host.Outcome State Fault Refusal :=
  issue c (insn 0x35 [d.val, a.val] 0) (fun s _ => alu2 (fun x => aluOne (zeroExt 32 x)) c d a s) s

/-- retag: the data bits of Sa with tag t; both tags must be NIL or a data tag (R51, R114). -/
def execRetag (c : CtxId) (d a : SReg) (t : Tag) (s : State) : Host.Outcome State Fault Refusal :=
  issue c (insn 0x36 [d.val, a.val] t.toNat) (fun s _ => 
    let w := (s.ctx c).sreg a.val
    if tagIsData w.tag && tagIsData t then .ok (s.putS c d.val ⟨w.bits, t⟩) .seq else .fault stTag s) s

/-- tagof: the tag code of Sa, which is not consumed (R108, R114). -/
def execTagof (c : CtxId) (d a : SReg) (s : State) : Host.Outcome State Fault Refusal :=
  issue c (insn 0x37 [d.val, a.val] 0) (fun s _ => .ok (s.putS c d.val (TWord.int (((s.ctx c).sreg a.val).tag.setWidth 64))) .seq) s

/-! ## Branches and flags (R115) -/

/-- b.cc: branch if condition k holds (R83, R115). -/
def execBCc (c : CtxId) (k : BitVec 4) (disp : BitVec 32) (s : State) : Host.Outcome State Fault Refusal :=
  issue c (insn (0x40 + k.toNat) [] disp.toNat) (fun s _ => 
    if (s.ctx c).cond k then .ok s (.jump (relTarget s c 5 disp)) else .ok s .seq) s

/-- call: the next offset to S30, then branch (R115). -/
def execCall (c : CtxId) (disp : BitVec 32) (s : State) : Host.Outcome State Fault Refusal :=
  issue c (insn 0x50 [] disp.toNat) (fun s _ => .ok (setLink s c 5) (.jump (relTarget s c 5 disp))) s

/-- jr: PC = Sa (R115). -/
def execJr (c : CtxId) (a : SReg) (s : State) : Host.Outcome State Fault Refusal :=
  issue c (insn 0x51 [a.val] 0) (fun s _ => useInt s c a.val fun x => .ok s (.jump x)) s

/-- callr: the next offset to S30, PC = the value Sa held before (R115). -/
def execCallr (c : CtxId) (a : SReg) (s : State) : Host.Outcome State Fault Refusal :=
  issue c (insn 0x52 [a.val] 0) (fun s _ => useInt s c a.val fun x => .ok (setLink s c 2) (.jump x)) s

/-- ret: PC = S30 (R115). -/
def execRet (c : CtxId) (s : State) : Host.Outcome State Fault Refusal :=
  issue c (insn 0x53 [] 0) (fun s _ => useInt s c 30 fun x => .ok s (.jump x)) s

/-- dbnz: Sa = Sa − 1, branch while nonzero (R115). -/
def execDbnz (c : CtxId) (a : SReg) (disp : BitVec 32) (s : State) : Host.Outcome State Fault Refusal :=
  issue c (insn 0x54 [a.val] disp.toNat) (fun s _ => useInt s c a.val fun x =>
    let s' := s.putS c a.val (TWord.int (x - 1))
    if x - 1 = 0 then .ok s' .seq else .ok s' (.jump (relTarget s c 6 disp))) s

/-- setcc: 1 if condition k holds, else 0 (R115). DESIGN CHOICE (log 6): tagged INT64. -/
def execSetcc (c : CtxId) (d : SReg) (k : BitVec 4) (s : State) : Host.Outcome State Fault Refusal :=
  issue c (insn 0x55 [d.val, k.toNat] 0) (fun s _ => .ok (s.putS c d.val (TWord.int (if (s.ctx c).cond k then 1 else 0))) .seq) s

/-- csel: Sa if condition k holds, else Sb, with its tag (R108, R115). -/
def execCsel (c : CtxId) (d a b : SReg) (k : BitVec 4) (s : State) : Host.Outcome State Fault Refusal :=
  issue c (insn 0x56 [d.val, a.val, b.val, k.toNat] 0) (fun s _ => .ok (s.putS c d.val ((s.ctx c).sreg (if (s.ctx c).cond k then a.val else b.val))) .seq) s

/-- rdflg: Sd = FLG (R115). DESIGN CHOICE (log 6): tagged INT64. -/
def execRdflg (c : CtxId) (d : SReg) (s : State) : Host.Outcome State Fault Refusal :=
  issue c (insn 0x57 [d.val] 0) (fun s _ => .ok (s.putS c d.val (TWord.int (s.ctx c).flg)) .seq) s

/-- wrflg: FLG[7:0] = Sa[7:0] (R115). -/
def execWrflg (c : CtxId) (a : SReg) (s : State) : Host.Outcome State Fault Refusal :=
  issue c (insn 0x58 [a.val] 0) (fun s _ => useInt s c a.val fun x => .ok (s.updCtx c fun X => { X with flg := (X.flg &&& ~~~0xFF#64) ||| (x &&& 0xFF#64) }) .seq) s

/-- clrflg: FLG[7:0] = FLG[7:0] AND NOT imm (R115). -/
def execClrflg (c : CtxId) (m : BitVec 8) (s : State) : Host.Outcome State Fault Refusal :=
  issue c (insn 0x59 [] m.toNat) (fun s _ => .ok (s.updCtx c fun X => { X with flg := X.flg &&& ~~~(m.setWidth 64) }) .seq) s

/-! ## System instructions (R103 to R105, R154) -/

/-- Engine clock cycles since the context started (R104). -/
def sysCycles (s : State) (x : Ctx) : Word := BitVec.ofNat 64 ((s.qcycles - x.cyc0) / 4)

/-- The value of a system register; none for a reserved number (R104). -/
def sysRead (s : State) (c : CtxId) (n : Nat) : Option Word :=
  let x := s.ctx c
  match n with
  | 0 => some 0x0100
  | 1 => some (BitVec.ofNat 64 (1 + x.isa.toNat * 16))
  | 2 => some (BitVec.ofNat 64 (c.eng.val + c.eng.val / 16 * 2 ^ 8 + s.secondary.toNat * 2 ^ 16))
  | 3 => some (BitVec.ofNat 64 s.time)
  | 4 => some (sysCycles s x)
  | _ => none

/-- sysr: a system register, tag INT64; a reserved number raises ST_UNDEFINED_OPCODE (R104). -/
def execSysr (c : CtxId) (d : SReg) (n : BitVec 16) (s : State) : Host.Outcome State Fault Refusal :=
  issue c (insn 0xD0 [d.val] n.toNat) (fun s _ => 
    match sysRead s c n.toNat with
    | none => .fault stUndef s
    | some w => .ok (s.putS c d.val (TWord.int w)) .seq) s

/-- sysw: only SYS_ISALEVEL is writable; CUR may be lowered to a level of at least 1, which clears Z, and any other value sets
Z (R104, R105). -/
def execSysw (c : CtxId) (a : SReg) (n : BitVec 16) (s : State) : Host.Outcome State Fault Refusal :=
  issue c (insn 0xD1 [a.val] n.toNat) (fun s _ => 
    if n ≠ 1 then .fault stUndef s
    else useInt s c a.val fun x =>
      let cur := bitsOf x 4 4
      if 1 ≤ cur ∧ cur ≤ (s.ctx c).isa.toNat then
        .ok (s.updCtx c fun X => { X.setFlag flagZ false with isa := BitVec.ofNat 4 cur }) .seq
      else .ok (s.updCtx c fun X => X.setFlag flagZ true) .seq) s

/-- yield: lets other ready contexts issue first; no state changes but the PC (R154, R156). -/
def execYield (c : CtxId) (s : State) : Host.Outcome State Fault Refusal :=
  issue c (insn 0xD2 [] 0) (fun s _ => .ok s .seq) s

/-- rdcst: CST, with STATE read as RUNNING, tag INT64 (R100, R154). -/
def execRdcst (c : CtxId) (d : SReg) (s : State) : Host.Outcome State Fault Refusal :=
  issue c (insn 0xD4 [d.val] 0) (fun s _ => .ok (s.putS c d.val (TWord.int (cstOf c.slot.val (s.ctx c) .running))) .seq) s

/-- halt: the context stops in HALTED and its work item carries Sa; a HANDLE or CODE word may not leave (R154). -/
def execHalt (c : CtxId) (a : SReg) (s : State) : Host.Outcome State Fault Refusal :=
  issue c (insn 0xD3 [a.val] 0) (fun s _ => useS s c a.val (fun t => t != Tag.handle && t != Tag.code) fun w =>
    .ok (s.updCtx c fun X => { X with state := .halted, wait := .none, result := w.bits }) .stop) s

/-- rng.rd: SRKEY, SRSTREAM or SRSTEP by selector (R103). DESIGN CHOICE (log 6): tagged INT64. -/
def execRngRd (c : CtxId) (d : SReg) (n : BitVec 8) (s : State) : Host.Outcome State Fault Refusal :=
  issue c (insn 0xDF40 [d.val] n.toNat) (fun s _ => 
    let x := s.ctx c
    match n.toNat with
    | 0 => .ok (s.putS c d.val (TWord.int x.srkey)) .seq
    | 1 => .ok (s.putS c d.val (TWord.int (x.srstream.setWidth 64))) .seq
    | 2 => .ok (s.putS c d.val (TWord.int x.srstep)) .seq
    | _ => .fault stUndef s) s

/-- rng.wr: writes SRKEY, the low half to SRSTREAM, or SRSTEP (R103). -/
def execRngWr (c : CtxId) (a : SReg) (n : BitVec 8) (s : State) : Host.Outcome State Fault Refusal :=
  issue c (insn 0xDF41 [a.val] n.toNat) (fun s _ => 
    if n.toNat > 2 then .fault stUndef s
    else useInt s c a.val fun w =>
      .ok (s.updCtx c fun X => match n.toNat with
        | 0 => { X with srkey := w }
        | 1 => { X with srstream := w.setWidth 32 }
        | _ => { X with srstep := w }) .seq) s

/-- rng.step: SRSTEP + 1 modulo 2^64 (R103). -/
def execRngStep (c : CtxId) (s : State) : Host.Outcome State Fault Refusal :=
  issue c (insn 0xDF42 [] 0) (fun s _ => .ok (s.updCtx c fun X => { X with srstep := X.srstep + 1 }) .seq) s

/-! ## Commands for a context whose code does not decode -/

/-- RESERVED_ENCODING: the bytes at the context's PC hold a reserved encoding, and the context takes ST_UNDEFINED_OPCODE
(R93, R106). No effect where they decode, or where a fetch fails first. -/
def execReservedEncoding (c : CtxId) (s : State) : Host.Outcome State Fault Refusal :=
  if canIssue s c = false then .next s
  else match decodeAt s c with
    | .error st => if st = stUndef then .next (s.faultCtx c st 0) else .next s
    | .ok _ => .next s

/-- FETCH_FAULT: the fetch at the context's PC fails, and the context takes the fetch's fault with PC at the target (R94,
R116). No effect where the instruction can be fetched. -/
def execFetchFault (c : CtxId) (s : State) : Host.Outcome State Fault Refusal :=
  if canIssue s c = false then .next s
  else match decodeAt s c with
    | .error st => if st = stUndef then .next s
                   else .next ((if st = stPoison then settleFetch s c 16 else s).faultCtx c st 0)
    | .ok _ => .next s

end Sys2Proof.Machine
end

