-- ==== Sys2Proof/Machine/MemAccess.lean ====
section
/-!
DEFINITION. Memory access (R117 to R124) and handle registers (R125 to R128).
-/

namespace Sys2Proof.Machine

/-! ## Scalar loads and stores (R119) -/

/-- A sub-word load: the word must be NIL or carry a data tag; the result is INT64 (R119). -/
def loadSub (n : Nat) (ext : Word → Word) (c : CtxId) (d : SReg) (a : Addr) (s : State) : IRes :=
  withAccess s c a 0 n n rightRd true fun s p =>
    let t := s.mem.tagAt p
    if t = Tag.poison then .fault stPoison s
    else if tagIsData t then .ok (s.putS c d.val (TWord.int (ext (BitVec.ofNat 64 (s.mem.num p n))))) .seq
    else .fault stTag s

/-- A sub-word store: the source must be NIL or carry a data tag (R46); the word follows R45. -/
def storeSubIns (n : Nat) (c : CtxId) (r : SReg) (a : Addr) (s : State) : IRes :=
  useS s c r.val tagIsData fun w =>
    withAccess s c a 0 n n rightWr true fun s p =>
      match s.mem.storeSub p (bytesOf n w.bits.toNat) with
      | none => .fault stTag s
      | some m => .ok { s with mem := m } .seq

/-- Store a full word by an instruction: ST_TAG_FAULT on a CODE word (R45, R47). -/
def storeFull (s : State) (p : Nat) (w : TWord) : IRes :=
  match writeWord s p w with
  | none => .fault stTag s
  | some s => .ok s .seq

/-- ldb: 1 byte, zero-extended, tag INT64 (R119). -/
def execLdB (c : CtxId) (ord : Bool) (r : SReg) (at_ : Addr) (s : State) : Host.Outcome State Fault Refusal :=
  issue c (insnOrd 0x60 ord (r.val :: addrBytes at_) at_.disp.toNat) (fun s _ => loadSub 1 (fun w => w) c r at_ s) s

/-- ldh: 2 bytes, zero-extended, tag INT64 (R119). -/
def execLdH (c : CtxId) (ord : Bool) (r : SReg) (at_ : Addr) (s : State) : Host.Outcome State Fault Refusal :=
  issue c (insnOrd 0x61 ord (r.val :: addrBytes at_) at_.disp.toNat) (fun s _ => loadSub 2 (fun w => w) c r at_ s) s

/-- ldw: 4 bytes, zero-extended, tag INT64 (R119). -/
def execLdW (c : CtxId) (ord : Bool) (r : SReg) (at_ : Addr) (s : State) : Host.Outcome State Fault Refusal :=
  issue c (insnOrd 0x62 ord (r.val :: addrBytes at_) at_.disp.toNat) (fun s _ => loadSub 4 (fun w => w) c r at_ s) s

/-- ldbs: 1 byte, sign-extended, tag INT64 (R119). -/
def execLdBs (c : CtxId) (ord : Bool) (r : SReg) (at_ : Addr) (s : State) : Host.Outcome State Fault Refusal :=
  issue c (insnOrd 0x64 ord (r.val :: addrBytes at_) at_.disp.toNat) (fun s _ => loadSub 1 (signExt 8) c r at_ s) s

/-- ldhs: 2 bytes, sign-extended, tag INT64 (R119). -/
def execLdHs (c : CtxId) (ord : Bool) (r : SReg) (at_ : Addr) (s : State) : Host.Outcome State Fault Refusal :=
  issue c (insnOrd 0x65 ord (r.val :: addrBytes at_) at_.disp.toNat) (fun s _ => loadSub 2 (signExt 16) c r at_ s) s

/-- ldws: 4 bytes, sign-extended, tag INT64 (R119). -/
def execLdWs (c : CtxId) (ord : Bool) (r : SReg) (at_ : Addr) (s : State) : Host.Outcome State Fault Refusal :=
  issue c (insnOrd 0x66 ord (r.val :: addrBytes at_) at_.disp.toNat) (fun s _ => loadSub 4 (signExt 32) c r at_ s) s

/-- ld.d: the word with its tag (R108, R119). -/
def execLdD (c : CtxId) (ord : Bool) (r : SReg) (at_ : Addr) (s : State) : Host.Outcome State Fault Refusal :=
  issue c (insnOrd 0x63 ord (r.val :: addrBytes at_) at_.disp.toNat) (fun s _ => withAccess s c at_ 0 8 8 rightRd true fun s p =>
    .ok (s.putS c r.val (s.mem.word p)) .seq) s

/-- stb: a sub-word store of 1 byte (R45, R46, R119). -/
def execStB (c : CtxId) (ord : Bool) (r : SReg) (at_ : Addr) (s : State) : Host.Outcome State Fault Refusal :=
  issue c (insnOrd 0x67 ord (r.val :: addrBytes at_) at_.disp.toNat) (fun s _ => storeSubIns 1 c r at_ s) s

/-- sth: a sub-word store of 2 bytes (R45, R46, R119). -/
def execStH (c : CtxId) (ord : Bool) (r : SReg) (at_ : Addr) (s : State) : Host.Outcome State Fault Refusal :=
  issue c (insnOrd 0x68 ord (r.val :: addrBytes at_) at_.disp.toNat) (fun s _ => storeSubIns 2 c r at_ s) s

/-- stw: a sub-word store of 4 bytes (R45, R46, R119). -/
def execStW (c : CtxId) (ord : Bool) (r : SReg) (at_ : Addr) (s : State) : Host.Outcome State Fault Refusal :=
  issue c (insnOrd 0x69 ord (r.val :: addrBytes at_) at_.disp.toNat) (fun s _ => storeSubIns 4 c r at_ s) s

/-- st.d: a full-word store with its tag (R108, R119). -/
def execStD (c : CtxId) (ord : Bool) (r : SReg) (at_ : Addr) (s : State) : Host.Outcome State Fault Refusal :=
  issue c (insnOrd 0x6A ord (r.val :: addrBytes at_) at_.disp.toNat) (fun s _ => withAccess s c at_ 0 8 8 rightWr false fun s p =>
    storeFull s p ((s.ctx c).sreg r.val)) s

/-! ## Vector loads and stores (R120, R121) -/

/-- Whether lane `j` takes part: its bit of the mask register, or always without a mask (R87). -/
def laneOn (x : Ctx) (px : Px) (j : Nat) : Bool :=
  match px.mask with
  | none => true
  | some m => (x.mreg m.val).getLsbD j

/-- Bits of a lane in memory: 24 for MXFP6, which packs its elements, 32 otherwise (R59). -/
def memLaneBits : Fmt → Nat
  | .mxfp6e2 => 24 | .mxfp6e3 => 24 | _ => 32

/-- Bytes of a V register in memory (R119). -/
def memVecBytes (f : Fmt) : Nat := memLaneBits f * 16

/-- Which bits of a stored register come from active lanes. -/
def activeBits (x : Ctx) (px : Px) (f : Fmt) : Nat :=
  (List.range 128).foldl (fun a j =>
    if laneOn x px j then a + (2 ^ memLaneBits f - 1) * 2 ^ (memLaneBits f * j) else a) 0

/-- The bits of a register as memory holds them (R58, R59). -/
def packVec (f : Fmt) (v : VVal) : Nat :=
  (List.range 128).foldl (fun a j => a + laneOf v j % 2 ^ memLaneBits f * 2 ^ (memLaneBits f * j)) 0

/-- The first word among `ws` whose tag is not `t`: POISON gives ST_POISON, any other tag ST_TAG_FAULT (R52, R120). Where several
words of one access fail in different ways the lowest-addressed one decides (DESIGN CHOICE, log entry 8). -/
def badWord (m : Memory) (p : Nat) (t : Tag) : List Nat → Option Status
  | [] => none
  | w :: ws =>
    let u := m.tagAt (p + 8 * w)
    if u = Tag.poison ∨ u = Tag.rsvd then some stPoison else if u ≠ t then some stTag else badWord m p t ws

/-- The words of a register's image that hold bits of an active lane (R120). -/
def touched (act n : Nat) : List Nat := (List.range n).filter fun w => decide (field act (64 * w) 64 ≠ 0)

/-- vld: every word that holds bits of an active lane must carry the format's tag; inactive lanes keep their bits and the
register takes the format (R87, R109, R120). -/
def vldBody (c : CtxId) (px : Px) (v : Nat) (a : Addr) (s : State) (i : Nat) : IRes :=
  match px.fmt with
  | none => .fault stUndef s
  | some f =>
    let n := memVecBytes f
    let x := s.ctx c
    useAddr s c a fun h idx => match checkAddr s h (addrOff a idx (512 * i)) n 8 rightRd with
      | .error st => .fault st s
      | .ok p =>
        let ws := touched (activeBits x px f) (n / 8)
        let s := ws.foldl (fun s w => s.settleWord (p + 8 * w)) s
        match badWord s.mem p (fmtTag f) ws with
        | some st => .fault st s
        | none =>
          let img := s.mem.num p n
          let old := x.vreg v
          let lanes := lanesOf fun j =>
            if laneOn x px j then field img (memLaneBits f * j) (memLaneBits f) else laneOf old j
          .ok (s.updCtx c fun x => x.setV v { lanes := lanes, scale := old.scale, tag := .fmt f }) .seq

/-- Write the words of a register image: each touched word keeps the bits of inactive lanes and takes the tag `t`, except that
a POISON word covered only in part stays POISON (R120); `poison` writes POISON to each (R97). -/
def writeImage (p img act : Nat) (t : Tag) (poison : Bool) : List Nat → State → State
  | [], s => s
  | w :: ws, s =>
    let a := p + 8 * w
    let on := field act (64 * w) 64
    let old := s.mem.word a
    let bits := Nat.xor old.bits.toNat (Nat.land (Nat.xor old.bits.toNat (field img (64 * w) 64)) on)
    let keep := decide (on ≠ 2 ^ 64 - 1) && decide (old.tag = Tag.poison ∨ old.tag = Tag.rsvd)
    let s := if poison || keep then { s with mem := s.mem.setTag a Tag.poison }
             else { s with mem := s.mem.setWord a ⟨BitVec.ofNat 64 bits, t⟩, latent := tblErase s.latent (a / 8) }
    writeImage p img act t poison ws (if on = 2 ^ 64 - 1 then observeWord s a else s)

/-- Write the touched words of an image unless one is CODE, which gives ST_TAG_FAULT with nothing written (R45, R47). -/
def storeImage (s : State) (p img act : Nat) (t : Tag) (poison : Bool) (ws : List Nat) : IRes :=
  if ws.any fun w => s.mem.tagAt (p + 8 * w) == Tag.code then .fault stTag s
  else .ok (writeImage p img act t poison ws s) .seq

/-- vst (R120): a POISON register writes POISON (R97); any other must carry the format (R86). -/
def vstBody (c : CtxId) (px : Px) (v : Nat) (a : Addr) (s : State) (i : Nat) : IRes :=
  match px.fmt with
  | none => .fault stUndef s
  | some f =>
    let n := memVecBytes f
    let x := s.ctx c
    let r := x.vreg v
    if r.tag ≠ .poison ∧ r.tag ≠ .fmt f then .fault stTag s
    else useAddr s c a fun h idx => match checkAddr s h (addrOff a idx (512 * i)) n 8 rightWr with
      | .error st => .fault st s
      | .ok p =>
        let act := activeBits x px f
        let ws := touched act (n / 8)
        -- words written in part are read (R431)
        let s := (ws.filter fun w => decide (field act (64 * w) 64 ≠ 2 ^ 64 - 1)).foldl (fun s w => s.settleWord (p + 8 * w)) s
        storeImage s p (packVec f r) act (fmtTag f) (r.tag == .poison) ws

/-- Bytes of a scale array: 32 for MXFP4, 16 otherwise (R121). -/
def scaleBytes (f : Fmt) : Nat := if f = .mxfp4 then 32 else 16

/-- vldsc: loads the scale field from scale words of the family's tag; an MX format is required; bytes the format does not
use read as zero (R56, R121). -/
def vldscBody (c : CtxId) (px : Px) (v : Nat) (a : Addr) (s : State) (i : Nat) : IRes :=
  match px.fmt with
  | none => .fault stUndef s
  | some f =>
    if fmtIsMx f = false then .fault stUndef s
    else
      let n := scaleBytes f
      withAccess s c a (512 * i) n 8 rightRd true fun s p =>
        match badWord s.mem p (fmtTag f) (List.range (n / 8)) with
        | some st => .fault st s
        | none => .ok (s.updCtx c fun x =>
            x.setV v { x.vreg v with scale := BitVec.ofNat 256 (s.mem.num p n) }) .seq

/-- vstsc: writes the scale field under the family's tag; a POISON register writes POISON (R121). -/
def vstscBody (c : CtxId) (px : Px) (v : Nat) (a : Addr) (s : State) (i : Nat) : IRes :=
  match px.fmt with
  | none => .fault stUndef s
  | some f =>
    if fmtIsMx f = false then .fault stUndef s
    else
      let n := scaleBytes f
      let r := (s.ctx c).vreg v
      if r.tag ≠ .poison ∧ r.tag ≠ .fmt f then .fault stTag s
      else withAccess s c a (512 * i) n 8 rightWr false fun s p =>
        storeImage s p (r.scale.toNat % 2 ^ (8 * n)) (2 ^ (8 * n) - 1) (fmtTag f) (r.tag == .poison) (List.range (n / 8))

/-- vld: loads a V register (R119, R120). -/
def execVld (c : CtxId) (px : Px) (v : VReg) (at_ : Addr) (s : State) : Host.Outcome State Fault Refusal :=
  issue c ⟨0x6B, px, v.val :: addrBytes at_, at_.disp.toNat⟩ (fun s i => vldBody c px (v.val + i) at_ s i) s

/-- vst: stores a V register (R119, R120). -/
def execVst (c : CtxId) (px : Px) (v : VReg) (at_ : Addr) (s : State) : Host.Outcome State Fault Refusal :=
  issue c ⟨0x6C, px, v.val :: addrBytes at_, at_.disp.toNat⟩ (fun s i => vstBody c px (v.val + i) at_ s i) s

/-- vldsc: loads a scale field (R121). -/
def execVldsc (c : CtxId) (px : Px) (v : VReg) (at_ : Addr) (s : State) : Host.Outcome State Fault Refusal :=
  issue c ⟨0x6D, px, v.val :: addrBytes at_, at_.disp.toNat⟩ (fun s i => vldscBody c px (v.val + i) at_ s i) s

/-- vstsc: stores a scale field (R121). -/
def execVstsc (c : CtxId) (px : Px) (v : VReg) (at_ : Addr) (s : State) : Host.Outcome State Fault Refusal :=
  issue c ⟨0x6E, px, v.val :: addrBytes at_, at_.disp.toNat⟩ (fun s i => vstscBody c px (v.val + i) at_ s i) s

/-! ## Handle words in memory, atomics and retag.m (R119, R122, R123) -/

/-- ldh: the word must be HANDLE (R119); POISON is found first (R52). -/
def execLdh (c : CtxId) (ord : Bool) (h : HReg) (at_ : Addr) (s : State) : Host.Outcome State Fault Refusal :=
  issue c (insnOrd 0x6F ord (h.val :: addrBytes at_) at_.disp.toNat) (fun s _ => withAccess s c at_ 0 8 8 rightRd true fun s p =>
    let w := s.mem.word p
    if w.tag = Tag.poison then .fault stPoison s
    else if w.tag = Tag.handle then .ok (s.updCtx c fun x => x.setH h.val w) .seq
    else .fault stTag s) s

/-- sth: writes H as a full word, 0 with tag NIL when H is NIL (R108, R119). -/
def execSth (c : CtxId) (ord : Bool) (h : HReg) (at_ : Addr) (s : State) : Host.Outcome State Fault Refusal :=
  issue c (insnOrd 0x70 ord (h.val :: addrBytes at_) at_.disp.toNat) (fun s _ => withAccess s c at_ 0 8 8 rightWr false fun s p =>
    let w := (s.ctx c).hreg h.val
    storeFull s p (if w.tag = Tag.nil then TWord.zero else w)) s

/-- An atomic on a word (R122): Sd takes the old word and memory the combined one, both INT64; the word must be INT64 or NIL. -/
def amoBody (f : Word → Word → Word) (c : CtxId) (d : SReg) (a : Addr) (b : SReg) (s : State) : IRes :=
  useAddr s c a fun h idx => useInt s c b.val fun y =>
    accessAt s h a idx 0 8 8 rightAtom true fun s p =>
      let w := s.mem.word p
      if w.tag = Tag.poison then .fault stPoison s
      else if w.tag = Tag.int64 ∨ w.tag = Tag.nil then
        match writeWord s p (TWord.int (f w.bits y)) with
        | none => .fault stTag s
        | some s => .ok (s.putS c d.val (TWord.int w.bits)) .seq
      else .fault stTag s

/-- amo.cas: writes Sb only where the old word equals Sd, sets Z when it wrote, and Sd takes the old word (R122). -/
def casBody (c : CtxId) (d : SReg) (a : Addr) (b : SReg) (s : State) : IRes :=
  useInt s c d.val fun z => useAddr s c a fun h idx => useInt s c b.val fun y =>
    accessAt s h a idx 0 8 8 rightAtom true fun s p =>
      let w := s.mem.word p
      if w.tag = Tag.poison then .fault stPoison s
      else if w.tag = Tag.int64 ∨ w.tag = Tag.nil then
        let fin (s : State) (wrote : Bool) : IRes :=
          .ok (s.updCtx c fun x => (x.setS d.val (TWord.int w.bits)).setFlag flagZ wrote) .seq
        if w.bits = z then
          match writeWord s p (TWord.int y) with
          | none => .fault stTag s
          | some s => fin s true
        else fin s false
      else .fault stTag s

/-- amo.add (R122). -/
def execAmoAdd (c : CtxId) (ord : Bool) (d : SReg) (at_ : Addr) (b : SReg) (s : State) : Host.Outcome State Fault Refusal :=
  issue c (insnOrd 0x76 ord (d.val :: (addrBytes at_ ++ [b.val])) at_.disp.toNat) (fun s _ => amoBody (fun x y => x + y) c d at_ b s) s

/-- amo.and (R122). -/
def execAmoAnd (c : CtxId) (ord : Bool) (d : SReg) (at_ : Addr) (b : SReg) (s : State) : Host.Outcome State Fault Refusal :=
  issue c (insnOrd 0x77 ord (d.val :: (addrBytes at_ ++ [b.val])) at_.disp.toNat) (fun s _ => amoBody (fun x y => x &&& y) c d at_ b s) s

/-- amo.or (R122). -/
def execAmoOr (c : CtxId) (ord : Bool) (d : SReg) (at_ : Addr) (b : SReg) (s : State) : Host.Outcome State Fault Refusal :=
  issue c (insnOrd 0x78 ord (d.val :: (addrBytes at_ ++ [b.val])) at_.disp.toNat) (fun s _ => amoBody (fun x y => x ||| y) c d at_ b s) s

/-- amo.xor (R122). -/
def execAmoXor (c : CtxId) (ord : Bool) (d : SReg) (at_ : Addr) (b : SReg) (s : State) : Host.Outcome State Fault Refusal :=
  issue c (insnOrd 0x79 ord (d.val :: (addrBytes at_ ++ [b.val])) at_.disp.toNat) (fun s _ => amoBody (fun x y => x ^^^ y) c d at_ b s) s

/-- amo.swap (R122). -/
def execAmoSwap (c : CtxId) (ord : Bool) (d : SReg) (at_ : Addr) (b : SReg) (s : State) : Host.Outcome State Fault Refusal :=
  issue c (insnOrd 0x7a ord (d.val :: (addrBytes at_ ++ [b.val])) at_.disp.toNat) (fun s _ => amoBody (fun _ y => y) c d at_ b s) s

/-- amo.min (R122). -/
def execAmoMin (c : CtxId) (ord : Bool) (d : SReg) (at_ : Addr) (b : SReg) (s : State) : Host.Outcome State Fault Refusal :=
  issue c (insnOrd 0x7b ord (d.val :: (addrBytes at_ ++ [b.val])) at_.disp.toNat) (fun s _ => amoBody (fun x y => (aluMin x y).val) c d at_ b s) s

/-- amo.max (R122). -/
def execAmoMax (c : CtxId) (ord : Bool) (d : SReg) (at_ : Addr) (b : SReg) (s : State) : Host.Outcome State Fault Refusal :=
  issue c (insnOrd 0x7c ord (d.val :: (addrBytes at_ ++ [b.val])) at_.disp.toNat) (fun s _ => amoBody (fun x y => (aluMax x y).val) c d at_ b s) s

/-- amo.cas (R122). -/
def execAmoCas (c : CtxId) (ord : Bool) (d : SReg) (at_ : Addr) (b : SReg) (s : State) : Host.Outcome State Fault Refusal :=
  issue c (insnOrd 0x7D ord (d.val :: (addrBytes at_ ++ [b.val])) at_.disp.toNat) (fun s _ => casBody c d at_ b s) s

/-- retag.m: the tag of the addressed word becomes t, its data unchanged; both tags must be NIL or a data tag (R51, R123). -/
def execRetagM (c : CtxId) (ord : Bool) (t : Tag) (at_ : Addr) (s : State) : Host.Outcome State Fault Refusal :=
  issue c (insnOrd 0x7E ord (t.toNat :: addrBytes at_) at_.disp.toNat) (fun s _ => withAccess s c at_ 0 8 8 rightWr true fun s p =>
    if tagIsData (s.mem.tagAt p) && tagIsData t then .ok { s with mem := s.mem.setTag p t } .seq
    else .fault stTag s) s

/-! ## Handle registers (R125 to R128) -/

/-- The region-table entry that fills derive slot `d` of a context slot; none while the slot is unfilled (R127, R325). -/
def deriveEntry (s : State) (c : CtxId) (d : Nat) : Option Nat :=
  let k := (8 * c.eng.val + c.slot.val) * 64 + d
  match tblGet none s.deriveFill k with
  | some o => o
  | none => some (0x8000 + k)

/-- A free derive slot's entry (R126). -/
def freeDerive (s : State) (c : CtxId) : Option Nat :=
  ((List.range 64).filterMap (deriveEntry s c)).find? fun i => !(s.region i).used && !(s.region i).retired

/-- A derived range is admissible: at least one byte, within the region, and aligned for its kind (R126). -/
def deriveOk (r : Region) (off len : Nat) : Bool :=
  let al := if r.kind = .volume then 4096 else 8
  decide (1 ≤ len) && decide (off + len ≤ r.len.toNat) && decide (off % al = 0) && decide (len % al = 0)

/-- hderive (R126): a narrower handle of the same range, or one on a derive slot's entry; NIL and Z when no slot is free. -/
def hderiveBody (c : CtxId) (hd hs : HReg) (a b : SReg) (mask : BitVec 8) (s : State) : IRes :=
  useH s c hs.val fun h => useInt s c a.val fun off => useInt s c b.val fun len =>
    match s.current h with
    | none => .fault stStale s
    | some r =>
      if hasRight h rightDrv = false then .fault stRights s
      else if deriveOk r off.toNat len.toNat = false then .fault stRights s
      else
        let rights := hRights h &&& mask
        let put (s : State) (w : TWord) (z : Bool) : IRes :=
          .ok (s.updCtx c fun x => (x.setH hd.val w).setFlag flagZ z) .seq
        if off = 0 ∧ len = r.len then put s ⟨mkHandle (hIndex h) r.gen rights, Tag.handle⟩ false
        else match freeDerive s c with
          | none => put s TWord.zero true
          | some i =>
            let g := (s.region i).gen
            let s := s.setRegion i { r with used := true, retired := false, base := r.base + off, len := len,
                                            rights := rights, gen := g, parent := some (hIndex h), pgen := r.gen }
            put s ⟨mkHandle i g rights, Tag.handle⟩ false

/-- h2s: copies H with its tag (R125). -/
def execH2s (c : CtxId) (d : SReg) (h : HReg) (s : State) : Host.Outcome State Fault Refusal :=
  issue c (insn 0x71 [d.val, h.val] 0) (fun s _ => .ok (s.putS c d.val ((s.ctx c).hreg h.val)) .seq) s

/-- s2h: a HANDLE word, or 0 with tag NIL from a NIL register (R125). -/
def execS2h (c : CtxId) (h : HReg) (a : SReg) (s : State) : Host.Outcome State Fault Refusal :=
  issue c (insn 0x72 [h.val, a.val] 0) (fun s _ => useS s c a.val (fun t => t == Tag.handle || t == Tag.nil) fun w =>
    .ok (s.updCtx c fun x => x.setH h.val (if w.tag = Tag.nil then TWord.zero else w)) .seq) s

/-- hderive (R126). -/
def execHderive (c : CtxId) (hd hs : HReg) (a b : SReg) (mask : BitVec 8) (s : State) : Host.Outcome State Fault Refusal :=
  issue c (insn 0x73 [hd.val, hs.val, a.val, b.val] mask.toNat) (fun s _ => hderiveBody c hd hs a b mask s) s

/-- hcheck: the rights of a current handle, else 0; Z clear when every right of the mask is present. It never faults (R128). -/
def execHcheck (c : CtxId) (d : SReg) (h : HReg) (mask : BitVec 8) (s : State) : Host.Outcome State Fault Refusal :=
  issue c (insn 0x74 [d.val, h.val] mask.toNat) (fun s _ => 
    let w := (s.ctx c).hreg h.val
    let r : BitVec 8 := if w.tag = Tag.handle ∧ (s.current w.bits).isSome then hRights w.bits else 0
    .ok (s.updCtx c fun x => (x.setS d.val (TWord.int (r.setWidth 64))).setFlag flagZ (r &&& mask != mask)) .seq) s

/-- hlen: the region length in bytes (R128). -/
def execHlen (c : CtxId) (d : SReg) (h : HReg) (s : State) : Host.Outcome State Fault Refusal :=
  issue c (insn 0x75 [d.val, h.val] 0) (fun s _ => useH s c h.val fun w =>
    match s.current w with
    | none => .fault stStale s
    | some r => .ok (s.putS c d.val (TWord.int r.len)) .seq) s

end Sys2Proof.Machine
end

