-- ==== Sys2Proof/Machine/Vector.lean ====
section
/-!
DEFINITION. Vector arithmetic, comparison, lane and mask instructions (R129 to R134).
-/

namespace Sys2Proof.Machine

/-! ## Formats and sources (R86) -/

/-- The formats of arithmetic on floating-point and integer elements (R129). -/
def fpOrInt : Fmt → Bool
  | .fp32 => true | .bf16 => true | .fp16 => true | .int32 => true | .int8 => true | _ => false
/-- The floating-point formats of R129. -/
def fpOnly : Fmt → Bool
  | .fp32 => true | .bf16 => true | .fp16 => true | _ => false
def int32Or8 : Fmt → Bool
  | .int32 => true | .int8 => true | _ => false
def int32Only : Fmt → Bool
  | .int32 => true | _ => false
def fp32Only : Fmt → Bool
  | .fp32 => true | _ => false
def fp32OrInt32 : Fmt → Bool
  | .fp32 => true | .int32 => true | _ => false
/-- Every format but the MX ones. -/
def nonMx (f : Fmt) : Bool := !fmtIsMx f
/-- The formats of vdot (R131). -/
def dotFmt : Fmt → Bool
  | .fp32 => false | .int32 => false | _ => true

/-- The format of a vector instruction: its prefix, or the format tag of V register `r` (R86); one it does not list raises
ST_UNDEFINED_OPCODE. -/
def useFmt (s : State) (c : CtxId) (px : Px) (r : Nat) (ok : Fmt → Bool) (k : Fmt → IRes) : IRes :=
  match px.fmt with
  | some f => if ok f then k f else .fault stUndef s
  | none =>
    match ((s.ctx c).vreg r).tag with
    | .poison => .fault stPoison s
    | .nil => .fault stTag s
    | .fmt f => if ok f then k f else .fault stUndef s

/-- A V source of format `f` (R86): POISON first, then any other tag, NIL included. -/
def useV (s : State) (c : CtxId) (f : Fmt) (r : Nat) (k : VVal → IRes) : IRes :=
  let v := (s.ctx c).vreg r
  match v.tag with
  | .poison => .fault stPoison s
  | .nil => .fault stTag s
  | .fmt g => if g = f then k v else .fault stTag s

/-- Write the active lanes of a V register; inactive lanes and the scale field keep their bits and the register takes format
`f` (R87, R109). -/
def putLanes (s : State) (c : CtxId) (px : Px) (r : Nat) (f : Fmt) (g : Nat → Nat) : State :=
  s.updCtx c fun x =>
    let old := x.vreg r
    x.setV r { lanes := lanesOf fun j => if laneOn x px j then g j else laneOf old j, scale := old.scale, tag := .fmt f }

/-- The index of an element for a stochastic rounding: i × 1,024 + j (R142). -/
def srIndex (i j : Nat) : Nat := i * 1024 + j

/-! ## Element operations -/

/-- Round a value into a floating-point format of R129 (R60, R61). -/
def roundF (f : Fmt) (d : Rnd) (v : FVal) : Nat :=
  match fmtElem f with
  | some ef => (roundE ef .ieee d v).1
  | none => 0

/-- Apply a value operation or an integer operation to the elements of two lanes. -/
def elem2 (f : Fmt) (fop : FVal → FVal → FVal) (iop : Int → Int → Int) (d : Nat → Rnd) (a b : VVal) (j : Nat) : Nat :=
  let n := fmtLane f
  let w := fmtBits f
  laneFrom f fun k =>
    let e := j * n + k
    let x := elemBits f a e
    let y := elemBits f b e
    if fmtIsInt f then ofSigned w (iop (toSigned w x) (toSigned w y)) else roundF f (d e) (fop (elemVal f x) (elemVal f y))

/-- A two-source arithmetic instruction (R129): an integer format requires the control byte 0x00. -/
def arith2 (ok : Fmt → Bool) (fop : Rm → FVal → FVal → FVal) (iop : Int → Int → Int) (c : CtxId) (px : Px) (d a b : Nat) (rm : Rm)
    (s : State) (i : Nat) : IRes :=
  useFmt s c px a ok fun f =>
    if fmtIsInt f ∧ rm ≠ .rne then .fault stUndef s
    else useV s c f a fun x => useV s c f b fun y =>
      .ok (putLanes s c px d f (elem2 f (fop rm) iop (fun e => rndAt (s.ctx c) rm (srIndex i e)) x y)) .seq

/-- A fused form: ±(a × b) ± c with one rounding (R129). -/
def arith3 (fop : Rm → FVal → FVal → FVal → FVal) (c : CtxId) (px : Px) (d a b e : Nat) (rm : Rm) (s : State) (i : Nat) : IRes :=
  useFmt s c px a fpOnly fun f =>
    useV s c f a fun x => useV s c f b fun y => useV s c f e fun z =>
      .ok (putLanes s c px d f fun j => laneFrom f fun k =>
        let n := j * fmtLane f + k
        roundF f (rndAt (s.ctx c) rm (srIndex i n))
          (fop rm (elemVal f (elemBits f x n)) (elemVal f (elemBits f y n)) (elemVal f (elemBits f z n)))) .seq

/-- A one-source floating-point form (R129). -/
def arith1 (fop : FVal → FVal) (c : CtxId) (px : Px) (d a : Nat) (rm : Rm) (s : State) (i : Nat) : IRes :=
  useFmt s c px a fpOnly fun f =>
    useV s c f a fun x =>
      .ok (putLanes s c px d f fun j => laneFrom f fun k =>
        let n := j * fmtLane f + k
        roundF f (rndAt (s.ctx c) rm (srIndex i n)) (fop (elemVal f (elemBits f x n)))) .seq

/-- Total order of numbers with −0 below +0, as minimum and maximum use it (R130). -/
def ltZero (a b : FVal) : Bool :=
  match FVal.cmp a b with
  | .lt => true
  | .eq => a.isNeg && !b.isNeg
  | .gt => false

/-- minimumNumber and maximumNumber of element bits (R130). -/
def minMaxBits (isMax : Bool) (f : Fmt) (x y : Nat) : Nat :=
  let w := fmtBits f
  if fmtIsInt f then
    let lt := decide (toSigned w x < toSigned w y)
    if lt != isMax then x else y
  else
    let a := elemVal f x
    let b := elemVal f y
    match a.isNan, b.isNan with
    | true, true => roundF f ⟨.rne, 0⟩ .nan
    | true, false => y
    | false, true => x
    | false, false => if ltZero a b != isMax then x else y

/-- vmin, vmax (R129, R130). -/
def minMax (isMax : Bool) (c : CtxId) (px : Px) (d a b : Nat) (s : State) : IRes :=
  useFmt s c px a fpOrInt fun f => useV s c f a fun x => useV s c f b fun y =>
    .ok (putLanes s c px d f fun j => laneFrom f fun k =>
      let n := j * fmtLane f + k
      minMaxBits isMax f (elemBits f x n) (elemBits f y n)) .seq

/-- vabs, vneg: a NaN gives the canonical NaN; integers wrap (R60, R129). -/
def absNeg (fop : FVal → FVal) (iop : Int → Int) (c : CtxId) (px : Px) (d a : Nat) (s : State) : IRes :=
  useFmt s c px a fpOrInt fun f => useV s c f a fun x =>
    .ok (putLanes s c px d f fun j => laneFrom f fun k =>
      let e := elemBits f x (j * fmtLane f + k)
      let w := fmtBits f
      if fmtIsInt f then ofSigned w (iop (toSigned w e)) else roundF f ⟨.rne, 0⟩ (fop (elemVal f e))) .seq

/-- A bitwise or shift operation on whole lanes (R129). -/
def lane2 (ok : Fmt → Bool) (g : Nat → Nat → Nat) (c : CtxId) (px : Px) (d a b : Nat) (s : State) : IRes :=
  useFmt s c px a ok fun f => useV s c f a fun x => useV s c f b fun y =>
    .ok (putLanes s c px d f fun j => g (laneOf x j) (laneOf y j)) .seq

/-- One lane of a vdot (R131): the exact sum of the element products and the addend, rounded once to FP32; a block scale of
0xFF makes it NaN. A zero product takes the sign of its factors' signs, for MXINT8 too, whose zero element counts as +0 (DESIGN
CHOICE, log entry 89). -/
def dotLane (f : Fmt) (rm : Rm) (rnd : Rnd) (a b : VVal) (acc : Nat) (j : Nat) : Nat :=
  let n := fmtLane f
  if f = .int8 then
    let sum := (List.range n).foldl (fun t k =>
      t + toSigned 8 (elemBits f a (j * n + k)) * toSigned 8 (elemBits f b (j * n + k))) (toSigned 32 acc)
    ofSigned 32 sum
  else
    let ps := (List.range n).map fun k => FVal.mul (elemOf f a (j * n + k)) (elemOf f b (j * n + k))
    roundF .fp32 rnd (sumF rm (ps ++ [elemVal .fp32 acc]))

/-- vdot (R131): Vd carries the addend format, FP32 or INT32. -/
def dotBody (c : CtxId) (px : Px) (d a b : Nat) (rm : Rm) (s : State) (i : Nat) : IRes :=
  useFmt s c px a dotFmt fun f =>
    if f = .int8 ∧ rm ≠ .rne then .fault stUndef s
    else
      let g : Fmt := if f = .int8 then .int32 else .fp32
      useV s c g d fun z => useV s c f a fun x => useV s c f b fun y =>
        .ok (putLanes s c px d g fun j => dotLane f rm (rndAt (s.ctx c) rm (srIndex i j)) x y (laneOf z j) j) .seq

/-! ## Comparison and masks (R132, R134) -/

/-- A mask from a function of the lane number. -/
def maskOf (f : Nat → Bool) : BitVec 128 :=
  BitVec.ofNat 128 ((List.range 128).foldl (fun a j => if f j then a + 2 ^ j else a) 0)

/-- Write a mask of active lanes and set A and L over them (R132). -/
def putMask (c : CtxId) (px : Px) (m : MReg) (f : Nat → Bool) (s : State) : State :=
  s.updCtx c fun x =>
    let on := (List.range 128).filter (laneOn x px)
    ((x.setM m.val (maskOf fun j => laneOn x px j && f j)).setFlag flagA (on.any f)).setFlag flagL (on.all f)

/-- vcmp (R132): a quiet IEEE 754 comparison of FP32 lanes, signed for INT32. -/
def cmpBody (ok : Fmt → Bool) (fop : FVal → FVal → Bool) (iop : Int → Int → Bool) (c : CtxId) (px : Px) (m : MReg) (a b : Nat)
    (s : State) : IRes :=
  useFmt s c px a ok fun f => useV s c f a fun x => useV s c f b fun y =>
    .ok (putMask c px m (fun j =>
      if f = .int32 then iop (toSigned 32 (laneOf x j)) (toSigned 32 (laneOf y j))
      else fop (elemVal .fp32 (laneOf x j)) (elemVal .fp32 (laneOf y j))) s) .seq

def fEq (a b : FVal) : Bool := !a.isNan && !b.isNan && FVal.cmp a b == .eq
def fLt (a b : FVal) : Bool := !a.isNan && !b.isNan && FVal.cmp a b == .lt
def fLe (a b : FVal) : Bool := !a.isNan && !b.isNan && FVal.cmp a b != .gt
def fUn (a b : FVal) : Bool := a.isNan || b.isNan

/-! ## Moves between lanes and registers (R109, R129, R133) -/

/-- vmov (R109, R129): Va with its format tag and scale field, POISON included; a masked move of an MX format copies the scale
of a block only where one of its lanes is active. -/
def vmovBody (c : CtxId) (px : Px) (d a : Nat) (s : State) : IRes :=
  let x := s.ctx c
  let v := x.vreg a
  let go : IRes :=
    let mx : Option Fmt := match v.tag with | .fmt f => if fmtIsMx f then some f else none | _ => none
    let old := x.vreg d
    let scale := match mx with
      | none => v.scale
      | some f => scalesOf fun b =>
          -- block b holds elements 32b to 32b + 31, and so the lanes 32b ÷ n to (32b + 31) ÷ n
          let n := fmtLane f
          if px.mask.isNone || (List.range (32 / n)).any (fun k => decide (32 * b / n + k < 128) && laneOn x px (32 * b / n + k))
          then scaleRead v b else scaleOf old b
    .ok (s.updCtx c fun x => x.setV d
      { lanes := lanesOf fun j => if laneOn x px j then laneRead v j else laneOf old j, scale := scale, tag := v.tag }) .seq
  match v.tag, px.fmt with
  | .nil, _ => .fault stTag s
  | .poison, _ => go
  | .fmt _, none => go
  | .fmt f, some g => if f = g then go else .fault stTag s

/-- The formats of vsplat, vext and vins (R129, R133). -/
def splatFmt : Fmt → Bool
  | .fp32 => true | .bf16 => true | .fp16 => true | .e4m3 => true | .e5m2 => true | .int32 => true | .int8 => true
  | _ => false

/-- The format prefix that vsplat and vsplati require (R86, R129). -/
def needFmt (s : State) (px : Px) (ok : Fmt → Bool) (k : Fmt → IRes) : IRes :=
  match px.fmt with
  | none => .fault stUndef s
  | some f => if ok f then k f else .fault stUndef s

/-- The extreme of a list of lane numbers under an order, lowest lane on ties. -/
def bestLane (better : Nat → Nat → Bool) : List Nat → Option Nat
  | [] => none
  | j :: js =>
    match bestLane better js with
    | none => some j
    | some k => if better k j then some k else some j

/-- Whether lane `k` beats lane `j` for a maximum or minimum: signed for INT32, −0 below +0 for FP32 (R130, R133). -/
def beats (isMax : Bool) (f : Fmt) (v : VVal) (k j : Nat) : Bool :=
  if f = .int32 then
    let a := toSigned 32 (laneOf v k)
    let b := toSigned 32 (laneOf v j)
    if isMax then decide (a > b) else decide (a < b)
  else
    let a := elemVal .fp32 (laneOf v k)
    let b := elemVal .fp32 (laneOf v j)
    if isMax then ltZero b a else ltZero a b

/-- The active lanes that hold a number (R133): NaN lanes are ignored. -/
def numLanes (x : Ctx) (px : Px) (f : Fmt) (v : VVal) : List Nat :=
  (List.range 128).filter fun j => laneOn x px j && (f == .int32 || !(elemVal .fp32 (laneOf v j)).isNan)

/-- vredmax, vredmin (R133). -/
def redBody (isMax : Bool) (c : CtxId) (px : Px) (d : SReg) (a : Nat) (s : State) : IRes :=
  useFmt s c px a fp32OrInt32 fun f => useV s c f a fun v =>
    let x := s.ctx c
    let any := (List.range 128).any (laneOn x px)
    let put (w : TWord) : IRes := .ok (s.putS c d.val w) .seq
    match bestLane (beats isMax f v) (numLanes x px f v) with
    | some j =>
      if f = .int32 then put (TWord.int (BitVec.ofInt 64 (toSigned 32 (laneOf v j))))
      else put ⟨BitVec.ofNat 64 (laneOf v j), Tag.fp32x2⟩
    | none =>
      if f = .int32 then put (TWord.int (BitVec.ofInt 64 (if isMax then -(2 ^ 31) else 2 ^ 31 - 1)))
      else if any then put ⟨BitVec.ofNat 64 (nanBits fmtFp32), Tag.fp32x2⟩
      else put ⟨BitVec.ofNat 64 (infBits fmtFp32 + signBit fmtFp32 isMax), Tag.fp32x2⟩

/-- vargmax, vargmin: the lane of the extreme value, −1 and Z when none qualifies (R133). -/
def argBody (isMax : Bool) (c : CtxId) (px : Px) (d : SReg) (a : Nat) (s : State) : IRes :=
  useFmt s c px a fp32OrInt32 fun f => useV s c f a fun v =>
    let r := bestLane (beats isMax f v) (numLanes (s.ctx c) px f v)
    .ok (s.updCtx c fun x =>
      (x.setS d.val (TWord.int (match r with | some j => BitVec.ofNat 64 j | none => BitVec.allOnes 64))).setFlag flagZ r.isNone) .seq

/-- Set one lane of a V register under format `f`. -/
def setLane (v : VVal) (n x : Nat) (f : Fmt) : VVal :=
  { v with lanes := BitVec.ofNat 4096 (setField v.lanes.toNat (32 * n) 32 x), tag := .fmt f }

/-! ## The instructions -/

/-- vadd (R129). -/
def execVadd (c : CtxId) (px : Px) (d a b : VReg) (rm : Rm) (s : State) : Host.Outcome State Fault Refusal :=
  issue c ⟨0x80, px, [d.val, a.val, b.val, rmCode rm], 0⟩ (fun s i => arith2 fpOrInt FVal.add (fun x y => x + y) c px (d.val + i) (a.val + i) (b.val + i) rm s i) s

/-- vsub (R129). -/
def execVsub (c : CtxId) (px : Px) (d a b : VReg) (rm : Rm) (s : State) : Host.Outcome State Fault Refusal :=
  issue c ⟨0x81, px, [d.val, a.val, b.val, rmCode rm], 0⟩ (fun s i => arith2 fpOrInt (fun r x y => FVal.add r x y.neg) (fun x y => x - y) c px (d.val + i) (a.val + i) (b.val + i) rm s i) s

/-- vmul (R129). -/
def execVmul (c : CtxId) (px : Px) (d a b : VReg) (rm : Rm) (s : State) : Host.Outcome State Fault Refusal :=
  issue c ⟨0x82, px, [d.val, a.val, b.val, rmCode rm], 0⟩ (fun s i => arith2 fpOrInt (fun _ x y => FVal.mul x y) (fun x y => x * y) c px (d.val + i) (a.val + i) (b.val + i) rm s i) s

/-- vfma (R129). -/
def execVfma (c : CtxId) (px : Px) (d a b e : VReg) (rm : Rm) (s : State) : Host.Outcome State Fault Refusal :=
  issue c ⟨0x83, px, [d.val, a.val, b.val, e.val, rmCode rm], 0⟩ (fun s i => arith3 (fun r x y z => FVal.add r (FVal.mul x y) z) c px (d.val + i) (a.val + i) (b.val + i) (e.val + i) rm s i) s

/-- vfms (R129). -/
def execVfms (c : CtxId) (px : Px) (d a b e : VReg) (rm : Rm) (s : State) : Host.Outcome State Fault Refusal :=
  issue c ⟨0x84, px, [d.val, a.val, b.val, e.val, rmCode rm], 0⟩ (fun s i => arith3 (fun r x y z => FVal.add r (FVal.mul x y) z.neg) c px (d.val + i) (a.val + i) (b.val + i) (e.val + i) rm s i) s

/-- vfnma (R129). -/
def execVfnma (c : CtxId) (px : Px) (d a b e : VReg) (rm : Rm) (s : State) : Host.Outcome State Fault Refusal :=
  issue c ⟨0x85, px, [d.val, a.val, b.val, e.val, rmCode rm], 0⟩ (fun s i => arith3 (fun r x y z => FVal.add r (FVal.mul x y).neg z) c px (d.val + i) (a.val + i) (b.val + i) (e.val + i) rm s i) s

/-- vmin (R130). -/
def execVmin (c : CtxId) (px : Px) (d a b : VReg) (s : State) : Host.Outcome State Fault Refusal :=
  issue c ⟨0x86, px, [d.val, a.val, b.val], 0⟩ (fun s i => minMax false c px (d.val + i) (a.val + i) (b.val + i) s) s

/-- vmax (R130). -/
def execVmax (c : CtxId) (px : Px) (d a b : VReg) (s : State) : Host.Outcome State Fault Refusal :=
  issue c ⟨0x87, px, [d.val, a.val, b.val], 0⟩ (fun s i => minMax true c px (d.val + i) (a.val + i) (b.val + i) s) s

/-- vabs (R129). -/
def execVabs (c : CtxId) (px : Px) (d a : VReg) (s : State) : Host.Outcome State Fault Refusal :=
  issue c ⟨0x88, px, [d.val, a.val], 0⟩ (fun s i => absNeg FVal.abs (fun x => if x < 0 then -x else x) c px (d.val + i) (a.val + i) s) s

/-- vneg (R129). -/
def execVneg (c : CtxId) (px : Px) (d a : VReg) (s : State) : Host.Outcome State Fault Refusal :=
  issue c ⟨0x89, px, [d.val, a.val], 0⟩ (fun s i => absNeg FVal.neg (fun x => -x) c px (d.val + i) (a.val + i) s) s

/-- vdiv (R129). -/
def execVdiv (c : CtxId) (px : Px) (d a b : VReg) (rm : Rm) (s : State) : Host.Outcome State Fault Refusal :=
  issue c ⟨0x8A, px, [d.val, a.val, b.val, rmCode rm], 0⟩ (fun s i => arith2 fpOnly (fun _ x y => FVal.div x y) (fun x _ => x) c px (d.val + i) (a.val + i) (b.val + i) rm s i) s

/-- vsqrt: the exact value rounded once (R129). -/
def execVsqrt (c : CtxId) (px : Px) (d a : VReg) (rm : Rm) (s : State) : Host.Outcome State Fault Refusal :=
  issue c ⟨0x8B, px, [d.val, a.val, rmCode rm], 0⟩ (fun s i => arith1 FVal.sqrt c px (d.val + i) (a.val + i) rm s i) s

/-- vrsqrt: the exact value rounded once (R129). -/
def execVrsqrt (c : CtxId) (px : Px) (d a : VReg) (rm : Rm) (s : State) : Host.Outcome State Fault Refusal :=
  issue c ⟨0x8C, px, [d.val, a.val, rmCode rm], 0⟩ (fun s i => arith1 FVal.rsqrt c px (d.val + i) (a.val + i) rm s i) s

/-- vrcp: the exact value rounded once (R129). -/
def execVrcp (c : CtxId) (px : Px) (d a : VReg) (rm : Rm) (s : State) : Host.Outcome State Fault Refusal :=
  issue c ⟨0x8D, px, [d.val, a.val, rmCode rm], 0⟩ (fun s i => arith1 FVal.rcp c px (d.val + i) (a.val + i) rm s i) s

/-- vexp2: the exact value rounded once (R129). -/
def execVexp2 (c : CtxId) (px : Px) (d a : VReg) (rm : Rm) (s : State) : Host.Outcome State Fault Refusal :=
  issue c ⟨0x8E, px, [d.val, a.val, rmCode rm], 0⟩ (fun s i => arith1 FVal.exp2 c px (d.val + i) (a.val + i) rm s i) s

/-- vlog2: the exact value rounded once (R129). -/
def execVlog2 (c : CtxId) (px : Px) (d a : VReg) (rm : Rm) (s : State) : Host.Outcome State Fault Refusal :=
  issue c ⟨0x8F, px, [d.val, a.val, rmCode rm], 0⟩ (fun s i => arith1 FVal.log2 c px (d.val + i) (a.val + i) rm s i) s

/-- vdot (R131). -/
def execVdot (c : CtxId) (px : Px) (d a b : VReg) (rm : Rm) (s : State) : Host.Outcome State Fault Refusal :=
  issue c ⟨0x90, px, [d.val, a.val, b.val, rmCode rm], 0⟩ (fun s i => dotBody c px (d.val + i) (a.val + i) (b.val + i) rm s i) s

/-- vcmp.eq (R132). -/
def execVcmpEq (c : CtxId) (px : Px) (m : MReg) (a b : VReg) (s : State) : Host.Outcome State Fault Refusal :=
  issue c ⟨0x91, px, [m.val, a.val, b.val], 0⟩ (fun s _ => cmpBody fp32OrInt32 fEq (fun x y => decide (x = y)) c px m a.val b.val s) s

/-- vcmp.lt (R132). -/
def execVcmpLt (c : CtxId) (px : Px) (m : MReg) (a b : VReg) (s : State) : Host.Outcome State Fault Refusal :=
  issue c ⟨0x92, px, [m.val, a.val, b.val], 0⟩ (fun s _ => cmpBody fp32OrInt32 fLt (fun x y => decide (x < y)) c px m a.val b.val s) s

/-- vcmp.le (R132). -/
def execVcmpLe (c : CtxId) (px : Px) (m : MReg) (a b : VReg) (s : State) : Host.Outcome State Fault Refusal :=
  issue c ⟨0x93, px, [m.val, a.val, b.val], 0⟩ (fun s _ => cmpBody fp32OrInt32 fLe (fun x y => decide (x ≤ y)) c px m a.val b.val s) s

/-- vcmp.un (R132). -/
def execVcmpUn (c : CtxId) (px : Px) (m : MReg) (a b : VReg) (s : State) : Host.Outcome State Fault Refusal :=
  issue c ⟨0x94, px, [m.val, a.val, b.val], 0⟩ (fun s _ => cmpBody fp32Only fUn (fun _ _ => false) c px m a.val b.val s) s

/-- vsel: M bit j ? a : b, lane by lane (R129). -/
def execVsel (c : CtxId) (px : Px) (d a b : VReg) (m : MReg) (s : State) : Host.Outcome State Fault Refusal :=
  issue c ⟨0x95, px, [d.val, a.val, b.val, m.val], 0⟩ (fun s i => 
    useFmt s c px (a.val + i) nonMx fun f => useV s c f (a.val + i) fun x => useV s c f (b.val + i) fun y =>
      let k := (s.ctx c).mreg m.val
      .ok (putLanes s c px (d.val + i) f fun j => if k.getLsbD j then laneOf x j else laneOf y j) .seq) s

/-- vand (R129). -/
def execVand (c : CtxId) (px : Px) (d a b : VReg) (s : State) : Host.Outcome State Fault Refusal :=
  issue c ⟨0x96, px, [d.val, a.val, b.val], 0⟩ (fun s i => lane2 int32Or8 Nat.land c px (d.val + i) (a.val + i) (b.val + i) s) s

/-- vor (R129). -/
def execVor (c : CtxId) (px : Px) (d a b : VReg) (s : State) : Host.Outcome State Fault Refusal :=
  issue c ⟨0x97, px, [d.val, a.val, b.val], 0⟩ (fun s i => lane2 int32Or8 Nat.lor c px (d.val + i) (a.val + i) (b.val + i) s) s

/-- vxor (R129). -/
def execVxor (c : CtxId) (px : Px) (d a b : VReg) (s : State) : Host.Outcome State Fault Refusal :=
  issue c ⟨0x98, px, [d.val, a.val, b.val], 0⟩ (fun s i => lane2 int32Or8 Nat.xor c px (d.val + i) (a.val + i) (b.val + i) s) s

/-- vshl: a shifted by b[4:0] (R129). -/
def execVshl (c : CtxId) (px : Px) (d a b : VReg) (s : State) : Host.Outcome State Fault Refusal :=
  issue c ⟨0x99, px, [d.val, a.val, b.val], 0⟩ (fun s i => lane2 int32Only (fun x y => x * 2 ^ (y % 32)) c px (d.val + i) (a.val + i) (b.val + i) s) s

/-- vshr: a shifted by b[4:0] (R129). -/
def execVshr (c : CtxId) (px : Px) (d a b : VReg) (s : State) : Host.Outcome State Fault Refusal :=
  issue c ⟨0x9A, px, [d.val, a.val, b.val], 0⟩ (fun s i => lane2 int32Only (fun x y => x / 2 ^ (y % 32)) c px (d.val + i) (a.val + i) (b.val + i) s) s

/-- vsar: a shifted by b[4:0] (R129). -/
def execVsar (c : CtxId) (px : Px) (d a b : VReg) (s : State) : Host.Outcome State Fault Refusal :=
  issue c ⟨0x9B, px, [d.val, a.val, b.val], 0⟩ (fun s i => lane2 int32Only (fun x y => ofSigned 32 (toSigned 32 x / (2 ^ (y % 32) : Nat))) c px (d.val + i) (a.val + i) (b.val + i) s) s

/-- vmov (R109, R129). -/
def execVmov (c : CtxId) (px : Px) (d a : VReg) (s : State) : Host.Outcome State Fault Refusal :=
  issue c ⟨0x9C, px, [d.val, a.val], 0⟩ (fun s i => vmovBody c px (d.val + i) (a.val + i) s) s

/-- vsplat: element 0 of Sa in every element (R129). -/
def execVsplat (c : CtxId) (px : Px) (d : VReg) (a : SReg) (s : State) : Host.Outcome State Fault Refusal :=
  issue c ⟨0x9D, px, [d.val, a.val], 0⟩ (fun s i => 
    needFmt s px splatFmt fun f => useS s c a.val (fun t => t == fmtTag f) fun w =>
      .ok (putLanes s c px (d.val + i) f fun _ => laneFrom f fun _ => w.bits.toNat % 2 ^ fmtBits f) .seq) s

/-- vsplati: imm[31:0] in every lane (R129). -/
def execVsplati (c : CtxId) (px : Px) (d : VReg) (imm : BitVec 32) (s : State) : Host.Outcome State Fault Refusal :=
  issue c ⟨0x9E, px, [d.val], imm.toNat⟩ (fun s i => 
    needFmt s px splatFmt fun f => .ok (putLanes s c px (d.val + i) f fun _ => imm.toNat) .seq) s

/-- vlane: the lane number, INT32 (R129). -/
def execVlane (c : CtxId) (px : Px) (d : VReg) (s : State) : Host.Outcome State Fault Refusal :=
  issue c ⟨0x9F, px, [d.val], 0⟩ (fun s i => .ok (putLanes s c px (d.val + i) .int32 fun j => j) .seq) s

/-- vredmax (R133). -/
def execVredmax (c : CtxId) (px : Px) (d : SReg) (a : VReg) (s : State) : Host.Outcome State Fault Refusal :=
  issue c ⟨0xA0, px, [d.val, a.val], 0⟩ (fun s _ => redBody true c px d a.val s) s

/-- vredmin (R133). -/
def execVredmin (c : CtxId) (px : Px) (d : SReg) (a : VReg) (s : State) : Host.Outcome State Fault Refusal :=
  issue c ⟨0xA1, px, [d.val, a.val], 0⟩ (fun s _ => redBody false c px d a.val s) s

/-- vargmax (R133). -/
def execVargmax (c : CtxId) (px : Px) (d : SReg) (a : VReg) (s : State) : Host.Outcome State Fault Refusal :=
  issue c ⟨0xA2, px, [d.val, a.val], 0⟩ (fun s _ => argBody true c px d a.val s) s

/-- vargmin (R133). -/
def execVargmin (c : CtxId) (px : Px) (d : SReg) (a : VReg) (s : State) : Host.Outcome State Fault Refusal :=
  issue c ⟨0xA3, px, [d.val, a.val], 0⟩ (fun s _ => argBody false c px d a.val s) s

/-- vperm: lane j = Va lane (Vb lane j)[6:0], Vb INT32 (R129). -/
def execVperm (c : CtxId) (px : Px) (d a b : VReg) (s : State) : Host.Outcome State Fault Refusal :=
  issue c ⟨0xA4, px, [d.val, a.val, b.val], 0⟩ (fun s i => 
    useFmt s c px (a.val + i) nonMx fun f => useV s c f (a.val + i) fun x => useV s c .int32 (b.val + i) fun y =>
      .ok (putLanes s c px (d.val + i) f fun j => laneOf x (laneOf y j % 128)) .seq) s

/-- vrot: lane j = Va lane (j + n) mod 128 (R129). -/
def execVrot (c : CtxId) (px : Px) (d a : VReg) (n : BitVec 7) (s : State) : Host.Outcome State Fault Refusal :=
  issue c ⟨0xA5, px, [d.val, a.val], n.toNat⟩ (fun s i => 
    useFmt s c px (a.val + i) nonMx fun f => useV s c f (a.val + i) fun x =>
      .ok (putLanes s c px (d.val + i) f fun j => laneOf x ((j + n.toNat) % 128)) .seq) s

/-- vext: lane n under the word tag of the format; the mask is ignored (R133). -/
def execVext (c : CtxId) (px : Px) (d : SReg) (a : VReg) (n : BitVec 7) (s : State) : Host.Outcome State Fault Refusal :=
  issue c ⟨0xA6, px, [d.val, a.val], n.toNat⟩ (fun s _ => 
    useFmt s c px a.val splatFmt fun f => useV s c f a.val fun v =>
      .ok (s.putS c d.val ⟨BitVec.ofNat 64 (laneOf v n.toNat), fmtTag f⟩) .seq) s

/-- vins: Sa[31:0] to lane n; without a prefix the format is that of Vd, which is then checked (R86, R133). -/
def execVins (c : CtxId) (px : Px) (d : VReg) (a : SReg) (n : BitVec 7) (s : State) : Host.Outcome State Fault Refusal :=
  issue c ⟨0xA7, px, [d.val, a.val], n.toNat⟩ (fun s _ => 
    useFmt s c px d.val splatFmt fun f => useS s c a.val (fun t => t == fmtTag f) fun w =>
      .ok (s.updCtx c fun x => x.setV d.val (setLane (x.vreg d.val) n.toNat (bitsOf w.bits 0 32) f)) .seq) s

/-- mand (R134). -/
def execMand (c : CtxId) (d a b : MReg) (s : State) : Host.Outcome State Fault Refusal :=
  issue c (insn 0xA8 [d.val, a.val, b.val] 0) (fun s _ => .ok (s.updCtx c fun x => x.setM d.val (x.mreg a.val &&& x.mreg b.val)) .seq) s

/-- mor (R134). -/
def execMor (c : CtxId) (d a b : MReg) (s : State) : Host.Outcome State Fault Refusal :=
  issue c (insn 0xA9 [d.val, a.val, b.val] 0) (fun s _ => .ok (s.updCtx c fun x => x.setM d.val (x.mreg a.val ||| x.mreg b.val)) .seq) s

/-- mxor (R134). -/
def execMxor (c : CtxId) (d a b : MReg) (s : State) : Host.Outcome State Fault Refusal :=
  issue c (insn 0xAA [d.val, a.val, b.val] 0) (fun s _ => .ok (s.updCtx c fun x => x.setM d.val (x.mreg a.val ^^^ x.mreg b.val)) .seq) s

/-- mnot (R134). -/
def execMnot (c : CtxId) (d a : MReg) (s : State) : Host.Outcome State Fault Refusal :=
  issue c (insn 0xAB [d.val, a.val] 0) (fun s _ => .ok (s.updCtx c fun x => x.setM d.val (~~~(x.mreg a.val))) .seq) s

/-- mset: bits [n − 1:0] set, the rest clear (R110, R134). -/
def execMset (c : CtxId) (d : MReg) (n : BitVec 8) (s : State) : Host.Outcome State Fault Refusal :=
  issue c (insn 0xAC [d.val] n.toNat) (fun s _ => .ok (s.updCtx c fun x => x.setM d.val (BitVec.ofNat 128 (2 ^ n.toNat - 1))) .seq) s

/-- mpop: the number of set bits; Z when M is zero (R134). -/
def execMpop (c : CtxId) (d : SReg) (m : MReg) (s : State) : Host.Outcome State Fault Refusal :=
  issue c (insn 0xAD [d.val, m.val] 0) (fun s _ => .ok (s.updCtx c fun x =>
      (x.setS d.val (TWord.int (BitVec.ofNat 64 (weight 128 (x.mreg m.val).toNat)))).setFlag flagZ (x.mreg m.val == 0)) .seq) s

/-- mfirst: the lowest set bit, or −1; Z when M is zero (R134). -/
def execMfirst (c : CtxId) (d : SReg) (m : MReg) (s : State) : Host.Outcome State Fault Refusal :=
  issue c (insn 0xAE [d.val, m.val] 0) (fun s _ => .ok (s.updCtx c fun x =>
      let k := x.mreg m.val
      (x.setS d.val (TWord.int (if k = 0 then BitVec.allOnes 64 else BitVec.ofNat 64 (countTrailing 128 k.toNat)))).setFlag flagZ (k == 0)) .seq) s

/-- mfromv: bit j set when lane j of Va is nonzero; any format tag but NIL; A and L over all lanes (R134). -/
def execMfromv (c : CtxId) (m : MReg) (a : VReg) (s : State) : Host.Outcome State Fault Refusal :=
  issue c (insn 0xAF [m.val, a.val] 0) (fun s _ => 
    let v := (s.ctx c).vreg a.val
    match v.tag with
    | .poison => .fault stPoison s
    | .nil => .fault stTag s
    | .fmt _ => .ok (putMask c Px.none m (fun j => decide (laneRead v j ≠ 0)) s) .seq) s

end Sys2Proof.Machine
end

