-- ==== Sys2Proof/Machine/AccumOps.lean ====
section
/-!
DEFINITION. Exact-accumulator instructions (R135 to R138), conversions (R139 to R142), and random numbers and sampling (R148
to R153).
-/

namespace Sys2Proof.Machine

/-! ## Accumulators as operands -/

/-- The accumulators an instruction names over all its instances are free of earlier instructions, or the context waits for
the first that is not (R138); checked before the first instance. -/
def whenFree (c : CtxId) (xs : List Nat) (s : State) (i : Nat) (k : IRes) : IRes :=
  if i ≠ 0 then k
  else match xs.find? fun n => (s.eng c.eng.val).occ.getLsbD n with
    | none => k
    | some n => .ok (s.updCtx c fun x => { x with wait := .acc n }) .wait

/-- The X registers of `r` instances from `x`. -/
def xRange (px : Px) (x : XReg) : List Nat := (List.range (pxCount px)).map fun i => x.val + i

/-- An accumulator read by an instruction: one struck by an uncorrectable error gives ST_POISON (R434). -/
def useX (s : State) (c : CtxId) (n : Nat) (k : XAcc → IRes) : IRes :=
  let a := (s.eng c.eng.val).acc n
  if a.poison then .fault stPoison s else k a

/-- Write an accumulator of the context's engine (R96). -/
def putX (s : State) (c : CtxId) (n : Nat) (a : XAcc) : State := s.updEng c.eng.val fun e => e.setAcc n a

/-- An accumulator stays occupied for some cycles after its instruction (R138, R158): timing only. -/
def occupy (s : State) (c : CtxId) (n : Nat) : State :=
  s.updEng c.eng.val fun e => { e with occ := e.occ ||| (1#16 <<< n) }

/-- Every format is an addend source (R69). -/
def anyFmt (_ : Fmt) : Bool := true

/-- The addends of the active lanes of a V register (R69, R135). -/
def addendsOf (x : Ctx) (px : Px) (f : Fmt) (v : VVal) : List FVal :=
  ((List.range 128).filter (laneOn x px)).flatMap fun j => (List.range (fmtLane f)).map fun k =>
    let e := elemOf f v (j * fmtLane f + k)
    if fmtIsMx f then mxAddend e else e

/-- xacc (R135). -/
def xaccBody (c : CtxId) (px : Px) (x a : Nat) (s : State) : IRes :=
  useX s c x fun acc => useFmt s c px a anyFmt fun f => useV s c f a fun v =>
    .ok (occupy (putX s c x (accAddAll acc (addendsOf (s.ctx c) px f v))) c x) .seq

/-- The elements of an S word as addends, by its tag (R69, R135); none for a tag R69 does not list. -/
def wordAddends (w : TWord) : Option (List FVal) :=
  let elems (f : Fmt) (n : Nat) : List FVal :=
    (List.range n).map fun k => elemVal f (bitsOf w.bits (fmtBits f * k) (fmtBits f))
  if w.tag = Tag.int64 then some [FVal.ofInt w.bits.toInt]
  else if w.tag = Tag.fp32x2 then some (elems .fp32 2)
  else if w.tag = Tag.bf16x4 then some (elems .bf16 4)
  else if w.tag = Tag.fp16x4 then some (elems .fp16 4)
  else if w.tag = Tag.e4m3x8 then some (elems .e4m3 8)
  else if w.tag = Tag.e5m2x8 then some (elems .e5m2 8)
  else none

/-- xacc.s (R135). -/
def xaccSBody (c : CtxId) (x : Nat) (a : SReg) (s : State) : IRes :=
  useX s c x fun acc => useS s c a.val (fun t => (wordAddends ⟨0, t⟩).isSome) fun w =>
    .ok (putX s c x (accAddAll acc ((wordAddends w).getD []))) .seq

/-- The formats of xaccp (R136). -/
def pairFmt : Fmt → Bool
  | .e4m3 => true | .e5m2 => true | .int8 => true | _ => false

/-- Whether Vb's format pairs with Va's (R136). -/
def pairOk (f g : Fmt) : Bool := if f = .int8 then g == .int8 else g == .e4m3 || g == .e5m2

/-- The exact product of two elements (R136); INT8 elements multiply as integers, whose product 0 is no −0 (R68, R69). -/
def pairProd (f g : Fmt) (x y : Nat) : FVal :=
  if f = .int8 then FVal.ofInt (toSigned 8 x * toSigned 8 y) else FVal.mul (elemVal f x) (elemVal g y)

/-- A format that the instruction does not list raises ST_UNDEFINED_OPCODE before any tag check on its operands (R86, R102). -/
def whenListed (s : State) (c : CtxId) (px : Px) (r : Nat) (ok : Fmt → Bool) (k : IRes) : IRes :=
  match px.fmt, ((s.ctx c).vreg r).tag with
  | some f, _ => if ok f then k else .fault stUndef s
  | none, .fmt f => if ok f then k else .fault stUndef s
  | none, _ => k

/-- xaccp: the exact product of every pair of elements of the active lanes (R136). -/
def xaccpBody (c : CtxId) (px : Px) (x a b : Nat) (s : State) : IRes :=
  whenListed s c px a pairFmt <| useX s c x fun acc => useFmt s c px a pairFmt fun f => useV s c f a fun va =>
    let vb := (s.ctx c).vreg b
    match vb.tag with
    | .poison => .fault stPoison s
    | .nil => .fault stTag s
    | .fmt g =>
      if pairOk f g = false then .fault stTag s
      else
        let vs := ((List.range 128).filter (laneOn (s.ctx c) px)).flatMap fun j => (List.range 4).map fun k =>
          pairProd f g (elemBits f va (j * 4 + k)) (elemBits g vb (j * 4 + k))
        .ok (occupy (putX s c x (accAddAll acc vs)) c x) .seq

/-- xld: the image of R72, whose words must be INT64; POISON is found before any field is read (R72, R573). -/
def xldBody (c : CtxId) (x : Nat) (a : Addr) (s : State) (i : Nat) : IRes :=
  withAccess s c a (48 * i) 48 8 rightRd true fun s p =>
    let ws := (List.range 6).map fun k => s.mem.word (p + 8 * k)
    if ws.any fun w => w.tag == Tag.poison || w.tag == Tag.rsvd then .fault stPoison s
    else if ws.any fun w => w.tag != Tag.int64 then .fault stTag s
    else match accOfImage (ws.map (·.bits)) with
      | none => .fault stTag s
      | some acc => .ok (putX s c x acc) .seq

/-- xst: the image as six INT64 words (R72, R135). -/
def xstBody (c : CtxId) (x : Nat) (a : Addr) (s : State) (i : Nat) : IRes :=
  useX s c x fun acc =>
    withAccess s c a (48 * i) 48 8 rightWr false fun s p =>
      let img := natOfBytes ((accImage acc).flatMap fun w => bytesOf 8 w.toNat)
      storeImage s p img (2 ^ 384 - 1) Tag.int64 false (List.range 6)

/-- Set I of a conversion or read-out; over a repeat it is the OR of the instances (R62, R99). -/
def setInexact (x : Ctx) (i : Nat) (b : Bool) : Ctx := x.setFlag flagI (b || (decide (i ≠ 0) && x.flag flagI))

/-- xclr (R67, R135). -/
def execXclr (c : CtxId) (px : Px) (x : XReg) (s : State) : Host.Outcome State Fault Refusal :=
  issue c ⟨0xDF00, px, [x.val], 0⟩ (fun s i => whenFree c (xRange px x) s i (.ok (putX s c (x.val + i) XAcc.clear) .seq)) s

/-- xacc (R68 to R70, R135). -/
def execXacc (c : CtxId) (px : Px) (x : XReg) (a : VReg) (s : State) : Host.Outcome State Fault Refusal :=
  issue c ⟨0xDF01, px, [x.val, a.val], 0⟩ (fun s i => whenFree c (xRange px x) s i (xaccBody c px (x.val + i) (a.val + i) s)) s

/-- xacc.s (R135). -/
def execXaccS (c : CtxId) (px : Px) (x : XReg) (a : SReg) (s : State) : Host.Outcome State Fault Refusal :=
  issue c ⟨0xDF02, px, [x.val, a.val], 0⟩ (fun s i => whenFree c (xRange px x) s i (xaccSBody c (x.val + i) a s)) s

/-- xaccp (R136). -/
def execXaccp (c : CtxId) (px : Px) (x : XReg) (a b : VReg) (s : State) : Host.Outcome State Fault Refusal :=
  issue c ⟨0xDF03, px, [x.val, a.val, b.val], 0⟩ (fun s i => whenFree c (xRange px x) s i (xaccpBody c px (x.val + i) (a.val + i) (b.val + i) s)) s

/-- xmerge: Xd takes in Xs (R71, R135). -/
def execXmerge (c : CtxId) (px : Px) (d a : XReg) (s : State) : Host.Outcome State Fault Refusal :=
  issue c ⟨0xDF04, px, [d.val, a.val], 0⟩ (fun s i => whenFree c (xRange px d ++ xRange px a) s i (
    useX s c (d.val + i) fun x => useX s c (a.val + i) fun y =>
      .ok (occupy (occupy (putX s c (d.val + i) (accMerge x y)) c (d.val + i)) c (a.val + i)) .seq)) s

/-- xmov: Xd = Xs (R135). -/
def execXmov (c : CtxId) (px : Px) (d a : XReg) (s : State) : Host.Outcome State Fault Refusal :=
  issue c ⟨0xDF05, px, [d.val, a.val], 0⟩ (fun s i => whenFree c (xRange px d ++ xRange px a) s i (
    useX s c (a.val + i) fun y =>
      .ok (occupy (occupy (putX s c (d.val + i) y) c (d.val + i)) c (a.val + i)) .seq)) s

/-- xld (R72, R135). -/
def execXld (c : CtxId) (px : Px) (x : XReg) (at_ : Addr) (s : State) : Host.Outcome State Fault Refusal :=
  issue c ⟨0xDF06, px, x.val :: addrBytes at_, at_.disp.toNat⟩ (fun s i => whenFree c (xRange px x) s i (xldBody c (x.val + i) at_ s i)) s

/-- xst (R72, R135). -/
def execXst (c : CtxId) (px : Px) (x : XReg) (at_ : Addr) (s : State) : Host.Outcome State Fault Refusal :=
  issue c ⟨0xDF07, px, x.val :: addrBytes at_, at_.disp.toNat⟩ (fun s i => whenFree c (xRange px x) s i (xstBody c (x.val + i) at_ s i)) s

/-- xrd: read-out to the target, with I and G; the element index of SR is the accumulator number (R73, R74, R137, R142). -/
def execXrd (c : CtxId) (d : SReg) (x : XReg) (t : STarget) (rm : Rm) (s : State) : Host.Outcome State Fault Refusal :=
  issue c (insn 0xDF08 [d.val, x.val, sTargetCode t * 16 + rmCode rm] 0) (fun s _ => whenFree c [x.val] s 0 (useX s c x.val fun acc =>
    let (w, ix, g) := accReadOut acc t (rndAt (s.ctx c) rm x.val)
    .ok (s.updCtx c fun X => ((X.setS d.val w).setFlag flagI ix).setFlag flagG g) .seq)) s

/-- xcnt: CNT, tag INT64; Z when it is zero (R135). -/
def execXcnt (c : CtxId) (d : SReg) (x : XReg) (s : State) : Host.Outcome State Fault Refusal :=
  issue c (insn 0xDF09 [d.val, x.val] 0) (fun s _ => whenFree c [x.val] s 0 (useX s c x.val fun acc =>
    .ok (s.updCtx c fun X => (X.setS d.val (TWord.int (acc.cnt.setWidth 64))).setFlag flagZ (acc.cnt == 0)) .seq)) s

/-- xstat: the STATE byte of R72, tag INT64 (R135). -/
def execXstat (c : CtxId) (d : SReg) (x : XReg) (s : State) : Host.Outcome State Fault Refusal :=
  issue c (insn 0xDF0A [d.val, x.val] 0) (fun s _ => whenFree c [x.val] s 0 (useX s c x.val fun acc =>
    .ok (s.putS c d.val (TWord.int (BitVec.ofNat 64 (accStateByte acc)))) .seq)) s

/-- ACCUMULATOR_WAIT_END: the earlier instruction leaves the accumulator the context waits for, and the waiting instruction
may issue (R138). No effect on a context that does not wait so. -/
def execAccumulatorWaitEnd (c : CtxId) (s : State) : Host.Outcome State Fault Refusal :=
  match (s.ctx c).wait with
  | .acc n =>
    .next ((s.updEng c.eng.val fun e => { e with occ := e.occ &&& ~~~(1#16 <<< n) }).updCtx c fun x =>
      { x with wait := .none })
  | _ => .next s

/-! ## Conversions (R63 to R66, R139 to R142) -/

/-- Convert one value to an element of a format that is not MX: its bits and whether it is inexact (R62 to R64). -/
def convElem (t : Fmt) (d : Rnd) (v : FVal) : Nat × Bool :=
  match t with
  | .fp32 => roundE fmtFp32 .ieee d v
  | .bf16 => roundE fmtBf16 .ieee d v
  | .fp16 => roundE fmtFp16 .ieee d v
  | .e4m3 => roundE fmtE4m3 .sat d v
  | .e5m2 => roundE fmtE5m2 .sat d v
  | .int8 => let (k, ix) := roundI 8 d v; (ofSigned 8 k, ix)
  | _ => let (k, ix) := roundI 32 d v; (ofSigned 32 k, ix)

/-- The exponent of an MX element format's largest finite value (R66). -/
def mxEmax : Fmt → Int
  | .mxfp8e4 => 8 | .mxfp8e5 => 15 | .mxfp6e3 => 4 | .mxfp6e2 => 2 | .mxfp4 => 2 | _ => 0

/-- One MX element of a scaled value, saturated to the largest finite magnitude (R66). -/
def mxElem (t : Fmt) (d : Rnd) (v : FVal) : Nat × Bool :=
  match fmtElem t with
  | some ef => roundE ef .sat d v
  | none =>
    -- MXINT8: a multiple of 2^−6 of magnitude at most 127 × 2^−6
    match v with
    | .num neg m e =>
      if d.rm = .sr ∧ cmpMag m (e + 6) 127 0 = .gt then (ofSigned 8 (if neg then -127 else 127), true)
      else
        let (n, ix) := roundInt d neg m (e + 6) 0
        let n' := min n 127
        (ofSigned 8 (if neg then -(n' : Int) else n'), ix || decide (n ≠ n'))
    | _ => (0, false)

/-- A block of 32 values in an MX format (R66): the scale, the elements and whether any is inexact. -/
def mxBlock (t : Fmt) (rnd : Nat → Rnd) (vs : List FVal) : Nat × List Nat × Bool :=
  if vs.any fun v => !v.isFinite then
    (0xFF, vs.map fun _ => 0, !(vs.all FVal.isNan))
  else
    let top := vs.foldl (fun (o : Option Int) v => match v, o with
      | .num _ m e, none => some (ilog2 m e)
      | .num _ m e, some l => some (max l (ilog2 m e))
      | _, o => o) none
    let e : Int := match top with
      | none => -127
      | some l => max (-127) (min 127 (l - mxEmax t))
    let rs := vs.zipIdx.map fun (v, j) => mxElem t (rnd j) (FVal.scale (-e) v)
    ((e + 127).toNat, rs.map (·.1), rs.any (·.2))

/-- The elements a conversion computes: destination element number, source element number, and which source register. -/
structure CvtPlan where
  dst : Nat
  src : Nat
  len : Nat
  second : Bool
deriving DecidableEq, Repr

/-- The plan of vcvt and vcvth at window `w` (R139); none where the window does not exist. -/
def cvtPlan (f t : Fmt) (w : Nat) : Option CvtPlan :=
  let ns := fmtLane f
  let nt := fmtLane t
  if nt = ns then (if w = 0 then some ⟨0, 0, 128 * ns, false⟩ else none)
  else if nt < ns then
    (if ns / nt = 8 ∨ w ≥ ns / nt then none else some ⟨0, w * 128 * nt, 128 * nt, false⟩)
  else if nt / ns = 8 ∨ w ≥ nt / ns then none else some ⟨w * 128 * ns, 0, 128 * ns, false⟩

/-- Assemble a destination register from new elements and the old register: `get j` is the new element `j`, if computed. A lane
none of whose elements is computed keeps all its bits (R87). -/
def putElems (t : Fmt) (old : VVal) (get : Nat → Option Nat) : BitVec 4096 :=
  lanesOf fun l =>
    if (List.range (fmtLane t)).all fun k => (get (l * fmtLane t + k)).isNone then laneOf old l
    else laneFrom t fun k =>
      match get (l * fmtLane t + k) with
      | some b => b
      | none => field (laneOf old l) (fmtBits t * k) (fmtBits t)

/-- Convert under one plan (R139, R140): the register and whether any element was inexact. A lane that is not active keeps
its bits; an MX block is written whole when any of its lanes is active. -/
def convPlan (x : Ctx) (px : Px) (f t : Fmt) (rm : Rm) (i : Nat) (p : CvtPlan) (v old : VVal) : VVal × Bool :=
  let nt := fmtLane t
  let rnd (j : Nat) : Rnd := rndAt x rm (srIndex i j)
  let srcVal (j : Nat) : FVal := elemOf f v (p.src + (j - p.dst))
  if fmtIsMx t then
    let blocks := (List.range (p.len / 32)).filterMap fun k =>
      let b := p.dst / 32 + k
      let lanes := (List.range (32 / nt)).map fun q => 32 * b / nt + q
      if lanes.any (laneOn x px) then
        some (b, mxBlock t (fun j => rnd (32 * b + j)) ((List.range 32).map fun j => srcVal (32 * b + j)))
      else none
    let find (b : Nat) := (blocks.find? fun e => e.1 == b).map (·.2)
    ({ lanes := putElems t old fun j => (find (j / 32)).map fun r => r.2.1.getD (j % 32) 0,
       scale := scalesOf fun b => match find b with | some r => r.1 | none => scaleOf old b, tag := .fmt t },
     blocks.any fun e => e.2.2.2)
  else
    let js := ((List.range p.len).map (p.dst + ·)).filter fun j => laneOn x px (j / nt)
    let rs := js.map fun j => (j, convElem t (rnd j) (srcVal j))
    ({ lanes := lanesOf fun l =>
         if laneOn x px l then
           laneFrom t fun k =>
             let j := l * nt + k
             if p.dst ≤ j ∧ j < p.dst + p.len then (convElem t (rnd j) (srcVal j)).1
             else field (laneOf old l) (fmtBits t * k) (fmtBits t)
         else laneOf old l,
       scale := old.scale, tag := .fmt t },
     rs.any fun e => e.2.2)

/-- vcvt and vcvth (R139). -/
def cvtBody (hi : Bool) (c : CtxId) (px : Px) (d a : Nat) (t : Fmt) (w : Bool) (rm : Rm) (s : State) (i : Nat) : IRes :=
  useFmt s c px a anyFmt fun f =>
    if hi ∧ fmtLane f = fmtLane t then .fault stUndef s
    else match cvtPlan f t (w.toNat + if hi then 2 else 0) with
      | none => .fault stUndef s
      | some p => useV s c f a fun v =>
        let x := s.ctx c
        let (r, ix) := convPlan x px f t rm i p v (x.vreg d)
        .ok (s.updCtx c fun x => setInexact (x.setV d r) i ix) .seq

/-- vcvt2: narrowing of two registers into adjacent windows (R139). -/
def cvt2Body (c : CtxId) (px : Px) (d a b : Nat) (t : Fmt) (w : Bool) (rm : Rm) (s : State) (i : Nat) : IRes :=
  useFmt s c px a anyFmt fun f =>
    if fmtLane t ≤ fmtLane f ∨ (w ∧ fmtLane t / fmtLane f ≠ 4) then .fault stUndef s
    else match cvtPlan f t (2 * w.toNat), cvtPlan f t (2 * w.toNat + 1) with
      | some p, some q => useV s c f a fun va => useV s c f b fun vb =>
        let x := s.ctx c
        let (r, ix) := convPlan x px f t rm i p va (x.vreg d)
        let (r2, ix2) := convPlan x px f t rm i q vb r
        .ok (s.updCtx c fun x => setInexact (x.setV d r2) i (ix || ix2)) .seq
      | _, _ => .fault stUndef s

/-- The value of element 0 of an S word by its tag (R141); none for a tag scvt does not accept. -/
def scvtSource (w : TWord) : Option FVal :=
  if w.tag = Tag.int64 then some (FVal.ofInt w.bits.toInt)
  else if w.tag = Tag.fp64 then some (decodeE fmtFp64 w.bits.toNat)
  else if w.tag = Tag.fp32x2 then some (decodeE fmtFp32 (bitsOf w.bits 0 32))
  else if w.tag = Tag.bf16x4 then some (decodeE fmtBf16 (bitsOf w.bits 0 16))
  else if w.tag = Tag.fp16x4 then some (decodeE fmtFp16 (bitsOf w.bits 0 16))
  else if w.tag = Tag.e5m2x8 then some (decodeE fmtE5m2 (bitsOf w.bits 0 8))
  else if w.tag = Tag.e4m3x8 then some (decodeE fmtE4m3 (bitsOf w.bits 0 8))
  else none

/-- vcvt (R139). -/
def execVcvt (c : CtxId) (px : Px) (d a : VReg) (t : Fmt) (w : Bool) (rm : Rm) (s : State) : Host.Outcome State Fault Refusal :=
  issue c ⟨0xDF20, px, [d.val, a.val, fmtCode t * 16 + (if w then 8 else 0) + rmCode rm], 0⟩ (fun s i => cvtBody false c px (d.val + i) (a.val + i) t w rm s i) s

/-- vcvt2 (R139). -/
def execVcvt2 (c : CtxId) (px : Px) (d a b : VReg) (t : Fmt) (w : Bool) (rm : Rm) (s : State) : Host.Outcome State Fault Refusal :=
  issue c ⟨0xDF21, px, [d.val, a.val, b.val, fmtCode t * 16 + (if w then 8 else 0) + rmCode rm], 0⟩ (fun s i => cvt2Body c px (d.val + i) (a.val + i) (b.val + i) t w rm s i) s

/-- vcvth: windows 2 and 3 (R139). -/
def execVcvth (c : CtxId) (px : Px) (d a : VReg) (t : Fmt) (w : Bool) (rm : Rm) (s : State) : Host.Outcome State Fault Refusal :=
  issue c ⟨0xDF22, px, [d.val, a.val, fmtCode t * 16 + (if w then 8 else 0) + rmCode rm], 0⟩ (fun s i => cvtBody true c px (d.val + i) (a.val + i) t w rm s i) s

/-- scvt: element 0 of Sa, its format by its tag, to the target; the element index of SR is 0 (R141, R142). -/
def execScvt (c : CtxId) (d a : SReg) (t : STarget) (rm : Rm) (s : State) : Host.Outcome State Fault Refusal :=
  issue c (insn 0xDF23 [d.val, a.val, sTargetCode t * 16 + rmCode rm] 0) (fun s _ => useS s c a.val (fun t => (scvtSource ⟨0, t⟩).isSome) fun w =>
    let (r, ix) := toTarget t (rndAt (s.ctx c) rm 0) ((scvtSource w).getD .nan)
    .ok (s.updCtx c fun X => (X.setS d.val r).setFlag flagI ix) .seq) s

/-! ## Random numbers and sampling (R148 to R153) -/

/-- philox: one output word per active lane, as raw bits or as a fraction (R148). -/
def philoxBody (c : CtxId) (px : Px) (d a : Nat) (w form : BitVec 2) (s : State) : IRes :=
  match px.fmt with
  | some f => if f = .int32 then go else .fault stUndef s
  | none => go
where
  go : IRes :=
    useV s c .int32 a fun v =>
      let x := s.ctx c
      let bits (j : Nat) : Nat := (philox x.srkey (laneOf v j) x.srstream x.srstep w.toNat).toNat
      let frac (n : Nat) : Nat := (roundE fmtFp32 .ieee ⟨.rne, 0⟩ (FVal.scale (-24) (FVal.ofInt n))).1
      match form.toNat with
      | 0 => .ok (putLanes s c px d .int32 bits) .seq
      | 1 => .ok (putLanes s c px d .fp32 fun j => frac (bits j / 256)) .seq
      | 2 => .ok (putLanes s c px d .fp32 fun j => frac (bits j / 256 + 1)) .seq
      | _ => .fault stUndef s

/-- Whether lane `k` ranks strictly above lane `j`: by value, NaN below every number (R149). -/
def ranksAbove (f : Fmt) (v : VVal) (k j : Nat) : Bool :=
  if f = .int32 then decide (toSigned 32 (laneOf v k) > toSigned 32 (laneOf v j))
  else
    let a := elemVal .fp32 (laneOf v k)
    let b := elemVal .fp32 (laneOf v j)
    match a.isNan, b.isNan with
    | true, _ => false
    | false, true => true
    | false, false => FVal.cmp a b == .gt

/-- Insert a lane into a list ranked in descending order; equals keep the earlier lane first. -/
def rankInsert (f : Fmt) (v : VVal) (j : Nat) : List Nat → List Nat
  | [] => [j]
  | k :: ks => if ranksAbove f v j k then j :: k :: ks else k :: rankInsert f v j ks

/-- Lanes ranked in descending order of value, ties to the lower index (R149). -/
def rankLanes (f : Fmt) (v : VVal) (js : List Nat) : List Nat := js.foldl (fun acc j => rankInsert f v j acc) []

/-- vtopk (R149). -/
def vtopkBody (c : CtxId) (px : Px) (d a : Nat) (k : SReg) (s : State) : IRes :=
  useFmt s c px a fp32OrInt32 fun f => useV s c f a fun v => useInt s c k.val fun kw =>
    let n := kw.toInt
    let top := (rankLanes f v ((List.range 128).filter (laneOn (s.ctx c) px))).take (min n 128).toNat
    .ok (s.updCtx c fun x =>
      (x.setV d { lanes := lanesOf fun j => match top[j]? with | some l => l | none => 2 ^ 32 - 1,
                  scale := (x.vreg d).scale, tag := .fmt .int32 }).setFlag flagZ (decide (n ≤ 0))) .seq

/-- vscan: exact prefix sums of the active lanes, each rounded once (R150). -/
def vscanBody (c : CtxId) (px : Px) (d a : Nat) (excl : Bool) (rm : Rm) (s : State) (i : Nat) : IRes :=
  useFmt s c px a fp32OrInt32 fun f =>
    if f = .int32 ∧ rm ≠ .rne then .fault stUndef s
    else useV s c f a fun v =>
      let x := s.ctx c
      let upTo (j : Nat) : List Nat := (List.range (if excl then j else j + 1)).filter (laneOn x px)
      .ok (putLanes s c px d f fun j =>
        if f = .int32 then ofSigned 32 ((upTo j).foldl (fun t l => t + toSigned 32 (laneOf v l)) 0)
        else roundF .fp32 (rndAt x rm (srIndex i j)) (sumF rm ((upTo j).map fun l => elemVal .fp32 (laneOf v l)))) .seq

/-- vsample: the lowest lane of Va whose value exceeds element 0 of lane 0 of Vb (R151). -/
def vsampleBody (c : CtxId) (d : SReg) (a b : Nat) (s : State) : IRes :=
  useFmt s c Px.none a fp32Only fun f => useV s c f a fun va => useV s c f b fun vb =>
    let t := elemVal .fp32 (laneOf vb 0)
    let r := (List.range 128).find? fun j => fLt t (elemVal .fp32 (laneOf va j))
    .ok (s.updCtx c fun x =>
      (x.setS d.val (TWord.int (match r with | some j => BitVec.ofNat 64 j | none => BitVec.allOnes 64))).setFlag flagZ r.isNone) .seq

/-- vpenal: Va ÷ Vb where Va ≥ 0, −0 included, and Va × Vb otherwise (R152). -/
def vpenalBody (c : CtxId) (px : Px) (d a b : Nat) (rm : Rm) (s : State) (i : Nat) : IRes :=
  useFmt s c px a fp32Only fun f => useV s c f a fun va => useV s c f b fun vb =>
    .ok (putLanes s c px d f fun j =>
      let x := elemVal .fp32 (laneOf va j)
      let y := elemVal .fp32 (laneOf vb j)
      roundF .fp32 (rndAt (s.ctx c) rm (srIndex i j)) (if fLe (.zero false) x then FVal.div x y else FVal.mul x y)) .seq

/-- vaccept: bit j set where the exact product Vc × Vb is less than Va (R153). -/
def vacceptBody (c : CtxId) (px : Px) (m : MReg) (a b e : Nat) (s : State) : IRes :=
  useFmt s c px a fp32Only fun f => useV s c f a fun va => useV s c f b fun vb => useV s c f e fun vc =>
    .ok (putMask c px m (fun j =>
      fLt (FVal.mul (elemVal .fp32 (laneOf vc j)) (elemVal .fp32 (laneOf vb j))) (elemVal .fp32 (laneOf va j))) s) .seq

/-- philox (R148). -/
def execPhilox (c : CtxId) (px : Px) (d a : VReg) (w : BitVec 2) (form : BitVec 2) (s : State) : Host.Outcome State Fault Refusal :=
  issue c ⟨0xDF43, px, [d.val, a.val, form.toNat * 4 + w.toNat], 0⟩ (fun s i => philoxBody c px (d.val + i) (a.val + i) w form s) s

/-- vtopk (R149). -/
def execVtopk (c : CtxId) (px : Px) (d a : VReg) (k : SReg) (s : State) : Host.Outcome State Fault Refusal :=
  issue c ⟨0xDF44, px, [d.val, a.val, k.val], 0⟩ (fun s i => vtopkBody c px (d.val + i) (a.val + i) k s) s

/-- vscan (R150). -/
def execVscan (c : CtxId) (px : Px) (d a : VReg) (excl : Bool) (rm : Rm) (s : State) : Host.Outcome State Fault Refusal :=
  issue c ⟨0xDF45, px, [d.val, a.val, (if excl then 8 else 0) + rmCode rm], 0⟩ (fun s i => vscanBody c px (d.val + i) (a.val + i) excl rm s i) s

/-- vsample (R151). -/
def execVsample (c : CtxId) (px : Px) (d : SReg) (a b : VReg) (s : State) : Host.Outcome State Fault Refusal :=
  issue c ⟨0xDF46, px, [d.val, a.val, b.val], 0⟩ (fun s _ => vsampleBody c d a.val b.val s) s

/-- vpenal (R152). -/
def execVpenal (c : CtxId) (px : Px) (d a b : VReg) (rm : Rm) (s : State) : Host.Outcome State Fault Refusal :=
  issue c ⟨0xDF47, px, [d.val, a.val, b.val, rmCode rm], 0⟩ (fun s i => vpenalBody c px (d.val + i) (a.val + i) (b.val + i) rm s i) s

/-- vaccept (R153). -/
def execVaccept (c : CtxId) (px : Px) (m : MReg) (a b e : VReg) (s : State) : Host.Outcome State Fault Refusal :=
  issue c ⟨0xDF48, px, [m.val, a.val, b.val, e.val], 0⟩ (fun s _ => vacceptBody c px m a.val b.val e.val s) s

end Sys2Proof.Machine
end

