-- ==== Sys2Proof/Machine/CopySync.lean ====
section
/-!
DEFINITION. Copies as instructions (R143, R144, R169 to R173), semaphores (R145, R180), barriers (R146, R182 to R185), fence
(R147) and the events that make a waiting context READY (R89, R157).
-/

namespace Sys2Proof.Machine

/-! ## Semaphores -/

/-- An instruction a context waited in completes: PC passes it and the context may become READY (R145, R157). -/
def wakePast (s : State) (c : CtxId) : State :=
  retire (s.updCtx c fun x => { x with wait := .done, pc := x.pc + BitVec.ofNat 64 x.ilen }) c.eng.val

/-- Serve the waiters of semaphore `n` of engine `e` strictly in arrival order (R145): each whose value has been reached
subtracts it; the first that has not ends the service. -/
def serveSemLoop (e : Fin 128) (n : Nat) : List SemWaiter → State → State
  | [], s => s
  | w :: ws, s =>
    if w.sem ≠ n then serveSemLoop e n ws s
    else
      let x := s.eng e.val
      if w.need.toNat ≤ (x.sem n).toNat then
        let s := s.setEng e.val { x.setSem n (x.sem n - w.need) with semQ := x.semQ.filter fun v => v ≠ w }
        serveSemLoop e n ws (wakePast s ⟨e, Fin.ofNat 8 w.slot⟩)
      else s

/-- Serve semaphore `n` of engine `e`. -/
def serveSem (s : State) (e : Fin 128) (n : Nat) : State := serveSemLoop e n (s.eng e.val).semQ s

/-- Add to a semaphore and serve its waiters (R145, R175, R180). -/
def semAdd (s : State) (e : Fin 128) (n : Nat) (v : Word) : State :=
  serveSem (s.updEng e.val fun x => x.setSem n (x.sem n + v)) e n

/-- sem.add (R145). -/
def execSemAdd (c : CtxId) (ord : Bool) (a : SReg) (n : BitVec 6) (s : State) : Host.Outcome State Fault Refusal :=
  issue c (insnOrd 0xC3 ord [a.val] n.toNat) (fun s _ => useInt s c a.val fun v => .ok (semAdd s c.eng n.toNat v) .seq) s

/-- sem.set (R145). -/
def execSemSet (c : CtxId) (ord : Bool) (a : SReg) (n : BitVec 6) (s : State) : Host.Outcome State Fault Refusal :=
  issue c (insnOrd 0xC6 ord [a.val] n.toNat) (fun s _ => useInt s c a.val fun v =>
    .ok (serveSem (s.updEng c.eng.val fun x => x.setSem n.toNat v) c.eng n.toNat) .seq) s

/-- sem.rd (R145). -/
def execSemRd (c : CtxId) (d : SReg) (n : BitVec 6) (s : State) : Host.Outcome State Fault Refusal :=
  issue c (insn 0xC5 [d.val] n.toNat) (fun s _ =>
    .ok (s.putS c d.val (TWord.int ((s.eng c.eng.val).sem n.toNat))) .seq) s

/-- sem.wait: at once when Sa is 0, or when the value has been reached and no earlier waiter stands; otherwise the context
waits in WAIT_SEM (R145). -/
def execSemWait (c : CtxId) (a : SReg) (n : BitVec 6) (s : State) : Host.Outcome State Fault Refusal :=
  issue c (insn 0xC4 [a.val] n.toNat) (fun s _ => useInt s c a.val fun v =>
    let x := s.eng c.eng.val
    if v = 0 then .ok s .seq
    else if v.toNat ≤ (x.sem n.toNat).toNat ∧ (x.semQ.all fun w => w.sem ≠ n.toNat) then
      .ok (s.setEng c.eng.val (x.setSem n.toNat (x.sem n.toNat - v))) .seq
    else
      let s := s.setEng c.eng.val { x with semQ := x.semQ ++ [⟨c.slot.val, n.toNat, v⟩] }
      .ok (s.updCtx c fun y => { y with state := .waitSem, wait := .sem n.toNat }) .wait) s

/-! ## Barriers -/

def State.bar (s : State) (u : Nat) : Barrier := tblGet Barrier.reset s.barriers u
def State.setBar (s : State) (u : Nat) (b : Barrier) : State := { s with barriers := tblSet Barrier.reset s.barriers u b }

/-- The unit a bar instruction of an engine names (R182). -/
def barNum (e : Fin 128) : BarUnit → Nat
  | .device u => u.val
  | .cluster u => 256 + 16 * (e.val / 16) + u.val

/-- The contexts that wait on a unit when its phase ends: those of bar.wait and bar.sync pass the instruction, those that
waited to arrive again run it anew (R146, R182); every open arrival of the unit is closed. -/
def wakeBar (s : State) (u : Nat) : State :=
  s.allCtx.foldl (fun s (c, x) =>
    let s := if tblGet false x.arrived u then s.updCtx c fun y => { y with arrived := tblSet false y.arrived u false } else s
    match x.wait with
    | .bar v again => if v = u then (if again then s.updCtx c fun y => { y with wait := .done } else wakePast s c) else s
    | _ => s) s

/-- A phase completes when its arrivals reach COUNT (R182): PHASE advances, ARRIVED returns to 0, a held COUNT takes effect
(R185) and the waiting contexts may become READY. -/
def barCheck (s : State) (u : Nat) : State :=
  let b := s.bar u
  -- the secondary of a joined pair completes a pair-wide phase on the primary's flit (R538)
  if b.pair && s.secondary && s.pair.joined then s
  else if b.arrived.toNat + b.remote.toNat ≥ b.count.toNat then
    let b := { b with phase := b.phase + 1, arrived := 0, remote := 0, count := b.held.getD b.count, held := none }
    let s := wakeBar (s.setBar u b) u
    if b.pair && s.pair.joined then s.emit (.flit "BARRIER_COMPLETE" [u, b.count.toNat]) else s
  else s

/-- Record one arrival of a context (R146); on a pair-wide unit the partner is told (R184). -/
def barArrive (s : State) (c : CtxId) (u : Nat) : State :=
  let b := s.bar u
  let s := (s.setBar u { b with arrived := b.arrived + 1 }).updCtx c fun x => { x with arrived := tblSet false x.arrived u true }
  let s := if b.pair && s.pair.joined then s.emit (.flit "BARRIER" [u]) else s
  barCheck s u

/-- A bar instruction's unit must be granted to the context's Peck (R146); after a pair split a pair-wide unit faults
(R184). -/
def useBar (s : State) (c : CtxId) (u : Nat) (k : IRes) : IRes :=
  let b := s.bar u
  if b.peck ≠ (s.ctx c).peck then .fault stRights s
  else if b.pair ∧ b.split then .fault stPairSplit s
  else k

/-- An arrival on a pair-wide unit while the pair is joined needs the partner's unit to be pair-wide for the same Peck (R539). -/
def mateOk (s : State) (u : Nat) : Bool :=
  let b := s.bar u
  !b.pair || !s.pair.joined || b.mate.any fun m => m.1 && m.2.1 == b.peck

/-- The context waits on a unit (R146). -/
def waitOnBar (s : State) (c : CtxId) (u : Nat) (again : Bool) : IRes :=
  .ok (s.updCtx c fun y => { y with state := .waitBar, wait := .bar u again }) .wait

/-- Whether the context's last arrival on a unit is in the unit's current phase (R146). -/
def openArrival (s : State) (c : CtxId) (u : Nat) : Bool := tblGet false (s.ctx c).arrived u

/-- bar.arrive (R146): a second arrival in one phase waits for that phase and then arrives in the next. In a replay the arrival recorded
by the first run stands for it (R517). -/
def execBarArrive (c : CtxId) (u : BarUnit) (s : State) : Host.Outcome State Fault Refusal :=
  issue c (insn 0xC7 [] (barImm u)) (fun s _ =>
    let n := barNum c.eng u
    useBar s c n (
      if openArrival s c n then waitOnBar s c n !(s.ctx c).replay
      else if !mateOk s n then .fault stPairMismatch s
      else .ok (barArrive s c n) .seq)) s

/-- bar.wait (R146): at once when the phase of the last arrival has completed or nothing was recorded. -/
def execBarWait (c : CtxId) (u : BarUnit) (s : State) : Host.Outcome State Fault Refusal :=
  issue c (insn 0xC8 [] (barImm u)) (fun s _ =>
    let n := barNum c.eng u
    useBar s c n (if openArrival s c n then waitOnBar s c n false else .ok s .seq)) s

/-- bar.sync: bar.arrive followed by bar.wait (R146). -/
def execBarSync (c : CtxId) (u : BarUnit) (s : State) : Host.Outcome State Fault Refusal :=
  issue c (insn 0xC9 [] (barImm u)) (fun s _ =>
    let n := barNum c.eng u
    useBar s c n (
      if openArrival s c n then waitOnBar s c n !(s.ctx c).replay
      else if !mateOk s n then .fault stPairMismatch s
      else
        let s := barArrive s c n
        if openArrival s c n then waitOnBar s c n false else .ok s .seq)) s

/-! ## Copies -/

/-- Words of memory from an address. -/
def memWords (m : Memory) (a n : Nat) : List TWord := (List.range n).map fun k => m.word (a + 8 * k)

/-- INT64 or NIL (R163, R170). -/
def tagIntNil (t : Tag) : Bool := t == Tag.int64 || t == Tag.nil

/-- POISON or 0xE among words (R573). -/
def anyPoison (ws : List TWord) : Bool := ws.any fun w => w.tag == Tag.poison || w.tag == Tag.rsvd

/-- The word of a descriptor or record. -/
def wd (ws : List TWord) (i : Nat) : TWord := ws.getD i TWord.zero

/-- A copy operation by its code (R171). -/
def copyOpOf : Nat → Option CopyOp
  | 0 => some .copy | 1 => some .copy2d | 2 => some .fill | _ => none

/-- Steps 1 and 2 of R172 and the OP: the operation when the descriptor is untainted and names one. -/
def descOp (ws : List TWord) : Except Status CopyOp :=
  if anyPoison ws then .error stPoison
  else if [0, 2, 4, 5, 6, 7].any (fun i => !tagIntNil (wd ws i).tag) then .error stTag
  else match copyOpOf (bitsOf (wd ws 0).bits 16 8) with
    | none => .error stUndef
    | some op => .ok op

/-- The fields of a copy descriptor (R170). -/
def copyOf (op : CopyOp) (ws : List TWord) (src : Option Loc) (dst : Loc) : Copy :=
  let w0 := (wd ws 0).bits
  { id := 0, slot := 0, seq := 0, ordered := false, op := op, imp := BitVec.ofNat 4 (bitsOf w0 24 4),
    sig := bitsOf w0 32 1 == 1, sealed := bitsOf w0 33 1 == 1, sem := bitsOf w0 40 6, ordgrp := BitVec.ofNat 16 (bitsOf w0 48 16),
    src := src, srcOff := (wd ws 2).bits, dst := dst, dstOff := (wd ws 4).bits, len := (wd ws 5).bits.toNat,
    rows := bitsOf (wd ws 6).bits 0 32, sigval := BitVec.ofNat 32 (bitsOf (wd ws 6).bits 32 32),
    sstride := bitsOf (wd ws 7).bits 0 32, dstride := bitsOf (wd ws 7).bits 32 32,
    phase := .queued, open_ := 0, todo := [], buf := [], reading := false, status := 0, fault := 0, wordAt := none, parts := [],
    moved := 0, wr := 0 }

/-- Step 3 of R172: version, reserved bits, fields named zero, LENGTH and ROWS. -/
def descFieldsOk (op : CopyOp) (ws : List TWord) : Bool :=
  let w0 := (wd ws 0).bits
  let len := (wd ws 5).bits.toNat
  let rows := bitsOf (wd ws 6).bits 0 32
  decide (bitsOf w0 8 8 = 1) && reservedOk (bitsOf w0 0 8) (bitsOf w0 28 4 == 0 && bitsOf w0 34 6 == 0 && bitsOf w0 46 2 == 0) &&
  decide (len ≤ 2 ^ 35) &&
  match op with
  | .copy2d => decide (rows ≥ 1) && decide (len * rows ≤ 2 ^ 35)
  | _ => decide (rows = 0) && decide ((wd ws 7).bits = 0)

/-- Whether one side of a copy meets an alignment and its region (R126, R173). -/
def sideOk (r : Region) (off : Word) (len rows stride al : Nat) : Bool :=
  let al := if r.kind = .volume then max al 4096 else al
  decide (off.toNat % al = 0) && decide (len % al = 0) && decide (stride % al = 0) &&
  (decide (len = 0) || decide (off.toNat + (rows - 1) * stride + len ≤ r.len.toNat))

/-- The rights and alignment a copy needs (R173). -/
def copyNeeds (sk dk : HKind) : Nat × Nat × Nat :=
  if sk = .local_ then (if dk = .local_ then (rightRd, rightWr, 8) else (rightCpout, rightWr, 8))
  else if dk = .local_ then (rightRd, rightCpin, 1) else (rightRd, rightWr, 1)

/-- The checks of a copy descriptor in the order of R172; the copy on success. -/
def checkDesc (s : State) (ws : List TWord) : Except Status Copy :=
  match descOp ws with
  | .error e => .error e
  | .ok op =>
    if descFieldsOk op ws = false then .error stUndef
    else if bitsOf (wd ws 0).bits 24 4 > 0xB then .error stTag
    else
      let h1 := wd ws 1
      let h3 := wd ws 3
      let c := copyOf op ws none Loc.none
      if op = .fill then
        if h1 ≠ TWord.zero then .error stTag
        else if h3.tag ≠ Tag.handle then .error stTag
        else match s.current h3.bits with
          | none => .error stStale
          | some d =>
            if d.kind ≠ .local_ ∨ hasRight h3.bits rightWr = false ∨ sideOk d c.dstOff c.len 1 0 8 = false then .error stRights
            else if c.sealed then .error stUndef
            else .ok { c with dst := locOf h3.bits d }
      else if h1.tag ≠ Tag.handle ∨ h3.tag ≠ Tag.handle then .error stTag
      else match s.current h1.bits, s.current h3.bits with
        | some r, some d =>
          let (sr, dr, al) := copyNeeds r.kind d.kind
          if hasRight h1.bits sr = false ∨ hasRight h3.bits dr = false then .error stRights
          else if sideOk r c.srcOff c.len (max 1 c.rows) c.sstride al = false ∨
                  sideOk d c.dstOff c.len (max 1 c.rows) c.dstride al = false then .error stRights
          else if (c.sealed ∧ d.kind ≠ .remote) ∨ (c.imp ≠ 0 ∧ r.kind = .local_) then .error stUndef
          else .ok { c with src := some (locOf h1.bits r), dst := locOf h3.bits d }
        | _, _ => .error stStale

/-- A checked copy of a context takes an entry of queue `q` (R169). An ordered cpy holds the context until the copy has completed (R89). -/
def issueCopy (s : State) (c : CtxId) (ord : Bool) (q : Nat) (k : Copy) : State :=
  let x := s.eng c.eng.val
  let seq := tblGet 0 (s.ctx c).cpyseq q
  let k := { k with id := s.nextCopy, slot := c.slot.val, seq := seq, ordered := ord, wr := s.nextWr }
  let s := if k.dst.kind = .remote then { s with nextWr := s.nextWr + 1 } else s
  let s := { s.setEng c.eng.val (x.setQueue q (x.queue q ++ [k])) with nextCopy := s.nextCopy + 1 }
  s.updCtx c fun y =>
    let y := { y with cpyseq := tblSet 0 y.cpyseq q (seq + 1) }
    if ord then { y with state := .waitCopy, wait := .ordCopy k.id } else y

/-- The copy that has waited longest for an entry of queue `q`. -/
def nextWait (x : Engine) (q : Nat) : Option QWait := x.queueQ.find? fun w => w.q == q

/-- Queue a checked copy of a context on queue `q`, or wait with it for an entry behind earlier waiters (R143, R157): its handles are not
checked again (R174). -/
def queueCopy (s : State) (c : CtxId) (ord : Bool) (q : Nat) (k : Copy) : IRes :=
  let x := s.eng c.eng.val
  if (x.queue q).length ≥ 64 ∨ (nextWait x q).isSome then
    .ok ((s.setEng c.eng.val { x with queueQ := x.queueQ ++ [⟨c.slot.val, q, ord, k⟩] }).updCtx c fun y =>
      { y with state := .waitCopy, wait := .queue q }) .wait
  else .ok (issueCopy s c ord q k) .seq

/-- cpy (R143): operand tags, the descriptor's place, the checks of R172, and the queue. -/
def cpyBody (c : CtxId) (ord : Bool) (q : Nat) (h : HReg) (a : SReg) (s : State) : IRes :=
  useH s c h.val fun hw => useInt s c a.val fun off =>
    match checkAddr s hw off.toNat 64 64 rightRd with
    | .error st => .fault st s
    | .ok p =>
      let s := s.settle p 64
      match checkDesc s (memWords s.mem p 8) with
      | .error st => .fault st s
      | .ok k => queueCopy s c ord q k

/-- The operation of the descriptor that a cpy reads: none when the cpy fails before its descriptor is read, an error when
the descriptor is tainted or names no operation. -/
def cpyOp (s : State) (c : CtxId) (h : HReg) (a : SReg) : Option (Except Status CopyOp) :=
  let hw := (s.ctx c).hreg h.val
  let aw := (s.ctx c).sreg a.val
  if hw.tag ≠ Tag.handle ∨ aw.tag ≠ Tag.int64 then none
  else match checkAddr s hw.bits aw.bits.toNat 64 64 rightRd with
    | .error _ => none
    | .ok p => some (descOp (memWords (s.settle p 64).mem p 8))

/-- The cpy instruction under one of its rows: it runs when the row names the descriptor's operation, or when the cpy fails
before its descriptor is read. -/
def cpyRow (op : CopyOp) (c : CtxId) (ord : Bool) (q : Fin 4) (h : HReg) (a : SReg) (s : State) :
    Host.Outcome State Fault Refusal :=
  match cpyOp s c h a with
  | some (.ok o) => if o = op then go else .next s
  | some (.error _) => .next s
  | none => go
where
  go := issue c (insnOrd 0xC0 ord [q.val, h.val, a.val] 0) (fun s _ => cpyBody c ord q.val h a s) s

/-- cpy of a descriptor with OP COPY (R171). -/
def execCopy (c : CtxId) (ord : Bool) (q : Fin 4) (h : HReg) (a : SReg) (s : State) : Host.Outcome State Fault Refusal :=
  cpyRow .copy c ord q h a s

/-- cpy of a descriptor with OP COPY2D (R171). -/
def execCopy2d (c : CtxId) (ord : Bool) (q : Fin 4) (h : HReg) (a : SReg) (s : State) : Host.Outcome State Fault Refusal :=
  cpyRow .copy2d c ord q h a s

/-- cpy of a descriptor with OP FILL (R171). -/
def execFill (c : CtxId) (ord : Bool) (q : Fin 4) (h : HReg) (a : SReg) (s : State) : Host.Outcome State Fault Refusal :=
  cpyRow .fill c ord q h a s

/-- CPY_REFUSED: a cpy whose descriptor is POISON, mis-tagged or names a reserved OP faults and queues nothing (R172). No
effect on a cpy whose descriptor names an operation. -/
def execCpyRefused (c : CtxId) (ord : Bool) (q : Fin 4) (h : HReg) (a : SReg) (s : State) : Host.Outcome State Fault Refusal :=
  match cpyOp s c h a with
  | some (.ok _) => .next s
  | _ => issue c (insnOrd 0xC0 ord [q.val, h.val, a.val] 0) (fun s _ => cpyBody c ord q.val h a s) s

/-- A copy status word as cpystat reads it (R176). -/
def cpyStatWord (k : CpyStat) : Word :=
  BitVec.ofNat 64 (k.status.toNat + k.errcount.toNat * 2 ^ 16 + k.seq.toNat * 2 ^ 24 + k.faultoff.toNat * 2 ^ 32)

/-- cpystat: the queue's status word, which it clears (R144, R176). -/
def execCpystat (c : CtxId) (d : SReg) (q : Fin 4) (s : State) : Host.Outcome State Fault Refusal :=
  issue c (insn 0xC1 [d.val] q.val) (fun s _ =>
    let k := tblGet CpyStat.clear (s.ctx c).cpystat q.val
    .ok (s.updCtx c fun x =>
      { x.setS d.val (TWord.int (cpyStatWord k)) with cpystat := tblSet CpyStat.clear x.cpystat q.val CpyStat.clear }) .seq) s

/-- Whether a slot has a copy between issue and completion on a queue. -/
def queueOpen (s : State) (c : CtxId) (q : Nat) : Bool := ((s.eng c.eng.val).queue q).any fun k => k.slot == c.slot.val

/-- cpywait: waits in WAIT_COPY until the context's copies on the queue have completed (R144). -/
def execCpywait (c : CtxId) (q : Fin 4) (s : State) : Host.Outcome State Fault Refusal :=
  issue c (insn 0xC2 [] q.val) (fun s _ =>
    if queueOpen s c q.val then .ok (s.updCtx c fun y => { y with state := .waitCopy, wait := .cpywait q.val }) .wait
    else .ok s .seq) s

/-- fence: waits, in WAIT_COPY, for every earlier access and copy of the context (R147); accesses complete at issue in this
model, so only copies are waited for. -/
def execFence (c : CtxId) (s : State) : Host.Outcome State Fault Refusal :=
  issue c (insn 0xCA [] 0) (fun s _ =>
    if copiesOpen s c then .ok (s.updCtx c fun y => { y with state := .waitCopy, wait := .fence }) .wait
    else .ok s .seq) s

/-! ## Events of waiting contexts (R89, R157) -/

/-- Whether a copy is still between issue and completion on the engine. -/
def copyLive (s : State) (e : Nat) (id : Nat) : Bool := (s.eng e).queues.any fun q => q.2.any fun k => k.id == id

/-- The context becomes READY. -/
def makeReady (s : State) (c : CtxId) : State := s.updCtx c fun x => { x with state := .ready, wait := .none }

/-- CONTEXT_READY: the event a context waits for has come and it becomes READY (R157). No effect while the event is
outstanding. -/
def execContextReady (c : CtxId) (s : State) : Host.Outcome State Fault Refusal :=
  let x := s.ctx c
  let e := s.eng c.eng.val
  match x.wait with
  | .done => .next (makeReady s c)
  | .queue q =>
    match nextWait e q with
    | some w =>
      if (e.queue q).length < 64 ∧ w.slot = c.slot.val then
        let s := s.setEng c.eng.val { e with queueQ := e.queueQ.erase w }
        .next (issueCopy (makeReady (wakePast s c) c) c w.ord q w.copy)
      else .next s
    | none => .next s
  | .cpywait q => if queueOpen s c q then .next s else .next (makeReady (wakePast s c) c)
  | .fence => if copiesOpen s c then .next s else .next (makeReady (wakePast s c) c)
  | .order => if copiesOpen s c then .next s else .next (makeReady s c)
  | .ordCopy id => if copyLive s c.eng.val id then .next s else .next (makeReady s c)
  | _ => .next s

/-- ORDERED_START: an instruction with the ordered prefix starts once the context's earlier accesses and copies have completed
(R89). No effect while one is outstanding. -/
def execOrderedStart (c : CtxId) (s : State) : Host.Outcome State Fault Refusal :=
  match (s.ctx c).wait with
  | .order =>
    if copiesOpen s c then .next s else .next (s.updCtx c fun x => { x with state := .running, wait := .none })
  | _ => .next s

end Sys2Proof.Machine
end

