-- ==== Sys2Proof/Machine/Contexts.lean ====
section
/-!
DEFINITION. Contexts as work items: program load and unload (R161, R162), the checks and placement of a start request (R163 to
R166), the context state record (R168), derive slots at the end of an item (R127), and the completion of a context's item
(R167, R574).
-/

namespace Sys2Proof.Machine

/-! ## Region-table generations (R127, R325, R337, R338) -/

/-- An entry and every entry in use whose parent chain contains it at the generation that the chain names (R325); `fuel` bounds the chain. -/
def descendants (s : State) : Nat → List Nat → List Nat
  | 0, l => l
  | n + 1, l =>
    let kids := (s.regions.filter fun e => e.2.used && !l.contains e.1 && match e.2.parent with
      | some p => l.contains p && (s.region p).gen == e.2.pgen
      | none => false).map (·.1)
    if kids.isEmpty then l else descendants s n (l ++ kids)

/-- Put an entry of the reserve into the derive slot that a retired entry leaves, those that a reset returned last; an empty reserve leaves it
unfilled (R127). -/
def refillSlot (s : State) (k : Nat) : State :=
  if s.deriveRsv < 65536 then
    { s with deriveFill := tblSet none s.deriveFill k (some (some (0x18000 + s.deriveRsv))), deriveRsv := s.deriveRsv + 1 }
  else match s.deriveBack with
    | i :: is => { s with deriveFill := tblSet none s.deriveFill k (some (some i)), deriveBack := is }
    | [] => { s with deriveFill := tblSet none s.deriveFill k (some none) }

/-- An entry of the derive slots or of their reserve (R325). -/
def isDerive (i : Nat) : Bool := within 0x8000 0x27FFF i

/-- A device warm reset returns retired entries at generation 0, those of derive slots to the reserve, and fills unfilled slots from it (R127,
R338). -/
def returnRetired (s : State) : State :=
  let back := (s.regions.filter fun e => e.2.retired && isDerive e.1).map (·.1)
  let gone (e : Nat × Region) : Option (Nat × Region) := if e.2.retired ∨ e.2 = Region.free then none else some e
  let s := { s with regions := s.regions.filterMap gone, deriveBack := s.deriveBack ++ back }
  (s.deriveFill.filter fun e => e.2 == some none).foldl (fun s e => refillSlot s e.1) s

/-- The derive slot that an entry fills. -/
def slotOfEntry (s : State) (i : Nat) : Option Nat :=
  if 0x8000 ≤ i ∧ i < 0x18000 ∧ tblGet none s.deriveFill (i - 0x8000) = none then some (i - 0x8000)
  else (s.deriveFill.find? fun e => e.2 == some (some i)).map (·.1)

/-- The record that a generation value of an entry is retired now (R260). Records older than the longest horizon, 100 ms, are let go. -/
def State.passGen (s : State) (i : Nat) (g : BitVec 16) : State :=
  { s with retired := (s.retired.filter fun e => !(e.1 == i && e.2.1 == g) && decide (s.time < e.2.2 + 100000000)) ++ [(i, g, s.time)] }

/-- Advance an entry's generation; one that would wrap is retired, but a directory entry restarts at 0 (R127, R325, R338). -/
def bumpGen (s : State) (i : Nat) : State :=
  let r := s.region i
  let s := s.passGen i r.gen
  if r.gen = 0xFFFF#16 then
    if i ≥ 0xFF000 then s.setRegion i { r with gen := 0 }
    else
      let s := s.setRegion i { r with used := false, retired := true }
      match slotOfEntry s i with
      | some k => refillSlot s k
      | none => s
  else s.setRegion i { r with gen := r.gen + 1 }

/-- Free an entry, keeping its generation. -/
def freeEntry (s : State) (i : Nat) : State :=
  let r := s.region i
  s.setRegion i { Region.free with gen := r.gen, retired := r.retired }

/-- Free the derive slots a context slot has taken; every entry derived from them goes stale, and is freed when the item of its own context
completes (R127). -/
def freeDerives (s : State) (c : CtxId) : State :=
  let own := ((List.range 64).filterMap (deriveEntry s c)).filter fun i => (s.region i).used
  let s := (descendants s s.regions.length own).foldl bumpGen s
  own.foldl freeEntry s

/-! ## Program load (R161, R162) -/

/-- The status a LOCAL source word gives a program load (R161). -/
def loadWordStatus (w : TWord) : Status :=
  if w.tag = Tag.poison ∨ w.tag = Tag.rsvd then stPoison
  else if w.tag = Tag.handle then stTag
  else stOk

/-- The checks of a program-load request, in order (R161). -/
def progLoadStatus (s : State) (i : Item) : Status :=
  let src := i.ref 0
  let dst := i.ref 1
  let len := (i.w 4).toNat
  let p := dst.loc.base.toNat + (i.w 3).toNat
  if src.st ≠ stOk then src.st
  else if dst.st ≠ stOk then dst.st
  else if dst.loc.kind ≠ .local_ ∨ hasRight dst.h rightWr = false ∨ hasRight dst.h rightEx = false then stRights
  else if hasRight src.h (if src.loc.kind = .local_ then rightRd else rightCpin) = false then stRights
  else if (i.w 3).toNat % 8 ≠ 0 ∨ len % 8 ≠ 0 ∨ dst.loc.holds (i.w 3) len 1 = false ∨ src.loc.holds (i.w 1) len 1 = false then
    stRights
  -- while a region is armed, a load into it is refused (R262)
  else if s.arms.any fun a =>
      let r := s.region a.1
      r.kind == .local_ && decide (r.base.toNat < p + len) && decide (p < r.base.toNat + r.len.toNat) then stRights
  else if (s.mem.tags.any fun e => e.2 == Tag.code && decide (p / 8 ≤ e.1) && decide (e.1 < (p + len) / 8)) then stTag
  else stOk

/-- Tag loaded words CODE (R161). -/
def codeWords (n : Nat) (bs : List Byte) : List TWord :=
  (List.range n).map fun k => ⟨BitVec.ofNat 64 (natOfBytes ((bs.drop (8 * k)).take 8)), Tag.code⟩

/-- PROG_LOAD: firmware checks the request, copies the bytes and tags every destination word CODE. A source word that fails, or
a failed read of an external source (`st`, after the bytes `data`), resets the words already loaded to zero (R161). The bytes of
an external source are an input of the command. -/
def execProgLoad (id : Nat) (data : List Byte) (st : BitVec 16) (s : State) : Host.Outcome State Fault Refusal :=
  .next (s.request id 0x0101 fun i =>
    let bad := progLoadStatus s i
    if bad ≠ stOk then s.done i bad
    else
      let src := i.ref 0
      let len := (i.w 4).toNat
      let p := (i.ref 1).loc.base.toNat + (i.w 3).toNat
      if src.loc.kind = .local_ then
        let a := src.loc.base.toNat + (i.w 1).toNat
        let s := s.settle a len
        let n := if len = 0 then 0 else (a + len - 1) / 8 - a / 8 + 1
        match (List.range n).find? fun k => loadWordStatus (s.mem.word (a / 8 * 8 + 8 * k)) ≠ stOk with
        | some k =>
          (s.zeroMem p ((a / 8 * 8 + 8 * k - a) / 8 * 8)).done i (loadWordStatus (s.mem.word (a / 8 * 8 + 8 * k)))
        | none => (s.putWords p (codeWords (len / 8) (s.mem.bytes a len))).done i stOk
      else if st ≠ stOk then (s.zeroMem p (min data.length len / 8 * 8)).done i st
      else if data.length ≠ len then s
      else (s.putWords p (codeWords (len / 8) data)).done i stOk)

/-- Whether two ranges overlap. -/
def overlaps (a n b m : Nat) : Bool := decide (a < b + m) && decide (b < a + n) && decide (0 < n) && decide (0 < m)

/-- PROG_UNLOAD: every CODE word of the region becomes zero and NIL, unless a resident context runs from it (R162). -/
def execProgUnload (id : Nat) (s : State) : Host.Outcome State Fault Refusal :=
  .next (s.request id 0x0102 fun i =>
    let r := i.ref 0
    let st := r.check [.local_] [rightWr, rightEx]
    let a := r.loc.base.toNat
    let n := r.loc.len.toNat
    if st ≠ stOk then s.done i st
    else if s.allCtx.any fun (_, x) => x.state != .free &&
        overlaps a n (s.region (hIndex x.code)).base.toNat (s.region (hIndex x.code)).len.toNat then s.done i stRights
    else
      let ws := (s.mem.tags.filter fun e => e.2 == Tag.code && decide (a ≤ 8 * e.1) && decide (8 * e.1 < a + n)).map (·.1)
      (ws.foldl (fun s w => s.putWord (8 * w) TWord.zero) s).done i stOk)

/-! ## Start records (R163 to R166) -/

/-- Words of a start record that are in use as handles. -/
def startHandles (ws : List TWord) : List TWord :=
  let fl := bitsOf (wd ws 0).bits 24 8
  [wd ws 1] ++ (if fl / 4 % 2 = 1 then [wd ws 6] else []) ++ (if fl / 8 % 2 = 1 then [wd ws 7] else [])

/-- FLAGS bits of a start record: REPLAYABLE 0, SRPRESET 1, SAVE 2, RESUME 3 (R163). -/
def startFlag (ws : List TWord) (n : Nat) : Bool := bitsOf (wd ws 0).bits (24 + n) 1 == 1

/-- Step 2 of R164. -/
def startFieldsOk (ws : List TWord) : Bool :=
  let w := (wd ws 0).bits
  decide (bitsOf w 8 8 = 1) && within 1 1 (bitsOf w 16 4) &&
  reservedOk (bitsOf w 0 8) (bitsOf w 20 4 == 0 && bitsOf w 28 4 == 0 && bitsOf w 39 8 == 0 && bitsOf w 48 16 == 0 && bitsOf (wd ws 4).bits 32 32 == 0)

/-- Step 3 of R164: the tag rules of R163. -/
def startTagsOk (ws : List TWord) : Bool :=
  let want (i : Nat) (used : Bool) : Bool := (wd ws i).tag == (if used then Tag.handle else Tag.nil)
  ([0, 2, 3, 4, 5].all fun i => tagIntNil (wd ws i).tag) && want 1 true && want 6 (startFlag ws 2) && want 7 (startFlag ws 3) &&
  ((List.range 16).all fun i => (wd ws (8 + i)).tag == Tag.handle || (wd ws (8 + i)).tag == Tag.nil) &&
  ((List.range 8).all fun i => (wd ws (24 + i)).tag != Tag.code)

/-- Whether a handle names a LOCAL region of a Peck with a right and a least length (R164 step 5). -/
def localWith (s : State) (w : TWord) (p right len : Nat) : Bool :=
  match s.current w.bits with
  | some r => r.kind == .local_ && hasRight w.bits right && decide (len ≤ r.len.toNat) && r.peck.toNat == p
  | none => false

/-- Length of a context state record (R168). -/
def stateRecLen : Nat := 35456

/-- Engines a Peck holds. -/
def State.heldEngines (s : State) (p : Nat) : List Nat := (List.range 128).filter fun e => (s.eng e).peck.toNat == p

/-- The engine that a start request names, or some engine, is held by its Peck (R164). -/
def startHeld (s : State) (p : Nat) (w : Word) : Bool :=
  if bitsOf w 47 1 = 1 then !(s.heldEngines p).isEmpty else (s.eng (bitsOf w 32 7)).peck.toNat == p

/-- The checks of R164 on a start record, in order. -/
def startStatus (s : State) (p : Nat) (ws : List TWord) : Status :=
  let w := (wd ws 0).bits
  if anyPoison ws then stPoison
  else if startFieldsOk ws = false then stUndef
  else if startTagsOk ws = false then stTag
  else if (startHandles ws).any fun h => (s.current h.bits).isNone then stStale
  else if localWith s (wd ws 1) p rightEx 0 = false ∨ (startFlag ws 2 ∧ localWith s (wd ws 6) p rightWr stateRecLen = false) ∨
      (startFlag ws 3 ∧ localWith s (wd ws 7) p rightRd stateRecLen = false) then stRights
  else if startHeld s p w = false then stRights
  else stOk

/-- Whether an S word may stand in a state record (R166). -/
def resumeTag (w : TWord) : Bool := w.tag != Tag.code && w.tag != Tag.rsvd

/-- The checks of R166 on the record that RESUME names: POISON first (R573), version, then tags. An S word tagged 0xE is the tag fault that R166
names. POISON or 0xE in any other of words 0 to 79 refuses the record, in the words whose tags R166 does not name too (DEDUCED, assumption 85). -/
def resumeStatus (ws : List TWord) : Status :=
  if anyPoison (ws.take 8 ++ (ws.drop 40).take 40) ∨ (((ws.drop 8).take 32).any fun w => w.tag == Tag.poison) then stPoison
  else if bitsOf (wd ws 0).bits 8 8 ≠ 1 then stUndef
  else if ((List.range 16).any fun i => (wd ws (40 + i)).tag != Tag.handle && (wd ws (40 + i)).tag != Tag.nil) ∨
      ((List.range 32).any fun i => !resumeTag (wd ws (8 + i))) ∨
      ((List.range 64).any fun i => let t := bitsOf (wd ws (72 + i / 8)).bits (8 * (i % 8)) 8; t == 0xD || decide (t ≥ 0x10)) then stTag
  else stOk

/-- A word list as one number, the first word lowest. -/
def joinWords : List TWord → Nat
  | [] => 0
  | w :: ws => w.bits.toNat + 2 ^ 64 * joinWords ws

/-- A V register of a state record (R168): a lane or scale word that memory lost makes the register POISON. -/
def resumeV (ws : List TWord) (i : Nat) : VVal :=
  let t := bitsOf (wd ws (72 + i / 8)).bits (8 * (i % 8)) 8
  let sc := (ws.drop (80 + 4 * i)).take 4
  let ln := (ws.drop (336 + 64 * i)).take 64
  let tag : VTag := if anyPoison sc ∨ (t ≠ 0xE ∧ anyPoison ln) ∨ t = 0xE then .poison
    else match fmtOfCode t with
      | some f => .fmt f
      | none => .nil
  ⟨BitVec.ofNat 4096 (joinWords ln), BitVec.ofNat 256 (joinWords sc), tag⟩

/-- The context a start record starts, before its slot is known (R95, R163, R166). -/
def startCtx (s : State) (i : Item) (ws res : List TWord) : Ctx :=
  let tab (f : Nat → TWord) (n : Nat) : List (Nat × TWord) :=
    (List.range n).foldl (fun t k => tblSet TWord.zero t k (f k)) []
  let x := { Ctx.free with
    state := .running, peck := BitVec.ofNat 8 i.fn, isa := BitVec.ofNat 4 (bitsOf (wd ws 0).bits 16 4),
    code := (wd ws 1).bits, cyc0 := s.qcycles, item := some i.id, start := ws, replayable := startFlag ws 0,
    save := if startFlag ws 2 then (s.current (wd ws 6).bits).map (locOf (wd ws 6).bits) else none }
  if startFlag ws 3 then
    { x with
      pc := (wd res 2).bits, flg := (wd res 3).bits &&& 0xFF, srkey := (wd res 4).bits,
      srstream := BitVec.ofNat 32 (bitsOf (wd res 5).bits 0 32), srstep := (wd res 6).bits,
      s := tab (fun k => wd res (8 + k)) 32, h := tab (fun k => wd res (40 + k)) 16,
      m := (List.range 8).foldl (fun t k => tblSet 0 t k (BitVec.ofNat 128 (joinWords ((res.drop (56 + 2 * k)).take 2)))) [],
      v := (List.range 64).foldl (fun t k => tblSet VVal.zero t k (resumeV res k)) [] }
  else
    let pre := startFlag ws 1
    { x with
      pc := (wd ws 2).bits, srkey := if pre then (wd ws 3).bits else 0,
      srstream := if pre then BitVec.ofNat 32 (bitsOf (wd ws 4).bits 0 32) else 0, srstep := if pre then (wd ws 5).bits else 0,
      s := tab (fun k => wd ws (24 + k)) 8,
      h := tab (fun k => if (wd ws (8 + k)).tag = Tag.nil then TWord.zero else wd ws (8 + k)) 16 }

/-! ## Placement (R165) -/

/-- Sampler engines of a Peck (R239): the NSAMP lowest-numbered it holds. -/
def samplerEngines (s : State) (p : Nat) : List Nat := (s.heldEngines p).take (bitsOf (s.reg (rGenPeck p)) 0 8)

/-- Reduction engines of a Peck (R227): the NRED highest-numbered it holds. -/
def reduceEngines (s : State) (p : Nat) : List Nat :=
  let es := s.heldEngines p
  es.drop (es.length - bitsOf (s.reg (rRedPeck p)) 0 8)

/-- The lowest free slot that start requests may use: slot 6 of a sampler engine and slot 7 of a reduction engine are withheld
(R165, R227, R239). -/
def freeSlot (s : State) (e : Nat) : Option Nat :=
  let x := s.eng e
  let p := x.peck.toNat
  (List.range 8).find? fun k => (x.ctx k).state == .free && !(k == 6 && (samplerEngines s p).contains e) &&
    !(k == 7 && (reduceEngines s p).contains e)

/-- Contexts resident on an engine. -/
def residents (s : State) (e : Nat) : Nat := ((s.eng e).ctxs.filter fun k => k.2.state != .free).length

/-- Whether an engine's rows await a test, or the engine is withdrawn or under replay, which keeps new contexts off it (R25, R439, R516). -/
def enginePending (s : State) (e : Nat) : Bool :=
  !(s.eng e).avail || bitsOf (s.reg (rIntgPool e)) 55 1 == 1 || s.replays.any fun r => r.eng == e

/-- The engine with the fewest resident contexts, the lowest number on a tie (R165). -/
def fewest (s : State) (es : List Nat) : Option Nat :=
  es.foldl (fun best e => match best with
    | none => some e
    | some b => if residents s e < residents s b then some e else some b) none

/-- The engine on which a start request's context goes (R165, R439). -/
def targetEngine (s : State) (p : Nat) (w : Word) : Option Nat :=
  if bitsOf w 47 1 = 1 then fewest s ((s.heldEngines p).filter fun e => !enginePending s e) else some (bitsOf w 32 7)

/-- Whether a slot is free for a start request now: an engine being reset or waiting for its row test takes none (R187,
R439). -/
def placeFor (s : State) (p : Nat) (w : Word) : Option (Nat × Nat) :=
  match targetEngine s p w with
  | none => none
  | some e => if (s.eng e).resetting || enginePending s e then none else (freeSlot s e).map fun k => (e, k)

/-- Place the context of a start request into a slot; it begins fetching there. -/
def placeCtx (s : State) (i : Item) (e k : Nat) (x : Ctx) : State :=
  (s.setEng e ((s.eng e).setCtx k { x with cyc0 := s.qcycles })).setPhase i.id .active

/-- The record and state record that a start request names, as they are read. -/
def startWords (s : State) (i : Item) : State × List TWord × List TWord :=
  let a := (i.ref 0).loc.base.toNat + (i.w 1).toNat
  let s := s.settle a 256
  let ws := memWords s.mem a 32
  match (if startFlag ws 3 then s.current (wd ws 7).bits else none) with
  | some r => let s := s.settle r.base.toNat stateRecLen; (s, ws, memWords s.mem r.base.toNat (stateRecLen / 8))
  | none => (s, ws, [])

/-- CTX_START: the request's checks in the order of R164 and R166; the context is placed, or the request waits for a slot and
later start requests of its ring wait behind it (R165). -/
def execCtxStart (id : Nat) (s : State) : Host.Outcome State Fault Refusal :=
  .next (s.request id 0x0100 fun i =>
    let r := i.ref 0
    let st := r.check [.local_] [rightRd]
    if st ≠ stOk then s.done i st
    else if r.loc.holds (i.w 1) 256 64 = false then s.done i stRights
    else
      let (s, ws, res) := startWords s i
      let st := startStatus s i.fn ws
      let st := if st = stOk ∧ startFlag ws 3 then resumeStatus res else st
      if st ≠ stOk then s.done i st
      else
        let behind := s.items.any fun j => j.fn == i.fn && j.ring == i.ring && j.typ == i.typ && j.phase == .waiting
        match (if behind then none else placeFor s i.fn (wd ws 0).bits) with
        | some (e, k) => placeCtx s i e k (startCtx s i ws res)
        | none => { s.setPhase id .waiting with starts := s.starts ++ [(id, startCtx s i ws res)] })

/-- CONTEXT_PLACE: the oldest waiting start request of its ring takes a freed slot, and its context, as its record stood at the request's checks, begins
fetching (R165). A request whose engine the Peck has since lost is refused as R164 refuses it. No effect while no slot is free for it. -/
def execContextPlace (id : Nat) (s : State) : Host.Outcome State Fault Refusal :=
  .next (match s.item id with
  | none => s
  | some i =>
    let first := (s.items.find? fun j => j.fn == i.fn && j.ring == i.ring && j.typ == i.typ && j.phase == .waiting).map (·.id)
    match s.starts.find? fun x => x.1 == id with
    | none => s
    | some (_, x) =>
      let w := (wd x.start 0).bits
      if i.typ ≠ 0x0100#16 ∨ first ≠ some id then s
      else if startHeld s i.fn w = false then s.done i stRights
      else match placeFor s i.fn w with
        | some (e, k) => { placeCtx s i e k x with starts := s.starts.filter fun y => y.1 ≠ id }
        | none => s)

/-! ## Context state record (R168) -/

/-- Low and high word of an M register. -/
def mWords (x : BitVec 128) : List TWord := [TWord.int (BitVec.ofNat 64 x.toNat), TWord.int (BitVec.ofNat 64 (x.toNat / 2 ^ 64))]

/-- VTAG code of a V register (R97). -/
def vtagCode : VTag → Nat
  | .fmt f => fmtCode f | .poison => 0xE | .nil => 0xF

/-- The word tag of a V register's lanes in a state record (R168). -/
def vtagTag : VTag → Tag
  | .fmt f => fmtTag f | .poison => Tag.poison | .nil => Tag.nil

/-- The words of a context state record (R168). -/
def stateRecord (s : State) (slot : Nat) (x : Ctx) (st : CtxState) : List TWord :=
  let int (w : Word) := TWord.int w
  [int 0x0100#64, int (cstOf slot x st), int x.pc, int x.flg, int x.srkey, int (x.srstream.setWidth 64), int x.srstep,
   int (BitVec.ofNat 64 ((s.qcycles - x.cyc0) / 4))] ++
  ((List.range 32).map fun i => x.sreg i) ++ ((List.range 16).map fun i => x.hreg i) ++
  ((List.range 8).flatMap fun i => mWords (x.mreg i)) ++
  ((List.range 8).map fun j => int (BitVec.ofNat 64 ((List.range 8).foldl (fun a i => a + vtagCode (x.vreg (8 * j + i)).tag * 2 ^ (8 * i)) 0))) ++
  ((List.range 64).flatMap fun i => (List.range 4).map fun k => int (BitVec.ofNat 64 ((scaleField (x.vreg i)).toNat / 2 ^ (64 * k)))) ++
  ((List.range 64).flatMap fun i => (List.range 64).map fun k =>
    ⟨BitVec.ofNat 64 (laneRead (x.vreg i) (2 * k) + 2 ^ 32 * laneRead (x.vreg i) (2 * k + 1)), vtagTag (x.vreg i).tag⟩)

/-- Write words, leaving CODE words unwritten; the Bool says whether there was one (R45, R574). -/
def writeSkip (s : State) (a : Nat) : List TWord → State × Bool
  | [] => (s, false)
  | w :: ws =>
    if s.mem.tagAt a = Tag.code then let (s, _) := writeSkip s (a + 8) ws; (s, true)
    else writeSkip (s.putWord a w) (a + 8) ws

/-- Write a context's state record to its SAVE region (R168, R574). -/
def saveRecord (s : State) (slot : Nat) (x : Ctx) (st : CtxState) : State × Bool :=
  match x.save with
  | none => (s, false)
  | some l => writeSkip s l.base.toNat (stateRecord s slot x st)

/-! ## The end of a context's item (R167, R574) -/

/-- Empty a slot: its derive slots are freed and its registers return to start values (R127, R186). -/
def freeCtx (s : State) (c : CtxId) : State :=
  let s := freeDerives s c
  s.setEng c.eng.val { (s.eng c.eng.val).setCtx c.slot.val Ctx.free with
    semQ := (s.eng c.eng.val).semQ.filter fun w => w.slot ≠ c.slot.val,
    queueQ := (s.eng c.eng.val).queueQ.filter fun w => w.slot ≠ c.slot.val }

/-- The end of a halted or faulted context's item, with the status of R574: its state record is written and its slot becomes free. RESULT is the
halt value, open for a faulted context; AUX is the PC at the stop (R391). -/
def endCtx (s : State) (c : CtxId) : State :=
  let x := s.ctx c
  let (s, code) := saveRecord s c.slot.val x x.state
  let st := if x.state = .faulted then x.fault else if x.cpyFence ≠ stOk then x.cpyFence else if code then stTag else stOk
  let s := freeCtx s c
  match x.item.bind s.item with
  | none => s
  | some i =>
    if x.state = .halted then s.completeItem i st x.result x.pc
    else
      let (r, s) := s.draw
      s.completeItem i st r x.pc

/-- WORK_ITEM_COMPLETE: once a context has halted or faulted and every copy it issued has completed, its item completes. No effect before, nor
on a context that a service of the device started, nor while a replay of its engine has verdicts outstanding (R167, R520, R574). -/
def execWorkItemComplete (c : CtxId) (s : State) : Host.Outcome State Fault Refusal :=
  let x := s.ctx c
  if (x.state ≠ .halted ∧ x.state ≠ .faulted) ∨ copiesOpen s c ∨ x.held ∨ x.replay ∨ x.item.isNone then .next s
  else .next (endCtx s c)

end Sys2Proof.Machine
end

