-- ==== Sys2Proof/Machine/Storage.lean ====
section
/-!
DEFINITION. Drives and volumes (R408 to R417): their registers, the mapping of blocks, the requests to a volume in order of
overlap, encryption, mirrors, and the failure of a drive.
-/

namespace Sys2Proof.Machine

def stStorBadRecord : Status := 0x0900#16
def stStorVolume : Status := 0x0901#16
def stStorDriveFailed : Status := 0x0902#16
def stStorMedia : Status := 0x0903#16
def stStorMirrorLost : Status := 0x0904#16
def stStorNoFeed : Status := 0x0905#16
def stStorFeedPos : Status := 0x0906#16
def evDriveFailed : BitVec 16 := 0x0600#16
def evDriveAdded : BitVec 16 := 0x0601#16
def evVolDegraded : BitVec 16 := 0x0602#16

def State.drive (s : State) (d : Nat) : Drive := tblGet Drive.reset s.drives d
def State.setDrive (s : State) (d : Nat) (x : Drive) : State := { s with drives := tblSet Drive.reset s.drives d x }
def State.vol (s : State) (v : Nat) : Vol := tblGet Vol.reset s.vols v
def State.setVol (s : State) (v : Nat) (x : Vol) : State := { s with vols := tblSet Vol.reset s.vols v x }

/-! ## Volume registers (R429) -/

def volEn (s : State) (v : Nat) : Bool := bitsOf (s.reg (rVol v)) 0 1 == 1
def volEnc (s : State) (v : Nat) : Bool := bitsOf (s.reg (rVol v)) 1 1 == 1
def volPass (s : State) (v : Nat) : Bool := bitsOf (s.reg (rVol v)) 2 1 == 1
def volPeck (s : State) (v : Nat) : Nat := bitsOf (s.reg (rVol v)) 8 8
def volW (s : State) (v : Nat) : Nat := bitsOf (s.reg (rVol v)) 16 5 + 1
def volU (s : State) (v : Nat) : Nat := 2 ^ bitsOf (s.reg (rVol v)) 24 4
def volKey (s : State) (v : Nat) : Nat := bitsOf (s.reg (rVol v)) 32 12
def volBlocks (s : State) (v : Nat) : Nat := bitsOf (s.reg (rVol2 v)) 0 40
def volMirDir (s : State) (v : Nat) : Nat := bitsOf (s.reg (rVol2 v)) 40 12
def volMirEp (s : State) (v : Nat) : Nat := bitsOf (s.reg (rVol2 v)) 52 12
def extStart (s : State) (v k : Nat) : Nat := bitsOf (s.reg (rExt v k)) 0 40
def extDrive (s : State) (v k : Nat) : Nat := bitsOf (s.reg (rExt v k)) 40 5

/-- The drive and LBA of a volume block (R411). -/
def blockAt (s : State) (v n : Nat) : Nat × Nat :=
  let u := volU s v
  let w := volW s v
  let k := n / u % w
  (extDrive s v k, extStart s v k + n / u / w * u + n % u)

/-- Volumes that are enabled. -/
def enabledVols (s : State) : List Nat := (List.range 1024).filter (volEn s)

/-- Enabled volumes with a member on a drive. -/
def volsOnDrive (s : State) (d : Nat) : List Nat :=
  (enabledVols s).filter fun v => (List.range (volW s v)).any fun k => extDrive s v k == d

/-! ## Requests (R413) -/

/-- Whether two requests must be ordered: same volume, common blocks, one of them a write. -/
def vreqsClash (a b : VReq) : Bool :=
  a.vol == b.vol && decide (a.blk < b.blk + b.n) && decide (b.blk < a.blk + a.n) && !(a.kind == .read && b.kind == .read)

/-- Whether an earlier accepted request holds a request back. -/
def vreqBlocked (s : State) (r : VReq) : Bool := s.vreqs.any fun x => decide (x.id < r.id) && vreqsClash x r

def State.vreq (s : State) (id : Nat) : Option VReq := s.vreqs.find? fun r => r.id == id
def State.updVreq (s : State) (id : Nat) (f : VReq → VReq) : State :=
  { s with vreqs := s.vreqs.map fun r => if r.id = id then f r else r }

/-- Record the failure of some blocks of a request: the first failure stands (R177). -/
def vreqFail (r : VReq) (st : Status) (blk : Nat) : VReq :=
  { r with st := if r.st = stOk then st else r.st, bad := some (match r.bad with | some b => min b blk | none => blk) }

/-- A request whose drive commands and mirror have completed leaves the volume with its outcome; the outcome's offset is that
of the lowest block that failed. -/
def vreqSettle (s : State) (id : Nat) : State :=
  match s.vreq id with
  | none => s
  | some r =>
    if r.waiting ∨ r.open_ ≠ 0 ∨ r.mirror.isSome then s
    else
      let off := match r.bad with
        | some b => r.off + (b - r.blk) * 4096
        | none => r.off
      let s := { s with vreqs := s.vreqs.filter fun x => x.id ≠ id }
      if r.dead then s else s.outcome r.user off r.st

/-- The runs of a request on its drives: volume block, count, drive, LBA; one run per stripe unit. -/
def vreqRuns (s : State) (v : Nat) : Nat → Nat → Nat → List (Nat × Nat × Nat × Nat)
  | 0, _, _ => []
  | fuel + 1, blk, n =>
    if n = 0 then []
    else
      let u := volU s v
      let c := min n (u - blk % u)
      let (d, lba) := blockAt s v blk
      (blk, c, d, lba) :: vreqRuns s v fuel (blk + c) (n - c)

/-- NVMe opcodes of a drive command. -/
def driveOp : VKind → Nat
  | .write => 1 | .zeroes => 1 | .read => 2 | .dealloc => 9

/-- Blocks as they are stored: encrypted under the slot's key with the block number as tweak (R414). -/
def sealBlocks (key : List Byte) (blk : Nat) (data : List Byte) : List Byte :=
  (List.range (data.length / 4096)).flatMap fun i => ofNats (xts false (toNats key) (blk + i) (toNats ((data.drop (4096 * i)).take 4096)))

/-- Blocks as they are read. -/
def openBlocks (key : List Byte) (blk : Nat) (data : List Byte) : List Byte :=
  (List.range (data.length / 4096)).flatMap fun i => ofNats (xts true (toNats key) (blk + i) (toNats ((data.drop (4096 * i)).take 4096)))

/-- Issue the drive commands of a request's runs. -/
def driveRuns (r : VReq) (data : List Byte) : List (Nat × Nat × Nat × Nat) → State → State
  | [], s => s
  | (blk, n, d, lba) :: rs, s =>
    if (s.drive d).state ≠ .ready then driveRuns r data rs (s.updVreq r.id fun x => vreqFail x stStorDriveFailed blk)
    else
      let id := s.nextDcmd
      let pay := (data.drop ((blk - r.blk) * 4096)).take (n * 4096)
      let s := { s with nextDcmd := id + 1, dcmds := s.dcmds ++ [(⟨id, d, r.id, blk, n, s.time⟩ : DriveCmd)] }
      driveRuns r data rs ((s.updVreq r.id fun x => { x with open_ := x.open_ + 1 }).emit (.drive d id (driveOp r.kind) lba n pay))

/-- The mirror device's SEND of a write (R416): IMM the request number, the first block number, the blocks as stored. A mirror
handle that is not a current REMOTE endpoint with WR, or no port, loses the mirror. -/
def mirrorSend (s : State) (r : VReq) (data : List Byte) : State :=
  let p := volPeck s r.vol
  let w := s.dirWord p (volMirDir s r.vol)
  let ref := resolve s w
  let num := (s.vol r.vol).next
  let s := s.setVol r.vol { s.vol r.vol with next := num + 1 }
  if ref.check [.remote] [rightWr] ≠ stOk ∨ remIsEp ref.loc = false ∨ anyUp s = false then
    (s.updVreq r.id fun x => { x with mirror := some (num, s.time) }).outcome (.mirror r.id num) 0 stStorMirrorLost
  else
    let m := newMsg .send p ref.loc 0 0 (16 + data.length) (wymPsize s) none false none (.mirror r.id num) 0
      (.sendBytes (BitVec.ofNat 64 num) (bytesOf 8 r.blk ++ data))
    dealMsg (s.updVreq r.id fun x => { x with mirror := some (num, s.time) }) (1000 + r.vol) ref.loc.raddr m

/-- Start an accepted request: the volume's state, the key slot, the drive commands and the mirror (R411 to R416). -/
def vreqStart (s : State) (id : Nat) : State :=
  match s.vreq id with
  | none => s
  | some r =>
    let s := s.updVreq id fun x => { x with waiting := false }
    let v := r.vol
    let st := (s.vol v).state
    if volEn s v = false ∨ st = .off ∨ st = .failed ∨ r.blk + r.n > volBlocks s v then
      vreqSettle (s.updVreq id fun x => vreqFail x stStorVolume r.blk) id
    else
      let crypt := volEnc s v && !r.raw && r.kind != .dealloc
      let (kst, _, s) := if crypt then keyReserve s (volKey s v) r.n [3] useVol else (stOk, 0, s)
      if kst ≠ stOk then vreqSettle (s.updVreq id fun x => vreqFail x kst r.blk) id
      else
        let plain := if r.kind = .zeroes then List.replicate (r.n * 4096) 0 else r.data
        let data := if r.kind = .read ∨ r.kind = .dealloc then [] else if crypt then sealBlocks (s.key (volKey s v)).key r.blk plain else plain
        let s := driveRuns r data (vreqRuns s v r.n r.blk r.n) s
        let s := if (r.kind = .write ∨ r.kind = .zeroes) ∧ volMirDir s v ≠ 0 ∧ st = .online ∧ !r.raw then mirrorSend s r data else s
        vreqSettle s id

/-- Largest volume request of a transfer, in blocks (DESIGN CHOICE: the manual gives no size; a mirror SEND must fit one
message at every PSIZE). -/
def vreqMax : Nat := 16

/-- Accept a request to a volume; it starts unless an overlapping one holds it (R413). -/
def vreqAdd (s : State) (v : Nat) (kind : VKind) (blk n : Nat) (data : List Byte) (u : User) (off : Nat) (raw : Bool) : State :=
  let r : VReq := ⟨s.nextVreq, v, kind, blk, n, data, u, off, true, 0, stOk, none, none, raw, false, false⟩
  let s := { s with nextVreq := r.id + 1, vreqs := s.vreqs ++ [r] }
  if vreqBlocked s r then s else vreqStart s r.id

/-- Accept a run of blocks as requests of at most `vreqMax` blocks; their number comes with the state. -/
def vreqRun (kind : VKind) (v : Nat) (u : User) : Nat → Nat → Nat → List Byte → Nat → State → State × Nat
  | 0, _, _, _, _, s => (s, 0)
  | fuel + 1, blk, n, data, off, s =>
    if n = 0 then (s, 0)
    else
      let c := min n vreqMax
      let s := vreqAdd s v kind blk c (data.take (c * 4096)) u off false
      let (s, k) := vreqRun kind v u fuel (blk + c) (n - c) (data.drop (c * 4096)) (off + c * 4096) s
      (s, k + 1)

/-- The mirror exchange of a request ends (R416, R417): a failure completes it with ST_STOR_MIRROR_LOST and degrades the
volume. -/
def mirrorEnd (s : State) (id num : Nat) (st : Status) : State :=
  match s.vreq id with
  | none => s
  | some r =>
    if r.mirror.map (·.1) ≠ some num then s
    else if st = stOk then vreqSettle (s.updVreq id fun x => { x with mirror := none }) id
    else
      let s := s.updVreq id fun x => { x with mirror := none, st := if x.st = stOk then stStorMirrorLost else x.st }
      let s := if (s.vol r.vol).state = .online then
          let s := s.setVol r.vol { s.vol r.vol with state := .degraded }
          let a0 := BitVec.ofNat 64 r.vol
          (s.mgrEvent sevWarn evVolDegraded a0 (BitVec.ofNat 64 num)).peckEvent (volPeck s r.vol) sevWarn evVolDegraded a0 (BitVec.ofNat 64 num)
        else s
      vreqSettle s id

/-! ## Drive failures (R410) -/

/-- Fail one outstanding drive command; STOR_DRVERR counts it. -/
def failDcmd (s : State) (c : DriveCmd) (st : Status) : State :=
  let s := { s with dcmds := s.dcmds.filter fun x => x.id ≠ c.id }
  let s := s.setDrive c.drive { s.drive c.drive with errs := (s.drive c.drive).errs + 1 }
  vreqSettle (s.updVreq c.req fun x => vreqFail { x with open_ := x.open_ - 1 } st c.blk) c.req

/-- A drive becomes FAILED: its commands fail, its volumes become FAILED and DRIVE_FAILED is raised with an NVMe status or 0. -/
def failDrive (s : State) (d nvme : Nat) : State :=
  if (s.drive d).state ≠ .ready then s
  else
    let s := s.setDrive d { s.drive d with state := .failed }
    let s := (volsOnDrive s d).foldl (fun s v => s.setVol v { s.vol v with state := .failed }) s
    let s := (s.dcmds.filter fun c => c.drive == d).foldl (fun s c => failDcmd s c stStorDriveFailed) s
    s.mgrEvent sevWarn evDriveFailed (BitVec.ofNat 64 d) (BitVec.ofNat 64 nvme)

/-! ## Register writes -/

/-- STOR_DRV_RELEASE: STOR_DRVNS.RELEASE set on an ABSENT or FAILED drive unbinds its number, unless an enabled volume has an
extent there (R408). -/
def execStorDrvRelease (d : Fin 32) (part : RegPart) (v : Word) (s : State) : Host.Outcome State Fault Refusal :=
  let x := s.drive d.val
  whenReady s (
    if bitsOf (mergePart part 0 v) 32 1 = 0 then s
    else if (volsOnDrive s d.val) ≠ [] then s.errWr
    else if x.state = .absent ∨ x.state = .failed then s.setDrive d.val { x with state := .absent, ident := none, blocks := 0, port := 0 }
    else s.errWr)

/-- Whether a Peck number in a register write names no Peck or one that exists (R326). -/
def peckNameOk (s : State) (p : Nat) : Bool := p == 0 || (s.peck p).state != .free

/-- Whether two extents on one drive overlap. -/
def extsOverlap (a n b m : Nat) : Bool := decide (a < b + m) && decide (b < a + n)

/-- The conditions under which EN of a volume may be set (R411). -/
def volCanEnable (s : State) (v : Nat) : Bool :=
  let w := volW s v
  let per := volBlocks s v / w
  let own := (List.range w).map fun k => (extDrive s v k, extStart s v k)
  decide (volBlocks s v % (w * volU s v) = 0) &&
  (own.all fun (d, a) => (s.drive d).state == .ready && decide (a + per ≤ (s.drive d).blocks)) &&
  ((List.range w).all fun k => (List.range k).all fun j =>
    extDrive s v j != extDrive s v k || !extsOverlap (extStart s v j) per (extStart s v k) per) &&
  ((enabledVols s).all fun o => o == v || (List.range (volW s o)).all fun j => own.all fun (d, a) =>
    extDrive s o j != d || !extsOverlap (extStart s o j) (volBlocks s o / volW s o) a per) &&
  peckNameOk s (volPeck s v) && (!volEnc s v || ((s.peck (volPeck s v)).keys.testBit (volKey s v) && volPeck s v != 0))

/-- Whether a root entry names a volume. -/
def volNamed (s : State) (v : Nat) : Bool := s.regions.any fun e => e.2.used && e.2.kind == .volume && e.2.aux.toNat == v

/-- VOLUME_REQUEST_START: a request waiting on an overlapping one proceeds when nothing earlier holds it any longer (R413). -/
def runVolumeStart (id : Nat) (s : State) : State :=
  (match s.vreq id with
  | none => s
  | some r => if r.waiting ∧ vreqBlocked s r = false then vreqStart s id else s)

/-- DRIVE_HOTPLUG: a drive appears on a port with an identity and, when it has a suitable namespace, a size; or it is removed
(R408, R410). -/
def driveHotplug (port : Nat) (ident : Nat) (size : Option Nat) (added : Bool) (s : State) : State :=
  if !added then
    match s.drives.find? fun e => e.2.port == port && e.2.state != .absent && e.2.state != .failed with
    | none => s
    | some (d, x) =>
      if x.state = .ready then (failDrive s d 0) else (s.setDrive d { x with state := .absent })
  else
    let bound := (s.drives.find? fun e => e.2.ident == some ident).map (·.1)
    let d := bound.or ((List.range 32).find? fun d => (s.drive d).ident.isNone)
    match d with
    | none => s
    | some d =>
      let st : DriveState := if size.isSome then .ready else .unsuitable
      let s := s.setDrive d { s.drive d with state := st, port := port, blocks := size.getD 0, ident := some ident }
      (s.mgrEvent sevInfo evDriveAdded (BitVec.ofNat 64 d) (BitVec.ofNat 64 port))

end Sys2Proof.Machine
end

