-- ==== Sys2Proof/Machine/Copies.lean ====
section
/-!
DEFINITION. Copies between issue and completion (R169 to R178): how a copy begins, how its parts are read, written and fail, and
how it completes.
-/

namespace Sys2Proof.Machine

/-! ## The copy as bytes (R171, R177) -/

/-- Rows of a copy: position of the row's first byte, source offset, destination offset. -/
def copyRows (k : Copy) : List (Nat × Nat × Nat) :=
  if k.len = 0 then [] else (List.range (max 1 k.rows)).map fun r =>
    (r * k.len, k.srcOff.toNat + r * k.sstride, k.dstOff.toNat + r * k.dstride)

/-- Bytes of a copy. -/
def copyTotal (k : Copy) : Nat := k.len * max 1 k.rows

/-- The reference side's offset of byte 0 (R177). -/
def copyRef (k : Copy) : Nat :=
  if k.dst.kind = .local_ then k.dstOff.toNat
  else match k.src with
    | some l => if l.kind = .local_ then k.srcOff.toNat else k.dstOff.toNat
    | none => k.dstOff.toNat

/-- FAULTOFF of byte `b` of a copy (R177). -/
def copyWord (k : Copy) (b : Nat) : BitVec 32 := BitVec.ofNat 32 ((copyRef k % 8 + b) / 8)

/-- A failure at byte `b` of a copy: the first stands (R176, R177). -/
def copyFail (k : Copy) (st : Status) (b : Nat) : Copy :=
  if k.status ≠ stOk then k else { k with status := st, fault := copyWord k b }

/-- A failure of the word at address `a`, first reached by byte `b` of the copy: the first status stands, and of the words that it affects the lowest
(R47, R177). -/
def copyFailWord (k : Copy) (st : Status) (b a : Nat) : Copy :=
  if k.status = stOk then { k with status := st, fault := copyWord k b, wordAt := some a }
  else if k.status ≠ st then k
  else match k.wordAt with
    | none => k
    | some w =>
      if a < w then { k with fault := copyWord k b, wordAt := some a }
      else if a = w ∧ (copyWord k b).toNat < k.fault.toNat then { k with fault := copyWord k b }
      else k

/-- The kind of a copy's source; a FILL has none. -/
def copyFrom (k : Copy) : Option HKind := k.src.map (·.kind)

/-- Record the words that a part of a copy found affected: position, address and status of each. -/
def copyFaults (k : Copy) (l : List (Nat × Nat × Status)) : Copy := l.foldl (fun k (b, a, st) => copyFailWord k st b a) k

/-- The bytes of a range that lie outside given words. -/
def bytesMoved (a n : Nat) (bad : List Nat) : Nat := n - (bad.map fun b => min (b + 8) (a + n) - max b a).sum

def State.copy (s : State) (e q id : Nat) : Option Copy := ((s.eng e).queue q).find? fun k => k.id == id

def State.updCopy (s : State) (e q id : Nat) (f : Copy → Copy) : State :=
  s.updEng e fun x => { x.setQueue q ((x.queue q).map fun k => if k.id = id then f k else k) with progress := x.progress + 1 }

/-! ## Inside the device -/

/-- FILL: each word of the destination takes the pattern and the import tag (R171). -/
def runFill (s : State) (k : Copy) : State × Copy :=
  let a := k.dst.base.toNat + k.dstOff.toNat
  let (s, bad) := placeWords s a (List.replicate (k.len / 8) ⟨k.srcOff, k.imp⟩)
  (s, copyFaults { k with moved := bytesMoved a k.len bad } (bad.map fun b => (b - a, b, stTag)))

/-- A copy between two LOCAL regions: every word moves with its tag, POISON too (R44, R435). The source is read before anything
is written. -/
def runLocal (s : State) (k : Copy) (src : Loc) : State × Copy :=
  let (s, rows) := (copyRows k).foldl (fun (s, acc) (p, so, d) =>
    let (s, ws) := readWords s (src.base.toNat + so) k.len
    (s, acc ++ [(p, d, ws)])) (s, ([] : List (Nat × Nat × List TWord)))
  let (s, bad) := rows.foldl (fun (s, acc) (p, d, ws) =>
    let a := k.dst.base.toNat + d
    let (s, bad) := placeWords s a ws
    (s, acc ++ bad.map fun b => (p + (b - a), b, stTag))) (s, ([] : List (Nat × Nat × Status)))
  (s, copyFaults { k with moved := copyTotal k - 8 * bad.length } bad)

/-! ## Reading an external source -/

/-- What a copy still has to read of a host or accelerator region: the requests of its rows (R360). -/
def readParts (s : State) (p : Nat) (k : Copy) (src : Loc) : List (Nat × Nat) :=
  let max := if src.kind = .host then (s.fn (s.fnOf p)).mrrs else 4096
  (copyRows k).flatMap fun (pos, so, _) =>
    (reqChunks (src.base.toNat + so) max (k.len + 1) 0 k.len).map fun (o, n) => (pos + o, n)

/-- The source offset of a byte of a copy. -/
def srcAt (k : Copy) (pos : Nat) : Nat := k.srcOff.toNat + pos / k.len * k.sstride + pos % k.len
/-- The destination offset of a byte of a copy. -/
def dstAt (k : Copy) (pos : Nat) : Nat := k.dstOff.toNat + pos / k.len * k.dstride + pos % k.len

/-- Issue the reads of a copy that its lane group has tags for, in order (R359, R360). -/
def issueReads (e q id : Nat) (deny : List Nat) : Nat → State → State
  | 0, s => s
  | fuel + 1, s =>
    match s.copy e q id with
    | none => s
    | some k =>
      match k.todo, k.src with
      | (pos, n) :: rest, some src =>
        let p := (s.eng e).peck.toNat
        let f := s.fnOf p
        let a := src.base.toNat + srcAt k pos
        let host := src.kind == .host
        let g := if host then upGroup s (vhOf s f) else src.aux.toNat
        if groupReads s g ≥ 4096 then s
        else
          let s := s.updCopy e q id fun k => { k with todo := rest }
          let (s, ok) := if host then translate s f a n deny else (s, true)
          let st := if host then (if ok then stOk else stRights) else accelStatus s g a n
          let s := if st = stOk then
              issueRead (s.updCopy e q id fun k => { k with open_ := k.open_ + 1 }) g f host (BitVec.ofNat 64 a) n (.copy e q id) pos
            else s.updCopy e q id fun k => copyFail k st pos
          issueReads e q id deny fuel s
      | _, _ => s

/-- The messages of READREQs of a copy from a REMOTE region (R270, R277). -/
def readMsgs (s : State) (e q : Nat) (k : Copy) (src : Loc) : State :=
  let ps := wymPsize s
  let p := (s.eng e).peck.toNat
  let parts := (copyRows k).flatMap fun (pos, so, _) => (msgPieces ps k.len).map fun (o, n) => (pos + o, so + o, n)
  let s := s.updCopy e q k.id fun k => { k with open_ := k.open_ + parts.length }
  parts.foldl (fun s (pos, so, n) =>
    dealMsg s e src.raddr (newMsg .read p src k.ordgrp (src.base + BitVec.ofNat 64 so) n ps none false none (.copy e q k.id) pos .none)) s

/-- The volume requests that read a copy's source (R413). -/
def readVols (s : State) (e q : Nat) (k : Copy) (src : Loc) : State :=
  (copyRows k).foldl (fun s (pos, so, _) =>
    let n := k.len / 4096
    let (s, c) := vreqRun .read src.aux.toNat (.copy e q k.id) (n + 1) ((src.base.toNat + so) / 4096) n [] pos s
    s.updCopy e q k.id fun k => { k with open_ := k.open_ + c }) s

/-! ## Writing an external destination -/

/-- The bytes of a copy that are to be written from position `pos` on, and the words of them that memory affects: from LOCAL
memory, or from what was read. -/
def copyData (s : State) (k : Copy) (pos n : Nat) : State × List Byte × List (Nat × Nat × Status) :=
  match k.src with
  | some l =>
    if l.kind = .local_ then
      let a := l.base.toNat + srcAt k pos
      let (s, bs, bad) := exportRange s a n
      (s, bs, bad.map fun (w, st) => (pos + (8 * w - a % 8), a / 8 * 8 + 8 * w, st))
    else (s, (List.range n).map fun i => tblGet (0 : Byte) k.buf (pos + i), [])
  | none => (s, List.replicate n 0, [])

/-- The runs of a row that are written: all of it from device memory, and what was read of an external source (R361, R415); position and
length. -/
def keptParts (k : Copy) (pos n : Nat) : List (Nat × Nat) :=
  if copyFrom k = some .local_ then [(pos, n)]
  else (List.range n).foldl (fun (rs : List (Nat × Nat)) i =>
    if !(k.buf.any fun b => b.1 == pos + i) then rs
    else match rs.getLast? with
      | some (p, c) => if p + c = pos + i then rs.dropLast ++ [(p, c + 1)] else rs ++ [(pos + i, 1)]
      | none => [(pos + i, 1)]) []

/-- Write one part of a copy to a host or accelerator region as write requests (R360, R435). -/
def writePcie (s : State) (e q : Nat) (id : Nat) (deny : List Nat) (pos n : Nat) : State :=
  match s.copy e q id with
  | none => s
  | some k =>
    let p := (s.eng e).peck.toNat
    let f := s.fnOf p
    let a := k.dst.base.toNat + dstAt k pos
    (reqChunks a (s.fn f).mps (n + 1) 0 n).foldl (fun s (o, c) =>
      let host := k.dst.kind == .host
      let (s, ok) := if host then translate s f (a + o) c deny else (s, true)
      let st := if host then (if ok then stOk else stRights) else accelStatus s k.dst.aux.toNat (a + o) c
      let (s, bs, bad) := copyData s k (pos + o) c
      let s := s.updCopy e q id fun k => if st = stOk then copyFaults { k with moved := k.moved + c } bad else copyFail k st (pos + o)
      let ep := bad.any fun w => w.2.2 == stPoison
      if st ≠ stOk then s
      else if host then s.hostWrite p (BitVec.ofNat 64 (a + o)) bs ep
      else s.emit (.accelWrite (s.rid (s.fnOf p)) k.dst.aux.toNat (BitVec.ofNat 64 (a + o)) bs ep)) s

/-- Write one row of a copy to a volume: blocks that hold a POISON word, or that were not read, keep their old contents (R435,
R415). -/
def writeVol (s : State) (e q : Nat) (id pos d : Nat) : State :=
  match s.copy e q id with
  | none => s
  | some k =>
    (List.range (k.len / 4096)).foldl (fun s i =>
      let at_ := pos + i * 4096
      let (s, bs, bad) := copyData s k at_ 4096
      let s := s.updCopy e q id fun k => copyFaults k bad
      if (bad.any fun w => w.2.2 == stPoison) ∨ keptParts k at_ 4096 ≠ [(at_, 4096)] then s
      else
        let s := s.updCopy e q id fun k => { k with open_ := k.open_ + 1, parts := (at_, 4096) :: k.parts }
        vreqAdd s k.dst.aux.toNat .write ((k.dst.base.toNat + d) / 4096 + i) 1 bs (.copy e q id) at_ false) s

/-- The messages of a copy to a REMOTE region (R270, R275): each with its position, destination offset, length and source. -/
def writeParts (s : State) (k : Copy) : List (Nat × Nat × Nat × MsgSrc) :=
  let ps := wymPsize s
  (copyRows k).flatMap fun (pos, so, d) => (keptParts k pos k.len).flatMap fun (p, n) =>
    (msgPieces ps n).map fun (o, c) =>
      let at_ := p + o
      (at_, d + (at_ - pos), c, match k.src with
        | some l => if l.kind = .local_ then MsgSrc.mem (l.base.toNat + so + (at_ - pos))
          else MsgSrc.bytes ((List.range c).map fun i => tblGet (0 : Byte) k.buf (at_ + i))
        | none => .none)

/-- Send a copy's messages. -/
def writeMsgs (s : State) (e q : Nat) (k : Copy) : State :=
  let ps := wymPsize s
  let p := (s.eng e).peck.toNat
  let parts := writeParts s k
  let hold := k.sealed && earlierWrite s k.wr p k.ordgrp k.dst.raddr
  let s := openWrite s k.wr p k.ordgrp k.dst.raddr parts.length
  let s := s.updCopy e q k.id fun k => { k with open_ := k.open_ + parts.length, parts := parts.map fun (pos, _, n, _) => (pos, n) }
  parts.foldl (fun s (pos, d, n, src) =>
    let m := newMsg .write p k.dst k.ordgrp (k.dst.base + BitVec.ofNat 64 d) n ps (some k.wr) k.sealed none (.copy e q k.id) pos src
    dealMsg s e k.dst.raddr { m with held := hold }) s

/-- Write a copy's external destination. -/
def startWrites (s : State) (e q id : Nat) (deny : List Nat) : State :=
  match s.copy e q id with
  | none => s
  | some k =>
    match k.dst.kind with
    | .remote => writeMsgs s e q k
    | .volume => (copyRows k).foldl (fun s (pos, _, d) => writeVol s e q id pos d) s
    | _ => (copyRows k).foldl (fun s (pos, _, _) =>
        (keptParts k pos k.len).foldl (fun s (p, n) => writePcie s e q id deny p n) s) s

/-! ## Beginning a copy (R169) -/

/-- Whether a copy that uses the transport can go on: some port is up, and the ordering table takes its scope (R257, R276). -/
def copyCanSend (s : State) (e : Nat) (k : Copy) : Bool :=
  (copyFrom k ≠ some .remote && k.dst.kind ≠ .remote) ||
  (anyUp s && (k.dst.kind ≠ .remote || scopeFits s (s.eng e).peck.toNat k.ordgrp k.dst.raddr))

/-- Begin a copy, or go on with one. -/
def startCopy (s : State) (e q id : Nat) (deny : List Nat) : State :=
  match s.copy e q id with
  | none => s
  | some k =>
    let s := s.updCopy e q id fun k => { k with phase := .moving }
    match k.src with
    | none =>
      let (s, k') := runFill s k
      s.updCopy e q id fun k => { k with status := k'.status, fault := k'.fault, moved := k'.moved }
    | some src =>
      if src.kind = .local_ then
        if k.dst.kind = .local_ then
          let (s, k') := runLocal s k src
          s.updCopy e q id fun k => { k with status := k'.status, fault := k'.fault, moved := k'.moved }
        else startWrites s e q id deny
      else
        let s := s.updCopy e q id fun k => { k with reading := k.dst.kind ≠ .local_ }
        match src.kind with
        | .remote => readMsgs s e q k src
        | .volume => readVols s e q k src
        | _ =>
          let parts := readParts s (s.eng e).peck.toNat k src
          issueReads e q id deny (parts.length + 1) (s.updCopy e q id fun k => { k with todo := parts })

/-- A copy of a context under replay to an external destination is not started (R517). -/
def copyHeld (s : State) (e : Fin 128) (k : Copy) : Bool := k.dst.kind != .local_ && (s.ctx ⟨e, Fin.ofNat 8 k.slot⟩).replay

/-- COPY_START: the queue's oldest copy that has not begun begins, in issue order (R169); a copy that waits for tags goes on
with its reads, and one that has read its external source goes on to its external destination. `deny` holds the host pages
whose translation the host denies (R364). No effect on a copy that cannot begin now. -/
def runCopyStart (e : Fin 128) (id : Nat) (deny : List Nat) (s : State) : State :=
  match (List.range 4).find? fun q => (s.copy e.val q id).isSome with
  | none => s
  | some q =>
    match s.copy e.val q id with
    | none => s
    | some k =>
      if (s.eng e.val).resetting then s
      else if k.phase = .queued then
        let first := (((s.eng e.val).queue q).find? fun x => x.phase == .queued && !copyHeld s e x).map (·.id)
        (if first = some id ∧ copyHeld s e k = false ∧ copyCanSend s e.val k then startCopy s e.val q id deny else s)
      else if k.todo ≠ [] then (issueReads e.val q id deny (k.todo.length + 1) s)
      else if k.reading ∧ k.open_ = 0 ∧ copyCanSend s e.val k then
        (startWrites (s.updCopy e.val q id fun k => { k with reading := false }) e.val q id deny)
      else s

/-! ## Parts arriving and ending -/

/-- Bytes of a copy's external source arrive: they are placed in LOCAL memory, or held for an external destination. -/
def copyDeliver (s : State) (e q id pos : Nat) (bs : List Byte) : State :=
  match s.copy e q id with
  | none => s
  | some k =>
    if k.dst.kind = .local_ then
      let a := k.dst.base.toNat + dstAt k pos
      let (s, bad) := placeBytes s a bs k.imp
      s.updCopy e q id fun k => copyFaults { k with moved := k.moved + bytesMoved a bs.length bad } (bad.map fun b => (pos + (b - a), b, stTag))
    else s.updCopy e q id fun k => { k with buf := k.buf ++ bs.zipIdx.map fun (b, i) => (pos + i, b) }

/-- A part of a copy has its outcome. -/
def copyOutcome (s : State) (e q id pos : Nat) (st : Status) : State :=
  s.updCopy e q id fun k =>
    let k := { k with open_ := k.open_ - 1 }
    if st = stOk then { k with moved := k.moved + tblGet 0 k.parts pos } else copyFail k st pos

/-! ## Completion (R175, R176) -/

/-- A slot's copy status word takes a failure (R176). -/
def cpyStatFail (c : CpyStat) (k : Copy) : CpyStat :=
  if c.errcount = 0 then ⟨k.status, 1, BitVec.ofNat 8 k.seq, k.fault⟩
  else { c with errcount := if c.errcount = 255 then 255 else c.errcount + 1 }

/-- Take a copy off its queue, with its counters and its slot's status word; `sig` says whether it may signal. -/
def endCopy (s : State) (e : Fin 128) (q : Nat) (k : Copy) (sig : Bool) : State :=
  let s := s.updEng e.val fun x =>
    let x := x.setQueue q ((x.queue q).filter fun y => y.id ≠ k.id)
    { x with cpybytes := x.cpybytes + BitVec.ofNat 64 (if k.status = stOk then copyTotal k else k.moved), progress := x.progress + 1,
             cpyerr := if k.status = stOk then x.cpyerr else x.cpyerr + 1 }
  let c : CtxId := ⟨e, Fin.ofNat 8 k.slot⟩
  let s := if k.status = stOk then s else s.updCtx c fun x =>
    { x with cpystat := tblSet CpyStat.clear x.cpystat q (cpyStatFail (tblGet CpyStat.clear x.cpystat q) k) }
  if k.sig ∧ sig then semAdd s e k.sem (k.sigval.setWidth 64) else s

/-- COPY_COMPLETE: the oldest copy of a queue completes once all its parts have (R169, R175, R176). No effect before. -/
def execCopyComplete (e : Fin 128) (q : Fin 4) (s : State) : Host.Outcome State Fault Refusal :=
  match (s.eng e.val).queue q.val with
  | [] => .next s
  | k :: _ =>
    if k.phase = .queued ∨ k.open_ ≠ 0 ∨ k.todo ≠ [] ∨ k.reading then .next s
    else .next (endCopy s e q.val k true)

/-! ## Fencing (R178, R332, R519) -/

/-- A message's user is a given one: it ends without an outcome and is not transmitted again (R291). -/
def dropMsgs (s : State) (f : User → Bool) : State :=
  (s.msgs.filter fun m => f m.user).foldl (fun s m => endMsg s { m with user := .none } stFenced) s

/-- A fenced user's requests to volumes: their results are discarded (R415). -/
def dropVreqs (s : State) (f : User → Bool) : State :=
  let cut (r : VReq) : Option VReq :=
    if f r.user then (if r.waiting then none else some { r with dead := true, user := .none }) else some r
  { s with vreqs := s.vreqs.filterMap cut }

/-- Everything a user still has outstanding is dropped. -/
def dropUser (s : State) (u : User) : State :=
  let s := dropVreqs (dropMsgs (dropReads s u) (· == u)) (· == u)
  { s with outcomes := s.outcomes.filter fun o => o.1 ≠ u, arrivals := s.arrivals.filter fun o => o.1 ≠ u }

/-- Fence one copy: it completes at once with ST_FENCED or ST_FUNCTION_DISABLED and does not signal (R175, R178). Its item is
marked with the status (R574). -/
def fenceCopy (s : State) (e : Fin 128) (q : Nat) (k : Copy) (st : Status) : State :=
  let s := dropUser s (.copy e.val q k.id)
  endCopy s e q { k with status := st, fault := 0xFFFFFFFF } false

/-- Fence the copies of an engine that a slot (or, for none, any slot) issued. -/
def fenceCopies (s : State) (e : Fin 128) (slot : Option Nat) (st : Status) : State :=
  (List.range 4).foldl (fun s q =>
    (((s.eng e.val).queue q).filter fun k => slot.isNone || slot == some k.slot).foldl (fun s k =>
      (fenceCopy s e q k st).updCtx ⟨e, Fin.ofNat 8 k.slot⟩ fun x => { x with cpyFence := st }) s) s

end Sys2Proof.Machine
end

