-- ==== Sys2Proof/Machine/Feed.lean ====
section
/-!
DEFINITION. The data feed (R422 to R425): the feed record, the shuffled stream of documents, the reading and packing of a batch, and
the position record.
-/

namespace Sys2Proof.Machine

/-! ## The record (R422) -/

def fdByte (ws : List TWord) (i : Nat) : Nat := bitsOf (wd ws (i / 8)).bits (8 * (i % 8)) 8
def fdTokw (ws : List TWord) : Nat := fdByte ws 4
def fdNfile (ws : List TWord) : Nat := fdByte ws 5
def fdNdst (ws : List TWord) : Nat := fdByte ws 6
def fdSeqlen (ws : List TWord) : Nat := bitsOf (wd ws 1).bits 0 32
def fdBatch (ws : List TWord) : Nat := bitsOf (wd ws 1).bits 32 32
def fdNdoc (ws : List TWord) : Nat := (wd ws 2).bits.toNat
def fdSeed (ws : List TWord) : Word := (wd ws 3).bits
def fdSep (ws : List TWord) : Nat := bitsOf (wd ws 4).bits 0 32
def fdEpochs (ws : List TWord) : Nat := bitsOf (wd ws 4).bits 32 32
def fdSlots (ws : List TWord) : Nat := bitsOf (wd ws 9).bits 0 32
/-- A separator follows every document. -/
def fdHasSep (ws : List TWord) : Bool := fdSep ws != 0xFFFFFFFF

/-- The fields of a feed record (R422). -/
def feedFieldsOk (ws : List TWord) : Bool :=
  fdByte ws 1 == 1 && (fdTokw ws == 2 || fdTokw ws == 4) && within 1 16 (fdNfile ws) &&
  within 1 16 (fdNdst ws) && within 16 (2 ^ 20) (fdSeqlen ws) && within 1 65536 (fdBatch ws) &&
  within 1 (2 ^ 40) (fdNdoc ws) && within 1 256 (fdSlots ws) &&
  reservedOk (fdByte ws 0) (decide (fdByte ws 2 < 16) && decide (fdByte ws 3 < 2) && fdByte ws 7 == 0 &&
    bitsOf (wd ws 9).bits 32 32 == 0 && ([11, 12, 13, 14, 15].all fun i => (wd ws i).bits == 0))

/-- A LOCAL handle word of a record with rights and a least length. -/
def recRegion (s : State) (w : TWord) (rights : List Nat) (len : Nat) : Status :=
  if wordPoison w then stPoison
  else if w.tag ≠ Tag.handle then stTag
  else match s.current w.bits with
    | none => stStale
    | some r => if r.kind ≠ .local_ ∨ (rights.any fun x => !hasRight w.bits x) ∨ len > r.len.toNat then stRights else stOk

/-- The base of the region that a handle word names. -/
def regionBase (s : State) (w : TWord) : Nat := (s.region (hIndex w.bits)).base.toNat

/-- The status of one handle word in a list: kinds and a right. -/
def listHandle (s : State) (w : TWord) (kinds : List HKind) (right : Nat) : Status :=
  if wordPoison w then stPoison
  else if w.tag ≠ Tag.handle then stTag
  else match s.current w.bits with
    | none => stStale
    | some r => if !kinds.contains r.kind || !hasRight w.bits right then stRights else stOk

/-- The checks of a feed record, in the order of R389 and R198 (R422); the words of its two lists are examined for POISON before a
field of theirs is read (R573). -/
def feedStatus (s : State) (ws : List TWord) : Status :=
  if anyPoison ws then stPoison
  else if !feedFieldsOk ws then stStorBadRecord
  else if [0, 1, 2, 3, 4, 9, 10, 11, 12, 13, 14, 15].any fun i => !tagIntNil (wd ws i).tag then stTag
  else
    let st := firstBad [recRegion s (wd ws 5) [rightRd] (16 * fdNdoc ws), recRegion s (wd ws 6) [rightRd] (8 * fdNfile ws),
      recRegion s (wd ws 7) [rightRd] (16 * fdNdst ws), recRegion s (wd ws 8) [rightRd, rightWr] 128]
    if st ≠ stOk then st
    else
      let files := memWords s.mem (regionBase s (wd ws 6)) (fdNfile ws)
      let dsts := memWords s.mem (regionBase s (wd ws 7)) (2 * fdNdst ws)
      if anyPoison files ∨ anyPoison dsts then stPoison
      else
        firstBad ((files.map fun w => listHandle s w [.volume] rightRd) ++
          (List.range (fdNdst ws)).map fun i => listHandle s (wd dsts (2 * i)) [.local_, .host, .accel] rightWr)

/-! ## The stream (R423, R424) -/

/-- h of R423: half the smallest even number of bits, at least 2, that counts NDOC documents. -/
def feedH (ndoc : Nat) : Nat := ((List.range 33).find? fun h => decide (1 ≤ h) && decide (ndoc ≤ 2 ^ (2 * h))).getD 20

/-- f of R423. -/
def feedF (seed : Word) (e h x : Nat) : Nat :=
  let (l, r) := [0, 1, 2, 3].foldl (fun (l, r) i =>
    (r, Nat.xor l ((philox seed r (BitVec.ofNat 32 e) (BitVec.ofNat 64 i) 0).toNat % 2 ^ h))) (x / 2 ^ h, x % 2 ^ h)
  l * 2 ^ h + r

/-- perm of R423; `fuel` bounds the walk of the cycle. -/
def feedPerm (seed : Word) (e h ndoc : Nat) : Nat → Nat → Nat
  | 0, y => y
  | fuel + 1, y => let z := feedF seed e h y; if z < ndoc then z else feedPerm seed e h ndoc fuel z

/-- The two words of a sample's index entry (R422, R423). -/
def feedEntry (s : State) (ws : List TWord) (e j : Nat) : List TWord :=
  let h := feedH (fdNdoc ws)
  memWords s.mem (regionBase s (wd ws 5) + 16 * feedPerm (fdSeed ws) e h (fdNdoc ws) (2 ^ (2 * h)) j) 2

/-- The document that an index entry describes: file, token offset and length (R422). -/
def entryDoc (ix : List TWord) : Nat × Nat × Nat := (bitsOf (wd ix 0).bits 44 4, bitsOf (wd ix 0).bits 0 44, bitsOf (wd ix 1).bits 0 32)

/-- The volume region of a file. -/
def feedFile (s : State) (ws : List TWord) (i : Nat) : Region := s.region (hIndex (s.mem.word (regionBase s (wd ws 6) + 8 * i)).bits)

/-- Why a document cannot be read: a POISON index entry (R573), or a document outside its file's region (DEDUCED, log entry 87). -/
def entryStatus (s : State) (ws : List TWord) (ix : List TWord) : Status :=
  let (file, off, len) := entryDoc ix
  if anyPoison ix then stPoison
  else if file ≥ fdNfile ws ∨ (off + len) * fdTokw ws > (feedFile s ws file).len.toNat then stRights
  else stOk

/-- A piece of a batch: tokens of a file, a separator, or the status of a document that cannot be read, at which the walk ends. -/
inductive FeedPiece where
  | doc (file off n : Nat)
  | sep
  | bad (st : Status)
deriving DecidableEq, Repr

/-- A place in the stream: epoch, sample, tokens of the sample done. -/
abbrev FeedPos := Nat × Nat × Nat

/-- The pieces of the next n tokens of the stream and the place after them; the stream ends after the last epoch. -/
def feedPieces (s : State) (ws : List TWord) : Nat → Nat → FeedPos → List FeedPiece × FeedPos
  | 0, _, pos => ([], pos)
  | fuel + 1, n, (e, j, t) =>
    if n = 0 ∨ (fdEpochs ws ≠ 0 ∧ e ≥ fdEpochs ws) then ([], (e, j, t))
    else
      let ix := feedEntry s ws e j
      let (file, off, len) := entryDoc ix
      let st := entryStatus s ws ix
      let next : FeedPos := if j + 1 < fdNdoc ws then (e, j + 1, 0) else (e + 1, 0, 0)
      if st ≠ stOk then ([.bad st], (e, j, t))
      else if t < len then
        let c := min n (len - t)
        let after : FeedPos := if t + c = len ∧ !fdHasSep ws then next else (e, j, t + c)
        let (ps, pos) := feedPieces s ws fuel (n - c) after
        (.doc file (off + t) c :: ps, pos)
      else if fdHasSep ws then
        let (ps, pos) := feedPieces s ws fuel (n - 1) next
        (.sep :: ps, pos)
      else feedPieces s ws fuel n next

/-- Tokens of a batch. -/
def feedTokens (ws : List TWord) : Nat := fdBatch ws * fdSeqlen ws

/-- The pieces of the batch in progress. -/
def batchPieces (s : State) (f : Feed) : List FeedPiece × FeedPos :=
  feedPieces s f.rec_ (2 * feedTokens f.rec_ + 2 * fdNdoc f.rec_ + 2) (feedTokens f.rec_) (f.epoch, f.sample, f.tok)

/-- The blocks that each document piece needs: its place in the read buffer, volume, first block, blocks, and byte range within them. -/
def feedReads (s : State) (ws : List TWord) : List FeedPiece → Nat → List (Nat × Nat × Nat × Nat × Nat × Nat)
  | [], _ => []
  | .sep :: ps, v => feedReads s ws ps v
  | .bad _ :: ps, v => feedReads s ws ps v
  | .doc file off n :: ps, v =>
    let r := feedFile s ws file
    let a := r.base.toNat + off * fdTokw ws
    let len := n * fdTokw ws
    let blocks := (a + len + 4095) / 4096 - a / 4096
    (v, r.aux.toNat, a / 4096, blocks, a % 4096, len) :: feedReads s ws ps (v + blocks * 4096)

def State.feed (s : State) (p id : Nat) : Option Feed := s.feeds.find? fun f => f.peck == p && f.id == id
def State.updFeed (s : State) (p id : Nat) (g : Feed → Feed) : State :=
  { s with feeds := s.feeds.map fun f => if f.peck = p ∧ f.id = id then g f else f }

/-- A feed ends: its item completes with the batches delivered, and its slot is freed (R422). -/
def feedEnd (s : State) (f : Feed) (st : Status) : State :=
  let s := dropUser { s with feeds := s.feeds.filter fun g => !(g.peck == f.peck && g.id == f.id) } (.feed f.peck f.id)
  let s := freeCtx s ⟨Fin.ofNat 128 f.eng, Fin.ofNat 8 f.slot⟩
  match s.item f.item with
  | none => s
  | some i => s.completeItem i st (BitVec.ofNat 64 f.count) 0

/-- The status of the first document of a batch that cannot be read, or ST_OK. -/
def piecesStatus (ps : List FeedPiece) : Status :=
  firstBad (ps.map fun p => match p with | .bad st => st | _ => stOk)

/-- Begin a batch: read the blocks of its documents (R424). -/
def feedRead (s : State) (f : Feed) : State :=
  let ps := (batchPieces s f).1
  if piecesStatus ps ≠ stOk then feedEnd s f (piecesStatus ps)
  else
  let rs := feedReads s f.rec_ ps 0
  let s := s.updFeed f.peck f.id fun f => { f with phase := .reading, open_ := 0, st := stOk }
  rs.foldl (fun s (v, vol, blk, n, _, _) =>
    let (s, c) := vreqRun .read vol (.feed f.peck f.id) (n + 1) blk n [] v s
    s.updFeed f.peck f.id fun f => { f with open_ := f.open_ + c }) s

/-- Tokens of bytes, zero-extended. -/
def toTokens (w : Nat) : Nat → List Byte → List Nat
  | 0, _ => []
  | n + 1, bs => natOfBytes (bs.take w) :: toTokens w n (bs.drop w)

/-- Pack the batch that was read: its INT32 values, the last sequence padded (R424). -/
def feedPack (s : State) (f : Feed) : List Nat :=
  let ws := f.rec_
  let got := s.arrivals.filterMap fun a => if a.1 = .feed f.peck f.id then some a.2 else none
  let byte (o : Nat) : Byte := match got.find? fun a => decide (a.1 ≤ o) && decide (o < a.1 + a.2.length) with
    | some a => a.2.getD (o - a.1) 0
    | none => 0
  let go : List FeedPiece → Nat → List Nat := fun ps v0 =>
    (ps.foldl (fun (acc : List Nat × Nat) pc =>
      match pc with
      | .sep => (acc.1 ++ [fdSep ws], acc.2)
      | .bad _ => acc
      | .doc file off n =>
        let a := (feedFile s ws file).base.toNat + off * fdTokw ws
        let len := n * fdTokw ws
        let blocks := (a + len + 4095) / 4096 - a / 4096
        (acc.1 ++ toTokens (fdTokw ws) n ((List.range len).map fun k => byte (acc.2 + a % 4096 + k)), acc.2 + blocks * 4096)) ([], v0)).1
  let ts := go (batchPieces s f).1 0
  let pad := if ts.length % fdSeqlen ws = 0 then 0 else fdSeqlen ws - ts.length % fdSeqlen ws
  ts ++ List.replicate pad (if fdHasSep ws then fdSep ws else 0)

/-- Write a batch to its destination (R424): LOCAL words take tag INT64. The status is that of the first failure. -/
def feedWrite (s : State) (f : Feed) (bs : List Byte) : State × Status :=
  let ws := f.rec_
  let k := f.batch % fdNdst ws
  let e := regionBase s (wd ws 7) + 16 * k
  let h := s.mem.word e
  let off := (s.mem.word (e + 8)).bits.toNat + f.batch / fdNdst ws % fdSlots ws * (feedTokens ws * 4)
  let st := listHandle s h [.local_, .host, .accel] rightWr
  let r := s.region (hIndex h.bits)
  if st ≠ stOk then (s, st)
  else if off + bs.length > r.len.toNat then (s, stRights)
  else if r.kind = .local_ then
    let (s, bad) := placeBytes s (r.base.toNat + off) bs Tag.int64
    (s, if bad = [] then stOk else stTag)
  else placeRegion' s r off bs
where
  placeRegion' (s : State) (r : Region) (off : Nat) (bs : List Byte) : State × Status :=
    let a := r.base.toNat + off
    let p := f.peck
    (reqChunks a (s.fn (s.fnOf p)).mps (bs.length + 1) 0 bs.length).foldl (fun (s, st) (o, n) =>
      let data := (bs.drop o).take n
      if r.kind = .host then (s.hostWrite p (BitVec.ofNat 64 (a + o)) data false, st)
      else
        let x := accelStatus s r.aux.toNat (a + o) n
        if x = stOk then (s.emit (.accelWrite (s.rid (s.fnOf p)) r.aux.toNat (BitVec.ofNat 64 (a + o)) data false), st)
        else (s, if st = stOk then x else st)) (s, stOk)

/-- The position record after a batch (R425): file and token offset of the next token, sample and epoch. -/
def feedPosition (s : State) (f : Feed) (pos : FeedPos) : List TWord :=
  let (e, j, t) := pos
  let (file, off, len) := entryDoc (feedEntry s f.rec_ e j)
  ([0x0100 + f.id * 65536, f.batch + 1, file, off + min t len, j, (fdSeed f.rec_).toNat, e, 0] : List Nat).map fun n => TWord.int (BitVec.ofNat 64 n)

/-- RESUME (R425): the batch and place of the newer position record, or the status of one that does not match; the words of both
records and of the document's index entry are examined for POISON first (R573). A record of another major version does not match
(R7; DEDUCED, log entry 87). -/
def feedResume (s : State) (ws : List TWord) : Except Status (Nat × FeedPos) :=
  let a := regionBase s (wd ws 8)
  let pr (k : Nat) : List TWord := memWords s.mem (a + 64 * k) 8
  let no (k : Nat) : Nat := (wd (pr k) 1).bits.toNat
  let k := if no 1 > no 0 then 1 else 0
  let w (i : Nat) : Nat := (wd (pr k) i).bits.toNat
  let ix := feedEntry s ws (w 6) (w 4)
  let (file, off, len) := entryDoc ix
  if anyPoison (pr 0) ∨ anyPoison (pr 1) then .error stPoison
  else if w 5 ≠ (fdSeed ws).toNat ∨ w 4 ≥ fdNdoc ws ∨ fdByte (pr k) 1 ≠ 1 then .error stStorFeedPos
  else if anyPoison ix then .error stPoison
  else if w 2 = file ∧ off ≤ w 3 ∧ w 3 ≤ off + len then .ok (no k, (w 6, w 4, w 3 - off))
  else .error stStorFeedPos

/-- The lists and the position records of a feed record are read: errors of the words touched come to light. -/
def feedSettle (s : State) (ws : List TWord) : State :=
  [(6, 8 * fdNfile ws), (7, 16 * fdNdst ws), (8, 128)].foldl (fun s (k, n) =>
    if recRegion s (wd ws k) [rightRd] n = stOk ∧ n ≤ 256 then s.settle (regionBase s (wd ws k)) n else s) s

/-- FEED_START (R422): the checks, a slot as with ANY = 1 (the request waits for one), and the feed begins. -/
def execFeedStart (id : Nat) (s : State) : Host.Outcome State Fault Refusal :=
  .next (s.request id 0x0600 fun i =>
    let r := i.ref 0
    let st := r.check [.local_] [rightRd]
    if st ≠ stOk then s.done i st
    else if r.loc.holds (i.w 1) 128 128 = false then s.done i stRights
    else
      let a := (r.loc.base + i.w 1).toNat
      let s := s.settle a 128
      let ws := memWords s.mem a 16
      let s := feedSettle s ws
      let st := feedStatus s ws
      let fid := fdByte ws 2 % 16
      if st ≠ stOk then s.done i st
      else if (s.feed i.fn fid).isSome then s.done i stDuplicate
      else
        let start : Except Status (Nat × FeedPos) := if bitsOf (wd ws 0).bits 24 1 = 1 then feedResume s ws else .ok (0, (0, 0, 0))
        match start with
        | .error st => s.done i st
        | .ok (b, e, j, t) =>
          match placeFor s i.fn (BitVec.ofNat 64 (2 ^ 47)) with
          | none => s
          | some (eng, k) =>
            let c := { Ctx.free with state := .running, peck := BitVec.ofNat 8 i.fn, item := some id, held := true }
            let s := (s.setEng eng ((s.eng eng).setCtx k c)).setPhase id .active
            let f : Feed := ⟨i.fn, fid, id, eng, k, ws, (wd ws 10).bits.toNat, false, b, e, j, t, 0, .idle, 0, stOk⟩
            { s with feeds := s.feeds ++ [f] })

/-- FEED_ADVANCE (R424): LIMIT rises to the larger value. -/
def execFeedAdvance (id : Nat) (s : State) : Host.Outcome State Fault Refusal :=
  .next (s.request id 0x0601 fun i =>
    let f := (i.w 0).toNat
    if (s.feed i.fn f).isNone then s.done i stStorNoFeed
    else (s.updFeed i.fn f fun f => { f with limit := max f.limit (i.w 1).toNat }).done i stOk)

/-- FEED_STOP (R424): the feed stops after the batch in progress. -/
def execFeedStop (id : Nat) (s : State) : Host.Outcome State Fault Refusal :=
  .next (s.request id 0x0602 fun i =>
    match s.feed i.fn (i.w 0).toNat with
    | none => s.done i stStorNoFeed
    | some f => if f.phase = .idle then (feedEnd s f stOk).done i stOk
      else (s.updFeed i.fn (i.w 0).toNat fun f => { f with stop := true }).done i stOk)

/-- Whether a feed has delivered its epochs. -/
def feedOver (f : Feed) : Bool := fdEpochs f.rec_ != 0 && decide (f.epoch ≥ fdEpochs f.rec_)

/-- A part of a feed's reading has its outcome. -/
def feedOutcome (s : State) (p id : Nat) (st : Status) : State :=
  s.updFeed p id fun f => { f with open_ := f.open_ - 1, st := if f.st = stOk then st else f.st }

/-- FEED_BATCH: the next batch below LIMIT begins with the reading of its documents; once they are read it is packed and written
(R424). No effect while neither can happen. -/
def runFeedBatch (p : Fin 256) (id : Fin 16) (s : State) : State :=
  (match s.feed p.val id.val with
  | none => s
  | some f => match f.phase with
    | .idle => if f.stop ∨ feedOver f then feedEnd s f stOk else if f.batch < f.limit then feedRead s f else s
    | .reading =>
      if f.open_ ≠ 0 then s
      else if f.st ≠ stOk then feedEnd s f f.st
      else
        let ts := feedPack s f
        let (s, st) := feedWrite s f (ts.flatMap fun t => bytesOf 4 t)
        let s := { s with arrivals := s.arrivals.filter fun a => a.1 ≠ .feed f.peck f.id }
        if st ≠ stOk then feedEnd s f st else s.updFeed f.peck f.id fun f => { f with phase := .written }
    | .written => s)

/-- FEED_POSITION_RECORD: after the copies of a batch have completed its position record is written to slot b mod 2 (R425). -/
def execFeedPositionRecord (p : Fin 256) (id : Fin 16) (s : State) : Host.Outcome State Fault Refusal :=
  .next (match s.feed p.val id.val with
  | none => s
  | some f =>
    if f.phase ≠ .written then s
    else
      let pos := (batchPieces s f).2
      let (e, j, t) := pos
      let a := regionBase s (wd f.rec_ 8) + 64 * (f.batch % 2)
      let (s, bad) := placeWords s a (feedPosition s f pos)
      let f' := { f with batch := f.batch + 1, count := f.count + 1, epoch := e, sample := j, tok := t, phase := .idle }
      let s := s.updFeed f.peck f.id fun _ => f'
      if bad ≠ [] then feedEnd s f' stTag
      else if f'.stop ∨ feedOver f' then feedEnd s f' stOk else s)

end Sys2Proof.Machine
end

