-- ==== Sys2Proof/Machine/Revoke.lean ====
section
/-!
DEFINITION. What becomes of a region-table entry whose handles go stale: descendants, arms, Springs and landing bindings (R200, R261,
R337, R393).
-/

namespace Sys2Proof.Machine

/-- Springs whose handle has gone stale are disabled, with SPRING_STALE to the Peck and the manager (R393). -/
def staleSprings (s : State) : State :=
  s.springs.foldl (fun s (k, x) =>
    match x.loc with
    | none => s
    | some l =>
      let r := s.region l.index
      if r.live && r.gen == l.gen then s
      else
        let s := s.setSpring k { s.spring k with en := false, loc := none }
        let a0 := BitVec.ofNat 64 (k % 16 + k / 16 * 256)
        (s.peckEvent (k / 16) sevWarn evSpringStale a0 0).mgrEvent sevWarn evSpringStale a0 0) s

/-- Landing regions whose handle has gone stale are no longer bound (R200). -/
def staleBindings (s : State) : State :=
  let cur (b : Binding) : Bool := (s.region b.index).live && (s.region b.index).gen == b.gen
  { s with bindings := s.bindings.filter cur, landed := s.landed.filter fun l => s.bindings.any fun b => b.index == l.index && cur b }

/-- Everything that follows a change of generations. -/
def afterStale (s : State) : State := staleBindings (staleSprings s)

/-- The first three steps of a revocation of entries: they and every entry derived from them are disarmed and advance their generation. The entries
come with the generations that they had (R337). -/
def revokeSteps (s : State) (l : List Nat) : State × List (Nat × BitVec 16) :=
  let es := descendants s s.regions.length l
  (afterStale (es.foldl (fun s i => bumpGen (s.disarm i) i) s), es.map fun i => (i, (s.region i).gen))

/-- The last step of a revocation: the revoked entries are freed, but for those of derive slots, which are freed with the items of their contexts
(R127, R337). -/
def revokeFree (s : State) (es : List (Nat × BitVec 16)) : State :=
  es.foldl (fun s e => if isDerive e.1 then s else freeEntry s e.1) s

/-- Revoke entries for which nothing is in progress (R337). -/
def revokeEntries (s : State) (l : List Nat) : State :=
  let (s, es) := revokeSteps s l
  revokeFree s es

/-- A resolved region is a given entry at a given generation. -/
def Loc.isEntry (l : Loc) (e : Nat × BitVec 16) : Bool := l.index == e.1 && l.gen == e.2

/-- A copy, queued, moving or waiting for an entry, that passed its check against an entry at a generation (R174). -/
def copyUses (e : Nat × BitVec 16) (k : Copy) : Bool := (k.src.any fun l => l.isEntry e) || k.dst.isEntry e

/-- Work in progress passed its check against an entry at a generation: copies, reads of a service, and sends and atomics whose item is active
(R118, R174). -/
def entryInUse (s : State) (e : Nat × BitVec 16) : Bool :=
  (s.engines.any fun x => (x.2.queues.any fun q => q.2.any (copyUses e)) || x.2.queueQ.any fun w => copyUses e w.copy) ||
  (s.fetches.any fun r => r.loc.isEntry e) ||
  (s.items.any fun i => i.phase == .active && (i.typ == 0x0403#16 || i.typ == 0x0404#16) && i.refs.any fun r => r.loc.isEntry e)

/-- An arm advances an entry's generation and revokes what was derived from it (R260, R261). -/
def advanceEntry (s : State) (i : Nat) : State :=
  let kids := (descendants s s.regions.length [i]).filter fun j => j ≠ i
  let s := kids.foldl (fun s j => bumpGen (s.disarm j) j) s
  let s := revokeFree s (kids.map fun j => (j, 0))
  afterStale ((s.passGen i (s.region i).gen).setRegion i { s.region i with gen := (s.region i).gen + 1 })

end Sys2Proof.Machine
end

