-- ==== Sys2Proof/Machine/Frame.lean ====
section
/-!
DEFINITION. A Wymoug packet as bytes (R3, R253, R264, R266, R269): header, extension, protection by AES-GCM and the UDP checksum.
-/

namespace Sys2Proof.Machine

/-- The 64 bytes of a Wymoug header (R266). -/
def hdrBytes (p : Pkt) : List Byte :=
  bytesOf 1 p.ver.toNat ++ bytesOf 1 p.typ.toNat ++ bytesOf 1 p.flags.toNat ++ bytesOf 1 p.path.toNat ++ bytesOf 4 p.spi.toNat ++
  bytesOf 4 p.sid.toNat ++ bytesOf 4 p.sendts.toNat ++ bytesOf 8 p.msgid.toNat ++ bytesOf 8 p.nonce.toNat ++ bytesOf 4 p.rkey.toNat ++
  bytesOf 2 p.rgen.toNat ++ bytesOf 2 p.ordgrp.toNat ++ bytesOf 8 p.roff.toNat ++ bytesOf 4 p.msglen.toNat ++ bytesOf 2 p.pidx.toNat ++
  bytesOf 2 p.plen.toNat ++ bytesOf 8 p.spec.toNat

/-- The 16 bytes of the extension, when there is one (R269). -/
def extBytes (p : Pkt) : List Byte :=
  match p.ext with
  | none => []
  | some (g, r, q) => bytesOf 4 g.toNat ++ bytesOf 4 r.toNat ++ bytesOf 8 q.toNat

/-- The payload on the wire and the GCM tag of a packet under a key (R264): header and extension are authenticated, and the payload is encrypted with
ENC and authenticated only without. -/
def sealPkt (key : List Byte) (p : Pkt) : List Byte × List Byte :=
  let iv := nonceBytes p.sid.toNat p.nonce.toNat
  let head := toNats (hdrBytes p ++ extBytes p)
  if p.flags.getLsbD 1 then
    let (ct, t) := gcmEnc (toNats key) iv head (toNats p.payload)
    (ofNats ct, ofNats t)
  else (p.payload, ofNats (gcmEnc (toNats key) iv (head ++ toNats p.payload) []).2)

/-- The sum of a byte string's 16-bit words, most significant byte first. -/
def sum16 : List Nat → Nat
  | [] => 0
  | [a] => a * 256
  | a :: b :: l => a * 256 + b + sum16 l

/-- A UDP checksum over a byte string (RFC 768, RFC 8200): the complement of the ones' complement sum, sent as all ones where it is zero. -/
def udpSum (l : List Nat) : Nat :=
  let r := sum16 l % 65535
  if r = 0 then 65535 else 65535 - r

/-- The UDP checksum of a packet between two addresses and ports (R253). -/
def udpChecksum (src dst : BitVec 128) (sport dport : BitVec 16) (data : List Byte) : Nat :=
  let n := data.length + 8
  udpSum (toNats (bytesOf 16 src.toNat ++ bytesOf 16 dst.toNat) ++ beBytes 4 n ++ beBytes 4 17 ++ beBytes 2 sport.toNat ++ beBytes 2 dport.toNat ++
    beBytes 2 n ++ [0, 0] ++ toNats data)

/-- WYM_CFG.UDPPORT (R293). -/
def udpPort (s : State) : BitVec 16 := BitVec.ofNat 16 (bitsOf (s.reg rWymCfg) 0 16)

/-- The entropy value of a path (R256). -/
def pathPort (path : Nat) : BitVec 16 := BitVec.ofNat 16 (0xC000 + path % 32)

/-- The UDP ports of a packet that the device sends, source first (R253): a READRESP takes the reverse path (R277). -/
def wirePorts (s : State) (p : Pkt) : BitVec 16 × BitVec 16 :=
  if p.typ.toNat = tReadResp then (udpPort s, pathPort p.path.toNat) else (pathPort p.path.toNat, udpPort s)

/-- A received frame is Wymoug's: it is addressed to its UDP port, or is a READRESP from it (R253, R254, R277). -/
def isWymoug (s : State) (p : Pkt) : Bool :=
  p.dport == udpPort s || (p.typ.toNat == tReadResp && p.sport == udpPort s)

/-- The GCM tag of a received packet verifies under its SA's key (R265). -/
def tagOk (s : State) (sa : Nat) (p : Pkt) : Bool := p.tag == (sealPkt (s.key (saSlot s sa)).key p).2

end Sys2Proof.Machine
end

