-- ==== Sys2Proof/Machine/WymRx.lean ====
section
/-!
DEFINITION. The receiving side of the Wymoug transport (R265 to R281) and the ingress policer (R313 to R315): WRITE, SEND, READREQ
and ATOMIC packets, trackers, the result cache and receive events.
-/

namespace Sys2Proof.Machine

/-! ## Framing (R266) -/

/-- The reserved fields of a packet are zero (R266, R268, R269). -/
def pktZeros (p : Pkt) : Bool :=
  let t := p.typ.toNat
  decide (p.flags.toNat < 32) && !(p.flags.getLsbD 4 && t != tNak) && !p.path.getLsbD 7 && decide (p.rkey.toNat < 2 ^ 24) &&
  (match p.ext with
   | some (_, r, _) => r == 0
   | none => true) &&
  !((t == tWrite || t == tSend || t == tReadReq || t == tReadResp) && decide (p.spec.toNat ≥ 16)) &&
  !((t == tAtomic || t == tAtomicResp) && decide (p.spec.toNat ≥ 256)) &&
  !(t == tNak && decide (p.spec.toNat ≥ 65536)) && !(t == tAck && p.plen != 0)

/-- A Wymoug packet whose major version or TYPE is wrong, whose reserved fields are not zero, or whose framing or checksum fails (R253, R266, R268).
A higher minor version may give its reserved fields a meaning (R7). -/
def pktBad (p : Pkt) : Bool :=
  !p.frame || p.ver.toNat / 16 != 1 || p.typ == 0 || decide (p.typ.toNat > 9) || (p.flags.getLsbD 2 != p.ext.isSome) ||
  !reservedOk (p.ver.toNat % 16) (pktZeros p)

/-! ## Token buckets (R305, R313) -/

/-- The tokens of a bucket of a rate in Mb/s and a burst in units of 256 bytes, now; a rate above the MAC rate acts as it (R321).
The unit is 2^-16 ÷ 125 byte. -/
def tokNow (s : State) (port : Nat) (t : Tok) (rate burst : Nat) : Tok :=
  let r := min rate (macRate s port / 1000000)
  ⟨min ((burst * 256 * 8192000 : Nat) : Int) (t.n + ((r * 1024 * (s.mono - t.at_) : Nat) : Int)), s.mono⟩

/-- Bytes as tokens. -/
def tokOf (bytes : Nat) : Int := ((bytes * 8192000 : Nat) : Int)

/-- The bucket of a Peck; one that has no entry has been full since its port was enabled (R306, R313). -/
def tokAt (l : List (Nat × Tok)) (k burst : Nat) : Tok := ((l.find? fun e => e.1 == k).map (·.2)).getD ⟨tokOf (burst * 256), 0⟩
def tokSet (l : List (Nat × Tok)) (k : Nat) (t : Tok) : List (Nat × Tok) := tblInsert (tblErase l k) k t

inductive Colour where
  | green | yellow | red
deriving DecidableEq, Repr

/-- Colour a packet of a size (R313, R314): the colour and the buckets after it. -/
def policeColour (aware : Bool) (pre : Nat) (b : Int) (c p : Tok) : Colour × Tok × Tok :=
  if (aware && decide (pre ≥ 2)) || decide (p.n < b) then (.red, c, p)
  else if (aware && pre == 1) || decide (c.n < b) then (.yellow, c, { p with n := p.n - b })
  else (.green, { c with n := c.n - b }, { p with n := p.n - b })

/-- The policer of a port and Peck on a packet (R313 to R315): whether it is admitted. -/
def police (s : State) (port k : Nat) (p : Pkt) : State × Bool :=
  let rc := s.reg (rPolC port k)
  let rp := s.reg (rPolP port k)
  let b := rxLen p
  let letIn (s : State) : State :=
    s.updPeck k fun x => { x with meter := { x.meter with rx := x.meter.rx + b } }
  if bitsOf rc 39 1 = 0 then (letIn (s.bump (rSchCtr port 3) 1), true)
  else
    let x := s.port port
    let c := tokNow s port (tokAt x.polC k (bitsOf rc 20 16)) (bitsOf rc 0 20) (bitsOf rc 20 16)
    let t := tokNow s port (tokAt x.polP k (bitsOf rp 20 16)) (bitsOf rp 0 20) (bitsOf rp 20 16)
    let d := p.dscp.toNat
    let pre := bitsOf (s.reg (rDscpCol port (d / 32))) (2 * (d % 32)) 2
    let (col, c, t) := policeColour (bitsOf rc 37 1 == 1) pre (tokOf b) c t
    let s := s.setPort port { x with polC := tokSet x.polC k c, polP := tokSet x.polP k t }
    match col with
    | .green => (letIn (s.bump (rSchCtr port 3) 1), true)
    | .yellow => if bitsOf rc 38 1 = 1 then (s.bump (rSchCtr port 4) 1, false) else (letIn (s.bump (rSchCtr port 4) 1), true)
    | .red => (s.bump (rSchCtr port 5) 1, false)

/-! ## Checks 1 and 2 (R272) -/

/-- A packet of a TYPE arrives on a port: a frame for another address or UDP port, or one too long, is dropped (R252 to R255), a malformed one counted
(R266), one whose SA or tag fails counted (R265), and a policed one dropped (R315). Packets of other TYPEs have no effect here. -/
def rx (s : State) (port : Nat) (p : Pkt) (typ : Nat) (k : State → Nat → State) : State :=
  if !portUp s port ∨ p.typ.toNat ≠ typ then s
  else if !isWymoug s p ∨ rxLen p > 9216 ∨ p.dst ≠ instAddr (fabricBase s) (port / 4) then s.bump (rWymOther port) 1
  else if pktBad p then s.bump (rWymCtr (port / 4) 5) 1
  else match saBySpi s p.spi.toNat with
    | none => s.bump (rWymCtr (port / 4) 4) 1
    | some sa =>
      if (s.key (saSlot s sa)).state ≠ .loaded ∨ !tagOk s sa p then s.bump (rWymCtr (port / 4) 4) 1
      else
        let s := s.bump (rWymCtr (port / 4) 1) 1
        if typ ≤ 5 then
          let (s, ok) := police s port (saPeck s sa) p
          if ok then k s sa else s
        else k s sa

/-! ## The result cache (R281) -/

def State.cached (s : State) (i : Nat) (src : BitVec 128) (id : Word) : Option CacheEnt :=
  (s.inst i).cache.find? fun c => c.src == src && c.msgid == id && decide (s.time < c.made + wymH s)

def putCache (s : State) (i : Nat) (c : CacheEnt) : State :=
  let x := s.inst i
  s.setInst i { x with cache := (x.cache.filter fun y => !(y.src == c.src && y.msgid == c.msgid)) ++ [c] }

/-- Whether a Peck may take a new entry (R281, R346). -/
def cacheFree (s : State) (i peck : Nat) : Bool :=
  decide ((s.inst i).cache.length < 16384) && decide (((s.inst i).cache.filter fun c => c.peck == peck).length < (s.peck peck).cache)

/-! ## Trackers (R271, R273, R274) -/

def State.trk (s : State) (i : Nat) (src : BitVec 128) (id : Word) : Option Trk :=
  (s.inst i).trks.find? fun t => t.src == src && t.msgid == id

/-- Put a tracker back, or add it. -/
def setTrk (s : State) (i : Nat) (t : Trk) : State :=
  let x := s.inst i
  let rest := x.trks.filter fun y => !(y.src == t.src && y.msgid == t.msgid)
  s.setInst i { x with trks := rest ++ [t] }

/-- Trackers in use in an instance: receivers' and requesters' (R271, R277). -/
def trkUse (s : State) (i : Nat) : Nat :=
  (s.inst i).trks.length + (s.msgs.filter fun m => m.inst == i && m.kind == .read && m.begun).length

/-- The packets of an arriving packet's message that have been placed: those of its tracker, and those of its result-cache entry, which outlives the
tracker (R273, R281). -/
def rxBits (s : State) (port : Nat) (p : Pkt) : Nat :=
  let old := match s.trk (port / 4) p.src p.msgid with
    | some t => t.bits
    | none => 0
  match s.cached (port / 4) p.src p.msgid with
  | none => old
  | some c => match c.kind with
    | .send _ _ _ b _ _ => old ||| b
    | .mail _ b _ => old ||| b
    | .atomic _ _ => old

/-- Whether an arrival of a Peck may take a tracker (R271, R346). -/
def trkFree (s : State) (i peck : Nat) : Bool :=
  decide (trkUse s i < 65536) && decide (((s.inst i).trks.filter fun t => t.peck == peck).length < (s.peck peck).trk)

/-- PSIZE of a packet (R268). -/
def pktPsize (p : Pkt) : Nat := 2 ^ bitsOf p.spec 0 4

/-- A packet of a message has been placed: its bit is set and the ACK rule runs (R272, R273). -/
def rxPlaced (s : State) (port : Nat) (p : Pkt) (peck : Nat) : State :=
  let i := port / 4
  let npkt := npktOf p.msglen.toNat (pktPsize p)
  let t := (s.trk i p.src p.msgid).getD ⟨p.src, p.msgid, peck, npkt, rxBits s port p, s.time, none, 0, none, p, s.mono, port⟩
  let t := { t with bits := t.bits ||| 2 ^ p.pidx.toNat, last := s.time, since := t.since + 1, first := t.first.or (some s.time),
                    pkt := p, at_ := s.mono, port := port }
  let complete := weight t.npkt t.bits = t.npkt
  let t := if complete ∧ t.done.isNone then { t with done := some s.time } else t
  if complete ∨ t.since ≥ bitsOf (s.reg rWymCc) 48 8 then
    ack (setTrk s i { t with since := 0, first := none }) port p t.bits s.mono
  else setTrk s i t

/-- Check 3 of R272: a packet whose bit is set is dropped, counted and acknowledged at once. Its tracker has received a packet (R274). -/
def rxDup (s : State) (port : Nat) (p : Pkt) (k : State → State) : State :=
  let bits := rxBits s port p
  if bits.testBit p.pidx.toNat then
    let s' := match s.trk (port / 4) p.src p.msgid with
      | some t => setTrk s (port / 4) { t with since := 0, first := none, last := s.time }
      | none => s
    ack (s'.bump (rWymCtr (port / 4) 3) 1) port p bits s.mono
  else k s

/-- Whether the packet can have a tracker; a NAK with BUSY otherwise (R271). -/
def rxTrk (s : State) (port : Nat) (p : Pkt) (peck : Nat) (k : State → State) : State :=
  if (s.trk (port / 4) p.src p.msgid).isSome || trkFree s (port / 4) peck then k s else nak s port p true 0

/-! ## The key check (R272) -/

/-- PLEN and PIDX agree with MSGLEN and PSIZE (R266, R268, R272). -/
def pktShape (p : Pkt) : Bool :=
  let sh := bitsOf p.spec 0 4
  let len := p.msglen.toNat
  let ps := pktPsize p
  within 10 13 sh && within 1 (128 * ps) len && decide (p.pidx.toNat < npktOf len ps) &&
  decide (p.plen.toNat = min ps (len - p.pidx.toNat * ps))

/-- Check 6 of R272: the answer for a Peck that takes no transport. -/
def peckRxStatus (s : State) (peck : Nat) : Status :=
  match (s.peck peck).state with
  | .active | .quiescing => stOk
  | .disabled => stFunctionDisabled
  | .quiesced | .resetting | .removing => stFenced
  | .free => stStale

/-- Checks 4 to 6 of R272 on a region: its entry on success. `right` is the bit of the arm's remote rights: 0 RD, 1 WR, 2 ATOM. -/
def keyCheck (s : State) (sa : Nat) (p : Pkt) (right : Nat) (shape : Bool) : Except Status Region :=
  let i := p.rkey.toNat
  let r := s.region i
  match s.arm i with
  | none => .error stStale
  | some a =>
    if i ≥ 2 ^ 20 ∨ r.live = false ∨ r.gen ≠ p.rgen then .error stStale
    else if !a.rights.getLsbD right ∨ a.sa ≠ sa ∨ p.roff.toNat + p.msglen.toNat > r.len.toNat ∨ !shape then .error stRights
    else if peckRxStatus s r.peck.toNat ≠ stOk then .error (peckRxStatus s r.peck.toNat)
    else .ok r

/-! ## Placement (R258, R273) -/

/-- Place bytes in an armed region at an offset: LOCAL under the import tag, HOST and ACCEL as write requests (R273). A request that
no accelerator window takes gives its status. -/
def placeRegion (s : State) (r : Region) (imp : Tag) (off : Nat) (bs : List Byte) : State × Status :=
  let a := r.base.toNat + off
  let p := r.peck.toNat
  match r.kind with
  | .host => ((reqChunks a (s.fn (s.fnOf p)).mps (bs.length + 1) 0 bs.length).foldl (fun s (o, n) =>
      s.hostWrite p (BitVec.ofNat 64 (a + o)) ((bs.drop o).take n) false) s, stOk)
  | .accel =>
    let st := accelStatus s r.aux.toNat a bs.length
    if st ≠ stOk then (s, st)
    else ((reqChunks a (s.fn (s.fnOf p)).mps (bs.length + 1) 0 bs.length).foldl (fun s (o, n) =>
      s.emit (.accelWrite (s.rid (s.fnOf p)) r.aux.toNat (BitVec.ofNat 64 (a + o)) ((bs.drop o).take n) false)) s, stOk)
  | _ => ((placeBytes s a bs imp).1, stOk)

/-! ## WRITE (R272) with the collective rules (R200) -/

/-- What R200 makes of a COLL packet for an entry. -/
inductive CollRx where
  | unbound | place | discard
deriving DecidableEq, Repr

def State.group (s : State) (peck : Nat) (g : BitVec 32) : Option Group := s.groups.find? fun x => x.peck == peck && x.group == g

def collRx (s : State) (i : Nat) (gen : BitVec 16) (peck : Nat) (ext : Option (BitVec 32 × BitVec 32 × Word)) : CollRx :=
  match ext with
  | none => .place
  | some (g, _, seq) =>
    if (s.bindings.any fun b => b.index == i && b.gen == gen && b.peck == peck && b.group == g) = false then .unbound
    else match s.group peck g with
      | none => .unbound
      | some x => if seq.toNat = x.done ∨ seq.toNat = x.done + 1 then .place else .discard

/-- A COLL message is complete in its landing region (R204). -/
def landDone (s : State) (port : Nat) (p : Pkt) : State :=
  match p.ext, s.trk (port / 4) p.src p.msgid with
  | some (_, _, seq), some t =>
    if t.done = some s.time then { s with landed := s.landed ++ [(⟨p.rkey.toNat, seq.toNat, p.roff.toNat, p.msglen.toNat⟩ : Landed)] } else s
  | _, _ => s

/-- A message that R200 discards is counted once, with its first packet. -/
def staleMsg (s : State) (port : Nat) (p : Pkt) : State :=
  if (s.trk (port / 4) p.src p.msgid).isNone then s.bump rRedStale 1 else s

/-- A range of a landing region lies in a collective's exchange rows. -/
def Coll.inRows (c : Coll) (seq off len : Nat) : Bool := c.seq == seq && decide (c.rowsAt ≤ off) && decide (off + len ≤ c.rowsAt + c.rowsLen)

/-- The tag under which a packet is placed: the import tag, but exchange records of a collective that has been accepted are written with tag INT64
(R201). -/
def rowTag (s : State) (peck : Nat) (p : Pkt) (imp : Tag) : Tag :=
  match p.ext with
  | none => imp
  | some (_, _, seq) =>
    if s.colls.any fun c => c.peck == peck && c.landing.index == p.rkey.toNat && c.inRows seq.toNat p.roff.toNat p.msglen.toNat then Tag.int64 else imp

/-- COLL rules for a packet that is no WRITE (R269): one of an unbound region is refused unacknowledged, and one that R200 discards is acknowledged and
counted. -/
def collGate (s : State) (port : Nat) (p : Pkt) (r : Region) (k : State → State) : State :=
  match collRx s p.rkey.toNat r.gen r.peck.toNat p.ext with
  | .unbound => s
  | .discard => ack (s.bump rRedStale 1) port p 1 s.mono
  | .place => k s

/-- WRITE: a received WRITE packet is checked in the order of R272, placed and acknowledged (R273). -/
def execWrite (port : Fin 16) (p : Pkt) (s : State) : Host.Outcome State Fault Refusal :=
  .next (rx s port.val p tWrite fun s sa => rxDup s port.val p fun s =>
    match keyCheck s sa p 1 (pktShape p) with
    | .error st => nak s port.val p false st
    | .ok r =>
      match collRx s p.rkey.toNat r.gen r.peck.toNat p.ext with
      | .unbound => s
      | .discard => rxTrk s port.val p r.peck.toNat fun s => rxPlaced (staleMsg s port.val p) port.val p r.peck.toNat
      | .place => rxTrk s port.val p r.peck.toNat fun s =>
        let imp := rowTag s r.peck.toNat p (((s.arm p.rkey.toNat).map (·.imp)).getD Tag.nil)
        let (s, st) := placeRegion s r imp (p.roff.toNat + p.pidx.toNat * pktPsize p) p.payload
        if st ≠ stOk then nak s port.val p false st
        else landDone (rxPlaced s port.val p r.peck.toNat) port.val p)

/-! ## SEND (R280) -/

/-- The enabled volume whose MIREP names an endpoint: the storage service consumes it (R416). -/
def mailVol (s : State) (ep : Nat) : Option Nat := (enabledVols s).find? fun v => volMirEp s v == ep && (volMirDir s v != 0 || volPass s v)

/-- Checks 4 to 6 of R272 on an endpoint. -/
def epCheck (s : State) (sa : Nat) (p : Pkt) : Status :=
  let e := s.ep p.rkey.toNat
  if p.rkey.toNat ≥ 4096 ∨ e.peck = 0 ∨ e.gen ≠ p.rgen then stStale
  else if saPeck s sa ≠ e.peck ∨ p.roff ≠ 0 ∨ p.msglen.toNat < 8 ∨ !pktShape p then stRights
  else peckRxStatus s e.peck

/-- The receive event of a message from a sender (R280, R391), on the Spring of the WYM_POST whose buffer it took. -/
def recvEvent (s : State) (sid : BitVec 32) (ep : Nat) (b : Post) (len : Nat) (imm : Word) (st : Status) : State :=
  s.record (s.ep ep).peck b.spring
    ⟨3, 0, st, BitVec.ofNat 16 ep, b.cookie, imm, BitVec.ofNat 64 (len - 8 + sid.toNat * 2 ^ 32)⟩

/-- Whether the tracker of a packet's message is complete. -/
def trkDone (s : State) (port : Nat) (p : Pkt) : Bool :=
  match s.trk (port / 4) p.src p.msgid with
  | some t => t.done.isSome
  | none => false

/-- A SEND packet's IMM, when it is packet 0. -/
def immOf (p : Pkt) : Option Word := if p.pidx = 0 then some (BitVec.ofNat 64 (natOfBytes (p.payload.take 8))) else none

/-- Place a packet of a SEND in its buffer; the message's last packet writes its receive event (R280, R281). -/
def sendPlace (s : State) (port : Nat) (p : Pkt) (c : CacheEnt) (b : Post) (ep : Nat) (imm : Word) (ev : Bool) : State :=
  let i := port / 4
  let bits := rxBits s port p ||| 2 ^ p.pidx.toNat
  let imm := (immOf p).getD imm
  let r : Region := { Region.free with kind := b.loc.kind, peck := BitVec.ofNat 8 c.peck, base := b.loc.base, len := b.loc.len, aux := b.loc.aux }
  let (s, st) := placeRegion s r b.imp (b.off.toNat + p.pidx.toNat * pktPsize p) p.payload
  if st ≠ stOk then nak s port p false st
  else
    let s := rxPlaced s port p c.peck
    if trkDone s port p ∧ !ev then
      recvEvent (putCache s i { c with kind := .send b ep imm bits false true }) p.sid ep b p.msglen.toNat imm stOk
    else putCache s i { c with kind := .send b ep imm bits false ev }

/-! ### Mirror messages (R416) -/

/-- A complete SEND to the storage service: the write of an origin, or the answer of a mirror device. -/
def mailDone (s : State) (v : Nat) (bs : List Byte) : State :=
  let imm := natOfBytes (bs.take 8)
  if volPass s v then
    let blk := natOfBytes ((bs.drop 8).take 8)
    let data := bs.drop 16
    vreqAdd s v .write blk (data.length / 4096) data (.reply v imm) 0 true
  else
    match s.vreqs.find? fun r => r.vol == v && (r.mirror.map (·.1)) == some (imm / 65536) with
    | none => s
    | some r => mirrorEnd s r.id (imm / 65536) (BitVec.ofNat 16 imm)

/-- Store a packet of a SEND to the storage service; the last completes the message. -/
def mailPlace (s : State) (port v : Nat) (p : Pkt) (c : CacheEnt) (ep : Nat) (got : List (Nat × Byte)) : State :=
  let bits := rxBits s port p
  let was := weight (npktOf p.msglen.toNat (pktPsize p)) bits = npktOf p.msglen.toNat (pktPsize p)
  let got := got ++ p.payload.zipIdx.map fun (b, k) => (p.pidx.toNat * pktPsize p + k, b)
  let s := rxPlaced (putCache s (port / 4) { c with kind := .mail ep (bits ||| 2 ^ p.pidx.toNat) got }) port p c.peck
  if trkDone s port p ∧ !was then mailDone s v ((List.range p.msglen.toNat).map fun k => tblGet (0 : Byte) got k) else s

/-- The first packet of a SEND to arrive takes the buffer at the head of the endpoint's queue (R280). A buffer shorter than MSGLEN is
consumed with a receive event and the message refused; its IMM is open when packet 0 was not the one that came. -/
def sendFirst (s : State) (port : Nat) (p : Pkt) : State :=
  let i := port / 4
  let ep := p.rkey.toNat
  let e := s.ep ep
  match mailVol s ep with
  | some v => mailPlace s port v p ⟨p.src, p.msgid, e.peck, s.time, .mail ep 0 []⟩ ep []
  | none =>
    match e.posts with
    | [] => nak s port p true 0
    | b :: rest =>
      let s := s.setEp ep { e with posts := rest }
      if b.len < p.msglen.toNat then
        let (imm, s) := match immOf p with
          | some w => (w, s)
          | none => s.draw
        let s := putCache s i ⟨p.src, p.msgid, e.peck, s.time, .send b ep imm 0 true true⟩
        nak (recvEvent s p.sid ep b p.msglen.toNat imm stRights) port p false stRights
      else sendPlace s port p ⟨p.src, p.msgid, e.peck, s.time, .send b ep 0 0 false false⟩ b ep 0 false

/-- SEND: a received SEND packet is checked, takes a buffer and is placed (R272, R280, R281). -/
def sendRx (port : Fin 16) (p : Pkt) (s : State) : State :=
  (rx s port.val p tSend fun s sa => rxDup s port.val p fun s =>
    let st := epCheck s sa p
    if st ≠ stOk then nak s port.val p false st
    -- no endpoint is a bound region (R200, R269)
    else if p.ext.isSome then s
    else
      let peck := (s.ep p.rkey.toNat).peck
      rxTrk s port.val p peck fun s =>
        match s.cached (port.val / 4) p.src p.msgid with
        | some c =>
          match c.kind with
          | .send b ep imm _ short ev => if short then nak s port.val p false stRights else sendPlace s port.val p c b ep imm ev
          | .mail ep _ got => match mailVol s ep with
            | some v => mailPlace s port.val v p c ep got
            | none => nak s port.val p true 0
          | .atomic _ _ => nak s port.val p true 0
        | none => if cacheFree s (port.val / 4) peck then sendFirst s port.val p else nak s port.val p true 0)

/-! ## ATOMIC (R278, R281) -/

/-- The new word of an ATOMIC (R122, R278). -/
def atomicOp (op : Nat) (old a b : Word) : Option Word :=
  match op with
  | 0 => some (old + a) | 1 => some (old &&& a) | 2 => some (old ||| a) | 3 => some (old ^^^ a) | 4 => some a
  | 5 => some (if old.slt a then old else a) | 6 => some (if old.slt a then a else old)
  | 7 => some (if old = b then a else old)
  | _ => none

/-- The answer of an ATOMIC (R268). -/
def atomicAnswer (s : State) (port : Nat) (p : Pkt) (st : Status) (old : Word) : State :=
  if st ≠ stOk then nak s port p false st
  else ctlPut s port { answer p tAtomicResp with msglen := 8, pidx := 0, plen := 8, payload := bytesOf 8 old.toNat } s.mono

/-- Execute an ATOMIC that passed its checks: its status, the old word and the state (R122, R278). -/
def runAtomic (s : State) (r : Region) (p : Pkt) : Status × Word × State :=
  let a := r.base.toNat + p.roff.toNat
  let s := s.settle a 8
  let w := s.mem.word a
  if w.tag = Tag.poison then (stPoison, 0, s)
  else if w.tag ≠ Tag.int64 ∧ w.tag ≠ Tag.nil then (stTag, 0, s)
  else
    let x := BitVec.ofNat 64 (natOfBytes (p.payload.take 8))
    let y := BitVec.ofNat 64 (natOfBytes ((p.payload.drop 8).take 8))
    match atomicOp (bitsOf p.spec 0 8) w.bits x y with
    | none => (stUndef, 0, s)
    | some v =>
      if bitsOf p.spec 0 8 = 7 ∧ w.bits ≠ y then (stOk, w.bits, s)
      else match writeWord s a (TWord.int v) with
        | none => (stTag, 0, s)
        | some s => (stOk, w.bits, s)

/-- ATOMIC: a received atomic is executed once, and a duplicate receives its outcome again (R278, R281). -/
def execAtomic (port : Fin 16) (p : Pkt) (s : State) : Host.Outcome State Fault Refusal :=
  .next (rx s port.val p tAtomic fun s sa =>
    match s.cached (port.val / 4) p.src p.msgid with
    | some c => match c.kind with
      | .atomic st old => atomicAnswer s port.val p st old
      | _ => nak s port.val p true 0
    | none =>
      match keyCheck s sa p 2 (p.msglen == 8 && p.pidx == 0 && p.plen == 16) with
      | .error st => nak s port.val p false st
      | .ok r =>
        if r.kind ≠ .local_ ∨ p.roff.toNat % 8 ≠ 0 then nak s port.val p false stRights
        else collGate s port.val p r fun s => if !cacheFree s (port.val / 4) r.peck.toNat then nak s port.val p true 0
        else
          let (st, old, s) := runAtomic s r p
          let s := putCache s (port.val / 4) ⟨p.src, p.msgid, r.peck.toNat, s.time, .atomic st old⟩
          atomicAnswer s port.val p st old)

/-! ## READREQ (R277) -/

/-- The scheduler queue that carries a Peck's READRESPs on a port's die: its lowest enabled queue there (DESIGN CHOICE: the responder
has no REMOTE entry to name one). -/
def respQueue (s : State) (die peck : Nat) : Option Nat :=
  (List.range 4096).find? fun q => let w := s.reg (rSchQ die q); bitsOf w 0 1 == 1 && bitsOf w 8 8 == peck

/-- The members of a sharing that can no longer offer leave it; one that nothing is left in takes its largest finish tag as virtual time (R302,
R303). -/
def shareLeave (x : Share) (stays : Nat → Bool) : Share :=
  let stay := x.mem.filter stays
  { x with mem := stay, v := if stay.isEmpty then max x.v x.maxF else x.v }

/-- Enter a packet in a scheduler queue of a port. A queue that was empty wakes with its class's virtual time as its start tag; a Peck that had no packet
on the port is no member of a round any more, and wakes with the next choice (R302, R303). -/
def enqueue (s : State) (port q : Nat) (e : QEnt) : State :=
  let x := s.port port
  let y := tblGet PQueue.reset x.qs q
  let w (r : Nat) : Word := s.reg (rSchQ (port / 4) r)
  let k := bitsOf (w q) 8 8
  let c := bitsOf (w q) 1 3
  let full := x.qs.filter fun e => !e.2.ents.isEmpty
  let share := tblGet Share.reset x.classes (8 * k + c)
  let share := if full.any fun e => bitsOf (w e.1) 8 8 == k && bitsOf (w e.1) 1 3 == c then share else { share with v := max share.v share.maxF }
  let has (j : Nat) : Bool := full.any fun e => bitsOf (w e.1) 8 8 == j
  let y := if y.ents.isEmpty then { y with tag := share.v } else y
  s.setPort port { x with qs := tblSet PQueue.reset x.qs q { y with ents := y.ents ++ [e] },
                          classes := tblSet Share.reset x.classes (8 * k + c) share,
                          commit := shareLeave x.commit has, excess := shareLeave x.excess has }

/-- Payload bytes of a READRESP. -/
def respLen (r : Resp) : Nat := min (pktPsize r.req) (r.req.msglen.toNat - r.k * pktPsize r.req)

/-- A READRESP with its payload (R277). -/
def respPkt (r : Resp) (bs : List Byte) : Pkt :=
  { answer r.req tReadResp with path := BitVec.ofNat 8 r.path, pidx := BitVec.ofNat 16 r.k, plen := BitVec.ofNat 16 bs.length, spec := r.req.spec,
                                payload := bs }

/-- A READRESP takes its place among those that wait for pacing; bytes outside the device are read first (R277). -/
def readResp (s : State) (port : Nat) (p : Pkt) (r : Region) (k : Nat) : State :=
  let id := s.nextResp
  let a := r.base.toNat + p.roff.toNat + k * pktPsize p
  let x : Resp := ⟨id, port, p, k, p.path.toNat, r.peck.toNat, none, [], false⟩
  let add (x : Resp) : State := { s with nextResp := id + 1, resps := s.resps ++ [x] }
  if r.kind = .local_ then add { x with addr := some a }
  else
    let f := s.fnOf r.peck.toNat
    let host := r.kind == .host
    let g := if host then upGroup s (vhOf s f) else r.aux.toNat
    let st := if host then stOk else accelStatus s g a (respLen x)
    if st ≠ stOk then nak s port p false st
    else (reqChunks a (if host then (s.fn f).mrrs else 4096) (respLen x + 1) 0 (respLen x)).foldl (fun s (o, c) =>
      issueRead s g f host (BitVec.ofNat 64 (a + o)) c (.resp id) o) (add { x with got := List.replicate (respLen x) 0, wait := true })

/-- READREQ: the request is checked with RD, and one READRESP goes out for each packet wanted (R277). -/
def execReadreq (port : Fin 16) (p : Pkt) (s : State) : Host.Outcome State Fault Refusal :=
  .next (rx s port.val p tReadReq fun s sa =>
    let ps := pktPsize p
    let shape := within 10 13 (bitsOf p.spec 0 4) && within 1 (128 * ps) p.msglen.toNat && p.plen == 16
    match keyCheck s sa p 0 shape with
    | .error st => nak s port.val p false st
    | .ok r => collGate s port.val p r fun s =>
      if (respQueue s (port.val / 4) r.peck.toNat).isNone then nak s port.val p false stSchNoQueue
      else
        let want := natOfBytes (p.payload.take 16)
        ((List.range (npktOf p.msglen.toNat ps)).filter fun k => want.testBit k).foldl (fun s k => readResp s port.val p r k) s)

/-- A read for a READRESP has its bytes; with the last of them it may be released (R277). -/
def respDeliver (s : State) (id off : Nat) (bs : List Byte) : State :=
  let more := s.reads.any fun r => r.user == .resp id && r.quar.isNone
  { s with resps := s.resps.map fun r => if r.num = id then
      { r with got := r.got.take off ++ bs ++ r.got.drop (off + bs.length), wait := more } else r }

/-- A read for a READRESP failed: the READREQ is refused (R277). -/
def respFail (s : State) (id : Nat) (st : Status) : State :=
  match s.resps.find? fun x => x.num == id with
  | none => s
  | some r => nak { dropReads s (.resp id) with resps := s.resps.filter fun x => x.num ≠ id } r.port r.req false st

/-! ## Receiver timers -/

/-- MALFORMED_PACKET: a packet with a wrong major version, reserved TYPE or nonzero reserved field is dropped and counted (R266). No
effect on a well-formed packet. -/
def execMalformedPacket (port : Fin 16) (p : Pkt) (s : State) : Host.Outcome State Fault Refusal :=
  .next (if !portUp s port.val ∨ pktBad p = false then s
    else if !isWymoug s p ∨ rxLen p > 9216 ∨ p.dst ≠ instAddr (fabricBase s) (port.val / 4) then s.bump (rWymOther port.val) 1
    else s.bump (rWymCtr (port.val / 4) 5) 1)

/-- PROBE: answered by an ACK (R267). -/
def execProbe (port : Fin 16) (p : Pkt) (s : State) : Host.Outcome State Fault Refusal :=
  .next (rx s port.val p tProbe fun s _ =>
    ack s port.val p (match s.trk (port.val / 4) p.src p.msgid with
      | some t => t.bits
      | none => 0) s.mono)

/-- WYM_ACKDELAY_EXPIRY: ACKDELAY has passed since the first packet not yet acknowledged, and an ACK is sent (R273). -/
def execWymAckdelayExpiry (i : Fin 4) (src : BitVec 128) (msgid : Word) (s : State) : Host.Outcome State Fault Refusal :=
  .next (match s.trk i.val src msgid with
  | none => s
  | some t => match t.first with
    | none => s
    | some f =>
      if f + bitsOf (s.reg rWymCc) 56 8 * 100 ≤ s.time then
        ack (setTrk s i.val { t with since := 0, first := none }) t.port t.pkt t.bits t.at_
      else s)

/-- Free a tracker. -/
def dropTrk (s : State) (i : Nat) (src : BitVec 128) (msgid : Word) : State :=
  s.setInst i { s.inst i with trks := (s.inst i).trks.filter fun y => !(y.src == src && y.msgid == msgid) }

/-- TRACKER_LINGER_EXPIRY: a complete tracker is freed after LINGER (R274). -/
def execTrackerLingerExpiry (i : Fin 4) (src : BitVec 128) (msgid : Word) (s : State) : Host.Outcome State Fault Refusal :=
  .next (match s.trk i.val src msgid with
  | none => s
  | some t => match t.done with
    | none => s
    | some d => if d + wymLinger s ≤ s.time then dropTrk s i.val src msgid else s)

/-- TRACKER_IDLE_EXPIRY: an incomplete tracker that has received nothing for TRKIDLE is freed and counted (R274). -/
def execTrackerIdleExpiry (i : Fin 4) (src : BitVec 128) (msgid : Word) (s : State) : Host.Outcome State Fault Refusal :=
  .next (match s.trk i.val src msgid with
  | none => s
  | some t =>
    if t.done.isNone ∧ t.last + wymIdle s ≤ s.time then (dropTrk s i.val src msgid).bump (rWymCtr i.val 11) 1 else s)

/-- RESULT_CACHE_EXPIRY: a result-cache entry expires H after its creation (R281). -/
def execResultCacheExpiry (i : Fin 4) (src : BitVec 128) (msgid : Word) (s : State) : Host.Outcome State Fault Refusal :=
  .next (match (s.inst i.val).cache.find? fun c => c.src == src && c.msgid == msgid with
  | none => s
  | some c =>
    if c.made + wymH s ≤ s.time then
      s.setInst i.val { s.inst i.val with cache := (s.inst i.val).cache.filter fun y => !(y.src == src && y.msgid == msgid) }
    else s)

end Sys2Proof.Machine
end

