-- ==== Sys2Proof/Machine/Svc.lean ====
section
/-!
DEFINITION. What the services of the device share: reads of a region outside device memory in requests, writes to a region, memory
lent from the firmware reserve, and contexts that a service starts in a withheld slot (R207, R218, R227, R239, R240).
-/

namespace Sys2Proof.Machine

/-! ## Reads of a region -/

def State.fetch (s : State) (n : Nat) : Option SvcRead := s.fetches.find? fun f => f.num == n
def State.updFetch (s : State) (n : Nat) (g : SvcRead → SvcRead) : State :=
  { s with fetches := s.fetches.map fun f => if f.num = n then g f else f }

/-- Record a failure of a fetch: the first stands. -/
def fetchFail (f : SvcRead) (st : Status) : SvcRead := { f with st := if f.st = stOk then st else f.st }

/-- Issue the requests of a fetch that its lane group has tags for (R360). -/
def fetchIssue (num : Nat) : Nat → State → State
  | 0, s => s
  | fuel + 1, s =>
    match s.fetch num with
    | none => s
    | some f =>
      match f.todo with
      | [] => s
      | (o, n) :: rest =>
        let fn := s.fnOf f.peck
        let a := f.loc.base.toNat + f.off + o
        let host := f.loc.kind == .host
        let g := if host then upGroup s (vhOf s fn) else f.loc.aux.toNat
        if groupReads s g ≥ 4096 then s
        else
          let s := s.updFetch num fun f => { f with todo := rest }
          let (s, ok) := if host then translate s fn a n f.deny else (s, true)
          let st := if host then (if ok then stOk else stRights) else accelStatus s g a n
          let s := if st = stOk then issueRead (s.updFetch num fun f => { f with open_ := f.open_ + 1 }) g fn host (BitVec.ofNat 64 a) n (.svc num) o
            else s.updFetch num fun f => fetchFail f st
          fetchIssue num fuel s

/-- A fetch has all its parts. -/
def SvcRead.ovr (f : SvcRead) : Bool := f.open_ == 0 && f.todo.isEmpty

/-- Begin the read of n bytes at an offset of a HOST, ACCEL or VOLUME region for a service. A fetch that is over at once leaves an
outcome, so that its end is taken like any other. A VOLUME range is read in whole blocks (R126). -/
def fetchStart (s : State) (owner : User) (peck : Nat) (l : Loc) (off n : Nat) (deny : List Nat) : State :=
  let num := s.nextFetch
  let max := if l.kind = .host then (s.fn (s.fnOf peck)).mrrs else 4096
  let todo := if l.kind = .volume then [] else reqChunks (l.base.toNat + off) max (n + 1) 0 n
  let f : SvcRead := ⟨num, owner, peck, l, off, todo, 0, [], stOk, deny⟩
  let s := { s with nextFetch := num + 1, fetches := s.fetches ++ [f] }
  let s := if l.kind = .volume then
      let (s, c) := vreqRun .read l.aux.toNat (.svc num) (n / 4096 + 1) ((l.base.toNat + off) / 4096) (n / 4096) [] 0 s
      s.updFetch num fun f => { f with open_ := c }
    else fetchIssue num (todo.length + 1) s
  match s.fetch num with
  | some f => if f.ovr then { s.updFetch num (fun f => { f with open_ := 1 }) with outcomes := s.outcomes ++ [(.svc num, 0, f.st)] } else s
  | none => s

/-- Go on with every fetch that waits for tags. -/
def fetchPump (s : State) : State := s.fetches.foldl (fun s f => fetchIssue f.num (f.todo.length + 1) s) s

/-- Data of a fetch arrive. -/
def fetchDeliver (s : State) (num off : Nat) (bs : List Byte) : State :=
  s.updFetch num fun f => { f with got := tblInsert (tblErase f.got off) off bs }

/-- A part of a fetch has its outcome; when the fetch is over it leaves with its owner, the parts that were read, by offset, and its status. -/
def fetchOutcome (s : State) (num : Nat) (st : Status) : State × Option (User × List (Nat × List Byte) × Status) :=
  let s := s.updFetch num fun f => fetchFail { f with open_ := f.open_ - 1 } st
  match s.fetch num with
  | none => (s, none)
  | some f =>
    let s := fetchIssue num (f.todo.length + 1) s
    match s.fetch num with
    | none => (s, none)
    | some f =>
      if f.ovr then ({ s with fetches := s.fetches.filter fun x => x.num ≠ num }, some (f.owner, f.got, f.st))
      else (s, none)

/-- A service that ends drops its reads; answers that come later are discarded. -/
def dropFetches (s : State) (own : User → Bool) : State :=
  (s.fetches.filter fun f => own f.owner).foldl (fun s f =>
    dropUser { s with fetches := s.fetches.filter fun x => x.num ≠ f.num } (.svc f.num)) s

/-! ## Writes to a region -/

/-- A region as `placeRegion` takes it. -/
def locRegion (l : Loc) (peck : Nat) : Region :=
  { Region.free with kind := l.kind, peck := BitVec.ofNat 8 peck, base := l.base, len := l.len, aux := l.aux }

/-- Write bytes to a LOCAL, HOST or ACCEL region for a service (R45, R360): a CODE word refuses its bytes with ST_TAG_FAULT. -/
def svcWrite (s : State) (peck : Nat) (l : Loc) (off : Nat) (bs : List Byte) (imp : Tag) : State × Status :=
  if l.kind = .local_ then
    let (s, bad) := placeBytes s (l.base.toNat + off) bs imp
    (s, if bad = [] then stOk else stTag)
  else placeRegion s (locRegion l peck) imp off bs

/-- Move n bytes of device memory to a region for a service: between LOCAL regions words move with their tags (R44); an untagged
destination takes HANDLE and POISON words as zeros, with the status of the first (R49, R435). -/
def svcMove (s : State) (peck src : Nat) (l : Loc) (off n : Nat) (imp : Tag) : State × Status :=
  let a := l.base.toNat + off
  if l.kind = .local_ ∧ src % 8 = 0 ∧ a % 8 = 0 ∧ n % 8 = 0 then
    let (s, ws) := readWords s src n
    let (s, bad) := placeWords s a (ws.take (n / 8))
    (s, if bad = [] then stOk else stTag)
  else
    let (s, bs, bad) := exportRange s src n
    let (s, st) := svcWrite s peck l off bs imp
    (s, match bad with
      | (_, b) :: _ => b
      | [] => st)

/-! ## Memory lent from the firmware reserve (R323) -/

/-- The reserve of the upper HBM half, and its size. -/
def scratchBase : Nat := 0x5FE0000000
def scratchLen : Nat := 0x20000000

/-- A place of n bytes in the reserve beside those lent (DESIGN CHOICE: the manual gives no place), zeroed. -/
def lend (s : State) (owner : User) (n : Nat) : Option (State × Nat) :=
  let n := (n + 4095) / 4096 * 4096
  let at_ := scratchBase :: s.scratch.map fun x => x.base + x.len
  match at_.find? fun b => decide (b + n ≤ scratchBase + scratchLen) && s.scratch.all fun x => !overlaps x.base x.len b n with
  | none => none
  | some b => some ({ s.zeroMem b n with scratch := s.scratch ++ [⟨owner, b, n⟩] }, b)

/-- Take back what was lent to an owner at an address. -/
def unlend (s : State) (base : Nat) : State :=
  s.scratch.foldl (fun s x => if x.base = base then { s.zeroMem x.base x.len with scratch := s.scratch.filter fun y => y.base ≠ base } else s) s

/-! ## Contexts that a service starts -/

/-- The region-table entry of handle i of the job in slot 6 or 7 of an engine: in the firmware range of R325 (DESIGN CHOICE). -/
def jobEntry (e slot i : Nat) : Nat := 0xFF100 + 8 * e + 4 * (slot % 2) + i

/-- Start a job's context: its regions by H register as base, length and rights, its S registers from S0 on, and its stochastic
rounding state. -/
def startJob (s : State) (p e slot : Nat) (code : Word) (hs : List (Nat × Nat × BitVec 8)) (h2 : Option TWord) (sr : List TWord)
    (key : Word) (stream : BitVec 32) (step : Word) (replay : Bool) : State :=
  let s := hs.zipIdx.foldl (fun s ((b, n, r), i) =>
    let j := jobEntry e slot i
    s.setRegion j { s.region j with used := true, kind := .local_, peck := BitVec.ofNat 8 p, base := BitVec.ofNat 64 b, len := BitVec.ofNat 64 n,
                                    rights := r, parent := none, pgen := 0, aux := 0 }) s
  let hw := hs.zipIdx.map fun ((_, _, r), i) => (⟨mkHandle (jobEntry e slot i) (s.region (jobEntry e slot i)).gen r, Tag.handle⟩ : TWord)
  let hw := match h2 with
    | some w => hw.take 2 ++ [w]
    | none => hw
  let tab (l : List TWord) : List (Nat × TWord) := l.zipIdx.foldl (fun t (w, i) => tblSet TWord.zero t i w) []
  let x := { Ctx.free with
    state := .running, peck := BitVec.ofNat 8 p, isa := 1, code := code, cyc0 := s.qcycles, h := tab hw, s := tab sr,
    srkey := key, srstream := stream, srstep := step, replayable := replay,
    start := [TWord.int (BitVec.ofNat 64 hw.length), TWord.int key, TWord.int (stream.setWidth 64), TWord.int step] ++ hw ++ sr }
  s.setEng e ((s.eng e).setCtx slot x)

/-- How a job's context ended: its halt value or its fault, once its copies have completed and no replay of its engine is open; none before.
-/
def jobEnd (s : State) (e slot : Nat) : Option (Except Status Word) :=
  let c : CtxId := ⟨Fin.ofNat 128 e, Fin.ofNat 8 slot⟩
  let x := s.ctx c
  if copiesOpen s c || x.held || x.replay then none
  else match x.state with
    | .halted => some (if x.cpyFence = stOk then .ok x.result else .error x.cpyFence)
    | .faulted => some (.error x.fault)
    | _ => none

/-- Clear a job from its slot: its copies are fenced, its slot freed and its handles made stale. -/
def clearJob (s : State) (e slot : Nat) : State :=
  let c : CtxId := ⟨Fin.ofNat 128 e, Fin.ofNat 8 slot⟩
  let s := freeCtx (fenceCopies s c.eng (some slot) stFenced) c
  revokeEntries s (([0, 1, 2, 3].map (jobEntry e slot)).filter fun i => (s.region i).used)

/-- The lowest engine of a list whose slot is free and which is not being reset. -/
def jobPlace (s : State) (p : Nat) (es : List Nat) (slot : Nat) : Option Nat :=
  es.find? fun e => (s.eng e).peck.toNat == p && !(s.eng e).resetting && ((s.eng e).ctx slot).state == .free

end Sys2Proof.Machine
end

