-- ==== Sys2Proof/Machine/Collect.lean ====
section
/-!
DEFINITION. Collectives before they run (R193 to R202, R208 to R212): the record and its lists, the checks of R198, the layout of the
landing region, routing, the digest, and acceptance.
-/

namespace Sys2Proof.Machine

/-! ## The record (R193) -/

/-- A field of n bytes at a byte offset of a record, within one word. -/
def rb (ws : List TWord) (off n : Nat) : Nat := bitsOf (wd ws (off / 8)).bits (8 * (off % 8)) (8 * n)

def crOp (ws : List TWord) : Nat := rb ws 2 1
def crIn (ws : List TWord) : Nat := rb ws 3 1 % 16
def crOut (ws : List TWord) : Nat := rb ws 3 1 / 16
def crReduce (ws : List TWord) : Nat := rb ws 4 1 % 4
def crGather (ws : List TWord) : Nat := rb ws 4 1 / 4 % 4
def crMode (ws : List TWord) : Nat := rb ws 5 1 % 8
def crFlag (ws : List TWord) (n : Nat) : Bool := (BitVec.ofNat 8 (rb ws 6 1)).getLsbD n
def crVerdict (ws : List TWord) : Bool := crFlag ws 0
def crNorm (ws : List TWord) : Bool := crFlag ws 1
def crSrcSplit (ws : List TWord) : Bool := crFlag ws 2
def crDstSplit (ws : List TWord) : Bool := crFlag ws 3
def crProgram (ws : List TWord) : Bool := crFlag ws 4
def crReverse (ws : List TWord) : Bool := crFlag ws 5
def crNmem (ws : List TWord) : Nat := rb ws 8 2
def crSelf (ws : List TWord) : Nat := rb ws 10 2
def crNsrc (ws : List TWord) : Nat := rb ws 12 1
def crNdst (ws : List TWord) : Nat := rb ws 13 1
def crRoot (ws : List TWord) : Nat := rb ws 14 2
def crCount (ws : List TWord) : Nat := (wd ws 2).bits.toNat
def crChunk (ws : List TWord) : Nat := rb ws 24 4
def crGroup (ws : List TWord) : BitVec 32 := BitVec.ofNat 32 (rb ws 28 4)
def crSeq (ws : List TWord) : Word := (wd ws 4).bits
def crKey (ws : List TWord) : Word := (wd ws 5).bits
def crBase (ws : List TWord) : Nat := rb ws 48 4
def crCap (ws : List TWord) : Nat := rb ws 52 4

def opAllreduce : Nat := 0
def opReduceScatter : Nat := 1
def opAllgather : Nat := 2
def opReduce : Nat := 3
def opBroadcast : Nat := 4
def opAlltoall : Nat := 5
def opStep : Nat := 6

/-- OPs with a reduce phase. -/
def crReduces (ws : List TWord) : Bool := [0, 1, 3, 6].contains (crOp ws)
/-- The reduce algorithm is TREE. -/
def crTree (ws : List TWord) : Bool := crReduces ws && crReduce ws == 1

/-- Bytes of an element of a format code; 0 for a code that no collective takes (R195). -/
def elemSize (code : Nat) : Nat := if code = 0 ∨ code = 11 then 4 else if code = 1 ∨ code = 2 then 2 else if code = 3 ∨ code = 4 ∨ code = 12 then 1 else 0
def crSi (ws : List TWord) : Nat := elemSize (crIn ws)
def crSo (ws : List TWord) : Nat := elemSize (crOut ws)

/-- Contributions per element and member (R196). -/
def crK (ws : List TWord) : Nat := if crSrcSplit ws then 1 else crNsrc ws

/-! ## Elements, chunks and pieces (R197) -/

/-- Elements in a piece. -/
def crP (ws : List TWord) : Nat := crChunk ws / crNmem ws
/-- Number of chunks. -/
def crChunks (ws : List TWord) : Nat := if crOp ws = opAlltoall then 1 else (crCount ws + crChunk ws - 1) / crChunk ws
/-- Elements of a chunk. -/
def chunkLen (ws : List TWord) (k : Nat) : Nat := min (crChunk ws) (crCount ws - k * crChunk ws)
/-- Elements of member j's piece of a chunk. -/
def pieceLen (ws : List TWord) (k j : Nat) : Nat := min (crP ws) (chunkLen ws k - j * crP ws)
/-- Elements that a member owns. -/
def shardLen (ws : List TWord) (j : Nat) : Nat :=
  crCount ws / crChunk ws * crP ws + min (crP ws) (crCount ws % crChunk ws - j * crP ws)

/-- Elements of the source range (R194, R196). -/
def srcRange (ws : List TWord) : Nat := if crOp ws = opAllgather then shardLen ws (crSelf ws) else crCount ws
/-- Elements of the destination range. -/
def dstRange (ws : List TWord) : Nat := if crOp ws = opReduceScatter then shardLen ws (crSelf ws) else crCount ws

/-! ## The landing region (R199) -/

def up4k (n : Nat) : Nat := (n + 4095) / 4096 * 4096
/-- E. -/
def landE (ws : List TWord) : Nat := up4k (crNmem ws * 256)
/-- A. ALLTOALL has one area for each member in a combine too, whose area index is the member's number (DEDUCED: with NSRC = 2 the formula
(j × K + s) would leave every second area of the table's NMEM unused; assumption 46). -/
def landA (ws : List TWord) : Nat :=
  if crOp ws = opAlltoall then crNmem ws else if crReduces ws then (if crTree ws then 4 else crNmem ws * crK ws) else 0
/-- SH. -/
def landSh (ws : List TWord) : Nat :=
  if crOp ws = opAlltoall then 16 * crCap ws * crChunk ws
  else if crReduces ws then (if crTree ws then up4k (crCount ws * 48) else up4k (crChunks ws * crP ws * crSi ws)) else 0
/-- RS of a member. -/
def landRs (ws : List TWord) (j : Nat) : Nat :=
  let all := up4k (crCount ws * crSo ws)
  if crOp ws = opAlltoall ∨ crOp ws = opReduceScatter then 0
  else if crOp ws = opReduce ∧ !crTree ws then (if j = crRoot ws then all else 0) else all
/-- Z of a member. -/
def landZ (ws : List TWord) (j : Nat) : Nat := landE ws + landA ws * landSh ws + landRs ws j
/-- Offset of the current slot in a member's landing region. -/
def slotOff (ws : List TWord) (j : Nat) : Nat := (crSeq ws).toNat % 2 * landZ ws j
/-- Offset in a slot of contribution area a. -/
def areaOff (ws : List TWord) (a : Nat) : Nat := landE ws + a * landSh ws
/-- Offset in a slot of the result area. -/
def resOff (ws : List TWord) : Nat := landE ws + landA ws * landSh ws

/-! ## Trees (R208) -/

/-- Tree index of a member. -/
def treeIdx (ws : List TWord) (i : Nat) : Nat := (i + crNmem ws - crRoot ws) % crNmem ws
/-- The member at a tree index. -/
def treeMem (ws : List TWord) (k : Nat) : Nat := (k + crRoot ws) % crNmem ws
/-- A member's children. -/
def treeKids (ws : List TWord) (i : Nat) : List Nat :=
  ([1, 2, 3, 4].map fun d => 4 * treeIdx ws i + d).filterMap fun k => if k < crNmem ws then some (treeMem ws k) else none
/-- A member's parent. -/
def treeParent (ws : List TWord) (i : Nat) : Nat := treeMem ws ((treeIdx ws i - 1) / 4)

/-! ## Routing (R209 to R212) -/

/-- Field k of routing entry t: member and expert. -/
def routeAt (r : List Word) (t k : Nat) : Nat × Nat := (bitsOf (r.getD t 0) (16 * k) 12, bitsOf (r.getD t 0) (16 * k + 12) 4)

/-- The rows of a member for an expert, in (t, k) order. -/
def routeRows (r : List Word) (d x : Nat) : List (Nat × Nat) :=
  (List.range r.length).flatMap fun t => ([0, 1, 2, 3].filter fun k => routeAt r t k == (d, x)).map fun k => (t, k)

/-- Rows that this member sends for an expert of a member in a dispatch (R210). -/
def sentRows (ws : List TWord) (r : List Word) (d x : Nat) : List (Nat × Nat) := (routeRows r d x).take (crCap ws)

/-- Rows kept of member m for expert x, and the place of the first of them, by a count block (R211). -/
def keptOf (ws : List TWord) (cnt : Nat → Nat → Nat) (m x : Nat) : Nat × Nat :=
  let before := (List.range m).foldl (fun a i => a + cnt i x) 0
  (min (cnt m x) (crCap ws - before), before)

/-- Field x of row m of a count block. -/
def cntOf (blk : List Byte) (m x : Nat) : Nat := natOfBytes ((blk.drop (128 + 32 * m + 2 * x)).take 2)

/-! ## Field checks: order 1 of R198 -/

/-- The combinations of R195. -/
def crFmtOk (ws : List TWord) : Bool :=
  let i := crIn ws
  let o := crOut ws
  let op := crOp ws
  if op = opStep then decide (i ≤ 2) && decide (o ≤ 2)
  else if op = opAllgather ∨ op = opBroadcast ∨ op = opAlltoall then elemSize i != 0 && i == o
  else (decide (i ≤ 4) && decide (o ≤ 4)) || ((i == 11 || i == 12) && o == 11)

/-- Order 1 on the record's own fields. -/
def crFieldsOk (ws : List TWord) : Bool :=
  let op := crOp ws
  let a2a := op == opAlltoall
  let rooted := op == opReduce || op == opBroadcast || crTree ws
  let self := crSelf ws
  let root := crRoot ws
  let splitOk (n l : Nat) : Bool := n != 0 && l % (256 * n) == 0
  rb ws 1 1 == 1 && decide (op ≤ 6) && decide (crMode ws ≤ 4) &&
  reservedOk (rb ws 0 1) (decide (rb ws 4 1 < 16) && decide (rb ws 5 1 < 8) && decide (rb ws 6 1 < 64) && rb ws 7 1 == 0 &&
    (wd ws 14).bits == 0 && (wd ws 15).bits == 0) &&
  within 1 1024 (crNmem ws) && decide (self < crNmem ws) && decide (crNsrc ws ≤ 16) && decide (crNdst ws ≤ 16) &&
  (if rooted then decide (root < crNmem ws) else root == 0) && crFmtOk ws &&
  (if a2a then within 1 65536 (crCount ws) && within 8 65536 (crChunk ws) && crChunk ws % 8 == 0 && within 1 65535 (crCap ws) &&
      (if crReverse ws then crNsrc ws == 2 && crNdst ws == 1 else crNsrc ws == 1 && crNdst ws == 2)
    else within 1 (2 ^ 40) (crCount ws) && within 1 (2 ^ 24) (crChunk ws) && crChunk ws % (256 * crNmem ws) == 0 && crCap ws == 0) &&
  (op != opBroadcast || (if self = root then crNsrc ws != 0 else crNsrc ws == 0)) && (op != opAllgather || crNsrc ws != 0) &&
  (op != opReduce || self == root || crNdst ws == 0) &&
  (a2a || ((!crSrcSplit ws || crNsrc ws == 0 || splitOk (crNsrc ws) (srcRange ws)) &&
           (!crDstSplit ws || crNdst ws == 0 || splitOk (crNdst ws) (dstRange ws))))

/-- Handle words of a record in use: its position, the right kinds, rights and least length. -/
def crHandles (ws : List TWord) : List (Nat × List Nat × Nat) :=
  [(7, [rightRd], 8 * crNmem ws)] ++ (if crNsrc ws + crNdst ws = 0 then [] else [(8, [rightRd], 16 * (crNsrc ws + crNdst ws))]) ++
  [(9, [rightRd, rightWr], 0)] ++
  (if crOp ws = opStep then [(10, [rightRd], 64), (11, [rightRd, rightWr], 0)] else []) ++
  (if crOp ws = opAlltoall then [(12, [rightRd], 8 * crCount ws)] else []) ++
  (if crProgram ws then [(13, [rightEx], 0)] else [])

/-- The tag rules of the record (R193). -/
def crTagsOk (ws : List TWord) : Bool :=
  ([0, 1, 2, 3, 4, 5, 6, 14, 15].all fun i => tagIntNil (wd ws i).tag) &&
  ([7, 8, 9, 10, 11, 12, 13].all fun i => (wd ws i).tag == (if (crHandles ws).any (fun h => h.1 == i) then Tag.handle else Tag.nil))

/-- The words of a list that a handle word names, read where the handle lets the device read it. -/
def crList (s : State) (w : TWord) (n : Nat) : State × List TWord :=
  if recRegion s w [rightRd] (8 * n) ≠ stOk then (s, [])
  else
    let s := s.settle (regionBase s w) (8 * n)
    (s, memWords s.mem (regionBase s w) n)

/-- The lists of a record: members, endpoints, hyperparameters and routing. -/
structure CrLists where
  mem : List TWord
  eps : List TWord
  hyp : List TWord
  rte : List TWord

/-- Read the lists of a record. -/
def crLists (s : State) (ws : List TWord) : State × CrLists :=
  let (s, m) := crList s (wd ws 7) (crNmem ws)
  let (s, e) := if crNsrc ws + crNdst ws = 0 then (s, []) else crList s (wd ws 8) (2 * (crNsrc ws + crNdst ws))
  let (s, h) := if crOp ws = opStep then crList s (wd ws 10) 8 else (s, [])
  let (s, r) := if crOp ws = opAlltoall then crList s (wd ws 12) (crCount ws) else (s, [])
  (s, ⟨m, e, h, r⟩)

/-- Order 1 on the lists: CLIP without NORM, and routing entries (R198, R209). -/
def crListFieldsOk (ws : List TWord) (l : CrLists) : Bool :=
  (!(BitVec.ofNat 8 (rb l.hyp 5 1)).getLsbD 0 || crNorm ws) &&
  (l.rte.all fun w => [0, 1, 2, 3].all fun k => let m := bitsOf w.bits (16 * k) 12; decide (m < crNmem ws) || m == 0xFFF)

/-- Order 2 on the lists (R196, R209). -/
def crListTagsOk (ws : List TWord) (l : CrLists) : Bool :=
  (l.mem.zipIdx.all fun (w, j) => w.tag == (if j = crSelf ws then Tag.nil else Tag.handle)) &&
  (l.eps.zipIdx.all fun (w, j) => w.tag == (if j % 2 = 0 then Tag.handle else Tag.int64)) &&
  (l.rte.all fun w => w.tag == Tag.int64)

/-! ## Hyperparameters and the state header (R215, R216) -/

def hyProg (h : List TWord) : Nat := rb h 2 2
def hyTenant (h : List TWord) : Bool := hyProg h == 0x100
def hyClip (h : List TWord) : Bool := rb h 5 1 % 2 == 1

/-- The hyperparameter record's own rules (R216). -/
def hyOk (h : List TWord) : Bool :=
  rb h 1 1 == 1 && (decide (hyProg h ≤ 2) || hyTenant h) && (rb h 4 1 % 8 == 0 || rb h 4 1 % 8 == 4) &&
  reservedOk (rb h 0 1) (decide (rb h 4 1 < 8) && decide (rb h 5 1 < 2) && rb h 6 2 == 0 && rb h 36 4 == 0 && rb h 60 4 == 0) && (wd h 0).tag == Tag.int64 && ([1, 2, 3, 4].all fun i => (wd h i).tag == Tag.fp32x2) &&
  (wd h 5).tag == (if hyTenant h then Tag.handle else Tag.nil) && (wd h 6).tag == Tag.int64 && (wd h 7).tag == Tag.int64

/-- The state header agrees with the record (R215). -/
def headerOk (ws h hd : List TWord) (len : Nat) : Bool :=
  rb hd 1 1 == 1 && rb hd 2 2 == hyProg h && rb hd 4 1 == 0 && reservedOk (rb hd 0 1) (rb hd 5 1 == 0 && rb hd 6 2 == 0) && (wd hd 2).bits.toNat == crCount ws &&
  rb hd 24 4 == crChunk ws && rb hd 28 2 == crNmem ws && rb hd 30 2 == crSelf ws && ([0, 1, 2, 3].all fun i => (wd hd i).tag == Tag.int64) &&
  decide (4096 + (shardLen ws (crSelf ws) + 255) / 256 * 2048 ≤ len)

/-! ## Orders 3 to 9 of R198 -/

/-- Whether a tagged handle word is stale. -/
def isStale (s : State) (w : TWord) : Bool := w.tag == Tag.handle && (s.current w.bits).isNone

/-- Order 4 on one endpoint: kind, right and range. -/
def epOk (s : State) (ws : List TWord) (l : CrLists) (j : Nat) : Bool :=
  let w := wd l.eps (2 * j)
  let off := (wd l.eps (2 * j + 1)).bits.toNat
  let src := decide (j < crNsrc ws)
  let need : Nat :=
    if crOp ws = opAlltoall then
      if (src && crReverse ws && j == 1) || (!src && !crReverse ws && j == crNsrc ws + 1) then 128 + 32 * crNmem ws
      else if src == crReverse ws then 16 * crCap ws * crChunk ws
      else if src then crCount ws * crChunk ws else 4 * crCount ws * crChunk ws
    else if src then (if crSrcSplit ws then srcRange ws / crNsrc ws else srcRange ws) * crSi ws
    else (if crDstSplit ws then dstRange ws / crNdst ws else dstRange ws) * crSo ws
  match s.current w.bits with
  | none => false
  | some r => (r.kind == .local_ || r.kind == .host || r.kind == .accel) && hasRight w.bits (if src then rightRd else rightWr) &&
      decide (off + need ≤ r.len.toNat)

/-- Order 4 (R196, R198). -/
def crRightsOk (s : State) (ws : List TWord) (l : CrLists) : Bool :=
  ((crHandles ws).all fun (i, rs, n) => recRegion s (wd ws i) rs n == stOk) &&
  (l.mem.zipIdx.all fun (w, j) => j == crSelf ws || match s.current w.bits with
    | some r => r.kind == .remote && hasRight w.bits rightWr && !remIsEp (locOf w.bits r)
    | none => false) &&
  ((List.range (crNsrc ws + crNdst ws)).all (epOk s ws l)) &&
  decide (regionBase s (wd ws 9) < poolBase) &&
  -- a TENANT record whose code word is no HANDLE breaks R216, which order 9 finds
  (!hyTenant l.hyp || (wd l.hyp 5).tag != Tag.handle || recRegion s (wd l.hyp 5) [rightEx] 0 == stOk)

/-- Order 5 (R208). A program has no pieces to run on under TREE (DESIGN CHOICE: refused here). -/
def crAlgoOk (ws : List TWord) : Bool :=
  let op := crOp ws
  let r := crReduce ws
  let g := crGather ws
  (if r = 0 then true else r == 1 && (op == opAllreduce || op == opReduce) && decide (crCount ws ≤ 65536) && !crProgram ws) &&
  (if g = 0 then r != 1 else if g = 1 then r != 1 && op != opReduceScatter && op != opAlltoall
   else g == 2 && (r == 1 || op == opBroadcast))

/-- Group state of a Peck. -/
def groupsOf (s : State) (p : Nat) : Nat := (s.groups.filter fun g => g.peck == p).length

/-- The words of the lists that R198 examines: POISON among them is found before its first check (R573). -/
def CrLists.words (l : CrLists) : List TWord := l.mem ++ l.eps ++ l.hyp ++ l.rte

/-- The status that R198 gives a record with its lists once POISON has been excluded; the words of the state header come with it. -/
def crStatus (s : State) (p : Nat) (ws : List TWord) (l : CrLists) (hd : List TWord) : Status :=
  let land := s.region (hIndex (wd ws 9).bits)
  let grp := crGroup ws
  let next := ((s.group p grp).map (·.next)).getD 0
  if !crFieldsOk ws || !crListFieldsOk ws l then stRedBadRecord
  else if !crTagsOk ws || !crListTagsOk ws l then stTag
  else if ((crHandles ws).any fun h => isStale s (wd ws h.1)) || (l.mem ++ l.eps).any (isStale s) || isStale s (wd l.hyp 5) then stStale
  else if !crRightsOk s ws l then stRights
  else if !crAlgoOk ws then stRedAlgo
  else if land.len.toNat < 2 * landZ ws (crSelf ws) then stRedLandingSmall
  else if s.bindings.any fun b => b.index == hIndex (wd ws 9).bits && b.gen == land.gen && !(b.peck == p && b.group == grp) then stRedBadRecord
  else if (crSeq ws).toNat ≠ next then stRedSeq
  else if bitsOf (s.reg (rRedPeck p)) 0 8 = 0 ∨ ((s.group p grp).isNone ∧ groupsOf s p ≥ bitsOf (s.reg (rRedPeck p)) 16 13) then stRedResources
  else if crOp ws = opStep ∧ anyPoison hd then stPoison
  else if crOp ws = opStep ∧ !(hyOk l.hyp && headerOk ws l.hyp hd (s.region (hIndex (wd ws 11).bits)).len.toNat) then stRedHyper
  else stOk

/-! ## The digest (R202) -/

/-- Bytes of words. -/
def wordsBytes (ws : List TWord) : List Byte := ws.flatMap fun w => bytesOf 8 w.bits.toNat

/-- DIGEST. Byte 12 of a BROADCAST record, which R194 lets differ among members, counts as 0 (DEDUCED). -/
def crDigest (s : State) (ws : List TWord) (members : List Loc) (hyp : List TWord) : Word :=
  let b := wordsBytes ws
  let b12 := if crOp ws = opBroadcast then [0] else (b.drop 12).take 1
  let addrs := members.zipIdx.flatMap fun (l, j) => bytesOf 16 (if j = crSelf ws then fabricBase s else l.raddr).toNat
  let m := b.take 10 ++ b12 ++ (b.drop 14).take 42 ++ addrs ++ (if crOp ws = opStep then wordsBytes (hyp.take 8) else [])
  BitVec.ofNat 64 (natOfBytes (ofNats ((sha384 (toNats m)).take 8)))

/-! ## Acceptance -/

/-- The region that a handle word of a list names. -/
def locWord (s : State) (w : TWord) : Loc := match s.current w.bits with
  | some r => locOf w.bits r
  | none => Loc.none

/-- The collective that an accepted record begins. -/
def newColl (s : State) (i : Item) (ws : List TWord) (l : CrLists) (hd : List TWord) : Coll :=
  let members := l.mem.map (locWord s)
  let ep (j : Nat) : Loc × Word := (locWord s (wd l.eps (2 * j)), (wd l.eps (2 * j + 1)).bits)
  { id := s.nextColl, peck := i.fn, item := i.id, rec_ := ws, hyper := l.hyp, members := members,
    srcs := (List.range (crNsrc ws)).map ep, dsts := (List.range (crNdst ws)).map fun j => ep (crNsrc ws + j),
    landing := locWord s (wd ws 9), seq := (crSeq ws).toNat, rowsAt := slotOff ws (crSelf ws), rowsLen := 256 * crNmem ws, state_ := locWord s (wd ws 11), hyp := locWord s (wd ws 10), route := l.rte.map (·.bits),
    digest := crDigest s ws members l.hyp,
    running := false, t0 := 0, lastAnn := 0, stall := bitsOf (s.reg rRedCfg) 0 14, vlim := bitsOf (s.reg rRedCfg) 16 14,
    engs := reduceEngines s i.fn, sent := 0, xfers := [], nextX := 1, sends := [], own := [], red := [], res := [], norm := .clear,
    nonfin := false, voted := none, verdict := none, norm2 := 0, step := (wd hd 1).bits, jobs := [], fwd := [], done := [],
    wrote := false, dropped := 0, endSt := none }

/-- Give the words of a range of device memory, but for POISON words, the tag INT64. -/
def retagInt (s : State) (a n : Nat) : State :=
  (List.range (n / 8)).foldl (fun s k =>
    let w := s.mem.word (a + 8 * k)
    if w.tag = Tag.poison then s else s.putWord (a + 8 * k) (TWord.int w.bits)) s

/-- Exchange records that came before their collective was accepted have tag INT64 too (R201). -/
def retagRows (s : State) (c : Coll) : State :=
  (s.landed.filter fun l => l.index == c.landing.index && c.inRows l.seq l.off l.len).foldl (fun s l => retagInt s (c.landing.base.toNat + l.off) l.len) s

/-- Take an accepted record: the group's next SEQ, the binding of the landing region, and the collective, which waits for its turn
(R200). -/
def addColl (s : State) (c : Coll) : State :=
  let g := crGroup c.rec_
  let seq := (crSeq c.rec_).toNat
  let grp : Group := match s.group c.peck g with
    | some x => { x with next := seq + 1 }
    | none => ⟨c.peck, g, 0, 1, []⟩
  let b : Binding := ⟨c.landing.index, c.landing.gen, c.peck, g⟩
  let s := retagRows s c
  { s with nextColl := s.nextColl + 1, colls := s.colls ++ [c],
           groups := (s.groups.filter fun x => !(x.peck == c.peck && x.group == g)) ++ [grp],
           bindings := if s.bindings.contains b then s.bindings else s.bindings ++ [b] }

end Sys2Proof.Machine
end

