-- ==== Sys2Proof/Machine/CollectRun.lean ====
section
/-!
DEFINITION. Collectives while they run (R203 to R221): announces, pieces, sums, votes, the optimizer, results, deliveries, and the
end of a collective.
-/

namespace Sys2Proof.Machine

def State.coll (s : State) (id : Nat) : Option Coll := s.colls.find? fun c => c.id == id
def State.updColl (s : State) (id : Nat) (f : Coll → Coll) : State :=
  { s with colls := s.colls.map fun c => if c.id = id then f c else c }

/-! ## Landed ranges (R204) -/

/-- How far the messages that landed cover a region from a position on; `fuel` bounds the messages. -/
def coverFrom (l : List Landed) : Nat → Nat → Nat
  | 0, pos => pos
  | fuel + 1, pos => match l.find? fun x => decide (x.off ≤ pos) && decide (pos < x.off + x.len) with
    | some x => coverFrom l fuel (x.off + x.len)
    | none => pos

/-- Whether a range of the current slot has landed: offset in the slot and bytes. -/
def landed (s : State) (c : Coll) (off n : Nat) : Bool :=
  let seq := (crSeq c.rec_).toNat
  let l := s.landed.filter fun x => x.index == c.landing.index && x.seq == seq
  let lo := slotOff c.rec_ (crSelf c.rec_) + off
  n == 0 || decide (lo + n ≤ coverFrom l (l.length + 1) lo)

/-- Device address of an offset in the current slot. -/
def landAddr (c : Coll) (off : Nat) : Nat := c.landing.base.toNat + slotOff c.rec_ (crSelf c.rec_) + off

/-- Note a range of the current slot that the device filled itself. -/
def landOwn (s : State) (c : Coll) (off n : Nat) : State :=
  { s with landed := s.landed ++ [(⟨c.landing.index, (crSeq c.rec_).toNat, slotOff c.rec_ (crSelf c.rec_) + off, n⟩ : Landed)] }

/-! ## Messages -/

/-- Send n bytes to an offset of a member's current slot, as messages that carry GROUP and SEQ (R200, R270). -/
def collMsg (s : State) (id j off n : Nat) (src : Nat → Nat → MsgSrc) : State :=
  match s.coll id with
  | none => s
  | some c =>
    let l := c.members.getD j Loc.none
    let ps := wymPsize s
    let parts := msgPieces ps n
    let s := s.updColl id fun c => { c with sent := c.sent + parts.length }
    parts.foldl (fun s (o, k) =>
      dealMsg s (5000 + c.peck) l.raddr (newMsg .write c.peck l 0 (l.base + BitVec.ofNat 64 (slotOff c.rec_ j + off + o)) k ps none false
        (some (crGroup c.rec_, crSeq c.rec_)) (.coll id 0) 0 (src o k))) s

/-- Send bytes to a member. -/
def collBytes (s : State) (id j off : Nat) (bs : List Byte) : State := collMsg s id j off bs.length fun o k => .bytes ((bs.drop o).take k)
/-- Send device memory to a member. -/
def collMem (s : State) (id j off a n : Nat) : State := collMsg s id j off n fun o _ => .mem (a + o)

/-- Other members. -/
def others (ws : List TWord) : List Nat := (List.range (crNmem ws)).filter fun j => j ≠ crSelf ws

/-! ## The end of a collective -/

/-- Drop everything a collective still has under way. -/
def collDrop (s : State) (c : Coll) : State :=
  let s := c.jobs.foldl (fun s j => unlend (clearJob s j.eng 7) j.base) s
  dropUser (dropFetches s fun u => match u with | .coll d _ => d == c.id | _ => false) (.coll c.id 0)

/-- LAST + 1 of a group after a collective of SEQ `seq` has completed: LAST takes a SEQ in its turn, and passes those completed before it (R200);
`fuel` bounds those. -/
def lastAfter (gone : List Nat) : Nat → Nat → Nat
  | 0, d => d
  | fuel + 1, d => if gone.contains d then lastAfter gone fuel (d + 1) else d

/-- A group after one of its collectives has completed: one whose turn has not come is remembered until it does. -/
def groupDone (g : Group) (seq : Nat) : Group :=
  if seq < g.done then g
  else
    let gone := g.gone ++ [seq]
    let d := lastAfter gone (gone.length + 1) g.done
    { g with done := d, gone := gone.filter fun x => decide (d ≤ x) }

/-- A collective leaves the device: LAST takes its SEQ, and its item completes (R200, R224). -/
def collLeave (s : State) (c : Coll) (st : Status) (result : Word) : State :=
  let s := collDrop s c
  let seq := (crSeq c.rec_).toNat
  let s := { s with
    colls := s.colls.filter fun x => x.id ≠ c.id,
    groups := s.groups.map fun (g : Group) => if g.peck = c.peck ∧ g.group = crGroup c.rec_ then groupDone g seq else g,
    landed := s.landed.filter fun x => !(x.index == c.landing.index && x.seq == seq) }
  let s := s.bump (if st = stOk then rRedDone else rRedFail) 1
  match s.item c.item with
  | none => s
  | some i => s.completeItem i st result 0

/-- RESULT of a collective with a verdict (R214). -/
def collResult (c : Coll) : Word :=
  if crVerdict c.rec_ ∨ crNorm c.rec_ then
    BitVec.ofNat 64 ((if crNorm c.rec_ then c.norm2.toNat else 0) + (if crVerdict c.rec_ then c.verdict.getD 3 else 0) * 2 ^ 32)
  else 0

/-! ## Announces (R201, R203) -/

/-- The count block of a combine, once it is here. -/
def countBlock (s : State) (c : Coll) : State × Option (List Byte) :=
  match c.srcs[1]? with
  | none => (s, none)
  | some (l, off) =>
    let n := 128 + 32 * crNmem c.rec_
    if l.kind = .local_ then
      let (s, bs, _) := exportRange s (l.base.toNat + off.toNat) n
      (s, some bs)
    else match c.own with
      | (_, bs) :: _ => (s, some bs)
      | [] => (s, none)

/-- COUNTS of the announce to a member (R210, R211). -/
def annCounts (c : Coll) (blk : List Byte) (j : Nat) : List Nat :=
  (List.range 16).map fun x =>
    if crOp c.rec_ ≠ opAlltoall then 0
    else if crReverse c.rec_ then (keptOf c.rec_ (cntOf blk) j x).1
    else (sentRows c.rec_ c.route j x).length

/-- An exchange record (R201): KIND, FLAGS, STEP, COUNTS and NORMIMG. -/
def exchange (c : Coll) (kind flags : Nat) (step : Word) (counts : List Nat) (img : List Word) : List Byte :=
  bytesOf 8 (0x0100 + crSelf c.rec_ * 2 ^ 16 + kind * 2 ^ 32 + flags * 2 ^ 40) ++ bytesOf 8 c.digest.toNat ++ bytesOf 8 (crSeq c.rec_).toNat ++
    bytesOf 8 step.toNat ++ counts.flatMap (bytesOf 2) ++ img.flatMap (fun w => bytesOf 8 w.toNat) ++ List.replicate (64 - 8 * img.length) 0

/-- Send the announce record to members. -/
def announce (s : State) (id : Nat) (js : List Nat) : State :=
  match s.coll id with
  | none => s
  | some c =>
    let comb := crOp c.rec_ == opAlltoall && crReverse c.rec_
    let (s, blk) := if comb then countBlock s c else (s, some [])
    match blk with
    | none => s
    | some b => js.foldl (fun s j => collBytes s id j (crSelf c.rec_ * 128) (exchange c 0 0 0 (annCounts c b j) [])) s

/-- Member j's announce record has arrived. -/
def announced (s : State) (c : Coll) (j : Nat) : Bool := j == crSelf c.rec_ || landed s c (j * 128) 128

/-! ## Votes (R213) -/

/-- Chunks of which this member owns a piece to reduce. -/
def ownedChunks (ws : List TWord) : List Nat :=
  if crTree ws then [0]
  else if crReduces ws then (List.range (crChunks ws)).filter fun k => pieceLen ws k (crSelf ws) != 0
  else []

/-- Send the vote once every owned piece is reduced; the own vote goes to the device's own row. -/
def collVote (s : State) (id : Nat) : State :=
  match s.coll id with
  | none => s
  | some c =>
    let ws := c.rec_
    if !(crVerdict ws || crNorm ws) ∨ c.voted.isSome ∨ c.endSt.isSome ∨ !((ownedChunks ws).all fun k => c.red.any fun e => e.1 == k) then s
    else
      let off := crNmem ws * 128 + crSelf ws * 128
      let flags := (if crVerdict ws && c.nonfin then 1 else 0) + (if crNorm ws then 2 else 0)
      let bs := exchange c 1 flags (if crOp ws = opStep then c.step else 0) (List.replicate 16 0) (if crNorm ws then accImage c.norm else [])
      let (s, _) := placeBytes s (landAddr c off) bs Tag.int64
      let s := (landOwn s c off 128).updColl id fun c => { c with voted := some s.time }
      (others ws).foldl (fun s j => collBytes s id j off bs) s

/-! ## Start (R203) -/

/-- A collective's turn has come: phase 1. A combine with an external count block reads it first. -/
def collStart (s : State) (id : Nat) : State :=
  match s.coll id with
  | none => s
  | some c =>
    let ws := c.rec_
    -- STEP may have advanced since acceptance
    let s := if crOp ws = opStep then s.settle (c.state_.base.toNat + 8) 8 else s
    let step := if crOp ws = opStep then (s.mem.word (c.state_.base.toNat + 8)).bits else c.step
    let s := s.updColl id fun c => { c with running := true, t0 := s.time, lastAnn := s.time, step := step }
    let s := match (if crOp ws = opAlltoall ∧ crReverse ws then c.srcs[1]? else none) with
      | some (l, off) =>
        if l.kind = .local_ then s
        else fetchStart (s.updColl id fun c => { c with xfers := c.xfers ++ [⟨0, [], true, 0⟩] }) (.coll id 0) c.peck l off.toNat
          (128 + 32 * crNmem ws) []
      | none => s
    collVote (announce s id (others ws)) id

/-- The next collective of a group whose turn it is (R200). -/
def collNext (s : State) (peck : Nat) (g : BitVec 32) : State :=
  match s.group peck g with
  | none => s
  | some x =>
    match s.colls.find? fun c => c.peck == peck && crGroup c.rec_ == g && !c.running && (crSeq c.rec_).toNat == x.done with
    | some c => collStart s c.id
    | none => s

/-- End a collective with a status at once, and let the next of its group run. -/
def collEnd (s : State) (c : Coll) (st : Status) (result : Word) : State := collNext (collLeave s c st result) c.peck (crGroup c.rec_)

/-- Fail a collective (R220). -/
def collFail (s : State) (id : Nat) (st : Status) : State :=
  match s.coll id with
  | none => s
  | some c => collEnd s c st (collResult c)

/-- The request of a collective: POISON in the record or its lists first (R573), then the checks of R198 in order, and acceptance. -/
def collBegin (s : State) (i : Item) (ws : List TWord) : State :=
  if anyPoison ws then s.done i stPoison
  else
    let (s, l) := crLists s ws
    if anyPoison l.words then s.done i stPoison else
    let (s, hd) := if crOp ws = opStep then crList s (wd ws 11) 4 else (s, [])
    let st := crStatus s i.fn ws l hd
    if st ≠ stOk then s.done i st
    else
      let c := newColl s i ws l hd
      collNext (addColl (s.setPhase i.id .active) c) c.peck (crGroup ws)

/-- The record that a request names, when it can be read (R193). -/
def collRecord (s : State) (i : Item) : State × Except Status (List TWord) :=
  let r := i.ref 0
  let st := r.check [.local_] [rightRd]
  if st ≠ stOk then (s, .error st)
  else if r.loc.holds (i.w 1) 128 128 = false then (s, .error stRights)
  else
    let a := (r.loc.base + i.w 1).toNat
    let s := s.settle a 128
    (s, .ok (memWords s.mem a 16))

/-- A collective request under one of its rows: the row that names the record's OP takes it. -/
def collRow (op : Nat) (id : Nat) (s : State) : State :=
  s.request id 0x0200 fun i =>
    match collRecord s i with
    | (s', .ok ws) => if !wordPoison (wd ws 0) && crOp ws == op then collBegin s' i ws else s
    | (_, .error _) => s

/-- COLLECTIVE_REFUSED: a request whose record cannot be read, is tainted in its first word, or names no OP. POISON anywhere in the record or its
lists comes before the reserved OP (R573). -/
def collRefused (id : Nat) (s : State) : State :=
  s.request id 0x0200 fun i =>
    match collRecord s i with
    | (s', .error st) => s'.done i st
    | (s', .ok ws) =>
      if wordPoison (wd ws 0) then s'.done i stPoison
      else if crOp ws ≤ 6 then s
      else if anyPoison ws then s'.done i stPoison
      else
        let (s', l) := crLists s' ws
        s'.done i (if anyPoison l.words then stPoison else stRedBadRecord)

/-! ## Reading sources -/

/-- The runs of elements [lo, lo + n) of contribution k: endpoint, byte offset in its region, byte offset in the run, bytes (R196). -/
def srcRuns (c : Coll) (k lo n : Nat) : List (Nat × Nat × Nat × Nat) :=
  let ws := c.rec_
  let si := crSi ws
  let off (j : Nat) : Nat := ((c.srcs.getD j (Loc.none, 0)).2).toNat
  if !crSrcSplit ws then [(k, off k + lo * si, 0, n * si)]
  else
    let per := srcRange ws / crNsrc ws
    (List.range (crNsrc ws)).filterMap fun j =>
      let a := max lo (j * per)
      let b := min (lo + n) ((j + 1) * per)
      if a < b then some (j, off j + (a - j * per) * si, (a - lo) * si, (b - a) * si) else none

/-- Put n bytes of device memory into the current slot of this device and of members. -/
def collPutMem (s : State) (id : Nat) (own : Bool) (tos : List Nat) (off a n : Nat) (tag : Tag) : State :=
  match s.coll id with
  | none => s
  | some c =>
    let (s, st) := if own then svcMove s c.peck a { c.landing with base := 0 } (landAddr c off) n tag else (s, stOk)
    let s := if own then landOwn s c off n else s
    let s := tos.foldl (fun s j => collMem s id j off a n) s
    if st ≠ stOk then collFail s id st else s

/-- Put bytes into the current slot of this device and of members. -/
def collPutBytes (s : State) (id : Nat) (own : Bool) (tos : List Nat) (off : Nat) (bs : List Byte) (tag : Tag) : State :=
  match s.coll id with
  | none => s
  | some c =>
    let (s, bad) := if own then placeBytes s (landAddr c off) bs tag else (s, [])
    let s := if own then landOwn s c off bs.length else s
    let s := tos.foldl (fun s j => collBytes s id j off bs) s
    if bad ≠ [] then collFail s id stTag else s

/-- Bring a run of a source where it goes: device memory at once, an external source by a read (R203, phases 2 and 6). `buf` keeps it for a
TREE reduction instead. -/
def collRun (s : State) (id ep srcOff n : Nat) (own : Bool) (tos : List Nat) (buf : Bool) (off : Nat) (deny : List Nat) : State :=
  match s.coll id with
  | none => s
  | some c =>
    let (l, _) := c.srcs.getD ep (Loc.none, 0)
    if n = 0 then s
    else if l.kind = .local_ then
      let a := l.base.toNat + srcOff
      if buf then
        let (s, bs, bad) := exportRange s a n
        match bad with
        | (_, st) :: _ => collFail s id st
        | [] => s.updColl id fun c => { c with own := tblInsert (tblErase c.own off) off bs }
      else collPutMem s id own tos off a n (match fmtOfCode (crIn c.rec_) with | some f => fmtTag f | none => Tag.nil)
    else
      let s := s.updColl id fun c => { c with nextX := c.nextX + 1, xfers := c.xfers ++ [⟨c.nextX, tos, own, off⟩] }
      fetchStart s (.coll id (c.nextX + (if buf then 2 ^ 40 else 0))) c.peck l srcOff n deny

/-- A read of a collective has ended. -/
def collFetched (s : State) (id k : Nat) (bs : List Byte) (st : Status) : State :=
  match s.coll id with
  | none => s
  | some c =>
    let num := k % 2 ^ 40
    match c.xfers.find? fun x => x.num == num with
    | none => s
    | some x =>
      let s := s.updColl id fun c => { c with xfers := c.xfers.filter fun y => y.num ≠ num }
      if st ≠ stOk then collFail s id st
      else if num = 0 then announce (s.updColl id fun c => { c with own := [(0, bs)] }) id (others c.rec_)
      else if k ≥ 2 ^ 40 then s.updColl id fun c => { c with own := tblInsert (tblErase c.own x.off) x.off bs }
      else collPutBytes s id x.own x.tos x.off bs (match fmtOfCode (crIn c.rec_) with | some f => fmtTag f | none => Tag.nil)

/-- A message of a collective has its outcome (R203, R220). -/
def collOutcome (s : State) (id : Nat) (st : Status) : State :=
  let s := s.updColl id fun c => { c with sent := c.sent - 1 }
  if st ≠ stOk then collFail s id st else s

/-! ## Checking what arrives (R202) -/

/-- The word at an offset of the current slot. -/
def landWord (s : State) (c : Coll) (off : Nat) : Word := (s.mem.word (landAddr c off)).bits

/-- An announce record that arrived names another shape. -/
def mismatched (s : State) (c : Coll) : Bool :=
  (others c.rec_).any fun j => announced s c j && (landWord s c (j * 128 + 8) != c.digest || landWord s c (j * 128 + 16) != crSeq c.rec_)

/-- A running collective acts on a row; one that finds a disagreeing announce record is decided instead, and only its own messages are
still awaited (R202). -/
def collAct (s : State) (id : Nat) (k : Coll → State) : State :=
  match s.coll id with
  | none => s
  | some c =>
    if !c.running ∨ c.endSt.isSome then s
    else if mismatched s c then (s.bump rRedMismatch 1).updColl id fun c => { c with endSt := some stRedShape, verdict := if crVerdict c.rec_ then some 2 else none }
    else k c

/-! ## SEND (phase 2) -/

/-- The rows that go back to member j in a combine: row numbers of source 0. -/
def backRows (c : Coll) (blk : List Byte) (j : Nat) : List Nat :=
  (List.range 16).flatMap fun x =>
    let (n, at_) := keptOf c.rec_ (cntOf blk) j x
    (List.range n).map fun q => x * crCap c.rec_ + at_ + q

/-- The rows that go to member j, as row numbers of source 0. -/
def rowsTo (s : State) (c : Coll) (j : Nat) : Option (List Nat) :=
  if crReverse c.rec_ then ((countBlock s c).2).map fun b => backRows c b j
  else some ((List.range 16).flatMap fun x => (sentRows c.rec_ c.route j x).map (·.1))

/-! ### Chunks in flight (R203) -/

/-- Phases 5 to 7 may run (R203, R214). A collective with NORM and no VERDICT waits for the votes too, since R214 lets it write nothing without them
(DEDUCED, assumption 46). -/
def collOpen (c : Coll) : Bool := !(crVerdict c.rec_ || crNorm c.rec_) || c.verdict == some 0

/-- The chunks that the device has started, in the order in which it did: by their first pieces, or, without a SEND phase, by their own result
pieces. -/
def startOrder (c : Coll) : List Nat :=
  (if crReduces c.rec_ then c.sends.map (·.1) else (c.fwd.filter fun x => x.2 == crSelf c.rec_).map (·.1)).eraseDups

/-- The source that holds a chunk's first element, under SRCSPLIT. -/
def chunkSource (ws : List TWord) (k : Nat) : Nat :=
  (if crOp ws = opAllgather then k * crP ws else k * crChunk ws) / max 1 (srcRange ws / max 1 (crNsrc ws))

/-- The chunk to start next: in increasing number, or under SRCSPLIT the next of each source in turn (R203). -/
def nextStart (c : Coll) : Option Nat :=
  let ws := c.rec_
  let started := startOrder c
  let left := (List.range (crChunks ws)).filter fun k => !started.contains k
  if !crSrcSplit ws then left.head?
  else
    let n := max 1 (crNsrc ws)
    let first := match started.getLast? with
      | some k => chunkSource ws k + 1
      | none => 0
    ((List.range n).map fun d => (first + d) % n).findSome? fun j => left.find? fun k => chunkSource ws k % n == j

/-- A chunk has left the phases that it can run now: before the votes are in, SEND and REDUCE, and else all of them. -/
def chunkOver (c : Coll) (k : Nat) : Bool :=
  let ws := c.rec_
  if collOpen c then c.done.contains k
  else (List.range (crNmem ws)).all (fun j => pieceLen ws k j == 0 || c.sends.contains (k, j)) &&
    (pieceLen ws k (crSelf ws) == 0 || c.red.any fun e => e.1 == k)

/-- A chunk is started already, or is the next to start and fewer than 16 are in flight (R203). -/
def mayStart (c : Coll) (k : Nat) : Bool :=
  let started := startOrder c
  started.contains k || (nextStart c == some k && decide ((started.filter fun j => !chunkOver c j).length < 16))

/-- COLL_SEND: the pieces of a chunk that member j owns go to it from every source, once its announce record has arrived (R203). -/
def runCollSend (id k j : Nat) (deny : List Nat) (s : State) : State :=
  collAct s id fun c =>
    let ws := c.rec_
    let self := crSelf ws
    let own := j == self
    let tos := if own then [] else [j]
    let go (s : State) : State := s.updColl id fun c => { c with sends := c.sends ++ [(k, j)] }
    if c.sends.contains (k, j) ∨ j ≥ crNmem ws ∨ k ≥ crChunks ws ∨ !announced s c j then s
    else if crOp ws = opAlltoall then
      match rowsTo s c j with
      | none => s
      | some rows =>
        let o0 := ((c.srcs.getD 0 (Loc.none, 0)).2).toNat
        rows.zipIdx.foldl (fun s (r, i) =>
          collRun s id 0 (o0 + r * crChunk ws) (crChunk ws) own tos false (areaOff ws self + i * crChunk ws) deny) (go s)
    else if !crReduces ws ∨ !mayStart c k then s
    else if crTree ws then
      if k ≠ 0 ∨ !own then s
      else (List.range (crK ws)).foldl (fun s m =>
        (srcRuns c m 0 (crCount ws)).foldl (fun s (ep, so, ro, n) => collRun s id ep so n false [] true (m * crCount ws * crSi ws + ro) deny) s) (go s)
    else
      let lo := k * crChunk ws + j * crP ws
      (List.range (crK ws)).foldl (fun s m =>
        (srcRuns c m lo (pieceLen ws k j)).foldl (fun s (ep, so, ro, n) =>
          collRun s id ep so n own tos false (areaOff ws (self * crK ws + m) + k * crP ws * crSi ws + ro) deny) s) (go s)

/-! ## REDUCE (phase 3) -/

/-- The rounding of element e of a result (R204, R206). -/
def resRnd (ws : List TWord) (e : Nat) : Rnd :=
  let m := crMode ws
  let rm : Rm := if m = 0 then .rne else if m = 1 then .rz else if m = 2 then .ru else if m = 3 then .rd else .sr
  ⟨rm, if rm = .sr then philox (crKey ws) (e % 256 / 4) (BitVec.ofNat 32 (crBase ws + e / 256)) (crSeq ws) (e % 4) else 0⟩

/-- The read-out target of a format code (R82). -/
def codeTarget (code : Nat) : STarget :=
  if code = 0 then .fp32 else if code = 1 then .bf16 else if code = 2 then .fp16 else if code = 3 then .e4m3 else if code = 4 then .e5m2 else .int32

/-- The value of an element of a format code. -/
def codeVal (code b : Nat) : FVal := match fmtOfCode code with
  | some f => elemVal f b
  | none => .nan

/-- RNE. -/
def rne : Rnd := ⟨.rne, 0⟩
/-- An FP32 value from its bits. -/
def f32 (b : Nat) : FVal := decodeE fmtFp32 b
/-- Round a value to FP32 bits under RNE. -/
def r32b (v : FVal) : Nat := (roundE fmtFp32 .ieee rne v).1
/-- Round a value to FP32 under RNE. -/
def r32 (v : FVal) : FVal := f32 (r32b v)

/-- The element at an address of device memory. -/
def elemAt (s : State) (code a : Nat) : FVal := codeVal code (s.mem.num a (elemSize code))

/-- Whether a value is a NaN or an infinity. -/
def FVal.nonFinite (v : FVal) : Bool := !v.isFinite

/-- Read out the accumulators of elements from e0 on: bytes in OUT, or FP32 for STEP; the exact sum of g², and NONFINITE (R204, R213). -/
def readOuts (ws : List TWord) (e0 : Nat) (accs : List XAcc) (norm : XAcc) : List Byte × XAcc × Bool :=
  let step := crOp ws == opStep
  let code := if step then 0 else crOut ws
  accs.zipIdx.foldl (fun (bs, nm, nf) (a, i) =>
    let w := (accReadOut a (codeTarget code) (if step then rne else resRnd ws (e0 + i))).1.bits.toNat
    let g := f32 ((accReadOut a .fp32 rne).1.bits.toNat % 2 ^ 32)
    let nm := if crNorm ws then accAdd nm (r32 (g.mul g)) else nm
    (bs ++ bytesOf (elemSize code) w, nm, nf || (code != 11 && (codeVal code (w % 2 ^ (8 * elemSize code))).nonFinite))) ([], norm, false)

/-- Store a reduced piece. -/
def collReduced (s : State) (id k : Nat) (bs : List Byte) (nm : XAcc) (nf : Bool) : State :=
  collVote (s.updColl id fun c => { c with red := c.red ++ [(k, bs)], norm := nm, nonfin := c.nonfin || nf }) id

/-- Any word of a range that cannot be consumed, once the range has been read. -/
def rangePoison (s : State) (a n : Nat) : State × Bool :=
  let (s, ws) := readWords s a n
  (s, anyPoison ws)

/-- The contribution areas of a piece: their offsets in the slot. -/
def pieceAreas (ws : List TWord) (k : Nat) : List Nat :=
  (List.range (crNmem ws * crK ws)).map fun a => areaOff ws a + k * crP ws * crSi ws

/-- The exact sums of a piece of n elements (R204). -/
def pieceSums (s : State) (c : Coll) (areas : List Nat) (n : Nat) : List XAcc :=
  let ws := c.rec_
  (List.range n).map fun i => accAddAll XAcc.clear (areas.map fun o => elemAt s (crIn ws) (landAddr c (o + i * crSi ws)))

/-- The value of a reduction program's result piece, read from memory (R207): bytes, the sum of g² and NONFINITE. Under STEP the optimizer takes the
program's OUT elements widened to FP32 as its gradient (DESIGN CHOICE: the manual does not say what it takes; assumption 46). -/
def programPiece (s : State) (c : Coll) (a n : Nat) : List Byte × XAcc × Bool :=
  let ws := c.rec_
  (List.range n).foldl (fun (bs, nm, nf) i =>
    let b := s.mem.num (a + i * crSo ws) (crSo ws)
    let v := codeVal (crOut ws) b
    let g := r32 v
    (bs ++ (if crOp ws = opStep then bytesOf 4 (r32b v) else bytesOf (crSo ws) b), (if crNorm ws then accAdd nm (r32 (g.mul g)) else nm),
     nf || (crOut ws != 11 && v.nonFinite))) ([], c.norm, false)

/-- Where the program of a piece writes: the piece's place in this device's result area, or lent memory where the OP gives the device no
result area there (R199, R207; DESIGN CHOICE). -/
def programOut (c : Coll) (k : Nat) (base : Nat) : Nat :=
  let ws := c.rec_
  if landRs ws (crSelf ws) = 0 then base else landAddr c (resOff ws + (k * crChunk ws + crSelf ws * crP ws) * crSo ws)

/-- A piece's program in slot 7: started, awaited, and ended (R207). -/
def programRow (s : State) (c : Coll) (k n : Nat) (areas : List Nat) : State :=
  let ws := c.rec_
  match c.jobs.find? fun j => j.chunk == k && !j.tenant with
  | none =>
    match jobPlace s c.peck c.engs 7, lend s (.coll c.id 0) (if landRs ws (crSelf ws) = 0 then n * crSo ws else 0) with
    | some e, some (s, b) =>
      let a0 := landAddr c (areas.headD 0)
      let s := startJob s c.peck e 7 (wd ws 13).bits
        [(a0, (areas.length - 1) * landSh ws + n * crSi ws, 1), (programOut c k b, n * crSo ws, 2)] none
        [TWord.int (BitVec.ofNat 64 (k * crChunk ws + crSelf ws * crP ws)), TWord.int (BitVec.ofNat 64 n), TWord.int (BitVec.ofNat 64 (landSh ws))]
        0 0 0 true
      s.updColl c.id fun c => { c with jobs := c.jobs ++ [⟨k, e, false, b⟩] }
    | _, _ => s
  | some j =>
    match jobEnd s j.eng 7 with
    | none => s
    | some r =>
      let a := programOut c k j.base
      let (s, bad) := rangePoison s a (n * crSo ws)
      let (bs, nm, nf) := programPiece s c a n
      let s := unlend (clearJob s j.eng 7) j.base
      let s := s.updColl c.id fun c => { c with jobs := c.jobs.filter fun x => !(x.chunk == k && !x.tenant) }
      match r with
      | .error st => collFail s c.id st
      | .ok v => if v ≠ 0 then collFail s c.id stRedBadRecord else if bad then collFail s c.id stPoison else collReduced s c.id k bs nm nf

/-- The image at an address (R72). -/
def imageAt (s : State) (a : Nat) : Option XAcc := accOfImage ((List.range 6).map fun i => (s.mem.word (a + 8 * i)).bits)

/-- The bytes of a TREE's own contributions, once all are here. -/
def ownBytes (c : Coll) : Option (List Byte) :=
  let bs := c.own.flatMap (·.2)
  if bs.length = crK c.rec_ * crCount c.rec_ * crSi c.rec_ then some bs else none

/-- The reduction of a TREE (R208): children's images merged with the member's own contributions; the root reads out, others send to their
parent. A child's images lie in contribution area (tree index − 1) mod 4 (DESIGN CHOICE: R199 gives four areas and no numbering; assumption 46). An
image that R72 refuses is no valid record. -/
def treeReduce (s : State) (c : Coll) (bs : List Byte) : State :=
  let ws := c.rec_
  let n := crCount ws
  let si := crSi ws
  let kids := (treeKids ws (crSelf ws)).map fun j => landAddr c (areaOff ws ((treeIdx ws j - 1) % 4))
  let own (i : Nat) : XAcc := accAddAll XAcc.clear ((List.range (crK ws)).map fun m => codeVal (crIn ws) (natOfBytes ((bs.drop ((m * n + i) * si)).take si)))
  let (s, bad) := kids.foldl (fun (s, b) a => let (s, x) := rangePoison s a (n * 48); (s, b || x)) (s, false)
  if bad then collFail s c.id stPoison
  else if (List.range n).any fun i => kids.any fun a => (imageAt s (a + 48 * i)).isNone then collFail s c.id stRedBadRecord
  else
    let accs := (List.range n).map fun i => kids.foldl (fun x a => accMerge x ((imageAt s (a + 48 * i)).getD XAcc.clear)) (own i)
    let s := s.bump rRedAddends (n * crK ws)
    if crSelf ws = crRoot ws then
      let (out, nm, nf) := readOuts ws 0 accs c.norm
      collReduced s c.id 0 out nm nf
    else
      let s := collBytes s c.id (treeParent ws (crSelf ws)) (areaOff ws ((treeIdx ws (crSelf ws) - 1) % 4))
        (accs.flatMap fun a => (accImage a).flatMap fun w => bytesOf 8 w.toNat)
      collReduced s c.id 0 [] c.norm false

/-- COLL_REDUCE: the owner's piece of a chunk is summed once its contributions are complete, on a reduction engine whose slot 7 is free (R204,
R205, R227). -/
def runCollReduce (id k : Nat) (s : State) : State :=
  collAct s id fun c =>
    let ws := c.rec_
    let self := crSelf ws
    if !(ownedChunks ws).contains k ∨ (c.red.any fun e => e.1 == k) then s
    else if crTree ws then
      let kids := treeKids ws self
      match ownBytes c with
      | none => s
      | some bs =>
        if (kids.all fun j => landed s c (areaOff ws ((treeIdx ws j - 1) % 4)) (crCount ws * 48)) ∧ (jobPlace s c.peck c.engs 7).isSome ∧
            (self = crRoot ws ∨ announced s c (treeParent ws self)) then treeReduce s c bs
        else s
    else
      let n := pieceLen ws k self
      let areas := pieceAreas ws k
      if !(areas.all fun o => landed s c o (n * crSi ws)) then s
      else if crProgram ws then programRow s c k n areas
      else if (jobPlace s c.peck c.engs 7).isNone then s
      else
        let (s, bad) := areas.foldl (fun (s, b) o => let (s, x) := rangePoison s (landAddr c o) (n * crSi ws); (s, b || x)) (s, false)
        if bad then collFail s id stPoison
        else
          let s := s.bump rRedAddends (n * areas.length)
          let (out, nm, nf) := readOuts ws (k * crChunk ws + self * crP ws) (pieceSums s c areas n) c.norm
          collReduced s id k out nm nf

/-! ## VERDICT (phase 4, R213, R214) -/

/-- Offset of member j's vote row. -/
def voteOff (ws : List TWord) (j : Nat) : Nat := crNmem ws * 128 + j * 128

/-- Whether every vote is held. -/
def votesHeld (s : State) (c : Coll) : Bool := (List.range (crNmem c.rec_)).all fun j => landed s c (voteOff c.rec_ j) 128

/-- COLL_VERDICT: with every vote held the verdict is decided. -/
def runCollVerdict (id : Nat) (s : State) : State :=
  collAct s id fun c =>
    let ws := c.rec_
    if c.voted.isNone ∨ c.verdict.isSome ∨ !votesHeld s c then s
    else
      let (s, bad) := rangePoison s (landAddr c (voteOff ws 0)) (crNmem ws * 128)
      let word (j o : Nat) : Word := landWord s c (voteOff ws j + o)
      let js := List.range (crNmem ws)
      let img := js.foldl (fun x j => accMerge x ((imageAt s (landAddr c (voteOff ws j + 64))).getD XAcc.clear)) XAcc.clear
      let n2 : BitVec 32 := if crNorm ws then BitVec.ofNat 32 (accReadOut img .fp32 rne).1.bits.toNat else 0
      if bad then collFail s id stPoison
      else if js.any fun j => word j 8 ≠ c.digest ∨ word j 24 ≠ word (crSelf ws) 24 then
        (s.bump rRedMismatch 1).updColl id fun c => { c with norm2 := n2, verdict := some 2, endSt := some stRedShape }
      else
        if crVerdict ws ∧ (js.any fun j => bitsOf (word j 0) 40 1 = 1) then
          (s.bump rRedSkip 1).updColl id fun c => { c with norm2 := n2, verdict := some 1, endSt := some stRedStepSkipped }
        else s.updColl id fun c => { c with norm2 := n2, verdict := some 0 }

/-- COLL_VERDICT_TIMEOUT: votes are missing at the limit (R213). No effect before. -/
def runCollVerdictTimeout (id : Nat) (s : State) : State :=
  collAct s id fun c =>
    match c.voted with
    | some t => if c.verdict.isNone ∧ !votesHeld s c ∧ t + c.vlim * 1000000 ≤ s.time then
        s.updColl id fun c => { c with verdict := some 3, endSt := some stRedVerdict }
      else s
    | none => s

/-! ## APPLY (phase 5, R215 to R219) -/

/-- The words of one optimizer: master, m, v, from the old ones and the gradient (R217). `sgn` is the sign of a NaN, which the manual does not
state. -/
def optimize (h : List TWord) (norm2 : Option FVal) (t : Nat) (sgn : FVal) (w m v g : FVal) (rm : FVal → FVal) (rv : FVal → FVal) : FVal × FVal × FVal :=
  let f (o : Nat) : FVal := f32 (rb h o 4)
  let add (a b : FVal) : FVal := r32 (FVal.add .rne a b)
  let sub (a b : FVal) : FVal := r32 (FVal.add .rne a b.neg)
  let mul (a b : FVal) : FVal := r32 (a.mul b)
  let div (a b : FVal) : FVal := r32 (a.div b)
  let fma (a b c : FVal) : FVal := r32 (FVal.add .rne (a.mul b) c)
  let one : FVal := .num false 1 0
  let lr := f 8
  let b1 := f 12
  let b2 := f 16
  let eps := f 20
  let wd := f 24
  let clip := f 32
  let tf := r32 (FVal.ofInt t)
  let g := mul g (f 28)
  let g := match norm2 with
    | some n => if FVal.cmp n (mul clip clip) = .gt ∧ !n.isNan ∧ !clip.isNan then mul g (div clip (r32 n.sqrt)) else g
    | none => g
  let p := hyProg h
  if p = 0 then
    let m := fma b1 m g
    (sub w (mul lr (fma wd w m)), rm m, v)
  else if p = 1 then
    let m := fma b1 m (mul (sub one b1) g)
    let v := fma b2 v (mul (mul (sub one b2) g) g)
    let c1 := sub one (r32 (mul tf (r32 b1.log2)).exp2)
    let c2 := sub one (r32 (mul tf (r32 b2.log2)).exp2)
    (sub w (mul lr (fma wd w (div (div m c1) (add (r32 (div v c2).sqrt) eps)))), rm m, rv v)
  else
    let x := fma b1 m (mul (sub one b1) g)
    let u : FVal := match x with
      | .nan => sgn
      | .zero _ => .zero false
      | y => .num y.isNeg 1 0
    (sub w (mul lr (fma wd w u)), rm (fma b2 m (mul (sub one b2) g)), v)

/-- The rounding of m or v of parameter e (R217). -/
def optRnd (h : List TWord) (t e base : Nat) : Rnd :=
  if rb h 4 1 = 4 then
    ⟨.sr, philox (wd h 6).bits (e % 256 / 4) (BitVec.ofNat 32 (rb h 56 4 + base + e / 256)) (BitVec.ofNat 64 t) (e % 4)⟩
  else rne

/-- The state words of a block: 128 words of masters, 64 of m and 64 of v, have their tags (R215). -/
def blockTags (s : State) (a : Nat) : Bool :=
  ((List.range 128).all fun i => s.mem.tagAt (a + 8 * i) == Tag.fp32x2) && ((List.range 128).all fun i => s.mem.tagAt (a + 1024 + 8 * i) == Tag.bf16x4)

/-- Apply a library program to the elements of a piece (R217): the parameters in OUT come with the state. -/
def applyLib (s : State) (c : Coll) (k : Nat) (grads : List Byte) : State × List Byte :=
  let ws := c.rec_
  let h := c.hyper
  let t := c.step.toNat + 1
  let n2 : Option FVal := if hyClip h then some (f32 c.norm2.toNat) else none
  let n := grads.length / 4
  let base (i : Nat) : Nat := c.state_.base.toNat + 4096 + (k * crP ws + i) / 256 * 2048
  let bf (rnd : Rnd) (v : FVal) : Nat := (roundE fmtBf16 .ieee rnd v).1
  let (s, out) := (List.range n).foldl (fun (s, out) i =>
    let e := k * crChunk ws + crSelf ws * crP ws + i
    let b := base i
    let x := (k * crP ws + i) % 256
    let old (o sz : Nat) : Nat := s.mem.num (b + o) sz
    let sgn : FVal := match bitsOf (Config.freeWord (s.free + i)) 0 2 with | 0 => .zero false | 1 => .num false 1 0 | _ => .num true 1 0
    let mb := old (1024 + 2 * x) 2
    let vb := old (1536 + 2 * x) 2
    let g := f32 (natOfBytes ((grads.drop (4 * i)).take 4))
    let (w, m, v) := optimize h n2 t sgn (f32 (old (4 * x) 4)) (decodeE fmtBf16 mb) (decodeE fmtBf16 vb) g id id
    let m' := bf (optRnd h t e 0) m
    let v' := if hyProg h = 1 then bf (optRnd h t e (2 ^ 31)) v else vb
    let mem := ((s.mem.setBytes (b + 4 * x) (bytesOf 4 (r32b w))).setBytes (b + 1024 + 2 * x) (bytesOf 2 m')).setBytes (b + 1536 + 2 * x) (bytesOf 2 v')
    ({ s with mem := mem }, out ++ bytesOf (crSo ws) (toTarget (codeTarget (crOut ws)) (resRnd ws e) w).1.bits.toNat)) (s, ([] : List Byte))
  ({ s with free := s.free + n }, out)

/-- The first state or destination write: an abort comes too late from here on, and DIRTY is set before state is written (R219, R221). -/
def collWrites (s : State) (id : Nat) (state : Bool) : State :=
  match s.coll id with
  | none => s
  | some c =>
    let s := (s.setPhase c.item .committed).updColl id fun c => { c with wrote := true }
    if state then
      let a := c.state_.base.toNat
      s.putWord a (TWord.int (putField (s.mem.word a).bits 32 8 1))
    else s

/-- Every owned piece has been applied: STEP + 1, and DIRTY cleared (R219). -/
def collStepDone (s : State) (id : Nat) : State :=
  match s.coll id with
  | none => s
  | some c =>
    if crOp c.rec_ = opStep ∧ (ownedChunks c.rec_).all fun k => c.res.any fun e => e.1 == k then
      let a := c.state_.base.toNat
      (s.putWord (a + 8) (TWord.int (c.step + 1))).putWord a (TWord.int (putField (s.mem.word a).bits 32 8 0))
    else s

/-- A tenant optimizer's piece (R218): its context is started with the piece's gradient in lent memory, awaited, and ended. -/
def tenantApply (s : State) (c : Coll) (k : Nat) (grads : List Byte) : State :=
  let ws := c.rec_
  let n := grads.length / 4
  let e0 := k * crChunk ws + crSelf ws * crP ws
  let out := landAddr c (resOff ws + e0 * crSo ws)
  match c.jobs.find? fun j => j.chunk == k && j.tenant with
  | none =>
    match jobPlace s c.peck c.engs 7, lend s (.coll c.id 0) grads.length with
    | some e, some (s, b) =>
      let s := collWrites (placeBytes s b grads Tag.fp32x2).1 c.id true
      let s3 : TWord := if crNorm ws then ⟨BitVec.ofNat 64 c.norm2.toNat, Tag.fp32x2⟩ else TWord.zero
      let s := startJob s c.peck e 7 (wd c.hyper 5).bits
        [(b, grads.length, 1), (c.state_.base.toNat + 4096 + k * crP ws / 256 * 2048, (n + 255) / 256 * 2048, 3), (c.hyp.base.toNat, 64, 1),
         (out, n * crSo ws, 2)] none [TWord.int (BitVec.ofNat 64 e0), TWord.int (BitVec.ofNat 64 n), TWord.int c.step, s3] 0 0 0 false
      s.updColl c.id fun c => { c with jobs := c.jobs ++ [⟨k, e, true, b⟩] }
    | _, _ => s
  | some j =>
    match jobEnd s j.eng 7 with
    | none => s
    | some r =>
      let (s, bs, bad) := exportRange s out (n * crSo ws)
      let s := unlend (clearJob s j.eng 7) j.base
      let s := s.updColl c.id fun c => { c with jobs := c.jobs.filter fun x => !(x.chunk == k && x.tenant) }
      match r with
      | .error st => collFail s c.id st
      | .ok v =>
        if v ≠ 0 then collFail s c.id stRedHyper
        else match bad with
          | (_, st) :: _ => collFail s c.id st
          | [] => collStepDone (s.updColl c.id fun c => { c with res := c.res ++ [(k, bs)] }) c.id

/-- COLL_APPLY: the optimizer is applied to the owned piece of a chunk (R214, R217, R218). -/
def runCollApply (id k : Nat) (s : State) : State :=
  collAct s id fun c =>
    match c.red.find? fun e => e.1 == k with
    | none => s
    | some (_, grads) =>
      if crOp c.rec_ ≠ opStep ∨ !collOpen c ∨ (c.res.any fun e => e.1 == k) then s
      else if hyTenant c.hyper then tenantApply s c k grads
      else if (jobPlace s c.peck c.engs 7).isNone then s
      else
        let n := (grads.length / 4 + 255) / 256
        let b := c.state_.base.toNat + 4096 + k * crP c.rec_ / 256 * 2048
        let (s, bad) := rangePoison s b (n * 2048)
        let s := collWrites s id true
        if bad then collFail s id stPoison
        else if !((List.range n).all fun i => blockTags s (b + 2048 * i)) then collFail s id stTag
        else
          let (s, out) := applyLib s c k grads
          collStepDone (s.updColl id fun c => { c with res := c.res ++ [(k, out)] }) id

/-! ## RESULT (phase 6) -/

/-- The members to which this member sends the result piece of an owner (R208). -/
def resTargets (ws : List TWord) (owner : Nat) : List Nat :=
  let self := crSelf ws
  let next := (self + 1) % crNmem ws
  if crOp ws = opReduce ∧ !crTree ws then (if self = owner ∧ self ≠ crRoot ws then [crRoot ws] else [])
  else if crGather ws = 0 then (if self = owner then others ws else [])
  else if crGather ws = 1 then (if next = owner ∨ next = self then [] else [next])
  else treeKids ws self

/-- The unit that phase 6 sends for a chunk and owner: first element and elements; none where there is no such piece. TREE and BROADCAST
have one owner. -/
def resUnit (ws : List TWord) (k owner : Nat) : Option (Nat × Nat) :=
  if crOp ws = opAlltoall ∨ crOp ws = opReduceScatter ∨ k ≥ crChunks ws ∨ owner ≥ crNmem ws then none
  else if crTree ws then (if k = 0 ∧ owner = crRoot ws then some (0, crCount ws) else none)
  else if crOp ws = opBroadcast then (if owner = crRoot ws then some (k * crChunk ws, chunkLen ws k) else none)
  else if pieceLen ws k owner = 0 then none
  else some (k * crChunk ws + owner * crP ws, pieceLen ws k owner)

/-- Whether phase 6 of a unit concerns this member: it owns the unit, or passes it on. -/
def resDue (ws : List TWord) (k owner : Nat) : Bool :=
  (resUnit ws k owner).isSome && (owner == crSelf ws || !(resTargets ws owner).isEmpty)

/-- The bytes of an owned result unit of a reduce OP, once they are there. -/
def ownRes (c : Coll) (k : Nat) : Option (List Byte) :=
  ((if crOp c.rec_ = opStep then c.res else c.red).find? fun e => e.1 == k).map (·.2)

/-- This member has a result area (R199). -/
def hasResult (ws : List TWord) : Bool := crOp ws != opReduce || crTree ws || crSelf ws == crRoot ws

/-- COLL_RESULT: the result piece of a chunk and owner goes to result areas by the gather algorithm (R203, R208). -/
def runCollResult (id k owner : Nat) (deny : List Nat) (s : State) : State :=
  collAct s id fun c =>
    let ws := c.rec_
    let self := crSelf ws
    match resUnit ws k owner with
    | none => s
    | some (lo, n) =>
      let tos := resTargets ws owner
      let off := resOff ws + lo * crSo ws
      let own := hasResult ws
      let tag := match fmtOfCode (crOut ws) with | some f => fmtTag f | none => Tag.nil
      let go (s : State) : State := s.updColl id fun c => { c with fwd := c.fwd ++ [(k, owner)] }
      if c.fwd.contains (k, owner) ∨ !collOpen c ∨ !resDue ws k owner ∨ !(tos.all fun j => announced s c j) ∨
          (owner = self ∧ !crReduces ws ∧ !mayStart c k) then s
      else if owner ≠ self then
        if landed s c off (n * crSo ws) then collPutMem (go s) id false tos off (landAddr c off) (n * crSo ws) tag else s
      else if crReduces ws then
        match ownRes c k with
        | none => s
        | some bs => collPutBytes (go s) id own tos off bs tag
      else
        let at_ := if crOp ws = opAllgather then k * crP ws else lo
        (srcRuns c 0 at_ n).foldl (fun s (ep, so, ro, m) => collRun s id ep so m true tos false (off + ro) deny) (go s)

/-! ## DELIVER (phase 7) -/

/-- The runs of destination d for elements [lo, lo + n) of the destination range: byte offset in its region, in the run, and bytes. -/
def dstRuns (c : Coll) (d lo n : Nat) : List (Nat × Nat × Nat) :=
  let ws := c.rec_
  let so := crSo ws
  let off := ((c.dsts.getD d (Loc.none, 0)).2).toNat
  if !crDstSplit ws then [(off + lo * so, 0, n * so)]
  else
    let per := dstRange ws / crNdst ws
    let a := max lo (d * per)
    let b := min (lo + n) ((d + 1) * per)
    if a < b then [(off + (a - d * per) * so, (a - lo) * so, (b - a) * so)] else []

/-- Write to a destination; host pages that the host denies fail the copy (R364). -/
def collOut (s : State) (c : Coll) (d off : Nat) (deny : List Nat) (n : Nat) (put : State → Loc → Nat → State × Status) : State × Status :=
  let (l, _) := c.dsts.getD d (Loc.none, 0)
  let (s, ok) := if l.kind = .host then translate s (s.fnOf c.peck) (l.base.toNat + off) n deny else (s, true)
  if !ok then (s, stRights) else put s l off

/-- The first failure of several writes. -/
def orSt (a b : Status) : Status := if a = stOk then b else a

/-- Rows received from member m for expert x: where they lie in area m, and how many. -/
def rowsFrom (s : State) (c : Coll) (m x : Nat) : Nat × Nat :=
  let cnt (y : Nat) : Nat := if m = crSelf c.rec_ then
      (if crReverse c.rec_ then (((countBlock s c).2).map fun b => (keptOf c.rec_ (cntOf b) m y).1).getD 0 else (sentRows c.rec_ c.route m y).length)
    else s.mem.num (landAddr c (m * 128 + 32 + 2 * y)) 2
  ((List.range x).foldl (fun a y => a + cnt y) 0, cnt x)

/-- Every row of an ALLTOALL from given members has arrived. -/
def rowsFromHere (s : State) (c : Coll) (ms : List Nat) : Bool :=
  ms.all fun m => announced s c m && landed s c (areaOff c.rec_ m) ((let (a, n) := rowsFrom s c m 15; a + n) * crChunk c.rec_)

/-- Every row of an ALLTOALL has arrived. -/
def rowsHere (s : State) (c : Coll) : Bool := rowsFromHere s c (List.range (crNmem c.rec_))

/-- The delivery of a dispatch (R210): rows in (m, t, k) order, the count block, and the rows dropped. -/
def deliverDispatch (s : State) (c : Coll) (deny : List Nat) : State × Status × Nat :=
  let ws := c.rec_
  let row := crChunk ws
  let cap := crCap ws
  let o0 := ((c.dsts.getD 0 (Loc.none, 0)).2).toNat
  let o1 := ((c.dsts.getD 1 (Loc.none, 0)).2).toNat
  let mem := List.range (crNmem ws)
  let (s, st, drop, placed) := (List.range 16).foldl (fun (s, st, drop, placed) x =>
    let rows := mem.flatMap fun m => let (a, n) := rowsFrom s c m x; (List.range n).map fun q => areaOff ws m + (a + q) * row
    let (s, st) := (rows.take cap).zipIdx.foldl (fun (s, st) (o, r) =>
      let (s, b) := collOut s c 0 (o0 + (x * cap + r) * row) deny row fun s l off => svcMove s c.peck (landAddr c o) l off row (match fmtOfCode (crOut ws) with | some f => fmtTag f | none => Tag.nil)
      (s, orSt st b)) (s, st)
    (s, st, drop + (rows.length - cap), placed ++ [min rows.length cap])) (s, stOk, 0, ([] : List Nat))
  let blk := placed.flatMap (bytesOf 8) ++ mem.flatMap fun m => (List.range 16).flatMap fun x => bytesOf 2 (rowsFrom s c m x).2
  let (s, b) := collOut s c 1 o1 deny blk.length fun s l off => svcWrite s c.peck l off blk Tag.int64
  let own := mem.foldl (fun a d => (List.range 16).foldl (fun a x => a + ((routeRows c.route d x).length - cap)) a) 0
  (s, orSt st b, drop + own)

/-- The delivery of a combine (R211): returned rows go back to (t, k), every other row becomes zero. -/
def deliverCombine (s : State) (c : Coll) (deny : List Nat) : State × Status × Nat :=
  let ws := c.rec_
  let row := crChunk ws
  let o0 := ((c.dsts.getD 0 (Loc.none, 0)).2).toNat
  let mem := List.range (crNmem ws)
  let back := mem.flatMap fun d => (List.range 16).flatMap fun x =>
    let (a, n) := rowsFrom s c d x
    ((routeRows c.route d x).take n).zipIdx.map fun ((t, k), i) => (4 * t + k, areaOff ws d + (a + i) * row)
  let (s, st) := (List.range (4 * crCount ws)).foldl (fun (s, st) r =>
    let (s, b) := collOut s c 0 (o0 + r * row) deny row fun s l off =>
      match back.find? fun e => e.1 == r with
      | some (_, o) => svcMove s c.peck (landAddr c o) l off row (match fmtOfCode (crOut ws) with | some f => fmtTag f | none => Tag.nil)
      | none => svcWrite s c.peck l off (List.replicate row 0) (match fmtOfCode (crOut ws) with | some f => fmtTag f | none => Tag.nil)
    (s, orSt st b)) (s, stOk)
  let lost := mem.foldl (fun a d => (List.range 16).foldl (fun a x => a + ((routeRows c.route d x).length - (rowsFrom s c d x).2)) a) 0
  let held := match (countBlock s c).2 with
    -- a row that this member both sent and dropped is counted above
    | some b => (others ws).foldl (fun a m => (List.range 16).foldl (fun a x => a + (cntOf b m x - (keptOf ws (cntOf b) m x).1)) a) 0
    | none => 0
  (s, st, lost + held)

/-- COLL_DELIVER: a chunk whose pieces are all in the result area is copied to the destinations (R203). -/
def runCollDeliver (id k : Nat) (deny : List Nat) (s : State) : State :=
  collAct s id fun c =>
    let ws := c.rec_
    let self := crSelf ws
    let tag := match fmtOfCode (crOut ws) with | some f => fmtTag f | none => Tag.nil
    let fin (s : State) (st : Status) : State :=
      if st ≠ stOk then collFail s id st else s.updColl id fun c => { c with done := c.done ++ [k] }
    if c.done.contains k ∨ k ≥ crChunks ws ∨ !collOpen c then s
    else if crOp ws = opAlltoall then
      if !rowsHere s c then s
      else
        let (s, bad) := (List.range (crNmem ws)).foldl (fun (s, b) m => let (s, x) := rangePoison s (landAddr c (m * 128)) 128; (s, b || (x && m ≠ self))) (s, false)
        if bad then collFail s id stPoison
        else
          let s := collWrites s id false
          let (s, st, n) := if crReverse ws then deliverCombine s c deny else deliverDispatch s c deny
          fin (s.updColl id fun c => { c with dropped := n }) st
    else if crNdst ws = 0 then fin s stOk
    else if crOp ws = opReduceScatter then
      let n := pieceLen ws k self
      match (if n = 0 then some [] else ownRes c k) with
      | none => s
      | some bs =>
        let (s, st) := (List.range (crNdst ws)).foldl (fun (s, st) d =>
          (dstRuns c d (k * crP ws) n).foldl (fun (s, st) (off, ro, m) =>
            let (s, b) := collOut s c d off deny m fun s l off => svcWrite s c.peck l off ((bs.drop ro).take m) tag
            (s, orSt st b)) (s, st)) (collWrites s id false, stOk)
        fin s st
    else
      let lo := k * crChunk ws
      let n := chunkLen ws k
      let o := resOff ws + lo * crSo ws
      if !landed s c o (n * crSo ws) then s
      else
        let (s, st) := (List.range (crNdst ws)).foldl (fun (s, st) d =>
          (dstRuns c d lo n).foldl (fun (s, st) (off, ro, m) =>
            let (s, b) := collOut s c d off deny m fun s l off => svcMove s c.peck (landAddr c (o + ro)) l off m tag
            (s, orSt st b)) (s, st)) (collWrites s id false, stOk)
        fin s st

/-! ## Timers and completion -/

/-- ANNOUNCE_RESEND: every 1 ms the announce goes again, as a new message, to the members not yet heard from (R203). -/
def runAnnounceResend (id : Nat) (s : State) : State :=
  collAct s id fun c =>
    let js := (others c.rec_).filter fun j => !announced s c j
    if js.isEmpty ∨ s.time < c.lastAnn + 1000000 then s
    else announce (s.updColl id fun c => { c with lastAnn := s.time }) id js

/-- The contribution areas of a piece that other members fill. -/
def peerAreas (ws : List TWord) (k : Nat) : List Nat :=
  (others ws).flatMap fun j => (List.range (crK ws)).map fun m => areaOff ws (j * crK ws + m) + k * crP ws * crSi ws

/-- Whether a collective still waits for a message of another member: an announce, a contribution, a vote or a result piece (R220). -/
def collWaits (s : State) (c : Coll) : Bool :=
  let ws := c.rec_
  let self := crSelf ws
  ((others ws).any fun j => !announced s c j) ||
  (if crOp ws = opAlltoall then !rowsFromHere s c (others ws)
   else if crTree ws then (treeKids ws self).any fun j => !landed s c (areaOff ws ((treeIdx ws j - 1) % 4)) (crCount ws * 48)
   else crReduces ws && (List.range (crChunks ws)).any fun k => (peerAreas ws k).any fun o => !landed s c o (pieceLen ws k self * crSi ws)) ||
  (c.voted.isSome && c.verdict.isNone && (others ws).any fun j => !landed s c (voteOff ws j) 128) ||
  ((List.range (crChunks ws)).any fun k => (List.range (crNmem ws)).any fun o => o != self && match resUnit ws k o with
    | some (lo, n) => hasResult ws && !landed s c (resOff ws + lo * crSo ws) (n * crSo ws)
    | none => false)

/-- COLL_STALL_EXPIRY: a message of another member is missing after STALL (R220). No effect before. -/
def runCollStall (id : Nat) (s : State) : State :=
  match s.coll id with
  | none => s
  | some c =>
    if c.running ∧ c.endSt.isNone ∧ c.t0 + c.stall * 1000000 ≤ s.time ∧ collWaits s c then collFail s id stRedMemberLost else s

/-- Every phase of a collective has run. -/
def collAllDone (c : Coll) : Bool :=
  let ws := c.rec_
  let ks := List.range (crChunks ws)
  let js := List.range (crNmem ws)
  (if crOp ws = opAlltoall then js.all fun j => c.sends.contains (0, j)
   else if crTree ws then true
   else !crReduces ws || ks.all fun k => js.all fun j => pieceLen ws k j == 0 || c.sends.contains (k, j)) &&
  ((ownedChunks ws).all fun k => c.red.any fun e => e.1 == k) && collOpen c &&
  (crOp ws != opStep || (ownedChunks ws).all fun k => c.res.any fun e => e.1 == k) &&
  (ks.all fun k => js.all fun o => !resDue ws k o || c.fwd.contains (k, o)) && (ks.all fun k => c.done.contains k)

/-- COLL_COMPLETE: a collective completes when its deliveries have completed and every message it sent has been acknowledged (R203). `lost` is
the number of this member's rows that receivers dropped in a dispatch (R212), of which no message tells it. -/
def runCollComplete (id lost : Nat) (s : State) : State :=
  match s.coll id with
  | none => s
  | some c =>
    if !c.running ∨ c.sent ≠ 0 ∨ !c.xfers.isEmpty then s
    else match c.endSt with
      | some st => collEnd s c st (collResult c)
      | none =>
        if !collAllDone c then s
        else
          let s := if crOp c.rec_ = opStep ∧ ownedChunks c.rec_ = [] then collStepDone s id else s
          if crOp c.rec_ = opAlltoall then
            let n := c.dropped + (if crReverse c.rec_ then 0 else lost)
            collEnd s c (if n = 0 then stOk else stRedRoute) (BitVec.ofNat 64 n)
          else collEnd s c stOk (collResult c)

/-- An abort before the first state or destination write (R221). -/
def collAbort (s : State) (item : ItemId) : State :=
  match s.colls.find? fun c => c.item == item with
  | none => s
  | some c => collEnd s c stAborted (collResult c)

end Sys2Proof.Machine
end

