-- ==== Sys2Proof/Machine/Gen.lean ====
section
/-!
DEFINITION. The decode-step service (R229 to R245): the sequence table, steps from request to output record, the library sampler, KV
pages and their moves.
-/

namespace Sys2Proof.Machine

/-! ## The sequence record (R229) -/

def gsCand (r : List TWord) : Bool := rb r 2 1 % 2 == 1
def gsQfull (r : List TWord) : Bool := rb r 2 1 / 2 % 2 == 1
def gsTenant (r : List TWord) : Bool := rb r 2 1 / 4 % 2 == 1
def gsLfmt (r : List TWord) : Nat := rb r 3 1 % 16
def gsQfmt (r : List TWord) : Nat := rb r 3 1 / 16
def gsVocab (r : List TWord) : Nat := rb r 4 4
def gsNcand (r : List TWord) : Nat := rb r 8 2
def gsTopk (r : List TWord) : Nat := rb r 10 2
def gsHist (r : List TWord) : Nat := rb r 12 2
def gsInvtemp (r : List TWord) : FVal := f32 (rb r 16 4)
def gsTopp (r : List TWord) : FVal := f32 (rb r 20 4)
def gsMinp (r : List TWord) : FVal := f32 (rb r 24 4)
def gsPenalty (r : List TWord) : FVal := f32 (rb r 28 4)
def gsSeed (r : List TWord) : Word := (wd r 4).bits
def gsStream (r : List TWord) : BitVec 32 := BitVec.ofNat 32 (rb r 40 4)
def gsKv (r : List TWord) : Nat := (wd r 13).bits.toNat

def fOne : FVal := f32 0x3F800000
def FVal.lt (a b : FVal) : Bool := !a.isNan && !b.isNan && FVal.cmp a b == .lt
def FVal.le (a b : FVal) : Bool := !a.isNan && !b.isNan && FVal.cmp a b != .gt

/-- The fields of a sequence record; −0 counts as zero, and a higher minor version may give its reserved fields a meaning (R7). -/
def genFieldsOk (r : List TWord) : Bool :=
  let zero : FVal := .zero false
  rb r 1 1 == 1 && reservedOk (rb r 0 1) (decide (rb r 2 1 < 8) && rb r 14 2 == 0 && rb r 44 4 == 0 && (wd r 14).bits == 0 && (wd r 15).bits == 0) && decide (gsLfmt r ≤ 2) && decide (gsQfmt r ≤ 2) &&
  (if gsCand r then within 2 (2 ^ 31) (gsVocab r) && within 1 4096 (gsNcand r) else within 2 (2 ^ 20) (gsVocab r) && gsNcand r == 0) &&
  decide (gsTopk r ≤ 4096) && decide (gsHist r ≤ 4096) &&
  (gsInvtemp r).isFinite && ((gsInvtemp r).isZero || FVal.lt zero (gsInvtemp r))

/-- The remaining fields. -/
def genFieldsOk2 (r : List TWord) : Bool :=
  let zero : FVal := .zero false
  FVal.lt zero (gsTopp r) && FVal.le (gsTopp r) fOne && ((gsMinp r).isZero || FVal.lt zero (gsMinp r)) && FVal.lt (gsMinp r) fOne &&
  (gsPenalty r).isFinite && FVal.lt zero (gsPenalty r) &&
  (gsKv r == 0 || (gsKv r % 8 == 0 && within 8 262144 (gsKv r)))

/-- Handle words in use: word, kind, rights and least length. -/
def genHandles (r : List TWord) : List (Nat × HKind × List Nat × Nat) :=
  [(7, .accel, [rightRd], 0), (8, .accel, [rightWr], 0)] ++ (if gsHist r = 0 then [] else [(9, .local_, [rightRd, rightWr], 8 * gsHist r)]) ++
  (if gsKv r = 0 then [] else [(10, .local_, [rightRd, rightWr], 16), (11, .accel, [rightRd], 0)]) ++
  (if gsTenant r then [(12, .local_, [rightEx], 0)] else [])

/-- Tags of the record. -/
def genTagsOk (r : List TWord) : Bool :=
  ([0, 1, 4, 5, 6, 13, 14, 15].all fun i => tagIntNil (wd r i).tag) && (wd r 2).tag == Tag.fp32x2 && (wd r 3).tag == Tag.fp32x2 &&
  ([7, 8, 9, 10, 11, 12].all fun i => (wd r i).tag == (if (genHandles r).any (fun h => h.1 == i) then Tag.handle else Tag.nil))

/-- The checks of a sequence record, in the order of R198 (R230). -/
def genStatus (s : State) (r : List TWord) : Status :=
  if anyPoison r then stPoison
  else if !(genFieldsOk r && genFieldsOk2 r) then stGenBadRecord
  else if !genTagsOk r then stTag
  else if (genHandles r).any fun h => isStale s (wd r h.1) then stStale
  else if (genHandles r).any fun (i, k, rs, n) => match s.current (wd r i).bits with
    | some g => g.kind != k || rs.any (fun x => !hasRight (wd r i).bits x) || decide (g.len.toNat < n)
    | none => true
    then stRights
  else stOk

def State.seq (s : State) (q : Nat) : Option GenSeq := s.seqs.find? fun e => e.index == q
def State.updSeq (s : State) (q : Nat) (f : GenSeq → GenSeq) : State :=
  { s with seqs := s.seqs.map fun e => if e.index = q then f e else e }
def State.updStep (s : State) (q : Nat) (f : GenStep → GenStep) : State := s.updSeq q fun e => { e with step := e.step.map f }

/-- The record that a request names by reference k at an offset: its words, or why they cannot be read. -/
def genRecord (s : State) (i : Item) (k : Nat) (off : Word) : State × Except Status (List TWord) :=
  let r := i.ref k
  let st := r.check [.local_] [rightRd]
  if st ≠ stOk then (s, .error st)
  else if r.loc.holds off 128 128 = false then (s, .error stRights)
  else
    let a := (r.loc.base + off).toNat
    let s := s.settle a 128
    (s, .ok (memWords s.mem a 16))

/-- Sequences that a Peck holds. -/
def seqsOf (s : State) (p : Nat) : Nat := (s.seqs.filter fun e => e.peck == p).length

/-- GEN_REGISTER (R229, R230). The sequence takes the lowest free index (DESIGN CHOICE: the manual says only that the index is unique on the
device). -/
def execGenRegister (id : Nat) (s : State) : Host.Outcome State Fault Refusal :=
  .next (s.request id 0x0300 fun i =>
    match genRecord s i 0 (i.w 1) with
    | (s, .error st) => s.done i st
    | (s, .ok r) =>
      let st := genStatus s r
      let cfg := s.reg (rGenPeck i.fn)
      if st ≠ stOk then s.done i st
      else if s.seqs.length ≥ 16384 ∨ seqsOf s i.fn ≥ bitsOf cfg 16 15 then s.done i stGenTableFull
      else if bitsOf cfg 0 8 = 0 then s.done i stGenNoEngines
      else match (List.range 16384).find? fun q => (s.seq q).isNone with
        | none => s.done i stGenTableFull
        | some q =>
          ({ s with seqs := s.seqs ++ [(⟨q, i.fn, r, (wd r 6).bits, false, none, [], none⟩ : GenSeq)] }).completeItem i stOk (BitVec.ofNat 64 q) 0)

/-- A sequence of a Peck. -/
def seqOf (s : State) (p q : Nat) : Option GenSeq := match s.seq q with
  | some e => if e.peck = p then some e else none
  | none => none

/-- Write the fault fields of a page-table header (R243, R244). -/
def kvHeader (s : State) (base : Nat) (fault : Bool) (st : Status) : State :=
  let w0 := (s.mem.word base).bits
  let s := (placeWord s base (TWord.int (putField w0 32 1 fault.toNat))).1
  (placeWord s (base + 8) (TWord.int (st.setWidth 64))).1

/-- GEN_UPDATE (R231, R244): the record is replaced; POS only with SETPOS; KVFAULT is cleared. -/
def execGenUpdate (id : Nat) (s : State) : Host.Outcome State Fault Refusal :=
  .next (s.request id 0x0301 fun i =>
    let q := bitsOf (i.w 0) 0 16
    match seqOf s i.fn q with
    | none => s.done i stGenNoSeq
    | some _ =>
      match genRecord s i 0 (i.w 2) with
      | (s, .error st) => s.done i st
      | (s, .ok r) =>
        let st := genStatus s r
        if st ≠ stOk then s.done i st
        else
          let s := s.updSeq q fun e =>
            let set := bitsOf (i.w 0) 16 1 == 1
            { e with rec_ := r, pos := if set then (wd r 6).bits else e.pos, kvfault := false,
                     step := e.step.map fun g => { g with moved := g.moved || set } }
          let s := if gsKv r = 0 then s else kvHeader s (regionBase s (wd r 10)) false 0
          s.done i stOk)

/-- A step leaves without an output record: one whose sequence is gone (R231, R241). -/
def stepGone (s : State) (id : ItemId) (st : Status) : State := match s.item id with
  | none => s
  | some i => (s.bump rGenFail 1).done i st

/-- Remove an entry: its queued steps complete with ST_GEN_NO_SEQ. -/
def dropSeq (s : State) (q : Nat) : State :=
  match s.seq q with
  | none => s
  | some e => e.queue.foldl (fun s id => stepGone s id stGenNoSeq) { s with seqs := s.seqs.filter fun x => x.index ≠ q }

/-- GEN_DEREGISTER (R231): the entry goes once its dispatched step has completed. A second one meanwhile names no sequence (DEDUCED). -/
def execGenDeregister (id : Nat) (s : State) : Host.Outcome State Fault Refusal :=
  .next (s.request id 0x0302 fun i =>
    let q := (i.w 0).toNat
    match seqOf s i.fn q with
    | none => s.done i stGenNoSeq
    | some e =>
      if e.leaving.isSome then s.done i stGenNoSeq
      else if e.step.isSome then (s.setPhase id .committed).updSeq q fun e => { e with leaving := some id }
      else (dropSeq s q).done i stOk)

/-! ## Steps (R233, R234, R241) -/

def gtDraft (b : List Word) : Nat := bitsOf (bw b 0) 16 8
def gtAppend (b : List Word) : Bool := bitsOf (bw b 0) 24 1 == 1
def gtNotify (b : List Word) : Bool := bitsOf (bw b 0) 25 1 == 1
def gtNin (b : List Word) : Nat := bitsOf (bw b 0) 32 32

/-- The bytes of an output record (R241). -/
def outRecord (st : Status) (ntok nacc tag : Nat) (pos : Word) (toks : List Nat) : List Byte :=
  bytesOf 8 (0x0100 + st.toNat * 2 ^ 16 + ntok * 2 ^ 32 + nacc * 2 ^ 40) ++ bytesOf 8 tag ++ bytesOf 8 pos.toNat ++
    (List.range 17).flatMap (fun i => bytesOf 4 (toks.getD i 0)) ++ List.replicate 36 0

/-- Write an output record: bytes 16 to 127, then bytes 0 to 15 as one write (R241). -/
def putOutput (s : State) (peck : Nat) (l : Loc) (off : Nat) (bs : List Byte) : State × Status :=
  if off % 128 ≠ 0 ∨ off + 128 > l.len.toNat then (s, stRights)
  else
    let (s, st) := placeRegion s (locRegion l peck) 0 (off + 16) (bs.drop 16)
    if st ≠ stOk then (s, st) else placeRegion s (locRegion l peck) 0 off (bs.take 16)

/-- A completion record goes to the Spring when NOTIFY is set or the step failed (R242). -/
def stepReport (s : State) (i : Item) (st : Status) : State :=
  let s := s.bump (if st = stOk then rGenSteps else rGenFail) 1
  if st ≠ stOk ∨ gtNotify i.body then s.done i st else { s with items := s.items.filter fun j => j.id ≠ i.id }

/-- The device share of a step whose record has been written: from its doorbell to now (R246, R249). -/
def noteShare (s : State) (i : Item) : State :=
  { s with shares := (s.shares.filter fun x => decide (s.time / 1000000000 ≤ x.1 / 1000000000 + 1)) ++ [(s.time, s.time - i.t0)] }

/-- A step that fails before it is dispatched writes its record with its status (R241). -/
def stepRefuse (s : State) (e : GenSeq) (i : Item) (st : Status) : State :=
  let s := match s.current (wd e.rec_ 8).bits with
    | some r =>
      let (s, put) := putOutput s e.peck (locOf (wd e.rec_ 8).bits r) (i.w 3).toNat (outRecord st 0 0 (bitsOf (i.w 5) 0 32) e.pos [])
      if put = stOk then noteShare s i else s
    | none => s
  stepReport s i st

/-- The fields of a step against its sequence (R233). -/
def stepFieldsOk (e : GenSeq) (b : List Word) : Bool :=
  let r := e.rec_
  decide (gtDraft b ≤ 16) && (if gsCand r then within 1 (gsNcand r) (gtNin b) else gtNin b == 0) && (bw b 2).toNat % 256 == 0 &&
  (bw b 3).toNat % 128 == 0 && (bw b 4).toNat % 8 == 0 && (!gtAppend b || gsKv r != 0)

/-- GEN_STEP: the step is checked and waits its turn (R233). -/
def execGenStep (id : Nat) (s : State) : Host.Outcome State Fault Refusal :=
  .next (s.request id 0x0303 fun i =>
    let q := bitsOf (i.w 0) 0 16
    match seqOf s i.fn q with
    | none => stepGone s id stGenNoSeq
    | some e =>
      if !stepFieldsOk e i.body then stepRefuse s e i stGenBadRecord
      else if e.queue.length ≥ bitsOf (s.reg rGenCfg) 0 3 + (if e.step.isNone then 1 else 0) then stepRefuse s e i stGenBusy
      else (s.setPhase id .active).updSeq q fun e => { e with queue := e.queue ++ [id] })

/-! ### The input block (R234) -/

def upTo (n x : Nat) : Nat := (x + n - 1) / n * n

/-- Entries of a row. -/
def gtV (r : List TWord) (b : List Word) : Nat := if gsCand r then gtNin b else gsVocab r
/-- RS. -/
def gtRs (r : List TWord) (b : List Word) : Nat :=
  let ls := elemSize (gsLfmt r)
  if gsCand r then upTo 64 (4 * gtNin b) + upTo 64 (ls * gtNin b) else upTo 256 (gsVocab r * ls)
/-- QS. -/
def gtQs (r : List TWord) (b : List Word) : Nat :=
  let qs := elemSize (gsQfmt r)
  if gsCand r then upTo 64 (qs * gtNin b) else upTo 256 (qs * gsVocab r)
/-- Offset of the draft IDs. -/
def gtIds (r : List TWord) (b : List Word) : Nat := (gtDraft b + 1) * gtRs r b
/-- Offset of draft distribution i. -/
def gtDist (r : List TWord) (b : List Word) (i : Nat) : Nat := gtIds r b + upTo 64 (4 * gtDraft b) + i * gtQs r b
/-- Bytes of the block. -/
def gtBlock (r : List TWord) (b : List Word) : Nat := if gsQfull r then gtDist r b (gtDraft b) else gtDist r b 0

/-! ### KV pages (R243, R244) -/

/-- A page of the table: its handle word, its size in bytes, whether it is MOVING, and the tokens it holds. -/
structure KvPage where
  h      : TWord
  info   : TWord
  word   : Word
  size   : Nat
  moving : Bool
  fill   : Nat

/-- Page n of a table. -/
def kvPage (s : State) (t : Loc) (n : Nat) : KvPage :=
  let a := t.base.toNat + 16 * n
  let x := s.mem.word (a + 8)
  let w := x.bits
  ⟨s.mem.word a, x, w, 0x4000 * 2 ^ bitsOf w 0 3, bitsOf w 3 1 == 1, bitsOf w 8 24⟩

def kvPages (s : State) (t : Loc) : Nat := bitsOf (s.mem.word t.base.toNat).bits 0 16
def kvCur (s : State) (t : Loc) : Nat := bitsOf (s.mem.word t.base.toNat).bits 16 16

/-- A word of the table that must be INT64 (R243, R573). -/
def kvIntStatus (w : TWord) : Status := if wordPoison w then stPoison else if w.tag ≠ Tag.int64 then stTag else stOk

/-- The status of a table's header. -/
def kvHeadStatus (s : State) (t : Loc) : Status :=
  let ws := memWords s.mem t.base.toNat 2
  if anyPoison ws then stPoison else firstBad (ws.map kvIntStatus)

/-- The status of a page as a destination or source: tag, generation, size, kind and right; a LOCAL page lies in HBM or the Mere (R243). -/
def kvPageStatus (s : State) (p : KvPage) (kinds : List HKind) : Status :=
  if wordPoison p.h then stPoison
  else if p.h.tag = Tag.nil then stGenKvFull
  else if p.h.tag ≠ Tag.handle then stTag
  else match s.current p.h.bits with
    | none => stStale
    | some r =>
      if r.kind = .volume ∧ !kinds.contains .volume then stGenKvFull
      else if !kinds.contains r.kind || r.len.toNat != p.size || decide (bitsOf p.word 0 3 > 4) ||
          (r.kind == .local_ && decide (poolBase ≤ r.base.toNat)) then stRights
      else stOk

/-- Whether the table has room for n rows from page `cur` on, filled as `fill` says (R244); `fuel` bounds the pages. -/
def kvRoom (s : State) (t : Loc) (kv : Nat) : Nat → Nat → Option Nat → Nat → Status
  | 0, _, _, _ => stGenKvFull
  | fuel + 1, cur, fill, n =>
    if n = 0 then stOk
    else if cur = 0 ∨ cur > kvPages s t ∨ 16 * cur + 16 > t.len.toNat then stGenKvFull
    else
      let p := kvPage s t cur
      let f := fill.getD p.fill
      if kvIntStatus p.info ≠ stOk then kvIntStatus p.info
      else if p.size < kv then stGenKvFull
      else if (f + 1) * kv ≤ p.size then
        let st := kvPageStatus s p [.local_, .accel]
        if st ≠ stOk then st else kvRoom s t kv fuel cur (some (f + 1)) (n - 1)
      -- a full page is not needed
      else kvRoom s t kv fuel (cur + 1) none n

/-- Check the room before the pull, after the header. -/
def kvCheck (s : State) (t : Loc) (kv n : Nat) : Status :=
  if kvHeadStatus s t ≠ stOk then kvHeadStatus s t
  else kvRoom s t kv (kvPages s t + n + 2) (kvCur s t) none n

/-! ### Dispatch -/

/-- What stops a step at dispatch, in order: its fields against the record then in force, POS, KVFAULT, the handles of its entry, its ranges, KV room
and engines (R231, R233, R244). -/
def dispatchStatus (s : State) (e : GenSeq) (i : Item) : Status :=
  let r := e.rec_
  let b := i.body
  if !stepFieldsOk e b then stGenBadRecord
  else if i.w 1 ≠ e.pos then stGenPos
  else if e.kvfault then stGenKvFull
  else if (genHandles r).any fun h => isStale s (wd r h.1) then stStale
  else if (i.w 2).toNat + gtBlock r b > (locWord s (wd r 7)).len.toNat ∨ (i.w 3).toNat + 128 > (locWord s (wd r 8)).len.toNat ∨
      (gtAppend b ∧ (i.w 4).toNat + (gtDraft b + 1) * gsKv r > (locWord s (wd r 11)).len.toNat) then stRights
  else if (samplerEngines s e.peck).isEmpty then stGenNoEngines
  else if gtAppend b then kvCheck s (locWord s (wd r 10)) (gsKv r) (gtDraft b + 1)
  else stOk

/-- A checkpoint with GENSEQ that waits for its cut holds further steps of the Peck's sequences (R471). -/
def ckptHoldsSeqs (s : State) (p : Nat) : Bool := s.ckpts.any fun c => c.peck == p && c.phase == 2 && bitsOf (wd c.rec_ 0).bits 20 1 == 1

/-- GEN_DISPATCH: the next waiting step of a sequence is dispatched, and its input pull begins (R233). -/
def runGenDispatch (q : Nat) (s : State) : State :=
  match s.seq q with
  | none => s
  | some e =>
    if e.step.isSome ∨ ckptHoldsSeqs s e.peck then s
    else match e.queue with
      | [] => s
      | id :: rest =>
        let s := s.updSeq q fun e => { e with queue := rest }
        match s.item id with
        | none => s
        | some i =>
          let s := if gtAppend i.body ∧ gsKv e.rec_ ≠ 0 then
              s.settle (locWord s (wd e.rec_ 10)).base.toNat (min (16 * (kvPages s (locWord s (wd e.rec_ 10)) + 1)) (locWord s (wd e.rec_ 10)).len.toNat)
            else s
          let st := dispatchStatus s e i
          if st ≠ stOk then stepRefuse s e i st
          else
            let r := e.rec_
            let g : GenStep := ⟨id, .pull, r, [], false, stOk, [], 0, none, e.pos, false, samplerEngines s e.peck, locWord s (wd r 8), locWord s (wd r 11), locWord s (wd r 9), locWord s (wd r 10)⟩
            let s := (s.setPhase id .committed).updSeq q fun e => { e with step := some g }
            fetchStart s (.gen q 0) e.peck (locWord s (wd r 7)) (i.w 2).toNat (gtBlock r i.body) []

/-! ## The sampler (R235 to R238) -/

/-- An entry of a row: token and value. -/
abbrev GEnt := Nat × FVal

/-- Elements of a format in a run of bytes. -/
def elemsOf (code : Nat) (bs : List Byte) (n : Nat) : List FVal :=
  (List.range n).map fun i => codeVal code (natOfBytes ((bs.drop (i * elemSize code)).take (elemSize code)))

/-- The entries of row k of an input block. -/
def rowEnts (r : List TWord) (b : List Word) (inp : List Byte) (k : Nat) : List GEnt :=
  let row := (inp.drop (k * gtRs r b)).take (gtRs r b)
  let n := gtV r b
  if gsCand r then
    let ids := (List.range n).map fun i => natOfBytes ((row.drop (4 * i)).take 4)
    ids.zip (elemsOf (gsLfmt r) (row.drop (upTo 64 (4 * n))) n)
  else (List.range n).zip (elemsOf (gsLfmt r) row n)

/-- Draft IDs. -/
def draftIds (r : List TWord) (b : List Word) (inp : List Byte) : List Nat :=
  (List.range (gtDraft b)).map fun i => natOfBytes ((inp.drop (gtIds r b + 4 * i)).take 4)

/-- A value as a multiple of 2^−149. -/
def fixed (v : FVal) : Nat := match v with
  | .num false m e => (scaleTo false m e (-149)).toNat
  | _ => 0

/-- One in that unit. -/
def fixOne : Nat := 2 ^ 149

/-- Draft distribution i by row entry, in that unit: supplied, or 1 at the draft (R238). -/
def draftDist (r : List TWord) (b : List Word) (inp : List Byte) (i : Nat) (ents : List GEnt) (d : Nat) : List (Nat × Nat) :=
  if gsQfull r then (ents.map (·.1)).zip ((elemsOf (gsQfmt r) (inp.drop (gtDist r b i)) (gtV r b)).map fixed)
  else ents.map fun e => (e.1, if e.1 = d then fixOne else 0)

/-- Two tokens of a list are equal. -/
def hasDup : List Nat → Bool
  | [] => false
  | x :: xs => xs.contains x || hasDup xs

/-- A logit that R235 refuses: a NaN or +∞. -/
def badLogit (v : FVal) : Bool := v.isNan || v == .inf false
/-- A draft probability that R235 refuses: a NaN, an infinity or a negative value. -/
def badProb (v : FVal) : Bool := !v.isFinite || (match v with | .num true _ _ => true | _ => false)

/-- The rows and drafts that R235 accepts as they stand. -/
def inputOk (r : List TWord) (b : List Word) (inp : List Byte) : Bool :=
  ((List.range (gtDraft b + 1)).all fun k =>
    let es := rowEnts r b inp k
    es.all (fun e => !badLogit e.2 && decide (e.1 < gsVocab r)) && (!gsCand r || !hasDup (es.map (·.1)))) &&
  ((draftIds r b inp).all fun d => decide (d < gsVocab r)) &&
  (!gsQfull r || (List.range (gtDraft b)).all fun i => (elemsOf (gsQfmt r) (inp.drop (gtDist r b i)) (gtV r b)).all fun v => !badProb v)

/-- Insert into rank order: descending value, the lower token first on a tie. -/
def rankIns (lt : α → α → Bool) (x : Nat × α) : List (Nat × α) → List (Nat × α)
  | [] => [x]
  | y :: ys => if lt y.2 x.2 || (!lt x.2 y.2 && decide (x.1 < y.1)) then x :: y :: ys else y :: rankIns lt x ys

/-- Rank order. -/
def rankSort (lt : α → α → Bool) (l : List (Nat × α)) : List (Nat × α) := l.foldr (rankIns lt) []

/-- Stages 1 and 2: converted logits, with the repetition penalty (R236). -/
def penalized (r : List TWord) (win : List Nat) (es : List GEnt) : List GEnt :=
  let pen := gsPenalty r
  es.map fun (t, v) =>
    let l := r32 v
    (t, if pen ≠ fOne ∧ win.contains t then (if FVal.lt l (.zero false) then r32 (l.mul pen) else r32 (l.div pen)) else l)

/-- Stage 3: the entry of largest l. -/
def greedy (es : List GEnt) : Option Nat := match rankSort FVal.lt es with
  | (t, v) :: _ => if v = .inf true then none else some t
  | [] => none

/-- The shortest prefix whose sum is at least a bound. -/
def prefixTo (bound : Nat) : Nat → List (Nat × Nat) → List (Nat × Nat)
  | _, [] => []
  | acc, (t, w) :: es => if (acc + w) * fixOne ≥ bound then [(t, w)] else (t, w) :: prefixTo bound (acc + w) es

/-- Stages 4 to 8: the kept entries in rank order with their weights, in units of 2^−149; none where the row is refused. A +∞ that scaling
makes counts as a +∞ logit (DEDUCED). Stage 5 ranks by the scaled logit (DEDUCED: the rule names the logit only for stages 3 and 4, but no weight exists
before stage 6). -/
def weights (r : List TWord) (es : List GEnt) : Option (List (Nat × Nat)) :=
  let es := es.map fun (t, l) => (t, r32 (l.mul (gsInvtemp r)))
  if es.any fun e => badLogit e.2 then none
  else
    let ranked := rankSort FVal.lt es
    let kept := if gsTopk r = 0 then ranked else ranked.take (gsTopk r)
    match kept with
    | [] => none
    | (_, m) :: _ =>
      if m = .inf true then none
      else
        let w (l : FVal) : Nat := if l = .inf true then 0 else fixed (r32 (((FVal.add .rne l m.neg).mul (f32 0x3FB8AA3B)).exp2))
        let ws := rankSort (fun a b => decide (a < b)) (kept.map fun (t, l) => (t, w l))
        let total := ws.foldl (fun a e => a + e.2) 0
        let ws := if FVal.lt (gsTopp r) fOne then prefixTo (fixed (gsTopp r) * total) 0 ws else ws
        let ws := if (gsMinp r).isZero then ws else ws.filter fun e => decide (e.2 ≥ fixed (gsMinp r))
        let left : Nat := ws.foldl (fun a e => a + e.2) 0
        if left = 0 then none else some ws

/-- draw(t, c) of R237, in units of 2^−24. -/
def genDraw (r : List TWord) (t : Nat) (c : Nat) : Nat := (philox (gsSeed r) c (gsStream r) (BitVec.ofNat 64 t) 0).toNat / 256

/-- Stage 9: the first entry whose prefix sum exceeds u × S′. -/
def pick (u total : Nat) : Nat → List (Nat × Nat) → Nat
  | _, [] => 0
  | acc, (t, w) :: es => if (acc + w) * 2 ^ 24 > u * total then t else pick u total (acc + w) es

/-- Stage 9 over a list of weights. -/
def choose (r : List TWord) (t : Nat) (ws : List (Nat × Nat)) : Nat := pick (genDraw r t 0) (ws.foldl (fun a e => a + e.2) 0) 0 ws

/-- The history window of row k (R236): tokens of the ring before POS, and drafts from POS on. -/
def window (s : State) (g : GenStep) (pos : Nat) (drafts : List Nat) (k : Nat) : List Nat :=
  let h := gsHist g.rec_
  let lo := pos + k - h
  (List.range (pos + k - lo)).map fun i =>
    let p := lo + i
    if p ≥ pos then drafts.getD (p - pos) 0 else (s.mem.word (g.hist.base.toNat + 8 * (p % h))).bits.toNat

/-- Verify the drafts and sample (R238): the tokens, from row i on; none where a row is refused. -/
def sampleFrom (r : List TWord) (b : List Word) (inp : List Byte) (pos : Nat) (rows : List (List (Nat × Nat))) (ents : List (List GEnt)) :
    List Nat → Nat → List Nat
  | [], i => [choose r (pos + i) (rows.getD i [])]
  | d :: ds, i =>
    let ws := rows.getD i []
    let total := ws.foldl (fun a e => a + e.2) 0
    let dist := draftDist r b inp i (ents.getD i []) d
    let look (l : List (Nat × Nat)) (t : Nat) : Nat := ((l.find? fun e => e.1 == t).map (·.2)).getD 0
    if genDraw r (pos + i) 1 * look dist d * total < look ws d * 2 ^ 24 * fixOne then d :: sampleFrom r b inp pos rows ents ds (i + 1)
    else
      let res := ws.map fun (t, w) => (t, w * fixOne - look dist t * total)
      let ranked := rankSort (fun a c => decide (a < c)) res
      [choose r (pos + i) (if res.all fun e => e.2 == 0 then ws else ranked)]

/-- Greedy verification (R238). -/
def greedyFrom (best : List Nat) : List Nat → Nat → List Nat
  | [], i => [best.getD i 0]
  | d :: ds, i => if d = best.getD i 0 then d :: greedyFrom best ds (i + 1) else [best.getD i 0]

/-- The library sampler on a staged block: the tokens, or the status of a refusal. -/
def sampler (s : State) (g : GenStep) (b : List Word) : State × Except Status (List Nat) :=
  let r := g.rec_
  let pos := (bw b 1).toNat
  if !inputOk r b g.input then (s, .error stGenBadLogits)
  else
    let drafts := draftIds r b g.input
    let hist := gsPenalty r ≠ fOne ∧ gsHist r ≠ 0
    let s := if hist then s.settle g.hist.base.toNat (8 * gsHist r) else s
    let used := (List.range (min pos (gsHist r))).map fun i => s.mem.word (g.hist.base.toNat + 8 * ((pos - 1 - i) % gsHist r))
    if hist ∧ anyPoison used then (s, .error stPoison)
    else if hist ∧ (used.any fun w => w.tag ≠ Tag.int64) then (s, .error stTag)
    else
      let raw := (List.range (gtDraft b + 1)).map fun k => rowEnts r b g.input k
      let rows := raw.zipIdx.map fun (es, k) => penalized r (if hist then window s g pos drafts k else []) es
      if rows.any fun es => es.any fun e => badLogit e.2 then (s, .error stGenBadLogits)
      else if (gsInvtemp r).isZero then
        if rows.any fun es => (greedy es).isNone then (s, .error stGenBadLogits)
        else (s, .ok (greedyFrom (rows.map fun es => (greedy es).getD 0) drafts 0))
      else
        let ws := rows.map (weights r)
        if ws.any (·.isNone) then (s, .error stGenBadLogits)
        else (s, .ok (sampleFrom r b g.input pos (ws.map (·.getD [])) raw drafts 0))

/-! ### Tenant samplers (R240) -/

/-- The staged block under the tags of its parts (DESIGN CHOICE: the manual gives none): logits and probabilities under their formats, IDs
INT64. -/
def stageBlock (s : State) (a : Nat) (r : List TWord) (b : List Word) (inp : List Byte) : State :=
  let tagOf (c : Nat) : Tag := match fmtOfCode c with | some f => fmtTag f | none => Tag.nil
  let put (s : State) (o n : Nat) (t : Tag) : State := (placeBytes s (a + o) ((inp.drop o).take n) t).1
  let s := (List.range (gtDraft b + 1)).foldl (fun s k =>
    let o := k * gtRs r b
    let idl := if gsCand r then upTo 64 (4 * gtNin b) else 0
    put (put s o idl Tag.int64) (o + idl) (gtRs r b - idl) (tagOf (gsLfmt r))) s
  let s := put s (gtIds r b) (upTo 64 (4 * gtDraft b)) Tag.int64
  if gsQfull r then put s (gtDist r b 0) (gtDraft b * gtQs r b) (tagOf (gsQfmt r)) else s

/-- A tenant sampler's turn: started in slot 6, awaited, and its output staging read. -/
def tenantSample (s : State) (e : GenSeq) (g : GenStep) (i : Item) : State :=
  let r := g.rec_
  let b := i.body
  match g.job with
  | none =>
    match jobPlace s e.peck g.engs 6, lend s (.gen e.index 0) (128 + gtBlock r b) with
    | some eng, some (s, a) =>
      let s := stageBlock s (a + 128) r b g.input
      let h2 : TWord := if gsHist r = 0 then TWord.zero else wd r 9
      let int (n : Nat) : TWord := TWord.int (BitVec.ofNat 64 n)
      let s := startJob s e.peck eng 6 (wd r 12).bits [(a + 128, gtBlock r b, 1), (a, 128, 2)] (some h2)
        [int (i.w 1).toNat, int (gtDraft b), int (gtV r b)] (gsSeed r) (gsStream r) (i.w 1) true
      s.updStep e.index fun g => { g with job := some (eng, a) }
    | _, _ => s
  | some (eng, a) =>
    match jobEnd s eng 6 with
    | none => s
    | some res =>
      let (s, bad0) := rangePoison s a 8
      let (s, bad1) := rangePoison s (a + 24) 72
      let bad := bad0 || bad1
      let ntok := s.mem.num (a + 4) 1
      let toks := (List.range 17).map fun k => s.mem.num (a + 24 + 4 * k) 4
      let s := unlend (clearJob s eng 6) a
      let fin (st : Status) (toks : List Nat) : State := s.updStep e.index fun g => { g with job := none, phase := .sampled, st := st, toks := toks, nacc := toks.length - 1 }
      match res with
      | .error st => fin st []
      | .ok v =>
        if v ≠ 0 then fin stGenBadRecord []
        else if bad then fin stPoison []
        else if ntok = 0 ∨ ntok > gtDraft b + 1 then fin stGenBadRecord []
        else fin stOk (toks.take ntok)

/-- GEN_SAMPLE: the staged input is sampled on the Peck's sampler engines, whose slot 6 must be free (R236 to R240). -/
def runGenSample (q : Nat) (s : State) : State :=
  match s.seq q with
  | none => s
  | some e => match e.step with
    | none => s
    | some g => match s.item g.item with
      | none => s
      | some i =>
        if g.phase ≠ .pull ∨ !g.here then s
        else if gsTenant g.rec_ then
          if inputOk g.rec_ i.body g.input then tenantSample s e g i
          else s.updStep q fun g => { g with phase := .sampled, st := stGenBadLogits }
        else
          let held := g.engs.filter fun x => (s.eng x).peck.toNat == e.peck
          let es := held.filter fun x => !(s.eng x).resetting && ((s.eng x).ctx 6).state == .free
          let need := if gsCand g.rec_ then 1 else min 8 held.length
          if es.length < need ∨ need = 0 then s
          else match sampler s g i.body with
            | (s, .error st) => s.updStep q fun g => { g with phase := .sampled, st := st }
            | (s, .ok ts) => s.updStep q fun g => { g with phase := .sampled, toks := ts, nacc := ts.length - 1 }

/-! ## Output, history and the end of a step -/

/-- A step ends: its item completes, a waiting GEN_DEREGISTER goes on (R231, R242). -/
def stepEnd (s : State) (q : Nat) (st : Status) : State :=
  match s.seq q with
  | none => s
  | some e => match e.step with
    | none => s
    | some g =>
      let s := s.updSeq q fun e => { e with step := none, leaving := none }
      let s := match s.item g.item with
        | none => s
        | some i => stepReport s i st
      match e.leaving.bind s.item with
      | none => s
      | some i => (dropSeq s q).done i stOk

/-- The tokens of a step enter the history ring (R232). -/
def putHistory (s : State) (g : GenStep) (pos : Nat) : State :=
  let h := gsHist g.rec_
  if h = 0 then s
  else g.toks.zipIdx.foldl (fun s (t, i) => (placeWord s (g.hist.base.toNat + 8 * ((pos + i) % h)) (TWord.int (BitVec.ofNat 64 t))).1) s

/-- GEN_OUTPUT_WRITE: the output record of a sampled or failed step is written; the entry's POS advances, unless a GEN_UPDATE has set it since the
dispatch (DEDUCED), and the tokens enter the history at the step's own POS (R231, R232, R238, R241). -/
def runGenOutput (q : Nat) (s : State) : State :=
  match s.seq q with
  | none => s
  | some e => match e.step with
    | none => s
    | some g => match s.item g.item with
      | none => s
      | some i =>
        if g.phase ≠ .sampled then s
        else
          let ok := g.st == stOk
          let n := g.toks.length
          let pos := if ok then g.pos + BitVec.ofNat 64 n else g.pos
          let (s, st) := putOutput s e.peck g.out (i.w 3).toNat
            (outRecord g.st (if ok then n else 0) (if ok then g.nacc else 0) (bitsOf (i.w 5) 0 32) pos (if ok then g.toks else []))
          let s := if st = stOk then noteShare s i else s
          if !ok then stepEnd s q g.st
          else if st ≠ stOk then stepEnd s q st
          else
            let s := putHistory (s.updSeq q fun e => { e with pos := if g.moved then e.pos else pos }) g g.pos.toNat
            let s := ((s.bump rGenTokens n).bump rGenDrafts (gtDraft i.body)).bump rGenAccepted g.nacc
            if gtAppend i.body then s.updStep q fun g => { g with phase := .written } else stepEnd s q stOk

/-! ## KV append (R244) -/

/-- An append has failed: KVFAULT in the entry and in the table's header. -/
def kvFault (s : State) (q : Nat) (t : Loc) (st : Status) : State := kvHeader (s.updSeq q fun e => { e with kvfault := true }) t.base.toNat true st

/-- The page that takes the next row, from page c on: CUR advances past pages that have no room for it (R244); `fuel` bounds them. -/
def kvNext (s : State) (t : Loc) (kv : Nat) : Nat → Nat → Except Status Nat
  | 0, _ => .error stGenKvFull
  | fuel + 1, c =>
    if c = 0 ∨ c > kvPages s t ∨ 16 * c + 16 > t.len.toNat then .error stGenKvFull
    else
      let p := kvPage s t c
      if kvIntStatus p.info ≠ stOk then .error (kvIntStatus p.info)
      else if p.size < kv then .error stGenKvFull
      else if (p.fill + 1) * kv ≤ p.size then
        let st := kvPageStatus s p [.local_, .accel]
        if st ≠ stOk then .error st else .ok c
      else kvNext s t kv fuel (c + 1)

/-- Write the rows, one after the other, each to the page being filled; the status of the first failure. -/
def kvRows (s : State) (peck : Nat) (t : Loc) (kv : Nat) : Nat → List Byte → State × Status
  | 0, _ => (s, stOk)
  | n + 1, bs =>
    if kvHeadStatus s t ≠ stOk then (s, kvHeadStatus s t)
    else match kvNext s t kv (kvPages s t + 1) (kvCur s t) with
    | .error st => (s, st)
    | .ok c =>
      let s := if c = kvCur s t then s else s.putWord t.base.toNat (TWord.int (putField (s.mem.word t.base.toNat).bits 16 16 c))
      let p := kvPage s t c
      let l := locWord s p.h
      let (s, st) := svcWrite s peck l (p.fill * kv) (bs.take kv) Tag.nil
      if st ≠ stOk then (s, st)
      else
        let s := s.putWord (t.base.toNat + 16 * c + 8) (TWord.int (putField p.word 8 24 (p.fill + 1)))
        kvRows s peck t kv n (bs.drop kv)

/-- Pages that an append of n rows needs, from the one being filled on; `fuel` bounds them. -/
def kvNeeds (s : State) (t : Loc) (kv : Nat) : Nat → Nat → Option Nat → Nat → List Nat
  | 0, _, _, _ => []
  | fuel + 1, cur, fill, n =>
    if n = 0 then []
    else
      let p := kvPage s t cur
      let f := fill.getD p.fill
      if (f + 1) * kv ≤ p.size then cur :: kvNeeds s t kv fuel cur (some (f + 1)) (n - 1) else kvNeeds s t kv fuel (cur + 1) none n

/-- KV_APPEND: after the output record the new rows are read and appended; pages that are MOVING are waited for (R244, R245). -/
def runKvAppend (q : Nat) (deny : List Nat) (s : State) : State :=
  match s.seq q with
  | none => s
  | some e => match e.step with
    | none => s
    | some g => match s.item g.item with
      | none => s
      | some i =>
        let kv := gsKv g.rec_
        let n := g.toks.length
        if g.phase ≠ .written ∨ ((kvNeeds s g.kvt kv (kvPages s g.kvt + n + 2) (kvCur s g.kvt) none n).any fun c => (kvPage s g.kvt c).moving) then s
        else fetchStart (s.updStep q fun g => { g with phase := .append }) (.gen q 1) e.peck g.kvsrc (i.w 4).toNat (n * kv) deny

/-- A read of a decode step has ended: its input, or its KV rows. -/
def genFetched (s : State) (q k : Nat) (bs : List Byte) (st : Status) : State :=
  match s.seq q with
  | none => s
  | some e => match e.step with
    | none => s
    | some g =>
      if k = 0 then
        if st = stOk then s.updStep q fun g => { g with input := bs, here := true }
        else s.updStep q fun g => { g with phase := .sampled, st := st }
      else
        let (s, st) := if st = stOk then kvRows s e.peck g.kvt (gsKv g.rec_) g.toks.length bs else (s, st)
        stepEnd (if st = stOk then s else kvFault s q g.kvt st) q stOk

/-! ## KV moves (R245) -/

def State.kvmove (s : State) (n : Nat) : Option KvMove := s.kvmoves.find? fun m => m.num == n

/-- One move of an item is over: the item completes after its last. -/
def kvItem (s : State) (id : ItemId) (st : Status) : State :=
  match s.item id with
  | none => s
  | some i =>
    let i := { i with open_ := i.open_ - 1, st := if i.st = stOk then st else i.st }
    let s := s.updItem id fun _ => i
    if i.open_ = 0 then s.done i i.st else s

/-- A move ends: a successful one replaces the page's handle; MOVING is cleared (R245). -/
def kvEnd (s : State) (m : KvMove) (st : Status) : State :=
  let a := m.kvt.base.toNat + 16 * m.page
  let s := { s with kvmoves := s.kvmoves.filter fun x => x.num ≠ m.num }
  let s := if st = stOk then (placeWord s a m.hword).1 else s
  let s := (placeWord s (a + 8) (TWord.int (putField (s.mem.word (a + 8)).bits 3 1 0))).1
  kvItem s m.item st

/-- Parts in order of offset, with those that adjoin put together. -/
def joinParts (parts : List (Nat × List Byte)) : List (Nat × List Byte) :=
  parts.foldl (fun rs (o, bs) => match rs.getLast? with
    | some (p, cs) => if p + cs.length = o then rs.dropLast ++ [(p, cs ++ bs)] else rs ++ [(o, bs)]
    | none => [(o, bs)]) []

/-- The whole blocks of runs of bytes: a block that is not all there is not written (R415). -/
def wholeBlocks (runs : List (Nat × List Byte)) : List (Nat × List Byte) :=
  runs.flatMap fun (o, bs) =>
    let first := (o + 4095) / 4096
    (List.range ((o + bs.length) / 4096 - first)).map fun i => (first + i, (bs.drop (4096 * (first + i) - o)).take 4096)

/-- What was read of a page, in part or whole, is written to its destination as a copy writes it (R173, R415, R435); `st` is the first failure so
far. -/
def kvWrite (s : State) (peck : Nat) (m : KvMove) (parts : List (Nat × List Byte)) (st : Status) : State :=
  if m.dst.kind = .volume then
    let bs := wholeBlocks (joinParts parts)
    if bs.isEmpty then kvEnd s m st
    else
      let s := { s with kvmoves := s.kvmoves.map fun x => if x.num = m.num then { x with open_ := bs.length, st := st } else x }
      bs.foldl (fun s (k, b) => vreqAdd s m.dst.aux.toNat .write (m.dst.base.toNat / 4096 + k) 1 b (.kv m.num 1) (4096 * k) false) s
  else
    let (s, st) := (joinParts parts).foldl (fun (s, st) (o, bs) =>
      let (s, e) := svcWrite s peck m.dst o bs Tag.nil
      (s, if st = stOk then e else st)) (s, st)
    kvEnd s m st

/-- A move's reading has ended. -/
def kvFetched (s : State) (n : Nat) (parts : List (Nat × List Byte)) (st : Status) : State :=
  match s.kvmove n with
  | none => s
  | some m => kvWrite s ((s.seq m.seq).map (·.peck) |>.getD 0) m parts st

/-- A LOCAL page goes to an accelerator: each request that holds a POISON word is sent with EP set (R49, R435). -/
def kvToAccel (s : State) (peck src : Nat) (dst : Loc) (n : Nat) : State × Status :=
  (reqChunks dst.base.toNat (s.fn (s.fnOf peck)).mps (n + 1) 0 n).foldl (fun (s, st) (o, c) =>
    let a := dst.base.toNat + o
    let e := accelStatus s dst.aux.toNat a c
    let (s, bs, bad) := exportRange s (src + o) c
    if e ≠ stOk then (s, if st = stOk then e else st)
    else (s.emit (.accelWrite (s.rid (s.fnOf peck)) dst.aux.toNat (BitVec.ofNat 64 a) bs (bad.any fun w => w.2 == stPoison)),
      match bad with
      | (_, b) :: _ => if st = stOk then b else st
      | [] => st)) (s, stOk)

/-- The blocks of a LOCAL page that a volume takes: one that holds a POISON word is not written (R49, R435). -/
def kvBlocks (s : State) (src n : Nat) : State × List (Nat × List Byte) × Status :=
  (List.range (n / 4096)).foldl (fun (s, bs, st) k =>
    let (s, b, bad) := exportRange s (src + 4096 * k) 4096
    let st := match bad with
      | (_, e) :: _ => if st = stOk then e else st
      | [] => st
    (s, if bad.any fun w => w.2 == stPoison then bs else bs ++ [(4096 * k, b)], st)) (s, [], stOk)

/-- A part of a move's writing has its outcome. -/
def kvOutcome (s : State) (n : Nat) (st : Status) : State :=
  match s.kvmove n with
  | none => s
  | some m =>
    let m := { m with open_ := m.open_ - 1, st := if m.st = stOk then st else m.st }
    if m.open_ = 0 then kvEnd s m m.st else { s with kvmoves := s.kvmoves.map fun x => if x.num = n then m else x }

/-- Rights of a copy between two regions (R173). -/
def copyRights (a b : HKind) : Nat × Nat :=
  if a = .local_ then (if b = .local_ then (rightRd, rightWr) else (rightCpout, rightWr))
  else if b = .local_ then (rightRd, rightCpin) else (rightRd, rightWr)

/-- What stops a move at issue (R243, R245). -/
def kvMoveStatus (s : State) (t : Loc) (dw : TWord) (page : Nat) : Status :=
  if kvHeadStatus s t ≠ stOk then kvHeadStatus s t
  else if page = 0 ∨ page > kvPages s t ∨ 16 * page + 16 > t.len.toNat then stGenBadRecord
  else
    let p := kvPage s t page
    let st := firstBad [kvIntStatus p.info, kvPageStatus s p [.local_, .accel, .volume]]
    if st ≠ stOk then st
    else if p.moving then stGenBusy
    else match s.current dw.bits with
      | none => stStale
      | some r =>
        let k := (locWord s p.h).kind
        let (ra, rb) := copyRights k r.kind
        if !([HKind.local_, .accel, .volume].contains r.kind) || (r.kind == .local_ && decide (poolBase ≤ r.base.toNat)) || r.len.toNat != p.size || !hasRight p.h.bits ra || !hasRight dw.bits rb then stRights
        else stOk

/-- Issue one move. -/
def kvIssue (s : State) (peck : Nat) (e : GenSeq) (id : ItemId) (t : Loc) (dw : TWord) (page : Nat) (deny : List Nat) : State :=
  let st := kvMoveStatus s t dw page
  if st ≠ stOk then kvItem s id st
  else
    let p := kvPage s t page
    let src := locWord s p.h
    let dst := locWord s dw
    let m : KvMove := ⟨s.nextMove, id, e.index, page, dw, dst, t, 0, stOk⟩
    let s := { s with nextMove := s.nextMove + 1, kvmoves := s.kvmoves ++ [m] }
    let s := (placeWord s (t.base.toNat + 16 * page + 8) (TWord.int (putField p.word 3 1 1))).1
    if src.kind ≠ .local_ then fetchStart s (.kv m.num 0) peck src 0 p.size deny
    else if dst.kind = .volume then
      let (s, bs, st) := kvBlocks s src.base.toNat p.size
      kvWrite s peck m bs st
    else if dst.kind = .accel then
      let (s, st) := kvToAccel s peck src.base.toNat dst p.size
      kvEnd s m st
    else
      let (s, st) := svcMove s peck src.base.toNat dst 0 p.size Tag.nil
      kvEnd s m st

/-- GEN_KVMOVE: the moves of a list are issued (R245); the request waits while an append of the sequence is writing. -/
def runGenKvmove (id : Nat) (deny : List Nat) (s : State) : State :=
  s.request id 0x0304 fun i =>
    let n := bitsOf (i.w 0) 16 7
    let r := i.ref 0
    let st := r.check [.local_] [rightRd]
    match seqOf s i.fn (bitsOf (i.w 0) 0 16) with
    | none => s.done i stGenNoSeq
    | some e =>
      if st ≠ stOk then s.done i st
      else if r.loc.holds (i.w 2) (16 * n) 16 = false then s.done i stRights
      else if gsKv e.rec_ = 0 then s.done i stGenBadRecord
      else if (e.step.map fun g => g.phase == .written || g.phase == .append) = some true then s
      else
        let a := (r.loc.base + i.w 2).toNat
        let s := s.settle a (16 * n)
        let ws := memWords s.mem a (2 * n)
        let t := locWord s (wd e.rec_ 10)
        if anyPoison ws then s.done i stPoison
        else if ws.zipIdx.any fun (w, k) => w.tag ≠ (if k % 2 = 0 then Tag.handle else Tag.int64) then s.done i stTag
        else if (List.range n).any fun k => !zeroAbove (wd ws (2 * k + 1)).bits 16 then s.done i stGenBadRecord
        else if isStale s (wd e.rec_ 10) then s.done i stStale
        else
          let s := s.settle t.base.toNat (min (16 * (kvPages s t + 1)) t.len.toNat)
          let s := s.updItem id fun i => { i with phase := .committed, open_ := n }
          (List.range n).foldl (fun s k => kvIssue s i.fn e id t (wd ws (2 * k)) (wd ws (2 * k + 1)).bits.toNat deny) s

/-! ## Aborts and fences -/

/-- An abort of a step before its input pull (R242). -/
def genAbort (s : State) (id : ItemId) : State :=
  match s.seqs.find? fun e => e.queue.contains id, s.item id with
  | some e, some i => stepRefuse (s.updSeq e.index fun e => { e with queue := e.queue.filter fun x => x ≠ id }) e i stAborted
  | _, _ => s

/-- An abort of a step that waits in its ring or has just left it writes its record too, where its sequence is there (R242). -/
def stepAbort (s : State) (i : Item) : State := match seqOf s i.fn (bitsOf (i.w 0) 0 16) with
  | some e => stepRefuse s e i stAborted
  | none => (s.bump rGenFail 1).done i stAborted

/-- The steps whose tenant sampler runs on an engine fail; their records are still to be written (R241). -/
def genFail (s : State) (eng : Nat) (st : Status) : State :=
  s.seqs.foldl (fun s e => match e.step.bind (·.job) with
    | some (x, a) => if x = eng then (unlend (clearJob s eng 6) a).updStep e.index fun g => { g with job := none, phase := .sampled, st := st } else s
    | none => s) s

/-- Fence the steps and moves of sequences of a fenced Peck with a status: they complete, their reads are dropped, and no record is written, since a
fence sends no request (R333, R514). -/
def genFence (s : State) (own : GenSeq → Bool) (st : Status) : State :=
  (s.seqs.filter own).foldl (fun s e =>
    let s := match e.step with
      | none => s
      | some g =>
        let s := dropFetches s fun u => match u with | .gen q _ => q == e.index | _ => false
        let s := match g.job with
          | some (eng, a) => unlend (clearJob s eng 6) a
          | none => s
        let s := s.updSeq e.index fun e => { e with step := none, leaving := none }
        let s := stepGone s g.item st
        match e.leaving.bind s.item with
        | some i => (s.updSeq e.index fun e => { e with queue := [] }).done i st
        | none => s
    let s := e.queue.foldl (fun s id => stepGone s id st) (s.updSeq e.index fun e => { e with queue := [] })
    (s.kvmoves.filter fun m => m.seq == e.index).foldl (fun s m =>
      kvEnd (dropUser (dropFetches s fun u => match u with | .kv n _ => n == m.num | _ => false) (.kv m.num 1)) m st) s) s

end Sys2Proof.Machine
end

