-- ==== Sys2Proof/Machine/Ckpt.lean ====
section
/-!
DEFINITION. Checkpoints between acceptance and seal (R467 to R483): the cut, the capture of units into the Tarn, the mirror on the partner, and the
stream-out of records, header and manifest.
-/

namespace Sys2Proof.Machine

def evCkptNotice : BitVec 16 := 0x0800#16
def evCkptStaged : BitVec 16 := 0x0801#16
def evCkptSealed : BitVec 16 := 0x0802#16
def evCkptFailed : BitVec 16 := 0x0803#16
def evCkptMirrorLost : BitVec 16 := 0x0804#16
def evCkptTakeover : BitVec 16 := 0x0805#16

/-! ## The checkpoint record and source list (R468, R469) -/

def ckFlag (ws : List TWord) (n : Nat) : Bool := bitsOf (wd ws 0).bits (16 + n) 1 == 1
def ckNsrc (ws : List TWord) : Nat := bitsOf (wd ws 0).bits 32 16
def ckKey (ws : List TWord) : Nat := bitsOf (wd ws 0).bits 48 12
def ckLabel (ws : List TWord) : Nat := bitsOf (wd ws 1).bits 32 32
def ckAt (ws : List TWord) : Nat := (wd ws 2).bits.toNat
def ckSlotsz (ws : List TWord) : Nat := (wd ws 3).bits.toNat
def ckUser (ws : List TWord) : Nat := (wd ws 7).bits.toNat

/-- Fields of a source-list entry. -/
def csOff (ws : List TWord) : Nat := (wd ws 1).bits.toNat
def csLen (ws : List TWord) : Nat := (wd ws 2).bits.toNat
def csId (ws : List TWord) : Nat := bitsOf (wd ws 3).bits 0 32
def csKind (ws : List TWord) : Nat := bitsOf (wd ws 3).bits 32 8
def csFmt (ws : List TWord) : Nat := bitsOf (wd ws 3).bits 40 8

/-- IMG of R472 for a number of units. -/
def imgOff (n : Nat) : Nat := 4096 + round4k ((n + 7) / 8)

/-! ## The checkpoints of the device -/

/-- The checkpoint of a Peck: its own, or a takeover. -/
def State.ckpt (s : State) (p : Nat) (own : Bool) : Option Ckpt := s.ckpts.find? fun c => c.peck == p && c.item.isSome == own
def State.putCkpt (s : State) (c : Ckpt) : State :=
  { s with ckpts := s.ckpts.map fun x => if x.peck = c.peck ∧ x.item.isSome = c.item.isSome then c else x }

/-- The user of a checkpoint's stream-out. -/
def ckUserOf (c : Ckpt) : User := .ckpt c.peck (if c.item.isSome then 0 else 1)

/-- Units of the image (R472). -/
def ckUnits (c : Ckpt) : Nat := c.sects.foldl (fun n x => if x.skind = 4 then n else n + x.nunits) 0

/-- An event to the manager and the Peck. -/
def bothEvent (s : State) (p sev : Nat) (ty : BitVec 16) (a0 a1 : Word) : State := (s.mgrEvent sev ty a0 a1).peckEvent p sev ty a0 a1

/-- The Tarn's header (R472). -/
def tarnHead (s : State) (c : Ckpt) : State :=
  if c.item.isNone then s
  else
    let n (x : Nat) : TWord := TWord.int (BitVec.ofNat 64 x)
    (placeWords s c.tarn.base.toNat [n 0x0100, n c.gen, n c.phase, n (ckUnits c), n c.done.length]).1

/-- The unit range of a guard (R475): none where its section or range is not the checkpoint's. -/
def guardUnits (c : Ckpt) (i : Item) : Option (List Nat) :=
  match c.sects.find? fun x => x.sectid == bitsOf (i.w 0) 0 32 && x.skind != 4 with
  | none => none
  | some x =>
    let off := (i.w 1).toNat
    let n := (i.w 2).toNat
    if off + n > x.len then none
    else if n = 0 then some []
    else some ((List.range ((off + n - 1) / unitLen - off / unitLen + 1)).map fun k => x.unit0 + off / unitLen + k)

/-- Guards whose units have been captured, or whose checkpoint is not in PULL, complete (R475). -/
def ckptGuards (s : State) (p : Nat) : State :=
  (s.items.filter fun i => i.fn == p && i.typ == 0x0801#16 && i.phase == .active).foldl (fun s i =>
    match s.ckpt p true with
    | some c =>
      if c.phase = 3 then
        match guardUnits c i with
        | some us => if us.all fun u => c.done.contains u then s.done i stOk else s
        | none => s.done i stRights
      else s.done i stOk
    | none => s.done i stOk) s

/-- A checkpoint leaves the device: what it has under way is dropped and its mirror freed. -/
def ckptGone (s : State) (c : Ckpt) : State :=
  let s := { s with ckpts := s.ckpts.filter fun x => !(x.peck == c.peck && x.item.isSome == c.item.isSome) }
  let s := dropUser s (ckUserOf c)
  let s := if c.item.isSome then dropFetches s fun u => match u with | .ckpt p n => p == c.peck && decide (2 ≤ n) | _ => false else s
  let s := if c.item.isSome ∧ c.mir ≠ 0 ∧ c.mir ≠ 4 ∧ s.pair.joined then s.emit (.flit "MIRROR_FREE" [c.peck]) else s
  -- a takeover's mirror lies on this device
  if c.item.isNone then { s with mirrors := s.mirrors.filter fun m => m.peck ≠ c.peck } else ckptGuards s c.peck

/-- A checkpoint fails (R482): CKPT_FAILED, and its item completes. -/
def ckptFail (s : State) (c : Ckpt) (st : Status) : State :=
  let s := ckptGone s c
  let s := (bothEvent s c.peck sevWarn evCkptFailed (BitVec.ofNat 64 (c.peck + st.toNat * 2 ^ 16)) (BitVec.ofNat 64 c.gen)).bump rCkptFailed 1
  match c.item.bind s.item with
  | some i => s.done i st
  | none => s

/-! ## Staging (R476) -/

/-- The checkpoint is STAGED once every unit is captured and the mirror complete or abandoned. -/
def ckptStaged (s : State) (p : Nat) : State :=
  match s.ckpt p true with
  | none => s
  | some c =>
    if c.phase = 3 ∧ (List.range (ckUnits c)).all (fun u => c.done.contains u) ∧ c.mir ≠ 1 then
      let c := { c with phase := 4 }
      let s := tarnHead (s.putCkpt c) c
      let s := { s with notices := s.notices.filter fun n => n.1 ≠ p }
      ckptGuards (bothEvent s p sevInfo evCkptStaged (BitVec.ofNat 64 p) (BitVec.ofNat 64 c.gen)) p
    else s

/-- The mirror is abandoned (R477): with MIRREQ the checkpoint fails. -/
def mirrorLost (s : State) (c : Ckpt) (st : Status) : State :=
  if ckFlag c.rec_ 1 ∧ c.mir = 1 then ckptFail s c st
  else
    let s := s.putCkpt { c with mir := 4 }
    ckptStaged (bothEvent s c.peck sevWarn evCkptMirrorLost (BitVec.ofNat 64 c.peck) (BitVec.ofNat 64 c.gen)) c.peck

/-! ## Capture (R472 to R474) -/

/-- A unit has been captured: the reach map, the header, the mirror and the guards follow. -/
def unitDone (s : State) (c : Ckpt) (u : Nat) : State :=
  let c := { c with done := c.done ++ [u], busy := c.busy.filter (· ≠ u), want := c.want.filter (· ≠ u) }
  let s := tarnHead (s.putCkpt c) c
  let w := (List.range 64).foldl (fun n k => if c.done.contains (u / 64 * 64 + k) then n + 2 ^ k else n) 0
  let s := (placeWord s (c.tarn.base.toNat + 4096 + 8 * (u / 64)) (TWord.int (BitVec.ofNat 64 w))).1
  let s := if c.mir = 1 ∧ c.out_ ≠ .idle ∧ c.out_ ≠ .heads then s.emit (.flit "MIRROR_UNIT" [c.peck, u]) else s
  ckptStaged (ckptGuards s c.peck) c.peck

/-- The section that holds a unit: its number, entry and unit in it. -/
def unitSect (c : Ckpt) (u : Nat) : Option (Nat × Sect × Nat) :=
  (c.sects.zipIdx.find? fun x => x.1.skind != 4 && decide (x.1.unit0 ≤ u) && decide (u < x.1.unit0 + x.1.nunits)).map
    fun (x, k) => (k, x, u - x.unit0)

/-- Count POISON words into a checkpoint and its section. -/
def addPoison (c : Ckpt) (k n : Nat) : Ckpt :=
  if n = 0 then c
  else { c with poison := c.poison + n, sects := c.sects.zipIdx.map fun (x, j) => if j = k then { x with poison := true } else x }

/-- Where a unit of the image lies. -/
def unitAt (c : Ckpt) (u : Nat) : Nat := c.image + u * unitLen

/-- Begin the capture of a unit: a LOCAL unit is copied as it stood at the cut, an external one is read (R473). -/
def captureUnit (s : State) (c : Ckpt) (u : Nat) (deny : List Nat) : State :=
  match unitSect c u with
  | none => s
  | some (k, x, j) =>
    let (l, e) := c.srcs.getD k (Loc.none, [])
    let off := csOff e + j * unitLen
    let n := unitPlen x j
    if l.kind = .local_ then
      let ws := memWords c.snap (l.base.toNat + off) (n / 8)
      let (s, _) := placeWords s (unitAt c u) ws
      unitDone s (addPoison c k (ws.filter wordPoison).length) u
    else fetchStart (s.putCkpt { c with busy := c.busy ++ [u] }) (.ckpt c.peck (2 + u)) c.peck l off n deny

/-- A unit read from outside the device has arrived (R473). -/
def ckptFetched (s : State) (p n : Nat) (bs : List Byte) (st : Status) : State :=
  match s.ckpt p true with
  | none => s
  | some c =>
    if n < 2 then s
    else if st ≠ stOk then ckptFail s c st
    else unitDone (placeBytes s (unitAt c (n - 2)) bs Tag.nil).1 c (n - 2)

/-! ## Stream-out (R479 to R481) -/

/-- NONCEHI of this device's records (R480). -/
def myHi : Nat := devIdNum % 2 ^ 32

/-- Write bytes at an offset of the target slot. -/
def ckptWrite (s : State) (c : Ckpt) (off : Nat) (bs : List Byte) (seal_ : Bool) : State :=
  let a := c.dest.base.toNat + c.slot * c.slotsz + off
  let u := ckUserOf c
  let upd (s : State) (n : Nat) : State := { s with ckpts := s.ckpts.map fun x =>
    if x.peck = c.peck ∧ x.item.isSome = c.item.isSome then { x with open_ := x.open_ + n } else x }
  if c.dest.kind = .volume then
    let (s, n) := vreqRun .write c.dest.aux.toNat u (bs.length / 4096 + 1) (a / 4096) (bs.length / 4096) bs 0 s
    upd s n
  else
    let ps := wymPsize s
    let parts := msgPieces ps bs.length
    let w := s.nextWr
    let s := openWrite { s with nextWr := w + 1 } w c.peck 0xFFFF#16 c.dest.raddr parts.length
    let s := upd s parts.length
    parts.foldl (fun s (o, n) =>
      dealMsg s (2000 + c.peck) c.dest.raddr
        (newMsg .write c.peck c.dest 0xFFFF#16 (BitVec.ofNat 64 (a + o)) n ps (some w) seal_ none u 0 (.bytes ((bs.drop o).take n)))) s

/-- A destination can be reached now. -/
def destReady (s : State) (c : Ckpt) : Bool := c.dest.kind == .volume || anyUp s

/-- Read the first bytes of both slots (R479). -/
def ckptHeads (s : State) (c : Ckpt) : State :=
  if !destReady s c then s
  else
    let u := ckUserOf c
    let c := { c with out_ := .heads, heads := [], open_ := 2 }
    (List.range 2).foldl (fun s i =>
      let a := c.dest.base.toNat + i * c.slotsz
      if c.dest.kind = .volume then (vreqRun .read c.dest.aux.toNat u 2 (a / 4096) 1 [] (4096 * i) s).1
      else dealMsg s (2000 + c.peck) c.dest.raddr (newMsg .read c.peck c.dest 0xFFFF#16 (BitVec.ofNat 64 a) 512 (wymPsize s) none false none u (4096 * i) .none))
      (s.putCkpt c)

/-- Bytes gathered of block i. -/
def headOf (l : List (Nat × List Byte)) (i : Nat) : List Byte := (l.filter fun e => e.1 / 4096 == i).flatMap (·.2)

/-- Whether a slot's head is sealed under a key slot; a verification reserves one invocation (R479). -/
def headSealed (s : State) (slot : Nat) (bs : List Byte) : State × Status × Option Nat :=
  if !manifestSealed bs then (s, stOk, none)
  else
    let (st, _, s) := keyReserve s slot 1 [1, 2] useCkpt
    if st ≠ stOk then (s, st, none)
    else (s, stOk, if manifestTagOk (s.key slot).key bs then some (recNum bs 8 8) else none)

/-- The manifest of a checkpoint in a state, without counter (R485). -/
def ckptManifest (s : State) (c : Ckpt) (state : Nat) (digest : List Byte) : Manifest :=
  let sealed_ := state == 1
  { state := state,
    flags := if sealed_ then (if c.mir = 2 ∨ c.mir = 3 then 1 else 0) + (if c.item.isNone then 2 else 0) + (if c.poison ≠ 0 then 8 else 0) else 0,
    gen := c.gen, devid := recNum c.head 16 8, stream := devIdNum, cut := c.cut, seal_ := if sealed_ then s.time else 0,
    end_ := if sealed_ then containerEnd c.sects else 0, nrec := if sealed_ then (recordList c.sects).length else 0,
    nsect := if sealed_ then c.sects.length else 0, digest := digest, poison := if sealed_ then c.poison else 0,
    user := recNum c.head 40 8, label := recNum c.head 36 4, peck := c.peck, kind := 0, counter := 0 }

/-- Open the target slot: its block 0 is written as WRITING (R479). -/
def ckptOpen (s : State) (c : Ckpt) : State :=
  let c := { c with out_ := .opening, open_ := 0 }
  ckptWrite (tarnHead (s.putCkpt c) c) c 0 (padTo 4096 (manifestHead (ckptManifest s c 0 []))) false

/-- Tell the partner of the image to be mirrored (R477): units captured so far follow. -/
def mirrorOpen (s : State) (c : Ckpt) : State :=
  if c.mir ≠ 1 then s
  else c.done.foldl (fun s u => s.emit (.flit "MIRROR_UNIT" [c.peck, u])) (s.emit (.flit "MIRROR_OPEN" [c.peck, ckUnits c, c.slot, c.gen]))

/-- The heads of both slots are here: the target slot and GEN follow (R479). -/
def ckptChoose (s : State) (c : Ckpt) : State :=
  let (s, st0, g0) := headSealed s c.keyslot (headOf c.heads 0)
  let (s, st1, g1) := headSealed s c.keyslot (headOf c.heads 1)
  if firstBad [st0, st1] ≠ stOk then ckptFail s c (firstBad [st0, st1])
  else
    let (slot, gen) := match g0, g1 with
      | none, none => (0, 0)
      | some a, none => (1, a + 1)
      | none, some b => (0, b + 1)
      | some a, some b => if a ≥ b then (1, a + 1) else (0, b + 1)
    let head := containerHead {
      kind := 0, gens := ckFlag c.rec_ 4, gen := gen, devid := devIdNum, cut := c.cut, peck := c.peck,
      keykind := (s.key c.keyslot).kind, nsect := c.sects.length, label := ckLabel c.rec_, user := ckUser c.rec_, fwver := fwVer s, epx := 0, epy := 0 }
    let c := { c with slot := slot, gen := gen % 2 ^ 64, head := head }
    mirrorOpen (ckptOpen s c) { c with out_ := .opening }

/-- The data and tag bytes of a record. -/
def recordData (s : State) (c : Ckpt) (x : Sect) (j : Nat) : State × List Byte × List Byte :=
  if x.skind = 4 then (s, (c.gens.drop (j * unitLen)).take (unitPlen x j), [])
  else
    let (s, ws) := readWords s (unitAt c (x.unit0 + j)) (unitPlen x j)
    (s, wordData ws, if x.tagged then tagBytes ws else [])

/-- Write the next record whose unit has been captured (R480). -/
def ckptRecord (s : State) (c : Ckpt) : State :=
  match (recordList c.sects)[c.data.length]? with
  | none => s
  | some (k, x, j) =>
    if !(x.skind == 4 || c.item.isNone || c.done.contains (x.unit0 + j)) ∨ !destReady s c then s
    else
      let (st, n, s) := keyReserve s c.keyslot 1 [1, 2] useCkpt
      if st ≠ stOk then ckptFail s c st
      else
        let (s, data, tags) := recordData s c x j
        let off := x.first + (List.range j).foldl (fun a i => a + recordLen (unitPlen x i) (unitTlen x i)) 0
        let bs := recordBytes (s.key c.keyslot).key myHi n k j c.gen data tags
        let c := { c with data := c.data ++ [(c.data.length, bs)] }
        (ckptWrite (s.putCkpt c) c off bs false).bump rCkptBytes bs.length

/-- Once all records are written, the container header and section table follow (R481). -/
def ckptTable (s : State) (c : Ckpt) : State :=
  let c := { c with phase := if c.item.isSome then 5 else 6, out_ := .table }
  ckptWrite (tarnHead (s.putCkpt c) c) c 0x1000 (tableBytes c.head c.sects) false

/-- Then the manifest seals the slot (R481). -/
def ckptManifestWrite (s : State) (c : Ckpt) : State :=
  let (st, n, s) := keyReserve s c.keyslot 1 [1, 2] useCkpt
  if st ≠ stOk then ckptFail s c st
  else
    let digest := ofNats (sha384 (toNats (tableBytes c.head c.sects ++ c.data.flatMap (·.2))))
    let (s, bs) := sealedManifest s (s.key c.keyslot).key myHi { ckptManifest s c 1 digest with counter := n }
    let c := { c with out_ := .sealing }
    ckptWrite (s.putCkpt c) c 0 bs true

/-- The slot is sealed: the checkpoint exists (R481). -/
def ckptDone (s : State) (c : Ckpt) : State :=
  let s := ckptGone s c
  let s := (bothEvent s c.peck sevInfo evCkptSealed (BitVec.ofNat 64 c.peck) (BitVec.ofNat 64 c.gen)).bump rCkptSealed 1
  match c.item.bind s.item with
  | some i => s.completeItem i stOk (BitVec.ofNat 64 (c.gen % 2 ^ 48 + c.slot * 2 ^ 48)) 0
  | none => s

/-- Data of a checkpoint's reads arrive. -/
def ckptData (s : State) (p n off : Nat) (bs : List Byte) : State :=
  match s.ckpt p (n != 1) with
  | none => s
  | some c => s.putCkpt { c with heads := tblInsert (tblErase c.heads off) off bs }

/-- A part of a checkpoint's stream-out has its outcome. -/
def ckptOutcome (s : State) (p n : Nat) (st : Status) : State :=
  match s.ckpt p (n != 1) with
  | none => s
  | some c =>
    let c := { c with open_ := c.open_ - 1 }
    if st ≠ stOk then ckptFail s c st
    else
      let s := s.putCkpt c
      if c.open_ ≠ 0 then s
      else match c.out_ with
        | .heads => ckptChoose s c
        | .opening => s.putCkpt { c with out_ := .records }
        | .table => ckptManifestWrite s c
        | .sealing => ckptDone s c
        | _ => s

/-! ## Splits (R477, R478) -/

/-- What a split of the pair does to checkpoints and mirrors. -/
def ckptSplit (s : State) : State :=
  let s := (s.ckpts.filter fun c => c.item.isSome && c.mir != 0 && c.mir != 4).foldl (fun s c =>
    if c.mir = 3 then ckptFail s c stPairSplit else mirrorLost s c stPairSplit) s
  { s with mirrors := s.mirrors.filterMap fun m => if m.confirmed then some { m with split := m.split.or (some s.time) } else none }

/-! ## Fences -/

/-- Fail the checkpoints of Pecks with a status (R483). -/
def ckptFence (s : State) (own : Nat → Bool) (st : Status) : State :=
  (s.ckpts.filter fun c => own c.peck).foldl (fun s c => ckptFail s c st) s

end Sys2Proof.Machine
end

