-- ==== Sys2Proof/Machine/Nvme.lean ====
section
/-!
DEFINITION. The NVMe controllers of PF1 (R418 to R421) as data: queues, completions, data pointers, requests to volumes, and reset.
-/

namespace Sys2Proof.Machine

def State.nvme (s : State) (p : Nat) : Nvme := tblGet Nvme.reset s.nvmes p
def State.setNvme (s : State) (p : Nat) (x : Nvme) : State := { s with nvmes := tblSet Nvme.reset s.nvmes p x }

/-- The function of a controller: PF1 for number 0, else the Peck's VF of PF1. -/
def nvFn (s : State) (p : Nat) : Nat := if p = 0 then 256 else 256 + (s.peck p).vf1

/-- A controller is presented: PF1's own, or that of a Peck with a VF of PF1 (R418). -/
def nvExists (s : State) (p : Nat) : Bool := p == 0 || ((s.peck p).state != .free && (s.peck p).vf1 != 0)

/-- A controller takes commands: enabled, its Peck not DISABLED (R421), the device not fenced for a power cycle (R20, R526), and its function able to read host memory, which needs Bus
Master Enable and D0 (PRESUMED: PCI Express). -/
def nvReady (s : State) (p : Nat) : Bool :=
  nvExists s p && (s.nvme p).en && !s.rcv.fenced && (s.peck p).state != .disabled && (s.fn (nvFn s p)).bme && !(s.fn (nvFn s p)).d3

def Nvme.sq (x : Nvme) (q : Nat) : Option NvSq := (x.sqs.find? fun e => e.1 == q).map (·.2)
def Nvme.cq (x : Nvme) (q : Nat) : Option NvCq := (x.cqs.find? fun e => e.1 == q).map (·.2)
def Nvme.setSq (x : Nvme) (q : Nat) (y : NvSq) : Nvme := { x with sqs := tblInsert (tblErase x.sqs q) q y }
def Nvme.setCq (x : Nvme) (q : Nat) (y : NvCq) : Nvme := { x with cqs := tblInsert (tblErase x.cqs q) q y }

/-- An NVMe status: code type and code. -/
abbrev NvSt := Nat × Nat

/-- NVMe statuses of NVM Express Base 2.0 that the controller uses beside R420 (PRESUMED: the manual names them by their names). -/
def nvOk : NvSt := (0, 0)
def nvInvalidOpcode : NvSt := (0, 0x01)
def nvInvalidField : NvSt := (0, 0x02)
def nvSqDeleted : NvSt := (0, 0x08)
def nvSequence : NvSt := (0, 0x0C)
def nvAborted : NvSt := (0, 0x07)
def nvInvalidNs : NvSt := (0, 0x0B)
def nvLbaRange : NvSt := (0, 0x80)
def nvCqInvalid : NvSt := (1, 0x00)
def nvQueueId : NvSt := (1, 0x01)
def nvQueueSize : NvSt := (1, 0x02)
def nvVector : NvSt := (1, 0x08)
def nvQueueDel : NvSt := (1, 0x0C)

/-- A device status in NVMe terms (R420). -/
def nvStatus (st : Status) (isWrite : Bool) : NvSt :=
  if st = stOk then nvOk
  else if st = stStorVolume ∨ st = stStorDriveFailed then (0, 0x82)
  else if st = stStorMedia then (2, if isWrite then 0x80 else 0x81)
  else if st = stStorMirrorLost then (2, 0x80)
  else if st = stKeyExhausted ∨ st = stKeyErased then (2, 0x86)
  else (0, 0x06)

/-- A controller's write to host memory: pages are logged first (R339), and the request carries the Routing ID of its function (R418). -/
def nvHostWrite (s : State) (p : Nat) (a : Word) (bs : List Byte) : State :=
  (s.logRange p a bs.length).emit (.hostWrite (nvFn s p) (s.rid (nvFn s p)) a bs false)

/-- Put a completion entry in the slot of a completion queue that is not full, and signal its vector. -/
def nvPost (s : State) (p q : Nat) (cq : NvCq) (e : NvEnt) : State :=
  let phase := (cq.tail / max 1 cq.size + 1) % 2
  let a := cq.base + BitVec.ofNat 64 (cq.tail % max 1 cq.size * 16)
  let bs := bytesOf 4 e.dw0 ++ bytesOf 4 0 ++ bytesOf 4 (e.head + e.sq * 65536) ++
    bytesOf 4 (e.cid % 65536 + phase * 2 ^ 16 + e.sc * 2 ^ 17 + e.sct * 2 ^ 25)
  let s := nvHostWrite (s.setNvme p ((s.nvme p).setCq q { cq with tail := cq.tail + 1 })) p a bs
  if cq.ien then s.signalVec (nvFn s p) cq.vec else s

/-- A completion queue is full: the next entry would reach the host's head (NVM Express Base 2.0; R2). -/
def NvCq.full (cq : NvCq) : Bool := decide (max 1 cq.size ≤ cq.tail - cq.head + 1)

/-- The completion entry of a command of a submission queue: written and signalled, or held while its completion queue is full or an earlier entry is
held (NVM Express Base 2.0; R2). -/
def nvDone (s : State) (p q cid dw0 : Nat) (st : NvSt) : State :=
  let x := s.nvme p
  match x.sq q with
  | none => s
  | some sq => match x.cq sq.cq with
    | none => s
    | some cq =>
      let e : NvEnt := ⟨q, sq.head, cid, dw0, st.1, st.2⟩
      if cq.full ∨ cq.held ≠ [] then s.setNvme p (x.setCq sq.cq { cq with held := cq.held ++ [e] })
      else nvPost s p sq.cq cq e

/-- Write the entries that a completion queue holds, as far as its head allows. -/
def nvDrain (p q : Nat) : Nat → State → State
  | 0, s => s
  | fuel + 1, s => match (s.nvme p).cq q with
    | none => s
    | some cq => match cq.held with
      | [] => s
      | e :: rest => if cq.full then s else nvDrain p q fuel (nvPost s p q { cq with held := rest } e)

/-- A command is taken from a submission queue that exists on a ready controller; `admin` says which set it belongs to. -/
def nvTake (s : State) (p q : Nat) (admin : Bool) (k : State → State) : State :=
  if nvReady s p = false ∨ (q = 0) ≠ (admin = true) then s
  else match (s.nvme p).sq q with
    | none => s
    | some sq => k (s.setNvme p ((s.nvme p).setSq q { sq with head := (sq.head + 1) % max 1 sq.size }))

/-- Write bytes through a command's data pointer: PRP entries, the first with its page offset (R418). -/
def nvWrite (s : State) (p : Nat) (prp : List Word) (off : Nat) (bs : List Byte) : State :=
  let o0 := (prp.getD 0 0).toNat % 4096
  (reqChunks (o0 + off) (s.fn (nvFn s p)).mps (bs.length + 1) 0 bs.length).foldl (fun s (o, n) =>
    let at_ := o0 + off + o
    let page := prp.getD (at_ / 4096) 0
    let a := if at_ / 4096 = 0 then page - BitVec.ofNat 64 o0 + BitVec.ofNat 64 (at_ % 4096) else page + BitVec.ofNat 64 (at_ % 4096)
    nvHostWrite s p a ((bs.drop o).take n)) s

/-- Flush commands complete when every earlier write of the controller has (R419). -/
def nvFlush (s : State) (p : Nat) : State :=
  ((s.nvme p).cmds.filter fun c => c.flush).foldl (fun s c =>
    if (s.nvme p).cmds.any fun w => w.isWrite && decide (w.seq < c.seq) then s
    else nvDone (s.setNvme p { s.nvme p with cmds := (s.nvme p).cmds.filter fun y => y.seq ≠ c.seq }) p c.q c.cid 0 nvOk) s

/-- Add a command to those the controller holds. -/
def nvAdd (s : State) (p q cid : Nat) (isWrite flush : Bool) (prp : List Word) (open_ : Nat) : State :=
  let x := s.nvme p
  s.setNvme p { x with cmds := x.cmds ++ [(⟨x.next, q, cid, isWrite, flush, open_, stOk, prp⟩ : NvCmd)], next := x.next + 1 }

def Nvme.cmd (x : Nvme) (q cid : Nat) : Option NvCmd := x.cmds.find? fun c => c.q == q && c.cid == cid

/-- Data read from a volume for a command. -/
def nvDeliver (s : State) (p q cid off : Nat) (bs : List Byte) : State :=
  match (s.nvme p).cmd q cid with
  | none => s
  | some c => nvWrite s p c.prp off bs

/-- A request of a command has its outcome; the command completes with the last. -/
def nvOutcome (s : State) (p q cid : Nat) (st : Status) : State :=
  match (s.nvme p).cmd q cid with
  | none => s
  | some c =>
    let c := { c with open_ := c.open_ - 1, st := if c.st = stOk then st else c.st }
    let rest := (s.nvme p).cmds.filter fun y => y.seq ≠ c.seq
    if c.open_ ≠ 0 then
      s.setNvme p { s.nvme p with cmds := (s.nvme p).cmds.map fun y => if y.seq = c.seq then c else y }
    else nvFlush (nvDone (s.setNvme p { s.nvme p with cmds := rest }) p q cid 0 (nvStatus c.st c.isWrite)) p

/-- Start the volume requests of a command: the namespace must be active, the range inside it (R418, R420). -/
def nvRun (s : State) (p q cid nsid : Nat) (kind : VKind) (ranges : List (Nat × Nat)) (prp : List Word) (data : List Byte) : State :=
  let v := nsid - 1
  if nsid = 0 ∨ nsid > 1024 ∨ volEn s v = false ∨ volPeck s v ≠ p then nvDone s p q cid 0 nvInvalidNs
  else if ranges.any fun r => decide (r.1 + r.2 > volBlocks s v) then nvDone s p q cid 0 nvLbaRange
  else
    let total := ranges.foldl (fun a r => a + npktOf r.2 vreqMax) 0
    if total = 0 then nvDone s p q cid 0 nvOk
    else
      let s := nvAdd s p q cid (kind != .read) false prp total
      (ranges.foldl (fun (s, off) (blk, n) =>
        ((vreqRun kind v (.nvme p q cid) (n + 1) blk n (data.drop off) off s).1, off + n * 4096)) (s, 0)).1

/-- Report a pending Namespace Attribute Changed event to an outstanding Asynchronous Event Request. -/
def nvAen (s : State) (p : Nat) : State :=
  let x := s.nvme p
  match x.aers with
  | cid :: rest =>
    if x.event && nvReady s p then nvDone (s.setNvme p { x with event := false, aers := rest }) p 0 cid (2 + 0x04 * 65536) nvOk else s
  | [] => s

/-- A namespace of a Peck's controller appears or goes (R418): it joins the Changed Namespace List, and the event is raised when the list was empty and the
host has enabled Namespace Attribute Notices, bit 8 of feature 0x0B (NVM Express Base 2.0; R2). -/
def nvChanged (s : State) (p v : Nat) : State :=
  let x := s.nvme p
  let told := (tblGet 0 x.feats 0x0B).testBit 8
  if p = 0 ∨ nvReady s p = false then s
  else nvAen (s.setNvme p { x with event := x.event || (x.changed.isEmpty && told), changed := if x.changed.contains (v + 1) then x.changed else x.changed ++ [v + 1] }) p

/-- Reset a controller: its queues are deleted and its commands discarded (R421). -/
def nvReset (s : State) (p : Nat) : State :=
  let mine : User → Bool
    | .nvme k _ _ => k == p
    | _ => false
  let s := dropVreqs s mine
  { s with outcomes := s.outcomes.filter fun o => !mine o.1, arrivals := s.arrivals.filter fun o => !mine o.1,
           nvmes := tblErase s.nvmes p }

end Sys2Proof.Machine
end

