-- ==== Sys2Proof/Machine/RegField.lean ====
section
/-!
DEFINITION. Register writes field by field: a field outside its range keeps its value and the write is counted (R5, R226).
-/

namespace Sys2Proof.Machine

/-- A writable field: lowest bit, width, and the least and largest value it takes. -/
structure RegField where
  lo : Nat
  w  : Nat
  min : Nat
  max : Nat
deriving DecidableEq, Repr

/-- A field without a range of its own. -/
def RegField.all (lo w : Nat) : RegField := ⟨lo, w, 0, 2 ^ w - 1⟩

/-- The register after a write of fields: those in range take the new value; the Bool says that one was out of range. Bits in no
field keep their value. -/
def putFields (old new : Word) (fs : List RegField) : Word × Bool :=
  fs.foldl (fun (x, bad) f =>
    let v := bitsOf new f.lo f.w
    if f.min ≤ v ∧ v ≤ f.max then (putField x f.lo f.w v, bad) else (x, true)) (old, false)

/-- Write the fields of a register kept by offset. -/
def State.writeFields (s : State) (off : Nat) (part : RegPart) (v : Word) (fs : List RegField) : State :=
  let (x, bad) := putFields (s.reg off) (mergePart part (s.reg off) v) fs
  let s := if bad then s.errWr else s
  s.setReg off x

end Sys2Proof.Machine
end

