-- ==== Sys2Proof/Machine/WymTx.lean ====
section
/-!
DEFINITION. The sending side of the Wymoug transport: paths and pacing (R256, R257, R286, R287), the events that end or repeat a
message (R282 to R285), and the ring requests of a tenant (R259 to R262, R279, R280).
-/

namespace Sys2Proof.Machine

/-! ## Destinations and paths -/

def freshPath (s : State) (i p : Nat) : Path :=
  { Path.none with rate := macRate s (4 * i + p / 32) / max 1 (bitsOf (s.reg rWymPath) 40 8) }

def State.dest (s : State) (i : Nat) (a : BitVec 128) : Option Dest := (s.inst i).dests.find? fun d => d.addr == a

def State.path (s : State) (i : Nat) (a : BitVec 128) (p : Nat) : Path :=
  match s.dest i a with
  | none => freshPath s i p
  | some d => ((d.paths.find? fun e => e.1 == p).map (·.2)).getD (freshPath s i p)

/-- Make room for a destination entry (R257): the least recently used one without a message in flight leaves a full table. -/
def ensureDest (s : State) (i : Nat) (a : BitVec 128) : Option State :=
  let x := s.inst i
  match s.dest i a with
  | some d => some (s.setInst i { x with dests := (x.dests.filter fun e => e.addr ≠ a) ++ [{ d with used := s.time }] })
  | none =>
    if x.dests.length < 4096 then some (s.setInst i { x with dests := x.dests ++ [⟨a, s.time, []⟩] })
    else
      let idle := x.dests.filter fun d => !(s.msgs.any fun m => m.inst == i && m.dst == d.addr && m.begun)
      match idle with
      | [] => none
      | d :: ds =>
        let v := ds.foldl (fun (b : Dest) e => if e.used < b.used then e else b) d
        some (s.setInst i { x with dests := (x.dests.filter fun e => e.addr ≠ v.addr) ++ [⟨a, s.time, []⟩] })

/-- Write a path's state; nothing where the instance holds no entry for the address. -/
def setPath (s : State) (i : Nat) (a : BitVec 128) (p : Nat) (y : Path) : State :=
  let x := s.inst i
  s.setInst i { x with dests := x.dests.map fun d => if d.addr = a then { d with paths := tblInsert (tblErase d.paths p) p y } else d }

def updPath (s : State) (i : Nat) (a : BitVec 128) (p : Nat) (f : Path → Path) : State := setPath s i a p (f (s.path i a p))

/-- The paths of an instance that have a port up (R256). -/
def pathsUp (s : State) (i : Nat) : List Nat :=
  (List.range 128).filter fun p => portUp s (4 * i + p / 32) && decide (p % 32 < bitsOf (s.reg rWymPath) 32 8)

/-- The member of a list with the least value of a measure; the first on a tie. -/
def leastBy (f : Nat → Nat) : List Nat → Option Nat
  | [] => none
  | x :: xs => some (xs.foldl (fun b y => if f y < f b then y else b) x)

/-- Presumed losses among a path's last packets (R287). -/
def pathLosses (y : Path) : Nat := (y.hist.filter id).length

/-- The path that takes the next packet to an address, other than `avoid` where another is eligible (R282, R287). -/
def bestPath (s : State) (i : Nat) (a : BitVec 128) (avoid : Option Nat) : Option Nat :=
  let up := pathsUp s i
  let ok := up.filter fun p => (s.path i a p).phase == .eligible
  if ok.isEmpty then leastBy (fun p => pathLosses (s.path i a p)) up
  else
    let rest := ok.filter fun p => avoid ≠ some p
    leastBy (fun p => (s.path i a p).next) (if rest.isEmpty then ok else rest)

/-- The receiver instance of a message not yet begun: the next one in order with a usable path when every path to its own is avoided
(R257). -/
def msgTarget (s : State) (m : Msg) : BitVec 128 :=
  if m.begun then m.dst
  else
    let base := addrBase m.dst
    let own := m.dst.toNat / 2 ^ 120 % 4
    let usable (j : Nat) : Bool := (pathsUp s m.inst).any fun p => (s.path m.inst (instAddr base j) p).phase == .eligible
    match ([0, 1, 2, 3].map fun k => (own + k) % 4).find? usable with
    | some j => instAddr base j
    | none => m.dst

/-! ## Pacing (R287, R288) -/

/-- A packet of a message that may be released now: ready, past any BUSY hold, not sealed behind earlier writes, before H − LIFE, with
a tracker for a READREQ (R275, R277, R283, R285, R290). -/
def pktDue (s : State) (m : Msg) (pk : MsgPkt) : Bool :=
  pk.phase == .ready && decide (pk.sent ≤ s.time) && !m.held && !instHeld s m.inst &&
  (match m.t0 with
   | none => true
   | some t => decide (s.time ≤ t + (wymH s - wymLife s))) &&
  (m.begun || m.kind != .read || decide (trkUse s m.inst < 65536))

/-- Payload bytes of packet k of a message. -/
def pktLen (m : Msg) (k : Nat) : Nat :=
  match m.kind with
  | .read | .atomic => 16
  | _ => min m.psize (m.len - k * m.psize)

/-- Frame length of packet k of a message on a port (R253). -/
def msgFrame (s : State) (port : Nat) (m : Msg) (k : Nat) : Nat := pktFrame (portVlan s port) m.coll.isSome (pktLen m k)

def updPkt (s : State) (key k : Nat) (f : MsgPkt → MsgPkt) : State :=
  s.updMsg key fun m => { m with pkts := m.pkts.map fun e => if e.1 = k then (k, f e.2) else e }

/-- A queue of a port is full (R299). -/
def queueFull (s : State) (port q : Nat) : Bool := decide ((tblGet PQueue.reset (s.port port).qs q).ents.length ≥ 256)

/-- A path's next permitted time after a frame of a length (R287). -/
def pathTook (s : State) (i : Nat) (dst : BitVec 128) (path len : Nat) : State :=
  updPath s i dst path fun y => { y with next := s.time + len * 8000000000 / max 1 y.rate }

/-- The oldest packet of a message whose best path to an address is this one. -/
def dueMsg (s : State) (i : Nat) (dst : BitVec 128) (path : Nat) : Option (Msg × Nat) :=
  s.msgs.findSome? fun m =>
    if m.inst ≠ i ∨ msgTarget s m ≠ dst then none
    else (m.pkts.find? fun e => pktDue s m e.2 &&
      bestPath s i dst (if e.2.tried then some e.2.path else none) == some path).map fun e => (m, e.1)

/-- Release a packet of a message to the queue of its path's port (R288). The first fixes the message's destination. -/
def paceMsg (s : State) (i : Nat) (dst : BitVec 128) (path : Nat) (m : Msg) (k : Nat) : State :=
  let port := 4 * i + path / 32
  if queueFull s port m.queue then s
  else
    let s := (pathTook s i dst path (msgFrame s port m k)).updMsg m.key fun m => { m with begun := true, dst := dst }
    enqueue (updPkt s m.key k fun pk => { pk with phase := .queued, path := path }) port m.queue (.msg m.key k)

/-- The oldest READRESP that waits for a path to a requester. -/
def dueResp (s : State) (i : Nat) (dst : BitVec 128) (path : Nat) : Option Resp :=
  s.resps.find? fun r => !r.wait && r.port / 4 == i && r.req.src == dst && r.path == path

/-- Release a READRESP (R277, R288); it fails where its Peck has no queue on the die any more (R316). -/
def paceResp (s : State) (r : Resp) : State :=
  let rest := { s with resps := s.resps.filter fun x => x.num ≠ r.num }
  match respQueue s (r.port / 4) r.peck with
  | none => nak rest r.port r.req false stSchNoQueue
  | some q =>
    if queueFull s r.port q then s
    else enqueue (pathTook rest (r.port / 4) r.req.src r.path (pktFrame (portVlan s r.port) false (respLen r))) r.port q (.resp r)

/-- A pacing slot: path `path` of an instance to an address has its permitted time, and the oldest packet that takes it enters a scheduler queue
(R287, R288); READRESPs come before the packets of messages (DESIGN CHOICE: the manual gives no order between them). No effect while the queue is full
(R299) or nothing is due. -/
def paceSlot (s : State) (i : Nat) (dst : BitVec 128) (path : Nat) : State :=
  match dueResp s i dst path, dueMsg s i dst path with
  | none, none => s
  | some r, _ => match ensureDest s i dst with
    | none => s
    | some s => if s.time < (s.path i dst path).next then s else paceResp s r
  | none, some (m, k) => match ensureDest s i dst with
    | none => s
    | some s => if s.time < (s.path i dst path).next then s else paceMsg s i dst path m k

/-! ## Congestion control (R286, R287) -/

/-- An RTT sample on a path (R286): the rate changes at most once per smoothed RTT. The first sample is the smoothed RTT's first value
(DESIGN CHOICE: the manual gives none). -/
def rttSample (s : State) (i p : Nat) (y : Path) (rtt : Nat) : Path :=
  let rtts := (s.time, rtt) :: y.rtts.filter fun e => decide (s.time < e.1 + 1000000000)
  let base := rtts.foldl (fun b e => min b e.2) rtt
  let q := rtt - base
  let td := bitsOf (s.reg rWymCc) 16 10 * 1000
  let port := macRate s (4 * i + p / 32)
  let rate :=
    if q ≤ td then min (y.rate + bitsOf (s.reg rWymCc) 32 8 * 100000000) port
    else max (y.rate - y.rate * bitsOf (s.reg rWymCc) 40 8 * (q - td) / (256 * q)) 100000000
  let srtt := if y.rtts.isEmpty && y.srtt == 0 then rtt else (7 * y.srtt + rtt) / 8
  if y.adj ≠ 0 ∧ s.time < y.adj + y.srtt then { y with rtts := rtts, srtt := srtt }
  else { y with rtts := rtts, srtt := srtt, rate := rate, adj := s.time }

/-- Note the fate of a packet on a path; too many presumed losses make it AVOIDED (R287). -/
def pathFate (s : State) (i : Nat) (a : BitVec 128) (p : Nat) (lost : Bool) : State :=
  let y := s.path i a p
  let y := { y with hist := (lost :: y.hist).take 256 }
  if lost ∧ y.phase = .eligible ∧ pathLosses y ≥ bitsOf (s.reg rWymPath) 0 8 then
    (setPath s i a p { y with phase := .avoided (s.time + bitsOf (s.reg rWymPath) 8 10 * 1000000) }).bump (rWymCtr i 10) 1
  else setPath s i a p y

/-- A packet with number n on a path was acknowledged: each packet sent earlier on that path counts it, and at three is presumed lost
and sent again at once (R282, R287). -/
def laterAcked (s : State) (i : Nat) (a : BitVec 128) (p n : Nat) : State :=
  (s.msgs.filter fun m => m.inst == i && m.dst == a).foldl (fun s m =>
    m.pkts.foldl (fun s (k, pk) =>
      match pk.phase with
      | .flight q =>
        if pk.path = p ∧ q < n then
          if pk.later + 1 ≥ 3 then pathFate (updPkt s m.key k fun pk => { pk with phase := .ready, later := 0, sent := s.time }) i a p true
          else updPkt s m.key k fun pk => { pk with later := pk.later + 1 }
        else s
      | _ => s) s) s

/-- Mark packets of a message acknowledged by a bitmap; a message fully acknowledged completes with ST_OK (R283, R285). -/
def msgAcked (s : State) (m : Msg) (bits : Nat) : State :=
  let new := m.pkts.filter fun e => bits.testBit e.1
  let s := s.updMsg m.key fun m => { m with acked := m.acked ||| bits, pkts := m.pkts.filter fun e => !bits.testBit e.1 }
  let s := instMoves s m.inst (new.length * m.psize)
  let s := new.foldl (fun s (_, pk) =>
    match pk.phase with
    | .flight n => laterAcked (pathFate s m.inst m.dst pk.path false) m.inst m.dst pk.path n
    | _ => s) s
  if m.pkts.all fun e => bits.testBit e.1 then endMsg s m stOk else s

/-- The message an answer concerns: by its source address and MSGID (R268). -/
def answered (s : State) (port : Nat) (p : Pkt) : Option Msg :=
  s.msgs.find? fun m => m.inst == port / 4 && m.dst == p.src && (m.msgid.map fun n => BitVec.ofNat 64 n) == some p.msgid

/-- An answer for a message no longer held (R285). -/
def unsolicited (s : State) (port : Nat) : State := s.bump (rWymCtr (port / 4) 12) 1

/-- An answered probe, which gives an RTT sample (R286, R287). -/
def probeAcked (s : State) (port : Nat) (p : Pkt) (rtt : Nat) : State :=
  let i := port / 4
  let y := s.path i p.src p.path.toNat
  if y.probe ≠ some p.msgid then unsolicited s port
  else
    let y := rttSample s i p.path.toNat y rtt
    match y.phase with
    | .probing g =>
      if g + 1 ≥ bitsOf (s.reg rWymPath) 24 8 then
        setPath s i p.src p.path.toNat { y with phase := .eligible, probe := none, hist := [], rate := (freshPath s i p.path.toNat).rate }
      else setPath s i p.src p.path.toNat { y with phase := .probing (g + 1), probe := none }
    | _ => setPath s i p.src p.path.toNat { y with probe := none }

/-- A received ACK (R268, R285, R286). -/
def ackRx (s : State) (port : Nat) (p : Pkt) : State :=
  let i := port / 4
  let rtt := (BitVec.ofNat 32 s.time - p.msglen - BitVec.ofNat 32 p.pidx.toNat).toNat
  match answered s port p with
  | none => probeAcked s port p rtt
  | some m =>
    let s := updPath s i p.src p.path.toNat fun y => rttSample s i p.path.toNat y rtt
    msgAcked s m (p.roff.toNat + p.spec.toNat * 2 ^ 64)

/-- RTO of a message (R282). -/
def msgRto (s : State) (m : Msg) : Nat :=
  max (bitsOf (s.reg rWymCc) 0 14 * 1000) (2 * m.paths.foldl (fun b p => max b (s.path m.inst m.dst p).srtt) 0)

/-- A received NAK (R285): BUSY delays the packet to its RTO; any other fails the message with its STATUS. -/
def nakRx (s : State) (port : Nat) (p : Pkt) : State :=
  let busy := p.flags.getLsbD 4
  let s := if busy then s else s.bump (rWymCtr (port / 4) 7) 1
  match answered s port p with
  | none => unsolicited s port
  | some m =>
    if busy then
      let k := if m.kind = .read ∨ m.kind = .atomic then 0 else p.pidx.toNat
      updPkt s m.key k fun pk => { pk with phase := .ready, sent := pk.sent + msgRto s m }
    else endMsg s m (p.spec.setWidth 16)

/-- A received READRESP (R277): the first copy of each packet is placed; the message completes with the last. -/
def readRespRx (s : State) (port : Nat) (p : Pkt) : State :=
  match answered s port p with
  | none => unsolicited s port
  | some m =>
    let k := p.pidx.toNat
    if m.kind ≠ .read ∨ k ≥ npktOf m.len m.psize ∨ p.payload.length ≠ min m.psize (m.len - k * m.psize) then unsolicited s port
    else if m.acked.testBit k then s
    else
      let bits := m.acked ||| 2 ^ k
      let s := { s with arrivals := s.arrivals ++ [(m.user, m.off + k * m.psize, p.payload)] }
      if weight (npktOf m.len m.psize) bits = npktOf m.len m.psize then endMsg s m stOk
      else instMoves (s.updMsg m.key fun m => { m with acked := bits }) m.inst m.psize

/-- A received ATOMICRESP (R278). -/
def atomicRespRx (s : State) (port : Nat) (p : Pkt) : State :=
  match answered s port p with
  | none => unsolicited s port
  | some m =>
    if m.kind ≠ .atomic then unsolicited s port
    else endMsg { s with arrivals := s.arrivals ++ [(m.user, m.off, p.payload.take 8)] } m stOk

/-! ## Ring requests (R259 to R262, R279, R280) -/

/-- Whether a LOCAL range holds a CODE word. -/
def hasCode (s : State) (a n : Nat) : Bool :=
  s.mem.tags.any fun e => e.2 == Tag.code && decide (a / 8 ≤ e.1) && decide (e.1 * 8 < a + n)

/-- When an arm of an entry will be accepted, if it is too soon (R259, R260): never where the generation would pass 0xFFFF, else at the end of a hold in
progress, or a horizon after the new generation value was retired. -/
def armTime (s : State) (n : Nat) : Option Nat :=
  let g := (s.region n).gen
  if g = 0xFFFF#16 then some 0xFFFFFFFFFFFFFFFF
  else if wymHold s then some (wymHoldEnd s)
  else match s.retired.find? fun e => e.1 == n && e.2.1 == g + 1 && decide (s.time < e.2.2 + wymH s) with
    | some e => some (e.2.2 + wymH s)
    | none => none

/-- The checks of an arm in the order of R259. -/
def armStatus (s : State) (i : Item) : Status :=
  let ref := i.ref 0
  let w := i.w 2
  let need (bit right : Nat) : Bool := bitsOf w bit 1 == 1 && !hasRight ref.h right
  if ref.st ≠ stOk then ref.st
  else match saBySpi s (i.w 1).toNat with
    | none => stRights
    | some sa =>
      if ref.loc.kind = .volume ∨ ref.loc.kind = .remote ∨ ref.loc.index ≥ 0xFF000 ∨ need 0 rightRd ∨ need 1 rightWr ∨ need 2 rightAtom ∨
          (bitsOf w 2 1 = 1 ∧ ref.loc.kind ≠ .local_) ∨ saPeck s sa ≠ i.fn then stRights
      else if bitsOf w 4 4 > 0xB ∨ (ref.loc.kind = .local_ ∧ hasCode s ref.loc.base.toNat ref.loc.len.toNat) then stTag
      else if (s.arm ref.loc.index).isSome ∧ bitsOf w 3 1 = 0 then stDuplicate
      else if (armTime s ref.loc.index).isSome then stRearmTooSoon
      else stOk

/-- WYM_ARM (R259 to R261): the entry's generation advances, the referenced handle takes it, and the result is the new key. -/
def execWymArm (id : Nat) (s : State) : Host.Outcome State Fault Refusal :=
  .next (s.request id 0x0400 fun i =>
    let st := armStatus s i
    let n := (i.ref 0).loc.index
    if st = stRearmTooSoon then s.completeItem i st (BitVec.ofNat 64 ((armTime s n).getD 0)) 0
    else if st ≠ stOk then s.done i st
    else match saBySpi s (i.w 1).toNat with
      | none => s.done i stRights
      | some sa =>
        let s := advanceEntry s n
        let gen := (s.region n).gen
        let s := s.setArm n ⟨sa, BitVec.ofNat 3 (bitsOf (i.w 2) 0 3), BitVec.ofNat 4 (bitsOf (i.w 2) 4 4)⟩
        let s := s.putWord (dirBase i.fn + 8 * (i.w 0).toNat) ⟨mkHandle n gen (hRights (i.ref 0).h), Tag.handle⟩
        s.completeItem i stOk (BitVec.ofNat 64 (n + gen.toNat * 2 ^ 24)) 0)

/-- WYM_DISARM (R262): the armed state clears, the generation stays. -/
def execWymDisarm (id : Nat) (s : State) : Host.Outcome State Fault Refusal :=
  .next (s.request id 0x0401 fun i =>
    let ref := i.ref 0
    if ref.st ≠ stOk then s.done i ref.st else (s.disarm ref.loc.index).done i stOk)

/-- WYM_POST (R279, R280, R290, R416). -/
def execWymPost (id : Nat) (s : State) : Host.Outcome State Fault Refusal :=
  .next (s.request id 0x0402 fun i =>
    let ref := i.ref 0
    let ep := bitsOf (i.w 4) 0 12
    let st := ref.check [.local_, .host, .accel] [rightWr]
    if st ≠ stOk then s.done i st
    else if ref.loc.holds (i.w 1) (i.w 2).toNat 1 = false ∨ (s.ep ep).peck ≠ i.fn ∨ (s.ep ep).posts.length ≥ 256 ∨
        (mailVol s ep).isSome then s.done i stRights
    else if bitsOf (i.w 4) 12 4 > 0xB then s.done i stTag
    else if wymHold s then s.completeItem i stRearmTooSoon (BitVec.ofNat 64 (wymHoldEnd s)) 0
    else
      let b : Post := ⟨ref.loc, i.w 1, (i.w 2).toNat, i.w 3, BitVec.ofNat 4 (bitsOf (i.w 4) 12 4), i.spring⟩
      (s.setEp ep { s.ep ep with posts := (s.ep ep).posts ++ [b] }).done i stOk)

/-- Send the message of a WYM_SEND whose source is read, or lies in device memory (R275, R279). Its scope is open. -/
def sendItem (s : State) (i : Item) (src : MsgSrc) : State :=
  let d := (i.ref 1).loc
  let grp := BitVec.ofNat 16 (bitsOf (i.w 5) 0 16)
  let sealed := bitsOf (i.w 5) 16 1 == 1
  let hold := sealed && earlierWrite s i.wr i.fn grp d.raddr
  let m := newMsg .send i.fn d grp 0 (i.w 2).toNat (wymPsize s) (some i.wr) sealed none (.item i.id) 0 src
  dealMsg (s.updItem i.id fun x => { x with phase := .active, open_ := 1 }) (256 + 16 * i.fn + i.ring) d.raddr { m with held := hold }

/-- The checks of a WYM_SEND. -/
def sendStatus (s : State) (i : Item) : Status :=
  let a := i.ref 0
  let b := i.ref 1
  let n := (i.w 2).toNat
  let right := if a.loc.kind = .local_ then rightCpout else rightRd
  if n < 8 ∨ n > 128 * wymPsize s then stUndef
  else
    let st := firstBad [a.check [.local_, .host, .accel, .remote, .volume] [right], b.check [.remote] [rightWr]]
    if st ≠ stOk then st
    else if remIsEp b.loc = false ∨ a.loc.holds (i.w 1) (n - 8) (if a.loc.kind = .volume then 4096 else 1) = false ∨
        (a.loc.kind = .volume ∧ (n - 8) % 4096 ≠ 0) then stRights
    else stOk

/-- Read an external source of an item, as requests with the item as user (R360, R413, R277). -/
def itemRead (s : State) (i : Item) (l : Loc) (off : Word) (n : Nat) : State :=
  let p := i.fn
  let open_ (s : State) (c : Nat) : State := s.updItem i.id fun x => { x with phase := .active, open_ := x.open_ + c }
  match l.kind with
  | .remote =>
    let ps := wymPsize s
    let parts := msgPieces ps n
    parts.foldl (fun s (o, c) => dealMsg s (256 + 16 * p + i.ring) l.raddr
      (newMsg .read p l 0 (l.base + off + BitVec.ofNat 64 o) c ps none false none (.item i.id) o .none)) (open_ s parts.length)
  | .volume =>
    let (s, c) := vreqRun .read l.aux.toNat (.item i.id) (n / 4096 + 1) ((l.base + off).toNat / 4096) (n / 4096) [] 0 s
    open_ s c
  | _ =>
    let f := s.fnOf p
    let host := l.kind == .host
    let g := if host then upGroup s (vhOf s f) else l.aux.toNat
    let a := (l.base + off).toNat
    (reqChunks a (if host then (s.fn f).mrrs else 4096) (n + 1) 0 n).foldl (fun s (o, c) =>
      let st := if host then stOk else accelStatus s g (a + o) c
      if st = stOk then issueRead (open_ s 1) g f host (BitVec.ofNat 64 (a + o)) c (.item i.id) o
      else (open_ s 1).outcome (.item i.id) o st) s

/-- WYM_SEND (R279): the checks, then the message; it waits for a port and for the ordering table, whose entry it takes at once (R276). A source
outside the device is read first. -/
def runWymSend (id : Nat) (s : State) : State :=
  (s.request id 0x0403 fun i =>
    let st := sendStatus s i
    let n := (i.w 2).toNat - 8
    if st ≠ stOk then s.done i st
    else if anyUp s = false ∨ scopeFits s i.fn (BitVec.ofNat 16 (bitsOf (i.w 5) 0 16)) (i.ref 1).loc.raddr = false then s
    else
      let l := (i.ref 0).loc
      let s := openWrite s i.wr i.fn (BitVec.ofNat 16 (bitsOf (i.w 5) 0 16)) (i.ref 1).loc.raddr 1
      if l.kind = .local_ then sendItem s i (.send (i.w 4) (l.base + i.w 1).toNat)
      else if n = 0 then sendItem s i (.sendBytes (i.w 4) [])
      else itemRead s i l (i.w 1) n)

/-- WYM_ATOMIC (R278, R279). -/
def runWymAtomic (id : Nat) (s : State) : State :=
  (s.request id 0x0404 fun i =>
    let a := i.ref 0
    let b := i.ref 1
    let op := bitsOf (i.w 5) 32 8
    let roff := BitVec.ofNat 64 (bitsOf (i.w 5) 0 32)
    let st := firstBad [a.check [.remote] [rightWr], b.check [.local_] [rightWr]]
    if op ≥ 8 then s.done i stUndef
    else if st ≠ stOk then s.done i st
    else if remIsEp a.loc ∨ a.loc.holds (i.w 1) 8 8 = false ∨ b.loc.holds roff 8 8 = false then s.done i stRights
    else if anyUp s = false then s
    else
      let m := newMsg .atomic i.fn a.loc 0 (a.loc.base + i.w 1) 8 (wymPsize s) none false none (.item i.id) 0 (.atomic op (i.w 2) (i.w 3))
      dealMsg (s.updItem id fun x => { x with phase := .active, open_ := 1 }) (256 + 16 * i.fn + i.ring) a.loc.raddr m)

/-- Bytes read for an item arrive. -/
def itemDeliver (s : State) (id off : Nat) (bs : List Byte) : State :=
  s.updItem id fun i => { i with buf := i.buf ++ bs.zipIdx.map fun (b, k) => (off + k, b) }

/-- A part of an item's work has its outcome: a WYM_SEND that has read its source sends; one that has sent, and a WYM_ATOMIC,
completes. -/
def itemOutcome (s : State) (id : Nat) (st : Status) : State :=
  match s.item id with
  | none => s
  | some i =>
    let i := { i with open_ := i.open_ - 1, st := if i.st = stOk then st else i.st }
    let s := s.updItem id fun _ => i
    if i.open_ ≠ 0 then s
    else if i.st ≠ stOk then (if i.typ.toNat = 0x0403 then writeDone s (some i.wr) else s).done i i.st
    -- a restore goes on by its own row
    else if i.typ.toNat = 0x0803 then s
    else if i.typ.toNat = 0x0403 then
      if (i.ref 0).loc.kind = .local_ ∨ i.buf = [] then s.done i stOk
      else
        let bs := (List.range ((i.w 2).toNat - 8)).map fun k => tblGet (0 : Byte) i.buf k
        sendItem (s.updItem id fun x => { x with buf := [] }) { i with buf := [] } (.sendBytes (i.w 4) bs)
    else if i.typ.toNat = 0x0404 then
      let roff := BitVec.ofNat 64 (bitsOf (i.w 5) 0 32)
      let a := ((i.ref 1).loc.base + roff).toNat
      let (s, bad) := placeWord s a (TWord.int (BitVec.ofNat 64 (natOfBytes ((List.range 8).map fun k => tblGet (0 : Byte) i.buf k))))
      s.done i (if bad then stTag else stOk)
    else s.done i stOk

end Sys2Proof.Machine
end

