-- ==== Sys2Proof/Machine/Sched.lean ====
section
/-!
DEFINITION. Egress scheduling (R296 to R312, R316, R318 to R321): gate schedules, start-time fair queuing, shapers, the choice and
transmission of the next frame of a port, and the writes of the SCH block.
-/

namespace Sys2Proof.Machine

/-! ## Gate schedules (R308, R309, R312) -/

/-- The entries of a bank: interval in ns and gates. -/
def chainOf (s : State) (p b : Nat) : List (Nat × Nat) :=
  (List.range (bitsOf (s.reg (rSchNent p b)) 0 11)).map fun e =>
    (bitsOf (s.reg (rChain p b e)) 0 30, bitsOf (s.reg (rChain p b e)) 32 9)

/-- CYCLE of a bank. -/
def cycleOf (es : List (Nat × Nat)) : Nat := es.foldl (fun a e => a + e.1) 0

/-- A bank obeys R308. -/
def chainOk (es : List (Nat × Nat)) : Bool :=
  within 1 1024 es.length && (es.all fun e => within 32 1000000000 e.1 && e.1 % 2 == 0) && within 1000 1000000000 (cycleOf es)

/-- The phase of a bank at a time (R308). -/
def phaseAt (s : State) (p b t : Nat) (es : List (Nat × Nat)) : Nat :=
  (((t : Int) - ((s.reg (rSchBase p b)).toNat : Int)) % (cycleOf es : Int)).toNat

/-- The gates of the entry that contains a phase, and the time left in it. -/
def entryAt : List (Nat × Nat) → Nat → Nat × Nat
  | [], _ => (0, 0)
  | (n, g) :: es, ph => if ph < n then (g, n - ph) else entryAt es (ph - n)

/-- The bank in force at a time, a pending switch included (R311). -/
def bankAt (s : State) (p t : Nat) : Nat :=
  let x := s.port p
  if x.switch_ ∧ x.swAt ≤ t then 1 - x.bank else x.bank

/-- The close time of a gate at a time: the first later start of an entry without it; none if it never closes (R309). A gate not open
at the time closes at it. While the bank in force breaks R308 every gate is open (DESIGN CHOICE: the manual gives it none). -/
def closeTime (s : State) (p bit : Nat) : Nat → Nat → Option Nat
  | 0, _ => none
  | fuel + 1, t =>
    let b := bankAt s p t
    let es := chainOf s p b
    let x := s.port p
    if !chainOk es then (if x.switch_ ∧ t < x.swAt then closeTime s p bit fuel x.swAt else none)
    else
      let (g, left) := entryAt es (phaseAt s p b t es)
      if g.testBit bit then
        let next := if x.switch_ ∧ t < x.swAt ∧ x.swAt < t + left then x.swAt else t + left
        closeTime s p bit fuel next
      else some t

/-- Gates are in force on a port. -/
def gatesOn (s : State) (p : Nat) : Bool := bitsOf (s.reg (rGateCtl p)) 0 1 == 1

/-- T(L) in units of 1/100 ns (R300). -/
def frameTime (s : State) (p len : Nat) : Nat := (len + 8) * 2 ^ (s.port p).mode

/-- The close time of a gate now, when gates are in force and it closes. -/
def gateClose (s : State) (p bit : Nat) : Option Nat := if gatesOn s p then closeTime s p bit 4100 s.time else none

/-- A frame fits its gate now (R309). -/
def fits (s : State) (p len bit : Nat) : Bool :=
  match gateClose s p bit with
  | none => true
  | some c => decide (s.time < c) && decide (s.time * 100 + frameTime s p len ≤ c * 100)

/-- A gate is open now. -/
def gateOpen (s : State) (p bit : Nat) : Bool :=
  match gateClose s p bit with
  | none => true
  | some c => decide (s.time < c)

/-- The longest unbroken open run of a gate in a cycle taken twice; none if it never closes. -/
def openRun (es : List (Nat × Nat)) (bit : Nat) : Option Nat :=
  if es.all fun e => e.2.testBit bit then none
  else some ((es ++ es).foldl (fun (cur, best) e =>
    let c := if e.2.testBit bit then cur + e.1 else 0
    (c, max best c)) (0, 0)).2

/-- A frame fits in no interval of the bank in force (R312). -/
def neverFits (s : State) (p len bit : Nat) : Bool :=
  gatesOn s p &&
  let es := chainOf s p (bankAt s p s.time)
  chainOk es && match openRun es bit with
    | none => false
    | some r => decide (r * 100 < frameTime s p len)

/-! ## Queues -/

/-- Class and owner of a queue of a port. -/
def qClass (s : State) (p q : Nat) : Nat := bitsOf (s.reg (rSchQ (p / 4) q)) 1 3
def qPeck (s : State) (p q : Nat) : Nat := bitsOf (s.reg (rSchQ (p / 4) q)) 8 8

/-- Frame length of a queued packet. -/
def entLen (s : State) (p : Nat) (e : QEnt) : Nat :=
  match e with
  | .resp r => pktFrame (portVlan s p) false (respLen r)
  | .msg key k => match s.msg key with
    | some m => msgFrame s p m k
    | none => 0

/-- Replace the packets of a queue. -/
def setEnts (s : State) (p q : Nat) (l : List QEnt) : State :=
  let x := s.port p
  let y := tblGet PQueue.reset x.qs q
  s.setPort p { x with qs := tblSet PQueue.reset x.qs q { y with ents := l } }

/-- Remove one packet from its queue. -/
def dropEnt (s : State) (p q : Nat) (e : QEnt) : State :=
  setEnts s p q ((tblGet PQueue.reset (s.port p).qs q).ents.erase e)

/-- A READRESP belongs to a READREQ: the same requester, message and port (R277). -/
def respOf (r x : Resp) : Bool := x.req.src == r.req.src && x.req.msgid == r.req.msgid && x.port == r.port

/-- The READRESPs of a READREQ go, and it is refused with a status (R312). -/
def failResps (s : State) (r : Resp) (st : Status) : State :=
  let mine (e : QEnt) : Bool := match e with
    | .resp x => respOf r x
    | _ => false
  let s := (s.resps.filter (respOf r)).foldl (fun s x => dropReads s (.resp x.num)) s
  let x := s.port r.port
  let s := s.setPort r.port { x with qs := x.qs.map fun (q, y) => (q, { y with ents := y.ents.filter fun e => !mine e }) }
  nak { s with resps := s.resps.filter fun x => !respOf r x } r.port r.req false st

/-- The test of R312 on a queue's head, once for each packet that becomes head: one that can never leave fails with the other packets of its message,
and the next head is tested. -/
def headTest (p q : Nat) : Nat → State → State
  | 0, s => s
  | fuel + 1, s =>
    let y := tblGet PQueue.reset (s.port p).qs q
    match y.ents with
    | [] => s
    | e :: _ =>
      if y.tested = some e then s
      else if neverFits s p (entLen s p e) (qClass s p q) then
        headTest p q fuel (match e with
          | .msg key _ => match s.msg key with
            | some m => endMsg s m stSchGateNever
            | none => dropEnt s p q e
          | .resp r => failResps s r stSchGateNever)
      else s.setPort p { s.port p with qs := tblSet PQueue.reset (s.port p).qs q { y with tested := some e } }

/-- The test on every queue of a port. -/
def headTests (s : State) (p : Nat) : State := (s.port p).qs.foldl (fun s (q, y) => headTest p q (y.ents.length + 1) s) s

/-- Heads that have not been tested on any port. -/
def testHeads (s : State) : State := s.ports.foldl (fun s e => headTests s e.1) s

/-- After a bank switch every head is tested again (R312). -/
def retest (s : State) (p : Nat) : State :=
  let x := s.port p
  s.setPort p { x with qs := x.qs.map fun (q, y) => (q, { y with tested := none }) }

/-- A bank switch whose time has come takes effect (R311). -/
def bankSwitch (s : State) (p : Nat) : State :=
  let x := s.port p
  if x.switch_ ∧ x.swAt ≤ s.time then retest (s.setPort p { x with bank := 1 - x.bank, switch_ := false, swAt := 0 }) p else s

/-- Fail the messages that hold packets in a queue of a die, and discard the other packets (R316). A READRESP among them leaves its READREQ
unanswered; those not yet in the queue ask for one when they are released. -/
def failQueue (s : State) (d q : Nat) (st : Status) : State :=
  (List.range 4).foldl (fun s k =>
    let p := 4 * d + k
    let s := (tblGet PQueue.reset (s.port p).qs q).ents.foldl (fun s e => match e with
      | .msg key _ => match s.msg key with
        | some m => endMsg s m st
        | none => s
      | .resp _ => s) s
    setEnts s p q []) s

/-! ## The choice of a frame (R302, R303, R307) -/

/-- The queues of a Peck and class that hold packets, in start-tag order; ties to the lower number. -/
def classQueues (s : State) (p k c : Nat) : List Nat :=
  let l := (s.port p).qs.filter fun e => !e.2.ents.isEmpty && qPeck s p e.1 == k && qClass s p e.1 == c
  (l.mergeSort fun a b => decide (a.2.tag < b.2.tag) || (a.2.tag == b.2.tag && decide (a.1 ≤ b.1))).map (·.1)

/-- The head of a queue fits. -/
def headFits (s : State) (p c q : Nat) : Bool :=
  match (tblGet PQueue.reset (s.port p).qs q).ents with
  | [] => false
  | e :: _ => fits s p (entLen s p e) c

/-- offer(k): the queue whose head a Peck offers, if any, and the queues passed over because theirs do not fit (R307). -/
def offerWalk (s : State) (p k : Nat) : List Nat → List Nat → Option Nat × List Nat
  | [], past => (none, past)
  | c :: cs, past =>
    if gateOpen s p c then
      let qs := classQueues s p k c
      match qs.find? (headFits s p c) with
      | some q => (some q, past ++ qs.takeWhile fun r => !headFits s p c r)
      | none => offerWalk s p k cs (past ++ qs)
    else offerWalk s p k cs past

def offer (s : State) (p k : Nat) : Option Nat × List Nat := offerWalk s p k [7, 6, 5, 4, 3, 2, 1, 0] []

/-- Count the heads that are passed over for not fitting, once per frame and gate window (SCH_GUARDHOLD). -/
def guardHold (s : State) (p : Nat) (qs : List Nat) : State :=
  qs.foldl (fun s q =>
    let x := s.port p
    let y := tblGet PQueue.reset x.qs q
    match y.ents.head? with
    | none => s
    | some e =>
      let mark := some (e, (gateClose s p (qClass s p q)).getD 0)
      if y.gmark = mark then s
      else (s.setPort p { x with qs := tblSet PQueue.reset x.qs q { y with gmark := mark } }).bump (rSchCtr p 2) 1) s

/-- Tokens of a Peck's shapers now. -/
def peckC (s : State) (p k : Nat) : Tok :=
  let r := s.reg (rPshpC p k)
  tokNow s p (tokAt (s.port p).cTok k (bitsOf r 20 16)) (bitsOf r 0 20) (bitsOf r 20 16)
def peckP (s : State) (p k : Nat) : Tok :=
  let r := s.reg (rPshpP p k)
  tokNow s p (tokAt (s.port p).pTok k (bitsOf r 20 16)) (bitsOf r 0 20) (bitsOf r 20 16)

/-- The Pecks whose shapers conform in a round (R307). -/
def roundPecks (s : State) (p : Nat) (committed : Bool) : List Nat :=
  (List.range 256).filter fun k =>
    k ≠ 0 && ((s.port p).qs.any fun e => !e.2.ents.isEmpty && qPeck s p e.1 == k) && decide (0 < (peckP s p k).n) &&
    (!committed || (bitsOf (s.reg (rPshpC p k)) 0 20 != 0 && decide (0 < (peckC s p k).n)))

/-- The candidates of a round: those of them that have an offerable frame (R307). -/
def candidates (s : State) (p : Nat) (committed : Bool) : List Nat := (roundPecks s p committed).filter fun k => (offer s p k).1.isSome

/-- A sharing at a decision: members that left are gone, an empty sharing's virtual time is its largest finish tag, and members that
wake start at the virtual time (R302, R303). -/
def shareSync (x : Share) (cand : List Nat) : Share :=
  let stay := x.mem.filter cand.contains
  let x := if stay.isEmpty then { x with v := max x.v x.maxF } else x
  let new := cand.filter fun k => !stay.contains k
  { x with tags := new.foldl (fun t k => tblSet 0 t k x.v) x.tags, mem := cand }

/-- A member of a sharing sends a charge (R303). -/
def shareSend (x : Share) (k charge w : Nat) : Share :=
  let s := tblGet 0 x.tags k
  let f := s + (charge * 65536 + max 1 w - 1) / max 1 w
  { x with v := s, maxF := max x.maxF f, tags := tblSet 0 x.tags k f }

/-- The member with the least start tag. -/
def shareFirst (x : Share) : Option Nat := leastBy (tblGet 0 x.tags) x.mem

/-! ## Transmission -/

/-- Account a frame on a port: counters, and when the port falls free. -/
def portSent (s : State) (p len : Nat) : State :=
  let x := s.port p
  ((s.setPort p { x with busy := s.mono * 100 + (len + 20) * 2 ^ x.mode }).bump (rSchCtr p 0) 1).bump (rSchCtr p 1) (len + 20)

/-- The DSCP of a port's control-class frames (R301). -/
def ctlDscp (s : State) (port : Nat) : BitVec 6 := BitVec.ofNat 6 (bitsOf (s.reg (rCtlShp port)) 37 6)

/-- The DSCP of the frames of a queue (R301). -/
def queueDscp (s : State) (port q : Nat) : BitVec 6 := BitVec.ofNat 6 (bitsOf (s.reg (rSchQ (port / 4) q)) 32 6)

/-- A packet as it leaves a port under an SA, with its invocation counter: ENC, SID, SENDTS and NONCE are filled in (R264, R266). -/
def stamped (s : State) (sa n : Nat) (p : Pkt) : Pkt :=
  { p with nonce := BitVec.ofNat 64 n, sid := BitVec.ofNat 32 (saSid s sa), sendts := BitVec.ofNat 32 s.time,
           flags := if saEnc s sa then p.flags ||| 2 else p.flags &&& 0xFD }

/-- The frame that carries a stamped packet: addresses, ports and UDP checksum, then the packet's bytes (R253). -/
def wymFrame (s : State) (port : Nat) (dscp : BitVec 6) (key : List Byte) (p : Pkt) : Out :=
  let (body, tag) := sealPkt key p
  let data := hdrBytes p ++ extBytes p ++ body ++ tag
  let (sp, dp) := wirePorts s p
  .frame port "WYM" (portVlan s port) dscp
    [p.src.toNat, p.dst.toNat, sp.toNat, dp.toNat, udpChecksum p.src p.dst sp dp data] data

/-- Send a packet: an invocation of its SA's key slot gives the nonce (R264). The status says whether it left. -/
def sendPkt (s : State) (port : Nat) (dscp : BitVec 6) (p : Pkt) : Status × State :=
  match saBySpi s p.spi.toNat with
  | none => (stFenced, s)
  | some sa =>
    let key := (s.key (saSlot s sa)).key
    let (st, n, s) := keyReserve s (saSlot s sa) 1 [1, 2] useWym
    if st ≠ stOk then (st, s)
    else (stOk, ((portSent s port (frameLen s port p)).bump (rWymCtr (port / 4) 0) 1).emit (wymFrame s port dscp key (stamped s sa n p)))

/-- The payload of packet k of a message, with the words of device memory that affect it. -/
def msgPayload (s : State) (m : Msg) (k : Nat) : State × List Byte × List (Nat × Status) :=
  let off := k * m.psize
  let n := pktLen m k
  match m.src with
  | .mem a => exportRange s (a + off) n
  | .bytes l => (s, (l.drop off).take n, [])
  | .send imm a =>
    if k = 0 then
      let (s, bs, bad) := exportRange s a (n - 8)
      (s, bytesOf 8 imm.toNat ++ bs, bad)
    else exportRange s (a + off - 8) n
  | .sendBytes imm l => (s, ((bytesOf 8 imm.toNat ++ l).drop off).take n, [])
  | .atomic _ a b => (s, bytesOf 8 a.toNat ++ bytesOf 8 b.toNat, [])
  | .none => (s, bytesOf 16 ((2 ^ npktOf m.len m.psize - 1) ^^^ m.acked), [])

/-- Position in its copy of a word of a packet that memory affects: word number in the range from which the packet was read. -/
def faultPos (m : Msg) (k w : Nat) : Nat :=
  match m.src with
  | .mem a => m.off + (8 * w + k * m.psize - (a + k * m.psize) % 8)
  | _ => m.off

/-- A word of a packet of a copy's message fails the copy (R47, R177). -/
def msgFail (s : State) (m : Msg) (k w : Nat) (st : Status) : State :=
  match m.user with
  | .copy e q id => s.updCopy e q id fun c => match m.src with
    | .mem a => copyFailWord c st (faultPos m k w) ((a + k * m.psize) / 8 * 8 + 8 * w)
    | _ => copyFail c st (faultPos m k w)
  | _ => s

/-- A HANDLE word left as zeros fails the copy or send that carried it with ST_TAG_FAULT (R49). -/
def noteTagFault (s : State) (m : Msg) (k : Nat) (bad : List (Nat × Status)) : State :=
  match bad.find? fun b => b.2 == stTag with
  | none => s
  | some b => match m.user with
    | .copy _ _ _ => msgFail s m k b.1 stTag
    | .item id => s.updItem id fun i => { i with st := if i.st = stOk then stTag else i.st }
    | _ => s

/-- Packet types of messages. -/
def msgType : MsgKind → Nat
  | .write => tWrite | .send => tSend | .read => tReadReq | .atomic => tAtomic

/-- Packet k of a message numbered n on a path (R266, R268). -/
def msgPkt (s : State) (m : Msg) (n k path : Nat) (retx : Bool) (bs : List Byte) : Pkt :=
  { src := instAddr (fabricBase s) m.inst, dst := m.dst, dscp := 0, vlan := none, sport := 0, dport := 0, frame := true, ver := 0x10, typ := BitVec.ofNat 8 (msgType m.kind),
    flags := BitVec.ofNat 8 (m.sealed.toNat + m.coll.isSome.toNat * 4 + retx.toNat * 8), path := BitVec.ofNat 8 path,
    spi := BitVec.ofNat 32 (saSpi s m.sa), sid := 0, sendts := 0, msgid := BitVec.ofNat 64 n, nonce := 0,
    rkey := BitVec.ofNat 32 (m.rkey.toNat % 2 ^ 24), rgen := BitVec.ofNat 16 (m.rkey.toNat / 2 ^ 24), ordgrp := m.ordgrp,
    roff := if m.kind = .send then 0 else m.roff, msglen := BitVec.ofNat 32 m.len, pidx := BitVec.ofNat 16 (if m.kind = .read then 0 else k),
    plen := BitVec.ofNat 16 bs.length,
    spec := match m.src with
      | .atomic op _ _ => BitVec.ofNat 64 op
      | _ => BitVec.ofNat 64 (Nat.log2 m.psize),
    ext := m.coll.map fun c => (c.1, 0, c.2), payload := bs, tag := [] }

/-- Transmit packet k of a message that was chosen on a port: the payload is read now (R299), and the instance numbers a message with its first
(R270). Nothing leaves after H − LIFE (R283), when
the payload holds a POISON word (R435) or when the key slot refuses (R265). The Bool says whether a frame left. -/
def sendMsgPkt (s : State) (port q : Nat) (m : Msg) (k : Nat) : State × Bool :=
  let s := dropEnt s port q (.msg m.key k)
  match m.pkts.find? fun e => e.1 == k with
  | none => (s, false)
  | some (_, pk) =>
    if (match m.t0 with
        | none => false
        | some t => decide (t + (wymH s - wymLife s) < s.time)) then
      (updPkt s m.key k fun pk => { pk with phase := .ready }, false)
    else
      let (s, bs, bad) := msgPayload s m k
      match bad.find? fun b => b.2 == stPoison with
      | some b =>
        (endMsg (msgFail s m k b.1 stPoison) m stPoison, false)
      | none =>
        let s := noteTagFault s m k bad
        let n := m.msgid.getD (s.inst m.inst).nextMsg
        let (st, s) := sendPkt s port (queueDscp s port q) (msgPkt s m n k pk.path pk.tried bs)
        if st ≠ stOk then (endMsg s m st, false)
        else
          let y := s.path m.inst m.dst pk.path
          let s := setPath s m.inst m.dst pk.path { y with seq := y.seq + 1 }
          let s := updPkt s m.key k fun pk => { pk with phase := .flight y.seq, sent := s.time, tried := true, later := 0 }
          let s := if pk.tried then s.bump (rWymCtr m.inst 2) 1 else s
          let s := if m.msgid.isSome then s else s.setInst m.inst { s.inst m.inst with nextMsg := n + 1 }
          let s := s.updMsg m.key fun m => { m with
            msgid := some n, t0 := m.t0.or (some s.time), paths := if m.paths.contains pk.path then m.paths else m.paths ++ [pk.path] }
          let s := match m.user with
            | .item id => s.updItem id fun i => { i with phase := .committed }
            | _ => s
          (s, true)

/-- Transmit a READRESP that was chosen on a port: bytes of device memory are read now, and a POISON word among them refuses its READREQ (R277,
R299). -/
def sendResp (s : State) (port q : Nat) (r : Resp) : State × Bool :=
  let s := dropEnt s port q (.resp r)
  let (s, bs, bad) := match r.addr with
    | some a => exportRange s a (respLen r)
    | none => (s, r.got, [])
  if bad.any fun w => w.2 == stPoison then (nak s port r.req false stPoison, false)
  else
    let (st, s) := sendPkt s port (queueDscp s port q) (respPkt r bs)
    (s, st == stOk)

/-- Send the head that Peck k offers from queue q, in a round (R303, R305, R307). -/
def sendOffer (s : State) (p k q : Nat) (committed : Bool) : State :=
  let x := s.port p
  let c := qClass s p q
  match (tblGet PQueue.reset x.qs q).ents with
  | [] => s
  | e :: _ =>
    let len := entLen s p e
    let charge := len + 20
    let tagS := (tblGet PQueue.reset x.qs q).tag
    let (s, sent) := match e with
      | .msg key n => match s.msg key with
        | some m => sendMsgPkt s p q m n
        | none => (dropEnt s p q e, false)
      | .resp r => sendResp s p q r
    if !sent then s
    else
      let w := bitsOf (s.reg (rSchQ (p / 4) q)) 16 16
      let f := tagS + (charge * 65536 + max 1 w - 1) / max 1 w
      let cl := 8 * k + c
      let y := s.port p
      let sh := tblGet Share.reset y.classes cl
      let sh := { sh with v := tagS, maxF := max sh.maxF f }
      let sh := if (classQueues s p k c).isEmpty then { sh with v := sh.maxF } else sh
      let qv := tblGet PQueue.reset y.qs q
      let y := { y with classes := tblSet Share.reset y.classes cl sh,
                        qs := tblSet PQueue.reset y.qs q { qv with tag := f } }
      let pw := bitsOf (s.reg (rPshpC p k)) 48 16
      let y := if committed then { y with commit := shareSend y.commit k charge pw } else { y with excess := shareSend y.excess k charge pw }
      let pt := peckP s p k
      let ct := peckC s p k
      let y := { y with pTok := tokSet y.pTok k { pt with n := pt.n - tokOf charge } }
      let y := if committed then { y with cTok := tokSet y.cTok k { ct with n := ct.n - tokOf charge } } else y
      (s.setPort p y).updPeck k fun z =>
        { z with meter := { z.meter with tx := tblSet 0 z.meter.tx c (tblGet 0 z.meter.tx c + charge) } }

/-- The control shaper now (R305). -/
def ctlTok (s : State) (p : Nat) : Tok :=
  let r := s.reg (rCtlShp p)
  tokNow s p (s.port p).ctlTok (bitsOf r 0 20) (bitsOf r 20 16)

/-- Send the next frame of the control class, if it may (R297, R307): Wymoug answers first, then firmware's frames (DESIGN CHOICE: the
manual gives no order within the class). -/
def sendCtl (s : State) (p : Nat) : Option State :=
  let x := s.port p
  let t := ctlTok s p
  if t.n ≤ 0 then none
  else match (if x.nhop.isSome then x.ctl else []), x.fw with
    | (a, at_) :: rest, _ =>
      let len := frameLen s p a
      if fits s p len 8 then
        let a := if a.typ.toNat = tAck then { a with pidx := BitVec.ofNat 16 (min 65535 (s.mono - at_)) } else a
        let (st, s) := sendPkt (s.setPort p { x with ctl := rest, cmark := 0 }) p (ctlDscp s p) a
        some (if st ≠ stOk then s else s.setPort p { s.port p with ctlTok := { t with n := t.n - tokOf (len + 20) } })
      else none
    | [], (what, fs, n) :: rest =>
      let len := n + vlanLen (portVlan s p)
      if fits s p len 8 then
        let s := (portSent (s.setPort p { x with fw := rest, cmark := 0 }) p len).emit (.frame p what (portVlan s p) (ctlDscp s p) fs [])
        -- a delay request's departure is its timestamp (R563)
        let s := if what = "PTP_DELAY_REQ" then { s with clk := { s.clk with req := some (fs.headD 0, s.time) } } else s
        some (s.setPort p { s.port p with ctlTok := { t with n := t.n - tokOf (len + 20) } })
      else none
    | [], [] => none

/-- The members of both rounds at a choice (R302, R307). -/
def syncRounds (s : State) (p : Nat) : State :=
  let x := s.port p
  s.setPort p { x with commit := shareSync x.commit (candidates s p true), excess := shareSync x.excess (candidates s p false) }

/-- One round of the Peck level (R307): the state, and whether a Peck could offer. Heads that are passed over are counted. -/
def sendRound (s : State) (p : Nat) (committed : Bool) : State × Bool :=
  let x := s.port p
  if x.nhop.isNone then (s, false)
  else
    let s := (roundPecks s p committed).foldl (fun s k => guardHold s p (offer s p k).2) s
    match shareFirst (if committed then x.commit else x.excess) with
    | none => (s, false)
    | some k => match (offer s p k).1 with
      | none => (s, false)
      | some q => (sendOffer s p k q committed, true)

/-- The head of the control class is passed over when it does not fit, and is counted (R318). -/
def guardCtl (s : State) (p : Nat) : State :=
  let x := s.port p
  let head := (if x.nhop.isSome then x.ctl.head?.map fun a => frameLen s p a.1 else none).or (x.fw.head?.map fun f => f.2.2 + vlanLen (portVlan s p))
  let w := (gateClose s p 8).getD 0 + 1
  match head with
  | none => s
  | some len =>
    if (ctlTok s p).n ≤ 0 ∨ !gateOpen s p 8 ∨ fits s p len 8 ∨ x.cmark = w then s
    else (s.setPort p { x with cmark := w }).bump (rSchCtr p 2) 1

/-- SCH_TRANSMIT: a free port chooses and starts its next frame: control class, committed round, excess round (R307). No effect on a
port that is busy, not up, or has nothing that may leave. -/
def schTransmit (s : State) (p : Nat) : State :=
  if !portUp s p ∨ s.mono * 100 < (s.port p).busy then s
  else
    let s := syncRounds (bankSwitch s p) p
    match sendCtl s p with
    | some s => s
    | none =>
      let (s, sent) := sendRound (guardCtl s p) p true
      if sent then s else (sendRound s p false).1

/-! ## Register writes (R306, R311, R316, R319 to R321) -/

/-- SCH_Q_WRITE: configures or disables a queue (R316, R319, R326). -/
def schQ (s : State) (d q : Nat) (part : RegPart) (v : Word) : State :=
  let old := s.reg (rSchQ d q)
  let w := mergePart part old v
  let new := (putFields 0 w [.all 0 1, .all 1 3, .all 8 8, .all 16 16, .all 32 6]).1
  let en := bitsOf new 0 1 == 1
  if !((bitsOf new 8 8 == 0) || (s.peck (bitsOf new 8 8)).state != .free) then s.errWr
  else if en ∧ (bitsOf new 8 8 = 0 ∨ bitsOf new 16 16 = 0) then s.errWr
  else if bitsOf old 0 1 = 1 ∧ (bitsOf new 8 8 ≠ bitsOf old 8 8 ∨ bitsOf new 1 3 ≠ bitsOf old 1 3) then s.errWr
  else
    let s := if bitsOf old 0 1 = 1 ∧ !en then failQueue s d q stSchNoQueue else s
    s.setReg (rSchQ d q) new

/-- The offset of a token-bucket register. -/
def shOff (r : ShReg) (p k : Nat) : Nat :=
  match r with
  | .ctl => rCtlShp p | .peckC => rPshpC p k | .peckP => rPshpP p k | .polC => rPolC p k | .polP => rPolP p k

/-- Its fields (R321). -/
def shFields (r : ShReg) : List RegField :=
  [⟨0, 20, 0, 800000⟩, .all 20 16, .all 36 1] ++ (match r with
    | .ctl => [.all 37 6] | .polC => [.all 37 1, .all 38 1, .all 39 1] | .peckC => [⟨48, 16, 1, 65535⟩] | _ => [])

/-- SCH_SHAPER_WRITE: rates, burst and, by INIT, the token count (R306, R313, R321). -/
def execSchShaperWrite (r : ShReg) (port : Fin 16) (k : Fin 256) (part : RegPart) (v : Word) (s : State) : Host.Outcome State Fault Refusal :=
  let p := port.val
  let off := shOff r p k.val
  let old := s.reg off
  let w := mergePart part old v
  let burst := bitsOf w 20 16
  whenReady s (
    if r ≠ .ctl ∧ k.val = 0 then s
    else if burst < 0x24 then s.errWr
    else if (r = .peckP ∧ bitsOf w 0 20 < bitsOf (s.reg (rPshpC p k.val)) 0 20) ∨ (r = .polP ∧ bitsOf w 0 20 < bitsOf (s.reg (rPolC p k.val)) 0 20) then s.errWr
    else
      let (new, bad) := putFields old w (shFields r)
      let s := (if bad then s.errWr else s).setReg off new
      let x := s.port p
      let t : Tok := ⟨if bitsOf new 36 1 = 1 then 0 else tokOf (burst * 256), s.mono⟩
      let full : Tok := ⟨tokOf (burst * 256), s.mono⟩
      match r with
      | .ctl => s.setPort p { x with ctlTok := t }
      | .peckC => s.setPort p { x with cTok := tokSet x.cTok k.val t }
      | .peckP => s.setPort p { x with pTok := tokSet x.pTok k.val t }
      | .polP => s.setPort p { x with polP := tokSet x.polP k.val t }
      | .polC =>
        if bitsOf old 39 1 = 0 ∧ bitsOf new 39 1 = 1 then
          s.setPort p { x with polC := tokSet x.polC k.val full, polP := tokSet x.polP k.val ⟨tokOf (bitsOf (s.reg (rPolP p k.val)) 20 16 * 256), s.mono⟩ }
        else s.setPort p { x with polC := tokSet x.polC k.val t })

/-- SCH_GATECTL_SWITCH: a write to SCH_GATECTL; SWITCH asks for the other bank at SWITCHAT, or at the next entry boundary when that has
passed, and is refused when that bank breaks R308 (R311). -/
def execSchGatectlSwitch (port : Fin 16) (part : RegPart) (v : Word) (s : State) : Host.Outcome State Fault Refusal :=
  let p := port.val
  let w := mergePart part (s.reg (rGateCtl p)) v
  whenReady s (
    let s := (bankSwitch s p).setReg (rGateCtl p) (BitVec.ofNat 64 (bitsOf w 0 1))
    if bitsOf (mergePart part 0 v) 2 1 = 0 then s
    else
      let x := s.port p
      let other := chainOf s p (1 - x.bank)
      if !chainOk other then (s.setPort p { x with switch_ := false, swAt := 0 }).errWr
      else
        let at_ := (s.reg (rSwitchAt p)).toNat
        let es := chainOf s p x.bank
        let t := if s.time < at_ then at_ else if chainOk es then s.time + (entryAt es (phaseAt s p x.bank s.time es)).2 else s.time
        s.setPort p { x with switch_ := true, swAt := t })

/-- SCH_CHAIN_WRITE: a write to BASE, NENT or an entry of a bank; refused for the bank in force while gates are on (R311, R320). -/
def execSchChainWrite (port : Fin 16) (bank : Fin 2) (r : ChainReg) (part : RegPart) (v : Word) (s : State) : Host.Outcome State Fault Refusal :=
  let p := port.val
  whenReady s (
    if gatesOn s p ∧ bankAt s p s.time = bank.val then s.errWr
    else match r with
      | .base => s.writeFields (rSchBase p bank.val) part v [.all 0 64]
      | .nent => s.writeFields (rSchNent p bank.val) part v [⟨0, 11, 1, 1024⟩]
      | .entry e =>
        let off := rChain p bank.val e.val
        let w := mergePart part (s.reg off) v
        if bitsOf w 0 30 % 2 = 1 then (s.errWr).writeFields off part v [.all 32 9]
        else s.writeFields off part v [⟨0, 30, 32, 1000000000⟩, .all 32 9])

end Sys2Proof.Machine
end

