-- ==== Sys2Proof/Machine/Outcomes.lean ====
section
/-!
DEFINITION. Data and outcomes of reads, messages and volume requests on their way to the services that wait for them.
-/

namespace Sys2Proof.Machine

/-- Whether the rows of a service take its data themselves: those of a feed. -/
def ownData : User → Bool
  | .feed _ _ => true | _ => false

/-- A read that a service made has ended. -/
def svcEnd (s : State) (u : User) (parts : List (Nat × List Byte)) (st : Status) : State :=
  let bs := parts.flatMap (·.2)
  match u with
  | .coll c k => collFetched s c k bs st
  | .gen q k => genFetched s q k bs st
  | .kv n _ => kvFetched s n parts st
  | .ckpt p n => ckptFetched s p n bs st
  | _ => s

/-- Hand data to its service. -/
def handData (s : State) (u : User) (off : Nat) (bs : List Byte) : State :=
  match u with
  | .copy e q id => copyDeliver s e q id off bs
  | .item id => itemDeliver s id off bs
  | .nvme p q cid => nvDeliver s p q cid off bs
  | .resp n => respDeliver s n off bs
  | .svc n => fetchDeliver s n off bs
  | .ckpt p n => ckptData s p n off bs
  | _ => s

/-- The answer of a mirror device (R416): an 8-byte SEND whose IMM holds the request number and, in [15:0], the status. It goes through
the volume's MIRDIR (DEDUCED). -/
def mirrorReply (s : State) (v num : Nat) (st : Status) : State :=
  let p := volPeck s v
  let ref := resolve s (s.dirWord p (volMirDir s v))
  if ref.check [.remote] [rightWr] ≠ stOk ∨ remIsEp ref.loc = false ∨ anyUp s = false then s
  else dealMsg s (1000 + v) ref.loc.raddr
    (newMsg .send p ref.loc 0 0 8 (wymPsize s) none false none .none 0 (.sendBytes (BitVec.ofNat 64 (num * 65536 + st.toNat)) []))

/-- Hand an outcome to its service. -/
def handOutcome (s : State) (u : User) (off : Nat) (st : Status) : State :=
  match u with
  | .copy e q id => copyOutcome s e q id off st
  | .item id => itemOutcome s id st
  | .nvme p q cid => nvOutcome s p q cid st
  | .feed p f => feedOutcome s p f st
  | .mirror v n => if st = stOk then s else mirrorEnd s v n st
  | .reply v n => mirrorReply s v n st
  | .resp n => if st = stOk then s else respFail s n st
  | .coll c _ => collOutcome s c st
  | .kv n _ => kvOutcome s n st
  | .ckpt p n => ckptOutcome s p n st
  | .svc n => match fetchOutcome s n st with
    | (s, some (u, parts, st)) => svcEnd s u parts st
    | (s, none) => s
  | _ => s

/-- Hand over what waits, data before outcomes. -/
def settleLoop : Nat → State → State
  | 0, s => s
  | fuel + 1, s =>
    match s.arrivals.find? fun a => !ownData a.1 with
    | some a => settleLoop fuel (handData { s with arrivals := s.arrivals.erase a } a.1 a.2.1 a.2.2)
    | none => match s.outcomes.head? with
      | some o => settleLoop fuel (handOutcome { s with outcomes := s.outcomes.erase o } o.1 o.2.1 o.2.2)
      | none => s

/-- Everything that waits reaches its service. Each outcome makes at most a few further ones in each service, which bounds the work. -/
def settleOut (s : State) : State :=
  settleLoop (16 * (s.arrivals.length + s.outcomes.length + s.items.length + s.vreqs.length + s.fetches.length + s.colls.length) + 1024) s

/-- The end of a row: what waits reaches its service, queue heads that are new are tested (R312), and what that ends reaches its service. -/
def settleAll (s : State) : State := settleOut (testHeads (settleOut s))

end Sys2Proof.Machine
end

