-- ==== Sys2Proof/Machine/KeyRows.lean ====
section
/-!
DEFINITION. Key slots and cipher command queues: loading and erasing keys, the key information record, tamper alarms, the limit register,
and the commands of the queues (R448 to R466).
-/

namespace Sys2Proof.Machine

/-! ## Slots -/

/-- Length of a key of a kind; 0 for a reserved kind (R448). -/
def keyLen (kind : Nat) : Nat := if kind = 1 then 16 else if kind = 2 then 32 else if kind = 3 then 64 else 0

/-- KIND and USE of a loading request are defined, and USE is not empty (R448, R457). -/
def kindUseOk (kind use : Nat) : Bool := within 1 3 kind && within 1 63 use

/-- Checks 1 to 3 of R457. -/
def loadStatus (s : State) (p n : Nat) : Status :=
  if slotHeld s p n = false then stRights
  else if s.alarmLive ≠ 0 then stKeyErased
  else if (s.key n).state = .loaded then stDuplicate
  else stOk

/-- A field of a record is zero. -/
def recZero (bs : List Byte) (at_ n : Nat) : Bool := recNum bs at_ n == 0

/-- Check 4 of R457 on an import record (R455): version, reserved fields, KIND, USE and WLEN. -/
def importFieldsOk (bs : List Byte) : Bool :=
  recNum bs 1 1 == 1 && kindUseOk (recNum bs 2 1) (recNum bs 3 1) && recNum bs 112 2 == keyLen (recNum bs 2 1) + 8 &&
  reservedOk (recNum bs 0 1) (recZero bs 4 4 && recZero bs 114 14 && recZero bs (128 + recNum bs 112 2) (128 - recNum bs 112 2))

/-- The key of an import record under a device identity and a Peck number, or none where check 5 of R457 fails (R456). -/
def importKeyOf (bs : List Byte) (devid : BitVec 48) (peck : Nat) : Option (List Byte) :=
  let kind := recNum bs 2 1
  let ex := recNum bs 16 48
  let ey := recNum bs 64 48
  if onP384 ex ey = false then none
  else
    let z := ecX (ecTimes (scalar Config.importKey) (some (ex, ey)))
    let kek := kekOf z (otherInfo devid peck kind (recNum bs 3 1) (recNum bs 8 8))
    match kwpUnwrap kek (toNats ((bs.drop 128).take (recNum bs 112 2))) with
    | none => none
    | some k =>
      if k.length ≠ keyLen kind ∨ (kind = 3 ∧ k.take 32 = k.drop 32) then none else some (ofNats k)

/-- Load a slot (R457). LIMIT is kept. -/
def loadSlot (s : State) (n origin kind use count : Nat) (key : List Byte) : State :=
  s.setKey n { s.key n with state := .loaded, origin := origin, kind := kind, use := BitVec.ofNat 8 use, count := count, key := key }

/-- KEY_IMPORT: the record wrapped to IMPORT loads a slot (R455 to R457). The bytes of a source outside device memory, or the status with
which reading them fails, are inputs of the command. -/
def execKeyImport (id : Nat) (data : List Byte) (st : BitVec 16) (s : State) : Host.Outcome State Fault Refusal :=
  .next (s.request id 0x0700 fun i =>
    let n := bitsOf (i.w 0) 0 12
    let r := i.ref 0
    let bad := r.check [.local_, .host, .accel, .remote, .volume] [if r.loc.kind = .local_ then rightRd else rightCpin]
    if bad ≠ stOk then s.done i bad
    else if r.loc.holds (i.w 2) 256 8 = false then s.done i stRights
    else if loadStatus s i.fn n ≠ stOk then s.done i (loadStatus s i.fn n)
    else
      let inside := r.loc.kind == .local_
      let (s, bs, faults) := if inside then exportRange s (r.loc.base.toNat + (i.w 2).toNat) 256 else (s, data, [])
      let rst := if inside then (match faults with
        | (_, f) :: _ => f
        | [] => stOk) else st
      if rst ≠ stOk then s.done i rst
      else if bs.length ≠ 256 then s
      else if importFieldsOk bs = false then s.done i stUndef
      else match importKeyOf bs Config.devId i.fn with
        | none => s.done i stRights
        | some k => (loadSlot s n 1 (recNum bs 2 1) (recNum bs 3 1) (recNum bs 8 8) k).done i stOk)

/-- KEY_GENERATE: the guard die draws a key (R457). -/
def execKeyGenerate (id : Nat) (s : State) : Host.Outcome State Fault Refusal :=
  .next (s.request id 0x0701 fun i =>
    let n := bitsOf (i.w 0) 0 12
    let kind := bitsOf (i.w 0) 16 8
    let use := bitsOf (i.w 0) 24 8
    if loadStatus s i.fn n ≠ stOk then s.done i (loadStatus s i.fn n)
    else if kindUseOk kind use = false then s.done i stUndef
    else
      let (s, k) := randomBytes s (keyLen kind)
      (loadSlot s n 2 kind use 0 k).done i stOk)

/-- Volume reads that hold reserved invocations of a slot not yet completed (R414, R458). -/
def slotBusy (s : State) (n : Nat) : Bool :=
  s.vreqs.any fun r => !r.waiting && r.open_ != 0 && r.kind == .read && volEnc s r.vol && !r.raw && volKey s r.vol == n

/-- An erased or released slot: its key zeroed, COUNT 0, STATE EMPTY (R448, R458). -/
def emptySlot (k : KeySlot) : KeySlot := { KeySlot.reset with peck := k.peck, limit := k.limit, warned := k.warned }

/-- KEY_ERASE: waits until every invocation reserved on the slot has completed, while new reservations fail; then the slot is emptied
(R458). The command acts again on an item that waits. -/
def execKeyErase (id : Nat) (s : State) : Host.Outcome State Fault Refusal :=
  .next (match s.item id with
  | none => s
  | some i =>
    let n := bitsOf (i.w 0) 0 12
    if i.typ ≠ 0x0702#16 then s
    else if i.phase = .dispatched ∧ slotHeld s i.fn n = false then s.done i stRights
    else if slotBusy s n then (s.setKey n { s.key n with erasing := true }).setPhase id .active
    else (s.setKey n (emptySlot (s.key n))).done i stOk)

/-! ## The key information record (R453) -/

/-- Bytes 0 to 255 of the key information record. -/
def keyInfoHead : List Byte :=
  bytesOf 2 0x0100 ++ bytesOf 2 (min Config.certLen 3744) ++ zeros 4 ++ bytesOf 8 Config.devId.toNat ++
  bytesOf 48 (ecX importPub) ++ bytesOf 48 (ecY importPub) ++ bytesOf 48 (ecX signPub) ++ bytesOf 48 (ecY signPub) ++ zeros 48

/-- The certificate chain, in 3,744 bytes. -/
def certBytes : List Byte := (List.range 3744).map fun k => if k < Config.certLen then Config.certByte k else 0

/-- Write bytes to the manager's host memory in requests of PF0 (R360). -/
def mgrWrite (s : State) (iova : Word) (bs : List Byte) : State :=
  (reqChunks iova.toNat (s.fn 0).mps (bs.length + 1) 0 bs.length).foldl (fun s (o, n) =>
    s.hostWrite 0 (iova + BitVec.ofNat 64 o) ((bs.drop o).take n) false) s

/-- KEY_INFO: the record is signed and written (R453). -/
def execKeyInfo (id : Nat) (s : State) : Host.Outcome State Fault Refusal :=
  .next (s.request id 0x0704 fun i =>
    let rec_ (s : State) : State × List Byte :=
      let (s, sig) := ecdsaSign s keyInfoHead
      (s, keyInfoHead ++ sig ++ certBytes)
    if i.fn = 0 then
      let (s, bs) := rec_ s
      (mgrWrite s (i.w 1) bs).done i stOk
    else
      let r := i.ref 0
      let bad := r.check [.host, .local_] [rightWr]
      if bad ≠ stOk then s.done i bad
      else if r.loc.holds (i.w 2) 4096 8 = false then s.done i stRights
      else
        let (s, bs) := rec_ s
        let (s, st) := svcWrite s i.fn r.loc (i.w 2).toNat bs Tag.nil
        s.done i st)

/-! ## Registers and alarms (R451, R459, R460) -/

/-- KEY_LIMIT_WRITE (R451): a write that raises LIMIT above COUNT lets KEY_EXHAUSTED be raised again. -/
def execKeyLimitWrite (n : Fin 4096) (part : RegPart) (v : Word) (s : State) : Host.Outcome State Fault Refusal :=
  let k := s.key n.val
  let new := (mergePart part (BitVec.ofNat 64 k.limit) v).toNat
  whenReady s (s.setKey n.val { k with limit := new, warned := k.warned && !(decide (k.count < new) && decide (k.limit < new)) })

/-- KEY_ALARM_CLEAR: latched bits written with 1 are cleared where their source is not live (R460, R466). -/
def execKeyAlarmClear (part : RegPart) (v : Word) (s : State) : Host.Outcome State Fault Refusal :=
  let w := mergePart part 0 v
  whenReady s (s.setReg rKeyAlarm (s.reg rKeyAlarm &&& ~~~(BitVec.ofNat 64 (bitsOf w 0 4) &&& ~~~(s.alarmLive.setWidth 64))))

/-- An alarm source fires (R459): every key is zeroed, LOADED slots become ERASED, the source is latched, invocations not
completed fail, KEY_TAMPER and an in-band interrupt are raised, and in D3cold WAKE# is asserted. -/
def tamper (s : State) (src : Nat) : State :=
  let lost := (s.keys.filter fun e => e.2.state == .loaded).map (·.1)
  let held := ((List.range 256).filter fun p => lost.any fun n => (s.key n).peck == p && p != 0)
  let hit (r : VReq) : Bool := !r.waiting && r.open_ != 0 && r.kind == .read && volEnc s r.vol && !r.raw
  let s := { s with vreqs := s.vreqs.map fun r => if hit r then { vreqFail r stKeyErased r.blk with lost := true } else r }
  let s := s.keys.foldl (fun s e => s.setKey e.1 { e.2 with state := if e.2.state = .loaded then .erased else e.2.state, key := [] }) s
  let s := { s with alarmLive := s.alarmLive ||| BitVec.ofNat 4 (2 ^ src) }
  let s := (s.setReg rKeyAlarm (s.reg rKeyAlarm ||| BitVec.ofNat 64 (2 ^ src))).bump rKeyErasures 1
  let a0 := BitVec.ofNat 64 (bitsOf (s.reg rKeyAlarm) 0 4)
  let a1 := BitVec.ofNat 64 lost.length
  let s := s.mgrEvent sevFatal evKeyTamper a0 a1
  let s := held.foldl (fun s p => s.peckEvent p sevWarn evKeyTamper a0 a1) s
  let s := s.ibi 0x03 (bitsOf (s.reg rKeyAlarm) 0 4)
  if s.d3cold then { s with pcie := { s.pcie with wake := true } }.emit (.signal "WAKE#" [1]) else s

/-- TAMPER_ALARM (R459). -/
def execTamperAlarm (src : Fin 4) (s : State) : Host.Outcome State Fault Refusal := .next (tamper s src.val)

/-- ALARM_SOURCE_CLEARED: a source's condition ends and its LIVE bit clears (R460, R466). -/
def execAlarmSourceCleared (src : Fin 4) (s : State) : Host.Outcome State Fault Refusal :=
  .next { s with alarmLive := s.alarmLive &&& ~~~(BitVec.ofNat 4 (2 ^ src.val)) }

/-! ## Cipher command queues (R461 to R463) -/

def State.cq (s : State) (k : Nat) : CipherQ := tblGet CipherQ.reset s.cqs k
def State.setCq (s : State) (k : Nat) (q : CipherQ) : State := { s with cqs := tblSet CipherQ.reset s.cqs k q }

/-- KEY_CQCFG: disables a queue, or enables it with PI and CI 0 (R461). -/
def execKeyCqcfg (id : Nat) (s : State) : Host.Outcome State Fault Refusal :=
  .next (s.request id 0x0703 fun i =>
    let k := 4 * i.fn + bitsOf (i.w 0) 0 2
    if bitsOf (i.w 0) 8 1 = 0 then (s.setCq k { s.cq k with en := false }).done i stOk
    else
      let r := i.ref 0
      let log2 := bitsOf (i.w 3) 0 8
      let bad := r.check [.local_] [rightRd, rightWr]
      if bad ≠ stOk then s.done i bad
      else if r.loc.holds (i.w 2) (64 + 64 * 2 ^ log2) 64 = false then s.done i stRights
      else
        let a := r.loc.base.toNat + (i.w 2).toNat
        let (s, code) := placeWords (s.setCq k { s.cq k with en := false }) a [TWord.int 0, TWord.int 0]
        if code ≠ [] then s.done i stTag else (s.setCq k ⟨true, a, log2, 0, 0, false⟩).done i stOk)

/-- A command's words (R462). -/
structure CipherCmd where
  op   : Nat
  slot : Nat
  src  : Nat
  dst  : Nat
  len  : Nat
  iv   : List Nat
deriving DecidableEq, Repr

/-- The field checks of a command (R462). -/
def cipherFieldsOk (ws : List TWord) : Bool :=
  let w0 := (wd ws 0).bits
  let len := bitsOf (wd ws 5).bits 0 32
  bitsOf w0 8 8 == 1 && decide (bitsOf w0 16 8 ≤ 4) &&
  decide ((wd ws 3).bits.toNat % 8 = 0) && decide ((wd ws 4).bits.toNat % 8 = 0) && decide (len % 16 = 0) && within 16 (2 ^ 24) len &&
  reservedOk (bitsOf w0 0 8) (bitsOf w0 24 8 == 0 && bitsOf w0 44 4 == 0 && bitsOf (wd ws 5).bits 32 32 == 0)

/-- The tag checks of a command (R462). -/
def cipherTagsOk (ws : List TWord) : Bool :=
  ([0, 3, 4, 5].all fun k => (wd ws k).tag == Tag.int64) && ([1, 2].all fun k => (wd ws k).tag == Tag.handle) &&
  ([6, 7].all fun k => tagIsData (wd ws k).tag)

/-- A handle of a command: current, LOCAL with a right, and the range within it (R117). -/
def cipherSide (s : State) (w off : Word) (len right : Nat) : Status × Nat :=
  match s.current w with
  | none => (stStale, 0)
  | some r =>
    if r.kind ≠ .local_ ∨ hasRight w right = false ∨ off.toNat + len > r.len.toNat then (stRights, 0)
    else (stOk, r.base.toNat + off.toNat)

/-- What a source word gives (R463). -/
def cipherWord (w : TWord) : Status :=
  if wordPoison w then stPoison else if w.tag = Tag.handle ∨ w.tag = Tag.code then stTag else stOk

/-- The checks of a command in the order of R102, with R117 for each handle and the slot's holder before R449 (R463); on success the
command. -/
def cipherCheck (s : State) (p : Nat) (ws : List TWord) : Except Status CipherCmd :=
  let len := bitsOf (wd ws 5).bits 0 32
  let slot := bitsOf (wd ws 0).bits 32 12
  if anyPoison ws then .error stPoison
  else if cipherFieldsOk ws = false then .error stUndef
  else if cipherTagsOk ws = false then .error stTag
  else
    let (st1, a) := cipherSide s (wd ws 1).bits (wd ws 3).bits len rightRd
    let (st2, b) := cipherSide s (wd ws 2).bits (wd ws 4).bits len rightWr
    let srcBad := firstBad ((memWords s.mem a (len / 8)).map cipherWord)
    if st1 ≠ stOk then .error st1
    else if st2 ≠ stOk then .error st2
    else if srcBad ≠ stOk then .error srcBad
    else if (memWords s.mem b (len / 8)).any fun w => w.tag == Tag.code then .error stTag
    else if slotHeld s p slot = false then .error stRights
    else .ok ⟨bitsOf (wd ws 0).bits 16 8, slot, a, b, len,
      toNats (bytesOf 8 (wd ws 6).bits.toNat ++ bytesOf 8 (wd ws 7).bits.toNat)⟩

/-- Output and chaining value of a command (R462, R463). -/
def cipherRun (op : Nat) (key : List Nat) (bs : List (List Nat)) (iv : List Nat) : List Nat × List Nat :=
  if op = 0 then cbcEnc key bs iv
  else if op = 1 then cbcDec key bs iv
  else if op = 4 then ctrMode key bs iv
  else cfb (op == 3) key bs iv

/-- USE bit of an OP (R448). -/
def cipherUse (op : Nat) : Nat := if op ≤ 1 then 3 else if op ≤ 3 then 4 else 5

/-- Words of a byte string, each with tag NIL. -/
def nilWords (l : List Nat) : List TWord := (List.range (l.length / 8)).map fun k => ⟨BitVec.ofNat 64 (leNat ((l.drop (8 * k)).take 8)), Tag.nil⟩

/-- Run the command at an address: its status and the state, with output and chaining value written on success. -/
def cipherAt (s : State) (p at_ : Nat) : State × Status :=
  let (s, ws) := readWords s at_ 64
  let w1 := (s.current (wd ws 1).bits).map fun r => r.base.toNat + (wd ws 3).bits.toNat
  -- the source is read, errors and all
  let s := match w1 with
    | some a => if cipherFieldsOk ws ∧ rangeExists a (bitsOf (wd ws 5).bits 0 32) then s.settle a (bitsOf (wd ws 5).bits 0 32) else s
    | none => s
  match cipherCheck s p ws with
  | .error st => (s, st)
  | .ok c =>
    let (st, _, s) := keyReserve s c.slot (c.len / 16) [1, 2] (cipherUse c.op)
    if st ≠ stOk then (s, st)
    else
      let (out, iv) := cipherRun c.op (toNats (s.key c.slot).key) (blocks16 (toNats (s.mem.bytes c.src c.len))) c.iv
      let (s, _) := placeWords s c.dst (nilWords out)
      let (s, _) := placeWords s (at_ + 48) (nilWords iv)
      (s, stOk)

/-- The next command of a queue, when it may run: its address (R461, R332). None runs while the device is fenced (R20). -/
def nextCipher (s : State) (p q : Nat) : Option Nat :=
  let c := s.cq (4 * p + q)
  if c.en && !c.stopped && c.pi != c.ci && !s.rcv.fenced && ((s.peck p).state == .active || (s.peck p).state == .quiescing) then
    some (c.base + 64 + 64 * (c.ci.toNat % 2 ^ c.log2))
  else none

/-- Complete the command at an address: word 0 with its STATUS, then CI (R463). Word 0 lost to an error takes open bits beside STATUS. -/
def endCipher (s : State) (p q at_ : Nat) (st : Status) : State :=
  let w := s.mem.word at_
  let (w0, s) := if wordPoison w then s.draw else (w.bits, s)
  let (s, _) := placeWord s at_ (TWord.int (putField w0 48 16 st.toNat))
  let c := s.cq (4 * p + q)
  let (s, _) := placeWord s (c.base + 8) (TWord.int (c.ci + 1))
  s.setCq (4 * p + q) { s.cq (4 * p + q) with ci := c.ci + 1 }

/-- The mode of the command at an address: none where word 0 gives none (R462). -/
def cipherMode (s : State) (at_ : Nat) : Option Nat :=
  let w := s.mem.word at_
  let op := bitsOf w.bits 16 8
  if w.tag = Tag.int64 ∧ op ≤ 4 then some op else none

/-- Run the next command of a queue if its mode is the one named. -/
def runCipher (mode : Option Nat) (p q : Nat) (s : State) : State :=
  match nextCipher s p q with
  | none => s
  | some a =>
    let s := s.settle a 8
    if cipherMode s a ≠ mode then s
    else
      let (s, st) := cipherAt s p a
      endCipher s p q a st

/-- CBC_ENCRYPT: the next command of a queue is CBC encrypt and runs (R463). -/
def execCbcEncrypt (p : Fin 256) (q : Fin 4) (s : State) : Host.Outcome State Fault Refusal := .next (runCipher (some 0) p.val q.val s)
/-- CBC_DECRYPT (R463). -/
def execCbcDecrypt (p : Fin 256) (q : Fin 4) (s : State) : Host.Outcome State Fault Refusal := .next (runCipher (some 1) p.val q.val s)
/-- CFB_ENCRYPT (R463). -/
def execCfbEncrypt (p : Fin 256) (q : Fin 4) (s : State) : Host.Outcome State Fault Refusal := .next (runCipher (some 2) p.val q.val s)
/-- CFB_DECRYPT (R463). -/
def execCfbDecrypt (p : Fin 256) (q : Fin 4) (s : State) : Host.Outcome State Fault Refusal := .next (runCipher (some 3) p.val q.val s)
/-- CTR (R463). -/
def execCtr (p : Fin 256) (q : Fin 4) (s : State) : Host.Outcome State Fault Refusal := .next (runCipher (some 4) p.val q.val s)
/-- CIPHER_COMMAND_REFUSED: the next command of a queue names no mode, and completes with its failure (R462, R463). -/
def execCipherCommandRefused (p : Fin 256) (q : Fin 4) (s : State) : Host.Outcome State Fault Refusal := .next (runCipher none p.val q.val s)

end Sys2Proof.Machine
end

