-- ==== Sys2Proof/Machine/CkptRows.lean ====
section
/-!
DEFINITION. Rows of checkpoint and restore (R467 to R495).
-/

namespace Sys2Proof.Machine

/-! ## Notices (R467) -/

/-- Waiting checkpoints with ONNOTICE of a Peck start. -/
def noticeStart (s : State) (p : Nat) : State :=
  { s with ckpts := s.ckpts.map fun c => if c.peck = p ∧ c.phase = 1 ∧ ckFlag c.rec_ 2 then { c with phase := 2 } else c }

/-- A pre-emption notice of a Peck with a deadline in ms, 0 for the default (R467): the earlier of two deadlines governs. -/
def giveNotice (s : State) (p ms : Nat) : State :=
  let ms := if ms = 0 then bitsOf (s.reg rCkptCfg) 0 20 else ms
  let t := s.time + ms * 1000000
  let t := match s.notices.find? fun n => n.1 == p with
    | some n => min n.2 t
    | none => t
  let s := { s with notices := (s.notices.filter fun n => n.1 ≠ p) ++ [(p, t)] }
  noticeStart (bothEvent s p sevWarn evCkptNotice (BitVec.ofNat 64 p) (BitVec.ofNat 64 t)) p

/-- CKPT_NOTICE (R467). A Peck that does not exist is refused (DESIGN CHOICE). -/
def execCkptNotice (id : Nat) (s : State) : Host.Outcome State Fault Refusal :=
  .next (s.request id 0x0804 fun i =>
    let p := bitsOf (i.w 0) 0 8
    if p = 0 ∨ (s.peck p).state = .free then s.done i stRights else (giveNotice s p (i.w 1).toNat).done i stOk)

/-- CKPT_DEADLINE_EXPIRY: a notice's deadline passes: it is consumed, and a checkpoint that is not STAGED fails (R467, R476). No effect
before. -/
def execCkptDeadlineExpiry (p : Fin 256) (s : State) : Host.Outcome State Fault Refusal :=
  .next (match s.notices.find? fun n => n.1 == p.val with
  | none => s
  | some n =>
    if s.time < n.2 then s
    else
      let s := { s with notices := s.notices.filter fun n => n.1 ≠ p.val }
      match s.ckpt p.val true with
      | some c => if c.phase ≤ 3 then settleAll (ckptFail s c stCkptUnsealed) else s
      | none => s)

/-! ## CKPT_BEGIN (R468 to R471) -/

/-- Order 1 of R470 on the record. -/
def ckFieldsOk (ws : List TWord) : Bool :=
  let w0 := (wd ws 0).bits
  let w1 := (wd ws 1).bits
  bitsOf w0 8 8 == 1 && within 1 256 (ckNsrc ws) && decide (ckSlotsz ws % 4096 = 0) && decide (4096 ≤ ckSlotsz ws) &&
  (!ckFlag ws 1 || ckFlag ws 0) && !(ckFlag ws 3 && ckFlag ws 2) &&
  reservedOk (bitsOf w0 0 8) (bitsOf w0 21 3 == 0 && bitsOf w0 24 8 == 0 && bitsOf w0 60 4 == 0 && bitsOf w1 12 3 == 0 && bitsOf w1 28 4 == 0 &&
    (List.range 8).all fun k => (wd ws (8 + k)).bits == 0)

/-- Order 1 of R470 on a source-list entry. -/
def csFieldsOk (e : List TWord) : Bool :=
  let wts := csKind e == 1
  decide (csOff e % 8 = 0) && decide (csLen e % 8 = 0) && within 8 (2 ^ 38) (csLen e) && decide (csKind e ≤ 3) &&
  (if wts then (fmtOfCode (csFmt e)).isSome else csFmt e == 0xF) && bitsOf (wd e 3).bits 48 16 == 0 &&
  (wts || ((wd e 4).bits == 0 && (wd e 5).bits == 0)) && (wd e 6).bits == 0 && (wd e 7).bits == 0

/-- Source-list entries of a list. -/
def srcEntries (ws : List TWord) : Nat → List (List TWord)
  | 0 => []
  | n + 1 => ws.take 8 :: srcEntries (ws.drop 8) n

/-- Each SECTID once. -/
def sectidsOk : List (List TWord) → Bool
  | [] => true
  | e :: es => (es.all fun f => csId f != csId e) && sectidsOk es

/-- The state header of an OPTSTATE source is valid but perhaps for DIRTY (R215, R470). -/
def optHeadOk (hd : List TWord) (off len : Nat) : Bool :=
  let count := rb hd 16 8
  let chunk := rb hd 24 4
  let nm := rb hd 28 2
  let self := rb hd 30 2
  let p := chunk / nm
  let own := count / chunk * p + min p (count % chunk - self * p)
  rb hd 1 1 == 1 && (decide (rb hd 2 2 ≤ 2) || rb hd 2 2 == 0x100) && decide (rb hd 4 1 ≤ 1) &&
  reservedOk (rb hd 0 1) (rb hd 5 1 == 0 && rb hd 6 2 == 0) &&
  decide (1 ≤ nm) && decide (1 ≤ chunk) && decide (self < nm) && ([0, 1, 2, 3].all fun i => (wd hd i).tag == Tag.int64) &&
  decide (off + 4096 + (own + 255) / 256 * 2048 ≤ len)

/-- Whether a key slot may serve a checkpoint of a Peck (R470). -/
def ckKeyOk (s : State) (p n : Nat) : Bool := slotHeld s p n && (s.key n).use.getLsbD 2 && ((s.key n).kind == 1 || (s.key n).kind == 2)

/-- Whether a handle word may name a checkpoint destination of a slot size (R470). -/
def ckDestOk (s : State) (w : Word) (slotsz : Nat) (rights : List Nat) : Bool :=
  match s.current w with
  | none => false
  | some r => (r.kind == .volume || (r.kind == .remote && !remIsEp (locOf w r))) && (rights.all fun x => hasRight w x) &&
    decide (2 * slotsz ≤ r.len.toNat)

/-- Order 4 of R470 on a source. -/
def csRightsOk (s : State) (e : List TWord) (hd : List TWord) : Bool :=
  let w := (wd e 0).bits
  match s.current w with
  | none => false
  | some r => (r.kind == .local_ || r.kind == .accel || r.kind == .host) && hasRight w rightRd && decide (csOff e + csLen e ≤ r.len.toNat) &&
    (csKind e != 2 || (r.kind == .local_ && optHeadOk hd (csOff e) r.len.toNat))

/-- The sections that a record and its list give (R487), from the state headers and the sequence section. -/
def planCkpt (s : State) (es hds : List (List TWord)) (gens : Option (List Byte)) : List Sect :=
  let one (e hd : List TWord) : Sect :=
    let kind := ((s.current (wd e 0).bits).map (·.kind)).getD .local_
    let extra : List Byte :=
      if csKind e = 1 then bytesOf 8 (wd e 4).bits.toNat ++ bytesOf 8 (wd e 5).bits.toNat
      else if csKind e = 2 then bytesOf 8 (rb hd 16 8) ++ bytesOf 4 (rb hd 24 4) ++ bytesOf 2 (rb hd 28 2) ++ bytesOf 2 (rb hd 30 2) ++
        bytesOf 8 (rb hd 8 8) ++ bytesOf 2 (rb hd 2 2)
      else []
    ⟨csId e, csKind e, csFmt e, csLen e, 0, 0, kind == .local_, false, extra, 0⟩
  let l := (es.zip hds).map fun (e, hd) => one e hd
  let l := match gens with
    | some b => l ++ [⟨0xFFFFFFFF, 4, 0xF, b.length, 0, 0, false, false, [], 0⟩]
    | none => l
  (placeSects 0x6000 0 l).1

/-- The state headers of OPTSTATE sources, as they are in memory. -/
def stateHeads (s : State) (es : List (List TWord)) : State × List (List TWord) :=
  es.foldl (fun (s, l) e =>
    match s.current (wd e 0).bits with
    | some r =>
      if csKind e = 2 ∧ r.kind = .local_ ∧ hasRight (wd e 0).bits rightRd ∧ csOff e + 32 ≤ r.len.toNat then
        let a := r.base.toNat + csOff e
        let s := s.settle a 32
        (s, l ++ [memWords s.mem a 4])
      else (s, l ++ [[]])
    | none => (s, l ++ [[]])) (s, [])

/-- The Peck's sequence entries as records (R487). -/
def seqSection (s : State) (p : Nat) : List Byte :=
  (s.seqs.filter fun e => e.peck == p).flatMap fun e =>
    (List.range 16).flatMap fun k =>
      let w := (wd e.rec_ k).bits
      bytesOf 8 (if k = 6 then e.pos.toNat else if 7 ≤ k ∧ k ≤ 12 then 0 else if k = 1 then (putField w 48 16 e.index).toNat else w.toNat)

/-- The checks of R470 in order. A readable state header is examined for POISON before order 4 reads a field of it (R573). -/
def ckptStatus (s : State) (p : Nat) (ws : List TWord) (es hds : List (List TWord)) : Status :=
  let hs := [wd ws 4, wd ws 5, wd ws 6] ++ es.map fun e => wd e 0
  if anyPoison ws ∨ (es.any fun e => anyPoison e) then stPoison
  else if !(ckFieldsOk ws && (es.all csFieldsOk) && sectidsOk es) then stUndef
  else if !((hs.all fun w => w.tag == Tag.handle) && ([0, 1, 2, 3, 7, 8, 9, 10, 11, 12, 13, 14, 15].all fun k => tagIntNil (wd ws k).tag) &&
      (es.all fun e => [1, 2, 3, 4, 5, 6, 7].all fun k => tagIntNil (wd e k).tag)) then stTag
  else if hs.any fun w => isStale s w then stStale
  else if hds.any fun hd => anyPoison hd then stPoison
  else
    let plan := planCkpt s es hds (if ckFlag ws 4 then some (seqSection s p) else none)
    let units := plan.foldl (fun n x => if x.skind = 4 then n else n + x.nunits) 0
    let tarn := (s.current (wd ws 5).bits).getD Region.free
    let ok := recRegion s (wd ws 4) [rightRd] (64 * ckNsrc ws) == stOk &&
      recRegion s (wd ws 5) [rightRd, rightWr] (imgOff units + units * unitLen) == stOk && decide (tarn.base.toNat < hbmTop) &&
      ((es.zip hds).all fun (e, hd) => csRightsOk s e hd) && ckKeyOk s p (ckKey ws) && ckDestOk s (wd ws 6).bits (ckSlotsz ws) [rightRd, rightWr] &&
      decide (containerEnd plan ≤ ckSlotsz ws)
    if !ok then stRights
    else if (s.ckpt p true).isSome then stDuplicate
    else stOk

/-- The region of a handle word. -/
def locOfWord (s : State) (w : Word) : Loc := match s.current w with
  | some r => locOf w r
  | none => Loc.none

/-- CKPT_BEGIN: the record and its list are checked, and the checkpoint waits or goes to its cut (R470, R471). -/
def execCkptBegin (id : Nat) (s : State) : Host.Outcome State Fault Refusal :=
  .next (s.request id 0x0800 fun i =>
    let r := i.ref 0
    let bad := r.check [.local_] [rightRd]
    if bad ≠ stOk then s.done i bad
    else if r.loc.holds (i.w 1) 128 128 = false then s.done i stRights
    else
      let a := r.loc.base.toNat + (i.w 1).toNat
      let s := s.settle a 128
      let ws := memWords s.mem a 16
      let n := ckNsrc ws
      let usable := !anyPoison ws && decide (n ≤ 256) && recRegion s (wd ws 4) [rightRd] (64 * n) == stOk
      let b := regionBase s (wd ws 4)
      let s := if usable then s.settle b (64 * n) else s
      let es := if usable then srcEntries (memWords s.mem b (8 * n)) n else []
      let (s, hds) := stateHeads s es
      let st := ckptStatus s i.fn ws es hds
      if st ≠ stOk then s.done i st
      else
        let wait := ckFlag ws 2 || (ckFlag ws 3 && decide (s.time < ckAt ws))
        let c : Ckpt := {
          peck := i.fn, item := some id, phase := if wait then 1 else 2, rec_ := ws,
          srcs := es.map fun e => (locOfWord s (wd e 0).bits, e), tarn := locOfWord s (wd ws 5).bits, dest := locOfWord s (wd ws 6).bits,
          cut := 0, snap := Memory.empty, gens := [], sects := [], gen := 0, slot := 0, out_ := .idle, heads := [], done := [], busy := [],
          want := [], data := [], open_ := 0, poison := 0, mir := 0, acked := [], image := 0, slotsz := ckSlotsz ws, keyslot := ckKey ws,
          head := [] }
        ({ s with ckpts := s.ckpts ++ [c] }).setPhase id .committed)

/-- CKPT_AT_TIME: device time has reached AT, and the waiting checkpoint starts (R471). No effect before. -/
def execCkptAtTime (p : Fin 256) (s : State) : Host.Outcome State Fault Refusal :=
  .next { s with ckpts := s.ckpts.map fun c =>
    if c.peck = p.val ∧ c.phase = 1 ∧ ckFlag c.rec_ 3 ∧ ckAt c.rec_ ≤ s.time then { c with phase := 2 } else c }

/-- Whether a checkpoint in CUT still waits (R471). -/
def cutWaits (s : State) (c : Ckpt) : Bool :=
  (s.colls.any fun x => x.peck == c.peck && x.wrote && crOp x.rec_ == opStep) ||
  (ckFlag c.rec_ 4 && s.seqs.any fun e => e.peck == c.peck && e.step.isSome)

/-- CKPT_CUT: nothing that the cut waits for is left; the cut is taken, and the checkpoint enters PULL and begins its stream-out (R471, R472,
R479). -/
def execCkptCut (p : Fin 256) (s : State) : Host.Outcome State Fault Refusal :=
  .next (match s.ckpt p.val true with
  | none => s
  | some c =>
    if c.phase ≠ 2 ∨ cutWaits s c then s
    else
      let s := c.srcs.foldl (fun s (l, e) => if l.kind = .local_ then s.settle (l.base.toNat + csOff e) (csLen e) else s) s
      let es := c.srcs.map (·.2)
      let (s, hds) := stateHeads s es
      let gens := seqSection s p.val
      let sects := planCkpt s es hds (if ckFlag c.rec_ 4 then some gens else none)
      let c := { c with phase := 3, cut := s.time, snap := s.mem, gens := gens, sects := sects, mir := if ckFlag c.rec_ 0 then 1 else 0 }
      let n := ckUnits c
      let c := { c with image := c.tarn.base.toNat + imgOff n }
      let s := tarnHead (s.putCkpt c) c
      let s := (placeWords s (c.tarn.base.toNat + 4096) (List.replicate ((imgOff n - 4096) / 8) (TWord.int 0))).1
      let s := ckptHeads s c
      -- a pair that is split has no mirror (R477)
      settleAll (match s.ckpt p.val true with
        | some c => if c.mir = 1 ∧ !s.pair.joined then mirrorLost s c stPairSplit else s
        | none => s))

/-- The next unit to capture (R473). -/
def nextUnit (c : Ckpt) : Option Nat :=
  let free (u : Nat) : Bool := !c.done.contains u && !c.busy.contains u
  (c.want.find? free).or ((List.range (ckUnits c)).find? free)

/-- CKPT_UNIT_CAPTURE: the next unit is copied into the Tarn, or its reading begins (R473). `deny` holds pages that the host denies
(R364). -/
def execCkptUnitCapture (p : Fin 256) (deny : List Nat) (s : State) : Host.Outcome State Fault Refusal :=
  .next (match s.ckpt p.val true with
  | none => s
  | some c =>
    if c.phase ≠ 3 then s
    else match nextUnit c with
      | none => s
      | some u => settleAll (captureUnit s c u deny))

/-- CKPT_GUARD (R475). -/
def execCkptGuard (id : Nat) (s : State) : Host.Outcome State Fault Refusal :=
  .next (s.request id 0x0801 fun i =>
    match s.ckpt i.fn true with
    | none => s.done i stOk
    | some c =>
      if c.phase ≠ 3 then s.done i stOk
      else match guardUnits c i with
        | none => s.done i stRights
        | some us => ckptGuards ((s.putCkpt { c with want := c.want ++ us.filter fun u => !c.done.contains u && !c.want.contains u }).setPhase id .active) i.fn)

/-- CKPT_CANCEL (R483). -/
def execCkptCancel (id : Nat) (s : State) : Host.Outcome State Fault Refusal :=
  .next (s.request id 0x0802 fun i =>
    match s.ckpt i.fn true with
    | none => s.done i stAbortTooLate
    | some c => if c.phase ≤ 3 then settleAll ((ckptFail s c stAborted).done i stOk) else s.done i stAbortTooLate)

/-- The checkpoint of a Peck whose stream-out a row moves: its own, else a takeover. -/
def streamOf (s : State) (p : Nat) (ok : Ckpt → Bool) : Option Ckpt :=
  match (s.ckpt p true).filter ok with
  | some c => some c
  | none => (s.ckpt p false).filter ok

/-- CKPT_STREAM_RECORD: the next record is written once its unit has been captured; before that, the reading of the slots begins if no port
was up at the cut (R479, R480). -/
def execCkptStreamRecord (p : Fin 256) (s : State) : Host.Outcome State Fault Refusal :=
  .next (match streamOf s p.val fun c => decide (3 ≤ c.phase) && (c.out_ == .idle || c.out_ == .records) with
  | none => s
  | some c => settleAll (if c.out_ = .idle then ckptHeads s c else ckptRecord s c))

/-- CKPT_SEAL: every record write has completed: the header, the section table and the manifest are written, and CKPT_BEGIN completes with
the last (R481). -/
def execCkptSeal (p : Fin 256) (s : State) : Host.Outcome State Fault Refusal :=
  .next (match streamOf s p.val fun c => (c.phase == 4 || c.phase == 6) && c.out_ == .records && c.open_ == 0 &&
      decide (c.data.length = (recordList c.sects).length) with
  | none => s
  | some c => if destReady s c then settleAll (ckptTable s c) else s)

/-! ## Mirrors (R477, R478) -/

/-- The partner's mirror area: first byte and length. -/
def mirArea (s : State) : Nat × Nat := (bitsOf (s.reg rMirCfg) 0 18 * 0x200000, bitsOf (s.reg rMirCfg) 32 18 * 0x200000)

/-- Bytes of a mirror. -/
def mirLen (units : Nat) : Nat := units * unitLen + 0x10000

/-- A place in the area, first-fit. -/
def mirPlace (s : State) (n : Nat) : Option Nat :=
  let (a, len) := mirArea s
  ((a :: s.mirrors.map fun m => m.base + mirLen m.nunits).filter fun b => decide (a ≤ b) && decide (b + n ≤ a + len) &&
    s.mirrors.all fun m => !overlaps m.base (mirLen m.nunits) b n).foldl (fun best b => match best with
      | none => some b
      | some c => some (min b c)) none

/-- Whether this device may take a mirrored checkpoint over (R478). -/
def mirrorGood (s : State) (m : Mirror) : Bool :=
  let w := s.dirWord m.peck m.dstdir
  !m.noKey && ckKeyOk s m.peck m.pkeyslot && w.tag == Tag.handle && ckDestOk s w.bits m.slotsz [rightRd, rightWr]

/-- A mirror of the partner's changes by a message. -/
def mirrorIn (s : State) (p : Nat) (m : MirMsg) : State :=
  match m with
  | .open_ units slot gen slotsz dstdir pkey noKey head gens =>
    let s := { s with mirrors := s.mirrors.filter fun x => x.peck ≠ p }
    match mirPlace s (mirLen units) with
    | none => s.emit (.flit "MIRROR_ROOM" [p, 0])
    | some b =>
      let n := recNum head 34 2
      let sects := (placeSects 0x6000 0 ((List.range n).map fun k => readSect ((head.drop (256 + 64 * k)).take 64))).1
      ({ s with mirrors := s.mirrors ++ [(⟨p, b, units, head.take 256, gens, sects, gen, slot, slotsz, dstdir, pkey, noKey, [], 0, false, none⟩ : Mirror)] }).emit
        (.flit "MIRROR_ROOM" [p, 1])
  | .unit u ws =>
    match s.mirrors.find? fun x => x.peck == p with
    | none => s
    | some x =>
      if u ≥ x.nunits ∨ x.got.contains u then s
      else
        let (s, _) := placeWords s (x.base + 0x10000 + u * unitLen) (ws.take (unitLen / 8))
        let bad := (ws.filter wordPoison).length
        let x := { x with got := x.got ++ [u], poison := x.poison + bad, sects := x.sects.map fun y =>
                    if bad ≠ 0 ∧ y.skind ≠ 4 ∧ y.unit0 ≤ u ∧ u < y.unit0 + y.nunits then { y with poison := true } else y }
        let full := (List.range x.nunits).all fun k => x.got.contains k
        let ok := full && mirrorGood s x
        let x := { x with confirmed := ok }
        let s := { s with mirrors := s.mirrors.map fun (y : Mirror) => if y.peck = p then x else y }.emit (.flit "MIRROR_ACK" [p, u])
        if ok then s.emit (.flit "MIRROR_CONFIRM" [p]) else s
  | .free => { s with mirrors := s.mirrors.filter fun x => x.peck ≠ p }
  | .room ok =>
    match s.ckpt p true with
    | some c => if c.mir = 1 ∧ !ok then mirrorLost s c stRights else s
    | none => s
  | .ack u =>
    match s.ckpt p true with
    | some c =>
      if c.mir ≠ 1 then s
      else
        let c := { c with acked := u :: c.acked }
        ckptStaged (s.putCkpt (if (List.range (ckUnits c)).all fun k => c.acked.contains k then { c with mir := 2 } else c)) p
    | none => s
  | .confirm =>
    match s.ckpt p true with
    | some c => if c.mir = 2 then s.putCkpt { c with mir := 3 } else s
    | none => s

/-- CKPT_MIRROR_UNIT: a mirror message of the partner arrives over the pair link: the opening of a mirror, a unit of it, its release, or an
answer to this device's own (R477, R478). Flits of a partner that is not joined are discarded (R537). -/
def execCkptMirrorUnit (p : Fin 256) (m : MirMsg) (s : State) : Host.Outcome State Fault Refusal :=
  .next (if s.pair.joined then settleAll (mirrorIn s p.val m) else s)

/-- CKPT_TAKEOVER_START: the wait after the split has passed, and this device streams the confirmed mirror into the same slot (R478). No
effect before. -/
def execCkptTakeoverStart (p : Fin 256) (s : State) : Host.Outcome State Fault Refusal :=
  .next (match s.mirrors.find? fun m => m.peck == p.val with
  | none => s
  | some m =>
    match m.split with
    | none => s
    | some t =>
      if s.time < t + max (wymH s) ((s.reg rCto).toNat * 1000) ∨ (s.ckpt p.val false).isSome then s
      else
        let w := s.dirWord p.val m.dstdir
        let s := (bothEvent s p.val sevWarn evCkptTakeover (BitVec.ofNat 64 p.val) (BitVec.ofNat 64 m.gen)).bump rCkptTakeovers 1
        let c : Ckpt := {
          peck := p.val, item := none, phase := 6, rec_ := [], srcs := [], tarn := Loc.none, dest := locOfWord s w.bits, cut := recNum m.head 24 8,
          snap := Memory.empty, gens := m.gens, sects := m.sects, gen := m.gen, slot := m.slot, out_ := .idle, heads := [], done := [], busy := [],
          want := [], data := [], open_ := 0, poison := m.poison, mir := 3, acked := [], image := m.base + 0x10000, slotsz := m.slotsz,
          keyslot := m.pkeyslot, head := m.head }
        let s := { s with ckpts := s.ckpts ++ [c] }
        settleAll (if mirrorGood s m then ckptOpen s c else ckptFail s c stRights))

/-- Grains that firmware reserves (R323). -/
def grainReserved (g : Nat) : Bool := (decide (98048 ≤ g) && decide (g < 98304)) || (decide (196352 ≤ g) && decide (g < 196608))
/-- Grains set aside for the partner's mirrors (R477). -/
def grainMirror (s : State) (g : Nat) : Bool :=
  decide (bitsOf (s.reg rMirCfg) 0 18 ≤ g) && decide (g < bitsOf (s.reg rMirCfg) 0 18 + bitsOf (s.reg rMirCfg) 32 18)

/-- CKPT_MIRCFG_WRITE (R477, R494). -/
def execCkptMircfgWrite (part : RegPart) (v : Word) (s : State) : Host.Outcome State Fault Refusal :=
  let w := mergePart part (s.reg rMirCfg) v
  let first := bitsOf w 0 18
  let n := bitsOf w 32 18
  let taken (g : Nat) : Bool := grainReserved g || s.pecks.any fun e => e.2.grains.testBit g
  whenReady s (
    if s.mirrors ≠ [] ∨ first + n > 196608 ∨ (List.range n).any fun k => taken (first + k) then s.errWr
    else s.setReg rMirCfg (BitVec.ofNat 64 (first + n * 2 ^ 32)))

/-! ## Restore (R490, R491) -/

/-- A restore-list entry: its four words. -/
def restEntries (ws : List TWord) : Nat → List (List TWord)
  | 0 => []
  | n + 1 => ws.take 4 :: restEntries (ws.drop 4) n

def rsNent (i : Item) : Nat := bitsOf (i.w 3) 16 16
def rsSel (i : Item) : Nat := (i.w 1).toNat

/-- Orders 1 to 4 on the request and its list (R491). -/
def restStatus (s : State) (i : Item) (es : List (List TWord)) : Status :=
  if es.any fun e => anyPoison e then stPoison
  else if es.any fun e => (wd e 3).bits != 0 || decide ((wd e 0).bits.toNat ≥ 2 ^ 32) then stUndef
  else if es.any fun e => (wd e 0).tag != Tag.int64 || (wd e 1).tag != Tag.handle || (wd e 2).tag != Tag.int64 then stTag
  else if es.any fun e => isStale s (wd e 1) then stStale
  else if es.any fun e => match s.current (wd e 1).bits with
    | some r => !(r.kind == .local_ || r.kind == .accel || r.kind == .host) || !hasRight (wd e 1).bits rightWr
    | none => true then stRights
  else if !ckKeyOk s i.fn (bitsOf (i.w 3) 0 16) ∨ 2 * (i.w 2).toNat > (i.ref 0).loc.len.toNat then stRights
  else stOk

/-- Ask for bytes of the source region, at an offset; they arrive in the item's buffer at `at_`. -/
def restRead (s : State) (i : Item) (off n at_ : Nat) : State :=
  let l := (i.ref 0).loc
  let a := l.base.toNat + off
  let s := s.updItem i.id fun i => { i with buf := [] }
  if l.kind = .volume then
    let (s, k) := vreqRun .read l.aux.toNat (.item i.id) (n / 4096 + 1) (a / 4096) (n / 4096) [] at_ s
    s.updItem i.id fun i => { i with open_ := i.open_ + k }
  else
    let parts := msgPieces (wymPsize s) n
    let s := s.updItem i.id fun i => { i with open_ := i.open_ + parts.length }
    parts.foldl (fun s (o, c) =>
      dealMsg s (2000 + i.fn) l.raddr
        (newMsg .read i.fn l 0xFFFF#16 (BitVec.ofNat 64 (a + o)) c (wymPsize s) none false none (.item i.id) (at_ + o) .none)) s

/-- n buffered bytes from an offset. -/
def restBytes (i : Item) (off n : Nat) : List Byte := (List.range n).map fun k => tblGet (0 : Byte) i.buf (off + k)

/-- The slots that a restore looks at. -/
def restSlots (i : Item) : List Nat := if rsSel i = 0 then [0, 1] else [rsSel i - 1]

/-- Verify a slot's head for a restore: its GEN when sealed. -/
def restHead (s : State) (i : Item) (k : Nat) : State × Status × Option Nat :=
  headSealed s (bitsOf (i.w 3) 0 16) (restBytes i (4096 * k) 512)

/-- Whether a manifest's signature must hold and does (R491): where STREAMDEV is this device or its partner. -/
def sigGood (s : State) (bs : List Byte) : Bool :=
  let dev := recNum bs 24 8
  let good (x y : Nat) : Bool := ecdsaVerify (some (x, y)) (bs.take 256) ((bs.drop 256).take 96)
  if dev = devIdNum then good (ecX signPub) (ecY signPub)
  else if dev = bitsOf (s.reg rPairPeer) 0 48 ∧ dev ≠ 0 then good Config.peerSignX Config.peerSignY
  else true

/-- Words of a record's data and tag bytes; an untagged section gives words with tag NIL. -/
def recordWords (x : Sect) (data tags : List Byte) : List TWord :=
  (List.range (data.length / 8)).map fun k =>
    let v := BitVec.ofNat 64 (natOfBytes ((data.drop (8 * k)).take 8))
    if x.tagged then ⟨v, BitVec.ofNat 4 ((tags.getD (k / 2) 0).toNat / 16 ^ (k % 2))⟩ else ⟨v, Tag.nil⟩

/-- A word as a restore writes it: HANDLE words become 0 with tag NIL (R41, R491). -/
def restWord (w : TWord) : TWord := if w.tag = Tag.handle then TWord.zero else if w.tag = Tag.rsvd then ⟨w.bits, Tag.poison⟩ else w

/-- The tag and data of a record, when its header, GEN and GCM tag hold. -/
def openRecord (key : List Byte) (hi k gen : Nat) (x : Sect) (j : Nat) (bs : List Byte) : Option (List TWord) :=
  let p := unitPlen x j
  let t := unitTlen x j
  let h := bs.take 64
  if recNum h 2 2 ≠ k ∨ recNum h 4 4 ≠ j ∨ recNum h 8 8 ≠ gen ∨ recNum h 24 4 ≠ p ∨ recNum h 28 4 ≠ t then none
  else (gcmDec (toNats key) (nonceBytes hi (recNum h 16 8)) (toNats h) (toNats ((bs.drop 64).take (p + t))) (toNats ((bs.drop (64 + p + t)).take 16))).map
    fun d => recordWords x (ofNats (d.take p)) (ofNats (d.drop p))

/-- Write a section's words to its target (R491): the status of the first word that could not be written as it stands. -/
def restWrite (s : State) (p : Nat) (e : List TWord) (x : Sect) (j : Nat) (ws : List TWord) : State × Status :=
  let l := locOfWord s (wd e 1).bits
  let off := (wd e 2).bits.toNat + j * unitLen
  let ws := ws.map restWord
  -- a restore clears DIRTY (R215)
  let ws := if x.skind = 2 ∧ j = 0 then ws.zipIdx.map fun (w, n) => if n = 0 then { w with bits := putField w.bits 32 8 0 } else w else ws
  if l.kind = .local_ ∧ off % 8 = 0 then
    ws.zipIdx.foldl (fun (s, st) (w, n) =>
      let a := l.base.toNat + off + 8 * n
      if w.tag = Tag.code then (s.putWord a w, st)
      else
        let (s, bad) := placeWord s a w
        (s, if bad ∧ st = stOk then stTag else st)) (s, stOk)
  else
    let (s, st) := svcWrite s p l off (exportWords ws) Tag.nil
    (s, if st ≠ stOk then st else if ws.any wordPoison then stPoison else stOk)

/-- Restore the sections that the list names from a slot's bytes 0x1000 to END − 1; the key slot serves one invocation for each record. -/
def restRun (s : State) (i : Item) (mf body : List Byte) (es : List (List TWord)) : State × Status :=
  let slot := bitsOf (i.w 3) 0 16
  let gen := recNum mf 8 8
  let sects := (List.range (recNum mf 60 4)).map fun k => readSect ((body.drop (0x100 + 64 * k)).take 64)
  let named (x : Sect) : Option (List TWord) := es.find? fun e => (wd e 0).bits.toNat == x.sectid
  let code (e : List TWord) : Bool := (locOfWord s (wd e 1).bits).kind == .local_ && hasRight (wd e 1).bits rightEx
  if es.any fun e => sects.all fun x => (wd e 0).bits.toNat != x.sectid then (s, stRights)
  else if sects.any fun x => match named x with
    | some e => decide ((wd e 2).bits.toNat + x.len > (locOfWord s (wd e 1).bits).len.toNat)
    | none => false then (s, stRights)
  else
    let (s, st) := sects.zipIdx.foldl (fun (s, st) (x, k) =>
      match named x with
      | none => (s, st)
      | some e =>
        if st ≠ stOk ∧ st ≠ stPoison then (s, st)
        else
          let at_ (j : Nat) : Nat := x.first - 0x1000 + (List.range j).foldl (fun a i => a + recordLen (unitPlen x i) (unitTlen x i)) 0
          -- every record of the section is verified and opened
          let (s, st1, us) := (List.range x.nunits).foldl (fun (s, st1, us) j =>
            if st1 ≠ stOk then (s, st1, us)
            else
              let (kst, _, s) := keyReserve s slot 1 [1, 2] useCkpt
              if kst ≠ stOk then (s, kst, us)
              else match openRecord (s.key slot).key (manifestHi mf) k gen x j ((body.drop (at_ j)).take (recordLen (unitPlen x j) (unitTlen x j))) with
                | none => (s, stRights, us)
                | some ws => (s, stOk, us ++ [(j, ws)])) (s, stOk, ([] : List (Nat × List TWord)))
          -- CODE words into any other target: nothing of the section is written
          if !code e && us.any fun u => u.2.any fun w => w.tag == Tag.code then (s, stTag)
          else
            let (s, st2) := us.foldl (fun (s, st2) (j, ws) =>
              let (s, b) := restWrite s i.fn e x j ws
              (s, if st2 = stOk then b else st2)) (s, stOk)
            (s, if st1 ≠ stOk then st1 else if st2 ≠ stOk ∧ st = stOk then st2 else st)) (s, stOk)
    if st = stOk ∨ st = stPoison then
      (s, if ofNats (sha384 (toNats body)) = (mf.drop 64).take 48 then st else stRights)
    else (s, st)

/-- The restore list, as it is read. -/
def restList (s : State) (i : Item) : State × List (List TWord) :=
  let n := rsNent i
  let a := (i.ref 1).loc.base.toNat + (i.w 5).toNat
  let s := s.settle a (32 * n)
  (s, restEntries (memWords s.mem a (4 * n)) n)

/-- Step 2 of a restore: the heads are here, and the chosen slot's bytes are asked for (R491). -/
def restChoose (s : State) (i : Item) : State :=
  let (s, st, best) := (restSlots i).foldl (fun (s, st, best) k =>
    let (s, st1, g) := restHead s i k
    (s, if st = stOk then st1 else st, match g, best with
      | some g, some (b, _) => if g > b then some (g, k) else best
      | some g, none => some (g, k)
      | none, _ => best)) (s, stOk, (none : Option (Nat × Nat)))
  if st ≠ stOk then s.done i st
  else match best with
    | none => s.done i stCkptUnsealed
    | some (_, k) =>
      let mf := restBytes i (4096 * k) 512
      let end_ := recNum mf 48 8
      if recNum mf 133 1 = 1 ∨ (recNum mf 7 1 / 4 % 2 = 1 ∧ bitsOf (s.reg rCkptCfg) 20 1 = 0) ∨ sigGood s mf = false ∨
          end_ < 0x6000 ∨ end_ > (i.w 2).toNat then s.done i stRights
      else
        -- the manifest stays in the buffer after the slot's bytes
        let s := s.setPhase i.id .committed
        let s := restRead s i (k * (i.w 2).toNat + 0x1000) (end_ - 0x1000) 512
        s.updItem i.id fun i => { i with buf := mf.zipIdx.map fun (b, n) => (n, b) }

/-- CKPT_RESTORE: the request and its list are checked and the slots' heads asked for; the command acts again once they are here, and again
once the chosen slot's bytes are, which are then verified and written (R491). -/
def execCkptRestore (id : Nat) (s : State) : Host.Outcome State Fault Refusal :=
  .next (match s.item id with
  | none => s
  | some i =>
    if i.typ ≠ 0x0803#16 ∨ i.open_ ≠ 0 then s
    else if i.phase = .dispatched then
      let src := i.ref 0
      let lst := i.ref 1
      let bad := firstBad [src.check [.volume, .remote] [rightRd], lst.check [.local_] [rightRd]]
      if (i.w 5).toNat % 32 ≠ 0 ∨ bitsOf (i.w 3) 12 4 ≠ 0 ∨ (i.w 2).toNat % 4096 ≠ 0 ∨ (i.w 2).toNat = 0 then s.done i stUndef
      else if bad ≠ stOk then s.done i bad
      else if lst.loc.holds (i.w 5) (32 * rsNent i) 32 = false ∨ (src.loc.kind = .remote ∧ remIsEp src.loc) then s.done i stRights
      else
        let (s, es) := restList s i
        let st := restStatus s i es
        if st ≠ stOk then s.done i st
        else if src.loc.kind = .remote ∧ anyUp s = false then s
        else
          let s := s.setPhase id .active
          settleAll ((restSlots i).foldl (fun s k =>
            let n := if src.loc.kind = .volume then 4096 else 512
            restRead s i (k * (i.w 2).toNat) n (4096 * k)) s)
    else if i.phase = .active then settleAll (restChoose s i)
    else
      let (s, es) := restList s i
      let mf := restBytes i 0 512
      let (s, st) := restRun s i mf (restBytes i 512 (recNum mf 48 8 - 0x1000)) es
      settleAll (if st = stOk then s.completeItem i stOk (BitVec.ofNat 64 (recNum mf 8 8)) 0 else s.done i st))

end Sys2Proof.Machine
end

