-- ==== Sys2Proof/Machine/CollGenRows.lean ====
section
/-!
DEFINITION. Rows of the collectives (R193 to R221) and of the decode-step service (R229 to R245): each is one call of the operation of its
chapter, after which outcomes reach their services.
-/

namespace Sys2Proof.Machine

/-- ALLREDUCE: a collective request whose record names this OP is checked and started (R194, R198, R203). -/
def execAllreduce (id : Nat) (s : State) : Host.Outcome State Fault Refusal := .next (settleAll (collRow opAllreduce id s))

/-- REDUCE_SCATTER: a collective request whose record names this OP is checked and started (R194, R198, R203). -/
def execReduceScatter (id : Nat) (s : State) : Host.Outcome State Fault Refusal := .next (settleAll (collRow opReduceScatter id s))

/-- ALLGATHER: a collective request whose record names this OP is checked and started (R194, R198, R203). -/
def execAllgather (id : Nat) (s : State) : Host.Outcome State Fault Refusal := .next (settleAll (collRow opAllgather id s))

/-- REDUCE: a collective request whose record names this OP is checked and started (R194, R198, R203). -/
def execReduce (id : Nat) (s : State) : Host.Outcome State Fault Refusal := .next (settleAll (collRow opReduce id s))

/-- BROADCAST: a collective request whose record names this OP is checked and started (R194, R198, R203). -/
def execBroadcast (id : Nat) (s : State) : Host.Outcome State Fault Refusal := .next (settleAll (collRow opBroadcast id s))

/-- ALLTOALL: a collective request whose record names this OP is checked and started (R194, R198, R203). -/
def execAlltoall (id : Nat) (s : State) : Host.Outcome State Fault Refusal := .next (settleAll (collRow opAlltoall id s))

/-- STEP: a collective request whose record names this OP is checked and started (R194, R198, R203). -/
def execStep (id : Nat) (s : State) : Host.Outcome State Fault Refusal := .next (settleAll (collRow opStep id s))

/-- COLLECTIVE_REFUSED: a collective request whose record cannot be read, is tainted in its first word, or names no OP (R198). -/
def execCollectiveRefused (id : Nat) (s : State) : Host.Outcome State Fault Refusal := .next (settleAll (collRefused id s))

/-- ANNOUNCE_RESEND: R203. -/
def execAnnounceResend (c : Nat) (s : State) : Host.Outcome State Fault Refusal := .next (settleAll (runAnnounceResend c s))

/-- COLL_SEND: phase 2 (R203). `deny` holds the host pages whose translation the host denies (R364). -/
def execCollSend (c chunk member : Nat) (deny : List Nat) (s : State) : Host.Outcome State Fault Refusal := .next (settleAll (runCollSend c chunk member deny s))

/-- COLL_REDUCE: phase 3 (R204, R207). -/
def execCollReduce (c chunk : Nat) (s : State) : Host.Outcome State Fault Refusal := .next (settleAll (runCollReduce c chunk s))

/-- COLL_VERDICT: R213. -/
def execCollVerdict (c : Nat) (s : State) : Host.Outcome State Fault Refusal := .next (settleAll (runCollVerdict c s))

/-- COLL_VERDICT_TIMEOUT: R213. -/
def execCollVerdictTimeout (c : Nat) (s : State) : Host.Outcome State Fault Refusal := .next (settleAll (runCollVerdictTimeout c s))

/-- COLL_APPLY: phase 5 (R217, R218). -/
def execCollApply (c chunk : Nat) (s : State) : Host.Outcome State Fault Refusal := .next (settleAll (runCollApply c chunk s))

/-- COLL_RESULT: phase 6 (R203, R208). -/
def execCollResult (c chunk owner : Nat) (deny : List Nat) (s : State) : Host.Outcome State Fault Refusal := .next (settleAll (runCollResult c chunk owner deny s))

/-- COLL_DELIVER: phase 7 (R203, R210, R211). -/
def execCollDeliver (c chunk : Nat) (deny : List Nat) (s : State) : Host.Outcome State Fault Refusal := .next (settleAll (runCollDeliver c chunk deny s))

/-- COLL_STALL_EXPIRY: R220. -/
def execCollStallExpiry (c : Nat) (s : State) : Host.Outcome State Fault Refusal := .next (settleAll (runCollStall c s))

/-- COLL_COMPLETE: R203. `lost` counts this member's dispatch rows that receivers dropped (R212). -/
def execCollComplete (c lost : Nat) (s : State) : Host.Outcome State Fault Refusal := .next (settleAll (runCollComplete c lost s))

/-- GEN_DISPATCH: R233. -/
def execGenDispatch (q : Nat) (s : State) : Host.Outcome State Fault Refusal := .next (settleAll (runGenDispatch q s))

/-- GEN_SAMPLE: R236. -/
def execGenSample (q : Nat) (s : State) : Host.Outcome State Fault Refusal := .next (settleAll (runGenSample q s))

/-- GEN_OUTPUT_WRITE: R241. -/
def execGenOutputWrite (q : Nat) (s : State) : Host.Outcome State Fault Refusal := .next (settleAll (runGenOutput q s))

/-- KV_APPEND: R244. -/
def execKvAppend (q : Nat) (deny : List Nat) (s : State) : Host.Outcome State Fault Refusal := .next (settleAll (runKvAppend q deny s))

/-- GEN_KVMOVE: R245. -/
def execGenKvmove (id : Nat) (deny : List Nat) (s : State) : Host.Outcome State Fault Refusal := .next (settleAll (runGenKvmove id deny s))

end Sys2Proof.Machine
end

