-- ==== Sys2Proof/Machine/Fence.lean ====
section
/-!
DEFINITION. Fences and resets (R178, R186, R314, R332, R514): a slot, the work of a Peck, and an engine.
-/

namespace Sys2Proof.Machine

/-- Reset a slot (R186) with a status for what it runs: a context that has halted or faulted ends with its own outcome (R574, R515), another
completes with the status and AUX the PC at the reset. -/
def resetCtx (s : State) (c : CtxId) (st : Status) : State :=
  let s := fenceCopies s c.eng (some c.slot.val) st
  let x := s.ctx c
  if x.state = .free then s
  else if x.item.isNone then freeCtx s c
  else if x.state = .halted ∨ x.state = .faulted then endCtx s c
  else
    let s := freeCtx s c
    match x.item.bind s.item with
    | none => s
    | some i =>
      let (r, s) := s.draw
      s.completeItem i st r x.pc

/-- Reset every slot of an engine. -/
def resetSlots (s : State) (e : Nat) (st : Status) : State :=
  (List.range 8).foldl (fun s k => resetCtx s ⟨Fin.ofNat 128 e, Fin.ofNat 8 k⟩ st) s

/-- Collectives end with a status (R220, R221). -/
def collFence (s : State) (own : Coll → Bool) (st : Status) : State :=
  (s.colls.filter own).foldl (fun s c => match s.coll c.id with
    | some c => collEnd s c st (collResult c)
    | none => s) s

/-- Feeds end with a status. -/
def feedFence (s : State) (own : Feed → Bool) (st : Status) : State :=
  (s.feeds.filter own).foldl (fun s f => feedEnd (dropUser s (.feed f.peck f.id)) f st) s

/-- Commands of a Peck's NVMe controller complete with a status (R415, R420). -/
def nvFence (s : State) (p : Nat) (st : Status) : State :=
  let s := dropVreqs s fun u => match u with | .nvme q _ _ => q == p | _ => false
  let cs := (s.nvme p).cmds
  let s := s.setNvme p { s.nvme p with cmds := [] }
  cs.foldl (fun s c => nvDone s p c.q c.cid 0 (nvStatus st c.isWrite)) s

/-- READRESPs of a Peck are discarded (R291, R316). -/
def dropResps (s : State) (p : Nat) : State :=
  let s := (s.resps.filter fun r => r.peck == p).foldl (fun s r => dropUser s (.resp r.num)) { s with resps := s.resps.filter fun r => r.peck ≠ p }
  let mine (e : QEnt) : Bool := match e with
    | .resp r => r.peck == p
    | _ => false
  { s with ports := s.ports.map fun (n, x) => (n, { x with qs := x.qs.map fun (q, y) => (q, { y with ents := y.ents.filter fun e => !mine e }) }) }

/-- Complete a dispatched item that a fence reaches. -/
def fenceItem (s : State) (i : Item) (st : Status) : State :=
  let s := dropUser s (.item i.id)
  let s := if i.typ = 0x0702#16 then
      let n := bitsOf (i.w 0) 0 12
      s.setKey n { s.key n with erasing := false }
    else s
  (if i.typ = 0x0403#16 then writeDone s (some i.wr) else s).done i st

/-- Fence the work of a Peck: contexts, copies, collectives, steps, checkpoints, feeds, messages, volume requests and items end with a status
(R332, R333, R514). Commands that act on the Peck itself are the manager's items and go on. -/
def fencePeck (s : State) (p : Nat) (st : Status) : State :=
  let s := { s with replays := s.replays.filter fun r => !(s.heldEngines p).contains r.eng }
  let s := collFence s (fun c => c.peck == p) st
  let s := genFence s (fun e => e.peck == p) st
  let s := ckptFence s (fun q => q == p) st
  let s := feedFence s (fun f => f.peck == p) st
  let s := (s.heldEngines p).foldl (fun s e => resetSlots s e st) s
  let s := nvFence s p st
  let s := (s.msgs.filter fun m => m.peck == p).foldl (fun s m => endMsg s m st) s
  let cut (r : VReq) : Option VReq := if volPeck s r.vol = p then (if r.waiting then none else some { r with dead := true, user := .none }) else some r
  let s := dropResps { s with vreqs := s.vreqs.filterMap cut } p
  let s := settleAll s
  (s.items.filter fun i => i.fn == p).foldl (fun s i => fenceItem s i st) s

/-- Commands waiting in a cipher queue fail with a status, which is written (R332, R463). -/
def fenceCipher (s : State) (p q : Nat) (st : Status) : Nat → State
  | 0 => s
  | fuel + 1 =>
    let c := s.cq (4 * p + q)
    if !c.en || c.stopped || c.pi == c.ci then s
    else fenceCipher (endCipher s p q (c.base + 64 + 64 * (c.ci.toNat % 2 ^ c.log2)) st) p q st fuel

/-- The cipher queues of a Peck are disabled; a disable writes nothing further (R463). -/
def dropCipher (s : State) (p : Nat) : State :=
  (List.range 4).foldl (fun s q => s.setCq (4 * p + q) { s.cq (4 * p + q) with en := false }) s

/-- Undispatched ring items of a Peck complete with a status, and its rings are emptied (R332, R383). -/
def fenceRings (s : State) (p : Nat) (st : Status) : State := (List.range 16).foldl (fun s r => resetRing s p r st) s

/-- The Pool of an engine. -/
def poolAt (e : Nat) : Nat := poolBase + e * 0x200000

/-- An engine's slots, copies, accumulators, semaphores and Pool as an engine reset leaves them (R186): the status is that of what it ran. -/
def clearEngine (s : State) (e : Nat) (st : Status) : State :=
  let p := (s.eng e).peck.toNat
  -- service contexts on the engine fail with it
  let s := (s.colls.filter fun c => c.jobs.any fun j => j.eng == e).foldl (fun s c => match s.coll c.id with
    | some c => collEnd s c st (collResult c)
    | none => s) s
  let s := genFail s e st
  let s := feedFence s (fun f => f.peck == p && f.eng == e) st
  let s := resetSlots s e st
  let s := fenceCopies s (Fin.ofNat 128 e) none st
  let x := s.eng e
  let s := s.setEng e { x with xs := [], occ := 0, sems := [], semQ := [], queues := [], queueQ := [], ctxs := [] }
  s.zeroMem (poolAt e) 0x200000

end Sys2Proof.Machine
end

