-- ==== Sys2Proof/Machine/PairCore.lean ====
section
/-!
DEFINITION. The pair's join attempt and its split (R533 to R538), and what the device tells its partner.
-/

namespace Sys2Proof.Machine

def evPairJoined : BitVec 16 := 0x0B00#16
def evPairSplit : BitVec 16 := 0x0B01#16
def evPairTimeLock : BitVec 16 := 0x0B02#16

/-- Causes of a split (R534, R537). -/
def pairLink : Nat := 6
def pairHeartbeat : Nat := 7
def pairLeave : Nat := 8
def pairManager : Nat := 9

/-- The pair link is up: a half is in service (R533). -/
def PairState.up (p : PairState) : Bool := p.low || p.high

/-- FWVER of the image that group 1 runs (R534, R503). -/
def group1Ver (s : State) : Nat := if s.fw.switched.contains 1 then (s.fw.staged.map (·.ver)).getD 0 else fwVer s

/-- The base fabric address (R546). -/
def fabricAddr (s : State) : BitVec 128 := BitVec.ofNat 128 ((s.reg (rFabric 0)).toNat + (s.reg (rFabric 1)).toNat * 2 ^ 64)

/-- This device's join record (R534). -/
def joinRec (s : State) : JoinRec :=
  ⟨s.secondary, 1, group1Ver s / 65536, 1, s.reg rEpoch, Config.devId, fabricAddr s⟩

/-- The first comparison of R534 that fails, as its cause; 0 when all pass. -/
def joinCause (a b : JoinRec) : Nat :=
  if a.role = b.role then 1 else if a.isa ≠ b.isa then 2 else if a.fwmajor ≠ b.fwmajor then 3 else if a.wymver ≠ b.wymver then 4
  else if a.epoch ≠ b.epoch then 5 else 0

/-- Send this device's join record, of its own accord or as the answer to the partner's. -/
def sendJoin (s : State) (answer : Bool) : State :=
  let r := joinRec s
  s.emit (.flit "JOIN_RECORD" [answer.toNat, r.role.toNat, r.isa, r.fwmajor, r.wymver, r.epoch.toNat, r.devid.toNat, r.fabric.toNat])

/-- EXCHANGE (R535). -/
def joinExchange (s : State) : State := { s with pair := { s.pair with state := 1, was := s.pair.joined, tried := s.time } }

/-- A join attempt starts, or starts again (R535): the record is sent. -/
def startJoin (s : State) : State := sendJoin (joinExchange s) false

/-- A pair-wide unit's PAIR, PECK and COUNT, told to the partner (R184, R539). -/
def barConfig (s : State) (u : Nat) : State :=
  let b := s.bar u
  s.emit (.flit "BARRIER_CONFIG" [u, b.pair.toNat, b.peck.toNat, b.count.toNat])

/-- TLOCK changes (R540). -/
def setTlock (s : State) (b : Bool) : State :=
  if s.pair.tlock = b then s
  else ({ s with pair := { s.pair with tlock := b } }).mgrEvent sevInfo evPairTimeLock (BitVec.ofNat 64 b.toNat)
    (BitVec.ofInt 64 (BitVec.ofNat 32 (bitsOf (s.reg rPairOffset) 0 32)).toInt)

/-- PAIR_JOIN items that wait for the attempt complete (R536). -/
def joinDone (s : State) (st : Status) (result : Nat) : State :=
  (s.items.filter fun i => i.typ == 0x0980#16 && i.phase == .committed).foldl (fun s i => s.completeItem i st (BitVec.ofNat 64 result) 0) s

/-- What the split does to pair-wide barrier units: each waiting context faults, and so does every later bar instruction (R184, R538). -/
def barSplit (s : State) : State :=
  let us := (s.barriers.filter fun b => b.1 < 256 && b.2.pair).map (·.1)
  let s := s.allCtx.foldl (fun s (c, x) => match x.wait with
    | .bar u _ => if us.contains u then s.faultCtx c stPairSplit 0 else s
    | _ => s) s
  us.foldl (fun s u => s.setBar u { s.bar u with split := true, remote := 0, mate := none }) s

/-- The device enters SPLIT (R537, R538): LEAVE on a link still up, saying whether the manager asked; when the pair was joined, the split is
counted and raised and acts on the pair functions. -/
def pairSplit (s : State) (cause : Nat) : State :=
  if s.pair.state = 0 ∨ s.pair.state = 3 then s
  else
    let was := s.pair.joined
    let s := { s with pair := { s.pair with state := 3, cause := cause, was := false, good := 0 } }
    let s := if s.pair.up then s.emit (.flit "LEAVE" [(cause == pairManager).toNat]) else s
    let s := if was then
        let s := s.bump rPairSplits 1
        let s := s.mgrEvent sevWarn evPairSplit (BitVec.ofNat 64 cause) (s.reg rPairPeer)
        setTlock (ckptSplit (barSplit s)) false
      else s
    joinDone s stPairSplit cause

end Sys2Proof.Machine
end

