-- ==== Sys2Proof/Machine/Pecks.lean ====
section
/-!
DEFINITION. Pecks (R322 to R346): resource pools, the manager commands and their checks, handles, the transitions, meter records, attestation
and barrier-unit writes.
-/

namespace Sys2Proof.Machine

/-! ## Units of the pools (R322, R323) -/

/-- The five kinds of unit that PECK_GRANT moves. -/
inductive Res where
  | engines | grains | gills | keys | endpoints
deriving DecidableEq, Repr

def resOf : Nat → Res
  | 0 => .engines | 1 => .grains | 2 => .gills | 3 => .keys | _ => .endpoints

/-- Units of a kind on the device. -/
def Res.total : Res → Nat
  | .engines => 128 | .grains => 196608 | .gills => 8192 | .keys => 4096 | .endpoints => 4096

/-- Gills that firmware reserves: the highest 64 of each slice (R323). -/
def gillReserved (n : Nat) : Bool := decide (n % 1024 ≥ 960)

/-- The Peck that holds a unit, 0 when none. -/
def unitPeck (s : State) (r : Res) (n : Nat) : Nat :=
  let by_ (f : Peck → Nat) : Nat := ((s.pecks.find? fun e => (f e.2).testBit n).map (·.1)).getD 0
  match r with
  | .engines => (s.eng n).peck.toNat
  | .grains => by_ (·.grains)
  | .gills => by_ (·.gills)
  | .keys => by_ (·.keys)
  | .endpoints => (s.ep n).peck

/-- Whether the pool holds a unit: it exists, is not reserved or retired (R441), and an engine is available. -/
def unitFree (s : State) (r : Res) (n : Nat) : Bool :=
  decide (n < r.total) && unitPeck s r n == 0 &&
  (match r with
    | .engines => (s.eng n).avail
    | .grains => !grainReserved n && !grainMirror s n && !s.intg.grains.contains n
    | .gills => !gillReserved n && !s.intg.gills.contains n
    | _ => true)

/-- The memory of a unit: first byte and length; none for a key slot or endpoint. -/
def unitMem (r : Res) (n : Nat) : Nat × Nat :=
  match r with
  | .engines => (poolAt n, 0x200000)
  | .grains => (n * 0x200000, 0x200000)
  | .gills => (mereBase + n * 0x10000, 0x10000)
  | _ => (0, 0)

/-- An engine is withdrawn from the pool (R25). -/
def withdraw (s : State) (e : Nat) : State :=
  if (s.eng e).avail then (s.updEng e fun x => { x with avail := false }).mgrEvent sevWarn evEngWithdrawn (BitVec.ofNat 64 e) 0 else s

/-- The engine holds no context and is being reset or unassigned: a pending row test runs, and failed rows take the spare there is; without one, or
after a Pool word line found none, the engine is withdrawn (R25, R439, R440). -/
def rowTest (s : State) (e : Nat) : State :=
  let r := rIntgPool e
  let code := BitVec.ofNat 64 (0x04 + e * 256)
  let s :=
    if bitsOf (s.reg r) 55 1 = 0 then s
    else
      let n := (s.eng e).badRows
      let s := (s.setRegField r 55 1 0).updEng e fun x => { x with badRows := 0 }
      if n = 0 then s.mgrEvent sevInfo evFaultTransient code 0
      else
        let spare := bitsOf (s.reg r) 54 1
        let s := if spare = 1 then (s.setRegField r 54 1 0).mgrEvent sevInfo evRepaired code 0 else s
        if n ≤ spare then s else withdraw (s.mgrEvent sevWarn evSparesOut code 0) e
  if (s.eng e).poolBad then withdraw s e else s

/-- Give a unit to a Peck, or to the pool for 0; its words become zero and NIL (R323). -/
def moveUnit (s : State) (r : Res) (n p : Nat) : State :=
  let old := unitPeck s r n
  let (a, len) := unitMem r n
  let s := if len = 0 then s else s.zeroMem a len
  let bit (x : Nat) (on : Bool) : Nat := if on = x.testBit n then x else if on then x + 2 ^ n else x - 2 ^ n
  let mark (s : State) (q : Nat) (on : Bool) : State :=
    if q = 0 then s
    else s.updPeck q fun x => match r with
      | .grains => { x with grains := bit x.grains on }
      | .gills => { x with gills := bit x.gills on }
      | .keys => { x with keys := bit x.keys on }
      | .endpoints => { x with eps := bit x.eps on }
      | .engines => x
  let s := mark (mark s old false) p true
  match r with
  | .engines =>
    let s := s.updEng n fun x => { x with peck := BitVec.ofNat 8 p }
    if p = 0 then rowTest s n else s
  | .endpoints => s.setEp n { s.ep n with peck := p, posts := [] }
  | .keys => if p = 0 then s.setKey n KeySlot.reset else s.setKey n { s.key n with peck := p }
  | _ => s

/-- The units that a grant or release names. -/
def namedUnits (r : Res) (w1 w2 : Word) : List Nat :=
  match r with
  | .engines => (List.range 128).filter fun e => (if e < 64 then w1.getLsbD e else w2.getLsbD (e - 64))
  | _ => (List.range w2.toNat).map fun k => w1.toNat + k

/-- Whether a range of FIRST and COUNT lies among the units of its kind. -/
def unitsExist (r : Res) (w1 w2 : Word) : Bool :=
  match r with
  | .engines => true
  | _ => decide (w1.toNat + w2.toNat ≤ r.total)

/-- A valid LOCAL entry covers part of a range. -/
def covered (s : State) (a len : Nat) : Bool :=
  s.regions.any fun e => e.2.live && e.2.kind == .local_ && overlaps e.2.base.toNat e.2.len.toNat a len

/-- Release of a unit is refused while it is in use (R330, IN_USE). -/
def unitInUse (s : State) (r : Res) (n : Nat) : Bool :=
  let (a, len) := unitMem r n
  decide (0 < len) && covered s a len ||
  (match r with
    | .engines => decide (residents s n ≠ 0)
    | .keys => (List.range 1024).any fun k => saValid s k && saSlot s k == n
    | .endpoints => (s.ep n).posts != []
    | _ => false)

/-! ## Recovery's resets (R523) -/

def evRecovered : BitVec 16 := 0x0A03#16

/-- Resets of a level that escalation entered, for the units that `hit` names by counter code, complete: RECOVERED (R523). -/
def recovered (s : State) (level : Nat) (hit : Word → Bool) : State :=
  let (mine, rest) := s.rcv.escals.partition fun (x : Nat × Word × Nat) => x.1 == level && hit x.2.1
  mine.foldl (fun s x => s.mgrEvent sevInfo evRecovered (BitVec.ofNat 64 level) x.2.1) { s with rcv := { s.rcv with escals := rest } }

/-! ## Engine time and meter records (R342, R343) -/

/-- Count the engine time of a Peck up to now. -/
def meterTick (s : State) (p : Nat) : State :=
  let n := (s.heldEngines p).length
  s.updPeck p fun x => { x with meter := { x.meter with engus := x.meter.engus + n * (s.time - x.meter.engAt), engAt := s.time } }

/-- Bits set among the low n. -/
def popBits (n x : Nat) : Nat := ((List.range n).filter fun k => x.testBit k).length

/-- Write closed meter records while the ring has room (R342). -/
def meterWrite : Nat → State → State
  | 0, s => s
  | fuel + 1, s =>
    let cfg := s.reg rMtrCfg
    let log2 := bitsOf cfg 0 5
    let pi := bitsOf (s.reg rMtrPi) 0 32
    let ci := bitsOf (s.reg rMtrCi) 0 32
    match s.mtr with
    | [] => s
    | r :: rest =>
      if bitsOf cfg 8 1 = 0 ∨ (pi + 2 ^ 32 - ci) % 2 ^ 32 ≥ 2 ^ log2 ∨ !s.canSend 0 then s
      else
        let s := mgrWrite { s with mtr := rest } (s.reg rMtrBase + BitVec.ofNat 64 (pi % 2 ^ log2 * 320)) r
        let s := s.setReg rMtrPi (BitVec.ofNat 64 ((pi + 1) % 2 ^ 32))
        meterWrite fuel (s.mgrEvent sevInfo evMeter (s.reg rMtrPi) 0)

/-- Close a Peck's meter record and sign it (R342, R343). The record closed at creation is the first, and the interval after it begins at creation
too. -/
def closeMeter (s : State) (p : Nat) (partial_ : Bool) : State :=
  let s := meterTick s p
  let x := s.peck p
  let m := x.meter
  let body := bytesOf 2 0x0100 ++ bytesOf 1 1 ++ bytesOf 1 p ++
    bytesOf 4 ((partial_ || m.fresh).toNat + 2 * m.gap.toNat + 4 * m.stepped.toNat) ++ bytesOf 8 devIdNum ++ bytesOf 8 m.seq ++ bytesOf 8 m.start ++
    bytesOf 8 s.time ++ bytesOf 8 (m.engus / 1000) ++ ((List.range 8).flatMap fun c => bytesOf 8 (tblGet 0 m.tx c)) ++ bytesOf 8 m.rx ++
    bytesOf 8 m.crypto ++ bytesOf 8 m.storrd ++ bytesOf 8 m.storwr ++ bytesOf 8 m.storops ++ bytesOf 4 (popBits 196608 x.grains) ++
    bytesOf 4 (popBits 8192 x.gills) ++ bytesOf 48 m.prev.toNat ++ zeros 16
  let (s, sig) := ecdsaSign s body
  let r := body ++ sig
  let s := s.updPeck p fun y => { y with meter := { Meter.reset with
    seq := m.seq + 1, start := s.time, prev := BitVec.ofNat 384 (natOfBytes (ofNats (sha384 (toNats r)))), fresh := m.seq == 0, engAt := s.time } }
  -- a full store discards its oldest record, and that Peck's next record carries GAP
  let s := if s.mtr.length < 1024 then { s with mtr := s.mtr ++ [r] }
    else
      let q := match s.mtr with
        | o :: _ => recNum o 3 1
        | [] => 0
      { s with mtr := s.mtr.drop 1 ++ [r] }.updPeck q fun y => { y with meter := { y.meter with gap := true } }
  meterWrite 1024 s

/-- METER_MINUTE: a minute boundary of device time has passed: every Peck that is not FREE closes a record (R342). No effect before. -/
def execMeterMinute (s : State) : Host.Outcome State Fault Refusal :=
  .next (
    if s.time / 60000000000 ≤ s.minute then s
    else
      let s := { s with minute := s.time / 60000000000 }
      ((List.range 256).filter fun p => p ≠ 0 ∧ (s.peck p).state ≠ .free).foldl (fun s p => closeMeter s p false) s)

/-- PECK_MTRCI_WRITE: records are consumed, and held ones may be written (R342). -/
def execPeckMtrciWrite (part : RegPart) (v : Word) (s : State) : Host.Outcome State Fault Refusal :=
  whenReady s (
    if part = .high then s
    else meterWrite 1024 (s.setReg rMtrCi (BitVec.ofNat 64 (bitsOf (mergePart part (s.reg rMtrCi) v) 0 32))))

/-- PECK_LOGRD_WRITE: log entries are consumed, and the repeat filter starts anew (R339). -/
def execPeckLogrdWrite (p : Fin 256) (part : RegPart) (v : Word) (s : State) : Host.Outcome State Fault Refusal :=
  whenReady s (
    if part = .high ∨ p.val = 0 then s
    else s.updPeck p.val fun x => { x with logrd := BitVec.ofNat 32 (bitsOf v 0 32), filter := [] })

/-! ## The commands' checks (R328 to R331) -/

/-- REASON codes (R330). -/
def rsnState : Nat := 0x01
def rsnNumber : Nat := 0x02
def rsnFunction : Nat := 0x03
def rsnNotFree : Nat := 0x04
def rsnNotHeld : Nat := 0x05
def rsnInUse : Nat := 0x06
def rsnQuota : Nat := 0x07
def rsnReserved : Nat := 0x08
def rsnOccupied : Nat := 0x09
def rsnEmpty : Nat := 0x0A
def rsnRights : Nat := 0x0B
def rsnLoggers : Nat := 0x0C
def rsnAuth : Nat := 0x0D
def rsnShape : Nat := 0x0E
def rsnSpace : Nat := 0x0F
def rsnNoEntry : Nat := 0x10

/-- The status of a reason (R330). -/
def reasonStatus (r : Nat) : Status := if r = 0 then stOk else if r = rsnState then stFenced else if r = rsnOccupied then stDuplicate else stRights

/-- A refused command completes with its reason (R330). -/
def State.refuse (s : State) (i : Item) (r : Nat) : State := s.completeItem i (reasonStatus r) (BitVec.ofNat 64 r) 0

/-- The Peck that a command names. -/
def cmdPeck (i : Item) : Nat := bitsOf (i.w 0) 0 8

/-- Commands of one Peck run one at a time, in submission order; a running PECK_QUIESCE lets later ones run (R331). -/
def cmdTurn (s : State) (i : Item) : Bool :=
  s.items.all fun j => j.fn != 0 || !(within 0x0500 0x050D j.typ.toNat) || cmdPeck j != cmdPeck i || decide (i.id ≤ j.id) ||
    (j.typ == 0x0505#16 && j.phase == .active)

/-- A command on one Peck: its turn, NUMBER, STATE, then its own checks and effect (R328). -/
def peckCmd (id t : Nat) (ok : PeckState → Bool) (s : State) (k : Item → Nat → State) : Host.Outcome State Fault Refusal :=
  .next (s.request id t fun i =>
    let p := cmdPeck i
    if !cmdTurn s i then s
    else if p = 0 then s.refuse i rsnNumber
    else if !ok (s.peck p).state then s.refuse i rsnState
    else k i p)

def whenMapped (x : PeckState) : Bool := x == .active || x == .quiescing || x == .quiesced
def whenQuiesced (x : PeckState) : Bool := x == .quiesced
def whenStopped (x : PeckState) : Bool := x == .quiesced || x == .disabled

/-! ## Creation, grants and release -/

/-- The region-table entry of a Peck's directory (R325). -/
def dirEntry (p : Nat) : Nat := 0xFF000 + p

/-- Mint directory entry 0 (R327, R334): a handle of the directory itself, with RD. -/
def mintDir (s : State) (p : Nat) : State :=
  let k := dirEntry p
  let s := s.setRegion k { s.region k with used := true, kind := .local_, peck := BitVec.ofNat 8 p, base := BitVec.ofNat 64 (dirBase p), len := 0x8000,
                                           rights := 1, parent := none, pgen := 0, aux := 0 }
  (s.zeroMem (dirBase p) 0x8000).putWord (dirBase p) ⟨mkHandle k (s.region k).gen 1, Tag.handle⟩

/-- A VF number of a PF that some VH owns (R352): `hi` is 0 for PF0 and 16 for PF1. -/
def vfOwned (s : State) (vf hi : Nat) : Bool :=
  (List.range 4).any fun v => decide (bitsOf (s.reg (rVhCfg v)) hi 8 ≤ vf) &&
    decide (vf < bitsOf (s.reg (rVhCfg v)) hi 8 + bitsOf (s.reg (rVhCfg v)) (hi + 8) 8)

/-- A change of PECK_EPOCH during a join attempt makes it start again (R535). -/
def epochUp (s : State) : State :=
  let s := s.bump rEpoch 1
  if s.pair.state = 1 then startJoin s else s

/-- PECK_CREATE (R328, R330). -/
def execPeckCreate (id : Nat) (s : State) : Host.Outcome State Fault Refusal :=
  peckCmd id 0x0500 (· == .free) s fun i p =>
    let vf0 := bitsOf (i.w 0) 8 8
    let vf1 := bitsOf (i.w 0) 16 8
    let other (f : Peck → Nat) (v : Nat) : Bool := s.pecks.any fun e => e.1 != p && e.2.state != .free && f e.2 == v
    if other (·.vf0) vf0 ∨ vfOwned s vf0 0 = false ∨ (vf1 ≠ 0 ∧ (other (·.vf1) vf1 ∨ vfOwned s vf1 16 = false)) then s.refuse i rsnFunction
    else
      let x := s.peck p
      let s := s.setPeck p { Peck.reset with
        state := .quiesced, vf0 := vf0, vf1 := vf1, roots := x.roots, trk := x.trk, cache := x.cache,
        meter := { Meter.reset with start := s.time, engAt := s.time } }
      (epochUp (closeMeter (mintDir s p) p true)).done i stOk

/-- PECK_GRANT: units that the Peck holds stay as they are; the pool's are zeroed and moved (R323, R330). -/
def execPeckGrant (id : Nat) (s : State) : Host.Outcome State Fault Refusal :=
  peckCmd id 0x0501 whenMapped s fun i p =>
    let r := resOf (bitsOf (i.w 0) 8 8)
    if unitsExist r (i.w 1) (i.w 2) = false then s.refuse i rsnNotFree
    else
      let us := (namedUnits r (i.w 1) (i.w 2)).filter fun n => unitPeck s r n ≠ p
      if us.any fun n => !unitFree s r n then s.refuse i rsnNotFree
      else (us.foldl (fun s n => moveUnit s r n p) (meterTick s p)).done i stOk

/-- PECK_RELEASE (R323, R330). -/
def execPeckRelease (id : Nat) (s : State) : Host.Outcome State Fault Refusal :=
  peckCmd id 0x0502 whenMapped s fun i p =>
    let r := resOf (bitsOf (i.w 0) 8 8)
    if unitsExist r (i.w 1) (i.w 2) = false then s.refuse i rsnNotHeld
    else
      let us := namedUnits r (i.w 1) (i.w 2)
      if us.any fun n => unitPeck s r n != p then s.refuse i rsnNotHeld
      else if us.any fun n => unitInUse s r n then s.refuse i rsnInUse
      else (us.foldl (fun s n => moveUnit s r n 0) (meterTick s p)).done i stOk

/-! ## Handles (R335 to R338) -/

/-- An entry number of the root ranges (R325). -/
def isRoot (k : Nat) : Bool := within 1 0x7FFF k || within 0x28000 0xFEFFF k

/-- Root entries of a Peck in use (R346). -/
def rootsUsed (s : State) (p : Nat) : Nat := (s.regions.filter fun e => isRoot e.1 && e.2.used && e.2.peck.toNat == p).length

/-- The lowest-numbered free root entry from k on (R325); `fuel` bounds the search. -/
def freeRootFrom (s : State) : Nat → Nat → Option Nat
  | 0, _ => none
  | fuel + 1, k =>
    if k > 0xFEFFF then none
    else if k = 0x8000 then freeRootFrom s fuel 0x28000
    else if (s.region k).used || (s.region k).retired then freeRootFrom s fuel (k + 1)
    else some k

def freeRoot (s : State) : Option Nat := freeRootFrom s (s.regions.length + 2) 1

/-- Whether each byte of a LOCAL range lies in a unit that a Peck holds (R335). -/
def rangeHeld (s : State) (p a len : Nat) : Bool :=
  let all (r : Res) (b sz : Nat) : Bool := (List.range ((a + len - 1 - b) / sz - (a - b) / sz + 1)).all fun k => unitPeck s r ((a - b) / sz + k) == p
  if a < hbmTop then all .grains 0 0x200000
  else if a < poolBase then all .gills mereBase 0x10000
  else all .engines poolBase 0x200000

/-- What a mint makes of BASE and LENGTH: a reason, or the region's base and `aux` (R335). -/
def mintRange (s : State) (i : Item) (p : Nat) (kind : HKind) : Except Nat (Word × Word) :=
  let b := i.w 1
  let len := (i.w 2).toNat
  match kind with
  | .local_ =>
    if rangeExists b.toNat len = false then .error rsnReserved
    else if b.toNat % 8 ≠ 0 ∨ len % 8 ≠ 0 ∨ rangeHeld s p b.toNat len = false then .error rsnNotHeld
    else .ok (b, 0)
  | .host => if b.toNat + len ≤ 2 ^ 64 then .ok (b, 0) else .error rsnNotHeld
  | .accel =>
    let g := bitsOf (i.w 3) 0 4
    if s.windows.any fun w => w.1 / 4 == g && decide (w.2.1 ≤ b.toNat) && decide (b.toNat + len ≤ w.2.2) then .ok (b, BitVec.ofNat 64 g) else .error rsnNotHeld
  | .remote =>
    let sa := bitsOf b 0 10
    if saValid s sa && saPeck s sa == p then .ok (0, b) else .error rsnNotHeld
  | .volume =>
    let v := b.toNat
    if v < 1024 ∧ volEn s v ∧ volPeck s v = p ∧ len % 4096 = 0 ∧ len ≤ volBlocks s v * 4096 then .ok (0, b) else .error rsnNotHeld

/-- Rights that a kind does not permit (R335). -/
def badRights : HKind → List Nat
  | .local_ => []
  | .remote => [rightEx]
  | _ => [rightEx, rightAtom]

def kindOf : Nat → HKind
  | 0 => .local_ | 1 => .host | 2 => .accel | 3 => .remote | _ => .volume

/-- Write a word of a Peck's directory. -/
def putDir (s : State) (p k : Nat) (w : TWord) : State := s.putWord (dirBase p + 8 * k) w

/-- The key that a mint returns (R335). -/
def mintKey (k : Nat) (gen : BitVec 16) : Word := BitVec.ofNat 64 (k + gen.toNat * 2 ^ 24)

/-- PECK_MINT (R335). -/
def execPeckMint (id : Nat) (s : State) : Host.Outcome State Fault Refusal :=
  peckCmd id 0x0503 whenMapped s fun i p =>
    let kind := kindOf (bitsOf (i.w 0) 8 8)
    let dir := bitsOf (i.w 0) 16 16
    let rights := BitVec.ofNat 8 (bitsOf (i.w 0) 32 8)
    if (s.dirWord p dir).tag ≠ Tag.nil then s.refuse i rsnOccupied
    else match mintRange s i p kind with
      | .error r => s.refuse i r
      | .ok (base, aux) =>
        if (badRights kind).any fun r => rights.getLsbD r then s.refuse i rsnRights
        else if rootsUsed s p ≥ (s.peck p).roots then s.refuse i rsnQuota
        else match freeRoot s with
          | none => s.refuse i rsnNoEntry
          | some k =>
            let gen := (s.region k).gen
            let s := s.setRegion k { used := true, retired := false, kind := kind, peck := BitVec.ofNat 8 p, base := base, len := i.w 2,
                                     rights := rights, gen := gen, parent := none, pgen := 0, aux := aux,
                                     rkey := if kind = .remote then BitVec.ofNat 40 (bitsOf (i.w 3) 0 40) else 0,
                                     raddr := if kind = .remote then BitVec.ofNat 128 ((i.w 4).toNat + (i.w 5).toNat * 2 ^ 64) else 0 }
            (putDir s p dir ⟨mkHandle k gen rights, Tag.handle⟩).completeItem i stOk (mintKey k gen) 0

/-- The last step of a revocation by a command (R337): roots are freed, the directory entry becomes NIL, and the item completes. -/
def endRevoke (s : State) (r : Revoke) : State :=
  let s := putDir (revokeFree { s with revokes := s.revokes.erase r } r.ents) r.peck r.dir TWord.zero
  match s.item r.item with
  | some i => s.done i stOk
  | none => s

/-- Revoke the entry that a directory word names, when the word is current (R337). The item completes once nothing is in progress that passed its check
against an old generation. -/
def revokeDir (s : State) (i : Item) (p dir : Nat) : State :=
  let w := s.dirWord p dir
  if (s.current w.bits).isSome ∧ w.tag = Tag.handle then
    let (s, es) := revokeSteps s [hIndex w.bits]
    let r : Revoke := ⟨i.id, p, dir, es⟩
    if es.any (entryInUse s) then { s.setPhase i.id .committed with revokes := s.revokes ++ [r] } else endRevoke s r
  else (putDir s p dir TWord.zero).done i stOk

/-- A revocation of a directory entry of a Peck is in progress: tenant requests that name the entry wait for its end (R331). -/
def dirBusy (s : State) (p dir : Nat) : Bool := s.revokes.any fun r => r.peck == p && r.dir == dir

/-- A revocation under way goes on when its row is given again. -/
def revokeAgain (s : State) (id : ItemId) (k : Host.Outcome State Fault Refusal) : Host.Outcome State Fault Refusal :=
  match s.revokes.find? fun r => r.item == id with
  | some r => .next (if r.ents.any (entryInUse s) then s else endRevoke s r)
  | none => k

/-- PECK_REVOKE (R337). -/
def execPeckRevoke (id : Nat) (s : State) : Host.Outcome State Fault Refusal :=
  revokeAgain s id (peckCmd id 0x0504 whenMapped s fun i p =>
    let dir := bitsOf (i.w 0) 16 16
    if dirBusy s p dir then s
    else if (s.dirWord p dir).tag = Tag.nil then s.refuse i rsnEmpty
    else revokeDir s i p dir)

/-- PECK_HPLACE (R336). -/
def execPeckHplace (id : Nat) (s : State) : Host.Outcome State Fault Refusal :=
  .next (s.request id 0x0510 fun i => if dirBusy s i.fn (bitsOf (i.w 0) 0 12) then s else
    let s := s.settle (dirBase i.fn + 8 * bitsOf (i.w 0) 0 12) 8
    let w := s.dirWord i.fn (bitsOf (i.w 0) 0 12)
    let src := resolve s w
    let dst := i.ref 0
    let bad := firstBad [src.st, dst.check [.local_] [rightWr]]
    if bad ≠ stOk then s.done i bad
    else if dst.loc.holds (i.w 2) 8 8 = false then s.done i stRights
    else
      let (s, code) := placeWord s (dst.loc.base.toNat + (i.w 2).toNat) w
      s.done i (if code then stTag else stOk))

/-- PECK_HDERIVE (R336). -/
def execPeckHderive (id : Nat) (s : State) : Host.Outcome State Fault Refusal :=
  .next (s.request id 0x0511 fun i =>
    let p := i.fn
    if dirBusy s p (bitsOf (i.w 0) 0 12) then s else
    let s := s.settle (dirBase p + 8 * bitsOf (i.w 0) 0 12) 8
    let w := s.dirWord p (bitsOf (i.w 0) 0 12)
    let dst := bitsOf (i.w 0) 16 12
    let src := resolve s w
    let r := s.region (hIndex w.bits)
    if src.st ≠ stOk then s.done i src.st
    else if hasRight w.bits rightDrv = false then s.refuse i rsnRights
    else if deriveOk r (i.w 1).toNat (i.w 2).toNat = false then s.done i stRights
    else if (s.dirWord p dst).tag ≠ Tag.nil then s.refuse i rsnOccupied
    else if rootsUsed s p ≥ (s.peck p).roots then s.refuse i rsnQuota
    else match freeRoot s with
      | none => s.refuse i rsnNoEntry
      | some k =>
        let gen := (s.region k).gen
        let rights := hRights w.bits &&& BitVec.ofNat 8 (bitsOf (i.w 0) 32 8)
        let s := s.setRegion k { r with used := true, retired := false, base := r.base + i.w 1, len := i.w 2, rights := rights, gen := gen,
                                        parent := some (hIndex w.bits), pgen := r.gen }
        (putDir s p dst ⟨mkHandle k gen rights, Tag.handle⟩).done i stOk)

/-- PECK_HDROP: the directory entry must be a current handle; an entry made by PECK_HDERIVE is revoked, any other only leaves the directory
(R336). -/
def execPeckHdrop (id : Nat) (s : State) : Host.Outcome State Fault Refusal :=
  revokeAgain s id (.next (s.request id 0x0512 fun i =>
    let dir := bitsOf (i.w 0) 0 12
    if dirBusy s i.fn dir then s
    else
      let s := s.settle (dirBase i.fn + 8 * dir) 8
      let w := s.dirWord i.fn dir
      let src := resolve s w
      if w.tag = Tag.nil then s.refuse i rsnEmpty
      else if src.st ≠ stOk then s.done i src.st
      else if isRoot (hIndex w.bits) && (s.region (hIndex w.bits)).parent.isSome then revokeDir s i i.fn dir
      else (putDir s i.fn dir TWord.zero).done i stOk))

/-! ## Quiesce, resume and disable (R331 to R333) -/

/-- Nothing of a Peck runs any more (R332). -/
def drained (s : State) (p : Nat) : Bool :=
  !(s.items.any fun i => i.fn == p) && ((s.heldEngines p).all fun e => residents s e == 0 && (s.eng e).queues.all fun q => q.2.isEmpty) &&
  !(s.colls.any fun c => c.peck == p) && !(s.seqs.any fun e => e.peck == p && (e.step.isSome || !e.queue.isEmpty)) &&
  !(s.ckpts.any fun c => c.peck == p && c.item.isSome) && !(s.feeds.any fun f => f.peck == p) && !(s.msgs.any fun m => m.peck == p) &&
  (s.nvme p).cmds.isEmpty &&
  ((List.range 4).all fun q => let c := s.cq (4 * p + q); !c.en || c.stopped || c.pi == c.ci)

/-- A running quiesce ends with a status. -/
def endQuiesce (s : State) (p : Nat) (st : Status) : State :=
  match (s.peck p).quiesce with
  | none => s
  | some (id, _) =>
    let s := s.updPeck p fun x => { x with quiesce := none }
    match s.item id with
    | some i => s.done i st
    | none => s

/-- PECK_QUIESCE: dispatch stops, and the running work drains (R331, R332). -/
def execPeckQuiesce (id : Nat) (s : State) : Host.Outcome State Fault Refusal :=
  peckCmd id 0x0505 (· == .active) s fun i p =>
    (s.updPeck p fun x => { x with state := .quiescing, quiesce := some (id, s.time + bitsOf (i.w 0) 32 32 * 1000000) }).setPhase id .active

/-- PECK_QUIESCED: the Peck's work has drained, and the quiesce completes (R332). No effect before. -/
def execPeckQuiesced (p : Fin 256) (s : State) : Host.Outcome State Fault Refusal :=
  .next (if (s.peck p.val).state = .quiescing ∧ drained s p.val then
    endQuiesce (s.updPeck p.val fun x => { x with state := .quiesced }) p.val stOk else s)

/-- QUIESCE_WAIT_EXPIRY: WAIT has run out, and what has not completed is fenced with ST_FENCED (R332). No effect before. -/
def execQuiesceWaitExpiry (p : Fin 256) (s : State) : Host.Outcome State Fault Refusal :=
  .next (match (s.peck p.val).quiesce with
  | some (_, t) =>
    if (s.peck p.val).state = .quiescing ∧ t ≤ s.time then
      settleAll ((List.range 4).foldl (fun s q => fenceCipher s p.val q stFenced 4097) (fencePeck s p.val stFenced))
    else s
  | none => s)

/-- PECK_RESUME (R328). -/
def execPeckResume (id : Nat) (s : State) : Host.Outcome State Fault Refusal :=
  peckCmd id 0x0506 whenQuiesced s fun i p => (s.updPeck p fun x => { x with state := .active }).done i stOk

/-- A Peck is disabled: its work and ring items end with a status, and it stands DISABLED (R332, R333, R372). -/
def disablePeck (s : State) (p : Nat) (st : Status) : State :=
  let s := dropCipher (fenceRings (fencePeck s p st) p st) p
  let s := s.setNvme p { s.nvme p with cfs := true }
  endQuiesce (s.updPeck p fun x => { x with state := .disabled }) p stFunctionDisabled

/-- PECK_DISABLE (R333). -/
def execPeckDisable (id : Nat) (s : State) : Host.Outcome State Fault Refusal :=
  peckCmd id 0x0507 whenMapped s fun i p => settleAll ((disablePeck s p stFunctionDisabled).done i stOk)

/-! ## Reset and removal (R332, R337) -/

/-- Begin a reset or removal: what is left of the Peck's work is fenced, and its rings are emptied. -/
def beginReset (s : State) (p : Nat) (st : PeckState) (id : Option ItemId) : State :=
  let s := dropCipher (fenceRings (fencePeck s p stFenced) p stFenced) p
  s.updPeck p fun x => { x with state := st, doing := id }

/-- PECK_RESET (R328, R332). -/
def execPeckReset (id : Nat) (s : State) : Host.Outcome State Fault Refusal :=
  peckCmd id 0x0508 whenStopped s fun _ p => settleAll ((beginReset s p .resetting (some id)).setPhase id .active)

/-- PECK_REMOVE (R328, R332). -/
def execPeckRemove (id : Nat) (s : State) : Host.Outcome State Fault Refusal :=
  peckCmd id 0x0509 whenStopped s fun _ p => settleAll ((beginReset s p .removing (some id)).setPhase id .active)

/-- The units of a mask. -/
def maskUnits (n x : Nat) : List Nat := (List.range n).filter fun k => x.testBit k

/-- What a reset clears of a Peck (R332): engines, memory, entries, directory, groups, bindings, sequences, posted buffers, its controller. -/
def clearPeck (s : State) (p : Nat) : State :=
  let x := s.peck p
  let s := (s.heldEngines p).foldl (fun s e => clearEngine s e stFenced) s
  let s := (maskUnits 196608 x.grains).foldl (fun s g => s.zeroMem (g * 0x200000) 0x200000) s
  let s := (maskUnits 8192 x.gills).foldl (fun s g => s.zeroMem (mereBase + g * 0x10000) 0x10000) s
  let s := (s.revokes.filter fun r => r.peck == p).foldl endRevoke s
  let s := revokeEntries s ((s.regions.filter fun e => e.2.used && e.2.peck.toNat == p).map (·.1))
  let s := s.zeroMem (dirBase p) 0x8000
  let s := (maskUnits 4096 x.eps).foldl (fun s e => s.setEp e { s.ep e with posts := [] }) s
  let s := { s with groups := s.groups.filter fun g => g.peck ≠ p, bindings := s.bindings.filter fun b => b.peck ≠ p,
                    seqs := s.seqs.filter fun e => e.peck ≠ p, cqs := s.cqs.filter fun q => q.1 / 4 ≠ p }
  nvReset s p

/-- An engine that an enclosing reset has cleared: its row test, and the report of a reset of its own that the enclosing one absorbed (R35, R191). -/
def endEngReset (s : State) (e : Nat) : State :=
  let s := rowTest s e
  if (s.eng e).resetting then
    recovered ((s.updEng e fun x => { x with resetting := false }).mgrEvent sevInfo evEngResetDone (BitVec.ofNat 64 e) 0) 1 (fun c => bitsOf c 8 8 == e)
  else s

/-- The reset's or removal's item completes, and engine resets that it absorbed are reported (R35, R191). -/
def endReset (s : State) (p : Nat) : State :=
  let id := (s.peck p).doing
  let s := (s.heldEngines p).foldl endEngReset s
  let s := recovered (s.updPeck p fun x => { x with doing := none }) 2 (fun c => bitsOf c 16 8 == p)
  match id.bind s.item with
  | some i => s.done i stOk
  | none => s

/-- A Peck reset finishes: QUIESCED, with entry 0 of its directory minted again, which completes a quiesce still running (R331, R332). -/
def finishReset (s : State) (p : Nat) : State :=
  let s := mintDir (clearPeck s p) p
  endReset (endQuiesce (s.updPeck p fun x => { x with state := .quiesced, fenced := false }) p stOk) p

/-- PECK_RESET_DONE (R332). No effect on a Peck that is not RESETTING. -/
def execPeckResetDone (p : Fin 256) (s : State) : Host.Outcome State Fault Refusal :=
  .next (if (s.peck p.val).state = .resetting then settleAll (finishReset s p.val) else s)

/-- Change the Peck of a barrier unit (R185): the unit starts anew, and contexts waiting on it fault. -/
def barOwner (s : State) (u : Nat) (p : BitVec 8) (count : BitVec 12) (pair : Bool) : State :=
  let b := s.bar u
  let s := s.allCtx.foldl (fun s (c, x) =>
    let s := if tblGet false x.arrived u then s.updCtx c fun y => { y with arrived := tblSet false y.arrived u false } else s
    match x.wait with
    | .bar v _ => if v = u then s.faultCtx c stFenced 0 else s
    | _ => s) s
  s.setBar u { b with peck := p, phase := 0, arrived := 0, remote := 0, count := count, held := none, pair := pair, split := b.split && pair }

/-- Registers that name a removed Peck (R332): barrier units, queues, SAs, reduction and sampler settings, volumes. -/
def unbindPeck (s : State) (p : Nat) : State :=
  let s := (s.barriers.filter fun b => b.2.peck.toNat == p).foldl (fun s b =>
    barOwner s b.1 0 ((s.bar b.1).held.getD (s.bar b.1).count) (s.bar b.1).pair) s
  let s := s.regs.foldl (fun s (o, v) =>
    if 0x310000 ≤ o ∧ o < 0x330000 ∧ bitsOf v 8 8 = p then s.setReg o (putField (putField v 0 1 0) 8 8 0)
    else if 0x208000 ≤ o ∧ o < 0x20C000 ∧ o % 16 = 0 ∧ bitsOf v 16 8 = p then s.setReg o (putField (putField v 13 1 0) 16 8 0)
    else s) s
  let s := (s.setReg (rRedPeck p) 0).setReg (rGenPeck p) 0
  ((List.range 1024).filter fun v => volPeck s v == p).foldl (fun s v =>
    (s.setReg (rVol v) (putField (putField (s.reg (rVol v)) 0 1 0) 8 8 0)).setVol v { s.vol v with state := .off }) s

/-- A Peck's removal finishes: its units return to the pools, and it is FREE (R332, R448). -/
def finishRemove (s : State) (p : Nat) : State :=
  let s := clearPeck s p
  let s := closeMeter s p true
  let s := endReset s p
  let s := unbindPeck s p
  let x := s.peck p
  let s := (s.heldEngines p).foldl (fun s e => moveUnit s .engines e 0) s
  let s := (maskUnits 4096 x.keys).foldl (fun s k => moveUnit s .keys k 0) s
  let s := (maskUnits 4096 x.eps).foldl (fun s e => moveUnit s .endpoints e 0) s
  epochUp (s.setPeck p { Peck.reset with roots := x.roots, trk := x.trk, cache := x.cache })

/-- PECK_REMOVE_DONE (R332). No effect on a Peck that is not REMOVING. -/
def execPeckRemoveDone (p : Fin 256) (s : State) : Host.Outcome State Fault Refusal :=
  .next (if (s.peck p.val).state = .removing then settleAll (finishRemove s p.val) else s)

/-! ## Dirty-page logging (R339) -/

/-- Pecks that log. -/
def loggers (s : State) (p : Nat) : Nat := (s.pecks.filter fun e => e.2.logging && e.1 != p).length

/-- PECK_LOG START (R339). An item with OP STOP is PECK_LOG_STOP's. -/
def execPeckLogStart (id : Nat) (s : State) : Host.Outcome State Fault Refusal :=
  if (s.item id).any fun i => bitsOf (i.w 0) 8 8 != 0 then .next s
  else peckCmd id 0x050A whenMapped s fun i p =>
    if loggers s p ≥ 4 then s.refuse i rsnLoggers
    else (s.updPeck p fun x => { x with logging := true, logovf := false, logBase := i.w 1, logLog2 := bitsOf (i.w 0) 32 32, filter := [] }).done i stOk

/-- PECK_LOG STOP (R339). An item with OP START is PECK_LOG_START's. -/
def execPeckLogStop (id : Nat) (s : State) : Host.Outcome State Fault Refusal :=
  if (s.item id).any fun i => bitsOf (i.w 0) 8 8 == 0 then .next s
  else peckCmd id 0x050A whenMapped s fun i p => (s.updPeck p fun x => { x with logging := false, logovf := false }).done i stOk

/-! ## Attestation (R344, R499) -/

/-- A chain of component digests (R499). -/
def measure (b : Option Bundle) : List Byte :=
  match b with
  | none => zeros 48
  | some b =>
    let d (t : Nat) : List Byte := ((b.comps.find? fun c => c.1 == t).map (·.2)).getD (zeros 48)
    ([6, 1, 2, 3, 4, 5].map d ++ [match b.board with
      | some bs => ofNats (sha384 (toNats bs))
      | none => zeros 48]).foldl (fun m x => ofNats (sha384 (toNats (m ++ x)))) (zeros 48)

/-- The images in force, group by group: a group that has switched runs the staged one (R499, R503). -/
def inForce (s : State) : Option Bundle :=
  s.fw.run.map fun r =>
    let pick (c : Nat × List Byte) : Nat × List Byte :=
      if s.fw.switched.contains c.1 then ((s.fw.staged.bind fun b => b.comps.find? fun d => d.1 == c.1).getD c) else c
    { r with comps := r.comps.map pick }

/-- PECK_STAT.STATE codes (R327). -/
def peckStateCode : PeckState → Nat
  | .free => 0 | .active => 1 | .quiescing => 2 | .quiesced => 3 | .disabled => 4 | .resetting => 5 | .removing => 6

/-- Bytes 0 to 255 of a report (R344). -/
def reportHead (s : State) (p : Nat) (nonce : List Byte) : List Byte :=
  let x := s.peck p
  let es := s.heldEngines p
  let held : List Byte :=
    if p = 0 then zeros 32
    else bytesOf 16 (es.foldl (fun n e => n + 2 ^ e) 0) ++ bytesOf 4 (popBits 196608 x.grains) ++ bytesOf 4 (popBits 8192 x.gills) ++
      bytesOf 2 (popBits 4096 x.keys) ++ bytesOf 2 (popBits 4096 x.eps) ++ bytesOf 1 x.vf0 ++ bytesOf 1 x.vf1 ++ bytesOf 2 (peckStateCode x.state)
  bytesOf 2 0x0100 ++ bytesOf 1 2 ++ bytesOf 1 p ++ bytesOf 4 (if p = 0 then 0 else x.logging.toNat + 2 * x.exported.toNat + 4 * x.imported.toNat) ++
  bytesOf 8 devIdNum ++ bytesOf 8 s.time ++ bytesOf 8 (s.reg rEpoch).toNat ++ padTo 32 nonce ++ measure s.fw.boot ++ measure (inForce s) ++ held ++ zeros 64

/-- PECK_ATTEST (R344): on a manager ring of any Peck or the device, on a Peck ring of the Peck itself. -/
def execPeckAttest (id : Nat) (s : State) : Host.Outcome State Fault Refusal :=
  .next (s.request id 0x050D fun i =>
    let nonce := [2, 3, 4, 5].flatMap fun k => bytesOf 8 (i.w k).toNat
    if i.fn = 0 then
      if !cmdTurn s i then s
      else
        let h := reportHead s (cmdPeck i) nonce
        let (s, sig) := ecdsaSign s h
        (mgrWrite s (i.w 1) (h ++ sig)).done i stOk
    else
      let r := i.ref 0
      let bad := r.check [.host] [rightWr]
      if bad ≠ stOk then s.done i bad
      else if r.loc.holds 0 352 1 = false then s.done i stRights
      else
        let h := reportHead s i.fn nonce
        let (s, sig) := ecdsaSign s h
        let (s, st) := svcWrite s i.fn r.loc 0 (h ++ sig) Tag.nil
        s.done i st)

/-! ## Engine resets and barrier units (R185, R187, R191, R192, R326) -/

/-- ENG_CTL_RESET: a write of RESET requests an engine reset (R191). One during a reset of the engine or of its Peck is absorbed (R35). -/
def execEngCtlReset (e : Fin 128) (part : RegPart) (v : Word) (s : State) : Host.Outcome State Fault Refusal :=
  whenReady s (
    if bitsOf (mergePart part 0 v) 0 1 = 0 ∨ (s.eng e.val).resetting then s
    else
      let p := (s.eng e.val).peck.toNat
      let s := { s with replays := s.replays.filter fun r => r.eng ≠ e.val }
      let s := if (s.peck p).state = .resetting ∨ (s.peck p).state = .removing then s else clearEngine s e.val stFenced
      settleAll (s.updEng e.val fun x => { x with resetting := true }))

/-- ENGINE_RESET_COMPLETE: an engine reset finishes: a pending row test runs within it (R25, R439), and ENG_RESET_DONE is raised (R187, R191); one
that escalation entered is reported as recovered (R523). No effect on an engine that is not being reset, or whose Peck is. -/
def execEngineResetComplete (e : Fin 128) (s : State) : Host.Outcome State Fault Refusal :=
  let x := s.eng e.val
  let p := x.peck.toNat
  .next (
    if !x.resetting ∨ (s.peck p).state = .resetting ∨ (s.peck p).state = .removing then s
    else
      let s := rowTest (s.updEng e.val fun x => { x with resetting := false }) e.val
      recovered (s.mgrEvent sevInfo evEngResetDone (BitVec.ofNat 64 e.val) 0) 1 (fun c => bitsOf c 8 8 == e.val))

/-- ENG_DBAR or ENG_CBAR as read (R192). -/
def barWord (b : Barrier) : Word :=
  BitVec.ofNat 64 (b.peck.toNat + b.pair.toNat * 2 ^ 8 + b.count.toNat * 2 ^ 16 + b.phase.toNat * 2 ^ 32 + b.arrived.toNat * 2 ^ 48)

/-- ENG_BAR_WRITE: a write to ENG_DBAR (u below 256) or ENG_CBAR (R185, R192, R326). The high half holds read-only and reserved
bits only, and writing it has no effect (R5). On a pair-wide unit ARRIVED counts this device's arrivals only, and only they hold a COUNT write
(DEDUCED, assumption 86). -/
def execEngBarWrite (u : Fin 384) (part : RegPart) (v : Word) (s : State) : Host.Outcome State Fault Refusal :=
  let b := s.bar u.val
  let w := mergePart part (barWord b) v
  let p := bitsOf w 0 8
  let pair := decide (u.val < 256) && bitsOf w 8 1 == 1
  let n := bitsOf w 16 12
  let top := if u.val ≥ 256 then 128 else if pair then 2048 else 1024
  let ok := within 1 top n
  -- a COUNT out of range keeps the COUNT in force or held; on the secondary of a joined pair the primary's governs (R184)
  let joined := s.pair.joined
  let theirs := match b.mate with
    | some (true, _, k) => k
    | _ => b.count
  let cnt := if pair && joined && s.secondary then theirs else if ok then BitVec.ofNat 12 n else b.held.getD b.count
  whenReady s (
    if part = .high then s
    else if p ≠ 0 ∧ (s.peck p).state = .free then s.errWr
    else
      let s := if ok then s else s.errWr
      let s := if p ≠ b.peck.toNat then barOwner s u.val (BitVec.ofNat 8 p) cnt pair
        else
          let b := { b with pair := pair, split := b.split && pair }
          if !ok then s.setBar u.val b
          else if b.arrived ≠ 0 then s.setBar u.val { b with held := if cnt = b.count then none else some cnt }
          else barCheck (s.setBar u.val { b with count := cnt, held := none }) u.val
      if (pair || b.pair) && joined then barConfig s u.val else s)

end Sys2Proof.Machine
end

