-- ==== Sys2Proof/Machine/PeckMove.lean ====
section
/-!
DEFINITION. Migration of a Peck (R340, R341, R489): PECK_EXPORT and PECK_IMPORT; and ABORT (R396, R397).
-/

namespace Sys2Proof.Machine

/-! ## What an export carries (R340, R489) -/

/-- Grains and Gills of a Peck, as unit numbers in address order. -/
def grainsOf (s : State) (p : Nat) : List Nat := maskUnits 196608 (s.peck p).grains
def gillsOf (s : State) (p : Nat) : List Nat := maskUnits 8192 (s.peck p).gills
def keysOf (s : State) (p : Nat) : List Nat := maskUnits 4096 (s.peck p).keys
def epsOf (s : State) (p : Nat) : List Nat := maskUnits 4096 (s.peck p).eps

/-- The memory of a LOCAL address: 0 Grains, 1 Gills, 2 Pools, with its units of the Peck and their size (R489). -/
def memOf (s : State) (p m : Nat) : List (Nat × Nat) :=
  if m = 0 then (grainsOf s p).map (unitMem .grains) else if m = 1 then (gillsOf s p).map (unitMem .gills) else (s.heldEngines p).map (unitMem .engines)

def memNo (a : Nat) : Nat := if a < hbmTop then 0 else if a < poolBase then 1 else 2

/-- The offset of an address in concatenated units: the bytes of the units before its own. -/
def relOff : List (Nat × Nat) → Nat → Nat
  | [], _ => 0
  | (b, n) :: us, a => if b ≤ a ∧ a < b + n then a - b else n + relOff us a

/-- The address at an offset in concatenated units; none beyond them. -/
def absOff : List (Nat × Nat) → Nat → Option Nat
  | [], _ => none
  | (b, n) :: us, o => if o < n then some (b + o) else absOff us (o - n)

/-- Root entries of a Peck in use, in index order (R325). -/
def rootEntries (s : State) (p : Nat) : List (Nat × Region) := s.regions.filter fun e => isRoot e.1 && e.2.used && e.2.peck.toNat == p

def kindCode : HKind → Nat
  | .local_ => 0 | .host => 1 | .accel => 2 | .remote => 3 | .volume => 4

/-- A root entry of section 0x15 (R489). A VOLUME entry's BASE is its volume number. -/
def rootBytes (s : State) (p : Nat) (e : Nat × Region) : List Byte :=
  let r := e.2
  let m := if r.kind = .local_ then memNo r.base.toNat else 0
  let base := match r.kind with
    | .local_ => relOff (memOf s p m) r.base.toNat
    | .volume => r.aux.toNat
    | _ => r.base.toNat
  bytesOf 4 e.1 ++ bytesOf 1 (kindCode r.kind) ++ bytesOf 1 r.rights.toNat ++ bytesOf 2 r.gen.toNat ++ bytesOf 8 base ++ bytesOf 8 r.len.toNat ++
    bytesOf 4 (r.parent.getD 0) ++ bytesOf 2 (if r.parent.isSome then r.pgen.toNat else 0) ++ bytesOf 1 m ++ zeros 1

/-- A key slot of section 0x17: a record wrapped under the ephemeral key, zero where no key is loaded (R454 to R456, R489). -/
def slotRecord (k : KeySlot) (z ex ey : Nat) : List Byte :=
  if k.state ≠ .loaded then zeros 256
  else
    let kek := kekOf z (otherInfo Config.devId 0 k.kind k.use.toNat k.count)
    padTo 256 (bytesOf 2 0x0100 ++ bytesOf 1 k.kind ++ bytesOf 1 k.use.toNat ++ zeros 4 ++ bytesOf 8 k.count ++ bytesOf 48 ex ++ bytesOf 48 ey ++
      bytesOf 2 (k.key.length + 8) ++ zeros 14 ++ ofNats (kwpWrap kek (toNats k.key)))

/-- LAST of a group (R200): −1 before any record has completed. -/
def groupBytes (g : Group) : List Byte := bytesOf 8 g.group.toNat ++ bytesOf 8 (BitVec.ofNat 64 g.done - 1 : Word).toNat

/-- The sections of an export, by SKIND, with their words (R489). A tagged section keeps its tags and its HANDLE words (R341). -/
def exportSects (s : State) (p z ex ey : Nat) : State × List (Nat × Bool × List TWord) :=
  let es := s.heldEngines p
  let mem (m : Nat) (s : State) : State × List TWord := (memOf s p m).foldl (fun (s, l) (a, n) =>
    let (s, ws) := readWords s a n
    (s, l ++ ws)) (s, [])
  let (s, g) := mem 0 s
  let (s, gi) := mem 1 s
  let (s, po) := mem 2 s
  let (s, dir) := readWords s (dirBase p) 0x8000
  let plain (bs : List Byte) : List TWord := nilWords (toNats bs)
  let xs := es.flatMap fun e => (List.range 16).flatMap fun n => (accImage ((s.eng e).acc n)).flatMap fun w => bytesOf 8 w.toNat
  let sems := es.flatMap fun e => (List.range 64).flatMap fun n => bytesOf 8 ((s.eng e).sem n).toNat
  (s, [(0x10, true, g), (0x11, true, gi), (0x12, true, po), (0x13, false, plain xs), (0x14, false, plain sems),
    (0x15, false, plain ((rootEntries s p).flatMap (rootBytes s p))), (0x16, true, dir),
    (0x17, false, plain ((keysOf s p).flatMap fun n => slotRecord (s.key n) z ex ey)), (0x18, false, plain (seqSection s p)),
    (0x19, false, plain ((s.groups.filter fun g => g.peck == p).flatMap groupBytes)),
    (0x1A, false, plain ((epsOf s p).flatMap fun e => bytesOf 8 (s.ep e).gen.toNat))])

/-- The data bytes of words in an export: HANDLE words keep their bits, so that R341 can replace them; POISON words are zeros. -/
def moveData (ws : List TWord) : List Byte := ws.flatMap fun w => if wordPoison w then zeros 8 else bytesOf 8 w.bits.toNat

/-- The container of an export: section table, and everything but the manifest (R484, R489). -/
def exportBody (s : State) (p : Nat) (key : List Byte) (ex ey : Nat) (l : List (Nat × Bool × List TWord)) : List Sect × List Byte :=
  let sects := (placeSects 0x6000 0 (l.map fun (k, t, ws) =>
    (⟨k, k, 0xF, 8 * ws.length, 0, 0, t, t && ws.any wordPoison, [], 0⟩ : Sect))).1
  let head := containerHead { kind := 1, gens := false, gen := 0, devid := devIdNum, cut := s.time, peck := p, keykind := 2, nsect := sects.length,
                              label := 0, user := 0, fwver := fwVer s, epx := ex, epy := ey }
  let recs := (recordList sects).zipIdx.flatMap fun ((k, x, j), n) =>
    let ws := (((l.getD k (0, false, [])).2.2).drop (j * (unitLen / 8))).take (unitPlen x j / 8)
    recordBytes key myHi n k j 0 (moveData ws) (if x.tagged then tagBytes ws else [])
  (sects, tableBytes head sects ++ recs)

/-- No ring of the Peck holds a queued item (R340). -/
def ringsEmpty (s : State) (p : Nat) : Bool := (List.range 16).all fun r => (s.ring (16 * p + r)).waiting.isEmpty

/-- PECK_EXPORT (R340, R489). The destination's public key, or the status with which reading it fails, is an input of the command; a key that is
no point of P-384 is refused as AUTH (DESIGN CHOICE, assumption 70). -/
def execPeckExport (id : Nat) (pub : List Byte) (st : BitVec 16) (s : State) : Host.Outcome State Fault Refusal :=
  peckCmd id 0x050B whenQuiesced s fun i p =>
    if ringsEmpty s p = false then s.refuse i rsnState
    else if st ≠ stOk then s.done i st
    else if onP384 (recNum pub 0 48) (recNum pub 48 48) = false then s.refuse i rsnAuth
    else
      let (s, eb) := randomBytes s 48
      let e := scalar (natOfBytes eb)
      let q := ecTimes e (some g384)
      let z := ecX (ecTimes e (some (recNum pub 0 48, recNum pub 48 48)))
      let key := ofNats (kekOf z (otherInfo Config.devId 0 2 4 0))
      let (s, l) := exportSects s p z (ecX q) (ecY q)
      let (sects, body) := exportBody s p key (ecX q) (ecY q) l
      let end_ := containerEnd sects
      if end_ > (i.w 2).toNat then s.refuse i rsnSpace
      else
        let n := (recordList sects).length
        let poison := (l.filter fun x => x.2.1).foldl (fun n x => n + (x.2.2.filter wordPoison).length) 0
        let (s, mf) := sealedManifest s key myHi {
          state := 1, flags := if poison ≠ 0 then 8 else 0, gen := 0, devid := devIdNum, stream := devIdNum, cut := s.time, seal_ := s.time,
          end_ := end_, nrec := n, nsect := sects.length, digest := ofNats (sha384 (toNats body)), poison := poison, user := 0, label := 0,
          peck := p, kind := 1, counter := n }
        let s := mgrWrite s (i.w 1) (mf ++ body)
        (s.updPeck p fun x => { x with exported := true }).completeItem i stOk (BitVec.ofNat 64 end_) 0

/-! ## Import (R341) -/

/-- A container that has been verified: its manifest, its source, and the words of each section by SKIND. -/
structure Import where
  devid : BitVec 48
  peck  : Nat
  sects : List (Nat × List TWord)
deriving DecidableEq, Repr

def Import.words (m : Import) (k : Nat) : List TWord := ((m.sects.find? fun x => x.1 == k).map (·.2)).getD []
def Import.bytes (m : Import) (k : Nat) : List Byte := (m.words k).flatMap fun w => bytesOf 8 w.bits.toNat

/-- Verify a container and open its records (R341, R485, R489): none where a signature, digest or GCM check fails. -/
def openImport (data pub : List Byte) : Option Import :=
  let mf := data.take 512
  let end_ := recNum mf 48 8
  let head := (data.drop 0x1000).take 256
  let ex := recNum head 56 48
  let ey := recNum head 104 48
  let body := (data.take end_).drop 0x1000
  if manifestSealed mf = false ∨ recNum mf 133 1 ≠ 1 ∨ end_ < 0x6000 ∨ data.length < end_ ∨
      ecdsaVerify (some (recNum pub 0 48, recNum pub 48 48)) (mf.take 256) ((mf.drop 256).take 96) = false ∨
      ofNats (sha384 (toNats body)) ≠ (mf.drop 64).take 48 ∨ onP384 ex ey = false then none
  else
    let devid := BitVec.ofNat 48 (recNum head 16 8)
    let key := ofNats (kekOf (ecX (ecTimes (scalar Config.importKey) (some (ex, ey)))) (otherInfo devid 0 2 4 0))
    if manifestTagOk key mf = false then none
    else
      let sects := (List.range (recNum mf 60 4)).map fun k => readSect ((data.drop (0x1100 + 64 * k)).take 64)
      let one (x : Sect) (k : Nat) : Option (List TWord) :=
        (List.range x.nunits).foldl (fun r j => match r with
          | none => none
          | some ws =>
            let at_ := x.first + (List.range j).foldl (fun a i => a + recordLen (unitPlen x i) (unitTlen x i)) 0
            (openRecord key (manifestHi mf) k 0 x j ((data.drop at_).take (recordLen (unitPlen x j) (unitTlen x j)))).map (ws ++ ·)) (some [])
      (sects.zipIdx.foldl (fun r (x, k) => match r, one x k with
        | some l, some ws => some (l ++ [(x.skind, ws)])
        | _, _ => none) (some ([] : List (Nat × List TWord)))).map fun l => ⟨devid, recNum head 32 1, l⟩

/-- Fields of an exported root entry. -/
structure MovedRoot where
  old    : Nat
  kind   : HKind
  rights : BitVec 8
  gen    : Nat
  base   : Nat
  len    : Nat
  parent : Nat
  mem    : Nat
deriving DecidableEq, Repr

def movedRoots (m : Import) : List MovedRoot :=
  let bs := m.bytes 0x15
  (List.range (bs.length / 32)).map fun k =>
    let e := (bs.drop (32 * k)).take 32
    ⟨recNum e 0 4, kindOf (recNum e 4 1), BitVec.ofNat 8 (recNum e 5 1), recNum e 6 2, recNum e 8 8, recNum e 16 8, recNum e 24 4, recNum e 30 1⟩

/-- A LOCAL range of the source in the destination's units: none where it does not lie in adjacent ones. -/
def movedBase (s : State) (p : Nat) (r : MovedRoot) : Option Nat :=
  let us := memOf s p r.mem
  match absOff us r.base, absOff us (r.base + r.len - 1) with
  | some a, some b => if b = a + r.len - 1 then some a else none
  | _, _ => none

/-- The destination's grants match the container (R341). A container does not give the source's runs of adjacent units; that every LOCAL root
entry lies in adjacent units of the destination stands for their lengths (DEDUCED, assumption 71). -/
def shapeOk (s : State) (p : Nat) (m : Import) : Bool :=
  let n (k : Nat) : Nat := 8 * (m.words k).length
  n 0x10 == (grainsOf s p).length * 0x200000 && n 0x11 == (gillsOf s p).length * 0x10000 && n 0x12 == (s.heldEngines p).length * 0x200000 &&
  n 0x17 == (keysOf s p).length * 256 && n 0x1A == (epsOf s p).length * 8 &&
  (movedRoots m).all fun r => r.kind != .local_ || r.len == 0 || (movedBase s p r).isSome

/-- Fresh root entries, lowest free first, one for each exported entry. -/
def freshRoots (s : State) : List MovedRoot → State × List (Nat × Nat)
  | [] => (s, [])
  | r :: rs => match freeRoot s with
    | none => (s, [])
    | some k =>
      let (s, l) := freshRoots (s.setRegion k { s.region k with used := true }) rs
      (s, (r.old, k) :: l)

/-- The entry that a fresh root entry becomes (R335, R341). What the container does not carry of a kind is taken anew: an ACCEL range in whichever
window holds it, a volume that the Peck holds; a range that cannot be is empty. A REMOTE entry's key and address are `key` and `addr`. -/
def movedEntry (s : State) (p : Nat) (map : List (Nat × Nat)) (k : Nat) (key : BitVec 40) (addr : BitVec 128) (r : MovedRoot) : Region :=
  let par := if r.parent = 0 then none else (map.find? fun x => x.1 == r.parent).map (·.2)
  let e : Region := { Region.free with used := true, kind := r.kind, peck := BitVec.ofNat 8 p, rights := r.rights, gen := (s.region k).gen,
                                       parent := par, pgen := (par.map fun q => (s.region q).gen).getD 0 }
  match r.kind with
  | .local_ => { e with base := BitVec.ofNat 64 ((movedBase s p r).getD 0), len := BitVec.ofNat 64 r.len }
  | .host => { e with base := BitVec.ofNat 64 r.base, len := BitVec.ofNat 64 r.len }
  | .accel => match s.windows.find? fun w => decide (w.2.1 ≤ r.base) && decide (r.base + r.len ≤ w.2.2) with
    | some w => { e with base := BitVec.ofNat 64 r.base, len := BitVec.ofNat 64 r.len, aux := BitVec.ofNat 64 (w.1 / 4) }
    | none => e
  | .volume =>
    if r.base < 1024 ∧ volEn s r.base ∧ volPeck s r.base = p ∧ r.len ≤ volBlocks s r.base * 4096 then
      { e with len := BitVec.ofNat 64 r.len, aux := BitVec.ofNat 64 r.base }
    else e
  | .remote => { e with base := BitVec.ofNat 64 r.base, len := BitVec.ofNat 64 r.len, aux := BitVec.ofNat 64 r.base, rkey := key, raddr := addr }

/-- A word as it arrives (R341): a HANDLE word that named an entry current at export takes the fresh handle, another becomes 0 with tag NIL. -/
def movedWord (s : State) (roots : List MovedRoot) (map : List (Nat × Nat)) (dir : Nat × Nat × Nat) (w : TWord) : TWord :=
  if w.tag ≠ Tag.handle then restWord w
  else
    let i := hIndex w.bits
    let g := hGen w.bits
    if i = dir.1 ∧ g = dir.2.1 then ⟨mkHandle dir.2.2 (s.region dir.2.2).gen (hRights w.bits), Tag.handle⟩
    else if roots.any fun r => r.old == i && r.gen == g then
      match map.find? fun x => x.1 == i with
      | some (_, k) => ⟨mkHandle k (s.region k).gen (hRights w.bits), Tag.handle⟩
      | none => TWord.zero
    else TWord.zero

/-- Write words into units one after another. -/
def fillUnits (s : State) (us : List (Nat × Nat)) (ws : List TWord) : State :=
  (us.foldl (fun (s, ws) (a, n) => (s.putWords a (ws.take (n / 8)), ws.drop (n / 8))) ((s, ws) : State × List TWord)).1

/-- Load the sequences of a container (R487, R489): an entry takes its index when that is free, else the lowest free one. -/
def moveSeqs (s : State) (p : Nat) (bs : List Byte) : State :=
  (List.range (bs.length / 128)).foldl (fun s k =>
    let e := (bs.drop (128 * k)).take 128
    let old := recNum e 14 2
    let pos : Word := BitVec.ofNat 64 (recNum e 48 8)
    let word (j : Nat) : TWord :=
      let v := BitVec.ofNat 64 (recNum e (8 * j) 8)
      if j = 1 then TWord.int (putField v 48 16 0)
      else if j = 2 ∨ j = 3 then ⟨v, Tag.fp32x2⟩
      else if 7 ≤ j ∧ j ≤ 12 then TWord.zero
      else TWord.int v
    match (old :: List.range 16384).find? fun q => decide (q < 16384) && (s.seq q).isNone with
    | none => s
    | some q => { s with seqs := s.seqs ++ [(⟨q, p, (List.range 16).map word, pos, false, none, [], none⟩ : GenSeq)] }) s

/-- Load what a verified container carries into a Peck (R341). -/
def loadImport (s : State) (p : Nat) (m : Import) : Option State :=
  let roots := movedRoots m
  let (s, map) := freshRoots s roots
  let w0 := (m.words 0x16).getD 0 TWord.zero
  let dir := (hIndex w0.bits, hGen w0.bits, dirEntry p)
  -- a container carries neither key nor address of a REMOTE entry
  let s := (roots.zip map).foldl (fun s (r, _, k) =>
    let (a, s) := s.draw
    let (b, s) := s.draw
    let (c, s) := s.draw
    s.setRegion k (movedEntry s p map k (a.setWidth 40) (b.setWidth 64 ++ c.setWidth 64) r)) s
  let move (ws : List TWord) : List TWord := ws.map (movedWord s roots map dir)
  let s := fillUnits s (memOf s p 0) (move (m.words 0x10))
  let s := fillUnits s (memOf s p 1) (move (m.words 0x11))
  let s := fillUnits s (memOf s p 2) (move (m.words 0x12))
  let s := s.putWords (dirBase p + 8) (move ((m.words 0x16).drop 1))
  let xs := m.words 0x13
  let sems := m.words 0x14
  let s := (s.heldEngines p).zipIdx.foldl (fun s (e, k) => s.updEng e fun x =>
    let x := (List.range 16).foldl (fun x n =>
      x.setAcc n ((accOfImage ((List.range 6).map fun j => (xs.getD (96 * k + 6 * n + j) TWord.zero).bits)).getD XAcc.clear)) x
    (List.range 64).foldl (fun x n => x.setSem n (sems.getD (64 * k + n) TWord.zero).bits) x) s
  let kb := m.bytes 0x17
  let keys := (keysOf s p).zipIdx.foldl (fun r (n, k) =>
    let e := (kb.drop (256 * k)).take 256
    match r with
    | none => none
    | some s =>
      if recNum e 0 2 = 0 then some (s.setKey n (emptySlot (s.key n)))
      else match importKeyOf e m.devid 0 with
        | none => none
        | some key => some (if s.alarmLive ≠ 0 then s else loadSlot s n 3 (recNum e 2 1) (recNum e 3 1) (recNum e 8 8) key)) (some s)
  keys.map fun s =>
    let s := moveSeqs s p (m.bytes 0x18)
    let gb := m.bytes 0x19
    let gs := (List.range (gb.length / 16)).map fun k =>
      let done := ((BitVec.ofNat 64 (recNum gb (16 * k + 8) 8) : Word) + 1).toNat
      (⟨p, BitVec.ofNat 32 (recNum gb (16 * k) 8), done, done, []⟩ : Group)
    let s := { s with groups := s.groups.filter (fun g => g.peck ≠ p) ++ gs }
    let eb := m.bytes 0x1A
    let s := (epsOf s p).zipIdx.foldl (fun s (e, k) => s.setEp e { s.ep e with gen := BitVec.ofNat 16 (recNum eb (8 * k) 8) }) s
    s.updPeck p fun x => { x with imported := true }

/-- PECK_IMPORT (R341). The container's bytes and the source's signing key, or the status with which reading them fails, are inputs of the
command. -/
def execPeckImport (id : Nat) (data pub : List Byte) (st : BitVec 16) (s : State) : Host.Outcome State Fault Refusal :=
  peckCmd id 0x050C whenQuiesced s fun i p =>
    if ringsEmpty s p = false then s.refuse i rsnState
    else if st ≠ stOk then s.done i st
    else if rootsUsed s p ≠ 0 then s.refuse i rsnShape
    else match openImport (data.take (i.w 2).toNat) pub with
      | none => s.refuse i rsnAuth
      | some m =>
        let n := (movedRoots m).length
        if shapeOk s p m = false then s.refuse i rsnShape
        else if n > (s.peck p).roots then s.refuse i rsnQuota
        else if (freshRoots s (movedRoots m)).2.length ≠ n then s.refuse i rsnNoEntry
        else match loadImport s p m with
          | none => s.refuse i rsnAuth
          | some s => s.done i stOk

/-! ## ABORT (R396, R397) -/

/-- Abort a dispatched item: none where it has committed. -/
def abortItem (s : State) (i : Item) : Option State :=
  let t := i.typ.toNat
  if t = 0x0100 then
    if i.phase = .dispatched ∨ i.phase = .waiting then some (s.done i stAborted)
    else match s.allCtx.find? fun c => c.2.item == some i.id with
      | none => none
      | some (c, x) =>
        if x.state = .halted ∨ x.state = .faulted ∨ x.state = .free then none
        else
          let drop (r : Replay) : Replay :=
            if r.eng = c.eng.val then { r with left := r.left.filter (· ≠ c.slot.val), guilty := r.guilty.filter (· ≠ c.slot.val),
                                               suspects := r.suspects.filter (· ≠ c.slot.val) } else r
          some (resetCtx { s with replays := s.replays.map drop } c stAborted)
  else if t = 0x0200 then
    if i.phase = .dispatched then some (s.done i stAborted)
    else match s.colls.find? fun c => c.item == i.id with
      | none => none
      | some c => if c.wrote then none else some (collAbort s i.id)
  else if t = 0x0303 then
    if i.phase = .dispatched then some (stepAbort s i)
    else if s.seqs.any fun e => e.queue.contains i.id then some (genAbort s i.id)
    else none
  else if t = 0x0403 ∨ t = 0x0404 then
    if s.msgs.any fun m => m.user == .item i.id && m.t0.isSome then none
    else if i.phase = .committed then none
    else
      let s := dropUser s (.item i.id)
      some ((if t = 0x0403 then writeDone s (some i.wr) else s).done i stAborted)
  else none

/-- ABORT: the oldest item of a ring that carries the TAG and has not completed, dispatched items first (R396). -/
def execAbort (id : Nat) (s : State) : Host.Outcome State Fault Refusal :=
  .next (s.request id 0x0002 fun i =>
    let r := bitsOf (i.w 1) 0 4
    let k := 16 * i.fn + r
    match s.items.find? fun j => j.fn == i.fn && j.ring == r && j.tag == i.w 0 && j.id != i.id with
    | some j => match abortItem s j with
      | some s => settleAll (s.done i stOk)
      | none => s.done i stAbortTooLate
    | none =>
      let x := s.ring k
      match x.waiting.find? fun n => (itemOf i.fn r x n).tag == i.w 0 with
      | some n =>
        let j := { itemOf i.fn r x n with id := s.nextItem }
        let s := if j.typ = 0x0303#16 then stepAbort s j else s.done j stAborted
        (s.setRing k { s.ring k with gone := (s.ring k).gone ++ [n] }).done i stOk
      | none => s.done i stAbortTooLate)

end Sys2Proof.Machine
end

