-- ==== Sys2Proof/Machine/Pcie.lean ====
section
/-!
DEFINITION. The host ports (R347 to R375): completions of the device's reads, invalidations, peer routing and containment, fences of functions,
links, port and hierarchy registers, and the host's accesses through PF0 BAR2 (R50, R324, R436).
-/

namespace Sys2Proof.Machine

/-! ## Completions (R361, R362, R365) -/

/-- What a completion carries (R361): data and the poison bit, or a status other than Successful Completion. -/
def cplStatus (ok ep : Bool) : Status := if !ok then stRights else if ep then stPoison else stOk

/-- Invalidations whose reads are all over are completed (R365). -/
def atsDone (s : State) : State :=
  let open_ (l : List Nat) : Bool := l.any fun t => s.reads.any fun r => r.tag == t && r.quar.isNone
  let ovr := s.atsInv.filter fun i => !open_ i.2.2
  ovr.foldl (fun s i => s.emit (.signal "INVALIDATION_COMPLETION" [i.1, i.2.1])) { s with atsInv := s.atsInv.filter fun i => open_ i.2.2 }

/-- A read leaves the list, and what waits for a tag goes on (R360). -/
def readGone (s : State) (tag : Nat) : State := atsDone { s with reads := s.reads.filter fun r => r.tag ≠ tag }

/-- Tags quarantined (R376). -/
def quarTags (s : State) : State := s.setReg rQuar (BitVec.ofNat 64 ((s.reads.filter fun r => r.quar.isSome).length % 65536))

/-- Log in a function's AER status. -/
def aerUnexp (s : State) (f : Nat) : State := s.setFn f { s.fn f with aerUnexp := true }

/-- A completion that no read awaits is counted and logged (R362). -/
def unexpected (s : State) (f : Nat) : State := aerUnexp (s.bump rUnexpCpl 1) f

/-- PCIE_READ_COMPLETION: a completion arrives under a tag for a function (R361, R362). A successful one brings the request's bytes; with another
length it is none that the request can have. -/
def execPcieReadCompletion (tag : Nat) (f : Nat) (ok ep : Bool) (data : List Byte) (s : State) : Host.Outcome State Fault Refusal :=
  .next (match s.reads.find? fun r => r.tag == tag with
  | none => unexpected s f
  | some r =>
    if r.quar.isSome then quarTags (unexpected (readGone s tag) r.fn)
    else if ok ∧ data.length ≠ r.len then s
    else
      let st := cplStatus ok ep
      let s := readGone s tag
      let s := if ok && ep then s.setFn r.fn { s.fn r.fn with aerPoison := true } else s
      let s := if st = stOk then { s with arrivals := s.arrivals ++ [(r.user, r.off, data)] } else s
      fetchPump (settleAll (s.outcome r.user r.off st)))

/-- The completion timeout of a read, ns (R362). -/
def readTimeout (s : State) (r : ReadReq) : Nat := if r.host then (s.fn r.fn).cto * 1000 else bitsOf (s.reg rCto) 0 20 * 1000

/-- PCIE_COMPLETION_TIMEOUT: a read has had no completion within its timeout: it fails and its tag is quarantined (R362). No effect before. -/
def execPcieCompletionTimeout (tag : Nat) (s : State) : Host.Outcome State Fault Refusal :=
  .next (match s.reads.find? fun r => r.tag == tag with
  | none => s
  | some r =>
    if r.quar.isSome ∨ s.time < r.sent + readTimeout s r then s
    else
      let t := s.time + readTimeout s r
      let s := { s with reads := s.reads.map fun (x : ReadReq) => if x.tag = tag then { x with quar := some t, user := .none } else x }
      let s := quarTags ((s.bump rCplTo 1).setFn r.fn { s.fn r.fn with aerTimeout := true })
      settleAll ((atsDone s).outcome r.user r.off stCplTimeout))

/-- TAG_QUARANTINE_EXPIRY: a further timeout has passed, and the tag is released (R362). No effect before. -/
def execTagQuarantineExpiry (tag : Nat) (s : State) : Host.Outcome State Fault Refusal :=
  .next (match s.reads.find? fun r => r.tag == tag with
  | none => s
  | some r => match r.quar with
    | some t => if t ≤ s.time then fetchPump (settleAll (quarTags (readGone s tag))) else s
    | none => s)

/-- ATS_INVALIDATION: translations of a function for a range of pages are given up; the completion follows once every read that used them is
over (R365). A function has at most 32 outstanding. -/
def execAtsInvalidation (f : Nat) (page n : Nat) (s : State) : Host.Outcome State Fault Refusal :=
  let hit (p : Nat) : Bool := decide (page ≤ p) && decide (p < page + n)
  let used (r : ReadReq) : Bool := r.host && r.fn == f && r.quar.isNone && (pagesOf r.iova.toNat r.len).any hit
  .next (
    if (s.atsInv.filter fun i => i.1 == f).length ≥ 32 then s
    else atsDone { s with ats := s.ats.filter fun e => !(e.1 == f && hit e.2),
                          atsInv := s.atsInv ++ [(f, page, (s.reads.filter used).map (·.tag))] })

/-! ## Ports (R347 to R350) -/

/-- Width code of port k of a lane group under a configuration: 2 x4, 3 x8, 4 x16; none where the port does not exist (R347). -/
def portWidth (cfg : Word) (k : Nat) : Option Nat :=
  match bitsOf cfg 0 3, k with
  | 1, 0 => some 4
  | 2, 0 => some 3
  | 2, 1 => some 3
  | 3, _ => some 2
  | 4, 0 => some 3
  | 4, 2 => some 2
  | 4, 3 => some 2
  | _, _ => none

def portUpstream (cfg : Word) (k : Nat) : Bool := bitsOf cfg (4 * k + 8) 2 == 1
def portVh (cfg : Word) (k : Nat) : Nat := bitsOf cfg (4 * k + 10) 2

/-- The configuration in force for a port. -/
def cfgOf (s : State) (port : Nat) : Word := s.reg (rPortCfg (port / 4))
def portThere (s : State) (port : Nat) : Bool := decide (port < 64) && (portWidth (cfgOf s port) (port % 4)).isSome

/-- Set a port's LINK (R377). -/
def setPortLink (s : State) (port v : Nat) : State := s.setRegField (rPortStat (port / 4)) (16 * (port % 4)) 2 v

/-- The upstream port of a hierarchy. -/
def upPort (s : State) (v : Nat) : Option Nat :=
  (List.range 64).find? fun p => portThere s p && portUpstream (cfgOf s p) (p % 4) && portVh (cfgOf s p) (p % 4) == v

/-- Every existing port of a configuration satisfies a condition. -/
def cfgPorts (cfg : Word) (ok : Nat → Bool) : Bool := [0, 1, 2, 3].all fun k => (portWidth cfg k).isNone || ok k

/-- DEVCTL_PORTCFG_WRITE (R349, R376, R377): an accepted value takes effect when the group's ports next train. -/
def execDevctlPortcfgWrite (g : Fin 16) (part : RegPart) (v : Word) (s : State) : Host.Outcome State Fault Refusal :=
  let old := s.reg (rPortCfg g.val)
  let w := mergePart part old v
  let w := BitVec.ofNat 64 (bitsOf w 0 3 + bitsOf w 8 16 * 256)
  let free (k : Nat) : Bool := pcieLink s (4 * g.val + k) == 0 || s.pcie.disabled.contains (4 * g.val + k)
  let legal := decide (bitsOf w 0 3 ≤ 4) && cfgPorts w fun k => bitsOf w (4 * k + 8) 2 == 0
  .next (
    if cfgPorts old (fun k => !portUpstream old k) && cfgPorts old free && legal then
      { s with pcie := { s.pcie with next := (s.pcie.next.filter fun e => e.1 ≠ g.val) ++ [(g.val, w)] } }
    else s.errWr)

/-- PF0 and PF1 of a hierarchy as function numbers. -/
def pf0Of (v : Nat) : Nat := if v = 0 then 0 else 512 + v
def pf1Of (v : Nat) : Nat := if v = 0 then 256 else 516 + v

/-- VF numbers that a DEVCTL_VHCFG value assigns: of PF0 at 0, of PF1 at 16. -/
def vhHas (w : Word) (at_ vf : Nat) : Bool := decide (bitsOf w at_ 8 ≤ vf) && decide (vf < bitsOf w at_ 8 + bitsOf w (at_ + 8) 8)

/-- DEVCTL_VHCFG_WRITE (R377). -/
def execDevctlVhcfgWrite (v : Fin 4) (part : RegPart) (x : Word) (s : State) : Host.Outcome State Fault Refusal :=
  let old := s.reg (rVhCfg v.val)
  let w := mergePart part old x
  let w := BitVec.ofNat 64 (bitsOf w 0 32)
  let range (at_ : Nat) : Bool := within 1 255 (bitsOf w at_ 8) && decide (bitsOf w at_ 8 + bitsOf w (at_ + 8) 8 ≤ 256)
  let other (at_ vf : Nat) : Bool := [0, 1, 2, 3].any fun u => u != v.val && vhHas (s.reg (rVhCfg u)) at_ vf
  let clash (at_ : Nat) : Bool := (List.range 256).any fun vf => vhHas w at_ vf && other at_ vf
  let kept (at_ vf : Nat) : Bool := vf == 0 || vhHas w at_ vf || other at_ vf
  let bound := s.pecks.all fun e => e.2.state == .free || (kept 0 e.2.vf0 && kept 16 e.2.vf1)
  .next (
    if range 0 && range 16 && !(s.fn (pf0Of v.val)).enabled && !(s.fn (pf1Of v.val)).enabled && !clash 0 && !clash 16 && bound then
      s.setReg (rVhCfg v.val) w
    else s.errWr)

/-! ## Buses and functions (R351, R352) -/

/-- The devices of a hierarchy's internal bus: 0 the bridge to the endpoint bus, 1 to 16 those of its downstream ports in increasing port number (R351). -/
def internalDevice (s : State) (v port : Nat) : Option Nat :=
  let ps := (List.range 64).filter fun p => portThere s p && !portUpstream (cfgOf s p) (p % 4) && portVh (cfgOf s p) (p % 4) == v
  if port ∈ ps ∧ (upPort s v).isSome then some (ps.idxOf port + 1) else none

/-- The Routing ID of a downstream port's bridge: its device on the internal bus, function 0 (R351). -/
def bridgeRid (s : State) (v port : Nat) : Option Nat := (internalDevice s v port).map fun d => tblGet 0 s.pcie.intBus v * 256 + d * 8

/-- What identifies PF0 (`pf1` false) and PF1 (R351): vendor and class code; PF0's device ID. -/
def pfVendor : Nat := 0x1FD4
def pf0Device : Nat := 0x9220
def pfClass (pf1 : Bool) : Nat := if pf1 then 0x010802 else 0x120000

/-- The SR-IOV capability of a PF of a hierarchy: TotalVFs, First VF Offset and VF Stride (R351, R352). -/
def sriov (s : State) (v : Nat) (pf1 : Bool) : Nat × Nat × Nat :=
  (bitsOf (s.reg (rVhCfg v)) (if pf1 then 24 else 8) 8, if pf1 then 511 else 256, 1)

/-- VF j (from 1) of a PF of a hierarchy as a device-global VF (R352). -/
def globalVf (s : State) (v : Nat) (pf1 : Bool) (j : Nat) : Option Nat :=
  if 1 ≤ j ∧ j ≤ (sriov s v pf1).1 then some (bitsOf (s.reg (rVhCfg v)) (if pf1 then 16 else 0) 8 + j - 1) else none

/-- The BARs of the functions (R353). -/
def barSpecs : List BarSpec :=
  [⟨.manager, 0, 0x2000000, false⟩, ⟨.manager, 2, 0x20000000, true⟩, ⟨.manager, 4, 0x10000, false⟩, ⟨.satellite, 4, 0x10000, false⟩,
   ⟨.satellite, 0, 0x20000, false⟩, ⟨.vf0, 0, 0x100000, false⟩, ⟨.pf1, 0, 0x10000, false⟩, ⟨.pf1, 4, 0x4000, false⟩, ⟨.vf1, 0, 0x8000, false⟩]

/-- PCIE_LINK_TRAINED: a port's link comes UP at a rate, width and mode (R350); a configuration that waits takes effect for its group (R349). No
effect where the port cannot train so: not under a configuration that R348 refuses if its group holds an upstream port. -/
def execPcieLinkTrained (port : Fin 64) (rate width : Nat) (flit : Bool) (s : State) : Host.Outcome State Fault Refusal :=
  let g := port.val / 4
  let k := port.val % 4
  let s' := match s.pcie.next.find? fun e => e.1 == g with
    | some (_, w) => { s with pcie := { s.pcie with next := s.pcie.next.filter fun e => e.1 ≠ g } }.setReg (rPortCfg g) w
    | none => s
  let cfg := cfgOf s' port.val
  let ready := decide (pcieLink s port.val ≠ 2) && decide (pcieLink s port.val ≠ 3) && !s.pcie.disabled.contains port.val && decide (s.phase ≠ 0) &&
    decide (s.phase ≠ 3) && !(s.pcie.refused && !cfgPorts cfg fun j => !portUpstream cfg j) && (!portUpstream cfg k || s.pcie.up.any fun e => e.1 == portVh cfg k)
  .next (match portWidth cfg k with
  | none => s
  | some top =>
    if ready && decide (width ≤ top) && decide (rate ≤ 5) && (flit || decide (rate ≤ 4)) then
      s'.setRegField (rPortStat g) (16 * k) 16 (2 + rate * 4 + flit.toNat * 32 + width * 64)
    else s)

/-! ## Peer routing and containment (R367, R368) -/

/-- Where a request at a downstream port goes: another port, the endpoint functions (64), the upstream port (65), refused by ACS (66), or
Unsupported Request (67). -/
def peerRoute (s : State) (port rid : Nat) (tr : Bool) (a n : Nat) : Nat :=
  let acs := tblGet 0x5D s.pcie.acs port
  let vh := portVh (cfgOf s port) (port % 4)
  let inVh (q : Nat) : Bool := portThere s q && portVh (cfgOf s q) (q % 4) == vh
  let holds (w : Nat × Nat × Nat) : Bool := decide (w.2.1 ≤ a) && decide (a + n ≤ w.2.2)
  let bus := s.pcie.buses.any fun b => b.1 == port && decide (b.2.1 ≤ rid / 256) && decide (rid / 256 ≤ b.2.2)
  let redirected (dest : Nat) : Nat := if tr && acs.getLsbD 6 then dest else if acs.getLsbD 2 then 65 else dest
  if acs.getLsbD 0 && !bus then 66
  else if acs.getLsbD 1 && tr then 66
  else match s.windows.find? fun w => w.1 != port && inVh w.1 && !portUpstream (cfgOf s w.1) (w.1 % 4) && holds w with
    | some w => redirected w.1
    | none =>
      if s.pcie.bars.any fun b => b.1 == vh && holds b then redirected 64
      else if s.windows.any fun w => some w.1 == upPort s vh && holds w then (if acs.getLsbD 4 then 66 else 65)
      else 67

/-- PEER_REQUEST: a request that arrives at a downstream port with a Routing ID is routed under the port's ACS controls (R367). -/
def execPeerRequest (port : Fin 64) (rid : Nat) (tr : Bool) (a n : Nat) (s : State) : Host.Outcome State Fault Refusal :=
  .next (
    if portThere s port.val = false ∨ portUpstream (cfgOf s port.val) (port.val % 4) ∨ pcieLink s port.val ≠ 2 then s
    else match peerRoute s port.val rid tr a n with
      | 66 => s.emit (.signal "ACS_VIOLATION" [port.val, rid, a])
      | 67 => s.emit (.completionError 1)
      | d => s.emit (.signal "PEER_ROUTE" [port.val, d, a, n]))

/-- A read to a port: an accelerator request whose range lies in the port's window. -/
def readTo (s : State) (port : Nat) (r : ReadReq) : Bool :=
  !r.host && r.quar.isNone && s.windows.any fun w => w.1 == port && w.1 / 4 == r.group && decide (w.2.1 ≤ r.iova.toNat) && decide (r.iova.toNat + r.len ≤ w.2.2)

/-- Fail reads at once with a status; their tags are released. -/
def failReads (s : State) (hit : ReadReq → Bool) (st : Status) : State :=
  let gone := s.reads.filter hit
  gone.foldl (fun s r => s.outcome r.user r.off st) (atsDone { s with reads := s.reads.filter fun r => !hit r })

/-- DPC_TRIGGER: a downstream port is contained: its reads fail at once, and PORT_CONTAINED is raised (R368). -/
def execDpcTrigger (port : Fin 64) (s : State) : Host.Outcome State Fault Refusal :=
  .next (
    if portThere s port.val = false ∨ portUpstream (cfgOf s port.val) (port.val % 4) ∨ pcieLink s port.val ≠ 2 then s
    else
      let s := setPortLink s port.val 3
      let s := settleAll (failReads s (readTo s port.val) stCplTimeout)
      fetchPump (s.mgrEvent sevWarn evPortContained (BitVec.ofNat 64 port.val) 0))

/-- DPC_RELEASE: containment ends, and the link retrains (R368). -/
def execDpcRelease (port : Fin 64) (s : State) : Host.Outcome State Fault Refusal :=
  .next (if pcieLink s port.val = 3 then setPortLink s port.val 1 else s)

/-! ## Fences of functions (R370, R372, R373) -/

/-- The configuration space of a function returns to its reset values; VF Enable belongs to its PF. -/
def resetFn (s : State) (f : Nat) (keepVf : Bool) : State := s.setFn f { Fn.reset with enabled := keepVf && (s.fn f).enabled }

/-- The Peck of a VF of PF0 is fenced: its items and copies end with ST_FENCED, it stands DISABLED, and VF_FENCED is raised (R372). -/
def fenceVf (s : State) (vf : Nat) : State :=
  match s.pfPeck vf with
  | none => s
  | some p =>
    let st := (s.peck p).state
    if st = .active ∨ st = .quiescing ∨ st = .quiesced then
      let s := settleAll ((disablePeck s p stFenced).updPeck p fun x => { x with fenced := true })
      s.mgrEvent sevWarn evVfFenced (BitVec.ofNat 64 vf) (BitVec.ofNat 64 p)
    else s

/-- The controller of a VF of PF1, or PF1's own, is reset (R421). -/
def resetPf1 (s : State) (f : Nat) : State :=
  if f = 256 then nvReset s 0
  else match s.pecks.find? fun e => e.2.vf1 == f - 256 && e.2.state != .free with
    | some (p, _) => nvReset s p
    | none => s

/-- A function stops: a VF of PF0 fences its Peck, a function of PF1 resets its controller. -/
def stopFn (s : State) (f : Nat) : State := if f < 256 then fenceVf s f else resetPf1 s f

/-- VF_BUS_MASTER_DISABLE (R372, R421). Functions 1 to 255 are VFs of PF0, 256 is PF1 and 257 to 511 its VFs. -/
def execVfBusMasterDisable (f : Fin 512) (s : State) : Host.Outcome State Fault Refusal :=
  .next (if f.val = 0 then s else stopFn (s.setFn f.val { s.fn f.val with bme := false }) f.val)

/-- VF_FLR (R372, R421). -/
def execVfFlr (f : Fin 512) (s : State) : Host.Outcome State Fault Refusal :=
  .next (if f.val = 0 then s else stopFn (resetFn s f.val (f.val ≠ 256)) f.val)

/-- VF_D3HOT (R370, R372): no event of R372 for PF1, whose controllers stand still while their function is not in D0. -/
def execVfD3hot (f : Fin 512) (s : State) : Host.Outcome State Fault Refusal :=
  .next (if f.val = 0 then s
    else
      let s := s.setFn f.val { s.fn f.val with d3 := true }
      if f.val < 256 then fenceVf s f.val else s)

/-- Outstanding and queued commands of the manager end with ST_FENCED (R373). A reset or a removal of a Peck goes on without its item. -/
def fenceManager (s : State) : State :=
  let s := { s with pecks := s.pecks.map fun (p, (x : Peck)) => (p, { x with doing := none }) }
  let s := (s.items.filter fun i => i.fn == 0).foldl (fun s i => s.done i stFenced) s
  (List.range 4).foldl (fun s r => resetRing s 0 r stFenced) s

/-- PF0_FENCE: Bus Master Enable of PF0 is cleared, or PF0 receives a function-level reset, which also clears VF Enable and so fences every Peck
whose VF is in VH 0 (R373). -/
def execPf0Fence (flr : Bool) (s : State) : Host.Outcome State Fault Refusal :=
  let s := s.setFn 0 { s.fn 0 with bme := false }
  let s := detach (fenceManager s) 2
  .next (
    if flr then
      let s := resetFn s 0 false
      ((List.range 256).filter fun vf => vhHas (s.reg (rVhCfg 0)) 0 vf).foldl (fun s vf =>
        fenceVf (s.setFn vf { s.fn vf with enabled := false }) vf) s
    else s)

/-- PF0_D3HOT: PF0 sends no request, and the manager driver is detached (R370, R400). -/
def execPf0D3hot (s : State) : Host.Outcome State Fault Refusal := .next (detach (s.setFn 0 { s.fn 0 with d3 := true }) 3)

/-! ## Upstream links (R374, R553) -/

/-- Functions of a hierarchy: its PFs and the VFs assigned to it. -/
def vhFns (s : State) (v : Nat) : List Nat :=
  let w := s.reg (rVhCfg v)
  [pf0Of v, pf1Of v] ++ ((List.range 256).filter fun vf => vhHas w 0 vf) ++ ((List.range 256).filter fun vf => vhHas w 16 vf).map (· + 256)

/-- A copy reads or writes a HOST region. -/
def hostCopy (k : Copy) : Bool := k.dst.kind == .host || (k.src.map (·.kind)) == some .host

/-- Requests toward a hierarchy's upstream port end: copies with a HOST handle of it, and reads of services, with ST_FENCED (R374). -/
def fenceHost (s : State) (v : Nat) : State :=
  let mine (p : Nat) : Bool := p != 0 && (s.peck p).state != .free && vhHas (s.reg (rVhCfg v)) 0 (s.peck p).vf0
  let s := (List.range 128).foldl (fun s e =>
    if mine (s.eng e).peck.toNat then
      (List.range 4).foldl (fun s q => (((s.eng e).queue q).filter hostCopy).foldl (fun s k =>
        (fenceCopy s (Fin.ofNat 128 e) q k stFenced).updCtx ⟨Fin.ofNat 128 e, Fin.ofNat 8 k.slot⟩ fun x => { x with cpyFence := stFenced }) s) s
    else s) s
  let fs := vhFns s v
  settleAll (failReads s (fun r => r.host && r.quar.isNone && fs.contains r.fn) stFenced)

/-- Loss of an upstream port's link, or a Hot Reset on it: the configuration space of the upstream bridge and endpoint functions is reset, the VH's
drivers are lost, and nothing of any Peck changes but its host traffic (R374). -/
def upstreamLost (s : State) (v : Nat) (down : Bool) : State :=
  match upPort s v with
  | none => s
  | some p =>
    let s := if down then setPortLink s p 0 else s
    let s := fenceHost s v
    let fs := vhFns s v
    let s := fs.foldl (fun s f => if 256 ≤ f ∧ f < 512 then resetPf1 s f else s) s
    let s := fs.foldl (fun s f => resetFn s f false) s
    let s := { s with windows := s.windows.filter fun w => w.1 ≠ p, pcie := { s.pcie with bars := s.pcie.bars.filter fun b => b.1 ≠ v } }
    if v = 0 then detach s 4 else s

/-- UPSTREAM_LINK_LOSS: `down` for a lost link, else a Hot Reset (R374). -/
def execUpstreamLinkLoss (v : Fin 4) (down : Bool) (s : State) : Host.Outcome State Fault Refusal := .next (upstreamLost s v.val down)

/-- PERST_ASSERT (R553). -/
def execPerstAssert (v : Fin 4) (s : State) : Host.Outcome State Fault Refusal :=
  .next { upstreamLost s v.val true with pcie := { (upstreamLost s v.val true).pcie with up := s.pcie.up.filter fun e => e.1 ≠ v.val } }

/-- PERST_DEASSERT: the upstream port trains, and configuration requests meet Request Retry Status until READY or for 1 s (R498, R553). -/
def execPerstDeassert (v : Fin 4) (s : State) : Host.Outcome State Fault Refusal :=
  .next (if s.pcie.up.any fun e => e.1 == v.val then s
    else
      let s := { s with pcie := { s.pcie with up := s.pcie.up ++ [(v.val, s.time)] } }
      match upPort s v.val with
      | some p => if pcieLink s p = 0 ∧ !s.pcie.refused then setPortLink s p 1 else s
      | none => s)

/-! ## PF0 BAR2 (R50, R324, R435, R436) -/

/-- A Mere offset that BAR2 does not reach: its Gill is granted, or reserved. -/
def bar2Closed (s : State) (off : Nat) : Bool := gillReserved (off / 0x10000) || unitPeck s .gills (off / 0x10000) != 0

/-- BAR2_READ: a host read of bytes of the Mere (R50, R324, R435). -/
def execBar2Read (off n : Nat) (s : State) : Host.Outcome State Fault Refusal :=
  .next (
    if n = 0 ∨ off + n > mereTop - mereBase then s
    else if s.phase ≠ 2 then s.emit (.completion (zeros n) false)
    else
      let s := s.settle (mereBase + off) n
      let cell (k : Nat) : Byte × Bool :=
        let a := mereBase + off + k
        if bar2Closed s (off + k) then (0, false)
        else if wordPoison (s.mem.word (a / 8 * 8)) then (0, true)
        else (s.mem.byte a, false)
      let cs := (List.range n).map cell
      let ep := cs.any (·.2)
      let closed := (List.range n).any fun k => bar2Closed s (off + k)
      let s := if ep ∨ closed then s.bump rErrBar2 1 else s
      s.emit (.completion (cs.map (·.1)) ep))

/-- BAR2_WRITE: a host write of bytes of the Mere (R50, R324, R436). -/
def execBar2Write (off : Nat) (data : List Byte) (ep : Bool) (s : State) : Host.Outcome State Fault Refusal :=
  whenReady s (
    if off + data.length > mereTop - mereBase ∨ data = [] then s
    else if ep then (s.bump rErrBar2 1).setFn 0 { s.fn 0 with aerPoison := true }
    else
      let (s, bad) := (splitWords (data.length + 1) (mereBase + off) data).foldl (fun (s, bad) (a, bs) =>
        if bar2Closed s (a - mereBase) then (s, true)
        else
          let (s, r) := placeOne s a bs Tag.nil
          (s, bad || r)) ((s, false) : State × Bool)
      if bad then s.bump rErrBar2 1 else s)

end Sys2Proof.Machine
end

