-- ==== Sys2Proof/Machine/Transport.lean ====
section
/-!
DEFINITION. Rows of the transport, the scheduler and the copies whose work reaches services at once; the timers of the sending side
(R282, R283, R287, R290) and the Ethernet ports (R251, R252, R254, R299).
-/

namespace Sys2Proof.Machine

/-- COPY_START (R169). -/
def execCopyStart (e : Fin 128) (id : Nat) (deny : List Nat) (s : State) : Host.Outcome State Fault Refusal :=
  .next (settleAll (runCopyStart e id deny s))

/-- SEND: a received SEND packet is checked, takes a buffer and is placed (R272, R280, R281). -/
def execSend (port : Fin 16) (p : Pkt) (s : State) : Host.Outcome State Fault Refusal := .next (settleAll (sendRx port p s))

/-- WYM_SEND (R279). -/
def execWymSend (id : Nat) (s : State) : Host.Outcome State Fault Refusal := .next (settleAll (runWymSend id s))

/-- WYM_ATOMIC (R278, R279). -/
def execWymAtomic (id : Nat) (s : State) : Host.Outcome State Fault Refusal := .next (settleAll (runWymAtomic id s))

/-- FEED_BATCH (R424). -/
def execFeedBatch (p : Fin 256) (id : Fin 16) (s : State) : Host.Outcome State Fault Refusal := .next (settleAll (runFeedBatch p id s))

/-! ## Answers (R268, R285) -/

/-- ACK: updates its message and the path's congestion state (R285, R286). -/
def execAck (port : Fin 16) (p : Pkt) (s : State) : Host.Outcome State Fault Refusal :=
  .next (settleAll (rx s port.val p tAck fun s _ => ackRx s port.val p))

/-- NAK: delays or fails its message (R285). -/
def execNak (port : Fin 16) (p : Pkt) (s : State) : Host.Outcome State Fault Refusal :=
  .next (settleAll (rx s port.val p tNak fun s _ => nakRx s port.val p))

/-- READRESP: placed at the requester (R277). -/
def execReadresp (port : Fin 16) (p : Pkt) (s : State) : Host.Outcome State Fault Refusal :=
  .next (settleAll (rx s port.val p tReadResp fun s _ => readRespRx s port.val p))

/-- ATOMICRESP: writes the old word at the requester (R278). -/
def execAtomicresp (port : Fin 16) (p : Pkt) (s : State) : Host.Outcome State Fault Refusal :=
  .next (settleAll (rx s port.val p tAtomicResp fun s _ => atomicRespRx s port.val p))

/-! ## Scheduler rows -/

/-- SCH_TRANSMIT (R307). -/
def execSchTransmit (port : Fin 16) (s : State) : Host.Outcome State Fault Refusal := .next (settleAll (schTransmit s port.val))

/-- SCH_Q_WRITE (R316, R319). -/
def execSchQWrite (d : Fin 4) (q : Fin 4096) (part : RegPart) (v : Word) (s : State) : Host.Outcome State Fault Refusal :=
  whenReady s (settleAll (schQ s d.val q.val part v))

/-- GATE_ENTRY_BOUNDARY: a new entry comes into force; a bank switch whose time has come takes effect, and queue heads are tested again
(R308, R311, R312). -/
def execGateEntryBoundary (port : Fin 16) (s : State) : Host.Outcome State Fault Refusal :=
  let x := s.port port.val
  .next (if x.switch_ ∧ x.swAt ≤ s.time then settleAll (bankSwitch s port.val) else s)

/-- WYM_PACING_SLOT (R287, R288). -/
def execWymPacingSlot (i : Fin 4) (dst : BitVec 128) (path : Fin 128) (s : State) : Host.Outcome State Fault Refusal :=
  .next (settleAll (paceSlot s i.val dst path.val))

/-! ## Timers of the sending side -/

/-- WYM_SEAL_RELEASE: a sealed write whose earlier writes have all been acknowledged or have failed may be transmitted (R275). -/
def execWymSealRelease (key : Nat) (s : State) : Host.Outcome State Fault Refusal :=
  .next (match s.msg key with
  | none => s
  | some m => if m.held ∧ sealFree s m then s.updMsg key fun m => { m with held := false } else s)

/-- WYM_RTO_EXPIRY: the RTO of a packet in flight has passed, and every packet of its message not acknowledged is sent again (R282). No
effect before. -/
def execWymRtoExpiry (key : Nat) (s : State) : Host.Outcome State Fault Refusal :=
  .next (match s.msg key with
  | none => s
  | some m =>
    let due (e : Nat × MsgPkt) : Bool := match e.2.phase with
      | .flight _ => decide (e.2.sent + msgRto s m ≤ s.time)
      | _ => false
    if m.pkts.any due then
      s.updMsg key fun m => { m with pkts := m.pkts.map fun (k, pk) => (k, match pk.phase with
        | .flight _ => { pk with phase := .ready, later := 0 }
        | _ => pk) }
    else s)

/-- WYM_HORIZON_EXPIRY: a message not fully acknowledged at H fails (R283). No effect before. -/
def execWymHorizonExpiry (key : Nat) (s : State) : Host.Outcome State Fault Refusal :=
  .next (match s.msg key with
  | none => s
  | some m => match m.t0 with
    | none => s
    | some t => if t + wymH s ≤ s.time then settleAll ((endMsg s m stHorizon).bump (rWymCtr m.inst 9) 1) else s)

/-- PATH_AVOID_EXPIRY: the avoid time of a path has passed, and it begins to carry probes (R287). -/
def execPathAvoidExpiry (i : Fin 4) (dst : BitVec 128) (path : Fin 128) (s : State) : Host.Outcome State Fault Refusal :=
  .next (let y := s.path i.val dst path.val
    match y.phase with
    | .avoided t => if t ≤ s.time then setPath s i.val dst path.val { y with phase := .probing 0, probe := none, probed := 0 } else s
    | _ => s)

/-- The lowest valid SA, whose key protects probes (DESIGN CHOICE: the manual names no SA for a PROBE). -/
def probeSa (s : State) : Option Nat := (List.range 1024).find? (saValid s)

/-- PATH_PROBE_TIMER: a probing path sends a PROBE per smoothed RTT; one still unanswered ends the run of answered probes (R287). The
MSGID of a PROBE is open. -/
def execPathProbeTimer (i : Fin 4) (dst : BitVec 128) (path : Fin 128) (s : State) : Host.Outcome State Fault Refusal :=
  .next (let y := s.path i.val dst path.val
    match y.phase, probeSa s with
    | .probing g, some sa =>
      if y.probed ≠ 0 ∧ s.time < y.probed + y.srtt then s
      else
        let (w, s) := s.draw
        let s := setPath s i.val dst path.val { y with probe := some w, probed := s.time, phase := .probing (if y.probe.isSome then 0 else g) }
        let p : Pkt := { src := instAddr (fabricBase s) i.val, dst := dst, dscp := 0, vlan := none, sport := 0, dport := 0, frame := true, ver := 0x10, typ := BitVec.ofNat 8 tProbe, flags := 0, path := BitVec.ofNat 8 path.val,
                         spi := BitVec.ofNat 32 (saSpi s sa), sid := 0, sendts := 0, msgid := w, nonce := 0, rkey := 0, rgen := 0, ordgrp := 0,
                         roff := 0, msglen := 0, pidx := 0, plen := 0, spec := 0, ext := none, payload := [], tag := [] }
        ctlPut s (4 * i.val + path.val / 32) p s.mono
    | _, _ => s)

/-- WYM_HOLD_END: the hold of an instance ends, and it numbers its messages from 0 (R270, R290). No effect before. -/
def execWymHoldEnd (i : Fin 4) (s : State) : Host.Outcome State Fault Refusal :=
  .next (match (s.inst i.val).hold with
  | none => s
  | some t => if t ≠ 0 ∧ t ≤ s.time then s.setInst i.val { s.inst i.val with hold := some 0, nextMsg := 0 } else s)

/-! ## Ports -/

/-- A frame of firmware enters a port's control class (R254, R297). -/
def fwFrame (s : State) (p : Nat) (what : String) (fields : List Nat) (len : Nat) : State :=
  let x := s.port p
  s.setPort p { x with fw := x.fw ++ [(what, fields, len)] }

/-- Bytes of a neighbour-discovery frame (PRESUMED: RFC 4861 with one link-layer address option). -/
def ndLen : Nat := 90

/-- The next hop of a port (R546). -/
def nextHop (s : State) (p : Nat) : Nat := (s.reg (rNhop p 0)).toNat + (s.reg (rNhop p 1)).toNat * 2 ^ 64

/-- The device's fabric addresses (R255). -/
def fabricAddrs (s : State) : List (BitVec 128) := (List.range 4).map (instAddr (fabricBase s))

/-- ETH_LINK_UP: the link of an enabled port comes up in its mode: firmware announces the device's fabric addresses and resolves the port's next hop,
the hold of R290 begins with the instance's first port, and messages that waited for a port are dealt. -/
def execEthLinkUp (port : Fin 16) (s : State) : Host.Outcome State Fault Refusal :=
  let p := port.val
  let x := s.port p
  let c := s.reg (rWymPort p)
  .next (if bitsOf c 0 1 = 0 ∨ x.link = 2 then s
    else
      let s := s.setPort p { x with link := 2, mode := bitsOf c 1 2 }
      let i := p / 4
      let s := if (s.inst i).hold.isNone then s.setInst i { s.inst i with hold := some (s.time + wymH s) } else s
      let s := (fabricAddrs s).foldl (fun s a => fwFrame s p "NEIGHBOUR_ADVERTISEMENT" [a.toNat] ndLen) s
      settleAll (dealWaiting (fwFrame s p "NEIGHBOUR_SOLICITATION" [nextHop s p] ndLen)))

/-- A queued packet goes back to its instance: it is lost on its path, and is sent again on another (R282, R299). -/
def handBack (s : State) (p : Nat) (e : QEnt) : State :=
  match e with
  | .resp r =>
    let s := pathFate s (p / 4) r.req.src r.path true
    match bestPath s (p / 4) r.req.src (some r.path) with
    | some q => { s with resps := { r with path := q, port := 4 * (p / 4) + q / 32 } :: s.resps }
    | none => { s with resps := r :: s.resps }
  | .msg key k => match s.msg key with
    | none => s
    | some m => match m.pkts.find? fun e => e.1 == k with
      | none => s
      | some (_, pk) => pathFate (updPkt s key k fun pk => { pk with phase := .ready, tried := true, sent := 0 }) m.inst m.dst pk.path true

/-- A port's link leaves UP: its queued packets are handed back and count as lost on their paths (R299). Answers move to the control class of another
port of the instance that is up, if there is one; a probe of a path of this port is lost (DEDUCED: it can take no other). -/
def linkDown (s : State) (p : Nat) : State :=
  let x := s.port p
  let s := s.setPort p { x with link := 0, qs := [], ctl := [], cmark := 0 }
  let s := (x.qs.flatMap fun e => e.2.ents.reverse).foldl (fun s e => handBack s p e) s
  let other := (((List.range 4).map fun k => 4 * (p / 4) + k).find? (portUp s)).getD p
  (x.ctl.filter fun a => a.1.typ.toNat ≠ tProbe).foldl (fun s a => ctlPut s other a.1 a.2) s

/-- ETH_LINK_DOWN (R299). -/
def execEthLinkDown (port : Fin 16) (s : State) : Host.Outcome State Fault Refusal :=
  .next (if (s.port port.val).link = 2 then
      let s := linkDown s port.val
      if bitsOf (s.reg (rWymPort port.val)) 0 1 = 1 then s.setPort port.val { s.port port.val with link := 1 } else s
    else s)

/-- WYM_PORT_CFG_WRITE: a port is enabled or disabled in a mode (R251, R294); its shapers start full when it is enabled (R306). -/
def execWymPortCfgWrite (port : Fin 16) (part : RegPart) (v : Word) (s : State) : Host.Outcome State Fault Refusal :=
  let p := port.val
  let was := bitsOf (s.reg (rWymPort p)) 0 1
  whenReady s (
    let s := s.writeFields (rWymPort p) part v [.all 0 1, ⟨1, 2, 0, 2⟩, .all 3 1, .all 4 12]
    let now := bitsOf (s.reg (rWymPort p)) 0 1
    if was = 0 ∧ now = 1 then
      let x := s.port p
      s.setPort p { x with link := 1, cTok := [], pTok := [], ctlTok := ⟨tokOf (bitsOf (s.reg (rCtlShp p)) 20 16 * 256), s.mono⟩ }
    else if was = 1 ∧ now = 0 then linkDown s p
    else s)

/-- NEIGHBOUR_DISCOVERY: a solicitation for one of the device's fabric addresses is answered by firmware; an advertisement of the port's next hop
resolves it, and one of the device's own addresses has no effect; any other is dropped and counted (R254). -/
def execNeighbourDiscovery (port : Fin 16) (sol : Bool) (target : BitVec 128) (mac : BitVec 48) (s : State) :
    Host.Outcome State Fault Refusal :=
  let p := port.val
  .next (if !portUp s p then s
    else if sol then
      if (fabricAddrs s).contains target then fwFrame s p "NEIGHBOUR_ADVERTISEMENT" [target.toNat] ndLen else s.bump (rWymOther p) 1
    else if target.toNat = nextHop s p then s.setPort p { s.port p with nhop := some mac }
    else if (fabricAddrs s).contains target then s
    else s.bump (rWymOther p) 1)

/-- ARP_REQUEST: answered only for the IPv4 management address, when the manager has configured one (R254). The manual gives that address
no register: `own` is what firmware holds. -/
def execArpRequest (port : Fin 16) (target : BitVec 32) (own : Option (BitVec 32)) (s : State) : Host.Outcome State Fault Refusal :=
  .next (if portUp s port.val ∧ own = some target then fwFrame s port.val "ARP_REPLY" [target.toNat] 64 else s)

/-- ETH_FRAME_INVALID: an oversize frame, one that fails its FCS, or one of no known kind is dropped and counted (R252, R254). -/
def execEthFrameInvalid (port : Fin 16) (s : State) : Host.Outcome State Fault Refusal :=
  .next (if portUp s port.val then s.bump (rWymOther port.val) 1 else s)

/-! ## Register writes -/

/-- Every Ethernet port is disabled. -/
def portsOff (s : State) : Bool := (List.range 16).all fun p => bitsOf (s.reg (rWymPort p)) 0 1 == 0

/-- WYM_HORIZON_WRITE: accepted only while every port is disabled; LIFE is at most H ÷ 2 (R284, R289, R293). -/
def execWymHorizonWrite (part : RegPart) (v : Word) (s : State) : Host.Outcome State Fault Refusal :=
  whenReady s (
    if !portsOff s then s.errWr
    else
      let (x, bad) := putFields (s.reg rWymHorizon) (mergePart part (s.reg rWymHorizon) v)
        [⟨0, 7, 2, 100⟩, ⟨8, 8, 1, 100⟩, ⟨16, 14, 10, 10000⟩, ⟨32, 10, 1, 1000⟩]
      if bitsOf x 8 8 * 2 > bitsOf x 0 7 * 10 then s.errWr
      else (if bad then s.errWr else s).setReg rWymHorizon x)

/-- Clearing VALID fails the SA's messages in flight with ST_FENCED (R295). -/
def clearSa (s : State) (n : Nat) : State :=
  (s.msgs.filter fun m => m.sa == n).foldl (fun s m => endMsg s m stFenced) s

/-- WYM_SA_KEY_WRITE: a write to WYM_SA_ID (`id`) or WYM_SA_KEY of an SA (R295, R326). -/
def execWymSaKeyWrite (n : Fin 1024) (id : Bool) (part : RegPart) (v : Word) (s : State) : Host.Outcome State Fault Refusal :=
  let k := rSaKey n.val
  whenReady s (
    if id then
      let w := mergePart part (s.reg (rSaId n.val)) v
      if saValid s n.val then s.errWr
      -- SPI is 1 to 2^32 - 1: a write of 0 leaves it (R292, R294)
      else if part ≠ .high ∧ bitsOf w 0 32 = 0 then s.errWr.setReg (rSaId n.val) (putField w 0 32 (saSpi s n.val))
      else s.setReg (rSaId n.val) w
    else
      let new := (putFields 0 (mergePart part (s.reg k) v) [.all 0 12, .all 12 1, .all 13 1, .all 16 8]).1
      let p := bitsOf new 16 8
      -- PECK is 1 to 255: a write of 0 leaves it (R292, R294)
      let none_ := part ≠ .high ∧ p = 0
      let w := if none_ then putField new 16 8 (saPeck s n.val) else new
      let t := if none_ then s.errWr else s
      if p ≠ 0 ∧ (s.peck p).state = .free then s.errWr
      else if saValid s n.val then
        if bitsOf w 13 1 = 1 then s.errWr else settleAll (clearSa (t.setReg k w) n.val)
      else if bitsOf w 13 1 = 1 ∧ (saSpi s n.val = 0 ∨ (saBySpi s (saSpi s n.val)).isSome ∨
          !(s.peck (bitsOf w 16 8)).keys.testBit (bitsOf w 0 12) ∨ bitsOf w 16 8 = 0) then s.errWr
      else t.setReg k w)

end Sys2Proof.Machine
end

