-- ==== Sys2Proof/Machine/Env.lean ====
section
/-!
DEFINITION. What several families of device events share: a step of device time (R310, R343, R564), the fence of every function (R20, R526),
the power-cycle request (R526), and WAKE#.
-/

namespace Sys2Proof.Machine

def evTimeStepped : BitVec 16 := 0x0C04#16
def evPowercycleRequest : BitVec 16 := 0x0A04#16

/-- Pecks that exist. -/
def livePecks (s : State) : List Nat := (List.range 256).filter fun p => p ≠ 0 ∧ (s.peck p).state ≠ .free

/-- Device time is stepped by a signed number of ns: engine time is counted up to the step, and each running meter interval is marked (R343);
gate phases follow from the new time (R310). -/
def stepTime (s : State) (d : Int) : State :=
  let s := (livePecks s).foldl meterTick s
  let t := ((Int.ofNat s.time + d) % (2 ^ 64 : Int)).toNat
  let s := { s with time := t, minute := min s.minute (t / 60000000000), clk := { s.clk with pps := min s.clk.pps (t / 1000000000) } }
  let s := (livePecks s).foldl (fun s p => s.updPeck p fun x => { x with meter := { x.meter with stepped := true, engAt := t } }) s
  (s.bump rTimeSteps 1).mgrEvent sevInfo evTimeStepped (BitVec.ofInt 64 d) (BitVec.ofNat 64 (bitsOf (s.reg rTimeCfg) 0 2))

/-- An offset to be removed, in ps: slewed when at most 1 µs, else stepped (R541, R564). -/
def removeOffset (s : State) (ps : Int) : State :=
  if ps.natAbs ≤ 1000000 then { s with clk := { s.clk with slew := -(ps * 1000000) } }
  else stepTime { s with clk := { s.clk with slew := 0 } } (-(ps / 1000))

/-- No function takes new work, and outstanding work completes with ST_FENCED (R20, R526). -/
def fenceAll (s : State) : State :=
  let s := { s with rcv := { s.rcv with fenced := true } }
  let s := (livePecks s).foldl (fun s p =>
    let s := (List.range 4).foldl (fun s q => fenceCipher s p q stFenced 4097) (fencePeck s p stFenced)
    fenceRings s p stFenced) s
  settleAll (fenceManager s)

/-- POWERCYCLE_REQUEST is raised and signalled to the alarm vector, and the tray controller is asked by an in-band interrupt (R526, R545). -/
def askPower (s : State) : State :=
  let cause := bitsOf (s.reg rRcvPcreq) 8 8
  let taken := s.attached && !(s.fn 0).d3 && (s.eventSpring 0).isSome
  let s := s.mgrEvent sevFatal evPowercycleRequest (BitVec.ofNat 64 cause) 0
  let av := s.reg rAlarmVec
  let s := if taken && bitsOf av 15 1 == 1 then s.signalVec 0 (bitsOf av 0 11) else s
  ({ s with rcv := { s.rcv with asked := s.time } }).ibi 0x01 cause

/-- The device enters the power-cycle level (R526): every function is fenced, held meter records are written, the partner is told, and the power
cycle is requested. A request already pending keeps its cause. -/
def requestPowerCycle (s : State) (cause : Nat) : State :=
  if bitsOf (s.reg rRcvPcreq) 0 1 = 1 then s
  else
    let s := pairSplit (meterWrite 1024 (fenceAll s)) pairLeave
    askPower (s.setReg rRcvPcreq (BitVec.ofNat 64 (1 + cause * 2 ^ 8)))

def evEscalated : BitVec 16 := 0x0A02#16

/-- A reset is entered by escalation (R523): counted, kept as the highest level, and reported. -/
def escalate (s : State) (level : Nat) (code : Word) : State :=
  let s := (s.bump rRcvEscal 1).setRegField rRcvLast 24 3 level
  s.mgrEvent sevWarn evEscalated (BitVec.ofNat 64 level) code

/-- The device escalates to a board power cycle (R524). -/
def powerLevel (s : State) (cause : Nat) (code : Word) : State :=
  if bitsOf (s.reg rRcvPcreq) 0 1 = 1 then s else requestPowerCycle (escalate s 4 code) cause

/-- Warm resets in the last 3,600 s (R524, R529). -/
def recentWarms (s : State) : Nat := (s.warms.filter fun t => decide (s.time < t + 3600000000000)).length

/-- The device escalates to a warm reset, or past WARMMAX to a power cycle (R524). The reset itself is DEVICE_WARM_RESET's. -/
def warmLevel (s : State) (cause : Nat) (code : Word) : State :=
  if s.rcv.warm.isSome ∨ bitsOf (s.reg rRcvPcreq) 0 1 = 1 then s
  else if recentWarms s + 1 > bitsOf (s.reg rRcvCfg) 48 3 then powerLevel s 1 code
  else
    let s := escalate s 3 code
    { s with rcv := { s.rcv with warm := some cause, escals := s.rcv.escals ++ [(3, code, s.time)] } }

/-- WAKE# is asserted (R371); it acts in D3cold only. -/
def assertWake (s : State) : State :=
  if s.d3cold then { s with pcie := { s.pcie with wake := true } }.emit (.signal "WAKE#" [1]) else s

end Sys2Proof.Machine
end

