-- ==== Sys2Proof/Machine/Integ.lean ====
section
/-!
DEFINITION. Scrubbing, targeted self-tests and repair (R438 to R444), and the die-to-die links (R15 to R20).
-/

namespace Sys2Proof.Machine

/-! ## Scrubbing (R442 to R444) -/

/-- What a pass over a range finds: corrected words, and the uncorrectable words in address order. -/
def scrubFinds (s : State) (a len : Nat) : Nat × List Nat :=
  let hit (n : Nat) : Bool := decide (a / 8 ≤ n) && decide (n * 8 < a + len)
  let corr := (s.latent.filter fun (e : Nat × ErrPat) => hit e.1 && (match eccOf (decide (e.1 * 8 < hbmTop)) e.2 with
    | .corrected _ => true
    | _ => false)).length
  let t := s.settle a len
  (corr, (t.mem.tags.filter fun (e : Nat × Tag) => hit e.1 && e.2 == Tag.poison).map fun (e : Nat × Tag) => e.1 * 8)

/-- INTG_SCRUB_START: a write of START begins a pass (R442). Every word of the range is read here; SCRUB_PASS_END ends the pass. -/
def execIntgScrubStart (part : RegPart) (v : Word) (s : State) : Host.Outcome State Fault Refusal :=
  let a := bitsOf (s.reg rScrubBase) 0 40
  let len := bitsOf (s.reg rScrubLen) 0 41
  whenReady s (
    if bitsOf (mergePart part 0 v) 0 1 = 0 then s
    else if s.intg.scrub.isSome ∨ a % 64 ≠ 0 ∨ len % 64 ≠ 0 ∨ within 64 (2 ^ 40) len = false ∨ rangeExists a len = false then s.errWr
    else
      let (corr, bad) := scrubFinds s a len
      let s := s.settle a len
      let s := (s.setReg rScrubCtl 2).setReg rScrubStat 0
      let s := (List.range 16).foldl (fun s k => s.setReg (rScrubAddr k) 0) s
      { s with intg := { s.intg with scrub := some (corr, bad.length, bad.take 16) } })

/-- SCRUB_PASS_END: the pass ends with its results (R444). No effect while no pass runs. -/
def execScrubPassEnd (s : State) : Host.Outcome State Fault Refusal :=
  .next (match s.intg.scrub with
  | none => s
  | some (corr, n, addrs) =>
    let s := { s with intg := { s.intg with scrub := none } }
    let s := (s.setReg rScrubCtl 0).setReg rScrubStat (BitVec.ofNat 64 (min corr (2 ^ 32 - 1) + min n 65535 * 2 ^ 32 + addrs.length * 2 ^ 48))
    let s := (addrs.zipIdx).foldl (fun s (a, k) => s.setReg (rScrubAddr k) (BitVec.ofNat 64 a)) s
    s.mgrEvent sevInfo evScrubDone (s.reg rScrubStat) 0)

/-! ## Tests and repair (R438 to R441) -/

/-- The word line, column or row of an address, with its unit. -/
def lineKey (a : Nat) : Nat := (unitOf a).2 + 2 ^ 16 * Config.lineOf a

/-- Retire a Gill (kind 1) or Grain (kind 2) (R441). -/
def retireUnit (s : State) (kind n : Nat) : State :=
  let known := if kind = 1 then s.intg.gills.contains n else s.intg.grains.contains n
  if known then s
  else
    let s := if kind = 1 then
        ({ s with intg := { s.intg with gills := s.intg.gills ++ [n] } }).setRegField rIntgRetired 32 13 (s.intg.gills.length + 1)
      else ({ s with intg := { s.intg with grains := s.intg.grains ++ [n] } }).setRegField rIntgRetired 0 18 (s.intg.grains.length + 1)
    s.mgrEvent sevWarn evUnitRetired (BitVec.ofNat 64 kind) (BitVec.ofNat 64 n)

/-- A failed test is repaired with a spare, or its unit is lost (R440, R441). -/
def repairAt (s : State) (a : Nat) : State :=
  let (r, c) := unitOf a
  let code := BitVec.ofNat 64 c
  let hbm := decide (a < hbmTop)
  let (lo, w) := if hbm then (48, 11) else if a < poolBase then (48, 10) else (48, 6)
  let n := bitsOf (s.reg r) lo w
  if 0 < n then
    let s := s.setRegField r lo w (n - 1)
    let s := if hbm then
        let st := c / 256
        { s.setRegField r 59 1 1 with intg := { s.intg with soft := tblSet 0 s.intg.soft st (tblGet 0 s.intg.soft st + 1) } }
      else s
    s.mgrEvent sevInfo evRepaired code (BitVec.ofNat 64 (n - 1))
  else
    let s := s.mgrEvent sevWarn evSparesOut code (BitVec.ofNat 64 a)
    if hbm then (a / 0x200000 :: Config.grainsOfRow a).foldl (fun s g => retireUnit s 2 g) s
    else if a < poolBase then ((a - mereBase) / 0x10000 :: Config.gillsOfCol a).foldl (fun s g => retireUnit s 1 g) s
    else s.updEng ((a - poolBase) / 0x200000) fun x => { x with poolBad := true }

/-- Test the line of a word whose error is the first of its unit on the fault list; a second error on the line within 1 s of a pass is a fail
(R438). -/
def selfTest (s : State) (a : Nat) (fail : Bool) : State :=
  let w := a / 8 * 8
  if (s.intg.faults.find? fun b => (unitOf b).1 == (unitOf w).1) ≠ some w then s
  else
    let again := s.intg.passes.any fun (p : Nat × Nat) => p.1 == lineKey w && decide (s.time < p.2 + 1000000000)
    let s := { s with intg := { s.intg with faults := s.intg.faults.erase w } }
    if fail || again then repairAt s w
    else
      let ps := (s.intg.passes.filter fun (p : Nat × Nat) => p.1 != lineKey w && decide (s.time < p.2 + 1000000000)) ++ [(lineKey w, s.time)]
      ({ s with intg := { s.intg with passes := ps } }).mgrEvent sevInfo evFaultTransient (BitVec.ofNat 64 (unitOf w).2) (BitVec.ofNat 64 w)

/-- TARGETED_SELF_TEST: the test of the line or row of an address ends, with a fail or a pass (R438); or an engine's registers had an error,
its row is suspect, and the pending test will or will not find it failed, at once when the engine holds no context and is being reset or unassigned
(R439). An address outside the address space faults; a word without a fault has no test. -/
def execTargetedSelfTest (t : SelfTest) (fail : Bool) (s : State) : Host.Outcome State Fault Refusal :=
  match t with
  | .word a => if addrExists a then .next (selfTest s a fail) else .fault (.addressHole a)
  | .row e =>
    let s := (s.setRegField (rIntgPool e.val) 55 1 1).updEng e.val fun x => { x with badRows := x.badRows + fail.toNat }
    .next (if residents s e.val = 0 ∧ ((s.eng e.val).resetting ∨ (s.eng e.val).peck = 0) then rowTest s e.val else s)

/-! ## Die-to-die links (R15 to R20) -/

/-- Modules of a link (R15). -/
def linkModules (l : Nat) : Nat := if l = 0 then 16 else if l ≤ 8 then 2 else if l ≤ 12 then 4 else if l = 13 then 2 else 1

/-- A link's state and working modules (R18, R447). -/
def setD2d (s : State) (l st n : Nat) : State := (s.setRegField (rLink l) 0 2 st).setRegField (rLink l) 8 5 n

/-- A link is DOWN: reported as fatal, and the device escalates to a power cycle (R20, R524). -/
def d2dDown (s : State) (l : Nat) : State :=
  powerLevel ((setD2d s l 0 0).mgrEvent sevFatal evLinkDown (BitVec.ofNat 64 l) 0) 4 0

/-- D2D_LINK_DOWN (R20). No effect on a link that is DOWN. -/
def execD2dLinkDown (l : Fin 17) (s : State) : Host.Outcome State Fault Refusal :=
  .next (if bitsOf (s.reg (rLink l.val)) 0 2 = 0 then s else d2dDown s l.val)

/-- A failing lane of a module in one direction is replaced by a spare, or, with none left, its module goes out of service (R19); the Bool says that the
module went out. Each is reported. -/
def spareLane (s : State) (l m : Nat) (dir : Bool) : State × Bool :=
  let key := l * 16 + m
  let k := key * 2 + dir.toNat
  let used := tblGet 0 s.intg.lanes k
  if used < 4 then
    let s := { s with intg := { s.intg with lanes := tblSet 0 s.intg.lanes k (used + 1) } }
    let s := s.setRegField (rLink l) 16 8 (bitsOf (s.reg (rLink l)) 16 8 - 1)
    ((s.bump (rLinkSpared l) 1).mgrEvent sevWarn evLinkSpare (BitVec.ofNat 64 l) (BitVec.ofNat 64 m), false)
  else
    ({ s with intg := { s.intg with out_ := s.intg.out_ ++ [key] } }.mgrEvent sevWarn evLinkModuleOut (BitVec.ofNat 64 l) (BitVec.ofNat 64 m), true)

/-- Lanes that training finds failing are spared (R19); those of a module that is absent or out of service are not looked at. -/
def spareAtTraining (s : State) (lanes : List Nat) : State :=
  lanes.foldl (fun s k =>
    let key := k / 2
    if key % 16 ≥ linkModules (key / 16) ∨ key / 16 ≥ 17 ∨ s.intg.out_.contains key then s
    else (spareLane s (key / 16) (key % 16) (k % 2 == 1)).1) s

/-- The words that a flit given up after 8 retries delivered carry POISON (R17). -/
def deliverPoison (s : State) (ws : List Nat) : State :=
  (ws.filter fun a => rangeExists (a / 8 * 8) 8).foldl (fun s a => s.putWord (a / 8 * 8) ⟨(s.mem.word (a / 8 * 8)).bits, Tag.poison⟩) s

/-- LANE_SPARING: flits of a lane fail: `n.retried` of them were retried, and each of `lost` was given up and delivered the words it names as POISON (R17).
When the lane's errors within the last second, `n.errs`, reach INTG_CFG.LANETHR, a spare takes the lane's place, or the module goes out of service, and with
the last one the link is DOWN (R19, R20). -/
def execLaneSparing (l : Fin 17) (m : Fin 16) (dir : Bool) (n : LaneErrs) (lost : List (List Nat)) (s : State) : Host.Outcome State Fault Refusal :=
  .next (
    if m.val ≥ linkModules l.val ∨ s.intg.out_.contains (l.val * 16 + m.val) ∨ bitsOf (s.reg (rLink l.val)) 0 2 < 2 then s
    else
      let s := lost.foldl deliverPoison ((s.bump (rLinkRetry l.val) n.retried).bump (rLinkUnc l.val) lost.length)
      if n.errs < bitsOf (s.reg rIntgCfg) 0 16 then s
      else
        let (s, out) := spareLane s l.val m.val dir
        if !out then s
        else
          let k := bitsOf (s.reg (rLink l.val)) 8 5 - 1
          if k = 0 then d2dDown (setD2d s l.val 3 k) l.val else setD2d s l.val 3 k)

end Sys2Proof.Machine
end

