-- ==== Sys2Proof/Machine/PowerRows.lean ====
section
/-!
DEFINITION. Power, thermal limits and clocks (R549 to R561), device time and IEEE 1588 (R562 to R565), and idle states (R566).
-/

namespace Sys2Proof.Machine

def evPwrEmergency : BitVec 16 := 0x0C00#16
def evPwrEmergencyClear : BitVec 16 := 0x0C01#16
def evThmWarn : BitVec 16 := 0x0C02#16
def evThermtrip : BitVec 16 := 0x0C03#16

/-! ## Limits (R555, R572) -/

/-- Fused sustained and peak limits and the floor, W (R572). -/
def pwrFused : Nat := if Config.lowPower then 750 else 1000
def pwrPeakFused : Nat := if Config.lowPower then 860 else 1150
def pwrFloor : Nat := 600

/-- Field of the board record in force; none without a record (R569). -/
def boardField (s : State) (at_ n : Nat) : Option Nat := (s.fw.boot.bind (·.board)).map fun r => recNum r at_ n

/-- VRMAX (R569). -/
def vrMax (s : State) : Nat := (boardField s 136 2).getD 1100

/-- The VDD_CORE target for a clock of 2.0 GHz × n ÷ 16, mV: at most 0.75 V (R551). -/
def vTarget (n : Nat) : Nat := 650 + min (Config.vfSteps n) 20 * 5

/-- PWR_LIMIT_WRITE: SUSTAINED takes a value from the floor power to the fused limit (R555); during an emergency the write waits until it clears
(R558). The high half holds reserved bits only, and writing it has no effect (R5, R6). -/
def execPwrLimitWrite (part : RegPart) (v : Word) (s : State) : Host.Outcome State Fault Refusal :=
  let w := bitsOf (mergePart part (s.reg rPwrLimit) v) 0 11
  whenReady s (
    if part = .high then s
    else if within pwrFloor pwrFused w = false then s.errWr
    else if s.pwr.epwr || s.pwr.ethm then { s with pwr := { s.pwr with limit := some w } }
    else s.setReg rPwrLimit (BitVec.ofNat 64 w))

/-! ## Emergencies and sensors (R557 to R559) -/

/-- The clock is to move to n: its steps come 0.5 µs apart, at ticks (R554). A falling clock lowers the voltage target once it has moved; a rising one
has raised it before (R551). -/
def clockTo (p : Power) (n : Nat) : Power := { p with goal := n, want := n }

/-- A power or thermal emergency is detected: the clock goes to n = 4 (R557). One that overlaps another is part of it (R558). -/
def emergency (s : State) (pwr thm : Bool) : State :=
  let p := s.pwr
  if (!pwr || p.epwr) && (!thm || p.ethm) then s
  else
    let first := !(p.epwr || p.ethm)
    let s := { s with pwr := { clockTo p 4 with
      epwr := p.epwr || pwr, ethm := p.ethm || thm, since := if first then s.time else p.since,
      hotAt := if thm && !p.ethm then s.time else p.hotAt } }
    if first then (s.bump rPwrEmergs 1).mgrEvent sevWarn evPwrEmergency (BitVec.ofNat 64 (pwr.toNat + 2 * thm.toNat)) (BitVec.ofNat 64 s.time) else s

/-- EMERG_PWR_ASSERT: EMERG_PWR# has been low for 1 µs (R557). -/
def execEmergPwrAssert (s : State) : Host.Outcome State Fault Refusal := .next (if s.phase = 2 then emergency s true false else s)
/-- EMERG_THM_ASSERT: EMERG_THM# has been low for 1 µs (R557). -/
def execEmergThmAssert (s : State) : Host.Outcome State Fault Refusal := .next (if s.phase = 2 then emergency s false true else s)

/-- THM_LIMITS.HOT. -/
def thmHot (s : State) : Nat := bitsOf (s.reg rThmLimits) 8 8

/-- EMERGENCY_CLEAR: the inputs named have been high for 1 ms. Their emergencies clear when every sensor is at least 5 °C below HOT, and with the
last one the device returns to R555 and a waiting PWR_LIMIT write takes effect (R557, R558). -/
def execEmergencyClear (pwr thm : Bool) (s : State) : Host.Outcome State Fault Refusal :=
  let p := s.pwr
  .next (
    if !(p.epwr || p.ethm) ∨ s.pwr.temps.any (fun (x : Nat × Int) => decide (x.2 > (thmHot s : Int) - 5)) then s
    else
      let q := { p with epwr := p.epwr && !pwr, ethm := p.ethm && !thm }
      let s := if p.ethm && !q.ethm then s.bump rThmHot ((s.time - p.hotAt) / 1000) else s
      if q.epwr || q.ethm then { s with pwr := q }
      else
        let s := { s with pwr := { q with cleared := s.time, limit := none } }
        let s := match p.limit with
          | some w => s.setReg rPwrLimit (BitVec.ofNat 64 w)
          | none => s
        s.mgrEvent sevInfo evPwrEmergencyClear 0 (BitVec.ofNat 64 ((s.time - p.since) / 1000)))

/-- THERMTRIP# is asserted and a power cycle is requested; the manual names no CAUSE for it: a free value (R526, R552, R559). -/
def tripOut (s : State) : State :=
  let s := { s with pcie := { s.pcie with trip := true } }.emit (.signal "THERMTRIP#" [1])
  let (w, s) := s.draw
  requestPowerCycle s (w.toNat % 256)

/-- THERMAL_SENSOR_CROSSING: a sensor reads a temperature, °C: WARN once per crossing, HOT enters an emergency, TRIP on a die sensor trips (R559). -/
def execThermalSensorCrossing (i : Fin 54) (t : Int) (s : State) : Host.Outcome State Fault Refusal :=
  let old := tblGet 0 s.pwr.temps i.val
  let warn : Int := bitsOf (s.reg rThmLimits) 0 8
  let a0 := BitVec.ofNat 64 i.val
  let s := { s with pwr := { s.pwr with
    temps := tblSet 0 s.pwr.temps i.val t, highs := tblSet 0 s.pwr.highs i.val (max (tblGet 0 s.pwr.highs i.val) t) } }
  .next (
    if s.phase ≠ 2 then s
    else
      let s := if old < warn ∧ warn ≤ t then s.mgrEvent sevWarn evThmWarn a0 (BitVec.ofInt 64 t) else s
      let s := if t ≥ (thmHot s : Int) then emergency s false true else s
      if i.val < 46 ∧ old < 115 ∧ 115 ≤ t then tripOut (s.mgrEvent sevFatal evThermtrip a0 (BitVec.ofInt 64 t)) else s)

/-- RAIL_PG_FALL: a rail-good input falls while the device runs: a VGLITCH alarm, THERMTRIP# and a power-cycle request (R552). -/
def execRailPgFall (r : Fin 5) (s : State) : Host.Outcome State Fault Refusal :=
  .next (
    if s.phase = 0 ∨ s.d3cold ∨ !s.pwr.pg.getLsbD r.val then s
    else tripOut (tamper { s with pwr := { s.pwr with pg := s.pwr.pg &&& ~~~(1#5 <<< r.val) } } 0))

/-- ROOT_PLL_UNLOCK: every die-to-die link becomes DOWN, LINK_DOWN is raised for link 0, and the guard die runs on its oscillator (R561). -/
def execRootPllUnlock (s : State) : Host.Outcome State Fault Refusal :=
  .next (
    if !s.pwr.lock then s
    else
      let s := { s with pwr := { s.pwr with lock := false, fallback := true } }.bump rUnlocks 1
      d2dDown ((List.range 17).foldl (fun s l => setD2d s l 0 0) s) 0)

/-! ## The controller (R551, R555, R556) -/

/-- A lower clock: the manual gives the controller's aim and not where it goes, so the new goal is free below the clock in force (R556). The clock
falls before the voltage (R551). -/
def clockDown (s : State) : State :=
  if s.pwr.n ≤ 4 then { s with pwr := clockTo s.pwr s.pwr.n }
  else
    let (w, s) := s.draw
    { s with pwr := clockTo s.pwr (4 + w.toNat % (s.pwr.n - 4)) }

/-- A higher clock, free from the one in force to 16: the voltage rises first, and the clock follows when it has been read back (R551). -/
def clockUp (s : State) : State :=
  let (w, s) := s.draw
  let n := s.pwr.n + w.toNat % (17 - s.pwr.n)
  { s with pwr := { s.pwr with want := n, vcore := vTarget n } }

/-- PWR_SAMPLE: every 10 µs package power is sampled; its averages over 100 µs, 1 ms and 1 s are given, W (R555). No effect before. -/
def execPwrSample (us100 ms1 s1 : Nat) (s : State) : Host.Outcome State Fault Refusal :=
  .next (
    if s.phase ≠ 2 ∨ s.time < s.pwr.sampled + 10000 then s
    else
      let capped := decide (s.pwr.n < 16)
      let s := if capped then s.bump rPwrCapTime ((s.time - s.pwr.sampled) / 1000) else s
      let s := s.setReg rPwrMeas (BitVec.ofNat 64 (ms1 % 65536 + s.pwr.amps % 65536 * 2 ^ 16 + s1 % 65536 * 2 ^ 32))
      let sus := bitsOf (s.reg rPwrLimit) 0 11
      let peak := min pwrPeakFused (sus * 115 / 100)
      let ovr := if us100 > sus then some (s.pwr.ovr.getD s.time) else none
      let s := { s with pwr := { s.pwr with sampled := s.time, ovr := ovr } }
      if s.pwr.epwr || s.pwr.ethm then s
      else
        -- a run of averages above the sustained limit ends before it lasts longer than 10 ms
        let long : Bool := match ovr with
          | some t => decide (s.time + 10000 > t + 10000000)
          | none => false
        if us100 > peak ∨ s1 > sus ∨ long = true ∨ s.pwr.amps > vrMax s then clockDown s else clockUp s)

/-- AVS_POLL: every 10 µs the guard die reads VDD_CORE's voltage, current and temperature (R551): a clock that waits for its voltage rises, the
voltage of a clock that has fallen follows it, and a current above VRMAX acts as a binding limit (R569). -/
def execAvsPoll (mv amps : Nat) (temp : Int) (s : State) : Host.Outcome State Fault Refusal :=
  let s := { s with pwr := { s.pwr with volts := mv, amps := amps, temp := temp } }
  let settled (s : State) : State := if s.pwr.n = s.pwr.want then { s with pwr := { s.pwr with vcore := vTarget s.pwr.n } } else s
  .next (
    if s.phase ≠ 2 then s
    else if s.pwr.epwr ∨ s.pwr.ethm then settled s
    else if amps > vrMax s then clockDown s
    else if mv ≥ s.pwr.vcore then settled { s with pwr := { s.pwr with goal := s.pwr.want } }
    else settled s)

/-! ## Idle states (R566) -/

/-- The governing latency of a unit that certain Pecks hold, ns (R566). -/
def govern (s : State) (holds : Nat → Bool) : Nat :=
  ((List.range 256).filter fun p => p ≠ 0 ∧ holds p).foldl (fun m p =>
    let w := bitsOf (s.reg (rPeckWake p)) 0 32
    if w = 0 then m else min m w) (bitsOf (s.reg rPwrWake) 0 32)

/-- Whether a Peck holds a Grain of an HBM half. -/
def holdsHalf (s : State) (h p : Nat) : Bool := (s.peck p).grains / 2 ^ (h * 98304) % 2 ^ 98304 != 0

/-- HBM_SELF_REFRESH_ENTRY: a half has had no access for 20 µs and enters self-refresh within its governing latency, or a request wakes it
(R566). -/
def execHbmSelfRefreshEntry (h : Fin 2) (enter : Bool) (s : State) : Host.Outcome State Fault Refusal :=
  .next (
    if s.phase ≠ 2 then s
    else if enter then (if 5000 ≤ govern s (holdsHalf s h.val) then s.setRegField rPwrIdle (8 + 4 * h.val) 4 15 else s)
    else s.setRegField rPwrIdle (8 + 4 * h.val) 4 0)

/-! ## Device time (R562 to R565) -/

/-- TIME_CFG.MODE. -/
def timeMode (s : State) : Nat := bitsOf (s.reg rTimeCfg) 0 2

/-- TIME_STEP_WRITE: in MANUAL mode device time is stepped by the signed value (R564); ignored on the secondary of a joined pair and in other
modes. -/
def execTimeStepWrite (part : RegPart) (v : Word) (s : State) : Host.Outcome State Fault Refusal :=
  whenReady s (
    if (s.secondary && s.pair.joined) || timeMode s != 2 then s.errWr
    else stepTime s (mergePart part 0 v).toInt)

/-- TIME_NOW_READ: a low-half read latches the high half for the function's next read of the high half (R562). Zero before READY (R498). -/
def execTimeNowRead (f : Fin 512) (part : RegPart) (s : State) : Host.Outcome State Fault Refusal :=
  .next (
    if s.phase ≠ 2 then s.emit (.completion (bytesOf (if part = .full then 8 else 4) 0) false)
    else match part with
    | .full => s.emit (.completion (bytesOf 8 s.time) false)
    | .low => { s with clk := { s.clk with latch := (s.clk.latch.filter fun (x : Nat × Nat) => x.1 ≠ f.val) ++ [(f.val, s.time / 2 ^ 32)] } }.emit
        (.completion (bytesOf 4 s.time) false)
    | .high =>
      let hi := ((s.clk.latch.find? fun (x : Nat × Nat) => x.1 == f.val).map (·.2)).getD (s.time / 2 ^ 32)
      { s with clk := { s.clk with latch := s.clk.latch.filter fun (x : Nat × Nat) => x.1 ≠ f.val } }.emit (.completion (bytesOf 4 hi) false))

/-- PPS_EDGE: with PPSEN, PPS_OUT rises at a whole second of device time, and falls 1 µs later (R565). No effect before. -/
def execPpsEdge (s : State) : Host.Outcome State Fault Refusal :=
  let sec := s.time / 1000000000
  .next (
    if sec ≤ s.clk.pps then s
    else
      let s := { s with clk := { s.clk with pps := sec } }
      if s.phase = 2 ∧ bitsOf (s.reg rTimeCfg) 27 1 = 1 then s.emit (.signal "PPS_OUT" [1, sec * 1000000000, 0, sec * 1000000000 + 1000]) else s)

/-! ## IEEE 1588 (R563) -/

/-- Order of two lists of comparison values: the first difference decides. -/
def prioLt : List Nat → List Nat → Bool
  | [], [] => false
  | [], _ => true
  | _, [] => false
  | a :: as, b :: bs => decide (a < b) || (a == b && prioLt as bs)

/-- The best of the transmitters from which two Announce messages came (PRESUMED: IEEE 1588 qualification). -/
def bestMaster (s : State) : Option (Nat × Nat) :=
  let ms := s.clk.masters.filter fun m => m.count ≥ 2
  (ms.foldl (fun (best : Option PtpMaster) m => match best with
    | none => some m
    | some b => if prioLt m.prio b.prio then some m else some b) none).map fun m => (m.port, m.ident)

/-- The selection is made anew; a new transmitter is not yet calibrated, and without one the device listens. -/
def reselect (s : State) : State :=
  let b := bestMaster s
  if b = s.clk.chosen then s
  else
    let s := { s with clk := { s.clk with chosen := b, sync := none, ms := none, req := none, resp := none, delay := none } }
    let s := s.setRegField rTimeStat 0 2 (if b.isSome then 2 else 1)
    s.setRegField rTimeStat 8 4 ((b.map (·.1)).getD 0)

/-- The offset from the transmitter is measured: OFFSET takes it, and time is disciplined, but not on the secondary of a joined pair (R540, R564).
The servo's frequency is free within ±200,000 ppb. -/
def servo (s : State) : State :=
  match s.clk.ms, s.clk.delay with
  | some m, some d =>
    let o := m - d
    let s := s.setRegField rTimeStat 32 32 (BitVec.ofInt 32 o).toNat
    if s.secondary && s.pair.joined then s
    else
      let (w, s) := s.draw
      let s := s.setReg rTimeAdj (BitVec.ofNat 64 (BitVec.ofInt 32 ((w.toNat % 400001 : Nat) - 200000)).toNat)
      let s := if o.natAbs ≤ 1000 then s.setRegField rTimeStat 0 2 3 else s
      removeOffset s (o * 1000)
  | _, _ => s

/-- A Sync is complete: its arrival less its origin and corrections. -/
def syncDone (s : State) (arrival : Nat) (origin corr : Int) : State :=
  servo { s with clk := { s.clk with sync := none, ms := some ((arrival : Int) - origin - corr) } }

/-- The mean path delay is measured. -/
def setDelay (s : State) (d : Int) : State := servo { s with clk := { s.clk with req := none, resp := none, delay := some d } }

/-- PTP_MESSAGE: a message of a domain from a sender arrives on a port (R563): ignored unless MODE is PTP, the port takes part and the domain is
DOMAIN; all but Announce and peer-delay messages count from the selected transmitter only. -/
def execPtpMessage (port : Fin 16) (domain ident : Nat) (m : PtpMsg) (s : State) : Host.Outcome State Fault Refusal :=
  let cfg := s.reg rTimeCfg
  let t : Int := s.time
  let p2p := bitsOf cfg 26 1 == 1
  let mine := s.clk.chosen == some (port.val, ident)
  let asked (q : Nat) : Option Int := (s.clk.req.filter fun (r : Nat × Nat) => r.1 == q).map fun r => (r.2 : Int)
  .next (
    if s.phase ≠ 2 ∨ timeMode s ≠ 1 ∨ bitsOf cfg (10 + port.val) 1 = 0 ∨ domain ≠ bitsOf cfg 2 8 then s
    else match m with
    | .announce prio =>
      let n := ((s.clk.masters.find? fun x => x.port == port.val && x.ident == ident).map (·.count)).getD 0
      let rest := s.clk.masters.filter fun x => !(x.port == port.val && x.ident == ident)
      reselect { s with clk := { s.clk with masters := rest ++ [⟨port.val, ident, prio, min 2 (n + 1)⟩] } }
    | .sync seq origin corr =>
      if !mine then s
      else match origin with
        | some o => syncDone s s.time o corr
        | none => { s with clk := { s.clk with sync := some (seq, s.time) } }
    | .followUp seq origin corr =>
      match s.clk.sync with
      | some (q, a) => if mine ∧ q = seq then syncDone s a origin corr else s
      | none => s
    | .delayResp seq receipt corr =>
      match asked seq, s.clk.ms with
      | some dep, some ms => if mine ∧ !p2p then setDelay s ((ms + (receipt - dep - corr)) / 2) else s
      | _, _ => s
    | .pdelayResp seq two receipt corr =>
      match asked seq with
      | some dep =>
        if !p2p then s
        else if two then { s with clk := { s.clk with resp := some (s.time, receipt + corr) } }
        else setDelay s ((t - dep - corr) / 2)
      | none => s
    | .pdelayFollowUp seq origin corr =>
      match asked seq, s.clk.resp with
      | some dep, some (a, receipt) => if p2p then setDelay s (((a : Int) - dep - (origin + corr - receipt)) / 2) else s
      | _, _ => s)

/-- ANNOUNCE_RECEIPT_TIMEOUT: the selected transmitter is lost, and another qualified one is selected or the device listens (R563). -/
def execAnnounceReceiptTimeout (s : State) : Host.Outcome State Fault Refusal :=
  .next (match s.clk.chosen with
  | none => s
  | some (p, i) => reselect { s with clk := { s.clk with masters := s.clk.masters.filter fun m => !(m.port == p && m.ident == i) } })

/-- Bytes of a Delay_Req and a Pdelay_Req frame (PRESUMED: IEEE 1588 Annex E). -/
def ptpLen (p2p : Bool) : Nat := if p2p then 122 else 112

/-- PTP_DELAY_REQUEST: the time receiver sends its delay request, or peer-delay request, on the port of its transmitter (R563); the frame's departure
is its timestamp. -/
def execPtpDelayRequest (s : State) : Host.Outcome State Fault Refusal :=
  let p2p := bitsOf (s.reg rTimeCfg) 26 1 == 1
  .next (match s.clk.chosen with
  | none => s
  | some (p, _) =>
    if s.phase ≠ 2 ∨ timeMode s ≠ 1 then s
    else
      let q := (s.clk.seq + 1) % 65536
      fwFrame { s with clk := { s.clk with seq := q, req := none, resp := none } } p "PTP_DELAY_REQ" [q, p2p.toNat] (ptpLen p2p))

end Sys2Proof.Machine
end

