-- ==== Sys2Proof/Machine/Firm.lean ====
section
/-!
DEFINITION. Firmware (R496 to R508): bundles, boot, watchdogs, and live update.
-/

namespace Sys2Proof.Machine

def evFwStaged : BitVec 16 := 0x0900#16
def evFwDeferred : BitVec 16 := 0x0901#16
def evFwCommitted : BitVec 16 := 0x0902#16
def evFwRollback : BitVec 16 := 0x0903#16
def evFwWatchdog : BitVec 16 := 0x0904#16
def evFwBootFallback : BitVec 16 := 0x0905#16

/-! ## Bundles (R497) -/

/-- The COMP entries of a header: type, offset and digest bytes. -/
def bundleComps (bs : List Byte) : List (Nat × Nat × List Byte) :=
  (List.range (recNum bs 6 2)).map fun k => (recNum bs (32 + 40 * k) 1, recNum bs (36 + 40 * k) 4, (bs.drop (40 + 40 * k)).take 32)

/-- A bundle whose header is well formed (R501): none otherwise. A component ends where the next one begins, the last at the end of the bundle
(DEDUCED). -/
def parseBundle (bs : List Byte) : Option Bundle :=
  let n := recNum bs 6 2
  let cs := bundleComps bs
  let ts := cs.map (·.1)
  let tail := (bs.drop (32 + 40 * n)).take (352 - (32 + 40 * n))
  if bs.length < 512 ∨ recNum bs 0 4 ≠ 0x4C444E42 ∨ recNum bs 5 1 ≠ 1 ∨ ¬(n = 6 ∨ n = 7) then none
  else if tail.any (· != 0) ∨ ts.any (fun t => t == 0 || decide (t > 7)) ∨ !ts.Nodup ∨ !([1, 2, 3, 4, 5, 6].all fun t => ts.contains t) ∨
    cs.any (fun c => decide (c.2.1 < 512) || decide (c.2.1 ≥ bs.length)) then none
  else
    let stop (o : Nat) : Nat := (cs.map fun c => c.2.1).foldl (fun m x => if o < x ∧ x < m then x else m) bs.length
    let body (o : Nat) : List Byte := (bs.drop o).take (stop o - o)
    let full (o : Nat) : List Byte := ofNats (sha384 (toNats (body o)))
    let ok := ecdsaVerify (some (Config.fwPubX, Config.fwPubY)) (bs.take 416) ((bs.drop 416).take 96) && cs.all fun c => (full c.2.1).take 32 == c.2.2
    some ⟨recNum bs 8 4, recNum bs 12 4, recNum bs 16 1, recNum bs 17 1, recNum bs 18 1, recNum bs 19 1 % 2 == 1,
      (cs.filter fun c => c.1 != 7).map (fun c => (c.1, full c.2.1)), (cs.find? fun c => c.1 == 7).map fun c => body c.2.1, ok⟩

/-- The handover major of a running image: the highest that it reads (DEDUCED: R497, R502). -/
def handover (s : State) : Nat := (s.fw.run.map (·.horead)).getD 1

/-- What a staged bundle's check finds (R501, row 3). -/
def stageBad (s : State) (b : Bundle) : Bool :=
  !b.ok || decide (b.secver < s.fw.minsec) || decide (b.isa > 1) || decide (b.horead < handover s) || !b.hoback.testBit (handover s - 1)

/-! ## Live update (R501 to R506) -/

/-- An emergency is in force (R557). -/
def emergencyNow (s : State) : Bool := s.pwr.epwr || s.pwr.ethm

/-- No emergency has been present for 1 s (R506). -/
def calm (s : State) : Bool := !emergencyNow s && (s.pwr.cleared == 0 || decide (s.pwr.cleared + 1000000000 ≤ s.time))

/-- FW_STAGE: the bundle as read from PF0 memory, or the status with which its read failed (R501). -/
def execFwStage (id : Nat) (data : List Byte) (st : BitVec 16) (s : State) : Host.Outcome State Fault Refusal :=
  .next (s.request id 0x0900 fun i =>
    if s.fw.staged.isSome || s.fw.activating then s.done i stDuplicate
    else if st ≠ stOk then s.done i st
    else match parseBundle (data.take (i.w 1).toNat) with
      | none => s.done i stUndef
      | some b =>
        if stageBad s b then s.done i stRights
        else
          let s := { s with fw := { s.fw with staged := some b, flash := bitsOf (i.w 2) 0 1 == 1, rolled := false } }
          (s.mgrEvent sevInfo evFwStaged (BitVec.ofNat 64 b.ver) (BitVec.ofNat 64 b.secver)).done i stOk)

/-- FW_ABANDON (R501, R506). -/
def execFwAbandon (id : Nat) (s : State) : Host.Outcome State Fault Refusal :=
  .next (s.request id 0x0902 fun i =>
    if s.fw.staged.isNone || s.fw.activating then s.done i stAbortTooLate
    else ({ s with fw := { s.fw with staged := none, flash := false, deferred := false } }).done i stOk)

/-- Activation begins (R503). -/
def activate (s : State) : State := { s with fw := { s.fw with activating := true, switched := [], group := 0, began := s.time } }

/-- FW_ACTIVATE: refused, deferred under an emergency, or begun (R503, R506). -/
def execFwActivate (id : Nat) (s : State) : Host.Outcome State Fault Refusal :=
  .next (s.request id 0x0901 fun i =>
    match s.fw.staged with
    | none => s.done i stRights
    | some b =>
      if s.fw.activating ∨ (s.pair.joined ∧ b.ver / 65536 ≠ fwVer s / 65536 ∧ bitsOf (i.w 0) 0 1 = 0) then s.done i stRights
      else if emergencyNow s then
        (({ s with fw := { s.fw with deferred := true } }).mgrEvent sevWarn evFwDeferred (BitVec.ofNat 64 b.ver) 0).done i stDeferredEmergency
      else (activate s).done i stOk)

/-- FW_DEFERRED_START: a deferred activation begins once no emergency has been present for 1 s (R506). No effect before. -/
def execFwDeferredStart (s : State) : Host.Outcome State Fault Refusal :=
  .next (if s.fw.deferred ∧ s.fw.staged.isSome ∧ !s.fw.activating ∧ calm s then activate s else s)

/-- A group 1 image has switched: join records are exchanged anew (R503, R535). -/
def group1Switched (s : State) : State :=
  if s.pair.up ∧ ¬(s.pair.state = 3 ∧ s.pair.cause = pairManager) ∧ s.pair.state ≠ 0 then startJoin s else s

/-- FW_GROUP_SWITCH: the next group of an activation switches to the new image (R503). After an emergency that arose during the activation, none
switches until 1 s after it has cleared (R506). -/
def execFwGroupSwitch (g : Fin 7) (s : State) : Host.Outcome State Fault Refusal :=
  .next (
    if s.phase ≠ 2 ∨ !s.fw.activating ∨ g.val ≠ s.fw.switched.length + 1 ∨ emergencyNow s ∨ ¬(s.pwr.cleared ≤ s.fw.began ∨ calm s) then s
    else
      let s := { s with fw := { s.fw with switched := s.fw.switched ++ [g.val], group := g.val, switchAt := s.time, probation := true,
                                          deferred := false } }
      if g.val = 1 then group1Switched s else s)

/-- FW_PROBATION_END: 2 s after the last switch the image is committed (R505). A staged bundle without a board record carries on the one in force
(R501). No effect before. -/
def execFwProbationEnd (s : State) : Host.Outcome State Fault Refusal :=
  .next (match s.fw.staged with
  | none => s
  | some b =>
    if !s.fw.activating ∨ s.fw.switched.length ≠ 6 ∨ s.time < s.fw.switchAt + 2000000000 then s
    else
      let b := { b with board := b.board.or (s.fw.run.bind (·.board)) }
      let fl := s.fw.flash
      let s := { s with fw := { s.fw with run := some b, staged := none, switched := [], activating := false, probation := false, group := 0,
                                          flash := false, toFlash := if fl then some b else none } }
      s.mgrEvent sevInfo evFwCommitted (BitVec.ofNat 64 b.ver) (BitVec.ofNat 64 fl.toNat))

/-- FW_FLASH_WRITE: the committed bundle is written to the inactive slot; when it verifies the active-slot byte switches, and RAISE raises the fused
minimum (R505). -/
def execFwFlashWrite (ok : Bool) (s : State) : Host.Outcome State Fault Refusal :=
  .next (match s.fw.toFlash with
  | none => s
  | some b =>
    let f := s.fw
    let f := if f.active then { f with flashA := some { b with ok := ok } } else { f with flashB := some { b with ok := ok } }
    let f := if ok then { f with active := !f.active, minsec := if b.raise_ then max f.minsec b.secver else f.minsec } else f
    { s with fw := { f with toFlash := none } })

/-! ## Watchdogs and rollback (R496, R500, R504, R524) -/

/-- The group of a control core (R496). -/
def coreGroup (n : Nat) : Nat := if n < 16 then 5 else if n < 32 then 4 else if n < 48 then 2 else if n < 52 then 3 else if n < 56 then 1 else 6

def State.core (s : State) (n : Nat) : Core := tblGet Core.reset s.fw.cores n
def State.setCore (s : State) (n : Nat) (c : Core) : State := { s with fw := { s.fw with cores := tblSet Core.reset s.fw.cores n c } }

/-- REPEAT, ns (R530). -/
def repeatNs (s : State) : Nat := bitsOf (s.reg rRcvCfg) 52 10 * 1000000

/-- Rollback (R504): every switched group returns to the old image, items that the core held complete with ST_FENCED, and the staged image is
discarded. -/
def rollback (s : State) (core : Nat) (held : List Nat) : State :=
  let ver := (s.fw.staged.map (·.ver)).getD 0
  let had1 := s.fw.switched.contains 1
  let s := (s.items.filter fun i => held.contains i.id).foldl (fun s i => fenceItem s i stFenced) s
  let s := { s with fw := { s.fw with staged := none, switched := [], activating := false, probation := false, flash := false, deferred := false,
                                      rolled := true, group := 0 } }
  let s := s.mgrEvent sevWarn evFwRollback (BitVec.ofNat 64 ver) (BitVec.ofNat 64 core)
  if had1 then group1Switched s else s

/-- A control core restarts: it resumes the items it held (R513). A second restart within REPEAT escalates (R524). -/
def restartCore (s : State) (n : Nat) (code : Word) (cause : Nat) : State :=
  let c := s.core n
  let again := match c.last with
    | some t => decide (s.time ≤ t + repeatNs s)
    | none => false
  let s := s.setCore n { c with last := some s.time }
  if again then (if coreGroup n = 6 then powerLevel s 3 code else warmLevel s cause code) else s

/-- WATCHDOG_TRIP: a control core's watchdog trips, with the firmware items it held (R500, R504). -/
def execWatchdogTrip (n : Fin 60) (held : List Nat) (s : State) : Host.Outcome State Fault Refusal :=
  .next (
    if (s.core n.val).state = 0 then s
    else if s.fw.probation ∧ s.fw.switched.contains (coreGroup n.val) then settleAll (rollback s n.val held)
    else
      let c := s.core n.val
      let s := (s.setCore n.val { c with trips := (c.trips + 1) % 65536 }).bump rFwTrips 1
      let s := s.mgrEvent sevWarn evFwWatchdog (BitVec.ofNat 64 n.val) (BitVec.ofNat 64 (coreGroup n.val))
      restartCore s n.val (BitVec.ofNat 64 (0x04 + n.val * 256)) 3)

/-! ## Boot (R498, R552, R569) -/

/-- Boot ends in HALTED, with an in-band interrupt (R498, R545). -/
def halt (s : State) (step cause : Nat) : State :=
  ({ s with phase := 3, fw := { s.fw with errStep := step, errCause := cause, errSlot := s.fw.booted } }).ibi 0x02 cause

/-- The cause for which the ROM refuses a slot; none when it boots it (R498, step 2). -/
def slotBad (s : State) (b : Option Bundle) : Option Nat :=
  match b with
  | none => some 1
  | some b => if !b.ok then some 1 else if b.secver < s.fw.minsec then some 5 else none

/-- Step 2: the active slot, else the other; false when neither boots. -/
def bootSlot (s : State) : Bool × State :=
  let slot (b : Bool) : Option Bundle := if b then s.fw.flashB else s.fw.flashA
  let a := s.fw.active
  let s := { s with fw := { s.fw with errStep := 0, errCause := 0, errSlot := false } }
  let take (s : State) (b : Bool) : State :=
    { s with fw := { s.fw with booted := b, boot := slot b, run := slot b, switched := [], staged := none, flash := false, activating := false,
                               probation := false, deferred := false, group := 0, toFlash := none } }
  match slotBad s (slot a) with
  | none => (true, take s a)
  | some c =>
    let s := { s with fw := { s.fw with errStep := 2, errCause := c, errSlot := a } }
    match slotBad s (slot !a) with
    | none => (true, (take s !a).mgrEvent sevWarn evFwBootFallback (BitVec.ofNat 64 (!a).toNat) (BitVec.ofNat 64 (2 + c * 2 ^ 8 + a.toNat * 2 ^ 16)))
    | some _ => (false, halt s 2 1)

/-- Steps 5, 7 and 8: the images start, HBM is trained, hard repairs are made, the tests of the fault list are repeated, and the device is
READY. The guard die's cores 56 to 59 run from step 2 on, and a warm reset leaves them alone (R34). -/
def bootTail (s : State) (b : BootIn) : State :=
  let s := (List.range 56).foldl (fun s n => s.setCore n ⟨1, 0, none⟩) s
  if b.hbm then halt s 7 3
  else
    let s := s.intg.soft.foldl (fun s (st, n) =>
      (s.setRegField (rIntgHbm st) 59 1 0).mgrEvent sevInfo evHardRepairDone (BitVec.ofNat 64 (0x03 + st * 256)) (BitVec.ofNat 64 n)) s
    let s := { s with intg := { s.intg with soft := [] } }
    let s := s.intg.faults.foldl (fun s a => selfTest s a (b.fails.contains a)) s
    { s with phase := 2 }

/-- A board record that boot takes: major version 1 (R7; the refusal as for a limit out of range is a DESIGN CHOICE, assumption 57), and a sustained
limit within the device's (R569). -/
def boardOk (s : State) : Bool :=
  (boardField s 1 1).all (fun v => v == 1) && (boardField s 138 2).all fun w => within pwrFloor pwrFused w

/-- The lane groups' configuration obeys R348: every port is upstream or downstream, VH 0 has an upstream port and no VH two, and upstream ports are x16
or x8. -/
def portsLegal (s : State) : Bool :=
  let ups := (List.range 64).filter fun p => portThere s p && portUpstream (cfgOf s p) (p % 4)
  (List.range 64).all (fun p => !portThere s p || decide (bitsOf (cfgOf s p) (4 * (p % 4) + 8) 2 ≤ 1)) &&
  (List.range 4).all (fun v => let n := (ups.filter fun p => portVh (cfgOf s p) (p % 4) == v).length; decide (n ≤ 1) && (v != 0 || n == 1)) &&
  ups.all fun p => decide (3 ≤ (portWidth (cfgOf s p) (p % 4)).getD 0)

/-- A fatal event for which the manual states neither type nor arguments: they are free values. -/
def fatalEvent (s : State) : State :=
  let (t, s) := s.draw
  let (a, s) := s.draw
  let (b, s) := s.draw
  s.mgrEvent sevFatal (t.setWidth 16) a b

/-- The board record is read: the limits, HOT and the lane groups follow it, the groups' reserved bits reading as zero (R6); one that breaks R348 is
refused with a fatal event, and then only groups without an upstream port train. -/
def takeBoard (s : State) : State :=
  let s := s.setReg rPwrLimit (BitVec.ofNat 64 ((boardField s 138 2).getD pwrFused))
  let s := match boardField s 140 1 with
    | some h => s.setRegField rThmLimits 8 8 h
    | none => s
  let s := (List.range 16).foldl (fun s g => 
    let w := BitVec.ofNat 64 ((boardField s (8 + 8 * g) 8).getD 0)
    s.setReg (rPortCfg g) (BitVec.ofNat 64 (bitsOf w 0 3 + bitsOf w 8 16 * 256))) s
  let bad := (boardField s 0 1).isSome && !portsLegal s
  let s := { s with pcie := { s.pcie with refused := bad } }
  let s := if bad then fatalEvent s else s
  s.emit (.signal "PERST_DN#" [(List.range 16).foldl (fun m g => if bitsOf (s.reg (rPortCfg g)) 0 3 = 0 then m else m + 2 ^ g) 0])

/-- Boot from the guard die's ROM with its rails off (R498, R552). -/
def coldBoot (s : State) (b : BootIn) : State :=
  match bootSlot s with
  | (false, s) => s
  | (true, s) =>
    let s := { s with fw := { s.fw with cores := (List.range 60).map fun n => (n, ⟨if n < 56 then 0 else 1, 0, none⟩) } }
    -- step 3: rails in order, each after the one before is good
    let up := match b.rail with
      | some r => r.val
      | none => 5
    let s := { s with pwr := { s.pwr with en := BitVec.ofNat 4 (2 ^ min up 4 - 1), pg := BitVec.ofNat 5 (2 ^ up - 1), vcore := 750, n := 16, want := 16 } }
    if up < 5 ∨ boardOk s = false then halt s 3 4
    else
      let s := { s with time := 0, pwr := { s.pwr with lock := true, fallback := false },
                        pcie := { s.pcie with wake := false } }
      -- step 4: die-to-die links, whose failing lanes are spared at training
      let s := spareAtTraining s b.lanes
      let dead (l : Nat) : Bool := (b.links.any fun x => x.val == l) || decide (linkModules l ≤ (s.intg.out_.filter fun k => k / 16 == l).length)
      let s := (List.range 17).foldl (fun s l =>
        if dead l then (setD2d s l 0 0).mgrEvent sevFatal evLinkDown (BitVec.ofNat 64 l) 0
        else
          let out := (s.intg.out_.filter fun k => k / 16 == l).length
          setD2d s l (if out = 0 then 2 else 3) (linkModules l - out)) s
      if (List.range 17).any dead then halt s 4 2
      else bootTail (takeBoard s) b

/-- BOOT: VDD_GUARD is good: the ROM starts, and PAIR_ROLE is sampled (R498, R532). No effect on a device that has booted. -/
def execBoot (b : BootIn) (s : State) : Host.Outcome State Fault Refusal :=
  .next (if s.phase ≠ 0 ∨ s.d3cold then s else settleAll (coldBoot { s with secondary := b.strap, phase := 1 } b))

end Sys2Proof.Machine
end

