-- ==== Sys2Proof/Machine/NvmeRows.lean ====
section
/-!
DEFINITION. Rows of the NVMe controllers of PF1 (R418 to R421): enabling and reset, the admin set and the I/O set. A command's fields
and the data that its pointers name in host memory are operands of its row, since a host writes its queues in its own memory.
-/

namespace Sys2Proof.Machine

/-! ## The controller -/

/-- Queue sizes a controller takes: 2 to 4,096 entries (R418). -/
def nvSizeOk (n : Nat) : Bool := within 2 4096 n

/-- NVME_CONTROLLER_ENABLE: CC.EN set with the admin queues' addresses and sizes; the controller becomes ready. While the Peck is
DISABLED it reports CSTS.CFS (R418, R421). -/
def execNvmeControllerEnable (p : Fin 256) (asq acq : Word) (asqs acqs : Nat) (s : State) : Host.Outcome State Fault Refusal :=
  let x := s.nvme p.val
  .next (if nvExists s p.val = false ∨ x.en ∨ s.phase ≠ 2 then s
    else if (s.peck p.val).state = .disabled then s.setNvme p.val { x with cfs := true }
    else if nvSizeOk asqs = false ∨ nvSizeOk acqs = false then s
    else s.setNvme p.val (({ Nvme.reset with en := true }.setSq 0 ⟨asq, asqs, 0, 0⟩).setCq 0 ⟨acq, acqs, 0, true, 0, 0, []⟩))

/-- NVME_CONTROLLER_RESET: CC.EN cleared (R421). -/
def execNvmeControllerReset (p : Fin 256) (s : State) : Host.Outcome State Fault Refusal :=
  .next (if nvExists s p.val then settleAll (nvReset s p.val) else s)

/-- PF1_FENCE: a function-level reset (`flr`), or Bus Master Enable cleared, of a function of PF1 resets its controller; the Peck is
unaffected (R421). -/
def execPf1Fence (p : Fin 256) (flr : Bool) (s : State) : Host.Outcome State Fault Refusal :=
  let f := nvFn s p.val
  .next (if nvExists s p.val = false then s
    else
      let s := settleAll (nvReset s p.val)
      s.setFn f (if flr then { Fn.reset with enabled := (s.fn f).enabled } else { s.fn f with bme := false }))

/-- The host writes a completion queue's head doorbell: the entries before it are released, and held ones are written. A value outside the queue or past
its tail has no effect (NVM Express Base 2.0; R2). -/
def nvHead (s : State) (p q h : Nat) : State :=
  match (s.nvme p).cq q with
  | none => s
  | some cq =>
    let n := max 1 cq.size
    let to_ := cq.head + (h + n - cq.head % n) % n
    if nvReady s p = false ∨ h ≥ n ∨ to_ > cq.tail then s
    else nvDrain p q (cq.held.length + 1) (s.setNvme p ((s.nvme p).setCq q { cq with head := to_ }))

/-- The controller of a function of PF1: its own (number 0), or that of the Peck bound to the VF (R418). -/
def nvOfFn (s : State) (f : Nat) : Option Nat :=
  if f = 256 then some 0
  else if f < 256 then none
  else (s.pecks.find? fun e => e.2.vf1 == f - 256 && e.2.state != .free).map (·.1)

/-- A write to the doorbells of a controller's BAR0, which follow 0x1000: the low half is a submission queue's tail, whose commands come as rows, and the
high half a completion queue's head (NVM Express Base 2.0 with a doorbell stride of 0). -/
def nvDoorbell (s : State) (f off : Nat) (part : RegPart) (v : Word) : State :=
  match nvOfFn s f with
  | none => s
  | some p => if off < 0x1000 ∨ part = .low then s else nvHead s p ((off - 0x1000) / 8) (bitsOf v 32 16)

/-! ## Admin set (R419) -/

/-- Complete an admin command. -/
def nvAdmin (s : State) (p cid : Nat) (k : State → Nat × NvSt × State) : State :=
  nvTake s p 0 true fun s =>
    let (dw0, st, s) := k s
    nvDone s p 0 cid dw0 st

/-- NVME_CREATE_IO_CQ. -/
def execNvmeCreateIoCq (p : Fin 256) (cid : BitVec 16) (q : BitVec 16) (size : Nat) (base : Word) (contig ien : Bool) (vec : BitVec 16)
    (s : State) : Host.Outcome State Fault Refusal :=
  .next (nvAdmin s p.val cid.toNat fun s =>
    let x := s.nvme p.val
    if p.val = 0 ∨ !within 1 16 q.toNat ∨ (x.cq q.toNat).isSome then (0, nvQueueId, s)
    else if !nvSizeOk size then (0, nvQueueSize, s)
    else if !contig then (0, nvInvalidField, s)
    else if vec.toNat ≥ 17 then (0, nvVector, s)
    else (0, nvOk, s.setNvme p.val (x.setCq q.toNat ⟨base, size, vec.toNat, ien, 0, 0, []⟩)))

/-- NVME_CREATE_IO_SQ. -/
def execNvmeCreateIoSq (p : Fin 256) (cid : BitVec 16) (q : BitVec 16) (size : Nat) (base : Word) (contig : Bool) (cq : BitVec 16)
    (s : State) : Host.Outcome State Fault Refusal :=
  .next (nvAdmin s p.val cid.toNat fun s =>
    let x := s.nvme p.val
    if p.val = 0 ∨ !within 1 16 q.toNat ∨ (x.sq q.toNat).isSome then (0, nvQueueId, s)
    else if !nvSizeOk size then (0, nvQueueSize, s)
    else if cq = 0 ∨ (x.cq cq.toNat).isNone then (0, nvCqInvalid, s)
    else if !contig then (0, nvInvalidField, s)
    else (0, nvOk, s.setNvme p.val (x.setSq q.toNat ⟨base, size, cq.toNat, 0⟩)))

/-- The commands of a queue end with a status, and their requests' results are discarded. -/
def nvDropQueue (s : State) (p q : Nat) : State :=
  ((s.nvme p).cmds.filter fun c => c.q == q).foldl (fun s c =>
    let s := dropUser s (.nvme p q c.cid)
    nvDone (s.setNvme p { s.nvme p with cmds := (s.nvme p).cmds.filter fun y => y.seq ≠ c.seq }) p q c.cid 0 nvSqDeleted) s

/-- NVME_DELETE_IO_SQ: the commands the queue still holds complete first (PRESUMED: NVM Express Base 2.0). -/
def execNvmeDeleteIoSq (p : Fin 256) (cid : BitVec 16) (q : BitVec 16) (s : State) : Host.Outcome State Fault Refusal :=
  .next (nvAdmin s p.val cid.toNat fun s =>
    if q = 0 ∨ ((s.nvme p.val).sq q.toNat).isNone then (0, nvQueueId, s)
    else
      let s := nvFlush (nvDropQueue s p.val q.toNat) p.val
      (0, nvOk, s.setNvme p.val { s.nvme p.val with sqs := tblErase (s.nvme p.val).sqs q.toNat }))

/-- NVME_DELETE_IO_CQ: refused while a submission queue uses it. -/
def execNvmeDeleteIoCq (p : Fin 256) (cid : BitVec 16) (q : BitVec 16) (s : State) : Host.Outcome State Fault Refusal :=
  .next (nvAdmin s p.val cid.toNat fun s =>
    let x := s.nvme p.val
    if q = 0 ∨ (x.cq q.toNat).isNone then (0, nvQueueId, s)
    else if x.sqs.any fun e => e.2.cq == q.toNat then (0, nvQueueDel, s)
    else (0, nvOk, s.setNvme p.val { x with cqs := tblErase x.cqs q.toNat }))

/-- Bytes of a structure: the fields the manual fixes, by offset, and open bytes elsewhere. -/
def nvPage (id p n : Nat) (known : List (Nat × List Byte)) : List Byte :=
  (List.range n).map fun i => match known.find? fun k => decide (k.1 ≤ i) && decide (i < k.1 + k.2.length) with
    | some (o, bs) => bs.getD (i - o) 0
    | none => Config.nvmeByte id p i

/-- Active namespaces of a controller: enabled volumes held by its Peck (R418). -/
def nvActive (s : State) (p : Nat) : List Nat := if p = 0 then [] else ((enabledVols s).filter fun v => volPeck s v == p).map (· + 1)

/-- A list of namespace identifiers as 1,024 four-byte entries. -/
def nvList (l : List Nat) : List Byte := ((List.range 1024).flatMap fun i => bytesOf 4 (l.getD i 0))

/-- The data of Identify (R418, R419). -/
def nvIdentify (s : State) (p cns nsid : Nat) : NvSt × List Byte :=
  match cns with
  | 0 =>
    if nsid = 0 ∨ nsid > 1024 then (nvInvalidNs, [])
    else if !(nvActive s p).contains nsid then (nvOk, List.replicate 4096 0)
    else
      let b := bytesOf 8 (volBlocks s (nsid - 1))
      -- sizes, one LBA format, no thin-provisioning or deallocation read value (DLFEAT 0), 4,096-byte blocks without metadata
      (nvOk, nvPage 0 p 4096 [(0, b ++ b ++ b), (25, [0, 0]), (33, [0]), (128, bytesOf 4 (12 * 65536))])
  | 1 => (nvOk, nvPage 1 p 4096 [(77, [9]), (516, bytesOf 4 1024), (525, [0]), (536, bytesOf 4 0)])
  | 2 => (nvOk, nvList (((nvActive s p).filter fun n => decide (nsid < n)).take 1024))
  | 3 => if !(nvActive s p).contains nsid then (nvInvalidNs, []) else (nvOk, nvPage 3 p 4096 [])
  | _ => (nvInvalidField, [])

/-- NVME_IDENTIFY. -/
def execNvmeIdentify (p : Fin 256) (cid : BitVec 16) (cns : BitVec 8) (nsid : BitVec 32) (prp : List Word) (s : State) :
    Host.Outcome State Fault Refusal :=
  .next (nvAdmin s p.val cid.toNat fun s =>
    let (st, bs) := nvIdentify s p.val cns.toNat nsid.toNat
    (0, st, if st = nvOk then nvWrite s p.val prp 0 bs else s))

/-- NVME_GET_LOG_PAGE: pages 0x01, 0x02 and 0x04; reading the Changed Namespace List empties it unless the event is retained
(R418, R419). -/
def execNvmeGetLogPage (p : Fin 256) (cid : BitVec 16) (lid : BitVec 8) (dwords : Nat) (off : Nat) (retain : Bool) (prp : List Word)
    (s : State) : Host.Outcome State Fault Refusal :=
  .next (nvAdmin s p.val cid.toNat fun s =>
    let x := s.nvme p.val
    let cut (l : List Byte) := (l.drop off).take (min (dwords * 4) (512 * 4096))
    match lid.toNat with
    | 1 => (0, nvOk, nvWrite s p.val prp 0 (cut (nvPage 257 p.val 4096 [])))
    | 2 => (0, nvOk, nvWrite s p.val prp 0 (cut (nvPage 258 p.val 512 [])))
    | 4 =>
      let s := nvWrite s p.val prp 0 (cut (nvList x.changed))
      (0, nvOk, if retain then s else s.setNvme p.val { x with changed := [] })
    | _ => (0, nvInvalidField, s))

/-- NVME_ABORT: an outstanding Asynchronous Event Request is aborted; no other command is (DESIGN CHOICE: Abort is best effort). -/
def execNvmeAbort (p : Fin 256) (cid : BitVec 16) (sq target : BitVec 16) (s : State) : Host.Outcome State Fault Refusal :=
  .next (nvAdmin s p.val cid.toNat fun s =>
    let x := s.nvme p.val
    if sq = 0 ∧ x.aers.contains target.toNat then
      (0, nvOk, nvDone (s.setNvme p.val { x with aers := x.aers.erase target.toNat }) p.val 0 target.toNat 0 nvAborted)
    else (1, nvOk, s))

/-- Features of R419. -/
def nvFeature (fid : Nat) : Bool := [0x01, 0x02, 0x07, 0x08, 0x0B].contains fid

/-- What Number of Queues answers: 16 submission and 16 completion queues, 0's based; PF1's own controller has none. -/
def nvQueues : Nat := 15 + 15 * 65536

/-- NVME_SET_FEATURES: power state 0 only (R419); Number of Queues takes no count of 65,535 and is out of sequence once an I/O queue exists (NVM Express
Base 2.0; R2). -/
def execNvmeSetFeatures (p : Fin 256) (cid : BitVec 16) (fid : BitVec 8) (v : BitVec 32) (s : State) : Host.Outcome State Fault Refusal :=
  .next (nvAdmin s p.val cid.toNat fun s =>
    let x := s.nvme p.val
    if !nvFeature fid.toNat ∨ (fid = 2 ∧ v.toNat % 32 ≠ 0) then (0, nvInvalidField, s)
    else if fid = 7 then
      if v.toNat % 65536 = 65535 ∨ v.toNat / 65536 = 65535 then (0, nvInvalidField, s)
      else if x.sqs.any (fun e => e.1 != 0) ∨ x.cqs.any (fun e => e.1 != 0) then (0, nvSequence, s)
      else (nvQueues, nvOk, s)
    else (0, nvOk, s.setNvme p.val { x with feats := tblSet 0 x.feats fid.toNat v.toNat }))

/-- NVME_GET_FEATURES. -/
def execNvmeGetFeatures (p : Fin 256) (cid : BitVec 16) (fid : BitVec 8) (s : State) : Host.Outcome State Fault Refusal :=
  .next (nvAdmin s p.val cid.toNat fun s =>
    if !nvFeature fid.toNat then (0, nvInvalidField, s)
    else (if fid = 7 then nvQueues else tblGet 0 (s.nvme p.val).feats fid.toNat, nvOk, s))

/-- NVME_ASYNC_EVENT_REQUEST: held until an event is reported (R418). -/
def execNvmeAsyncEventRequest (p : Fin 256) (cid : BitVec 16) (s : State) : Host.Outcome State Fault Refusal :=
  .next (nvTake s p.val 0 true fun s =>
    nvAen (s.setNvme p.val { s.nvme p.val with aers := (s.nvme p.val).aers ++ [cid.toNat] }) p.val)

/-! ## I/O set (R419) -/

/-- NVME_FLUSH. -/
def execNvmeFlush (p : Fin 256) (q cid : BitVec 16) (nsid : BitVec 32) (s : State) : Host.Outcome State Fault Refusal :=
  .next (nvTake s p.val q.toNat false fun s =>
    if nsid = 0xFFFFFFFF#32 ∨ (nvActive s p.val).contains nsid.toNat then nvFlush (nvAdd s p.val q.toNat cid.toNat false true [] 0) p.val
    else nvDone s p.val q.toNat cid.toNat 0 nvInvalidNs)

/-- NVME_WRITE: `nlb` is 0's based; the data is read through the data pointers, or that read fails with a status. -/
def execNvmeWrite (p : Fin 256) (q cid : BitVec 16) (nsid : BitVec 32) (slba : Word) (nlb : BitVec 16) (data : List Byte) (st : BitVec 16)
    (s : State) : Host.Outcome State Fault Refusal :=
  let n := nlb.toNat + 1
  .next (if st = stOk ∧ data.length ≠ n * 4096 then s
    else settleAll (nvTake s p.val q.toNat false fun s =>
      if n > 512 then nvDone s p.val q.toNat cid.toNat 0 nvInvalidField
      else if st ≠ stOk then nvDone s p.val q.toNat cid.toNat 0 (nvStatus st true)
      else nvRun s p.val q.toNat cid.toNat nsid.toNat .write [(slba.toNat, n)] [] data))

/-- NVME_READ. -/
def execNvmeRead (p : Fin 256) (q cid : BitVec 16) (nsid : BitVec 32) (slba : Word) (nlb : BitVec 16) (prp : List Word) (s : State) :
    Host.Outcome State Fault Refusal :=
  let n := nlb.toNat + 1
  .next (settleAll (nvTake s p.val q.toNat false fun s =>
    if n > 512 then nvDone s p.val q.toNat cid.toNat 0 nvInvalidField
    else nvRun s p.val q.toNat cid.toNat nsid.toNat .read [(slba.toNat, n)] prp []))

/-- NVME_WRITE_ZEROES. -/
def execNvmeWriteZeroes (p : Fin 256) (q cid : BitVec 16) (nsid : BitVec 32) (slba : Word) (nlb : BitVec 16) (s : State) :
    Host.Outcome State Fault Refusal :=
  .next (settleAll (nvTake s p.val q.toNat false fun s =>
    nvRun s p.val q.toNat cid.toNat nsid.toNat .zeroes [(slba.toNat, nlb.toNat + 1)] [] []))

/-- NVME_DATASET_MANAGEMENT: only AD is honoured (R419); `ranges` are first block and length, or `st` says that reading them failed. -/
def execNvmeDatasetManagement (p : Fin 256) (q cid : BitVec 16) (nsid : BitVec 32) (ad : Bool) (ranges : List (Nat × Nat)) (st : BitVec 16)
    (s : State) : Host.Outcome State Fault Refusal :=
  .next (settleAll (nvTake s p.val q.toNat false fun s =>
    if st ≠ stOk then nvDone s p.val q.toNat cid.toNat 0 (nvStatus st true)
    else if ranges.length > 256 then nvDone s p.val q.toNat cid.toNat 0 nvInvalidField
    else nvRun s p.val q.toNat cid.toNat nsid.toNat .dealloc (if ad then ranges else []) [] []))

/-- NVME_INVALID_OPCODE: an opcode outside the table, or (`field`) a feature, log page or CNS outside it (R419). -/
def execNvmeInvalidOpcode (p : Fin 256) (q cid : BitVec 16) (field : Bool) (s : State) : Host.Outcome State Fault Refusal :=
  .next (nvTake s p.val q.toNat (q == 0) fun s =>
    nvDone s p.val q.toNat cid.toNat 0 (if field then nvInvalidField else nvInvalidOpcode))

end Sys2Proof.Machine
end

