-- ==== Sys2Proof/Machine/Pair.lean ====
section
/-!
DEFINITION. The pair (R184, R531 to R541), the management bus target (R542 to R545) and the device's addresses (R546).
-/

namespace Sys2Proof.Machine

/-! ## Joining and splitting (R533 to R538) -/

/-- The pair die works: its firmware runs, and no power cycle is awaited. -/
def pairLive (s : State) : Bool := s.phase == 2 && !s.rcv.fenced

/-- PAIR_LINK_TRAINED: the pair link has trained with the halves given in service, and a join attempt starts (R533, R535), but after a split by
the manager (R536). -/
def execPairLinkTrained (low high : Bool) (s : State) : Host.Outcome State Fault Refusal :=
  .next (
    if !pairLive s ∨ !(low || high) then s
    else
      let s := { s with pair := { s.pair with low := low, high := high } }
      if s.pair.state = 3 ∧ s.pair.cause = pairManager then s else startJoin s)

/-- Both halves are out of service (R533, R537). -/
def pairDown (s : State) : State := pairSplit { s with pair := { s.pair with low := false, high := false } } pairLink

/-- PAIR_LINK_DOWN (R537). -/
def execPairLinkDown (s : State) : Host.Outcome State Fault Refusal := .next (pairDown s)

/-- PAIR_LANE_ERRORS: a lane made `errors` errors within 1 s, for which flits were retried and delivered as POISON (R17, PAIR_LINKERR); above
INTG_CFG.LANETHR its half goes out of service (R533). -/
def execPairLaneErrors (lane : Fin 16) (errors retried poisoned : Nat) (s : State) : Host.Outcome State Fault Refusal :=
  .next (
    if !s.pair.up then s
    else
      let sat (lo n : Nat) (s : State) : State := s.setRegField rPairLinkErr lo 32 (min (2 ^ 32 - 1) (bitsOf (s.reg rPairLinkErr) lo 32 + n))
      let s := sat 32 poisoned (sat 0 retried s)
      if errors ≤ bitsOf (s.reg rIntgCfg) 0 16 then s
      else
        let p := if lane.val < 8 then { s.pair with low := false } else { s.pair with high := false }
        if p.up then { s with pair := p } else pairDown s)

/-- A joined pair: pair-wide units start anew, and waiting PAIR_JOIN items complete (R535, step 3). Contexts that wait on a unit go on waiting, for
its new phase (DEDUCED). -/
def pairJoined (s : State) (devid : BitVec 48) : State :=
  let us := (s.barriers.filter fun b => b.1 < 256 && b.2.pair).map (·.1)
  let s := us.foldl (fun s u =>
    let s := s.setBar u { s.bar u with phase := 0, arrived := 0, remote := 0, split := false }
    s.allCtx.foldl (fun s (c, x) =>
      if tblGet false x.arrived u then s.updCtx c fun y => { y with arrived := tblSet false y.arrived u false } else s) s) s
  let s := { s with pair := { s.pair with state := 2, was := false, good := 0, hbIn := s.time } }
  let s := us.foldl barConfig s
  joinDone (s.mgrEvent sevInfo evPairJoined (devid.setWidth 64) (s.reg rEpoch)) stOk 0

/-- PAIR_JOIN_RECORD: the partner's record arrives. A record that is no answer starts the attempt here and is answered; both records are then held
and compared (R534, R535). An answer counts in an attempt only. After a split by the manager only PAIR_JOIN joins (R536). -/
def execPairJoinRecord (r : JoinRec) (answer : Bool) (s : State) : Host.Outcome State Fault Refusal :=
  .next (
    if !pairLive s ∨ !s.pair.up ∨ (s.pair.state = 3 ∧ s.pair.cause = pairManager) ∨ (answer ∧ s.pair.state ≠ 1) then s
    else
      let s := if answer then s else sendJoin (if s.pair.state = 1 then s else joinExchange s) true
      let s := s.setReg rPairPeer (r.devid.setWidth 64)
      let c := joinCause (joinRec s) r
      if c = 0 then pairJoined s r.devid else pairSplit s c)

/-- PAIR_LEAVE_FLIT: the partner has left, by its manager's request or not (R537). -/
def execPairLeaveFlit (manager : Bool) (s : State) : Host.Outcome State Fault Refusal :=
  .next (pairSplit s (if manager then pairManager else pairLeave))

/-- PAIR_HEARTBEAT_TIMEOUT: no heartbeat has come within HBTO (R537). No effect before HBTO has passed since the join. -/
def execPairHeartbeatTimeout (s : State) : Host.Outcome State Fault Refusal :=
  .next (if s.pair.state = 2 ∧ s.pair.hbIn + bitsOf (s.reg rPairCfg) 0 10 * 1000000 ≤ s.time then pairSplit s pairHeartbeat else s)

/-- PAIR_HEARTBEAT_SEND: every 100 µs (R537). No effect before. -/
def execPairHeartbeatSend (s : State) : Host.Outcome State Fault Refusal :=
  .next (if s.pair.joined ∧ s.pair.hbOut + 100000 ≤ s.time then ({ s with pair := { s.pair with hbOut := s.time } }).emit (.flit "HEARTBEAT" []) else s)

/-- PAIR_RETRY_TIMER: RETRY has passed since the last attempt, and a join is tried again (R536). No effect before, with AUTOJOIN = 0, or after a
split by the manager. -/
def execPairRetryTimer (s : State) : Host.Outcome State Fault Refusal :=
  let cfg := s.reg rPairCfg
  .next (
    if pairLive s ∧ s.pair.up ∧ ((s.pair.state = 3 ∧ s.pair.cause ≠ pairManager) ∨ s.pair.state = 1) ∧ bitsOf cfg 32 1 = 1 ∧
      s.pair.tried + bitsOf cfg 16 10 * 1000000 ≤ s.time then startJoin s
    else s)

/-- PAIR_JOIN: commits at dispatch, and completes when the pair is, or becomes, JOINED (R536). With the link DOWN the cause is 6 LINK. -/
def execPairJoin (id : Nat) (s : State) : Host.Outcome State Fault Refusal :=
  .next (s.request id 0x0980 fun i =>
    if s.pair.state = 2 then s.done i stOk
    else if !s.pair.up then s.completeItem i stPairSplit (BitVec.ofNat 64 pairLink) 0
    else
      startJoin (s.setPhase id .committed))

/-- PAIR_LEAVE (R536). -/
def execPairLeave (id : Nat) (s : State) : Host.Outcome State Fault Refusal :=
  .next (s.request id 0x0981 fun i =>
    let s := pairSplit s pairManager
    ({ s with pair := { s.pair with cause := if s.pair.state = 3 then pairManager else s.pair.cause } }).done i stOk)

/-! ## Barriers and time (R184, R539 to R541) -/

/-- PAIR_BARRIER_FLIT (R184, R539): discarded while the pair is not joined. -/
def execPairBarrierFlit (u : Fin 256) (f : BarFlit) (s : State) : Host.Outcome State Fault Refusal :=
  let b := s.bar u.val
  .next (
    if !s.pair.joined then s
    else match f with
    | .arrival => if b.pair then barCheck (s.setBar u.val { b with remote := b.remote + 1 }) u.val else s
    | .complete n =>
      if b.pair ∧ s.secondary then
        let mate := b.mate.map fun m => (m.1, m.2.1, n)
        wakeBar (s.setBar u.val { b with phase := b.phase + 1, arrived := 0, remote := 0, count := n, held := none, mate := mate }) u.val
      else s
    | .config p k n => s.setBar u.val { b with mate := some (p, k, n), count := if b.pair ∧ p ∧ s.secondary then n else b.count })

/-- PAIR_TIME_EXCHANGE: secondary minus primary time, as an exchange measured it, ps (R540, R541). -/
def execPairTimeExchange (ps : Int) (s : State) : Host.Outcome State Fault Refusal :=
  .next (
    if !s.pair.joined then s
    else
      let s := s.setReg rPairOffset (BitVec.ofNat 64 (BitVec.ofInt 32 ps).toNat)
      let ok := decide (ps.natAbs ≤ 2000)
      let good := if ok then min 16 (s.pair.good + 1) else 0
      let s := { s with pair := { s.pair with good := good } }
      let s := setTlock s (if ok then s.pair.tlock || good == 16 else false)
      if s.secondary then removeOffset s ps else s)

/-! ## The I3C target (R542 to R545) -/

/-- Keep the status and the response of a private write (R544). -/
def i3cAnswer (s : State) (st : Status) (resp : List Byte) : State := { s with i3c := { s.i3c with st := st, resp := resp } }

/-- A common command code that this target answers, when it holds a dynamic address. -/
def i3cCcc (s : State) (what : String) (bs : List Byte) : Host.Outcome State Fault Refusal :=
  .next (if s.i3c.da.isSome then s.emit (.i3c what bs) else s)

/-- A private transfer, which needs a dynamic address. -/
def i3cPrivate (s : State) (k : State) : Host.Outcome State Fault Refusal := .next (if s.i3c.da.isSome then k else s)

/-- ENTDAA: the target, while it has no dynamic address, wins the arbitration and takes the address given (R542). -/
def execEntdaa (da : BitVec 7) (s : State) : Host.Outcome State Fault Refusal :=
  .next (match s.i3c.da with
  | none => ({ s with i3c := { s.i3c with da := some da } }).emit (.i3c "ENTDAA" ((bytesOf 6 devIdNum).reverse ++ [0x06, 0x00]))
  | some _ => s)

/-- SETNEWDA (R542). -/
def execSetnewda (da : BitVec 7) (s : State) : Host.Outcome State Fault Refusal :=
  .next (if s.i3c.da.isSome then { s with i3c := { s.i3c with da := some da } } else s)

/-- RSTDAA (R543). -/
def execRstdaa (s : State) : Host.Outcome State Fault Refusal := .next { s with i3c := { s.i3c with da := none } }

/-- GETPID: the provisioned ID, most significant byte first (PRESUMED: MIPI I3C Basic). -/
def execGetpid (s : State) : Host.Outcome State Fault Refusal := i3cCcc s "GETPID" (bytesOf 6 devIdNum).reverse
/-- GETBCR (R542). -/
def execGetbcr (s : State) : Host.Outcome State Fault Refusal := i3cCcc s "GETBCR" [0x06]
/-- GETDCR (R542). -/
def execGetdcr (s : State) : Host.Outcome State Fault Refusal := i3cCcc s "GETDCR" [0x00]

/-- GETSTATUS: two bytes whose value the manual does not state: a free value. -/
def execGetstatus (s : State) : Host.Outcome State Fault Refusal :=
  .next (if s.i3c.da.isNone then s
    else
      let (w, s) := s.draw
      s.emit (.i3c "GETSTATUS" (bytesOf 2 w.toNat)))

/-- ENEC: bit 0 enables in-band interrupts (R545). -/
def execEnec (b : Byte) (s : State) : Host.Outcome State Fault Refusal := i3cPrivate s { s with i3c := { s.i3c with ibi := s.i3c.ibi || b.getLsbD 0 } }
/-- DISEC: bit 0 disables in-band interrupts (R542). -/
def execDisec (b : Byte) (s : State) : Host.Outcome State Fault Refusal := i3cPrivate s { s with i3c := { s.i3c with ibi := s.i3c.ibi && !b.getLsbD 0 } }

/-- PAIR_STAT[7:0] (R548). -/
def pairStatLow (s : State) : Nat := s.pair.state % 4 + s.secondary.toNat * 4 + s.pair.tlock.toNat * 8

/-- GET_STATE (R544). -/
def execGetState (s : State) : Host.Outcome State Fault Refusal :=
  let pc := s.reg rRcvPcreq
  i3cPrivate s (i3cAnswer s stOk (bytesOf 1 s.phase ++ bytesOf 1 s.fw.errStep ++ bytesOf 1 s.fw.errCause ++
    bytesOf 1 (bitsOf pc 8 7 + bitsOf pc 0 1 * 128) ++ bytesOf 1 (bitsOf (s.reg rKeyAlarm) 0 4 + s.alarmLive.toNat * 16) ++
    bytesOf 1 (pairStatLow s) ++ bytesOf 2 (bitsOf (s.reg rAlive) 0 16)))

/-- NOTICE: the effect of CKPT_NOTICE (R467, R544); ST_FENCED before READY. -/
def execNotice (p : Fin 256) (ms : BitVec 32) (s : State) : Host.Outcome State Fault Refusal :=
  i3cPrivate s (
    if s.phase ≠ 2 then i3cAnswer s stFenced []
    else if p.val = 0 ∨ (s.peck p.val).state = .free then i3cAnswer s stRights []
    else i3cAnswer (giveNotice s p.val ms.toNat) stOk [])

/-- WAKE: the wake request of R371 (R544). -/
def execWake (s : State) : Host.Outcome State Fault Refusal := i3cPrivate s (i3cAnswer (assertWake s) stOk [])

/-- GET_ID: DEVID, the ordering code and the role (R544). -/
def execGetId (s : State) : Host.Outcome State Fault Refusal :=
  i3cPrivate s (i3cAnswer s stOk (bytesOf 6 devIdNum ++ bytesOf 1 (1 + Config.lowPower.toNat) ++ bytesOf 1 s.secondary.toNat))

/-- I3C_RESERVED_COMMAND (R544). -/
def execI3cReservedCommand (s : State) : Host.Outcome State Fault Refusal := i3cPrivate s (i3cAnswer s stUndef [])

/-- I3C_PRIVATE_READ: the last command's status and response (R544). -/
def execI3cPrivateRead (s : State) : Host.Outcome State Fault Refusal :=
  i3cPrivate s (s.emit (.i3c "READ" (bytesOf 2 s.i3c.st.toNat ++ s.i3c.resp)))

/-! ## Addresses (R546) -/

/-- PAIR_ADDRESS_WRITE (R546): the base fabric address, the MAC base, or a port's next hop. -/
def execPairAddressWrite (r : AddrReg) (part : RegPart) (v : Word) (s : State) : Host.Outcome State Fault Refusal :=
  let off := match r with
    | .fabric h => rFabric h.val
    | .mac => rPairMac
    | .nhop p h => rNhop p.val h.val
  let w := mergePart part (s.reg off) v
  whenReady s (
    if !portsOff s then s.errWr
    else match r with
    | .fabric h =>
      let lo := if h.val = 0 then w else s.reg (rFabric 0)
      -- PAIR_FABRIC1[57:56] must be zero, and reads as zero (R6)
      let hi := putField (if h.val = 1 then w else s.reg (rFabric 1)) 56 2 0
      if (lo = 0 ∧ hi = 0) ∨ bitsOf lo 0 8 = 0xFF then s.errWr else s.setReg off (if h.val = 0 then lo else hi)
    | .mac =>
      let m := BitVec.ofNat 64 (bitsOf w 0 48)
      if bitsOf m 0 1 ≠ 0 ∨ bitsOf m 40 4 ≠ 0 then s.errWr else s.setReg off m
    | .nhop p _ => (s.setReg off w).setPort p.val { s.port p.val with nhop := none })

end Sys2Proof.Machine
end

