-- ==== Sys2Proof/Machine/Recover.lean ====
section
/-!
DEFINITION. Hang detection and recovery (R509 to R530): progress counters, replay, escalation, the device warm reset, and power cycles.
-/

namespace Sys2Proof.Machine

def evHangDetected : BitVec 16 := 0x0A00#16
def evReplayVerdict : BitVec 16 := 0x0A01#16

/-! ## Progress counters (R509 to R511) -/

/-- The counter code of a unit (R509). -/
def unitCode (s : State) : ProgUnit → Nat
  | .engine e => 0x01 + e.val * 2 ^ 8 + (s.eng e.val).peck.toNat * 2 ^ 16
  | .peckRing p r => 0x02 + r.val * 2 ^ 8 + p.val * 2 ^ 16
  | .mgrRing r => 0x03 + r.val * 2 ^ 8
  | .core n _ => 0x04 + n.val * 2 ^ 8
  | .inst i => 0x05 + i.val * 2 ^ 8

/-- The Span of a unit, ms (R511). -/
def spanOf (s : State) : ProgUnit → Nat
  | .engine e => bitsOf (s.reg (rRcvPeck (s.eng e.val).peck.toNat)) 0 14
  | .peckRing p _ => bitsOf (s.reg (rRcvPeck p.val)) 0 14
  | .mgrRing _ => bitsOf (s.reg rRcvCfg) 32 14
  | .core _ _ => bitsOf (s.reg rRcvCfg) 0 14
  | .inst _ => bitsOf (s.reg rRcvCfg) 16 14

/-- An engine's counter: instructions retired and copy progress, neither of which falls. -/
def engCounter (s : State) (e : Nat) : Nat := (s.eng e).retired.toNat + (s.eng e).progress

/-- The value of a unit's counter. -/
def counterOf (s : State) : ProgUnit → Nat
  | .engine e => engCounter s e.val
  | .peckRing p r => (s.ring (16 * p.val + r.val)).ci.toNat
  | .mgrRing r => (s.ring r.val).ci.toNat
  | .core _ b => b
  | .inst i => (s.inst i.val).prog

/-- The slot holds the context of a feed, which a service of the device runs. -/
def isFeed (s : State) (e k : Nat) : Bool := s.feeds.any fun f => f.eng == e && f.slot == k

/-- Slots of an engine whose contexts hold unfinished work. -/
def liveSlots (s : State) (e : Nat) : List Nat :=
  (List.range 8).filter fun k =>
    let x := (s.eng e).ctx k
    x.state != .free && x.state != .halted && x.state != .faulted && !isFeed s e k

/-- A context of a collective that waits within STALL (R220, R509). -/
def stallCtx (s : State) (e k : Nat) : Bool :=
  k == 7 && s.colls.any fun c => (c.jobs.any fun j => j.eng == e) && collWaits s c && decide (s.time < c.t0 + c.stall * 1000000)

/-- Whether a unit's counter is watched now and no exemption applies (R509). -/
def watched (s : State) : ProgUnit → Bool
  | .engine e =>
    let ks := liveSlots s e.val
    !ks.isEmpty && !(s.eng e.val).resetting && !(s.replays.any fun r => r.eng == e.val) && !(ks.all fun k => stallCtx s e.val k)
  | .peckRing p r =>
    let x := s.ring (16 * p.val + r.val)
    let w0 := (x.word x.ci 0).bits
    x.pi != x.ci && (s.peck p.val).state == .active &&
    !(bitsOf w0 32 1 == 1 && s.items.any fun i => i.fn == p.val && i.ring == r.val) &&
    !(s.items.any fun i => i.fn == p.val && i.ring == r.val && i.phase == .waiting) &&
    ((List.range 16).all fun sp => decide ((s.spring (16 * p.val + sp)).hold.length ≤ 1024))
  | .mgrRing r => let x := s.ring r.val; s.attached && x.pi != x.ci
  | .core n _ => s.phase == 2 && (s.core n.val).state == 1
  | .inst i =>
    !instHeld s i.val && s.msgs.any fun m => m.inst == i.val && m.pkts.any fun p => match p.2.phase with
      | .flight _ => true
      | _ => false

def State.watch (s : State) (code : Nat) : Watch := (s.watches.find? fun w => w.code == code).getD ⟨code, [], none⟩
def State.setWatch (s : State) (w : Watch) : State := { s with watches := (s.watches.filter fun x => x.code ≠ w.code) ++ [w] }

/-! ## Escalation to an engine or a Peck (R515, R523, R524) -/

/-- Fail the service that runs a job in a slot of an engine. -/
def failJob (s : State) (e k : Nat) (st : Status) : State :=
  if k = 7 then (s.colls.filter fun c => c.jobs.any fun j => j.eng == e).foldl (fun s c => collFail s c.id st) s
  else genFail s e st

/-- A context ends with a status: its service fails, or its item completes. -/
def endWith (s : State) (e k : Nat) (st : Status) : State :=
  if ((s.eng e).ctx k).item.isNone then failJob s e k st else resetCtx s ⟨Fin.ofNat 128 e, Fin.ofNat 8 k⟩ st

/-- The device resets an engine by escalation: items of contexts that hung complete with ST_HANG (R515, R524). -/
def engineLevel (s : State) (e : Nat) (code : Word) : State :=
  let s := escalate s 1 code
  let s := { s with replays := s.replays.filter fun r => r.eng ≠ e }
  let s := (liveSlots s e).foldl (fun s k => endWith s e k stHang) s
  let s := (clearEngine s e stFenced).updEng e fun x => { x with resetting := true }
  settleAll { s with rcv := { s.rcv with escals := s.rcv.escals ++ [(1, code, s.time)] } }

/-- The device resets a Peck by escalation; a reset already in progress absorbs it (R35, R523, R524). -/
def peckLevel (s : State) (p : Nat) (code : Word) : State :=
  let st := (s.peck p).state
  if p = 0 ∨ st = .free ∨ st = .resetting ∨ st = .removing then s
  else
    let s := beginReset (escalate s 2 code) p .resetting none
    settleAll { s with rcv := { s.rcv with escals := s.rcv.escals ++ [(2, code, s.time)] } }

/-- The limit of a Peck reset, ns (R524). -/
def peckLimit (s : State) (p : Nat) : Nat := 50000000 + 200 * popBits 196608 (s.peck p).grains + 10 * popBits 8192 (s.peck p).gills

/-- Resets that have outlasted their limits escalate to the next level (R524). -/
def overdue (s : State) : State :=
  s.rcv.escals.foldl (fun s (x : Nat × Word × Nat) =>
    let (level, code, t) := x
    let p := bitsOf code 16 8
    let gone (s : State) : State := { s with rcv := { s.rcv with escals := s.rcv.escals.filter fun y => y ≠ x } }
    if level = 1 ∧ s.time > t + 30000 then peckLevel (gone s) p code
    else if level = 2 ∧ s.time > t + peckLimit s p then warmLevel (gone s) 2 code
    else s) s

/-! ## Replay (R516 to R520) -/

/-- SUSPECTS and GUILTY of an engine's last replay (R530). -/
def setRcvEng (s : State) (e : Nat) (suspects guilty : List Nat) : State :=
  let mask (l : List Nat) : Nat := l.foldl (fun m k => m + 2 ^ k) 0
  s.setReg (rRcvEng e) (BitVec.ofNat 64 (mask suspects * 2 ^ 16 + mask guilty * 2 ^ 24))

/-- A suspect that is not replayed (R516, R521). -/
def refuseReplay (s : State) (e k : Nat) : State := (endWith s e k stReplayRefused).bump rRcvRefused 1

def State.replay (s : State) (e : Nat) : Option Replay := s.replays.find? fun r => r.eng == e
def State.updReplay (s : State) (e : Nat) (f : Replay → Replay) : State :=
  { s with replays := s.replays.map fun r => if r.eng = e then f r else r }

/-- The engine's replay ends (R519): guilty contexts end with ST_GUILTY and their held copies are discarded; the copies of innocent ones are
released, and they resume. -/
def replayEnd (s : State) (r : Replay) : State :=
  let cid (k : Nat) : CtxId := ⟨Fin.ofNat 128 r.eng, Fin.ofNat 8 k⟩
  let s := r.guilty.foldl (fun s k =>
    let x := (s.eng r.eng).ctx k
    let s := s.bump rRcvGuilty 1
    if x.item.isNone then failJob s r.eng k stGuilty
    else
      let s := freeCtx (fenceCopies s (cid k).eng (some k) stFenced) (cid k)
      match x.item.bind s.item with
      | some i => s.completeItem i stGuilty 0 x.pc
      | none => s) s
  let s := (r.suspects.filter fun k => !r.guilty.contains k).foldl (fun s k =>
    s.updCtx (cid k) fun x => { x with held := false, replay := false }) s
  let s := { s with replays := s.replays.filter fun x => x.eng ≠ r.eng,
                    verdicts := (s.verdicts.filter fun v => v.1 ≠ r.eng) ++ [(r.eng, s.time)] }
  settleAll (setRcvEng s r.eng r.suspects r.guilty)

/-- A verdict on the slot under replay (R518): REPLAY_VERDICT to the manager and the Peck, and with the last one the replay ends. -/
def verdict (s : State) (r : Replay) (k : Nat) (innocent : Bool) : State :=
  let c : CtxId := ⟨Fin.ofNat 128 r.eng, Fin.ofNat 8 k⟩
  let x := s.ctx c
  let tag := ((x.item.bind s.item).map (·.tag)).getD 0
  let a0 := BitVec.ofNat 64 (r.eng + k * 2 ^ 8 + (if innocent then stOk else stGuilty).toNat * 2 ^ 16)
  let s := bothEvent s x.peck.toNat sevInfo evReplayVerdict a0 tag
  let s := s.updCtx c fun y => { y with held := true }
  let r := { r with left := r.left.filter (· ≠ k), guilty := if innocent then r.guilty else r.guilty ++ [k], run := none, samples := [] }
  let s := s.updReplay r.eng fun _ => r
  if r.left.isEmpty then replayEnd s r else s

/-- The context under replay waits on copies, and every copy it has issued is held (R518). -/
def waitsOnHeld (s : State) (c : CtxId) : Bool :=
  let x := s.ctx c
  let ks := (List.range 4).flatMap fun q => ((s.eng c.eng.val).queue q).filter fun k => k.slot == c.slot.val
  x.state == .waitCopy && !ks.isEmpty && ks.all fun k => copyHeld s c.eng k

/-- A sample of the context under replay (R518). -/
def replaySample (s : State) (r : Replay) (k : Nat) (span : Nat) : State :=
  let c : CtxId := ⟨Fin.ofNat 128 r.eng, Fin.ofNat 8 k⟩
  let x := s.ctx c
  if x.state = .free then
    -- another end came first
    let r := { r with left := r.left.filter (· ≠ k), run := none, samples := [] }
    let s := s.updReplay r.eng fun _ => r
    if r.left.isEmpty then replayEnd s r else s
  else if x.state = .halted ∨ x.state = .faulted ∨ waitsOnHeld s c then verdict s r k true
  else if ((r.samples.head?).any fun (p : Nat × Nat) => decide (s.time < p.1 + span * 125000)) then s
  else
    let v := engCounter s r.eng
    let l := ((s.time, v) :: r.samples).take 9
    let vs := l.map (·.2)
    if l.length = 9 ∧ vs.getLast? = some v then verdict s r k false
    else if l.length = 9 ∧ ((vs.zip (vs.drop 1)).all fun (p : Nat × Nat) => p.1 != p.2) then verdict s r k true
    else s.updReplay r.eng fun r => { r with samples := l }

/-- A hung engine is fenced, and the replay of its suspects begins (R516). With NOREPLAY they are refused, and the engine is reset (R512, R524). -/
def beginReplay (s : State) (e : Nat) (code : Word) : State :=
  let p := (s.eng e).peck.toNat
  let sus := liveSlots s e
  let s := fenceCopies s (Fin.ofNat 128 e) none stFenced
  let s := sus.foldl (fun s k =>
    let x := (s.eng e).ctx k
    (saveRecord s k x x.state).1.updCtx ⟨Fin.ofNat 128 e, Fin.ofNat 8 k⟩ fun y => { y with held := true }) s
  let no := bitsOf (s.reg (rRcvPeck p)) 14 1 == 1
  let out := sus.filter fun k => no || !((s.eng e).ctx k).replayable
  let s := out.foldl (fun s k => refuseReplay s e k) s
  let s := setRcvEng s e sus []
  let left := sus.filter fun k => !out.contains k
  if no then engineLevel s e code
  else if left.isEmpty then settleAll { s with verdicts := (s.verdicts.filter fun v => v.1 ≠ e) ++ [(e, s.time)] }
  else settleAll { s with replays := s.replays ++ [⟨e, left, left, [], none, []⟩] }

/-- A job's context at its start, from what its service kept (R521). -/
def jobAgain (s : State) (x : Ctx) : Ctx :=
  let n := (wd x.start 0).bits.toNat
  let tab (l : List TWord) : List (Nat × TWord) := l.zipIdx.foldl (fun t (w, i) => tblSet TWord.zero t i w) []
  { Ctx.free with
    state := .running, peck := x.peck, isa := x.isa, code := x.code, cyc0 := s.qcycles, start := x.start, replayable := true,
    h := tab ((x.start.drop 4).take n), s := tab (x.start.drop (4 + n)), srkey := (wd x.start 1).bits,
    srstream := BitVec.ofNat 32 (wd x.start 2).bits.toNat, srstep := (wd x.start 3).bits }

/-- REPLAY_RUN: the next suspect's slot is reset, and its context restarts from its start record, alone, with CST.REPLAY set (R517). A RESUME record
that reads POISON makes the engine be reset (R524). A replay whose last suspects were aborted ends. -/
def execReplayRun (e : Fin 128) (s : State) : Host.Outcome State Fault Refusal :=
  .next (match s.replay e.val with
  | none => s
  | some r =>
    match r.run, r.left with
    | none, k :: _ =>
      let c : CtxId := ⟨e, Fin.ofNat 8 k⟩
      let x := s.ctx c
      let code := BitVec.ofNat 64 (unitCode s (.engine e))
      let keep (y : Ctx) : Ctx := { y with replay := true, arrived := x.arrived }
      let go (s : State) (y : Ctx) : State :=
        let s := (freeCtx (fenceCopies s e (some k) stFenced) c).setCtx c (keep y)
        s.updReplay e.val fun r => { r with run := some k, samples := [(s.time, engCounter s e.val)] }
      match x.item.bind s.item with
      | none => go s (jobAgain s x)
      | some i =>
        match (if startFlag x.start 3 then s.current (wd x.start 7).bits else none) with
        | none => go s (startCtx s i x.start [])
        | some g =>
          let s := s.settle g.base.toNat stateRecLen
          let res := memWords s.mem g.base.toNat (stateRecLen / 8)
          if resumeStatus res = stPoison then engineLevel s e.val code else go s (startCtx s i x.start res)
    | none, [] => replayEnd s r
    | some _, _ => s)

/-! ## Samples and hangs (R510, R512) -/

/-- A hang is declared and acted upon (R512). -/
def hang (s : State) (u : ProgUnit) : State :=
  let code := unitCode s u
  let w := BitVec.ofNat 64 code
  let p := code / 2 ^ 16
  let watch := s.watch code
  let recent (t : Option Nat) : Bool := match t with
    | some t => decide (s.time ≤ t + repeatNs s)
    | none => false
  let again := recent watch.acted
  let s := s.bump rRcvHangs 1
  let s := if p = 0 then s else s.bump (rRcvPeckHang p) 1
  let s := (s.setReg rRcvLast w).setReg rRcvLastTime (BitVec.ofNat 64 s.time)
  let span := BitVec.ofNat 64 (spanOf s u)
  let s := if p = 0 then s.mgrEvent sevWarn evHangDetected w span else bothEvent s p sevWarn evHangDetected w span
  let s := s.setWatch ⟨code, [], some s.time⟩
  match u with
  | .engine e =>
    if again || recent ((s.verdicts.find? fun v => v.1 == e.val).map (·.2)) then engineLevel s e.val w else beginReplay s e.val w
  | .peckRing p _ => if again then peckLevel s p.val w else s
  | .mgrRing _ => if again then warmLevel s 6 w else s
  | .core n _ => if again || recent (s.core n.val).last then warmLevel s 3 w else s
  | .inst _ => if again then warmLevel s 4 w else s

/-- PROGRESS_SAMPLE: every Span ÷ 8 a unit's counter is sampled; one equal to the sample a Span earlier is a hang, and an interval in which it was
not watched starts the comparison anew (R510). The sample of an engine under replay is its run's (R518). -/
def execProgressSample (u : ProgUnit) (s : State) : Host.Outcome State Fault Refusal :=
  let s := overdue s
  let span := spanOf s u
  let replaying : Option (Replay × Nat) := match u with
    | .engine e => (s.replay e.val).bind fun r => r.run.map fun k => (r, k)
    | _ => none
  .next (match replaying with
  | some (r, k) => replaySample s r k span
  | none =>
    let w := s.watch (unitCode s u)
    if !watched s u then s.setWatch { w with samples := [] }
    else if ((w.samples.head?).any fun (p : Nat × Nat) => decide (s.time < p.1 + span * 125000)) then s
    else
      let v := counterOf s u
      let l := ((s.time, v) :: w.samples).take 9
      if l.length = 9 ∧ (l.map (·.2)).getLast? = some v then hang s u
      else s.setWatch { w with samples := l })

/-! ## Requests of the manager (R526, R528) -/

/-- RCV_WARMRESET: completes before the reset begins (R528). -/
def execRcvWarmreset (id : Nat) (s : State) : Host.Outcome State Fault Refusal :=
  .next (s.request id 0x0940 fun i => warmLevel (s.done i stOk) 1 0)

/-- RCV_POWERCYCLE: completes before the request is made (R526). -/
def execRcvPowercycle (id : Nat) (s : State) : Host.Outcome State Fault Refusal :=
  .next (s.request id 0x0941 fun i => powerLevel (s.done i stOk) 5 0)

/-- POWERCYCLE_REQUEST_REPEAT: every 1 s until power is removed (R526). No effect before; on the guard die's own oscillator its time is not the
device's. -/
def execPowercycleRequestRepeat (s : State) : Host.Outcome State Fault Refusal :=
  .next (if bitsOf (s.reg rRcvPcreq) 0 1 = 1 ∧ (s.pwr.fallback ∨ s.rcv.asked + 1000000000 ≤ s.time) then askPower s else s)

/-! ## Device warm reset (R525) -/

/-- One Peck as PECK_RESET leaves it: QUIESCED. A reset of the Peck in progress ends with this one (R35). -/
def warmPeck (s : State) (p : Nat) : State :=
  finishReset (beginReset s p .resetting (if (s.peck p).state = .resetting then (s.peck p).doing else none)) p

/-- An engine that no Peck holds as an engine reset leaves it: a device warm reset encloses it too (R31, R35). -/
def warmEngine (s : State) (e : Nat) : State := if (s.eng e).peck = 0 then endEngReset (clearEngine s e stFenced) e else s

/-- Counters of the SCH, STOR and WYM blocks (R292, R318, R428). -/
def isTrafficCounter (off : Nat) : Bool :=
  within 0x200100 0x2002FF off || (within 0x200400 0x2005FF off && off % 0x20 == 0x18) || (within 0x300800 0x300BFF off && decide (off % 0x40 < 0x30)) ||
    within 0xA00020 0xA00037 off

/-- The state that a device warm reset leaves before firmware boots (R525): Pecks are reset and QUIESCED, the manager is detached, rings are emptied,
retired entries return at generation 0, and Wymoug's state is discarded, with a hold (R290); links, switch settings, configuration, keys and the
guard die's state are kept. -/
def warmState (s : State) (cause : Nat) : State :=
  let s := pairSplit s pairLeave
  let s := (List.range 128).foldl warmEngine ((livePecks s).foldl warmPeck s)
  let s := fenceManager s
  let s := settleAll s
  let s := s.msgs.foldl (fun s m => endMsg s m stFenced) s
  let s := settleAll s
  let s := (List.range 16).foldl (fun s sp => s.setSpring sp { s.spring sp with en := false }) s
  let s := s.setRegField rMgrStat 0 1 0
  let s := { returnRetired s with
    attached := false, revokes := [], starts := [],
    arms := [], writes := [], resps := [], landed := [], deal := [], fetches := [], scratch := [], feeds := [], seqs := [], shares := [],
    colls := [], groups := [], bindings := [], kvmoves := [], ckpts := [], mirrors := [], notices := [],
    outcomes := [], arrivals := [],
    reads := s.reads.map fun r => { r with user := .none },
    vreqs := s.vreqs.filterMap fun r => if r.waiting then none else some { r with dead := true, user := .none },
    insts := s.insts.map fun (i, x) => (i, { Inst.reset with prog := x.prog, hold := if instUp s i then some (s.time + wymH s) else none }),
    eps := s.eps.map fun (k, e) => (k, { e with posts := [] }),
    ports := s.ports.map fun (k, x) => (k, { x with ctl := [], qs := [], fw := [], cmark := 0 }),
    regs := s.regs.filter fun e => !isTrafficCounter e.1,
    watches := [], replays := [], verdicts := [],
    engines := s.engines.map fun (k, x) => (k, { x with resetting := false }),
    rcv := { s.rcv with warm := none, fenced := false, reserve := false, escals := s.rcv.escals.filter fun x => x.1 == 3 },
    intg := { s.intg with scrub := none },
    warms := (s.warms.filter fun t => decide (s.time < t + 3600000000000)) ++ [s.time] }
  let s := nvReset s 0
  -- a scrub pass in progress ends, and its results read as zero (R444)
  let s := if bitsOf (s.reg rScrubCtl) 1 1 = 1 then (s.setReg rScrubCtl 0).setReg rScrubStat 0 else s
  let s := s.setReg rRcvWarm (BitVec.ofNat 64 (cause % 256 + min 255 s.warms.length * 2 ^ 8))
  s.setRegField rAlive 0 16 (bitsOf (s.reg rAlive) 0 16 + 1)

/-- Firmware boots again on a device whose guard die ran on: steps 2, 5, 7 and 8 of R498. One that does not become READY escalates to a power
cycle (R524). -/
def warmBoot (s : State) (b : BootIn) : State :=
  let s := match bootSlot { s with phase := 1 } with
    | (false, s) => s
    | (true, s) => bootTail s b
  if s.phase = 2 then recovered s 3 (fun _ => true) else powerLevel s 2 0

/-- DEVICE_WARM_RESET: the device performs the warm reset that escalation or the manager has made due, or that an uncorrectable error of the firmware
reserve makes due (R437, R525). No effect when none is. -/
def execDeviceWarmReset (b : BootIn) (s : State) : Host.Outcome State Fault Refusal :=
  let s := if s.rcv.reserve then warmLevel { s with rcv := { s.rcv with reserve := false } } 5 0 else s
  .next (match s.rcv.warm with
  | some cause => settleAll (warmBoot (warmState s cause) b)
  | none => s)

/-! ## Power (R31, R371, R525) -/

/-- The device without power but for what survives a power cycle: repairs, the fault list and the flash (R441, R505); the commands that wait, the model's
record of outputs and its free values go on. -/
def coldState (s : State) : State :=
  let keep (off lo w : Nat) (t : State) : State := t.setRegField off lo w (bitsOf (s.reg off) lo w)
  let t := { State.reset with
    pending := s.pending, free := s.free, out := s.out, secondary := s.secondary,
    intg := { Intg.reset with faults := s.intg.faults, grains := s.intg.grains, gills := s.intg.gills, soft := s.intg.soft, lanes := s.intg.lanes,
                              out_ := s.intg.out_ },
    engines := s.engines.foldl (fun t (e, x) => tblSet Engine.reset t e { Engine.reset with avail := x.avail, poolBad := x.poolBad, badRows := x.badRows }) [],
    fw := { FwState.reset with flashA := s.fw.flashA, flashB := s.fw.flashB, active := s.fw.active, minsec := s.fw.minsec } }
  let t := (List.range 128).foldl (fun t e => keep (rIntgPool e) 48 8 t) t
  let t := (List.range 8).foldl (fun t c => keep (rIntgMere c) 48 10 t) t
  let t := (List.range 8).foldl (fun t h => keep (rIntgHbm h) 48 12 t) t
  let t := (List.range 17).foldl (fun t l => keep (rLink l) 16 8 t) t
  t.setReg rIntgRetired (s.reg rIntgRetired)

/-- BOARD_POWER_CYCLE: the board removes and restores power (R31, R525). -/
def execBoardPowerCycle (s : State) : Host.Outcome State Fault Refusal := .next (coldState s)

/-- D3COLD_ENTRY: a final meter record is closed for every Peck, every key slot is erased, and every rail but VDD_GUARD is removed; the guard die keeps its
own state (R34, R371). -/
def execD3coldEntry (s : State) : Host.Outcome State Fault Refusal :=
  .next (
    if s.d3cold ∨ s.phase = 0 then s
    else
      let s := (livePecks s).foldl (fun s p => closeMeter s p true) s
      let t : State := coldState s
      let t := [rKeyAlarm, rKeyErasures, rRcvWarm, rRcvPcreq, rUnlocks].foldl (fun t off => t.setReg off (s.reg off)) t
      let p : Power := { Power.reset with highs := s.pwr.highs, temps := s.pwr.temps }
      let t : State := { t with d3cold := true, mtr := s.mtr, alarmLive := s.alarmLive, i3c := s.i3c, pwr := p }
      if t.mtr.length ≥ 768 then assertWake t else t)

/-- D3COLD_EXIT: the device boots from the guard die's ROM (R371), without sampling PAIR_ROLE again (R532). WAKE# is deasserted when the main rails are
good. -/
def execD3coldExit (b : BootIn) (s : State) : Host.Outcome State Fault Refusal :=
  .next (if s.d3cold then settleAll (coldBoot { s with d3cold := false, phase := 1 } b) else s)

end Sys2Proof.Machine
end

