-- ==== Sys2Proof/Machine/StorRows.lean ====
section
/-!
DEFINITION. Rows of the storage service (R408 to R417): volume registers, hot-plug, the completion and timeout of drive commands, and
mirrors.
-/

namespace Sys2Proof.Machine

/-- STOR_VOL_WRITE: a write to STOR_VOL (R411, R429). While EN = 1 a write is ignored unless it clears EN, which is itself
ignored while a root entry names the volume; an SU outside its range keeps its value. A change of grants reaches the Peck's NVMe
controller (R418). -/
def execStorVolWrite (v : Fin 1024) (part : RegPart) (w : Word) (s : State) : Host.Outcome State Fault Refusal :=
  let old := s.reg (rVol v.val)
  let w := mergePart part old w
  let keep := BitVec.ofNat 64 (bitsOf w 0 3 + bitsOf w 8 8 * 2 ^ 8 + bitsOf w 16 5 * 2 ^ 16 + bitsOf w 24 4 * 2 ^ 24 + bitsOf w 32 12 * 2 ^ 32)
  let suOk := within 4 8 (bitsOf w 24 4) || bitsOf w 24 4 == bitsOf old 24 4
  let keep := if suOk then keep else putField keep 24 4 (bitsOf old 24 4)
  let en := bitsOf keep 0 1 == 1
  whenReady s (
    if volEn s v.val then
      if en ∨ volNamed s v.val then s.errWr
      else
        let p := volPeck s v.val
        nvChanged (((if suOk then s else s.errWr).setReg (rVol v.val) keep).setVol v.val { s.vol v.val with state := .off }) p v.val
    else
      let t := (if suOk then s else s.errWr).setReg (rVol v.val) keep
      if !en then t
      else if volCanEnable t v.val then
        nvChanged (t.setVol v.val { s.vol v.val with state := .online }) (volPeck t v.val) v.val
      else s.errWr)

/-- VOLUME_REQUEST_START (R413). -/
def execVolumeRequestStart (id : Nat) (s : State) : Host.Outcome State Fault Refusal := .next (settleAll (runVolumeStart id s))

/-- DRIVE_HOTPLUG (R408, R410). -/
def execDriveHotplug (port : Nat) (ident : Nat) (size : Option Nat) (added : Bool) (s : State) : Host.Outcome State Fault Refusal :=
  .next (settleAll (driveHotplug port ident size added s))

/-- The user of a volume request is a Peck's work: its storage counts of the meter (R343). -/
def meterStor (s : State) (p rd wr : Nat) : State :=
  s.updPeck p fun x => { x with meter := { x.meter with
    storrd := x.meter.storrd + rd, storwr := x.meter.storwr + wr, storops := x.meter.storops + 1 } }

/-- A drive command of a request ends well: what it read is decrypted and handed on (R414). -/
def driveDone (s : State) (c : DriveCmd) (r : VReq) (data : List Byte) : State :=
  let p := volPeck s r.vol
  let n := c.n * 4096
  let s := { s with dcmds := s.dcmds.filter fun x => x.id ≠ c.id }
  let s := match r.kind with
    | .read => meterStor (s.bump rStorRd n) p n 0
    | .write | .zeroes => meterStor (s.bump rStorWr n) p 0 n
    | .dealloc => meterStor s p 0 0
  let s := if r.kind = .read ∧ !r.dead ∧ !r.lost then
      let bs := if volEnc s r.vol then openBlocks (s.key (volKey s r.vol)).key c.blk data else data
      { s with arrivals := s.arrivals ++ [(r.user, r.off + (c.blk - r.blk) * 4096, bs)] }
    else s
  vreqSettle (s.updVreq r.id fun x => { x with open_ := x.open_ - 1 }) r.id

/-- DRIVE_COMMAND_COMPLETE: a drive reports a command complete, with its data, with an NVMe error status, or with a fatal controller
status, which fails the drive (R409, R410). No effect on a command that is not outstanding, or on a read whose data is not whole. -/
def execDriveCommandComplete (id : Nat) (err : Option (BitVec 16)) (fatal : Bool) (data : List Byte) (s : State) :
    Host.Outcome State Fault Refusal :=
  match s.dcmds.find? fun c => c.id == id with
  | none => .next s
  | some c =>
    if fatal then .next (settleAll (failDrive s c.drive ((err.getD 0).toNat)))
    else match s.vreq c.req with
      | none => .next { s with dcmds := s.dcmds.filter fun x => x.id ≠ id }
      | some r =>
        if err.isSome then .next (settleAll (failDcmd (s.bump rStorCmds 1) c stStorMedia))
        else if r.kind = .read ∧ data.length ≠ c.n * 4096 then .next s
        else .next (settleAll (driveDone (s.bump rStorCmds 1) c r data))

/-- DRIVE_COMMAND_TIMEOUT: a command is still outstanding after DEVCTL_CTO, and its drive fails (R410). No effect before. -/
def execDriveCommandTimeout (id : Nat) (s : State) : Host.Outcome State Fault Refusal :=
  .next (match s.dcmds.find? fun c => c.id == id with
  | none => s
  | some c => if c.sent + (s.reg rCto).toNat * 1000 ≤ s.time then settleAll (failDrive s c.drive 0) else s)

/-- MIRROR_TIMEOUT: no reply within STOR_CFG.MIRTO of the SEND (R417). No effect before. -/
def execMirrorTimeout (id : Nat) (s : State) : Host.Outcome State Fault Refusal :=
  .next (match s.vreq id with
  | none => s
  | some r => match r.mirror with
    | none => s
    | some (num, t) =>
      if t + bitsOf (s.reg rStorCfg) 0 14 * 1000000 ≤ s.time then settleAll (mirrorEnd s id num stStorMirrorLost) else s)

end Sys2Proof.Machine
end

