-- ==== Sys2Proof/Machine/RegRows.lean ====
section
/-!
DEFINITION. REGISTER_WRITE and REGISTER_ACCESS_INVALID (R4 to R6): writes to the registers that have no row of their own. A field outside its
range keeps its value and the write is counted (R226, R376); a reserved field ignores the write (R6); an offset not listed, a read-only register
and a register with a row of its own are untouched.
-/

namespace Sys2Proof.Machine

/-- A write to an indexed register of 8 bytes each, `n` of them from `base`. -/
def indexed (base stride n off : Nat) : Option Nat :=
  if base ≤ off ∧ off < base + stride * n ∧ (off - base) % stride = 0 then some ((off - base) / stride) else none

/-- The fields of the plain registers whose write depends on nothing else, by offset; none for any other. -/
def plainFields (off : Nat) : Option (List RegField) :=
  if off = rCto then some [⟨0, 20, 50, 1000000⟩]
  else if off = 0x0A0010 then some [.all 0 11, .all 15 1]
  else if off = rHbCfg then some [⟨0, 14, 10, 10000⟩]
  else if off = rRedCfg then some [⟨0, 14, 1, 10000⟩, ⟨16, 14, 1, 10000⟩]
  else if off = rGenCfg then some [⟨0, 3, 1, 4⟩]
  else if off = rWymCc then
    some [⟨0, 14, 10, 10000⟩, ⟨16, 10, 1, 1000⟩, ⟨32, 8, 1, 255⟩, ⟨40, 8, 1, 255⟩, ⟨48, 8, 1, 16⟩, ⟨56, 8, 0, 100⟩]
  else if off = rWymPath then
    some [⟨0, 8, 1, 255⟩, ⟨8, 10, 1, 1000⟩, ⟨24, 8, 1, 255⟩, ⟨32, 8, 1, 32⟩, ⟨40, 8, 1, 255⟩]
  else if (indexed 0x300110 0x40 16 off).isSome ∨ (indexed 0x300830 0x40 16 off).isSome ∨ (indexed 0x300838 0x40 16 off).isSome then
    some [.all 0 64]
  else if off = rStorCfg then some [⟨0, 14, 1, 10000⟩]
  else if (indexed 0xA01008 0x20 32 off).isSome then some [.all 0 32]
  else if off = rScrubBase then some [.all 6 34]
  else if off = rScrubLen then some [.all 0 41]
  else if off = rIntgCfg then some [⟨0, 16, 1, 65535⟩]
  else if off = rCkptCfg then some [⟨0, 20, 1, 600000⟩, .all 20 1]
  else if off = rRcvCfg then
    some [⟨0, 14, 1, 10000⟩, ⟨16, 14, 1, 10000⟩, ⟨32, 14, 1, 10000⟩, ⟨48, 3, 1, 7⟩, ⟨52, 10, 10, 1000⟩]
  else if (indexed 0x701008 8 255 off).isSome then some [⟨0, 14, 1, 10000⟩, .all 14 1]
  else if off = rPairCfg then some [⟨0, 10, 25, 1000⟩, ⟨16, 10, 100, 1000⟩, .all 32 1]
  else if off = rFwCfg then some [⟨0, 10, 1, 1000⟩]
  else if off = rPwrWake ∨ (indexed 0x801008 8 255 off).isSome then some [.all 0 32]
  else if off = rMtrBase then some [.all 12 52]
  else none

/-- The sum of a register field over Pecks 1 to 255, with Peck p's taken as v. -/
def sumField (s : State) (reg : Nat → Nat) (lo w p v : Nat) : Nat :=
  ((List.range 255).map fun i => if i + 1 = p then v else bitsOf (s.reg (reg (i + 1))) lo w).foldl (· + ·) 0

/-- RED_PECK[p] and GEN_PECK[p]: ignored as a whole for a FREE Peck (R326), or when the counts of groups or sequences over all Pecks would exceed `top`
(R227, R250); a field outside its range is ignored alone (R226). -/
def peckGrantWrite (s : State) (reg : Nat → Nat) (p w top : Nat) (part : RegPart) (v : Word) : State :=
  let x := mergePart part (s.reg (reg p)) v
  let old := s.reg (reg p)
  let n := if bitsOf x 0 8 ≤ 128 then bitsOf x 0 8 else bitsOf old 0 8
  let g := if bitsOf x 16 w ≤ top then bitsOf x 16 w else bitsOf old 16 w
  if (s.peck p).state = .free ∨ sumField s reg 16 w p g > top then s.errWr
  else
    let s := if bitsOf x 0 8 ≤ 128 ∧ bitsOf x 16 w ≤ top then s else s.errWr
    s.setReg (reg p) (BitVec.ofNat 64 (n + g * 2 ^ 16))

/-- PECK_QUOTA[p]: each field within its range, and its sum over all Pecks within the device's (R345). -/
def quotaWrite (s : State) (p : Nat) (part : RegPart) (v : Word) : State :=
  let x := s.peck p
  let y := mergePart part (BitVec.ofNat 64 (x.roots + x.trk * 2 ^ 32 + x.cache * 2 ^ 49)) v
  let others (f : Peck → Nat) : Nat := ((s.pecks.filter fun (e : Nat × Peck) => e.1 ≠ p).map fun (e : Nat × Peck) => f e.2).foldl (· + ·) 0
  let roots := bitsOf y 0 20
  let trk := bitsOf y 32 17
  let cache := bitsOf y 49 15
  let okR := decide (roots + others (·.roots) ≤ 913407)
  let okT := decide (trk + others (·.trk) ≤ 65536)
  let okC := decide (cache + others (·.cache) ≤ 16384)
  let s := if okR && okT && okC then s else s.errWr
  s.setPeck p { x with
    roots := if okR then roots else x.roots, trk := if okT then trk else x.trk, cache := if okC then cache else x.cache }

/-- TIME_CFG: MODE 3 is reserved and DOMAIN is at most 127. Entering PTP starts LISTENING, leaving it drops what the protocol had learned, and
in FREE mode TIME_ADJ reads 0 (R563, R564). -/
def timeCfgWrite (s : State) (part : RegPart) (v : Word) : State :=
  let old := timeMode s
  let s := s.writeFields rTimeCfg part v [⟨0, 2, 0, 2⟩, ⟨2, 8, 0, 127⟩, .all 10 16, .all 26 1, .all 27 1]
  let m := timeMode s
  if m = old then s
  else
    let s := { s with clk := { s.clk with
      masters := [], chosen := none, sync := none, ms := none, req := none, resp := none, delay := none } }
    let s := s.setReg rTimeStat (BitVec.ofNat 64 (if m = 1 then 1 else 0))
    if m = 0 then s.setReg rTimeAdj 0 else s

/-- TIME_ADJ: writable in MANUAL mode, from −200,000 to 200,000 ppb, and not on the secondary of a joined pair (R564). -/
def timeAdjWrite (s : State) (part : RegPart) (v : Word) : State :=
  let x := (mergePart part (s.reg rTimeAdj) v).setWidth 32
  if timeMode s ≠ 2 ∨ (s.secondary && s.pair.joined) ∨ x.toInt < -200000 ∨ 200000 < x.toInt then s.errWr
  else s.setReg rTimeAdj (x.setWidth 64)

/-- THM_LIMITS: HOT from 80 to 105, WARN from 70 to HOT; a sensor already at the new HOT enters a thermal emergency (R557, R559). -/
def thmLimitsWrite (s : State) (part : RegPart) (v : Word) : State :=
  let s := s.writeFields rThmLimits part v [⟨8, 8, 80, 105⟩]
  let s := if part = .high then s else s.writeFields rThmLimits part v [⟨0, 8, 70, thmHot s⟩]
  if s.pwr.temps.any (fun (x : Nat × Int) => decide (x.2 ≥ (thmHot s : Int))) then emergency s false true else s

/-- A write to a register without a row of its own. -/
def plainWrite (s : State) (off : Nat) (part : RegPart) (v : Word) : State :=
  match plainFields off with
  | some fs => s.writeFields off part v fs
  | none =>
    if off = rWymCfg then
      -- PSIZE changes only while every port is down (R293); a write refused for either field is counted once
      let keep := bitsOf (s.reg off) 16 2
      s.writeFields off part v (if portsOff s then [⟨0, 16, 1, 65535⟩, .all 16 2] else [⟨0, 16, 1, 65535⟩, ⟨16, 2, keep, keep⟩])
    else if off = rStorWin then
      if (List.range 1024).any (volEn s) then s.errWr else s.writeFields off part v [.all 40 24]
    else if off = rMtrCfg then meterWrite 4096 (s.writeFields off part v [⟨0, 5, 6, 16⟩, .all 8 1])
    else if off = rTimeCfg then timeCfgWrite s part v
    else if off = rTimeAdj then timeAdjWrite s part v
    else if off = rThmLimits then thmLimitsWrite s part v
    else match indexed (rRedPeck 1) 8 255 off with
    | some i => peckGrantWrite s rRedPeck (i + 1) 13 4096 part v
    | none =>
    match indexed (rGenPeck 1) 8 255 off with
    | some i => peckGrantWrite s rGenPeck (i + 1) 15 16384 part v
    | none =>
    match indexed 0x041048 0x40 255 off with
    | some i => quotaWrite s (i + 1) part v
    | none =>
    match indexed (rVol2 0) 0x20 1024 off with
    | some i => if volEn s i then s.errWr else s.setReg off (mergePart part (s.reg off) v)
    | none =>
    match indexed (rExt 0 0) 8 32768 off with
    | some i => if volEn s (i / 32) then s.errWr else s.writeFields off part v [.all 0 45]
    | none => s

/-- Whether a block's registers answer before READY: the manifest ROM, DEVCTL and FW (R498). -/
def answersEarly (off : Nat) : Bool := off < 0x20000 || (0xB00000 ≤ off && off < 0xC00000)

/-- REGISTER_WRITE: a write of a whole or half register of a function's BAR0. One received with EP set is discarded, counted and logged
(R436); one that is not naturally aligned is discarded and counted (R4). Of the functions other than the manager, those of PF1 have the doorbells of an
NVMe controller, and the others no such register (R352, R404). -/
def execRegisterWrite (f : Fin 512) (off : Nat) (part : RegPart) (v : Word) (ep : Bool) (s : State) : Host.Outcome State Fault Refusal :=
  .next (
    if ep then logPoisoned s.errWr f.val
    else if off % 8 ≠ 0 then s.bump rErrAcc 1
    else if 256 ≤ f.val then nvDoorbell s f.val off part v
    else if f.val ≠ 0 ∨ (s.phase ≠ 2 ∧ !answersEarly off) then s
    else plainWrite s off part v)

/-- REGISTER_ACCESS_INVALID: an access of another width (zero bytes among them) or alignment is counted and has no other effect; a read returns
zero (R4). -/
def execRegisterAccessInvalid (_f : Fin 512) (off len : Nat) (write : Bool) (s : State) : Host.Outcome State Fault Refusal :=
  let valid := (len = 8 ∧ off % 8 = 0) ∨ (len = 4 ∧ off % 4 = 0)
  .next (
    if valid then s
    else
      let s := s.bump rErrAcc 1
      if write then s else s.emit (.completion (bytesOf len 0) false))

end Sys2Proof.Machine
end

