-- ==== Sys2Proof/Machine/Dispatch.lean ====
section
/-!
DEFINITION. The dispatch of the commands: one arm per constructor of `Instr`, each one direct call of its meaning.
-/

namespace Sys2Proof.Machine

/-- The effect of command `i` on the state (everything but the queue). -/
def exec (i : Instr) (s : State) : Host.Outcome State Fault Refusal :=
  match i with
  | .nop c => Sys2Proof.Machine.execNop c s
  | .mov c d a => Sys2Proof.Machine.execMov c d a s
  | .movi c d imm => Sys2Proof.Machine.execMovi c d imm s
  | .movi64 c d imm => Sys2Proof.Machine.execMovi64 c d imm s
  | .add c d a b => Sys2Proof.Machine.execAdd c d a b s
  | .sub c d a b => Sys2Proof.Machine.execSub c d a b s
  | .mul c d a b => Sys2Proof.Machine.execMul c d a b s
  | .mulh c d a b => Sys2Proof.Machine.execMulh c d a b s
  | .mulhu c d a b => Sys2Proof.Machine.execMulhu c d a b s
  | .div c d a b => Sys2Proof.Machine.execDiv c d a b s
  | .divu c d a b => Sys2Proof.Machine.execDivu c d a b s
  | .rem c d a b => Sys2Proof.Machine.execRem c d a b s
  | .remu c d a b => Sys2Proof.Machine.execRemu c d a b s
  | .and_ c d a b => Sys2Proof.Machine.execAnd c d a b s
  | .or_ c d a b => Sys2Proof.Machine.execOr c d a b s
  | .xor_ c d a b => Sys2Proof.Machine.execXor c d a b s
  | .shl c d a b => Sys2Proof.Machine.execShl c d a b s
  | .shr c d a b => Sys2Proof.Machine.execShr c d a b s
  | .sar c d a b => Sys2Proof.Machine.execSar c d a b s
  | .rol c d a b => Sys2Proof.Machine.execRol c d a b s
  | .min_ c d a b => Sys2Proof.Machine.execMin c d a b s
  | .max_ c d a b => Sys2Proof.Machine.execMax c d a b s
  | .minu c d a b => Sys2Proof.Machine.execMinu c d a b s
  | .maxu c d a b => Sys2Proof.Machine.execMaxu c d a b s
  | .cmp c a b => Sys2Proof.Machine.execCmp c a b s
  | .tst c a b => Sys2Proof.Machine.execTst c a b s
  | .neg c d a => Sys2Proof.Machine.execNeg c d a s
  | .not_ c d a => Sys2Proof.Machine.execNot c d a s
  | .clz c d a => Sys2Proof.Machine.execClz c d a s
  | .ctz c d a => Sys2Proof.Machine.execCtz c d a s
  | .popc c d a => Sys2Proof.Machine.execPopc c d a s
  | .bswap c d a => Sys2Proof.Machine.execBswap c d a s
  | .addi c d a imm => Sys2Proof.Machine.execAddi c d a imm s
  | .muli c d a imm => Sys2Proof.Machine.execMuli c d a imm s
  | .andi c d a imm => Sys2Proof.Machine.execAndi c d a imm s
  | .ori c d a imm => Sys2Proof.Machine.execOri c d a imm s
  | .xori c d a imm => Sys2Proof.Machine.execXori c d a imm s
  | .shli c d a n => Sys2Proof.Machine.execShli c d a n s
  | .shri c d a n => Sys2Proof.Machine.execShri c d a n s
  | .sari c d a n => Sys2Proof.Machine.execSari c d a n s
  | .roli c d a n => Sys2Proof.Machine.execRoli c d a n s
  | .cmpi c a imm => Sys2Proof.Machine.execCmpi c a imm s
  | .tsti c a imm => Sys2Proof.Machine.execTsti c a imm s
  | .sxtB c d a => Sys2Proof.Machine.execSxtB c d a s
  | .sxtH c d a => Sys2Proof.Machine.execSxtH c d a s
  | .sxtW c d a => Sys2Proof.Machine.execSxtW c d a s
  | .zxtB c d a => Sys2Proof.Machine.execZxtB c d a s
  | .zxtH c d a => Sys2Proof.Machine.execZxtH c d a s
  | .zxtW c d a => Sys2Proof.Machine.execZxtW c d a s
  | .retag c d a t => Sys2Proof.Machine.execRetag c d a t s
  | .tagof c d a => Sys2Proof.Machine.execTagof c d a s
  | .bCc c k disp => Sys2Proof.Machine.execBCc c k disp s
  | .call_ c disp => Sys2Proof.Machine.execCall c disp s
  | .jr c a => Sys2Proof.Machine.execJr c a s
  | .callr c a => Sys2Proof.Machine.execCallr c a s
  | .ret c => Sys2Proof.Machine.execRet c s
  | .dbnz c a disp => Sys2Proof.Machine.execDbnz c a disp s
  | .setcc c d k => Sys2Proof.Machine.execSetcc c d k s
  | .csel c d a b k => Sys2Proof.Machine.execCsel c d a b k s
  | .rdflg c d => Sys2Proof.Machine.execRdflg c d s
  | .wrflg c a => Sys2Proof.Machine.execWrflg c a s
  | .clrflg c m => Sys2Proof.Machine.execClrflg c m s
  | .ldB c ord r at_ => Sys2Proof.Machine.execLdB c ord r at_ s
  | .ldH c ord r at_ => Sys2Proof.Machine.execLdH c ord r at_ s
  | .ldW c ord r at_ => Sys2Proof.Machine.execLdW c ord r at_ s
  | .ldD c ord r at_ => Sys2Proof.Machine.execLdD c ord r at_ s
  | .ldBs c ord r at_ => Sys2Proof.Machine.execLdBs c ord r at_ s
  | .ldHs c ord r at_ => Sys2Proof.Machine.execLdHs c ord r at_ s
  | .ldWs c ord r at_ => Sys2Proof.Machine.execLdWs c ord r at_ s
  | .stB c ord r at_ => Sys2Proof.Machine.execStB c ord r at_ s
  | .stH c ord r at_ => Sys2Proof.Machine.execStH c ord r at_ s
  | .stW c ord r at_ => Sys2Proof.Machine.execStW c ord r at_ s
  | .stD c ord r at_ => Sys2Proof.Machine.execStD c ord r at_ s
  | .vld c px v at_ => Sys2Proof.Machine.execVld c px v at_ s
  | .vst c px v at_ => Sys2Proof.Machine.execVst c px v at_ s
  | .vldsc c px v at_ => Sys2Proof.Machine.execVldsc c px v at_ s
  | .vstsc c px v at_ => Sys2Proof.Machine.execVstsc c px v at_ s
  | .ldh c ord h at_ => Sys2Proof.Machine.execLdh c ord h at_ s
  | .sth c ord h at_ => Sys2Proof.Machine.execSth c ord h at_ s
  | .h2s c d h => Sys2Proof.Machine.execH2s c d h s
  | .s2h c h a => Sys2Proof.Machine.execS2h c h a s
  | .hderive c hd hs a b mask => Sys2Proof.Machine.execHderive c hd hs a b mask s
  | .hcheck c d h mask => Sys2Proof.Machine.execHcheck c d h mask s
  | .hlen c d h => Sys2Proof.Machine.execHlen c d h s
  | .amoAdd c ord d at_ b => Sys2Proof.Machine.execAmoAdd c ord d at_ b s
  | .amoAnd c ord d at_ b => Sys2Proof.Machine.execAmoAnd c ord d at_ b s
  | .amoOr c ord d at_ b => Sys2Proof.Machine.execAmoOr c ord d at_ b s
  | .amoXor c ord d at_ b => Sys2Proof.Machine.execAmoXor c ord d at_ b s
  | .amoSwap c ord d at_ b => Sys2Proof.Machine.execAmoSwap c ord d at_ b s
  | .amoMin c ord d at_ b => Sys2Proof.Machine.execAmoMin c ord d at_ b s
  | .amoMax c ord d at_ b => Sys2Proof.Machine.execAmoMax c ord d at_ b s
  | .amoCas c ord d at_ b => Sys2Proof.Machine.execAmoCas c ord d at_ b s
  | .retagM c ord t at_ => Sys2Proof.Machine.execRetagM c ord t at_ s
  | .vadd c px d a b rm => Sys2Proof.Machine.execVadd c px d a b rm s
  | .vsub c px d a b rm => Sys2Proof.Machine.execVsub c px d a b rm s
  | .vmul c px d a b rm => Sys2Proof.Machine.execVmul c px d a b rm s
  | .vfma c px d a b e rm => Sys2Proof.Machine.execVfma c px d a b e rm s
  | .vfms c px d a b e rm => Sys2Proof.Machine.execVfms c px d a b e rm s
  | .vfnma c px d a b e rm => Sys2Proof.Machine.execVfnma c px d a b e rm s
  | .vmin c px d a b => Sys2Proof.Machine.execVmin c px d a b s
  | .vmax c px d a b => Sys2Proof.Machine.execVmax c px d a b s
  | .vabs c px d a => Sys2Proof.Machine.execVabs c px d a s
  | .vneg c px d a => Sys2Proof.Machine.execVneg c px d a s
  | .vdiv c px d a b rm => Sys2Proof.Machine.execVdiv c px d a b rm s
  | .vsqrt c px d a rm => Sys2Proof.Machine.execVsqrt c px d a rm s
  | .vrsqrt c px d a rm => Sys2Proof.Machine.execVrsqrt c px d a rm s
  | .vrcp c px d a rm => Sys2Proof.Machine.execVrcp c px d a rm s
  | .vexp2 c px d a rm => Sys2Proof.Machine.execVexp2 c px d a rm s
  | .vlog2 c px d a rm => Sys2Proof.Machine.execVlog2 c px d a rm s
  | .vdot c px d a b rm => Sys2Proof.Machine.execVdot c px d a b rm s
  | .vcmpEq c px m a b => Sys2Proof.Machine.execVcmpEq c px m a b s
  | .vcmpLt c px m a b => Sys2Proof.Machine.execVcmpLt c px m a b s
  | .vcmpLe c px m a b => Sys2Proof.Machine.execVcmpLe c px m a b s
  | .vcmpUn c px m a b => Sys2Proof.Machine.execVcmpUn c px m a b s
  | .vsel c px d a b m => Sys2Proof.Machine.execVsel c px d a b m s
  | .vand c px d a b => Sys2Proof.Machine.execVand c px d a b s
  | .vor c px d a b => Sys2Proof.Machine.execVor c px d a b s
  | .vxor c px d a b => Sys2Proof.Machine.execVxor c px d a b s
  | .vshl c px d a b => Sys2Proof.Machine.execVshl c px d a b s
  | .vshr c px d a b => Sys2Proof.Machine.execVshr c px d a b s
  | .vsar c px d a b => Sys2Proof.Machine.execVsar c px d a b s
  | .vmov c px d a => Sys2Proof.Machine.execVmov c px d a s
  | .vsplat c px d a => Sys2Proof.Machine.execVsplat c px d a s
  | .vsplati c px d imm => Sys2Proof.Machine.execVsplati c px d imm s
  | .vlane c px d => Sys2Proof.Machine.execVlane c px d s
  | .vredmax c px d a => Sys2Proof.Machine.execVredmax c px d a s
  | .vredmin c px d a => Sys2Proof.Machine.execVredmin c px d a s
  | .vargmax c px d a => Sys2Proof.Machine.execVargmax c px d a s
  | .vargmin c px d a => Sys2Proof.Machine.execVargmin c px d a s
  | .vperm c px d a b => Sys2Proof.Machine.execVperm c px d a b s
  | .vrot c px d a n => Sys2Proof.Machine.execVrot c px d a n s
  | .vext c px d a n => Sys2Proof.Machine.execVext c px d a n s
  | .vins c px d a n => Sys2Proof.Machine.execVins c px d a n s
  | .mand c d a b => Sys2Proof.Machine.execMand c d a b s
  | .mor c d a b => Sys2Proof.Machine.execMor c d a b s
  | .mxor c d a b => Sys2Proof.Machine.execMxor c d a b s
  | .mnot c d a => Sys2Proof.Machine.execMnot c d a s
  | .mset c d n => Sys2Proof.Machine.execMset c d n s
  | .mpop c d m => Sys2Proof.Machine.execMpop c d m s
  | .mfirst c d m => Sys2Proof.Machine.execMfirst c d m s
  | .mfromv c m a => Sys2Proof.Machine.execMfromv c m a s
  | .copy c ord q h a => Sys2Proof.Machine.execCopy c ord q h a s
  | .copy2d c ord q h a => Sys2Proof.Machine.execCopy2d c ord q h a s
  | .fill c ord q h a => Sys2Proof.Machine.execFill c ord q h a s
  | .cpystat c d q => Sys2Proof.Machine.execCpystat c d q s
  | .cpywait c q => Sys2Proof.Machine.execCpywait c q s
  | .semAdd c ord a n => Sys2Proof.Machine.execSemAdd c ord a n s
  | .semWait c a n => Sys2Proof.Machine.execSemWait c a n s
  | .semRd c d n => Sys2Proof.Machine.execSemRd c d n s
  | .semSet c ord a n => Sys2Proof.Machine.execSemSet c ord a n s
  | .barArrive c u => Sys2Proof.Machine.execBarArrive c u s
  | .barWait c u => Sys2Proof.Machine.execBarWait c u s
  | .barSync c u => Sys2Proof.Machine.execBarSync c u s
  | .fence c => Sys2Proof.Machine.execFence c s
  | .sysr c d n => Sys2Proof.Machine.execSysr c d n s
  | .sysw c a n => Sys2Proof.Machine.execSysw c a n s
  | .yield_ c => Sys2Proof.Machine.execYield c s
  | .halt c a => Sys2Proof.Machine.execHalt c a s
  | .rdcst c d => Sys2Proof.Machine.execRdcst c d s
  | .xclr c px x => Sys2Proof.Machine.execXclr c px x s
  | .xacc c px x a => Sys2Proof.Machine.execXacc c px x a s
  | .xaccS c px x a => Sys2Proof.Machine.execXaccS c px x a s
  | .xaccp c px x a b => Sys2Proof.Machine.execXaccp c px x a b s
  | .xmerge c px d a => Sys2Proof.Machine.execXmerge c px d a s
  | .xmov c px d a => Sys2Proof.Machine.execXmov c px d a s
  | .xld c px x at_ => Sys2Proof.Machine.execXld c px x at_ s
  | .xst c px x at_ => Sys2Proof.Machine.execXst c px x at_ s
  | .xrd c d x t rm => Sys2Proof.Machine.execXrd c d x t rm s
  | .xcnt c d x => Sys2Proof.Machine.execXcnt c d x s
  | .xstat c d x => Sys2Proof.Machine.execXstat c d x s
  | .vcvt c px d a t w rm => Sys2Proof.Machine.execVcvt c px d a t w rm s
  | .vcvt2 c px d a b t w rm => Sys2Proof.Machine.execVcvt2 c px d a b t w rm s
  | .vcvth c px d a t w rm => Sys2Proof.Machine.execVcvth c px d a t w rm s
  | .scvt c d a t rm => Sys2Proof.Machine.execScvt c d a t rm s
  | .rngRd c d n => Sys2Proof.Machine.execRngRd c d n s
  | .rngWr c a n => Sys2Proof.Machine.execRngWr c a n s
  | .rngStep c => Sys2Proof.Machine.execRngStep c s
  | .philox c px d a w form => Sys2Proof.Machine.execPhilox c px d a w form s
  | .vtopk c px d a k => Sys2Proof.Machine.execVtopk c px d a k s
  | .vscan c px d a excl rm => Sys2Proof.Machine.execVscan c px d a excl rm s
  | .vsample c px d a b => Sys2Proof.Machine.execVsample c px d a b s
  | .vpenal c px d a b rm => Sys2Proof.Machine.execVpenal c px d a b rm s
  | .vaccept c px m a b e => Sys2Proof.Machine.execVaccept c px m a b e s
  | .contextReady c => Sys2Proof.Machine.execContextReady c s
  | .orderedStart c => Sys2Proof.Machine.execOrderedStart c s
  | .accumulatorWaitEnd c => Sys2Proof.Machine.execAccumulatorWaitEnd c s
  | .copyComplete e q => Sys2Proof.Machine.execCopyComplete e q s
  | .copyStart e id deny => Sys2Proof.Machine.execCopyStart e id deny s
  | .nopRequest id => Sys2Proof.Machine.execNopRequest id s
  | .abort id => Sys2Proof.Machine.execAbort id s
  | .springCfg id => Sys2Proof.Machine.execSpringCfg id s
  | .logRead id => Sys2Proof.Machine.execLogRead id s
  | .ctxStart id => Sys2Proof.Machine.execCtxStart id s
  | .contextPlace id => Sys2Proof.Machine.execContextPlace id s
  | .workItemComplete c => Sys2Proof.Machine.execWorkItemComplete c s
  | .progLoad id data st => Sys2Proof.Machine.execProgLoad id data st s
  | .progUnload id => Sys2Proof.Machine.execProgUnload id s
  | .allreduce id => Sys2Proof.Machine.execAllreduce id s
  | .reduceScatter id => Sys2Proof.Machine.execReduceScatter id s
  | .allgather id => Sys2Proof.Machine.execAllgather id s
  | .reduce id => Sys2Proof.Machine.execReduce id s
  | .broadcast id => Sys2Proof.Machine.execBroadcast id s
  | .alltoall id => Sys2Proof.Machine.execAlltoall id s
  | .step id => Sys2Proof.Machine.execStep id s
  | .announceResend c => Sys2Proof.Machine.execAnnounceResend c s
  | .collSend c chunk member deny => Sys2Proof.Machine.execCollSend c chunk member deny s
  | .collReduce c chunk => Sys2Proof.Machine.execCollReduce c chunk s
  | .collVerdict c => Sys2Proof.Machine.execCollVerdict c s
  | .collVerdictTimeout c => Sys2Proof.Machine.execCollVerdictTimeout c s
  | .collApply c chunk => Sys2Proof.Machine.execCollApply c chunk s
  | .collResult c chunk owner deny => Sys2Proof.Machine.execCollResult c chunk owner deny s
  | .collDeliver c chunk deny => Sys2Proof.Machine.execCollDeliver c chunk deny s
  | .collStallExpiry c => Sys2Proof.Machine.execCollStallExpiry c s
  | .collComplete c lost => Sys2Proof.Machine.execCollComplete c lost s
  | .genRegister id => Sys2Proof.Machine.execGenRegister id s
  | .genUpdate id => Sys2Proof.Machine.execGenUpdate id s
  | .genDeregister id => Sys2Proof.Machine.execGenDeregister id s
  | .genStep id => Sys2Proof.Machine.execGenStep id s
  | .genDispatch q => Sys2Proof.Machine.execGenDispatch q s
  | .genSample q => Sys2Proof.Machine.execGenSample q s
  | .genOutputWrite q => Sys2Proof.Machine.execGenOutputWrite q s
  | .kvAppend q deny => Sys2Proof.Machine.execKvAppend q deny s
  | .genKvmove id deny => Sys2Proof.Machine.execGenKvmove id deny s
  | .wymArm id => Sys2Proof.Machine.execWymArm id s
  | .wymDisarm id => Sys2Proof.Machine.execWymDisarm id s
  | .wymPost id => Sys2Proof.Machine.execWymPost id s
  | .wymSend id => Sys2Proof.Machine.execWymSend id s
  | .wymAtomic id => Sys2Proof.Machine.execWymAtomic id s
  | .peckCreate id => Sys2Proof.Machine.execPeckCreate id s
  | .peckGrant id => Sys2Proof.Machine.execPeckGrant id s
  | .peckRelease id => Sys2Proof.Machine.execPeckRelease id s
  | .peckMint id => Sys2Proof.Machine.execPeckMint id s
  | .peckRevoke id => Sys2Proof.Machine.execPeckRevoke id s
  | .peckQuiesce id => Sys2Proof.Machine.execPeckQuiesce id s
  | .peckQuiesced p => Sys2Proof.Machine.execPeckQuiesced p s
  | .peckResume id => Sys2Proof.Machine.execPeckResume id s
  | .peckDisable id => Sys2Proof.Machine.execPeckDisable id s
  | .peckReset id => Sys2Proof.Machine.execPeckReset id s
  | .peckRemove id => Sys2Proof.Machine.execPeckRemove id s
  | .peckLogStart id => Sys2Proof.Machine.execPeckLogStart id s
  | .peckLogStop id => Sys2Proof.Machine.execPeckLogStop id s
  | .peckExport id pub st => Sys2Proof.Machine.execPeckExport id pub st s
  | .peckImport id data pub st => Sys2Proof.Machine.execPeckImport id data pub st s
  | .peckAttest id => Sys2Proof.Machine.execPeckAttest id s
  | .peckHplace id => Sys2Proof.Machine.execPeckHplace id s
  | .peckHderive id => Sys2Proof.Machine.execPeckHderive id s
  | .peckHdrop id => Sys2Proof.Machine.execPeckHdrop id s
  | .feedStart id => Sys2Proof.Machine.execFeedStart id s
  | .feedAdvance id => Sys2Proof.Machine.execFeedAdvance id s
  | .feedStop id => Sys2Proof.Machine.execFeedStop id s
  | .feedBatch p id => Sys2Proof.Machine.execFeedBatch p id s
  | .feedPositionRecord p id => Sys2Proof.Machine.execFeedPositionRecord p id s
  | .keyImport id data st => Sys2Proof.Machine.execKeyImport id data st s
  | .keyGenerate id => Sys2Proof.Machine.execKeyGenerate id s
  | .keyErase id => Sys2Proof.Machine.execKeyErase id s
  | .keyCqcfg id => Sys2Proof.Machine.execKeyCqcfg id s
  | .keyInfo id => Sys2Proof.Machine.execKeyInfo id s
  | .cbcEncrypt p q => Sys2Proof.Machine.execCbcEncrypt p q s
  | .cbcDecrypt p q => Sys2Proof.Machine.execCbcDecrypt p q s
  | .cfbEncrypt p q => Sys2Proof.Machine.execCfbEncrypt p q s
  | .cfbDecrypt p q => Sys2Proof.Machine.execCfbDecrypt p q s
  | .ctr p q => Sys2Proof.Machine.execCtr p q s
  | .ckptBegin id => Sys2Proof.Machine.execCkptBegin id s
  | .ckptGuard id => Sys2Proof.Machine.execCkptGuard id s
  | .ckptCancel id => Sys2Proof.Machine.execCkptCancel id s
  | .ckptRestore id => Sys2Proof.Machine.execCkptRestore id s
  | .ckptNotice id => Sys2Proof.Machine.execCkptNotice id s
  | .ckptAtTime p => Sys2Proof.Machine.execCkptAtTime p s
  | .ckptCut p => Sys2Proof.Machine.execCkptCut p s
  | .ckptUnitCapture p deny => Sys2Proof.Machine.execCkptUnitCapture p deny s
  | .ckptMirrorUnit p m => Sys2Proof.Machine.execCkptMirrorUnit p m s
  | .ckptStreamRecord p => Sys2Proof.Machine.execCkptStreamRecord p s
  | .ckptSeal p => Sys2Proof.Machine.execCkptSeal p s
  | .ckptDeadlineExpiry p => Sys2Proof.Machine.execCkptDeadlineExpiry p s
  | .ckptTakeoverStart p => Sys2Proof.Machine.execCkptTakeoverStart p s
  | .fwStage id data st => Sys2Proof.Machine.execFwStage id data st s
  | .fwActivate id => Sys2Proof.Machine.execFwActivate id s
  | .fwAbandon id => Sys2Proof.Machine.execFwAbandon id s
  | .fwGroupSwitch g => Sys2Proof.Machine.execFwGroupSwitch g s
  | .fwDeferredStart => Sys2Proof.Machine.execFwDeferredStart s
  | .fwProbationEnd => Sys2Proof.Machine.execFwProbationEnd s
  | .fwFlashWrite ok => Sys2Proof.Machine.execFwFlashWrite ok s
  | .rcvWarmreset id => Sys2Proof.Machine.execRcvWarmreset id s
  | .rcvPowercycle id => Sys2Proof.Machine.execRcvPowercycle id s
  | .pairJoin id => Sys2Proof.Machine.execPairJoin id s
  | .pairLeave id => Sys2Proof.Machine.execPairLeave id s
  | .vfDb vf r part v => Sys2Proof.Machine.execVfDb vf r part v s
  | .ringMdb r part v => Sys2Proof.Machine.execRingMdb r part v s
  | .ringDispatch p r => Sys2Proof.Machine.execRingDispatch p r s
  | .vfRreset vf r part v => Sys2Proof.Machine.execVfRreset vf r part v s
  | .ringReset r part v => Sys2Proof.Machine.execRingReset r part v s
  | .ringCfgWrite p r part v => Sys2Proof.Machine.execRingCfgWrite p r part v s
  | .ringWindowWrite vf off data ep => Sys2Proof.Machine.execRingWindowWrite vf off data ep s
  | .vfSprci vf sp part v => Sys2Proof.Machine.execVfSprci vf sp part v s
  | .sprgCiWrite sp part v => Sys2Proof.Machine.execSprgCiWrite sp part v s
  | .sprgCfgWrite sp base part v => Sys2Proof.Machine.execSprgCfgWrite sp base part v s
  | .springDelayExpiry p sp => Sys2Proof.Machine.execSpringDelayExpiry p sp s
  | .msixUnmask f op => Sys2Proof.Machine.execMsixUnmask f op s
  | .ringAttach part v => Sys2Proof.Machine.execRingAttach part v s
  | .ringHbeat part v => Sys2Proof.Machine.execRingHbeat part v s
  | .ringDetach part v => Sys2Proof.Machine.execRingDetach part v s
  | .mgrHeartbeatTimeout => Sys2Proof.Machine.execMgrHeartbeatTimeout s
  | .engCtlReset e part v => Sys2Proof.Machine.execEngCtlReset e part v s
  | .engineResetComplete e => Sys2Proof.Machine.execEngineResetComplete e s
  | .engBarWrite u part v => Sys2Proof.Machine.execEngBarWrite u part v s
  | .intgScrubStart part v => Sys2Proof.Machine.execIntgScrubStart part v s
  | .scrubPassEnd => Sys2Proof.Machine.execScrubPassEnd s
  | .targetedSelfTest t fail => Sys2Proof.Machine.execTargetedSelfTest t fail s
  | .storDrvRelease d part v => Sys2Proof.Machine.execStorDrvRelease d part v s
  | .storVolWrite v part w => Sys2Proof.Machine.execStorVolWrite v part w s
  | .schQWrite d q part v => Sys2Proof.Machine.execSchQWrite d q part v s
  | .schShaperWrite r port k part v => Sys2Proof.Machine.execSchShaperWrite r port k part v s
  | .schGatectlSwitch port part v => Sys2Proof.Machine.execSchGatectlSwitch port part v s
  | .schChainWrite port bank r part v => Sys2Proof.Machine.execSchChainWrite port bank r part v s
  | .gateEntryBoundary port => Sys2Proof.Machine.execGateEntryBoundary port s
  | .schTransmit port => Sys2Proof.Machine.execSchTransmit port s
  | .wymSaKeyWrite n id part v => Sys2Proof.Machine.execWymSaKeyWrite n id part v s
  | .wymHorizonWrite part v => Sys2Proof.Machine.execWymHorizonWrite part v s
  | .wymPortCfgWrite port part v => Sys2Proof.Machine.execWymPortCfgWrite port part v s
  | .keyLimitWrite n part v => Sys2Proof.Machine.execKeyLimitWrite n part v s
  | .keyAlarmClear part v => Sys2Proof.Machine.execKeyAlarmClear part v s
  | .peckLogrdWrite p part v => Sys2Proof.Machine.execPeckLogrdWrite p part v s
  | .peckMtrciWrite part v => Sys2Proof.Machine.execPeckMtrciWrite part v s
  | .pwrLimitWrite part v => Sys2Proof.Machine.execPwrLimitWrite part v s
  | .timeStepWrite part v => Sys2Proof.Machine.execTimeStepWrite part v s
  | .timeNowRead f part => Sys2Proof.Machine.execTimeNowRead f part s
  | .intcTestWrite part v => Sys2Proof.Machine.execIntcTestWrite part v s
  | .devctlPortcfgWrite g part v => Sys2Proof.Machine.execDevctlPortcfgWrite g part v s
  | .devctlVhcfgWrite vh part v => Sys2Proof.Machine.execDevctlVhcfgWrite vh part v s
  | .ckptMircfgWrite part v => Sys2Proof.Machine.execCkptMircfgWrite part v s
  | .pairAddressWrite r part v => Sys2Proof.Machine.execPairAddressWrite r part v s
  | .registerWrite f off part v ep => Sys2Proof.Machine.execRegisterWrite f off part v ep s
  | .registerAccessInvalid f off len write => Sys2Proof.Machine.execRegisterAccessInvalid f off len write s
  | .bar2Read off n => Sys2Proof.Machine.execBar2Read off n s
  | .bar2Write off data ep => Sys2Proof.Machine.execBar2Write off data ep s
  | .pcieReadCompletion tag f ok ep data => Sys2Proof.Machine.execPcieReadCompletion tag f ok ep data s
  | .pcieCompletionTimeout tag => Sys2Proof.Machine.execPcieCompletionTimeout tag s
  | .tagQuarantineExpiry tag => Sys2Proof.Machine.execTagQuarantineExpiry tag s
  | .atsInvalidation f page n => Sys2Proof.Machine.execAtsInvalidation f page n s
  | .peerRequest port rid tr a n => Sys2Proof.Machine.execPeerRequest port rid tr a n s
  | .dpcTrigger port => Sys2Proof.Machine.execDpcTrigger port s
  | .dpcRelease port => Sys2Proof.Machine.execDpcRelease port s
  | .vfBusMasterDisable f => Sys2Proof.Machine.execVfBusMasterDisable f s
  | .vfFlr f => Sys2Proof.Machine.execVfFlr f s
  | .vfD3hot f => Sys2Proof.Machine.execVfD3hot f s
  | .pf0Fence flr => Sys2Proof.Machine.execPf0Fence flr s
  | .pf0D3hot => Sys2Proof.Machine.execPf0D3hot s
  | .d3coldEntry => Sys2Proof.Machine.execD3coldEntry s
  | .d3coldExit b => Sys2Proof.Machine.execD3coldExit b s
  | .upstreamLinkLoss vh down => Sys2Proof.Machine.execUpstreamLinkLoss vh down s
  | .perstAssert vh => Sys2Proof.Machine.execPerstAssert vh s
  | .pf1Fence p flr => Sys2Proof.Machine.execPf1Fence p flr s
  | .nvmeControllerReset p => Sys2Proof.Machine.execNvmeControllerReset p s
  | .nvmeDeleteIoSq p cid q => Sys2Proof.Machine.execNvmeDeleteIoSq p cid q s
  | .nvmeCreateIoSq p cid q size base contig cq => Sys2Proof.Machine.execNvmeCreateIoSq p cid q size base contig cq s
  | .nvmeGetLogPage p cid lid dwords off retain prp => Sys2Proof.Machine.execNvmeGetLogPage p cid lid dwords off retain prp s
  | .nvmeDeleteIoCq p cid q => Sys2Proof.Machine.execNvmeDeleteIoCq p cid q s
  | .nvmeCreateIoCq p cid q size base contig ien vec => Sys2Proof.Machine.execNvmeCreateIoCq p cid q size base contig ien vec s
  | .nvmeIdentify p cid cns nsid prp => Sys2Proof.Machine.execNvmeIdentify p cid cns nsid prp s
  | .nvmeAbort p cid sq target => Sys2Proof.Machine.execNvmeAbort p cid sq target s
  | .nvmeSetFeatures p cid fid v => Sys2Proof.Machine.execNvmeSetFeatures p cid fid v s
  | .nvmeGetFeatures p cid fid => Sys2Proof.Machine.execNvmeGetFeatures p cid fid s
  | .nvmeAsyncEventRequest p cid => Sys2Proof.Machine.execNvmeAsyncEventRequest p cid s
  | .nvmeFlush p q cid nsid => Sys2Proof.Machine.execNvmeFlush p q cid nsid s
  | .nvmeWrite p q cid nsid slba nlb data st => Sys2Proof.Machine.execNvmeWrite p q cid nsid slba nlb data st s
  | .nvmeRead p q cid nsid slba nlb prp => Sys2Proof.Machine.execNvmeRead p q cid nsid slba nlb prp s
  | .nvmeWriteZeroes p q cid nsid slba nlb => Sys2Proof.Machine.execNvmeWriteZeroes p q cid nsid slba nlb s
  | .nvmeDatasetManagement p q cid nsid ad ranges st => Sys2Proof.Machine.execNvmeDatasetManagement p q cid nsid ad ranges st s
  | .volumeRequestStart id => Sys2Proof.Machine.execVolumeRequestStart id s
  | .driveCommandComplete id err fatal data => Sys2Proof.Machine.execDriveCommandComplete id err fatal data s
  | .driveCommandTimeout id => Sys2Proof.Machine.execDriveCommandTimeout id s
  | .driveHotplug port ident size added => Sys2Proof.Machine.execDriveHotplug port ident size added s
  | .mirrorTimeout id => Sys2Proof.Machine.execMirrorTimeout id s
  | .write port p => Sys2Proof.Machine.execWrite port p s
  | .send port p => Sys2Proof.Machine.execSend port p s
  | .readreq port p => Sys2Proof.Machine.execReadreq port p s
  | .readresp port p => Sys2Proof.Machine.execReadresp port p s
  | .atomic port p => Sys2Proof.Machine.execAtomic port p s
  | .atomicresp port p => Sys2Proof.Machine.execAtomicresp port p s
  | .ack port p => Sys2Proof.Machine.execAck port p s
  | .nak port p => Sys2Proof.Machine.execNak port p s
  | .probe port p => Sys2Proof.Machine.execProbe port p s
  | .neighbourDiscovery port sol target mac => Sys2Proof.Machine.execNeighbourDiscovery port sol target mac s
  | .arpRequest port target own => Sys2Proof.Machine.execArpRequest port target own s
  | .ptpMessage port domain ident m => Sys2Proof.Machine.execPtpMessage port domain ident m s
  | .ethFrameInvalid port => Sys2Proof.Machine.execEthFrameInvalid port s
  | .wymPacingSlot n dst path => Sys2Proof.Machine.execWymPacingSlot n dst path s
  | .wymSealRelease key => Sys2Proof.Machine.execWymSealRelease key s
  | .wymRtoExpiry key => Sys2Proof.Machine.execWymRtoExpiry key s
  | .wymHorizonExpiry key => Sys2Proof.Machine.execWymHorizonExpiry key s
  | .wymAckdelayExpiry n src msgid => Sys2Proof.Machine.execWymAckdelayExpiry n src msgid s
  | .trackerLingerExpiry n src msgid => Sys2Proof.Machine.execTrackerLingerExpiry n src msgid s
  | .trackerIdleExpiry n src msgid => Sys2Proof.Machine.execTrackerIdleExpiry n src msgid s
  | .resultCacheExpiry n src msgid => Sys2Proof.Machine.execResultCacheExpiry n src msgid s
  | .pathAvoidExpiry n dst path => Sys2Proof.Machine.execPathAvoidExpiry n dst path s
  | .pathProbeTimer n dst path => Sys2Proof.Machine.execPathProbeTimer n dst path s
  | .wymHoldEnd n => Sys2Proof.Machine.execWymHoldEnd n s
  | .ethLinkUp port => Sys2Proof.Machine.execEthLinkUp port s
  | .ethLinkDown port => Sys2Proof.Machine.execEthLinkDown port s
  | .pairLinkTrained low high => Sys2Proof.Machine.execPairLinkTrained low high s
  | .pairLinkDown => Sys2Proof.Machine.execPairLinkDown s
  | .pairLaneErrors lane errors retried poisoned => Sys2Proof.Machine.execPairLaneErrors lane errors retried poisoned s
  | .pairJoinRecord r answer => Sys2Proof.Machine.execPairJoinRecord r answer s
  | .pairLeaveFlit manager => Sys2Proof.Machine.execPairLeaveFlit manager s
  | .pairHeartbeatTimeout => Sys2Proof.Machine.execPairHeartbeatTimeout s
  | .pairHeartbeatSend => Sys2Proof.Machine.execPairHeartbeatSend s
  | .pairRetryTimer => Sys2Proof.Machine.execPairRetryTimer s
  | .pairTimeExchange ps => Sys2Proof.Machine.execPairTimeExchange ps s
  | .pairBarrierFlit u f => Sys2Proof.Machine.execPairBarrierFlit u f s
  | .d2dLinkDown l => Sys2Proof.Machine.execD2dLinkDown l s
  | .laneSparing l m dir n lost => Sys2Proof.Machine.execLaneSparing l m dir n lost s
  | .boot b => Sys2Proof.Machine.execBoot b s
  | .deviceWarmReset b => Sys2Proof.Machine.execDeviceWarmReset b s
  | .boardPowerCycle => Sys2Proof.Machine.execBoardPowerCycle s
  | .powercycleRequestRepeat => Sys2Proof.Machine.execPowercycleRequestRepeat s
  | .watchdogTrip n held => Sys2Proof.Machine.execWatchdogTrip n held s
  | .progressSample u => Sys2Proof.Machine.execProgressSample u s
  | .replayRun e => Sys2Proof.Machine.execReplayRun e s
  | .meterMinute => Sys2Proof.Machine.execMeterMinute s
  | .tamperAlarm src => Sys2Proof.Machine.execTamperAlarm src s
  | .emergPwrAssert => Sys2Proof.Machine.execEmergPwrAssert s
  | .emergThmAssert => Sys2Proof.Machine.execEmergThmAssert s
  | .emergencyClear pwr thm => Sys2Proof.Machine.execEmergencyClear pwr thm s
  | .thermalSensorCrossing n t => Sys2Proof.Machine.execThermalSensorCrossing n t s
  | .railPgFall r => Sys2Proof.Machine.execRailPgFall r s
  | .rootPllUnlock => Sys2Proof.Machine.execRootPllUnlock s
  | .pwrSample us100 ms1 s1 => Sys2Proof.Machine.execPwrSample us100 ms1 s1 s
  | .avsPoll mv amps temp => Sys2Proof.Machine.execAvsPoll mv amps temp s
  | .ppsEdge => Sys2Proof.Machine.execPpsEdge s
  | .hbmSelfRefreshEntry h enter => Sys2Proof.Machine.execHbmSelfRefreshEntry h enter s
  | .entdaa da => Sys2Proof.Machine.execEntdaa da s
  | .setnewda da => Sys2Proof.Machine.execSetnewda da s
  | .rstdaa => Sys2Proof.Machine.execRstdaa s
  | .getpid => Sys2Proof.Machine.execGetpid s
  | .getbcr => Sys2Proof.Machine.execGetbcr s
  | .getdcr => Sys2Proof.Machine.execGetdcr s
  | .getstatus => Sys2Proof.Machine.execGetstatus s
  | .enec b => Sys2Proof.Machine.execEnec b s
  | .disec b => Sys2Proof.Machine.execDisec b s
  | .getState => Sys2Proof.Machine.execGetState s
  | .notice p ms => Sys2Proof.Machine.execNotice p ms s
  | .wake => Sys2Proof.Machine.execWake s
  | .getId => Sys2Proof.Machine.execGetId s
  | .i3cPrivateRead => Sys2Proof.Machine.execI3cPrivateRead s
  | .reservedEncoding c => Sys2Proof.Machine.execReservedEncoding c s
  | .fetchFault c => Sys2Proof.Machine.execFetchFault c s
  | .cpyRefused c ord q h a => Sys2Proof.Machine.execCpyRefused c ord q h a s
  | .collectiveRefused id => Sys2Proof.Machine.execCollectiveRefused id s
  | .cipherCommandRefused p q => Sys2Proof.Machine.execCipherCommandRefused p q s
  | .malformedPacket port p => Sys2Proof.Machine.execMalformedPacket port p s
  | .nvmeInvalidOpcode p q cid field => Sys2Proof.Machine.execNvmeInvalidOpcode p q cid field s
  | .i3cReservedCommand => Sys2Proof.Machine.execI3cReservedCommand s
  | .pcieLinkTrained port rate width flit => Sys2Proof.Machine.execPcieLinkTrained port rate width flit s
  | .perstDeassert vh => Sys2Proof.Machine.execPerstDeassert vh s
  | .nvmeControllerEnable p asq acq asqs acqs => Sys2Proof.Machine.execNvmeControllerEnable p asq acq asqs acqs s
  | .alarmSourceCleared src => Sys2Proof.Machine.execAlarmSourceCleared src s
  | .quiesceWaitExpiry p => Sys2Proof.Machine.execQuiesceWaitExpiry p s
  | .peckResetDone p => Sys2Proof.Machine.execPeckResetDone p s
  | .peckRemoveDone p => Sys2Proof.Machine.execPeckRemoveDone p s
  | .announceReceiptTimeout => Sys2Proof.Machine.execAnnounceReceiptTimeout s
  | .ptpDelayRequest => Sys2Proof.Machine.execPtpDelayRequest s

end Sys2Proof.Machine
end

