-- ==== Sys2Proof/Machine/Idle.lean ====
section
/-!
DEFINITION. Idle states of engines and clusters (R566, R567), and the limits on current ramps (R554): engines leave their gates 64 ns apart, clusters
1 µs apart, and the engine clock moves one step at most every 0.5 µs. All of it happens at ticks. It delays nothing in this model: a command that runs
on an engine is taken to come once the engine has woken.
-/

namespace Sys2Proof.Machine

/-- The governing latency of an engine, ns (R566). -/
def engGovern (s : State) (e : Nat) : Nat :=
  let all := bitsOf (s.reg rPwrWake) 0 32
  let own := bitsOf (s.reg (rPeckWake (s.eng e).peck.toNat)) 0 32
  if (s.eng e).peck = 0 ∨ own = 0 then all else min all own

/-- An engine may be clock-gated: no context READY or RUNNING, no copy in flight, and a wake time within its governing latency (R566). -/
def engIdle (s : State) (e : Nat) : Bool :=
  let x := s.eng e
  x.ctxs.all (fun k => k.2.state != .ready && k.2.state != .running) && x.queues.all (fun q => q.2.isEmpty) && decide (50 ≤ engGovern s e)

/-- A cluster may be power-gated: no resident context on its engines, no barrier unit with an arrival, and a wake time within its governing latency
(R566). -/
def clusterIdle (s : State) (c : Nat) : Bool :=
  (List.range 16).all fun k =>
    ((s.eng (16 * c + k)).ctxs.all fun x => x.2.state == .free) && (s.bar (256 + 16 * c + k)).arrived == 0 && decide (20000 ≤ engGovern s (16 * c + k))

/-- The engines of a cluster. -/
def clusterMask (c : Nat) : BitVec 128 := 0xFFFF#128 <<< (16 * c)

/-- Clusters enter their power gates, and one leaves it when 1 µs has passed since the last that did (R554, R566). Its engines are then still
gated and are due to leave. -/
def clusterGates (s : State) : State :=
  let p := s.pwr
  let inn := (List.range 8).filter fun c => !p.off.getLsbD c && clusterIdle s c
  let s := inn.foldl (fun s c => { s with pwr := { s.pwr with
    off := s.pwr.off ||| 1#8 <<< c, gated := s.pwr.gated ||| clusterMask c, rise := s.pwr.rise &&& ~~~clusterMask c } }) s
  match (List.range 8).find? fun c => p.off.getLsbD c && !clusterIdle s c with
  | none => s
  | some c =>
    if s.mono < p.offAt then s
    else { s with pwr := { s.pwr with off := s.pwr.off &&& ~~~(1#8 <<< c), rise := s.pwr.rise ||| clusterMask c, offAt := s.mono + 1000 } }

/-- Engines of clusters with power enter their clock gates, and one leaves its gate when 64 ns have passed since the last that did (R554, R566). -/
def engineGates (s : State) : State :=
  let p := s.pwr
  let on (e : Nat) : Bool := !p.off.getLsbD (e / 16)
  let inn := (List.range 128).filter fun e => !p.gated.getLsbD e && !p.rise.getLsbD e && on e && engIdle s e
  let s := inn.foldl (fun s e => { s with pwr := { s.pwr with gated := s.pwr.gated ||| 1#128 <<< e } }) s
  match (List.range 128).find? fun e => p.gated.getLsbD e && on e && (p.rise.getLsbD e || !engIdle s e) with
  | none => s
  | some e =>
    if s.mono < p.gateAt then s
    else
      let m := ~~~(1#128 <<< e)
      { s with pwr := { s.pwr with gated := s.pwr.gated &&& m, rise := s.pwr.rise &&& m, gateAt := s.mono + 64 } }

/-- The engine clock moves one step of R556 towards its goal when 0.5 µs have passed since the last step (R554). -/
def clockStep (s : State) : State :=
  let p := s.pwr
  if p.n = p.goal ∨ s.mono < p.stepAt then s
  else { s with pwr := { p with n := if p.n < p.goal then p.n + 1 else p.n - 1, stepAt := s.mono + 500 } }

/-- What a tick does to gates and clock while the device is READY. -/
def rampTick (s : State) : State := clockStep (engineGates (clusterGates s))

end Sys2Proof.Machine
end

