-- ==== Sys2Proof/Machine/Tick.lean ====
section
/-!
DEFINITION. The timer tick (R562): what an idle block does. No command of the table is a tick; DESIGN CHOICE, log entry 2.
-/

namespace Sys2Proof.Machine

/-- The parts of 10⁻⁹ ns by which one tick of 2 ns is lengthened: TIME_ADJ's ppb (R562), and the offset still to be slewed, at no more than
50 ppm (R564). The second component is the offset left. -/
def tickTrim (s : State) : Int × Int :=
  let d := max (-100000) (min 100000 s.clk.slew)
  (2 * ((s.reg rTimeAdj).setWidth 32).toInt + d, s.clk.slew - d)

/-- Device time advances by one tick. -/
def tickTime (s : State) : State :=
  let (trim, slew) := tickTrim s
  let f := s.clk.frac + trim
  let t := ((Int.ofNat s.time + 2 + f / 1000000000) % (2 ^ 64 : Int)).toNat
  { s with time := t, mono := s.mono + 2, clk := { s.clk with frac := f % 1000000000, slew := slew } }

/-- A counter that saturates at 2³² − 1 after more counts. -/
def satAdd (a n : Nat) : Nat := min (2 ^ 32 - 1) (a + n)

/-- Codewords that the forward error correction of a port with its link up has corrected, and has failed to correct, in a tick: the line decides them, so
they are free values (R251, R292). -/
def fecTick (s : State) : State :=
  (s.ports.filter fun e => e.2.link == 2).foldl (fun s e =>
    let (w, s) := s.draw
    let x := s.port e.1
    s.setPort e.1 { x with fec := BitVec.ofNat 64 (satAdd (bitsOf x.fec 0 32) (bitsOf w 0 32) + satAdd (bitsOf x.fec 32 32) (bitsOf w 32 32) * 2 ^ 32) }) s

/-- One timer tick, with the root PLL locked (R561, R562): device time advances, the engine clock at n/16 of its full rate runs while the device is
READY (R556), gates and clock move (R554), and an invalidation whose reads are over is completed (R365). -/
def tick (s : State) : State :=
  if !s.pwr.lock then s
  else
    let s := fecTick (tickTime s)
    let s := if s.phase = 2 then rampTick { s with qcycles := s.qcycles + s.pwr.n } else s
    atsDone s

/-- The queue's rest takes the queue's place. -/
def State.popped (s : State) (rest : List Instr) : State := { s with pending := rest }

end Sys2Proof.Machine
end

