-- ==== Sys2Proof/Machine/Views.lean ====
section
/-!
DEFINITION. What a read of a register returns: the registers that the chapters derive from other state, the capability registers, and the manifest
(R355, R356). The table has no command for a plain register read; its effect is none, and its value is `State.readReg`.
-/

namespace Sys2Proof.Machine

/-- A word of fields: value, lowest bit and width. -/
def pack (fs : List (Nat × Nat × Nat)) : Word := BitVec.ofNat 64 (fs.foldl (fun n f => n + f.1 % 2 ^ f.2.2 * 2 ^ f.2.1) 0)

/-- Units of the pool that are free. -/
def freeUnits (s : State) (r : Res) : Nat := ((List.range r.total).filter (unitFree s r)).length

/-- The sum of a number over the Pecks. -/
def sumPecks (s : State) (f : Peck → Nat) : Nat := (s.pecks.map fun (e : Nat × Peck) => f e.2).foldl (· + ·) 0

/-! ## ENG (R188 to R192) -/

/-- ENG_STAT (R190). -/
def engStat (s : State) (e : Nat) : Word :=
  let x := s.eng e
  pack ([(x.peck.toNat, 0, 8), (x.avail.toNat, 16, 1), (x.resetting.toNat, 17, 1), ((s.pwr.gated.getLsbD e).toNat, 18, 1)] ++
    ((List.range 8).flatMap fun k =>
      let st := (x.ctx k).state
      [((st != .free).toNat, 8 + k, 1), (ctxStateCode st, 32 + 4 * k, 4)]))

/-- ENG_DBAR and ENG_CBAR (R192). -/
def barView (b : Barrier) : Word :=
  pack [(b.peck.toNat, 0, 8), (b.pair.toNat, 8, 1), (b.count.toNat, 16, 12), (b.phase.toNat, 32, 16), (b.arrived.toNat, 48, 12)]

def engRead (s : State) (o : Nat) : Word :=
  match indexed 0x1000 0x40 128 o, indexed 0x1010 0x40 128 o, indexed 0x1018 0x40 128 o, indexed 0x1020 0x40 128 o with
  | some e, _, _, _ => engStat s e
  | _, some e, _, _ => (s.eng e).retired
  | _, _, some e, _ => (s.eng e).cpybytes
  | _, _, _, some e => (s.eng e).cpyerr
  | _, _, _, _ =>
    match indexed 0x4000 8 256 o, indexed 0x5000 8 128 o with
    | some u, _ => barView (tblGet Barrier.reset s.barriers u)
    | _, some u => barView (tblGet Barrier.reset s.barriers (256 + u))
    | _, _ =>
      if o = 0 then 0x100 else if o = 8 then 0x0100104040404880
      else if o = 0x10 then pack ((List.range 64).map fun e => ((s.eng e).avail.toNat, e, 1))
      else if o = 0x18 then pack ((List.range 64).map fun e => ((s.eng (64 + e)).avail.toNat, e, 1))
      else 0

/-! ## RED and GEN (R224, R228, R249, R250) -/

/-- A limit-and-grant block: versions, use and per-Peck registers. -/
def redRead (s : State) (o : Nat) : Word :=
  match indexed 0x1808 8 255 o with
  | some i => pack [((s.colls.filter fun c => c.peck == i + 1).length, 0, 16), ((s.groups.filter fun g => g.peck == i + 1).length, 16, 13)]
  | none =>
    if o = 0 then 0x100 else if o = 8 then 0x0003010010008400
    else if o = 0x18 then pack [(s.colls.length, 0, 16)]
    else s.reg (0x180000 + o)

def genRead (s : State) (o : Nat) : Word :=
  match indexed 0x1808 8 255 o with
  | some i =>
    let mine := s.seqs.filter fun q => q.peck == i + 1
    pack [(mine.length, 0, 15), (mine.foldl (fun n q => n + q.step.isSome.toNat + q.queue.length) 0, 16, 16)]
  | none =>
    if o = 0 then 0x100 else if o = 8 then 0x0000001010004000
    else if o = 0x18 then pack [(s.seqs.length, 0, 15)]
    else if o = 0x48 then
      -- over the last completed second of device time; the 99th percentile is the least share that 99 % of them do not exceed
      let l := ((s.shares.filter fun x => x.1 / 1000000000 + 1 == s.time / 1000000000).map (·.2)).mergeSort (· ≤ ·)
      pack [(min (2 ^ 32 - 1) (l.getD ((99 * l.length + 99) / 100 - 1) 0), 0, 32), (min (2 ^ 32 - 1) (l.getLastD 0), 32, 32)]
    else s.reg (0x1C0000 + o)

/-! ## WYM and SCH (R292 to R294, R318, R319) -/

def wymRead (s : State) (o : Nat) : Word :=
  match indexed 0x168 0x80 4 o, indexed 0x408 0x20 16 o, indexed 0x410 0x20 16 o with
  | some i, _, _ => pack [(trkUse s i, 0, 17), ((s.inst i).cache.length, 32, 15), ((s.inst i).dests.length, 48, 13)]
  | _, some p, _ => pack [((s.port p).link, 0, 2), ((s.port p).mode, 2, 2)]
  | _, _, some p => (s.port p).fec
  | _, _, _ =>
    if o = 0 then 0x100 else if o = 8 then 0x0000100080800400 else if o = 0x10 then 0x0001000000040000
    else if o = 0x38 then pack [(((List.range 4).any fun i => instHeld s i).toNat, 0, 1)]
    else s.reg (0x200000 + o)

def schRead (s : State) (o : Nat) : Word :=
  match indexed 0x100 0x40 16 o with
  | some p => pack [(bitsOf (s.reg (rGateCtl p)) 0 1, 0, 1), (bankAt s p s.time, 1, 1),
      (((s.port p).switch_ && decide (s.time < (s.port p).swAt)).toNat, 2, 1)]
  | none =>
    -- the registers of index k = 0 are reserved (R318)
    if 0x30000 ≤ o ∧ o < 0x50000 ∧ o % 0x1000 < 0x10 then 0 else if o = 0 then 0x100 else if o = 8 then 0x0000010040081000 else s.reg (0x300000 + o)

/-! ## PECK (R345, R346) -/

def peckStat (s : State) (p : Nat) : Word :=
  let x := s.peck p
  pack [(peckStateCode x.state, 0, 3), (x.vf0, 8, 8), (x.vf1, 16, 8), (x.logging.toNat, 24, 1), (x.logovf.toNat, 25, 1),
    (min 65535 (s.items.filter fun i => i.fn == p && i.phase != .waiting).length, 32, 16)]

/-- PECK_USE: trackers and result-cache entries of the instance that holds most. -/
def peckUse (s : State) (p : Nat) : Word :=
  let most (f : Nat → Nat) : Nat := (List.range 4).foldl (fun m i => max m (f i)) 0
  pack [(rootsUsed s p, 0, 20), (most fun i => ((s.inst i).trks.filter fun t => t.peck == p).length, 32, 17),
    (most fun i => ((s.inst i).cache.filter fun t => t.peck == p).length, 49, 15)]

def peckRead (s : State) (o : Nat) : Word :=
  let p := (o - 0x1000) / 0x40
  let x := s.peck p
  let held := s.heldEngines p
  if o < 0x1040 ∨ 0x5000 ≤ o then
    if o = 0 then 0x100 else if o = 8 then 0x000DEFFF041000FF
    else if o = 0x18 then pack [(freeUnits s .grains, 0, 18), (freeUnits s .gills, 32, 13)]
    else if o = 0x20 then pack [(913407 - sumPecks s (·.roots), 0, 20), (freeUnits s .keys, 32, 13), (freeUnits s .endpoints, 48, 13)]
    else if o < 0x48 then s.reg (0x40000 + o) else 0
  else match (o - 0x1000) % 0x40 with
  | 0x00 => peckStat s p
  | 0x08 => pack [(x.roots, 0, 20), (x.trk, 32, 17), (x.cache, 49, 15)]
  | 0x10 => peckUse s p
  | 0x18 => pack ((held.filter (· < 64)).map fun e => (1, e, 1))
  | 0x20 => pack ((held.filter (64 ≤ ·)).map fun e => (1, e - 64, 1))
  | 0x28 => pack [(popBits 196608 x.grains, 0, 18), (popBits 8192 x.gills, 32, 13), (popBits 4096 x.keys, 48, 13)]
  | 0x30 => pack [(popBits 4096 x.eps, 0, 13), (x.logwr.toNat, 32, 32)]
  | 0x38 => pack [(x.logrd.toNat, 0, 32)]
  | _ => 0

/-! ## DEVCTL, RING, SPRG and INTC (R376 to R378, R405 to R407) -/

/-- The lane group, or the hierarchy, has an upstream port. -/
def groupUp (s : State) (g : Nat) : Bool := (List.range 4).any fun k => (portWidth (s.reg (rPortCfg g)) k).isSome && portUpstream (s.reg (rPortCfg g)) k
def vhUp (s : State) (v : Nat) : Bool :=
  (List.range 16).any fun g => (List.range 4).any fun k =>
    let c := s.reg (rPortCfg g)
    (portWidth c k).isSome && portUpstream c k && portVh c k == v

def devctlRead (s : State) (o : Nat) : Word :=
  match indexed 0x1000 8 16 o, indexed 0x1100 8 4 o with
  | some g, _ => putField (s.reg (rPortCfg g)) 24 1 (groupUp s g).toNat
  | _, some v => putField (s.reg (rVhCfg v)) 32 1 (vhUp s v).toNat
  | _, _ => if o = 0 then 0x100 else if o = 0x10 then 0x0000100040FF0410 else s.reg (0x10000 + o)

/-- RING_PRING and VF_RING (R406). -/
def ringView (x : Ring) : Word :=
  pack [(x.log2, 0, 4), (x.en.toNat, 4, 1), (x.error.toNat, 5, 1), (x.offset, 8, 10), (x.ci.toNat, 32, 32)]

def ringRead (s : State) (o : Nat) : Word :=
  match indexed 0x100 8 4 o, indexed 0x200 8 4 o with
  | some r, _ => pack [((s.ring r).log2, 0, 4), ((s.ring r).en.toNat, 4, 1)]
  | _, some r => pack [((s.ring r).ci.toNat, 0, 32), ((s.ring r).error.toNat, 32, 1)]
  | _, _ =>
    if 0x2080 ≤ o ∧ o < 0xA000 then ringView (s.ring (16 * ((o - 0x2080) / 0x80 + 1) + (o - 0x2080) % 0x80 / 8))
    else if o = 0 then 0x100 else if o = 8 then 0x0004000000041010
    else if o = 0x38 then BitVec.ofNat 64 s.logpi
    else if o = 0x40 then pack [(262144 - poolUsed s, 0, 20)]
    else if o = 0x10 ∨ o = 0x28 then s.reg (0x20000 + o) else 0

def sprgRead (s : State) (o : Nat) : Word :=
  let x := s.spring ((o - 0x100) / 0x20)
  if o < 0x100 ∨ 0x300 ≤ o then (if o = 0 then 0x100 else 0)
  else match (o - 0x100) % 0x20 with
  | 0x00 => x.base
  | 0x08 => pack [(x.en.toNat, 0, 1), (x.events.toNat, 1, 1), (x.log2, 8, 5), (x.vector, 16, 11), (x.count, 32, 8), (x.delay, 48, 10)]
  | 0x10 => pack [(x.ci.toNat, 0, 32)]
  | 0x18 => pack [(x.pi.toNat, 0, 32), ((!x.hold.isEmpty).toNat, 33, 1)]
  | _ => 0

/-! ## INTG, KEY and CKPT (R446, R465, R466, R494, R495) -/

def intgRead (s : State) (o : Nat) : Word :=
  if o = 0 then 0x100 else if o = 8 then 0x0000040002002011 else s.reg (0x400000 + o)

def keyRead (s : State) (o : Nat) : Word :=
  match indexed 0x10000 0x10 4096 o, indexed 0x10008 0x10 4096 o, indexed 0x20000 8 4096 o with
  | some n, _, _ =>
    let k := tblGet KeySlot.reset s.keys n
    pack [(match k.state with | .empty => 0 | .loaded => 1 | .erased => 2, 0, 2), (k.origin, 2, 2), (k.kind, 4, 4), (k.use.toNat, 8, 8),
      (unitPeck s .keys n, 16, 8)]
  | _, some n, _ => BitVec.ofNat 64 (tblGet KeySlot.reset s.keys n).limit
  | _, _, some n => BitVec.ofNat 64 (tblGet KeySlot.reset s.keys n).count
  | _, _, _ =>
    if o = 0 then 0x100 else if o = 8 then 0x0000000000041000
    else if o = 0x10 then pack [(bitsOf (s.reg rKeyAlarm) 0 4, 0, 4), (s.alarmLive.toNat, 8, 4)]
    else s.reg (0x500000 + o)

/-- Grains that hold partner mirrors. -/
def mirrorGrains (s : State) : Nat :=
  let (a, len) := mirArea s
  ((List.range (len / 0x200000)).filter fun g => s.mirrors.any fun m => overlaps m.base (mirLen m.nunits) (a + g * 0x200000) 0x200000).length

def ckptRead (s : State) (o : Nat) : Word :=
  match indexed 0x1010 0x10 255 o, indexed 0x1018 0x10 255 o with
  | some i, _ =>
    let note := (s.notices.any fun (n : Nat × Nat) => n.1 == i + 1).toNat
    match s.ckpts.find? fun c => c.peck == i + 1 with
    | none => pack [(note, 4, 1)]
    | some c => pack [(c.phase, 0, 3), ((c.mir == 2 || c.mir == 3).toNat, 3, 1), (note, 4, 1), (c.done.length, 8, 24),
        (c.sects.foldl (fun n x => n + x.nunits) 0, 32, 24)]
  | _, some i => BitVec.ofNat 64 (((s.notices.find? fun (n : Nat × Nat) => n.1 == i + 1).map (·.2)).getD 0)
  | _, _ =>
    if o = 0 then 0x100 else if o = 8 then 0x0000000004000100
    else if o = 0x20 then pack [(mirrorGrains s, 0, 18)]
    else s.reg (0x600000 + o)

/-! ## RCV, PWR, CLK, THM and TIME (R529, R530, R571, R572) -/

/-- RCV_ENG: SUSPECTS and GUILTY as the last replay left them, and the phase of the engine now. -/
def rcvEng (s : State) (e : Nat) : Word :=
  let old := s.reg (rRcvEng e)
  match s.replay e with
  | some r => putField (putField old 0 2 (if r.run.isSome then 2 else 1)) 8 3 (r.run.getD 0)
  | none => putField (putField old 0 2 (if (s.eng e).resetting then 3 else 0)) 8 3 0

def rcvRead (s : State) (o : Nat) : Word :=
  match indexed 0x2000 8 128 o with
  | some e => rcvEng s e
  | none =>
    if o = 0 then 0x100 else if o = 8 then 0x0000000027100505
    else if o = 0x18 then
      pack [(if bitsOf (s.reg rRcvPcreq) 0 1 = 1 then 2 else if s.replays.isEmpty && s.rcv.escals.isEmpty && s.rcv.warm.isNone then 0 else 1, 0, 2),
        (s.replays.length, 8, 8)]
    else s.reg (0x700000 + o)

/-- PWR_IDLE (R566): SerDes in low power follow from their units; power gates and self-refresh are states of their own. -/
def pwrIdle (s : State) : Word :=
  let ser (n : Nat) : Bool := decide (4000 ≤ bitsOf (s.reg rPwrWake) 0 32) && (
    if n < 16 then bitsOf (s.reg (rWymPort n)) 0 1 == 0 || (s.port n).link == 0
    else if n < 32 then (List.range 4).all fun k => (portWidth (s.reg (rPortCfg (n - 16))) k).isNone || bitsOf (s.reg (rPortStat (n - 16))) (16 * k) 2 == 0
    else !(if n = 32 then s.pair.low else s.pair.high))
  pack ([(s.pwr.off.toNat, 0, 8), (bitsOf (s.reg rPwrIdle) 8 8, 8, 8)] ++
    ((List.range 34).map fun n => ((ser n).toNat, 16 + n, 1)))

def pwrRead (s : State) (o : Nat) : Word :=
  if o = 0 then 0x100
  else if o = 8 then pack [(pwrFused, 0, 11), (pwrPeakFused, 11, 11), (pwrFloor, 22, 10)]
  else if o = 0x18 then pack [(s.pwr.epwr.toNat, 0, 1), (s.pwr.ethm.toNat, 1, 1), ((decide (s.pwr.n < 16)).toNat, 2, 1), (s.pwr.n, 8, 5), (s.pwr.vcore, 16, 10)]
  else if o = 0x40 then pwrIdle s
  else s.reg (0x800000 + o)

def clkRead (s : State) (o : Nat) : Word :=
  if o = 0 then 0x100
  else if o = 8 then pack [(s.pwr.lock.toNat, 0, 1), (bitsOf (Config.regOpen 0x820008) 1 1, 1, 1), (s.pwr.fallback.toNat, 2, 1)]
  else if o = 0x10 then pack [(125 * s.pwr.n, 0, 12)]
  else if o = 0x18 then s.reg rUnlocks else 0

/-- A signed byte of a temperature. -/
def tempByte (t : Int) : Nat := (BitVec.ofInt 8 t).toNat

/-- The hottest of a run of sensors: its number, the lowest of equals. -/
def hottest (s : State) (lo n : Nat) : Nat :=
  (List.range n).foldl (fun b i => if tblGet 0 s.pwr.temps (lo + i) > tblGet 0 s.pwr.temps b then lo + i else b) lo

def thmRead (s : State) (o : Nat) : Word :=
  match indexed 0x100 8 54 o with
  | some i => pack [(tempByte (tblGet 0 s.pwr.temps i), 0, 8), (tempByte (tblGet 0 s.pwr.highs i), 8, 8)]
  | none =>
    if o = 0 then 0x100
    else if o = 0x10 then
      let d := hottest s 0 46
      pack [(tempByte (tblGet 0 s.pwr.temps d), 0, 8), (d, 8, 8), (tempByte (tblGet 0 s.pwr.temps (hottest s 46 8)), 16, 8)]
    else if o = 8 ∨ o = 0x18 then s.reg (0x840000 + o) else 0

def timeRead (s : State) (o : Nat) : Word :=
  if o = 0 then 0x100 else if o = 8 then BitVec.ofNat 64 s.time else if o = 0x20 then 0 else s.reg (0x860000 + o)

/-! ## PAIR, STOR and FW (R428, R429, R508, R548) -/

def pairRead (s : State) (o : Nat) : Word :=
  if o = 0 then 0x100 else if o = 8 then 0x000000000010E010
  else if o = 0x10 then pack [(pairStatLow s, 0, 4), (s.pair.cause, 8, 8), (8 * s.pair.low.toNat + 8 * s.pair.high.toNat, 16, 5)]
  else if o = 0x40 then pack [((s.i3c.da.map BitVec.toNat).getD 0, 0, 7), (s.i3c.da.isSome.toNat, 7, 1), (s.i3c.ibi.toNat, 8, 1)]
  else s.reg (0x900000 + o)

def driveCode : DriveState → Nat
  | .absent => 0 | .ready => 1 | .unsuitable => 2 | .failed => 3

def volCode : VolState → Nat
  | .off => 0 | .online => 1 | .degraded => 2 | .failed => 3

def storRead (s : State) (o : Nat) : Word :=
  match indexed 0x1000 0x20 32 o, indexed 0x1010 0x20 32 o, indexed 0x8010 0x20 1024 o with
  | some d, _, _ => let x := tblGet Drive.reset s.drives d; pack [(driveCode x.state, 0, 2), (x.port, 8, 6), (x.blocks, 24, 40)]
  | _, some d, _ => BitVec.ofNat 64 (tblGet Drive.reset s.drives d).errs
  | _, _, some v => pack [(volCode (s.vol v).state, 0, 2), (min 65535 (s.vreqs.filter fun r => r.vol == v).length, 16, 16)]
  | _, _, _ => if o = 0 then 0x100 else if o = 8 then 0x0000000004000020 else s.reg (0xA00000 + o)

def fwRead (s : State) (o : Nat) : Word :=
  let f := s.fw
  match indexed 0x1000 8 60 o with
  | some n => let c := tblGet Core.reset f.cores n; pack [(coreGroup n, 0, 3), (c.state, 3, 2), (c.trips, 16, 16)]
  | none =>
    if o = 0 then 0x100 else if o = 8 then 0x000000000040063C
    else if o = 0x10 then
      pack [(s.phase, 0, 3), (f.booted.toNat, 3, 1), (f.staged.isSome.toNat, 4, 1), (f.activating.toNat, 5, 1), (f.probation.toNat, 6, 1),
        (f.deferred.toNat, 7, 1), (f.rolled.toNat, 8, 1), (f.group, 9, 3)]
    else if o = 0x18 then BitVec.ofNat 64 (fwVer s)
    else if o = 0x20 then BitVec.ofNat 64 ((f.staged.map (·.ver)).getD 0)
    else if o = 0x28 then BitVec.ofNat 64 f.minsec
    else if o = 0x38 then pack [(f.errStep, 0, 8), (f.errCause, 8, 8), (f.errSlot.toNat, 16, 1)]
    else s.reg (0xB00000 + o)

/-! ## The manifest (R355, R356) -/

/-- The blocks of the manager's manifest: TYPE, offset and size. -/
def romBlocks : List (Nat × Nat × Nat) :=
  [(1, 0x10000, 0x10000), (2, 0x20000, 0x20000), (3, 0x40000, 0x40000), (4, 0x80000, 0x20000), (5, 0xA0000, 0x10000), (6, 0x100000, 0x80000),
   (7, 0x180000, 0x40000), (8, 0x1C0000, 0x40000), (9, 0x200000, 0x100000), (10, 0x300000, 0x100000), (11, 0x400000, 0x100000),
   (12, 0x500000, 0x100000), (13, 0x600000, 0x100000), (14, 0x700000, 0x100000), (15, 0x800000, 0x20000), (16, 0x820000, 0x20000),
   (17, 0x840000, 0x20000), (18, 0x860000, 0x20000), (19, 0x900000, 0x100000), (20, 0xA00000, 0x100000), (21, 0xB00000, 0x100000)]

/-- The blocks of a Peck's view (R354, R355). -/
def romVf : List (Nat × Nat × Nat) := [(0x100, 0x10000, 0x10000), (0x101, 0x20000, 0x10000), (0x102, 0x30000, 0xC0000), (0x103, 0xF0000, 0x10000)]

/-- The manifest's words: header, entries and the end entry. -/
def romWords (s : State) (view p : Nat) (blocks : List (Nat × Nat × Nat)) : List Word :=
  [pack [(0x54464E4D, 0, 32), (0x100, 32, 16), (blocks.length, 48, 16)],
   pack [(0x1FD4, 0, 16), (0x9220, 16, 16), (1 + Config.lowPower.toNat, 32, 8), (1, 40, 8), (Config.stepping.toNat, 48, 8), (view, 56, 8)],
   Config.devId.setWidth 64, pack [(fwVer s, 0, 32), (p, 32, 16)], 0, 0, 0, 0] ++
  blocks.flatMap fun b => [pack [(b.1, 0, 16), (0x100, 16, 16), (1, 32, 16)], pack [(b.2.1, 0, 32), (b.2.2, 32, 32)]]

def romRead (s : State) (view p : Nat) (blocks : List (Nat × Nat × Nat)) (o : Nat) : Word := ((romWords s view p blocks)[o / 8]?).getD 0

/-! ## Reads -/

/-- A read of a whole register of PF0 BAR0 in VH 0 (R4, R5, R355): the manifest, DEVCTL and FW at any time, every other block from READY on
(R498); an offset not listed reads zero. -/
def State.readReg (s : State) (off : Nat) : Word :=
  if off % 8 ≠ 0 ∨ (s.phase ≠ 2 ∧ !answersEarly off) then 0
  else if off < 0x10000 then romRead s 0 0 romBlocks off
  else match romBlocks.find? fun b => decide (b.2.1 ≤ off) && decide (off < b.2.1 + b.2.2) with
  | none => 0
  | some (t, base, _) =>
    let o := off - base
    match t with
    | 1 => devctlRead s o
    | 2 => ringRead s o
    | 3 => peckRead s o
    | 4 => sprgRead s o
    | 5 => if o = 0 then 0x100 else if o = 8 then 0x400800 else if o = 0x18 then 0 else s.reg off
    | 6 => engRead s o
    | 7 => redRead s o
    | 8 => genRead s o
    | 9 => wymRead s o
    | 10 => schRead s o
    | 11 => intgRead s o
    | 12 => keyRead s o
    | 13 => ckptRead s o
    | 14 => rcvRead s o
    | 15 => pwrRead s o
    | 16 => clkRead s o
    | 17 => thmRead s o
    | 18 => timeRead s o
    | 19 => pairRead s o
    | 20 => storRead s o
    | _ => fwRead s o

/-- A word of an MSI-X structure (PCI Express Base 6.0; R2, R353): the table, 16 bytes an entry (address, data, vector control with the mask in bit 0), at
`table`, and the pending bits at `pba`. -/
def msixRead (f : Fn) (n table pba off : Nat) : Word :=
  if table ≤ off ∧ off < table + 16 * n then
    let x := f.vec ((off - table) / 16)
    if off % 16 = 0 then x.addr else pack [(x.data.toNat, 0, 32), (x.mask.toNat, 32, 1)]
  else if pba ≤ off ∧ off < pba + (n + 63) / 64 * 8 then
    let k := (off - pba) / 8 * 64
    pack ((List.range 64).map fun i => ((decide (k + i < n) && (f.vec (k + i)).pending).toNat, i, 1))
  else 0

/-- A read of a word of a satellite function's BAR0 (R352): the manifest and DEVCTL_ALIVE. -/
def State.readSatellite (s : State) (off : Nat) : Word :=
  if off % 8 ≠ 0 then 0 else if off < 0x10000 then romRead s 1 0 romBlocks off else if off = rAlive then s.reg rAlive else 0

/-- A read of a word of a VF window: the manifest, the status, which read zero while the Peck is DISABLED or FREE, and the MSI-X table and pending bits,
which do not (R354, R375, R404). Doorbells and ring windows read zero. -/
def State.readVf (s : State) (vf off : Nat) : Word :=
  if off % 8 = 0 ∧ 0xF0000 ≤ off then msixRead (s.fn vf) 64 0xF0000 0xF8000 off
  else match s.vfPeck vf with
  | none => 0
  | some p =>
    if off % 8 ≠ 0 ∨ s.phase ≠ 2 then 0
    else if off < 0x10000 then romRead s 2 p romVf off
    else if off = 0x20000 then putField (s.reg rAlive) 32 8 p
    else if off = 0x20008 then pack [(peckStateCode (s.peck p).state, 0, 3)]
    else match indexed 0x20100 8 16 off, indexed 0x20200 8 16 off with
    | some r, _ => ringView (s.ring (16 * p + r))
    | _, some k => let x := s.spring (16 * p + k); pack [(x.pi.toNat, 0, 32), (x.en.toNat, 32, 1), ((!x.hold.isEmpty).toNat, 33, 1)]
    | _, _ => 0

/-- CAP, VS, CC and CSTS, AQA, ASQ and ACQ of an NVMe controller (R418; NVM Express Base 2.0, R2): 4,096 entries a queue, contiguous queues required,
doorbell stride 0, the NVM command set and 4 KiB pages; CAP.TO is open. -/
def nvRegs (s : State) (p off : Nat) : Word :=
  let x := s.nvme p
  let queue (q : Option (Word × Nat)) : Word × Nat := q.getD (0, 1)
  let sq := queue ((x.sq 0).map fun q => (q.base, q.size))
  let cq := queue ((x.cq 0).map fun q => (q.base, q.size))
  match off with
  | 0x00 => pack [(4095, 0, 16), (1, 16, 1), (bitsOf (Config.regOpen 0x2000000) 24 8, 24, 8), (1, 37, 1)]
  | 0x08 => pack [(0x20000, 0, 32)]
  | 0x10 => pack [(x.en.toNat, 32, 1), (6 * x.en.toNat, 48, 4), (4 * x.en.toNat, 52, 4)]
  | 0x18 => pack [((x.en && !x.cfs).toNat, 32, 1), ((x.cfs || (s.peck p).state == .disabled).toNat, 33, 1)]
  | 0x20 => pack [(0, 0, 32), (sq.2 - 1, 32, 12), (cq.2 - 1, 48, 12)]
  | 0x28 => sq.1
  | 0x30 => cq.1
  | _ => 0

/-- A read of a word of a BAR of a function (R353): functions 0 to 511 as State numbers them, the satellite PF0 of VH v at 512 + v and its PF1 at
516 + v. PF0's BAR2 is BAR2_READ's. -/
def State.readBar (s : State) (f bar off : Nat) : Word :=
  if off % 8 ≠ 0 then 0
  else match bar with
  | 0 =>
    if f = 0 then s.readReg off
    else if f < 256 then s.readVf f off
    else if 512 ≤ f ∧ f < 516 then s.readSatellite off
    else if f ≠ 256 ∧ f < 512 ∧ 0x6000 ≤ off then msixRead (s.fn f) 17 0x6000 0x7000 off
    else match nvOfFn s f with
      | some p => nvRegs s p off
      | none => 0
  | 4 =>
    if f = 0 ∨ (512 ≤ f ∧ f < 516) then msixRead (s.fn f) 2048 0 0x8000 off
    else if f = 256 ∨ 516 ≤ f then msixRead (s.fn f) 65 0 0x2000 off
    else 0
  | _ => 0

/-- What a register read of a whole word, or of its low or high half, returns (R4). -/
def State.readPart (s : State) (f bar off : Nat) (part : RegPart) : Word :=
  let w := s.readBar f bar off
  match part with
  | .full => w
  | .low => BitVec.ofNat 64 (bitsOf w 0 32)
  | .high => BitVec.ofNat 64 (bitsOf w 32 32)

end Sys2Proof.Machine
end

