-- ==== Sys2Proof/Safety.lean ====
section
/-!
DEFINITION. The terms in which statements speak: what counts as a safe run, a context that issues an instruction and how it goes on, a work
item that is dispatched, and memory reached through a handle.
-/

namespace Sys2Proof.Machine

/-- The invariant of every state that the device can be in: memory is in its canonical form, so that equal contents are equal data. -/
def State.Inv (s : State) : Prop := s.mem.wf = true

/-- A command answers a next state: it is neither stopped by a fault nor refused. -/
def Answers (c : Instr) (s : State) : Prop := ∃ t, exec c s = .next t

/-! ## A context that issues an instruction -/

/-- Context `c` issues the instruction `w`, which is `len` bytes long: the context may issue (R156), the bytes at its PC decode to `w` (R93),
and an instruction with the ordered prefix finds no copy of the context open (R89). -/
abbrev Issues (s : State) (c : CtxId) (w : Insn) (len : Nat) : Prop :=
  canIssue s c = true ∧ (decodeAt s c).toOption = some (w, len) ∧ (w.px.ord = true → copiesOpen s c = false)

/-- The state an issued instruction works on: its bytes have been fetched and the context is RUNNING. -/
def issued (s : State) (c : CtxId) (len : Nat) : State :=
  (settleFetch s c len).updCtx c fun x => { x with state := .running, wait := .none }

/-- Control goes to `pc` and the instruction counts as retired (R188). -/
def jumped (c : CtxId) (pc : Word) (t : State) : State := retire (t.updCtx c fun x => { x with pc := pc }) c.eng.val

/-- Control goes on after an instruction of `len` bytes. -/
def passed (c : CtxId) (len : Nat) (t : State) : State :=
  retire (t.updCtx c fun x => { x with pc := x.pc + BitVec.ofNat 64 len }) c.eng.val

/-- The context waits at an instruction of `len` bytes, which stays unfinished. -/
def waiting (c : CtxId) (len : Nat) (t : State) : State := t.updCtx c fun x => { x with ilen := len }

/-- An S register holds an INT64 word. -/
abbrev HoldsInt (s : State) (c : CtxId) (r : SReg) (v : Word) : Prop := (s.ctx c).sreg r.val = TWord.int v

/-- An H register holds a handle. -/
abbrev HoldsHandle (s : State) (c : CtxId) (h : HReg) (w : Word) : Prop := (s.ctx c).hreg h.val = ⟨w, Tag.handle⟩

/-- The index register of an address, when it has one, holds an INT64 word. -/
abbrev IndexOk (s : State) (c : CtxId) (a : Addr) : Prop := ∀ r ∈ a.idx, ((s.ctx c).sreg r.val).tag = Tag.int64

/-- The unsigned value of an address's index register, 0 without one. -/
def indexOf (s : State) (c : CtxId) (a : Addr) : Nat :=
  match a.idx with
  | none => 0
  | some r => ((s.ctx c).sreg r.val).bits.toNat

/-- The index register holds `v`; without one `v` is 0. -/
abbrev HoldsIndex (s : State) (c : CtxId) (a : Addr) (v : Nat) : Prop := IndexOk s c a ∧ v = indexOf s c a

/-! ## Memory reached through a handle (R117) -/

/-- A handle word is current and names a LOCAL region `r` with a right (steps 2 to 4 of R117). -/
abbrev LocalWith (s : State) (w : Word) (right : Nat) (r : Region) : Prop :=
  s.current w = some r ∧ r.kind = .local_ ∧ hasRight w right = true

/-- The offset that an address pair names, its displacement advanced by `adv` (R81, R117): it is computed without wrapping. -/
def reachOff (s : State) (c : CtxId) (a : Addr) (adv : Nat) : Int := (indexOf s c a * 8 ^ a.scale.toNat : Nat) + a.disp.toInt + adv

/-- The address pair `a`, whose displacement has advanced by `adv`, names `size` bytes at device address `p`: every check of R117 on a
register, the handle, the right, the alignment and the bounds passes. -/
abbrev Reaches (s : State) (c : CtxId) (a : Addr) (adv size align right : Nat) (p : Nat) : Prop :=
  ((s.ctx c).hreg a.h.val).tag = Tag.handle ∧ IndexOk s c a ∧
  ∃ r ∈ s.current ((s.ctx c).hreg a.h.val).bits, r.kind = .local_ ∧ hasRight ((s.ctx c).hreg a.h.val).bits right = true ∧
    0 ≤ reachOff s c a adv ∧ (reachOff s c a adv).toNat % align = 0 ∧ (reachOff s c a adv).toNat + size ≤ r.len.toNat ∧
    p = r.base.toNat + (reachOff s c a adv).toNat

/-- Nothing is wrong with a word: no latent error, and its tag is neither POISON nor 0xE. -/
abbrev Clean (s : State) (a : Nat) : Prop :=
  tblGet ErrPat.none s.latent (a / 8) = ErrPat.none ∧ s.mem.tagAt a ≠ Tag.poison ∧ s.mem.tagAt a ≠ Tag.rsvd

end Sys2Proof.Machine
end

