-- ==== Sys2Proof/Certificates/Slice0/Obligations.lean ====
section
/-!
DEFINITION. The statements for the provers. The words they are stated in are in `Safety.lean`; here stand the tables of the manual that a
statement ranges over, with the value of each row written out from the manual.
-/

open Sys2Proof Sys2Proof.Machine

namespace Sys2Proof.Spec

/-! ## Flags (R98) and scalar operations (R111 to R113) -/

/-- FLG after an instruction that writes Z, N, C and V: bits 0 to 3 from the result, the others as they were. -/
def flagsAfter (old v : Word) (c o : Bool) : Word :=
  (old &&& ~~~0xF#64) ||| (if v = 0 then 1 else 0) ||| (if v.msb then 2 else 0) ||| (if c then 4 else 0) ||| (if o then 8 else 0)

/-- FLG with one flag set or cleared. -/
def flagAfter (old : Word) (bit : Nat) (b : Bool) : Word := (old &&& ~~~(1#64 <<< bit)) ||| (if b then 1#64 <<< bit else 0)

/-- Whether an integer lies outside the signed 64-bit range. -/
def exceeds (k : Int) : Bool := decide (k < -(2 ^ 63) ∨ 2 ^ 63 ≤ k)

/-- A result: its value, C and V. -/
abbrev Res := Word × Bool × Bool

def rAdd (x y : Word) : Res := (BitVec.ofNat 64 (x.toNat + y.toNat), decide (2 ^ 64 ≤ x.toNat + y.toNat), exceeds (x.toInt + y.toInt))
def rSub (x y : Word) : Res := (BitVec.ofInt 64 (x.toInt - y.toInt), decide (y.toNat ≤ x.toNat), exceeds (x.toInt - y.toInt))
def rMul (x y : Word) : Res := (BitVec.ofNat 64 (x.toNat * y.toNat), decide (2 ^ 64 ≤ x.toNat * y.toNat), exceeds (x.toInt * y.toInt))
def rMulh (x y : Word) : Res := (((x.signExtend 128 * y.signExtend 128) >>> 64).setWidth 64, false, false)
def rMulhu (x y : Word) : Res := (((x.setWidth 128 * y.setWidth 128) >>> 64).setWidth 64, false, false)
def rDiv (x y : Word) : Res :=
  if y = 0 then (BitVec.allOnes 64, false, true) else (BitVec.ofInt 64 (x.toInt.tdiv y.toInt), false, exceeds (x.toInt.tdiv y.toInt))
def rDivu (x y : Word) : Res := if y = 0 then (BitVec.allOnes 64, false, true) else (x / y, false, false)
def rRem (x y : Word) : Res := if y = 0 then (x, false, true) else (BitVec.ofInt 64 (x.toInt - y.toInt * x.toInt.tdiv y.toInt), false, false)
def rRemu (x y : Word) : Res := if y = 0 then (x, false, true) else (x % y, false, false)
def rAnd (x y : Word) : Res := (x &&& y, false, false)
def rOr (x y : Word) : Res := (x ||| y, false, false)
def rXor (x y : Word) : Res := (x ^^^ y, false, false)
def rMin (x y : Word) : Res := (if x.toInt ≤ y.toInt then x else y, false, false)
def rMax (x y : Word) : Res := (if x.toInt ≤ y.toInt then y else x, false, false)
def rMinu (x y : Word) : Res := (if x.toNat ≤ y.toNat then x else y, false, false)
def rMaxu (x y : Word) : Res := (if x.toNat ≤ y.toNat then y else x, false, false)

/-- The count of a shift: bits [5:0]. -/
def cnt (y : Word) : Nat := (y.extractLsb' 0 6).toNat
/-- The bit of `x` shifted out last by a shift of `y`, whose place is `p`; none for a count of 0. -/
def outBit (x y : Word) (p : Nat) : Bool := if cnt y = 0 then false else x.getLsbD p
def rShl (x y : Word) : Res := (x <<< cnt y, outBit x y (64 - cnt y), false)
def rShr (x y : Word) : Res := (x >>> cnt y, outBit x y (cnt y - 1), false)
def rSar (x y : Word) : Res := (BitVec.ofInt 64 (x.toInt / 2 ^ cnt y), outBit x y (cnt y - 1), false)
def rRol (x y : Word) : Res := ((x <<< cnt y) ||| (x >>> (64 - cnt y)), outBit ((x <<< cnt y) ||| (x >>> (64 - cnt y))) y 0, false)

/-- A three-register operation: its opcode (R90), its command and its result. -/
structure Op3 where
  op  : Nat
  ins : CtxId → SReg → SReg → SReg → Instr
  res : Word → Word → Res

/-- The arithmetic, logic and minimum rows of R111. -/
def arithOps : List Op3 :=
  [⟨0x04, .add, rAdd⟩, ⟨0x05, .sub, rSub⟩, ⟨0x06, .mul, rMul⟩, ⟨0x07, .mulh, rMulh⟩, ⟨0x08, .mulhu, rMulhu⟩, ⟨0x0D, .and_, rAnd⟩,
   ⟨0x0E, .or_, rOr⟩, ⟨0x0F, .xor_, rXor⟩, ⟨0x14, .min_, rMin⟩, ⟨0x15, .max_, rMax⟩, ⟨0x16, .minu, rMinu⟩, ⟨0x17, .maxu, rMaxu⟩]
/-- The divisions (R112). -/
def divOps : List Op3 := [⟨0x09, .div, rDiv⟩, ⟨0x0A, .divu, rDivu⟩, ⟨0x0B, .rem, rRem⟩, ⟨0x0C, .remu, rRemu⟩]
/-- The shifts by a register (R113). -/
def shiftOps : List Op3 := [⟨0x10, .shl, rShl⟩, ⟨0x11, .shr, rShr⟩, ⟨0x12, .sar, rSar⟩, ⟨0x13, .rol, rRol⟩]

/-- What an instruction with a result does to its context: Sd takes the value under INT64, FLG its Z, N, C and V. -/
def writesRes (d : SReg) (r : Res) (x : Ctx) : Ctx := { x.setS d.val (TWord.int r.1) with flg := flagsAfter x.flg r.1 r.2.1 r.2.2 }

/-- The rows with two S sources and one S result. -/
def op3s : List Op3 := arithOps ++ divOps ++ shiftOps

/-- One-register operations (R111): opcode, command, value; C and V are cleared except for neg, which is 0 − Sa. -/
structure Op2 where
  op  : Nat
  ins : CtxId → SReg → SReg → Instr
  res : Word → Res

/-- The place of the highest set bit among bits [n − 1:0], plus one; 0 when none is set. -/
def topBit (x : Word) : Nat → Nat
  | 0 => 0
  | n + 1 => if x.getLsbD n then n + 1 else topBit x n
/-- The set bits among bits [n − 1:0]. -/
def ones (x : Word) : Nat → Nat
  | 0 => 0
  | n + 1 => ones x n + (x.getLsbD n).toNat
/-- Byte `i` of a word. -/
def byteAt (x : Word) (i : Nat) : Nat := x.toNat / 256 ^ i % 256

def clr (w : Word) : Res := (w, false, false)

def unaryOps : List Op2 :=
  [⟨0x1A, .neg, fun x => rSub 0 x⟩, ⟨0x1B, .not_, fun x => clr (x ^^^ BitVec.allOnes 64)⟩,
   ⟨0x1C, .clz, fun x => clr (BitVec.ofNat 64 (64 - topBit x 64))⟩,
   ⟨0x1D, .ctz, fun x => clr (BitVec.ofNat 64 (64 - topBit x.reverse 64))⟩,
   ⟨0x1E, .popc, fun x => clr (BitVec.ofNat 64 (ones x 64))⟩,
   ⟨0x1F, .bswap, fun x => clr (BitVec.ofNat 64 ((List.range 8).foldl (fun n i => n + byteAt x i * 256 ^ (7 - i)) 0))⟩,
   ⟨0x30, .sxtB, fun x => clr ((x.extractLsb' 0 8).signExtend 64)⟩, ⟨0x31, .sxtH, fun x => clr ((x.extractLsb' 0 16).signExtend 64)⟩,
   ⟨0x32, .sxtW, fun x => clr ((x.extractLsb' 0 32).signExtend 64)⟩, ⟨0x33, .zxtB, fun x => clr (x &&& 0xFF)⟩,
   ⟨0x34, .zxtH, fun x => clr (x &&& 0xFFFF)⟩, ⟨0x35, .zxtW, fun x => clr (x &&& 0xFFFFFFFF)⟩]

/-- The immediate forms (R80, R111): a 32-bit immediate, sign-extended, stands for Sb. -/
def immOps : List (Nat × (CtxId → SReg → SReg → BitVec 32 → Instr) × (Word → Word → Res)) :=
  [(0x20, .addi, rAdd), (0x21, .muli, rMul), (0x22, .andi, rAnd), (0x23, .ori, rOr), (0x24, .xori, rXor)]
/-- The shifts by an immediate count (R110, R113). -/
def shiftImmOps : List (Nat × (CtxId → SReg → SReg → BitVec 6 → Instr) × (Word → Word → Res)) :=
  [(0x25, .shli, rShl), (0x26, .shri, rShr), (0x27, .sari, rSar), (0x28, .roli, rRol)]

/-- FLG takes the flags of a result that is written nowhere. -/
def writesFlags (r : Res) (x : Ctx) : Ctx := { x with flg := flagsAfter x.flg r.1 r.2.1 r.2.2 }

end Sys2Proof.Spec

open Sys2Proof.Spec

/-! ## The step and reset -/

/-! ## Encoding (R77 to R94) -/

/-! ## Scalar instructions -/

/-! ## Moves, flags, system registers (R103 to R105, R111, R114, R115, R154) -/

namespace Sys2Proof.Spec

/-- The condition codes of R83, over Z, N, C, V, A and L. -/
def holds (flg : Word) (k : BitVec 4) : Bool :=
  let z := flg.getLsbD 0; let n := flg.getLsbD 1; let c := flg.getLsbD 2; let v := flg.getLsbD 3
  let a := flg.getLsbD 4; let l := flg.getLsbD 5
  [true, z, !z, n != v, n == v, z || (n != v), !z && (n == v), !c, c, !c || z, c && !z, v, a, !a, l, !l].getD k.toNat false

/-- Sd takes a word; nothing else changes. -/
def writesS (d : SReg) (w : TWord) (x : Ctx) : Ctx := x.setS d.val w

/-- NIL or a data tag. -/
abbrev dataTag (t : Tag) : Prop := t ≠ Tag.handle ∧ t ≠ Tag.code ∧ t ≠ Tag.rsvd ∧ t ≠ Tag.poison

/-- The system registers of R104: version, ISA level, identity, time and cycles. -/
def sysValue (s : State) (c : CtxId) (n : Nat) : Word :=
  [0x0100#64, BitVec.ofNat 64 (1 + 16 * (s.ctx c).isa.toNat),
   BitVec.ofNat 64 (c.eng.val + c.eng.val / 16 * 256 + s.secondary.toNat * 65536), BitVec.ofNat 64 s.time,
   BitVec.ofNat 64 ((s.qcycles - (s.ctx c).cyc0) / 4)].getD n 0

end Sys2Proof.Spec

/-! ## Faults of operands and of the fetch (R52, R94, R101, R102, R106) -/

namespace Sys2Proof.Spec

/-- The fault of a word consumed as an integer: POISON first, then 0xE, then the role (R52, R107). -/
def intFault (w : TWord) : Option Status :=
  if w.tag = Tag.poison ∨ w.tag = Tag.rsvd then some stPoison else if w.tag = Tag.int64 then none else some stTag

/-- The state an operand fault leaves: a register tagged 0xE has become POISON by its read, and nothing else has changed. -/
def spoiled (s : State) (c : CtxId) (r : SReg) : State :=
  if ((s.ctx c).sreg r.val).tag = Tag.rsvd then s.putS c r.val ⟨((s.ctx c).sreg r.val).bits, Tag.poison⟩ else s

end Sys2Proof.Spec

/-! ## Memory access (R45 to R47, R117 to R123) -/

namespace Sys2Proof.Spec

/-- A sub-word load: opcode, command, bytes, and whether it extends the sign (R119). -/
structure Load where
  op   : Nat
  ins  : CtxId → Bool → SReg → Addr → Instr
  size : Nat
  sign : Bool

def loads : List Load :=
  [⟨0x60, .ldB, 1, false⟩, ⟨0x61, .ldH, 2, false⟩, ⟨0x62, .ldW, 4, false⟩, ⟨0x64, .ldBs, 1, true⟩, ⟨0x65, .ldHs, 2, true⟩,
   ⟨0x66, .ldWs, 4, true⟩]

/-- The loaded value of `n` bytes that spell `v`. -/
def loadValue (n : Nat) (sign : Bool) (v : Nat) : Word :=
  if sign ∧ 2 ^ (8 * n - 1) ≤ v then BitVec.ofInt 64 ((v : Int) - 2 ^ (8 * n)) else BitVec.ofNat 64 v

/-- A sub-word store: opcode, command and bytes (R119). -/
def stores : List (Nat × (CtxId → Bool → SReg → Addr → Instr) × Nat) := [(0x67, .stB, 1), (0x68, .stH, 2), (0x69, .stW, 4)]

/-- A whole word written by an instruction: memory takes the word and its tag, a latent error goes with the old word, and a cipher queue whose
doorbell it is takes note (R45, R461). -/
def wordStored (s : State) (p : Nat) (w : TWord) : State :=
  observeWord { s with mem := s.mem.setWord p w, latent := tblErase s.latent (p / 8) } p

/-- The atomics that combine: opcode, command and the new word from the old one and Sb (R122). -/
def atomics : List (Nat × (CtxId → Bool → SReg → Addr → SReg → Instr) × (Word → Word → Word)) :=
  [(0x76, .amoAdd, fun o y => o + y), (0x77, .amoAnd, fun o y => o &&& y), (0x78, .amoOr, fun o y => o ||| y),
   (0x79, .amoXor, fun o y => o ^^^ y), (0x7A, .amoSwap, fun _ y => y), (0x7B, .amoMin, fun o y => if o.toInt ≤ y.toInt then o else y),
   (0x7C, .amoMax, fun o y => if o.toInt ≤ y.toInt then y else o)]

/-- A row with an address pair: its words, its command, its access size and its right (R119). -/
structure MemRow where
  word  : Bool → Addr → Insn
  ins   : CtxId → Bool → Addr → Instr
  size  : Nat
  right : Nat

/-- The rows that check nothing before the address. -/
def addrFirst (r : SReg) (h : HReg) (t : Tag) : List MemRow :=
  (loads.map fun e => ⟨fun o a => insnOrd e.op o (r.val :: addrBytes a) a.disp.toNat, fun c o a => e.ins c o r a, e.size, rightRd⟩) ++
  [⟨fun o a => insnOrd 0x63 o (r.val :: addrBytes a) a.disp.toNat, fun c o a => .ldD c o r a, 8, rightRd⟩,
   ⟨fun o a => insnOrd 0x6A o (r.val :: addrBytes a) a.disp.toNat, fun c o a => .stD c o r a, 8, rightWr⟩,
   ⟨fun o a => insnOrd 0x6F o (h.val :: addrBytes a) a.disp.toNat, fun c o a => .ldh c o h a, 8, rightRd⟩,
   ⟨fun o a => insnOrd 0x70 o (h.val :: addrBytes a) a.disp.toNat, fun c o a => .sth c o h a, 8, rightWr⟩,
   ⟨fun o a => insnOrd 0x7E o (t.toNat :: addrBytes a) a.disp.toNat, fun c o a => .retagM c o t a, 8, rightWr⟩]

/-- The rows that also read S registers as data. -/
def addrAndData (r b : SReg) : List MemRow :=
  (stores.map fun e => ⟨fun o a => insnOrd e.1 o (r.val :: addrBytes a) a.disp.toNat, fun c o a => e.2.1 c o r a, e.2.2, rightWr⟩) ++
  (atomics.map fun e => ⟨fun o a => insnOrd e.1 o (r.val :: (addrBytes a ++ [b.val])) a.disp.toNat, fun c o a => e.2.1 c o r a b, 8, rightAtom⟩) ++
  [⟨fun o a => insnOrd 0x7D o (r.val :: (addrBytes a ++ [b.val])) a.disp.toNat, fun c o a => .amoCas c o r a b, 8, rightAtom⟩]

/-- The fault of the checks 2 to 5 of R117 on a handle word. -/
def reachFault (s : State) (w : Word) (off : Int) (size right : Nat) : Option Status :=
  match s.current w with
  | none => some stStale
  | some r =>
    if r.kind ≠ .local_ ∨ hasRight w right = false ∨ off < 0 ∨ ¬((size : Int) ∣ off) ∨ (r.len.toNat : Int) < off + size then some stRights
    else none

/-- What an issued row does when a check of R117 fails: the first failure is its fault. -/
abbrev ChecksInOrder (s : State) (c : CtxId) (ord : Bool) (a : Addr) (len : Nat) (e : MemRow) : Prop :=
  (((s.ctx c).hreg a.h.val).tag = Tag.poison ∨ ((s.ctx c).hreg a.h.val).tag = Tag.rsvd →
    exec (e.ins c ord a) s = .next ((issued s c len).faultCtx c stPoison 0)) ∧
  (((s.ctx c).hreg a.h.val).tag ≠ Tag.handle → ((s.ctx c).hreg a.h.val).tag ≠ Tag.poison → ((s.ctx c).hreg a.h.val).tag ≠ Tag.rsvd →
    exec (e.ins c ord a) s = .next ((issued s c len).faultCtx c stTag 0)) ∧
  (((s.ctx c).hreg a.h.val).tag = Tag.handle → ∀ i ∈ a.idx, ∀ st ∈ intFault ((s.ctx c).sreg i.val),
    exec (e.ins c ord a) s = .next ((spoiled (issued s c len) c i).faultCtx c st 0)) ∧
  (((s.ctx c).hreg a.h.val).tag = Tag.handle → IndexOk s c a →
    ∀ st ∈ reachFault s ((s.ctx c).hreg a.h.val).bits (reachOff s c a 0) e.size e.right,
    exec (e.ins c ord a) s = .next ((issued s c len).faultCtx c st 0))

/-- A range that hderive admits (R126). -/
abbrev derivable (r : Region) (off n : Nat) : Prop :=
  1 ≤ n ∧ off + n ≤ r.len.toNat ∧ off % (if r.kind = .volume then 4096 else 8) = 0 ∧ n % (if r.kind = .volume then 4096 else 8) = 0

end Sys2Proof.Spec

/-! ## Handle registers (R125 to R128) -/

/-! ## Vector registers (R56, R86, R87, R109, R120, R121, R129 to R134) -/

namespace Sys2Proof.Spec

/-- The format of an instruction is `f` (R86): its format prefix names it, or it has none and V register `v` carries it. -/
abbrev FmtIs (s : State) (c : CtxId) (px : Px) (v : VReg) (f : Fmt) : Prop :=
  px.fmt = some f ∨ px.fmt = none ∧ ((s.ctx c).vreg v.val).tag = .fmt f

/-- A V source carries format `f`. -/
abbrev HoldsFmt (s : State) (c : CtxId) (v : VReg) (f : Fmt) : Prop := ((s.ctx c).vreg v.val).tag = .fmt f

/-- Lane `j` of a V register in the context. -/
def lane (s : State) (c : CtxId) (v : VReg) (j : Nat) : Nat := laneOf ((s.ctx c).vreg v.val) j

/-- Element `n` of a V register under format `f`, as a value. -/
def elem (s : State) (c : CtxId) (f : Fmt) (v : VReg) (n : Nat) : FVal := elemVal f (elemBits f ((s.ctx c).vreg v.val) n)
/-- Element `n` of a V register under an integer format. -/
def int (s : State) (c : CtxId) (f : Fmt) (v : VReg) (n : Nat) : Int := toSigned (fmtBits f) (elemBits f ((s.ctx c).vreg v.val) n)

/-- A lane whose elements are given one by one: element `k` of lane `j` is element `j × n + k` of the register. -/
def perElem (f : Fmt) (g : Nat → Nat) (j : Nat) : Nat := laneFrom f fun k => g (j * fmtLane f + k)

/-- A result rounded once into the format by the instruction's mode; stochastic rounding draws by element number (R61, R142). -/
def rounded (s : State) (c : CtxId) (f : Fmt) (rm : Rm) (n : Nat) (v : FVal) : Nat := roundF f (rndAt (s.ctx c) rm n) v
/-- An integer wrapped to the element's width (R129). -/
def wrapped (f : Fmt) (k : Int) : Nat := ofSigned (fmtBits f) k

/-- A two-source arithmetic row: opcode, command, exact result on values and on integers (R129). -/
structure VOp2 where
  op  : Nat
  ins : CtxId → Px → VReg → VReg → VReg → Rm → Instr
  fp  : Rm → FVal → FVal → FVal
  int : Option (Int → Int → Int)

def vArith : List VOp2 :=
  [⟨0x80, .vadd, FVal.add, some (· + ·)⟩, ⟨0x81, .vsub, fun r x y => FVal.add r x y.neg, some (· - ·)⟩,
   ⟨0x82, .vmul, fun _ x y => FVal.mul x y, some (· * ·)⟩, ⟨0x8A, .vdiv, fun _ x y => FVal.div x y, none⟩]

/-- The fused rows (R129). -/
def vFused : List (Nat × (CtxId → Px → VReg → VReg → VReg → VReg → Rm → Instr) × (Rm → FVal → FVal → FVal → FVal)) :=
  [(0x83, .vfma, fun r x y z => FVal.add r (FVal.mul x y) z), (0x84, .vfms, fun r x y z => FVal.add r (FVal.mul x y) z.neg),
   (0x85, .vfnma, fun r x y z => FVal.add r (FVal.mul x y).neg z)]

/-- The one-source rows that round (R129). -/
def vRound1 : List (Nat × (CtxId → Px → VReg → VReg → Rm → Instr) × (FVal → FVal)) :=
  [(0x8B, .vsqrt, FVal.sqrt), (0x8C, .vrsqrt, FVal.rsqrt), (0x8D, .vrcp, FVal.rcp), (0x8E, .vexp2, FVal.exp2), (0x8F, .vlog2, FVal.log2)]

/-- The bitwise and shift rows on 32-bit lanes (R129). -/
def vBits : List (Nat × (CtxId → Px → VReg → VReg → VReg → Instr) × (Fmt → Bool) × (BitVec 32 → BitVec 32 → BitVec 32)) :=
  [(0x96, .vand, fun f => f == .int32 || f == .int8, fun x y => x &&& y), (0x97, .vor, fun f => f == .int32 || f == .int8, fun x y => x ||| y),
   (0x98, .vxor, fun f => f == .int32 || f == .int8, fun x y => x ^^^ y), (0x99, .vshl, fun f => f == .int32, fun x y => x <<< (y.toNat % 32)),
   (0x9A, .vshr, fun f => f == .int32, fun x y => x >>> (y.toNat % 32)),
   (0x9B, .vsar, fun f => f == .int32, fun x y => x.sshiftRight (y.toNat % 32))]

/-- Order of values in a maximum or minimum: −0 below +0 (R130). -/
def below (x y : FVal) : Bool :=
  match FVal.cmp x y with
  | .lt => true
  | .eq => x.isNeg && !y.isNeg
  | .gt => false

/-- minimumNumber or maximumNumber of element bits (R130). -/
def pick (max : Bool) (f : Fmt) (x y : Nat) : Nat :=
  if f = .int32 ∨ f = .int8 then
    if (toSigned (fmtBits f) x < toSigned (fmtBits f) y) = (max = false) then x else y
  else if (elemVal f x).isNan then if (elemVal f y).isNan then roundF f ⟨.rne, 0⟩ .nan else y
  else if (elemVal f y).isNan then x
  else if (below (elemVal f x) (elemVal f y) = true) = (max = false) then x else y

/-- The formats whose elements are numbers of R129, and those that are floating-point. -/
abbrev numFmt (f : Fmt) : Prop := f = .fp32 ∨ f = .bf16 ∨ f = .fp16 ∨ f = .int32 ∨ f = .int8
abbrev fltFmt (f : Fmt) : Prop := f = .fp32 ∨ f = .bf16 ∨ f = .fp16
abbrev intFmt (f : Fmt) : Prop := f = .int32 ∨ f = .int8

end Sys2Proof.Spec

/-! ## Comparison, reduction and mask registers (R132 to R134) -/

namespace Sys2Proof.Spec

/-- The lanes that take part. -/
def activeLanes (s : State) (c : CtxId) (px : Px) : List Nat := (List.range 128).filter (laneOn (s.ctx c) px)

/-- The mask of the active lanes for which `p` holds, with A and L over them (R132). -/
def writesMask (s : State) (c : CtxId) (px : Px) (m : MReg) (p : Nat → Bool) (x : Ctx) : Ctx :=
  { x.setM m.val (maskOf fun j => laneOn (s.ctx c) px j && p j) with
    flg := flagAfter (flagAfter x.flg 4 ((activeLanes s c px).any p)) 5 ((activeLanes s c px).all p) }

/-- The comparisons: opcode, command, on values and on signed integers (R132). -/
def vCmps : List (Nat × (CtxId → Px → MReg → VReg → VReg → Instr) × (FVal → FVal → Bool) × Option (Int → Int → Bool)) :=
  [(0x91, .vcmpEq, fun x y => !x.isNan && !y.isNan && FVal.cmp x y == .eq, some fun x y => decide (x = y)),
   (0x92, .vcmpLt, fun x y => !x.isNan && !y.isNan && FVal.cmp x y == .lt, some fun x y => decide (x < y)),
   (0x93, .vcmpLe, fun x y => !x.isNan && !y.isNan && FVal.cmp x y != .gt, some fun x y => decide (x ≤ y)),
   (0x94, .vcmpUn, fun x y => x.isNan || y.isNan, none)]

/-- Lane `j` holds the extreme value among the lanes `js`, and the lowest lane of those that do. -/
abbrev Extreme (lt : Nat → Nat → Bool) (js : List Nat) (j : Nat) : Prop :=
  j ∈ js ∧ (∀ k ∈ js, lt j k = false) ∧ (∀ k ∈ js, k < j → lt k j = true)

/-- Lane `j` below lane `k` for a maximum, above it for a minimum: signed for INT32, −0 below +0 for FP32 (R130, R133). -/
def worse (max : Bool) (f : Fmt) (s : State) (c : CtxId) (a : VReg) (j k : Nat) : Bool :=
  if f = .int32 then
    decide (if max then toSigned 32 (lane s c a j) < toSigned 32 (lane s c a k) else toSigned 32 (lane s c a k) < toSigned 32 (lane s c a j))
  else if max then below (elemVal .fp32 (lane s c a j)) (elemVal .fp32 (lane s c a k))
  else below (elemVal .fp32 (lane s c a k)) (elemVal .fp32 (lane s c a j))

/-- The active lanes that hold a number. -/
def numbered (s : State) (c : CtxId) (px : Px) (f : Fmt) (a : VReg) : List Nat :=
  (activeLanes s c px).filter fun j => f == .int32 || !(elemVal .fp32 (lane s c a j)).isNan

/-- Sd takes the word, Z the flag. -/
def writesSZ (d : SReg) (w : TWord) (z : Bool) (x : Ctx) : Ctx := { x.setS d.val w with flg := flagAfter x.flg 0 z }

end Sys2Proof.Spec

/-! ## Vector memory and repeat (R88, R120, R121) -/

namespace Sys2Proof.Spec

/-- The words of a register image that hold bits of an active lane, as word numbers in the image (R120). -/
def wordsOf (s : State) (c : CtxId) (px : Px) (f : Fmt) : List Nat := touched (activeBits (s.ctx c) px f) (memVecBytes f / 8)

/-- The issued state once the words `ws` of the image at `p` have been read. -/
def wordsRead (s : State) (c : CtxId) (len p : Nat) (ws : List Nat) : State :=
  ws.foldl (fun t w => t.settleWord (p + 8 * w)) (issued s c len)

/-- The words written in part, which are read first (R431). -/
def partWords (s : State) (c : CtxId) (px : Px) (f : Fmt) : List Nat :=
  (wordsOf s c px f).filter fun w => decide (field (activeBits (s.ctx c) px f) (64 * w) 64 ≠ 2 ^ 64 - 1)

end Sys2Proof.Spec

/-! ## Exact accumulators (R67 to R74, R135 to R138) -/

namespace Sys2Proof.Spec

/-- Accumulator `n` of the context's engine. -/
def accOf (s : State) (c : CtxId) (n : Nat) : XAcc := (s.eng c.eng.val).acc n
/-- No earlier instruction occupies accumulator `n`, and no memory error has struck it (R138, R434). -/
abbrev AccFree (s : State) (c : CtxId) (n : Nat) : Prop := (s.eng c.eng.val).occ.getLsbD n = false
abbrev AccSound (s : State) (c : CtxId) (n : Nat) : Prop := (accOf s c n).poison = false

/-- The elements of an S word as addends, by its tag (R69, R135). -/
def sAddends (w : TWord) : List FVal :=
  match w.tag.toNat with
  | 1 => [FVal.ofInt w.bits.toInt]
  | 3 => (List.range 2).map fun k => elemVal .fp32 (w.bits.toNat / 2 ^ (32 * k) % 2 ^ 32)
  | 4 => (List.range 4).map fun k => elemVal .bf16 (w.bits.toNat / 2 ^ (16 * k) % 2 ^ 16)
  | 5 => (List.range 4).map fun k => elemVal .fp16 (w.bits.toNat / 2 ^ (16 * k) % 2 ^ 16)
  | 6 => (List.range 8).map fun k => elemVal .e4m3 (w.bits.toNat / 2 ^ (8 * k) % 2 ^ 8)
  | 7 => (List.range 8).map fun k => elemVal .e5m2 (w.bits.toNat / 2 ^ (8 * k) % 2 ^ 8)
  | _ => []

/-- The accumulator's value as a number of units of 2^−149. -/
def units (x : XAcc) : Int := if x.sign then -(x.mag.toNat : Int) else x.mag.toNat

end Sys2Proof.Spec

/-! ## Conversions, random numbers and sampling (R139 to R142, R148 to R153) -/

namespace Sys2Proof.Spec

/-- The number of destination elements before which a conversion window starts, the number of its elements, and the source element of the
first (R139): a window `w` of a conversion from format `f` to `t`, where it exists. -/
def window (f t : Fmt) (w : Nat) : Option (Nat × Nat × Nat) :=
  let ns := fmtLane f
  let nt := fmtLane t
  if nt = ns then if w = 0 then some (0, 128 * ns, 0) else none
  else if nt < ns then if ns = 8 * nt ∨ ns / nt ≤ w then none else some (0, 128 * nt, w * 128 * nt)
  else if nt = 8 * ns ∨ nt / ns ≤ w then none else some (w * 128 * ns, 128 * ns, 0)

/-- A conversion of the elements of `v` from format `f` into the elements of `old` in format `t`: `p` is its window. -/
structure Cvt where
  x   : Ctx
  px  : Px
  f   : Fmt
  t   : Fmt
  rm  : Rm
  p   : Nat × Nat × Nat
  v   : VVal
  old : VVal

namespace Cvt

/-- The source value that destination element `j` is converted from (R65, R139). -/
def src (k : Cvt) (j : Nat) : FVal := elemOf k.f k.v (k.p.2.2 + (j - k.p.1))

/-- Destination element `j` lies in the window. -/
def within (k : Cvt) (j : Nat) : Bool := decide (k.p.1 ≤ j ∧ j < k.p.1 + k.p.2.1)

/-- Element `j` converted under R63 and R64, rounded by the mode with index `j` (R142), and whether it is inexact. -/
def elem (k : Cvt) (j : Nat) : Nat × Bool := convElem k.t (rndAt k.x k.rm j) (k.src j)

/-- Block `b` converted under R66: its scale, its elements, and whether it is inexact. -/
def block (k : Cvt) (b : Nat) : Nat × List Nat × Bool :=
  mxBlock k.t (fun j => rndAt k.x k.rm (32 * b + j)) ((List.range 32).map fun j => k.src (32 * b + j))

/-- Block `b` lies in the window and some lane that it occupies is active (R140). -/
def blockOn (k : Cvt) (b : Nat) : Bool :=
  k.within (32 * b) && (List.range (32 / fmtLane k.t)).any fun q => laneOn k.x k.px (32 * b / fmtLane k.t + q)

/-- Lane `l` of the destination: converted where it takes part, else as it was. -/
def lane (k : Cvt) (l : Nat) : Nat :=
  let n := fmtLane k.t
  if fmtIsMx k.t then
    if k.blockOn (l * n / 32) then laneFrom k.t fun i => (k.block (l * n / 32)).2.1.getD ((l * n + i) % 32) 0 else laneOf k.old l
  else if laneOn k.x k.px l then laneFrom k.t fun i => if k.within (l * n + i) then (k.elem (l * n + i)).1 else elemBits k.t k.old (l * n + i)
  else laneOf k.old l

/-- The destination register, and I: whether any element converted was inexact (R62, R139, R140). -/
def result (k : Cvt) : VVal × Bool :=
  let n := fmtLane k.t
  ({ lanes := lanesOf k.lane
     scale := if fmtIsMx k.t then scalesOf fun b => if k.blockOn b then (k.block b).1 else scaleOf k.old b else k.old.scale
     tag := .fmt k.t },
   if fmtIsMx k.t then (List.range (4 * n)).any fun b => k.blockOn b && (k.block b).2.2
   else (List.range (128 * n)).any fun j => k.within j && laneOn k.x k.px (j / n) && (k.elem j).2)

end Cvt

/-- The values of the exact lanes: FP32 lane `j` of a V register. -/
def f32 (s : State) (c : CtxId) (v : VReg) (j : Nat) : FVal := elemVal .fp32 (lane s c v j)

/-- The lanes ranked by vtopk, descending, ties to the lower index: `js` is a permutation of the active lanes in that order. -/
abbrev Ranked (f : Fmt) (v : VVal) (on js : List Nat) : Prop :=
  js.Perm on ∧ js.Pairwise fun i j => ranksAbove f v j i = false ∧ (ranksAbove f v i j = false → i < j)

end Sys2Proof.Spec

/-! ## Semaphores, barriers, copies and waiting (R89, R143 to R147, R157, R170 to R175, R180 to R185) -/

namespace Sys2Proof.Spec

/-- No context waits on semaphore `n` of engine `e`. -/
abbrev NoWaiter (s : State) (e : Fin 128) (n : Nat) : Prop := ∀ w ∈ (s.eng e.val).semQ, w.sem ≠ n

/-- The engine with semaphore `n` set. -/
def withSem (s : State) (e : Fin 128) (n : Nat) (v : Word) : State := s.updEng e.val fun x => x.setSem n v

end Sys2Proof.Spec

namespace Sys2Proof.Spec

/-- A bar instruction's unit `u` (its number among all units) is granted to the context's Peck, is not pair-wide, and the context's last
arrival on it is in no open phase. -/
abbrev BarReady (s : State) (c : CtxId) (u : Nat) : Prop :=
  (s.bar u).peck = (s.ctx c).peck ∧ (s.bar u).pair = false ∧ (s.bar u).remote = 0 ∧ tblGet false (s.ctx c).arrived u = false

/-- One more arrival is recorded, of this context too. -/
def arrivedAt (s : State) (c : CtxId) (u : Nat) : State :=
  (s.setBar u { s.bar u with arrived := (s.bar u).arrived + 1 }).updCtx c fun x => { x with arrived := tblSet false x.arrived u true }

/-- The number of a unit: device units 0 to 255, then 16 for each cluster. -/
def unitNo (e : Fin 128) : BarUnit → Nat
  | .device u => u.val
  | .cluster u => 256 + 16 * (e.val / 16) + u.val

/-- Unit immediates (R146). -/
def unitImm : BarUnit → Nat
  | .device u => 0x100 + u.val
  | .cluster u => u.val

end Sys2Proof.Spec

namespace Sys2Proof.Spec

/-- The eight words of the descriptor that a cpy names lie at `p`: H is a handle with RD to a LOCAL region, Sa an INT64 multiple of 64 within
it (R143). -/
abbrev DescAt (s : State) (c : CtxId) (h : HReg) (a : SReg) (p : Nat) : Prop :=
  ((s.ctx c).hreg h.val).tag = Tag.handle ∧ ((s.ctx c).sreg a.val).tag = Tag.int64 ∧ ((s.ctx c).sreg a.val).bits.toNat % 64 = 0 ∧
  ∃ r ∈ s.current ((s.ctx c).hreg h.val).bits, r.kind = .local_ ∧ hasRight ((s.ctx c).hreg h.val).bits rightRd = true ∧
    ((s.ctx c).sreg a.val).bits.toNat + 64 ≤ r.len.toNat ∧ p = r.base.toNat + ((s.ctx c).sreg a.val).bits.toNat

/-- The descriptor as the instruction reads it. -/
def descWords (s : State) (p : Nat) : List TWord := (List.range 8).map fun k => s.mem.word (p + 8 * k)

/-- A copy as it is queued: the next number of the device, the context's slot, the queue's sequence number. -/
def queuedCopy (s : State) (c : CtxId) (ord : Bool) (q : Nat) (k : Copy) : Copy :=
  { k with id := s.nextCopy, slot := c.slot.val, seq := tblGet 0 (s.ctx c).cpyseq q, ordered := ord, wr := s.nextWr }

/-- The rows of cpy by the OP of the descriptor (R171). -/
def copyRowsOf : List ((CtxId → Bool → Fin 4 → HReg → SReg → Instr) × CopyOp) := [(.copy, .copy), (.copy2d, .copy2d), (.fill, .fill)]

end Sys2Proof.Spec

/-! ## Commands of the block -/

namespace Sys2Proof.Spec

/-- A command answers a next state, and that state is as `P` says. -/
def Gives (c : Instr) (s : State) (P : State → Prop) : Prop := ∃ t, exec c s = .next t ∧ P t

/-- Item `i`, number `id`, stands in the store: dispatched, of request type `t`, its own checks not yet made (R386). -/
abbrev Request (s : State) (id t : Nat) (i : Item) : Prop := s.item id = some i ∧ i.typ.toNat = t ∧ i.phase = .dispatched

/-- The bits that a register access writes: the whole word, its low or its high half (R4). -/
def partMask : RegPart → Word
  | .full => 0xFFFFFFFFFFFFFFFF
  | .low => 0x00000000FFFFFFFF
  | .high => 0xFFFFFFFF00000000

/-- The value that an access writes over `old`. -/
def ovr (part : RegPart) (old v : Word) : Word := (old &&& ~~~partMask part) ||| (v &&& partMask part)

/-- Bits [lo + w − 1 : lo] of a word. -/
def fld (x : Word) (lo w : Nat) : Nat := (x.toNat >>> lo) % 2 ^ w

/-- The device runs its firmware and its registers take writes (R498). -/
abbrev Ready (s : State) : Prop := s.phase = 2

/-- Nothing waits to be handed to a service of the device, and no packet stands in a queue of a port. -/
abbrev Quiet (s : State) : Prop := s.arrivals = [] ∧ s.outcomes = [] ∧ ∀ e ∈ s.ports, e.2.qs = []

end Sys2Proof.Spec
/-- A step takes the command at the front of the queue and gives it its effect on the state with the queue's rest. -/
def Obligations.StepRunsFrontCommand : Prop :=
  ∀ (c : Instr) (rest : List Instr) (s : State), step { s with pending := c :: rest } = exec c (s.popped rest)

/-- Reset: memory is initialised to data zero with tag NIL, every accumulator is clear, every context register zero and NIL, every region
entry free at generation 0, every barrier unit at COUNT 1.
With no command waiting a step is one timer tick (the tick as the idle step is the model's choice, log entry 2): 2 ns of device time when it is not
trimmed. While the device is not READY nothing else happens on a device with no link up and no invalidation waiting; while it is READY engine cycles
count at n/16, and n moves at most one step towards its goal, once in 0.5 µs (R554, R556). At most one engine leaves its clock gate in a tick, and the
next 64 ns later (R554). -/
def Obligations.ResetAndIdle : Prop :=
  (∀ a, State.reset.mem.byte a = 0 ∧ State.reset.mem.tagAt a = Tag.nil) ∧
  (∀ e n, (State.reset.eng e).acc n = XAcc.clear) ∧
  (∀ c r, (State.reset.ctx c).sreg r = TWord.zero ∧ (State.reset.ctx c).hreg r = TWord.zero ∧ (State.reset.ctx c).state = .free) ∧
  (∀ i, (State.reset.region i).used = false ∧ (State.reset.region i).gen = 0) ∧
  (∀ u, (tblGet Barrier.reset State.reset.barriers u).count = 1 ∧ (tblGet Barrier.reset State.reset.barriers u).phase = 0) ∧
  State.reset.Inv ∧
  State.reset.pending = [] ∧
  (∀ s : State, s.pending = [] → s.pwr.lock = true → s.reg rTimeAdj = 0 → s.clk.slew = 0 → s.clk.frac = 0 → s.atsInv = [] →
    s.time + 2 < 2 ^ 64 → (∀ e ∈ s.ports, e.2.link ≠ 2) →
    (s.phase ≠ 2 → step s = .next { s with time := s.time + 2, mono := s.mono + 2 }) ∧
    (s.phase = 2 → ∃ t, step s = .next t ∧ t.time = s.time + 2 ∧ t.mono = s.mono + 2 ∧ t.qcycles = s.qcycles + s.pwr.n ∧
      t.pwr.goal = s.pwr.goal ∧ t.pwr.n = (if s.pwr.n = s.pwr.goal ∨ s.mono + 2 < s.pwr.stepAt then s.pwr.n
        else if s.pwr.n < s.pwr.goal then s.pwr.n + 1 else s.pwr.n - 1) ∧
      (t.pwr.n ≠ s.pwr.n → t.pwr.stepAt = s.mono + 502) ∧
      t.mem = s.mem ∧ t.regs = s.regs ∧ t.pecks = s.pecks ∧ t.engines = s.engines ∧ t.out = s.out)) ∧
  (∀ (s t : State) (e : Nat), s.pending = [] → step s = .next t → s.pwr.gated.getLsbD e = true → t.pwr.gated.getLsbD e = false →
    s.pwr.gateAt ≤ t.mono ∧ t.pwr.gateAt = t.mono + 64 ∧ (∀ j, j ≠ e → s.pwr.gated.getLsbD j = true → t.pwr.gated.getLsbD j = true))

/-- Decoding the bytes of a well-formed instruction gives it back with their number, at every ISA level from 1, whatever follows them. -/
def Obligations.DecodeOfEncode : Prop :=
  ∀ (i : Insn) (isa : Nat) (more : List Nat), i.wf = true → 1 ≤ isa →
    decodeInsn (fetchList (encodeInsn i ++ more)) isa = .ok (i, (encodeInsn i).length)

/-- The bytes of the manual's sample program and handle example decode, at ISA level 1, to the instructions it names.
Reserved opcodes, reserved escape bytes and reserved prefixes raise ST_UNDEFINED_OPCODE whatever follows, a second prefix of one kind and
a fifth prefix byte too, at every ISA level. -/
def Obligations.DecodingWords : Prop :=
  decodeInsn (fetchList [0x02, 0x01, 0x04, 0, 0, 0]) 1 = .ok (insn 0x02 [1] 4, 6) ∧
  decodeInsn (fetchList [0xDF, 0x00, 0x00]) 1 = .ok (insn 0xDF00 [0] 0, 3) ∧
  decodeInsn (fetchList [0xE1, 0x6B, 0x00, 0x71, 0x02, 0, 0, 0, 0]) 1 =
    .ok (⟨0x6B, ⟨some .bf16, none, none, false⟩, [0, 0x71, 2], 0⟩, 9) ∧
  decodeInsn (fetchList [0xDF, 0x01, 0x00, 0x00]) 1 = .ok (insn 0xDF01 [0, 0] 0, 4) ∧
  decodeInsn (fetchList [0x20, 0x02, 0x02, 0x01, 0, 0, 0]) 1 = .ok (insn 0x20 [2, 2] 1, 7) ∧
  decodeInsn (fetchList [0x54, 0x01, 0xE6, 0xFF, 0xFF, 0xFF]) 1 = .ok (insn 0x54 [1] 0xFFFFFFE6, 6) ∧
  decodeInsn (fetchList [0xDF, 0x08, 0x03, 0x00, 0x10]) 1 = .ok (insn 0xDF08 [3, 0, 0x10] 0, 5) ∧
  decodeInsn (fetchList [0x6A, 0x03, 0x02, 0, 0, 0, 0, 0]) 1 = .ok (insn 0x6A [3, 2, 0] 0, 8) ∧
  decodeInsn (fetchList [0xD3, 0x01]) 1 = .ok (insn 0xD3 [1] 0, 2) ∧
  decodeInsn (fetchList [0x73, 0x04, 0x03, 0x05, 0x06, 0x01]) 1 = .ok (insn 0x73 [4, 3, 5, 6] 1, 6) ∧
  (∀ (f : Fetch) (isa : Nat) (b : Nat), f 0 = .ok b →
    (((0x2B ≤ b ∧ b ≤ 0x2F) ∨ (0x38 ≤ b ∧ b ≤ 0x3F) ∨ (0x5A ≤ b ∧ b ≤ 0x5F) ∨ b = 0x7F ∨ (0xB0 ≤ b ∧ b ≤ 0xBF) ∨ (0xCB ≤ b ∧ b ≤ 0xCF) ∨
      (0xD5 ≤ b ∧ b ≤ 0xDE) ∨ (0xED ≤ b ∧ b ≤ 0xEF) ∨ (0xFA ≤ b ∧ b ≤ 0xFF)) → decodeInsn f isa = .error stUndef) ∧
    (∀ b2, b = 0xDF → f 1 = .ok b2 →
      ((0x0B ≤ b2 ∧ b2 ≤ 0x1F) ∨ (0x24 ≤ b2 ∧ b2 ≤ 0x3F) ∨ (0x49 ≤ b2 ∧ b2 ≤ 0xFF)) → decodeInsn f isa = .error stUndef) ∧
    (∀ b2, 0xE0 ≤ b → b ≤ 0xEC → f 1 = .ok b2 → 0xE0 ≤ b2 → b2 ≤ 0xEC → decodeInsn f isa = .error stUndef) ∧
    (∀ b2, 0xF0 ≤ b → b ≤ 0xF7 → f 1 = .ok b2 → 0xF0 ≤ b2 → b2 ≤ 0xF7 → decodeInsn f isa = .error stUndef) ∧
    (b = 0xF9 → f 1 = .ok 0xF9 → decodeInsn f isa = .error stUndef) ∧
    (b = 0xF8 → f 1 = .ok 0 → decodeInsn f isa = .error stUndef) ∧
    (∀ b1 b2 b3 b4, 0xE0 ≤ b → 0xE0 ≤ b1 → 0xE0 ≤ b2 → 0xE0 ≤ b3 → b ≠ 0xF8 → b1 ≠ 0xF8 → b2 ≠ 0xF8 → b3 ≠ 0xF8 → f 1 = .ok b1 →
      f 2 = .ok b2 → f 3 = .ok b3 → f 4 = .ok b4 → 0xE0 ≤ b4 → decodeInsn f isa = .error stUndef))

/-- add, sub, mul, mulh, mulhu, and, or, xor, min, max, minu and maxu: Sd takes the result under INT64, Z N C V follow R111, and nothing else
changes but PC.
The one-operand forms neg, not, clz, ctz, popc, bswap, sxt and zxt, and the immediate forms addi, muli, andi, ori and xori.
cmp, tst, cmpi and tsti write Z N C V of Sa − Sb or Sa AND Sb and no register. -/
def Obligations.ScalarArithmetic : Prop :=
  (∀ e ∈ arithOps, ∀ (s : State) (c : CtxId) (d a b : SReg) (x y : Word) (len : Nat), Issues s c (insn e.op [d.val, a.val, b.val] 0) len →
    HoldsInt s c a x → HoldsInt s c b y →
    exec (e.ins c d a b) s = .next (passed c len ((issued s c len).updCtx c (writesRes d (e.res x y))))) ∧
  (∀ e ∈ unaryOps, ∀ (s : State) (c : CtxId) (d a : SReg) (x : Word) (len : Nat), Issues s c (insn e.op [d.val, a.val] 0) len → HoldsInt s c a x →
    exec (e.ins c d a) s = .next (passed c len ((issued s c len).updCtx c (writesRes d (e.res x))))) ∧
  (∀ e ∈ immOps, ∀ (s : State) (c : CtxId) (d a : SReg) (imm : BitVec 32) (x : Word) (len : Nat),
    Issues s c (insn e.1 [d.val, a.val] imm.toNat) len → HoldsInt s c a x →
    exec (e.2.1 c d a imm) s = .next (passed c len ((issued s c len).updCtx c (writesRes d (e.2.2 x (imm.signExtend 64)))))) ∧
  (∀ (s : State) (c : CtxId) (a b : SReg) (x y : Word) (len : Nat), HoldsInt s c a x → HoldsInt s c b y →
    (Issues s c (insn 0x18 [a.val, b.val] 0) len →
      exec (.cmp c a b) s = .next (passed c len ((issued s c len).updCtx c (writesFlags (rSub x y))))) ∧
    (Issues s c (insn 0x19 [a.val, b.val] 0) len →
      exec (.tst c a b) s = .next (passed c len ((issued s c len).updCtx c (writesFlags (rAnd x y)))))) ∧
  (∀ (s : State) (c : CtxId) (a : SReg) (imm : BitVec 32) (x : Word) (len : Nat), HoldsInt s c a x →
    (Issues s c (insn 0x29 [a.val] imm.toNat) len →
      exec (.cmpi c a imm) s = .next (passed c len ((issued s c len).updCtx c (writesFlags (rSub x (imm.signExtend 64)))))) ∧
    (Issues s c (insn 0x2A [a.val] imm.toNat) len →
      exec (.tsti c a imm) s = .next (passed c len ((issued s c len).updCtx c (writesFlags (rAnd x (imm.signExtend 64)))))))

/-- div, divu, rem and remu: the quotient rounds toward zero, the remainder takes the dividend's sign, a zero divisor gives all ones or the
dividend with V, −2⁶³ ÷ −1 sets V, and no division raises a fault.
shl, shr, sar, rol by a register and by an immediate. -/
def Obligations.DivisionAndShifts : Prop :=
  (∀ e ∈ divOps, ∀ (s : State) (c : CtxId) (d a b : SReg) (x y : Word) (len : Nat), Issues s c (insn e.op [d.val, a.val, b.val] 0) len →
    HoldsInt s c a x → HoldsInt s c b y →
    exec (e.ins c d a b) s = .next (passed c len ((issued s c len).updCtx c (writesRes d (e.res x y))))) ∧
  (∀ e ∈ shiftOps, ∀ (s : State) (c : CtxId) (d a b : SReg) (x y : Word) (len : Nat), Issues s c (insn e.op [d.val, a.val, b.val] 0) len →
    HoldsInt s c a x → HoldsInt s c b y →
    exec (e.ins c d a b) s = .next (passed c len ((issued s c len).updCtx c (writesRes d (e.res x y))))) ∧
  (∀ e ∈ shiftImmOps, ∀ (s : State) (c : CtxId) (d a : SReg) (n : BitVec 6) (x : Word) (len : Nat),
    Issues s c (insn e.1 [d.val, a.val] n.toNat) len → HoldsInt s c a x →
    exec (e.2.1 c d a n) s = .next (passed c len ((issued s c len).updCtx c (writesRes d (e.2.2 x (n.setWidth 64))))))

/-- mov, csel and h2s keep the tag they move, whatever it is; movi and movi64 write their immediate under INT64; tagof reads a tag, retag
replaces one among NIL and the data tags. None writes a flag.
retag faults with ST_TAG_FAULT when the old or the new tag is HANDLE, CODE, 0xE or POISON, and Sd is unchanged.
setcc, rdflg, wrflg, clrflg and nop. That setcc and rdflg tag their result INT64 is the model's choice (log entry 6).
sysr, sysw, rdcst, yield, halt and the stochastic-rounding registers. That rng.rd tags its result INT64 is the model's choice
(log entry 6). -/
def Obligations.MovesAndSystem : Prop :=
  (∀ (s : State) (c : CtxId) (d a b : SReg) (h : HReg) (len : Nat),
    (Issues s c (insn 0x01 [d.val, a.val] 0) len →
      exec (.mov c d a) s = .next (passed c len ((issued s c len).updCtx c (writesS d ((s.ctx c).sreg a.val))))) ∧
    (∀ imm, Issues s c (insn 0x02 [d.val] imm.toNat) len →
      exec (.movi c d imm) s = .next (passed c len ((issued s c len).updCtx c (writesS d (TWord.int (imm.signExtend 64)))))) ∧
    (∀ imm, Issues s c (insn 0x03 [d.val] imm.toNat) len →
      exec (.movi64 c d imm) s = .next (passed c len ((issued s c len).updCtx c (writesS d (TWord.int imm))))) ∧
    (∀ k : BitVec 4, Issues s c (insn 0x56 [d.val, a.val, b.val, k.toNat] 0) len →
      exec (.csel c d a b k) s = .next (passed c len ((issued s c len).updCtx c
        (writesS d ((s.ctx c).sreg (if holds (s.ctx c).flg k then a else b).val))))) ∧
    (Issues s c (insn 0x71 [d.val, h.val] 0) len →
      exec (.h2s c d h) s = .next (passed c len ((issued s c len).updCtx c (writesS d ((s.ctx c).hreg h.val))))) ∧
    (Issues s c (insn 0x37 [d.val, a.val] 0) len →
      exec (.tagof c d a) s = .next (passed c len ((issued s c len).updCtx c
        (writesS d (TWord.int (BitVec.ofNat 64 ((s.ctx c).sreg a.val).tag.toNat)))))) ∧
    (∀ t : Tag, Issues s c (insn 0x36 [d.val, a.val] t.toNat) len → dataTag ((s.ctx c).sreg a.val).tag → dataTag t →
      exec (.retag c d a t) s = .next (passed c len ((issued s c len).updCtx c (writesS d ⟨((s.ctx c).sreg a.val).bits, t⟩))))) ∧
  (∀ (s : State) (c : CtxId) (d a : SReg) (t : Tag) (len : Nat), Issues s c (insn 0x36 [d.val, a.val] t.toNat) len →
    ¬(dataTag ((s.ctx c).sreg a.val).tag ∧ dataTag t) → exec (.retag c d a t) s = .next ((issued s c len).faultCtx c stTag 0)) ∧
  (∀ (s : State) (c : CtxId) (d a : SReg) (x : Word) (len : Nat),
    (∀ k : BitVec 4, Issues s c (insn 0x55 [d.val, k.toNat] 0) len →
      exec (.setcc c d k) s = .next (passed c len ((issued s c len).updCtx c
        (writesS d (TWord.int (if holds (s.ctx c).flg k then 1 else 0)))))) ∧
    (Issues s c (insn 0x57 [d.val] 0) len →
      exec (.rdflg c d) s = .next (passed c len ((issued s c len).updCtx c (writesS d (TWord.int (s.ctx c).flg))))) ∧
    (HoldsInt s c a x → Issues s c (insn 0x58 [a.val] 0) len →
      exec (.wrflg c a) s = .next (passed c len ((issued s c len).updCtx c fun X =>
        { X with flg := (X.flg &&& ~~~0xFF#64) ||| (x &&& 0xFF#64) }))) ∧
    (∀ m : BitVec 8, Issues s c (insn 0x59 [] m.toNat) len →
      exec (.clrflg c m) s = .next (passed c len ((issued s c len).updCtx c fun X => { X with flg := X.flg &&& ~~~(m.zeroExtend 64) }))) ∧
    (Issues s c (insn 0x00 [] 0) len → exec (.nop c) s = .next (passed c len (issued s c len)))) ∧
  (∀ (s : State) (c : CtxId) (d a : SReg) (x : Word) (len : Nat),
    (∀ n : BitVec 16, n.toNat ≤ 4 → Issues s c (insn 0xD0 [d.val] n.toNat) len →
      exec (.sysr c d n) s = .next (passed c len ((issued s c len).updCtx c (writesS d (TWord.int (sysValue s c n.toNat)))))) ∧
    (∀ n : BitVec 16, 4 < n.toNat → Issues s c (insn 0xD0 [d.val] n.toNat) len →
      exec (.sysr c d n) s = .next ((issued s c len).faultCtx c stUndef 0)) ∧
    (HoldsInt s c a x → Issues s c (insn 0xD1 [a.val] 1) len →
      exec (.sysw c a 1) s = .next (passed c len ((issued s c len).updCtx c fun X =>
        if 1 ≤ (x.extractLsb' 4 4).toNat ∧ (x.extractLsb' 4 4).toNat ≤ (s.ctx c).isa.toNat
        then { X with isa := x.extractLsb' 4 4, flg := flagAfter X.flg 0 false } else { X with flg := flagAfter X.flg 0 true }))) ∧
    (∀ n : BitVec 16, n ≠ 1 → Issues s c (insn 0xD1 [a.val] n.toNat) len →
      exec (.sysw c a n) s = .next ((issued s c len).faultCtx c stUndef 0)) ∧
    (Issues s c (insn 0xD2 [] 0) len → exec (.yield_ c) s = .next (passed c len (issued s c len))) ∧
    (Issues s c (insn 0xD4 [d.val] 0) len →
      exec (.rdcst c d) s = .next (passed c len ((issued s c len).updCtx c (writesS d (TWord.int (cstOf c.slot.val (s.ctx c) .running)))))) ∧
    (((s.ctx c).sreg a.val).tag ≠ Tag.handle → ((s.ctx c).sreg a.val).tag ≠ Tag.code → ((s.ctx c).sreg a.val).tag ≠ Tag.rsvd →
      ((s.ctx c).sreg a.val).tag ≠ Tag.poison → Issues s c (insn 0xD3 [a.val] 0) len →
      exec (.halt c a) s = .next (retire ((issued s c len).updCtx c fun X =>
        { X with state := .halted, wait := .none, result := ((s.ctx c).sreg a.val).bits }) c.eng.val)) ∧
    (Issues s c (insn 0xDF40 [d.val] 0) len →
      exec (.rngRd c d 0) s = .next (passed c len ((issued s c len).updCtx c (writesS d (TWord.int (s.ctx c).srkey))))) ∧
    (Issues s c (insn 0xDF40 [d.val] 1) len →
      exec (.rngRd c d 1) s = .next (passed c len ((issued s c len).updCtx c (writesS d (TWord.int ((s.ctx c).srstream.zeroExtend 64)))))) ∧
    (Issues s c (insn 0xDF40 [d.val] 2) len →
      exec (.rngRd c d 2) s = .next (passed c len ((issued s c len).updCtx c (writesS d (TWord.int (s.ctx c).srstep))))) ∧
    (HoldsInt s c a x → Issues s c (insn 0xDF41 [a.val] 0) len →
      exec (.rngWr c a 0) s = .next (passed c len ((issued s c len).updCtx c fun X => { X with srkey := x }))) ∧
    (HoldsInt s c a x → Issues s c (insn 0xDF41 [a.val] 1) len →
      exec (.rngWr c a 1) s = .next (passed c len ((issued s c len).updCtx c fun X => { X with srstream := x.extractLsb' 0 32 }))) ∧
    (HoldsInt s c a x → Issues s c (insn 0xDF41 [a.val] 2) len →
      exec (.rngWr c a 2) s = .next (passed c len ((issued s c len).updCtx c fun X => { X with srstep := x }))) ∧
    (Issues s c (insn 0xDF42 [] 0) len →
      exec (.rngStep c) s = .next (passed c len ((issued s c len).updCtx c fun X => { X with srstep := X.srstep + 1 }))))

/-- b.cc, call, jr, callr, ret and dbnz: where control goes and what each writes; none writes a flag. -/
def Obligations.Branches : Prop :=
  ∀ (s : State) (c : CtxId) (a : SReg) (disp : BitVec 32) (x : Word) (len : Nat),
    (∀ k : BitVec 4, Issues s c (insn (0x40 + k.toNat) [] disp.toNat) len →
      exec (.bCc c k disp) s = .next (if holds (s.ctx c).flg k
        then jumped c ((s.ctx c).pc + 5 + disp.signExtend 64) (issued s c len) else passed c len (issued s c len))) ∧
    (Issues s c (insn 0x50 [] disp.toNat) len →
      exec (.call_ c disp) s = .next (jumped c ((s.ctx c).pc + 5 + disp.signExtend 64)
        ((issued s c len).updCtx c (writesS 30 (TWord.int ((s.ctx c).pc + 5)))))) ∧
    (HoldsInt s c a x → Issues s c (insn 0x51 [a.val] 0) len → exec (.jr c a) s = .next (jumped c x (issued s c len))) ∧
    (HoldsInt s c a x → Issues s c (insn 0x52 [a.val] 0) len →
      exec (.callr c a) s = .next (jumped c x ((issued s c len).updCtx c (writesS 30 (TWord.int ((s.ctx c).pc + 2)))))) ∧
    (HoldsInt s c 30 x → Issues s c (insn 0x53 [] 0) len → exec (.ret c) s = .next (jumped c x (issued s c len))) ∧
    (HoldsInt s c a x → Issues s c (insn 0x54 [a.val] disp.toNat) len →
      exec (.dbnz c a disp) s = .next (
        let t := (issued s c len).updCtx c (writesS a (TWord.int (x - 1)))
        if x = 1 then passed c len t else jumped c ((s.ctx c).pc + 6 + disp.signExtend 64) t))

/-- Every scalar row faults on a source that is not INT64, the first source first: POISON and 0xE give ST_POISON, any other tag
ST_TAG_FAULT. The fault is recorded with PC at the instruction and no result is written.
A fault stops the context: CST.FAULT takes the status, CST.REPIDX the instance, CST.STATE becomes FAULTED, and PC, the registers and
every other context stay as they were.
A context whose PC lies outside its code region, or whose code handle is stale, faults at the fetch; one whose bytes are no instruction
faults with ST_UNDEFINED_OPCODE. -/
def Obligations.OperandAndFetchFaults : Prop :=
  (∀ e ∈ op3s, ∀ (s : State) (c : CtxId) (d a b : SReg) (len : Nat) (st : Status),
    Issues s c (insn e.op [d.val, a.val, b.val] 0) len →
    (intFault ((s.ctx c).sreg a.val) = some st →
      exec (e.ins c d a b) s = .next ((spoiled (issued s c len) c a).faultCtx c st 0)) ∧
    (intFault ((s.ctx c).sreg a.val) = none → intFault ((s.ctx c).sreg b.val) = some st →
      exec (e.ins c d a b) s = .next ((spoiled (issued s c len) c b).faultCtx c st 0))) ∧
  (∀ e ∈ unaryOps, ∀ (s : State) (c : CtxId) (d a : SReg) (len : Nat) (st : Status),
    Issues s c (insn e.op [d.val, a.val] 0) len → intFault ((s.ctx c).sreg a.val) = some st →
    exec (e.ins c d a) s = .next ((spoiled (issued s c len) c a).faultCtx c st 0)) ∧
  (∀ (s : State) (c : CtxId) (st : Status) (n : Nat),
    (s.faultCtx c st n).ctx c = { s.ctx c with state := .faulted, wait := .none, fault := st, repidx := BitVec.ofNat 8 n } ∧
    (∀ d, d ≠ c → (s.faultCtx c st n).ctx d = s.ctx d) ∧ (s.faultCtx c st n).mem = s.mem) ∧
  (∀ (s : State) (c : CtxId), canIssue s c = true →
    (s.current (s.ctx c).code = none → exec (.fetchFault c) s = .next (s.faultCtx c stStale 0)) ∧
    (∀ r, s.current (s.ctx c).code = some r → r.len.toNat ≤ (s.ctx c).pc.toNat → exec (.fetchFault c) s = .next (s.faultCtx c stRights 0)) ∧
    (decodeAt s c = .error stUndef → exec (.reservedEncoding c) s = .next (s.faultCtx c stUndef 0)))

/-- ld.b, ld.h, ld.w, ld.bs, ld.hs and ld.ws: the little-endian bytes, zero- or sign-extended, under INT64, from a word that is NIL or
carries a data tag.
ld.d and ldh load a whole word with its tag; ldh loads a HANDLE word only, and a load from a word of another tag faults and loads
nothing. -/
def Obligations.Loads : Prop :=
  (∀ e ∈ loads, ∀ (s : State) (c : CtxId) (ord : Bool) (r : SReg) (a : Addr) (p len : Nat),
    Issues s c (insnOrd e.op ord (r.val :: addrBytes a) a.disp.toNat) len → Reaches s c a 0 e.size e.size rightRd p →
    dataTag (((issued s c len).settle p e.size).mem.tagAt p) →
    exec (e.ins c ord r a) s = .next (passed c len (((issued s c len).settle p e.size).updCtx c
      (writesS r (TWord.int (loadValue e.size e.sign (((issued s c len).settle p e.size).mem.num p e.size))))))) ∧
  (∀ (s : State) (c : CtxId) (ord : Bool) (r : SReg) (h : HReg) (a : Addr) (p len : Nat), Reaches s c a 0 8 8 rightRd p →
    (Issues s c (insnOrd 0x63 ord (r.val :: addrBytes a) a.disp.toNat) len →
      exec (.ldD c ord r a) s = .next (passed c len (((issued s c len).settle p 8).updCtx c
        (writesS r (((issued s c len).settle p 8).mem.word p))))) ∧
    (Issues s c (insnOrd 0x6F ord (h.val :: addrBytes a) a.disp.toNat) len →
      (((issued s c len).settle p 8).mem.tagAt p = Tag.handle →
        exec (.ldh c ord h a) s = .next (passed c len (((issued s c len).settle p 8).updCtx c fun x =>
          x.setH h.val (((issued s c len).settle p 8).mem.word p)))) ∧
      (((issued s c len).settle p 8).mem.tagAt p = Tag.poison →
        exec (.ldh c ord h a) s = .next (((issued s c len).settle p 8).faultCtx c stPoison 0)) ∧
      (((issued s c len).settle p 8).mem.tagAt p ≠ Tag.poison → ((issued s c len).settle p 8).mem.tagAt p ≠ Tag.handle →
        exec (.ldh c ord h a) s = .next (((issued s c len).settle p 8).faultCtx c stTag 0))))

/-- st.b, st.h and st.w: a word with a data tag takes the bytes and keeps its tag, a HANDLE word takes them and becomes NIL, a POISON word
keeps its bytes and stays POISON, and a CODE word is left as it was with ST_TAG_FAULT.
The source of a sub-word store must be NIL or carry a data tag: POISON and 0xE give ST_POISON, HANDLE and CODE ST_TAG_FAULT, and in
either case nothing is written.
st.d and sth write a whole word with its tag, sth the word 0 under NIL from a NIL register; a CODE word is left as it was with
ST_TAG_FAULT. A word that is no doorbell of a cipher queue changes nothing else. -/
def Obligations.Stores : Prop :=
  (∀ e ∈ stores, ∀ (s : State) (c : CtxId) (ord : Bool) (r : SReg) (a : Addr) (p len : Nat),
    Issues s c (insnOrd e.1 ord (r.val :: addrBytes a) a.disp.toNat) len → dataTag ((s.ctx c).sreg r.val).tag →
    Reaches s c a 0 e.2.2 e.2.2 rightWr p →
    let t := (issued s c len).settle p e.2.2
    let bs := bytesOf e.2.2 ((s.ctx c).sreg r.val).bits.toNat
    (dataTag (t.mem.tagAt p) → exec (e.2.1 c ord r a) s = .next (passed c len { t with mem := t.mem.setBytes p bs })) ∧
    (t.mem.tagAt p = Tag.handle →
      exec (e.2.1 c ord r a) s = .next (passed c len { t with mem := (t.mem.setBytes p bs).setTag p Tag.nil })) ∧
    (t.mem.tagAt p = Tag.poison →
      exec (e.2.1 c ord r a) s = .next (passed c len { t with mem := t.mem.setTag p Tag.poison })) ∧
    (t.mem.tagAt p = Tag.code → exec (e.2.1 c ord r a) s = .next (t.faultCtx c stTag 0))) ∧
  (∀ e ∈ stores, ∀ (s : State) (c : CtxId) (ord : Bool) (r : SReg) (a : Addr) (len : Nat),
    Issues s c (insnOrd e.1 ord (r.val :: addrBytes a) a.disp.toNat) len →
    (((s.ctx c).sreg r.val).tag = Tag.poison ∨ ((s.ctx c).sreg r.val).tag = Tag.rsvd →
      exec (e.2.1 c ord r a) s = .next ((spoiled (issued s c len) c r).faultCtx c stPoison 0)) ∧
    (((s.ctx c).sreg r.val).tag = Tag.handle ∨ ((s.ctx c).sreg r.val).tag = Tag.code →
      exec (e.2.1 c ord r a) s = .next ((issued s c len).faultCtx c stTag 0))) ∧
  (∀ (s : State) (c : CtxId) (ord : Bool) (r : SReg) (h : HReg) (a : Addr) (p len : Nat), Reaches s c a 0 8 8 rightWr p →
    (Issues s c (insnOrd 0x6A ord (r.val :: addrBytes a) a.disp.toNat) len →
      ((issued s c len).mem.tagAt p ≠ Tag.code →
        exec (.stD c ord r a) s = .next (passed c len (wordStored (issued s c len) p ((s.ctx c).sreg r.val)))) ∧
      ((issued s c len).mem.tagAt p = Tag.code → exec (.stD c ord r a) s = .next ((issued s c len).faultCtx c stTag 0))) ∧
    (Issues s c (insnOrd 0x70 ord (h.val :: addrBytes a) a.disp.toNat) len →
      ((issued s c len).mem.tagAt p ≠ Tag.code →
        exec (.sth c ord h a) s = .next (passed c len (wordStored (issued s c len) p
          (if ((s.ctx c).hreg h.val).tag = Tag.nil then ⟨0, Tag.nil⟩ else (s.ctx c).hreg h.val)))) ∧
      ((issued s c len).mem.tagAt p = Tag.code → exec (.sth c ord h a) s = .next ((issued s c len).faultCtx c stTag 0)))) ∧
  (∀ (s : State) (p : Nat) (w : TWord), (∀ e ∈ s.cqs, e.2.base ≠ p) →
    wordStored s p w = { s with mem := s.mem.setWord p w, latent := tblErase s.latent (p / 8) })

/-- The atomics: Sd takes the old word and memory the combined one, both under INT64; amo.cas writes Sb only where the old word equals Sd, and
sets Z by it; no other atomic writes a flag.
retag.m sets the tag of the addressed word and leaves its data; when the old or the new tag is HANDLE, CODE, 0xE or POISON it faults with
ST_TAG_FAULT and the word is unchanged. -/
def Obligations.Atomics : Prop :=
  (∀ e ∈ atomics, ∀ (s : State) (c : CtxId) (ord : Bool) (d b : SReg) (a : Addr) (y : Word) (p len : Nat),
    Issues s c (insnOrd e.1 ord (d.val :: (addrBytes a ++ [b.val])) a.disp.toNat) len → HoldsInt s c b y → Reaches s c a 0 8 8 rightAtom p →
    let t := (issued s c len).settle p 8
    (t.mem.tagAt p = Tag.int64 ∨ t.mem.tagAt p = Tag.nil) →
    exec (e.2.1 c ord d a b) s = .next (passed c len
      ((wordStored t p (TWord.int (e.2.2 (t.mem.word p).bits y))).updCtx c (writesS d (TWord.int (t.mem.word p).bits))))) ∧
  (∀ (s : State) (c : CtxId) (ord : Bool) (d b : SReg) (a : Addr) (z y : Word) (p len : Nat),
    Issues s c (insnOrd 0x7D ord (d.val :: (addrBytes a ++ [b.val])) a.disp.toNat) len → HoldsInt s c d z → HoldsInt s c b y →
    Reaches s c a 0 8 8 rightAtom p →
    let t := (issued s c len).settle p 8
    (t.mem.tagAt p = Tag.int64 ∨ t.mem.tagAt p = Tag.nil) →
    exec (.amoCas c ord d a b) s = .next (passed c len
      ((if (t.mem.word p).bits = z then wordStored t p (TWord.int y) else t).updCtx c fun x =>
        { x.setS d.val (TWord.int (t.mem.word p).bits) with flg := flagAfter x.flg 0 (decide ((t.mem.word p).bits = z)) }))) ∧
  (∀ (s : State) (c : CtxId) (ord : Bool) (t : Tag) (a : Addr) (p len : Nat),
    Issues s c (insnOrd 0x7E ord (t.toNat :: addrBytes a) a.disp.toNat) len → Reaches s c a 0 8 8 rightWr p →
    let u := (issued s c len).settle p 8
    (dataTag (u.mem.tagAt p) → dataTag t →
      exec (.retagM c ord t a) s = .next (passed c len { u with mem := u.mem.setTag p t })) ∧
    (¬(dataTag (u.mem.tagAt p) ∧ dataTag t) → exec (.retagM c ord t a) s = .next (u.faultCtx c stTag 0)))

/-- Every row with an address pair makes the checks of R117 in their order: the tag of the H register, then of the index, then the
generation, the kind, the right, the alignment and the bounds; the first failure is the fault, and memory is unchanged. -/
def Obligations.AddressChecksInOrder : Prop :=
  ∀ (s : State) (c : CtxId) (ord : Bool) (r b : SReg) (h : HReg) (t : Tag) (a : Addr) (len : Nat),
    (∀ e ∈ addrFirst r h t, Issues s c (e.word ord a) len → ChecksInOrder s c ord a len e) ∧
    (((s.ctx c).sreg r.val).tag = Tag.int64 → ((s.ctx c).sreg b.val).tag = Tag.int64 →
      ∀ e ∈ addrAndData r b, Issues s c (e.word ord a) len → ChecksInOrder s c ord a len e)

/-- s2h moves a HANDLE word, and 0 under NIL from a NIL register; hcheck gives the rights of a current handle, else 0, and sets Z unless every
right of the mask is there; hlen gives the length, or faults with ST_TAG_FAULT on NIL and ST_HANDLE_STALE on a stale handle. -/
def Obligations.HandleInstructions : Prop :=
  ∀ (s : State) (c : CtxId) (d a : SReg) (h : HReg) (mask : BitVec 8) (w : Word) (r : Region) (len : Nat),
    (Issues s c (insn 0x72 [h.val, a.val] 0) len →
      (((s.ctx c).sreg a.val).tag = Tag.handle →
        exec (.s2h c h a) s = .next (passed c len ((issued s c len).updCtx c fun x => x.setH h.val ((s.ctx c).sreg a.val)))) ∧
      (((s.ctx c).sreg a.val).tag = Tag.nil →
        exec (.s2h c h a) s = .next (passed c len ((issued s c len).updCtx c fun x => x.setH h.val ⟨0, Tag.nil⟩)))) ∧
    (Issues s c (insn 0x74 [d.val, h.val] mask.toNat) len →
      (HoldsHandle s c h w → s.current w = some r →
        exec (.hcheck c d h mask) s = .next (passed c len ((issued s c len).updCtx c fun x =>
          { x.setS d.val (TWord.int ((w >>> 36) &&& 0xFF)) with
            flg := flagAfter x.flg 0 (decide ¬(∀ i : Fin 8, mask.getLsbD i.val = true → w.getLsbD (36 + i.val) = true)) }))) ∧
      (((s.ctx c).hreg h.val).tag ≠ Tag.handle ∨ s.current ((s.ctx c).hreg h.val).bits = none →
        exec (.hcheck c d h mask) s = .next (passed c len ((issued s c len).updCtx c fun x =>
          { x.setS d.val (TWord.int 0) with flg := flagAfter x.flg 0 (decide (mask ≠ 0)) })))) ∧
    (Issues s c (insn 0x75 [d.val, h.val] 0) len →
      (HoldsHandle s c h w → s.current w = some r →
        exec (.hlen c d h) s = .next (passed c len ((issued s c len).updCtx c (writesS d (TWord.int r.len))))) ∧
      (HoldsHandle s c h w → s.current w = none → exec (.hlen c d h) s = .next ((issued s c len).faultCtx c stStale 0)) ∧
      (((s.ctx c).hreg h.val).tag = Tag.nil → exec (.hlen c d h) s = .next ((issued s c len).faultCtx c stTag 0)))

/-- hderive narrows: the whole range keeps index and generation with rights AND mask; another range takes a free derive slot's entry, which
records the parent's kind, base + Sa and length Sb; without a free slot Hd is NIL and Z is set. -/
def Obligations.HandleDerivation : Prop :=
  ∀ (s : State) (c : CtxId) (hd hs : HReg) (a b : SReg) (mask : BitVec 8) (w off n : Word) (r : Region) (len : Nat),
    Issues s c (insn 0x73 [hd.val, hs.val, a.val, b.val] mask.toNat) len → HoldsHandle s c hs w → HoldsInt s c a off → HoldsInt s c b n →
    s.current w = some r → hasRight w rightDrv = true →
    (derivable r off.toNat n.toNat →
      (off = 0 → n = r.len →
        exec (.hderive c hd hs a b mask) s = .next (passed c len ((issued s c len).updCtx c fun x =>
          { x.setH hd.val ⟨mkHandle (hIndex w) r.gen (hRights w &&& mask), Tag.handle⟩ with flg := flagAfter x.flg 0 false }))) ∧
      (¬(off = 0 ∧ n = r.len) → ∀ i, freeDerive s c = some i →
        exec (.hderive c hd hs a b mask) s = .next (passed c len (((issued s c len).setRegion i
          { r with used := true, retired := false, base := r.base + off, len := n, rights := hRights w &&& mask,
                   gen := (s.region i).gen, parent := some (hIndex w) }).updCtx c fun x =>
            { x.setH hd.val ⟨mkHandle i (s.region i).gen (hRights w &&& mask), Tag.handle⟩ with flg := flagAfter x.flg 0 false }))) ∧
      (¬(off = 0 ∧ n = r.len) → freeDerive s c = none →
        exec (.hderive c hd hs a b mask) s = .next (passed c len ((issued s c len).updCtx c fun x =>
          { x.setH hd.val ⟨0, Tag.nil⟩ with flg := flagAfter x.flg 0 true })))) ∧
    (¬derivable r off.toNat n.toNat → exec (.hderive c hd hs a b mask) s = .next ((issued s c len).faultCtx c stRights 0))

/-- Rights never widen: the rights of a handle that hderive leaves in Hd are among those of Hs. -/
def Obligations.RightsNeverWiden : Prop :=
  ∀ (s t : State) (c : CtxId) (hd hs : HReg) (a b : SReg) (mask : BitVec 8) (len right : Nat),
    Issues s c (insn 0x73 [hd.val, hs.val, a.val, b.val] mask.toNat) len → exec (.hderive c hd hs a b mask) s = .next t →
    (t.ctx c).state = .running → ((t.ctx c).hreg hd.val).tag = Tag.handle → hasRight ((t.ctx c).hreg hd.val).bits right = true → right < 8 →
    hasRight ((s.ctx c).hreg hs.val).bits right = true ∧ mask.getLsbD right = true

/-- Writing the active lanes of a V register: each active lane takes its new bits, each other lane keeps its bits, the register takes the
format and keeps its scale field, and every other register of the context is as before.
vadd, vsub, vmul and vdiv: each element is the exact result rounded once, integers wrap, and the control byte of an integer format is
0x00.
vfma, vfms and vfnma with one rounding; vsqrt, vrsqrt, vrcp, vexp2 and vlog2 rounded once.
vmin, vmax, vabs and vneg: minimumNumber and maximumNumber with −0 below +0, a NaN operand ignored; integer −2³¹ and −128 are returned
unchanged by vabs and vneg.
vdot: lane j of Vd takes the exact sum of its old value and the element products, rounded once; an MX block scale of 0xFF makes the lane
NaN.
A format prefix that an instruction does not list raises ST_UNDEFINED_OPCODE; without one, a POISON first source gives ST_POISON and a
NIL one ST_TAG_FAULT; and a source of another format gives ST_TAG_FAULT. Stated for vadd, which stands for the forms of R129. -/
def Obligations.VectorArithmetic : Prop :=
  (∀ (s : State) (c : CtxId) (px : Px) (r : Nat) (f : Fmt) (g : Nat → Nat),
    let t := putLanes s c px r f g
    (∀ j, j < 128 → laneOf ((t.ctx c).vreg r) j = if laneOn (s.ctx c) px j then g j % 2 ^ 32 else laneOf ((s.ctx c).vreg r) j) ∧
    ((t.ctx c).vreg r).tag = .fmt f ∧ ((t.ctx c).vreg r).scale = ((s.ctx c).vreg r).scale ∧
    (∀ q, q ≠ r → (t.ctx c).vreg q = (s.ctx c).vreg q) ∧ (t.ctx c).s = (s.ctx c).s ∧ (t.ctx c).m = (s.ctx c).m ∧ (t.ctx c).h = (s.ctx c).h ∧
    (t.ctx c).flg = (s.ctx c).flg ∧ t.mem = s.mem ∧ (∀ d, d ≠ c → t.ctx d = s.ctx d)) ∧
  (∀ e ∈ vArith, ∀ (s : State) (c : CtxId) (px : Px) (d a b : VReg) (rm : Rm) (f : Fmt) (len : Nat),
    Issues s c ⟨e.op, px, [d.val, a.val, b.val, rmCode rm], 0⟩ len → px.rep = none → FmtIs s c px a f → HoldsFmt s c a f → HoldsFmt s c b f →
    (fltFmt f → exec (e.ins c px d a b rm) s = .next (passed c len (putLanes (issued s c len) c px d.val f
      (perElem f fun n => rounded s c f rm n (e.fp rm (elem s c f a n) (elem s c f b n)))))) ∧
    (∀ g, e.int = some g → intFmt f → rm = .rne →
      exec (e.ins c px d a b rm) s = .next (passed c len (putLanes (issued s c len) c px d.val f
        (perElem f fun n => wrapped f (g (int s c f a n) (int s c f b n)))))) ∧
    (e.int.isSome → intFmt f → rm ≠ .rne → exec (e.ins c px d a b rm) s = .next ((issued s c len).faultCtx c stUndef 0))) ∧
  (∀ e ∈ vFused, ∀ (s : State) (c : CtxId) (px : Px) (d a b k : VReg) (rm : Rm) (f : Fmt) (len : Nat),
    Issues s c ⟨e.1, px, [d.val, a.val, b.val, k.val, rmCode rm], 0⟩ len → px.rep = none → FmtIs s c px a f → fltFmt f → HoldsFmt s c a f →
    HoldsFmt s c b f → HoldsFmt s c k f →
    exec (e.2.1 c px d a b k rm) s = .next (passed c len (putLanes (issued s c len) c px d.val f
      (perElem f fun n => rounded s c f rm n (e.2.2 rm (elem s c f a n) (elem s c f b n) (elem s c f k n)))))) ∧
  (∀ e ∈ vRound1, ∀ (s : State) (c : CtxId) (px : Px) (d a : VReg) (rm : Rm) (f : Fmt) (len : Nat),
    Issues s c ⟨e.1, px, [d.val, a.val, rmCode rm], 0⟩ len → px.rep = none → FmtIs s c px a f → fltFmt f → HoldsFmt s c a f →
    exec (e.2.1 c px d a rm) s = .next (passed c len (putLanes (issued s c len) c px d.val f
      (perElem f fun n => rounded s c f rm n (e.2.2 (elem s c f a n)))))) ∧
  (∀ (s : State) (c : CtxId) (px : Px) (d a b : VReg) (f : Fmt) (len : Nat), px.rep = none → FmtIs s c px a f → numFmt f → HoldsFmt s c a f →
    (HoldsFmt s c b f → Issues s c ⟨0x86, px, [d.val, a.val, b.val], 0⟩ len →
      exec (.vmin c px d a b) s = .next (passed c len (putLanes (issued s c len) c px d.val f (perElem f fun n =>
        pick false f (elemBits f ((s.ctx c).vreg a.val) n) (elemBits f ((s.ctx c).vreg b.val) n))))) ∧
    (HoldsFmt s c b f → Issues s c ⟨0x87, px, [d.val, a.val, b.val], 0⟩ len →
      exec (.vmax c px d a b) s = .next (passed c len (putLanes (issued s c len) c px d.val f (perElem f fun n =>
        pick true f (elemBits f ((s.ctx c).vreg a.val) n) (elemBits f ((s.ctx c).vreg b.val) n))))) ∧
    (Issues s c ⟨0x88, px, [d.val, a.val], 0⟩ len →
      exec (.vabs c px d a) s = .next (passed c len (putLanes (issued s c len) c px d.val f (perElem f fun n =>
        if f = .int32 ∨ f = .int8 then wrapped f (int s c f a n).natAbs else rounded s c f .rne n (elem s c f a n).abs)))) ∧
    (Issues s c ⟨0x89, px, [d.val, a.val], 0⟩ len →
      exec (.vneg c px d a) s = .next (passed c len (putLanes (issued s c len) c px d.val f (perElem f fun n =>
        if f = .int32 ∨ f = .int8 then wrapped f (-(int s c f a n)) else rounded s c f .rne n (elem s c f a n).neg))))) ∧
  (∀ (s : State) (c : CtxId) (px : Px) (d a b : VReg) (rm : Rm) (f : Fmt) (len : Nat),
    Issues s c ⟨0x90, px, [d.val, a.val, b.val, rmCode rm], 0⟩ len → px.rep = none → FmtIs s c px a f → HoldsFmt s c a f → HoldsFmt s c b f →
    (f ≠ .fp32 → f ≠ .int32 → f ≠ .int8 → HoldsFmt s c d .fp32 →
      exec (.vdot c px d a b rm) s = .next (passed c len (putLanes (issued s c len) c px d.val .fp32 fun j =>
        rounded s c .fp32 rm j (sumF rm (((List.range (fmtLane f)).map fun k =>
          FVal.mul (elemOf f ((s.ctx c).vreg a.val) (j * fmtLane f + k)) (elemOf f ((s.ctx c).vreg b.val) (j * fmtLane f + k))) ++
            [elemVal .fp32 (lane s c d j)]))))) ∧
    (f = .int8 → rm = .rne → HoldsFmt s c d .int32 →
      exec (.vdot c px d a b rm) s = .next (passed c len (putLanes (issued s c len) c px d.val .int32 fun j =>
        ofSigned 32 ((List.range 4).foldl (fun t k => t + int s c .int8 a (j * 4 + k) * int s c .int8 b (j * 4 + k)) (toSigned 32 (lane s c d j)))))) ∧
    (f = .fp32 ∨ f = .int32 → exec (.vdot c px d a b rm) s = .next ((issued s c len).faultCtx c stUndef 0))) ∧
  (∀ (s : State) (c : CtxId) (px : Px) (d a b : VReg) (rm : Rm) (len : Nat),
    Issues s c ⟨0x80, px, [d.val, a.val, b.val, rmCode rm], 0⟩ len → px.rep = none →
    (∀ f, px.fmt = some f → ¬numFmt f → exec (.vadd c px d a b rm) s = .next ((issued s c len).faultCtx c stUndef 0)) ∧
    (px.fmt = none → ((s.ctx c).vreg a.val).tag = .poison → exec (.vadd c px d a b rm) s = .next ((issued s c len).faultCtx c stPoison 0)) ∧
    (px.fmt = none → ((s.ctx c).vreg a.val).tag = .nil → exec (.vadd c px d a b rm) s = .next ((issued s c len).faultCtx c stTag 0)) ∧
    (∀ f g, FmtIs s c px a f → numFmt f → (intFmt f → rm = .rne) → HoldsFmt s c a f → HoldsFmt s c b g → g ≠ f →
      exec (.vadd c px d a b rm) s = .next ((issued s c len).faultCtx c stTag 0)))

/-- vand, vor, vxor, vshl, vshr, vsar, vsel, vperm and vrot act on whole 32-bit lanes.
vsplat, vsplati, vlane, vmov, vext and vins.
vcmp.eq, vcmp.lt, vcmp.le and vcmp.un: bit j compares lane j, signed for INT32, inactive bits are cleared, and A and L tell whether any
and every active bit is 1.
vredmax, vredmin, vargmax and vargmin: the extreme active lane that holds a number, the lowest on ties; the values for no such lane.
mand, mor, mxor, mnot, mset, mpop, mfirst and mfromv. -/
def Obligations.VectorLanesAndMasks : Prop :=
  (∀ e ∈ vBits, ∀ (s : State) (c : CtxId) (px : Px) (d a b : VReg) (f : Fmt) (len : Nat),
    Issues s c ⟨e.1, px, [d.val, a.val, b.val], 0⟩ len → px.rep = none → FmtIs s c px a f → e.2.2.1 f = true → HoldsFmt s c a f →
    HoldsFmt s c b f →
    exec (e.2.1 c px d a b) s = .next (passed c len (putLanes (issued s c len) c px d.val f fun j =>
      (e.2.2.2 (BitVec.ofNat 32 (lane s c a j)) (BitVec.ofNat 32 (lane s c b j))).toNat))) ∧
  (∀ (s : State) (c : CtxId) (px : Px) (d a b : VReg) (m : MReg) (n : BitVec 7) (f : Fmt) (len : Nat), px.rep = none → FmtIs s c px a f →
    fmtIsMx f = false → HoldsFmt s c a f →
    (Issues s c ⟨0x95, px, [d.val, a.val, b.val, m.val], 0⟩ len → HoldsFmt s c b f →
      exec (.vsel c px d a b m) s = .next (passed c len (putLanes (issued s c len) c px d.val f fun j =>
        if ((s.ctx c).mreg m.val).getLsbD j then lane s c a j else lane s c b j))) ∧
    (Issues s c ⟨0xA4, px, [d.val, a.val, b.val], 0⟩ len → HoldsFmt s c b .int32 →
      exec (.vperm c px d a b) s = .next (passed c len (putLanes (issued s c len) c px d.val f fun j => lane s c a (lane s c b j % 128)))) ∧
    (Issues s c ⟨0xA5, px, [d.val, a.val], n.toNat⟩ len →
      exec (.vrot c px d a n) s = .next (passed c len (putLanes (issued s c len) c px d.val f fun j => lane s c a ((j + n.toNat) % 128))))) ∧
  (∀ (s : State) (c : CtxId) (px : Px) (d a : VReg) (r : SReg) (n : BitVec 7) (imm : BitVec 32) (f : Fmt) (len : Nat),
    (px.rep = none → px.fmt = some f → splatFmt f = true → Issues s c ⟨0x9D, px, [d.val, r.val], 0⟩ len → ((s.ctx c).sreg r.val).tag = fmtTag f →
      exec (.vsplat c px d r) s = .next (passed c len (putLanes (issued s c len) c px d.val f
        (perElem f fun _ => ((s.ctx c).sreg r.val).bits.toNat % 2 ^ fmtBits f)))) ∧
    (px.rep = none → px.fmt = some f → splatFmt f = true → Issues s c ⟨0x9E, px, [d.val], imm.toNat⟩ len →
      exec (.vsplati c px d imm) s = .next (passed c len (putLanes (issued s c len) c px d.val f fun _ => imm.toNat))) ∧
    (px.rep = none → Issues s c ⟨0x9F, px, [d.val], 0⟩ len →
      exec (.vlane c px d) s = .next (passed c len (putLanes (issued s c len) c px d.val .int32 fun j => j))) ∧
    (px.rep = none → ((s.ctx c).vreg a.val).tag ≠ .nil →
      (px.fmt = none ∨ ((s.ctx c).vreg a.val).tag = .poison ∨ px.fmt = some f ∧ HoldsFmt s c a f) → Issues s c ⟨0x9C, px, [d.val, a.val], 0⟩ len →
      ∃ t, exec (.vmov c px d a) s = .next (passed c len ((issued s c len).updCtx c fun x => x.setV d.val t)) ∧
        t.tag = ((s.ctx c).vreg a.val).tag ∧ (∀ j, j < 128 → laneOf t j = if laneOn (s.ctx c) px j then laneRead ((s.ctx c).vreg a.val) j else lane s c d j) ∧
        ((∀ g, HoldsFmt s c a g → fmtIsMx g = false) → t.scale = ((s.ctx c).vreg a.val).scale) ∧
        (∀ g, HoldsFmt s c a g → fmtIsMx g = true → ∀ b, b < 32 →
          scaleOf t b = if px.mask = none ∨ (List.range 128).any (fun j => laneOn (s.ctx c) px j && decide (j * fmtLane g / 32 = b)) = true
            then (if g ≠ .mxfp4 ∧ 16 ≤ b then 0 else scaleOf ((s.ctx c).vreg a.val) b) else scaleOf ((s.ctx c).vreg d.val) b)) ∧
    (FmtIs s c px a f → splatFmt f = true → HoldsFmt s c a f → Issues s c ⟨0xA6, px, [r.val, a.val], n.toNat⟩ len → px.rep = none →
      exec (.vext c px r a n) s = .next (passed c len ((issued s c len).updCtx c
        (writesS r ⟨BitVec.ofNat 64 (lane s c a n.toNat), fmtTag f⟩)))) ∧
    (FmtIs s c px d f → splatFmt f = true → ((s.ctx c).sreg r.val).tag = fmtTag f → Issues s c ⟨0xA7, px, [d.val, r.val], n.toNat⟩ len →
      px.rep = none →
      ∃ t, exec (.vins c px d r n) s = .next (passed c len ((issued s c len).updCtx c fun x => x.setV d.val t)) ∧ t.tag = .fmt f ∧
        t.scale = ((s.ctx c).vreg d.val).scale ∧
        ∀ j, j < 128 → laneOf t j = if j = n.toNat then ((s.ctx c).sreg r.val).bits.toNat % 2 ^ 32 else lane s c d j)) ∧
  (∀ e ∈ vCmps, ∀ (s : State) (c : CtxId) (px : Px) (m : MReg) (a b : VReg) (f : Fmt) (len : Nat),
    Issues s c ⟨e.1, px, [m.val, a.val, b.val], 0⟩ len → px.rep = none → FmtIs s c px a f → HoldsFmt s c a f → HoldsFmt s c b f →
    (f = .fp32 → exec (e.2.1 c px m a b) s = .next (passed c len ((issued s c len).updCtx c (writesMask s c px m fun j =>
      e.2.2.1 (elemVal .fp32 (lane s c a j)) (elemVal .fp32 (lane s c b j)))))) ∧
    (∀ g, e.2.2.2 = some g → f = .int32 → exec (e.2.1 c px m a b) s = .next (passed c len ((issued s c len).updCtx c
      (writesMask s c px m fun j => g (toSigned 32 (lane s c a j)) (toSigned 32 (lane s c b j)))))) ∧
    (e.2.2.2 = none → f = .int32 → exec (e.2.1 c px m a b) s = .next ((issued s c len).faultCtx c stUndef 0))) ∧
  (∀ (s : State) (c : CtxId) (px : Px) (d : SReg) (a : VReg) (f : Fmt) (len : Nat), px.rep = none → FmtIs s c px a f → f = .fp32 ∨ f = .int32 →
    HoldsFmt s c a f → ∀ e ∈ [(0xA0, Instr.vredmax, true), (0xA1, Instr.vredmin, false)],
    ∀ g ∈ [(0xA2, Instr.vargmax, true), (0xA3, Instr.vargmin, false)],
    (∀ j, Extreme (worse e.2.2 f s c a) (numbered s c px f a) j → Issues s c ⟨e.1, px, [d.val, a.val], 0⟩ len →
      exec (e.2.1 c px d a) s = .next (passed c len ((issued s c len).updCtx c (writesS d (if f = .int32
        then TWord.int (BitVec.ofInt 64 (toSigned 32 (lane s c a j))) else ⟨BitVec.ofNat 64 (lane s c a j), Tag.fp32x2⟩))))) ∧
    (numbered s c px f a = [] → Issues s c ⟨e.1, px, [d.val, a.val], 0⟩ len →
      exec (e.2.1 c px d a) s = .next (passed c len ((issued s c len).updCtx c (writesS d (if f = .int32
        then TWord.int (if e.2.2 then BitVec.ofInt 64 (-(2 ^ 31)) else BitVec.ofInt 64 (2 ^ 31 - 1))
        else if activeLanes s c px = [] then ⟨if e.2.2 then 0xFF800000 else 0x7F800000, Tag.fp32x2⟩ else ⟨0x7FC00000, Tag.fp32x2⟩))))) ∧
    (∀ j, Extreme (worse g.2.2 f s c a) (numbered s c px f a) j → Issues s c ⟨g.1, px, [d.val, a.val], 0⟩ len →
      exec (g.2.1 c px d a) s = .next (passed c len ((issued s c len).updCtx c (writesSZ d (TWord.int (BitVec.ofNat 64 j)) false)))) ∧
    (numbered s c px f a = [] → Issues s c ⟨g.1, px, [d.val, a.val], 0⟩ len →
      exec (g.2.1 c px d a) s = .next (passed c len ((issued s c len).updCtx c (writesSZ d (TWord.int (BitVec.allOnes 64)) true))))) ∧
  (∀ (s : State) (c : CtxId) (d a b : MReg) (r : SReg) (n : BitVec 8) (v : VReg) (len : Nat),
    let A := (s.ctx c).mreg a.val
    let B := (s.ctx c).mreg b.val
    (Issues s c (insn 0xA8 [d.val, a.val, b.val] 0) len →
      exec (.mand c d a b) s = .next (passed c len ((issued s c len).updCtx c fun x => x.setM d.val (A &&& B)))) ∧
    (Issues s c (insn 0xA9 [d.val, a.val, b.val] 0) len →
      exec (.mor c d a b) s = .next (passed c len ((issued s c len).updCtx c fun x => x.setM d.val (A ||| B)))) ∧
    (Issues s c (insn 0xAA [d.val, a.val, b.val] 0) len →
      exec (.mxor c d a b) s = .next (passed c len ((issued s c len).updCtx c fun x => x.setM d.val (A ^^^ B)))) ∧
    (Issues s c (insn 0xAB [d.val, a.val] 0) len →
      exec (.mnot c d a) s = .next (passed c len ((issued s c len).updCtx c fun x => x.setM d.val (A ^^^ BitVec.allOnes 128)))) ∧
    (Issues s c (insn 0xAC [d.val] n.toNat) len →
      exec (.mset c d n) s = .next (passed c len ((issued s c len).updCtx c fun x => x.setM d.val (maskOf fun j => decide (j < n.toNat))))) ∧
    (Issues s c (insn 0xAD [r.val, a.val] 0) len →
      exec (.mpop c r a) s = .next (passed c len ((issued s c len).updCtx c
        (writesSZ r (TWord.int (BitVec.ofNat 64 ((List.range 128).filter fun j => A.getLsbD j).length)) (decide (A = 0)))))) ∧
    (Issues s c (insn 0xAE [r.val, a.val] 0) len →
      exec (.mfirst c r a) s = .next (passed c len ((issued s c len).updCtx c (writesSZ r
        (TWord.int (match (List.range 128).find? fun j => A.getLsbD j with | some j => BitVec.ofNat 64 j | none => BitVec.allOnes 64))
        (decide (A = 0)))))) ∧
    (Issues s c (insn 0xAF [d.val, v.val] 0) len →
      (∀ f, HoldsFmt s c v f →
        exec (.mfromv c d v) s = .next (passed c len ((issued s c len).updCtx c (writesMask s c Px.none d fun j => decide (laneRead ((s.ctx c).vreg v.val) j ≠ 0))))) ∧
      (((s.ctx c).vreg v.val).tag = .nil → exec (.mfromv c d v) s = .next ((issued s c len).faultCtx c stTag 0))))

/-- vld: when every word that holds bits of an active lane carries the format's tag, the active lanes take their bits from memory, the others
keep theirs, the scale field stays and the register takes the format; a POISON word gives ST_POISON and another tag ST_TAG_FAULT.
vst: unless a touched word is CODE, every word that holds bits of an active lane is written under the format's tag and keeps the bits of
inactive lanes; a POISON register writes POISON; a CODE word gives ST_TAG_FAULT with nothing written.
A register image stored whole reads back: every word carries the format's tag and every lane its bits, six to an element for MXFP6.
vldsc and vstsc move the scale field of an MX format and leave lanes and format tag; any other format raises ST_UNDEFINED_OPCODE.
Repeat runs the instances in sequence on registers advanced by the instance number: a repeated vlane writes the lane numbers to each of
its registers, and a repeated vand combines them pairwise, each instance seeing what the one before it left. -/
def Obligations.VectorMemory : Prop :=
  (∀ (s : State) (c : CtxId) (px : Px) (v : VReg) (a : Addr) (f : Fmt) (p len : Nat),
    Issues s c ⟨0x6B, px, v.val :: addrBytes a, a.disp.toNat⟩ len → px.rep = none → px.fmt = some f →
    Reaches s c a 0 (memVecBytes f) 8 rightRd p →
    let t := wordsRead s c len p (wordsOf s c px f)
    ((∀ w ∈ wordsOf s c px f, t.mem.tagAt (p + 8 * w) = fmtTag f) →
      exec (.vld c px v a) s = .next (passed c len (t.updCtx c fun x => x.setV v.val
        { lanes := lanesOf fun j => if laneOn (s.ctx c) px j
            then field (t.mem.num p (memVecBytes f)) (memLaneBits f * j) (memLaneBits f) else lane s c v j,
          scale := ((s.ctx c).vreg v.val).scale, tag := .fmt f }))) ∧
    (∀ st, badWord t.mem p (fmtTag f) (wordsOf s c px f) = some st → exec (.vld c px v a) s = .next (t.faultCtx c st 0))) ∧
  (∀ (s : State) (c : CtxId) (px : Px) (v : VReg) (a : Addr) (f : Fmt) (p len : Nat),
    Issues s c ⟨0x6C, px, v.val :: addrBytes a, a.disp.toNat⟩ len → px.rep = none → px.fmt = some f →
    (((s.ctx c).vreg v.val).tag = .poison ∨ HoldsFmt s c v f) → Reaches s c a 0 (memVecBytes f) 8 rightWr p →
    let t := wordsRead s c len p (partWords s c px f)
    ((∀ w ∈ wordsOf s c px f, t.mem.tagAt (p + 8 * w) ≠ Tag.code) →
      exec (.vst c px v a) s = .next (passed c len (writeImage p (packVec f ((s.ctx c).vreg v.val)) (activeBits (s.ctx c) px f) (fmtTag f)
        (((s.ctx c).vreg v.val).tag == .poison) (wordsOf s c px f) t))) ∧
    ((∃ w ∈ wordsOf s c px f, t.mem.tagAt (p + 8 * w) = Tag.code) → exec (.vst c px v a) s = .next (t.faultCtx c stTag 0))) ∧
  (∀ (s : State) (p : Nat) (f : Fmt) (v : VVal), p % 8 = 0 →
    let n := memVecBytes f
    let t := writeImage p (packVec f v) (2 ^ (8 * n) - 1) (fmtTag f) false (List.range (n / 8)) s
    (∀ w, w < n / 8 → t.mem.tagAt (p + 8 * w) = fmtTag f) ∧
    (∀ j, j < 128 → field (t.mem.num p n) (memLaneBits f * j) (memLaneBits f) = laneOf v j % 2 ^ memLaneBits f) ∧
    (∀ a, (a < p ∨ p + n ≤ a) → t.mem.byte a = s.mem.byte a ∧ (a / 8 < p / 8 ∨ p / 8 + n / 8 ≤ a / 8 → t.mem.tagAt a = s.mem.tagAt a))) ∧
  (∀ (s : State) (c : CtxId) (px : Px) (v : VReg) (a : Addr) (f : Fmt) (p len : Nat), px.rep = none → px.fmt = some f →
    (fmtIsMx f = true → Issues s c ⟨0x6D, px, v.val :: addrBytes a, a.disp.toNat⟩ len → Reaches s c a 0 (scaleBytes f) 8 rightRd p →
      let t := (issued s c len).settle p (scaleBytes f)
      (∀ w, w < scaleBytes f / 8 → t.mem.tagAt (p + 8 * w) = fmtTag f) →
      exec (.vldsc c px v a) s = .next (passed c len (t.updCtx c fun x => x.setV v.val
        { (s.ctx c).vreg v.val with scale := BitVec.ofNat 256 (t.mem.num p (scaleBytes f)) }))) ∧
    (fmtIsMx f = true → Issues s c ⟨0x6E, px, v.val :: addrBytes a, a.disp.toNat⟩ len → Reaches s c a 0 (scaleBytes f) 8 rightWr p →
      (((s.ctx c).vreg v.val).tag = .poison ∨ HoldsFmt s c v f) →
      (∀ w, w < scaleBytes f / 8 → (issued s c len).mem.tagAt (p + 8 * w) ≠ Tag.code) →
      exec (.vstsc c px v a) s = .next (passed c len (writeImage p (((s.ctx c).vreg v.val).scale.toNat % 2 ^ (8 * scaleBytes f))
        (2 ^ (8 * scaleBytes f) - 1) (fmtTag f) (((s.ctx c).vreg v.val).tag == .poison) (List.range (scaleBytes f / 8)) (issued s c len)))) ∧
    (fmtIsMx f = false →
      (Issues s c ⟨0x6D, px, v.val :: addrBytes a, a.disp.toNat⟩ len → exec (.vldsc c px v a) s = .next ((issued s c len).faultCtx c stUndef 0)) ∧
      (Issues s c ⟨0x6E, px, v.val :: addrBytes a, a.disp.toNat⟩ len → exec (.vstsc c px v a) s = .next ((issued s c len).faultCtx c stUndef 0)))) ∧
  (∀ (s : State) (c : CtxId) (px : Px) (d : VReg) (r : BitVec 8) (len : Nat), px.rep = some r →
    Issues s c ⟨0x9F, px, [d.val], 0⟩ len →
    exec (.vlane c px d) s = .next (passed c len ((List.range r.toNat).foldl
      (fun t i => putLanes t c px (d.val + i) .int32 fun j => j) (issued s c len)))) ∧
  (∀ (s : State) (c : CtxId) (px : Px) (d a b : VReg) (r : BitVec 8) (len : Nat), px.rep = some r →
    Issues s c ⟨0x96, px, [d.val, a.val, b.val], 0⟩ len →
    (∀ i, i < r.toNat → px.fmt = some .int32 ∧ ((s.ctx c).vreg (a.val + i)).tag = .fmt .int32 ∧ ((s.ctx c).vreg (b.val + i)).tag = .fmt .int32) →
    exec (.vand c px d a b) s = .next (passed c len ((List.range r.toNat).foldl (fun t i => putLanes t c px (d.val + i) .int32 fun j =>
      Nat.land (laneOf ((t.ctx c).vreg (a.val + i)) j) (laneOf ((t.ctx c).vreg (b.val + i)) j)) (issued s c len))))

/-- One addend is exact: a finite value adds its units to the accumulator's integer modulo nothing while it fits 320 bits, CNT counts it, and
NaN, infinities and negative zeros leave their marks; past 2⁴³ addends only LIMIT is set, and a limited accumulator never changes.
The order of addends does not matter: entering two finite values, in units of 2^−149, in either order leaves the same accumulator.
An accumulator image loads back to the accumulator it was stored from. -/
def Obligations.ExactAddends : Prop :=
  (∀ (x : XAcc) (k : Int), x.limit = false → x.cnt.toNat < 2 ^ 43 → (units x + k).natAbs < 2 ^ 320 → k ≠ 0 →
    units (accAdd x (.num (decide (k < 0)) k.natAbs (-149))) = units x + k ∧
    (accAdd x (.num (decide (k < 0)) k.natAbs (-149))).cnt.toNat = x.cnt.toNat + 1) ∧
  (∀ x : XAcc, x.limit = false → x.cnt.toNat < 2 ^ 43 → (accAdd x .nan).nan = true ∧ (accAdd x (.inf false)).pinf = true ∧
    (accAdd x (.inf true)).ninf = true ∧ (accAdd x (.zero true)).allneg0 = x.allneg0 ∧ (accAdd x (.zero false)).allneg0 = false) ∧
  (∀ (x : XAcc) (v : FVal), x.limit = false → x.cnt.toNat = 2 ^ 43 → accAdd x v = { x with limit := true }) ∧
  (∀ (x : XAcc) (v : FVal), x.limit = true → accAdd x v = x) ∧
  (∀ (x : XAcc) (j k : Int), x.limit = false → x.cnt.toNat + 2 ≤ 2 ^ 43 → j ≠ 0 → k ≠ 0 → (units x).natAbs + j.natAbs + k.natAbs < 2 ^ 320 →
    accAdd (accAdd x (.num (decide (j < 0)) j.natAbs (-149))) (.num (decide (k < 0)) k.natAbs (-149)) =
    accAdd (accAdd x (.num (decide (k < 0)) k.natAbs (-149))) (.num (decide (j < 0)) j.natAbs (-149))) ∧
  (∀ x : XAcc, x.poison = false → (x.sign = true → x.mag ≠ 0) → (x.cnt.toNat ≤ 2 ^ 43 ∨ x.limit = true) →
    (x.mag.toNat < x.cnt.toNat * 2 ^ 277 ∨ x.mag = 0 ∨ x.limit = true) → accOfImage (accImage x) = some x)

/-- xclr, xacc, xacc.s, xaccp, xmerge and xmov on accumulators that are free and sound.
xld, xst, xrd, xcnt and xstat on an accumulator that is free and sound.
An accumulator instruction that finds its accumulator occupied waits for it and changes no accumulator, and ACCUMULATOR_WAIT_END frees
the accumulator and lets it issue again. -/
def Obligations.Accumulators : Prop :=
  (∀ (s : State) (c : CtxId) (px : Px) (x y : XReg) (a b : VReg) (r : SReg) (f g : Fmt) (len : Nat), px.rep = none → AccFree s c x.val →
    (Issues s c ⟨0xDF00, px, [x.val], 0⟩ len → exec (.xclr c px x) s = .next (passed c len (putX (issued s c len) c x.val XAcc.clear))) ∧
    (Issues s c ⟨0xDF01, px, [x.val, a.val], 0⟩ len → AccSound s c x.val → FmtIs s c px a f → HoldsFmt s c a f →
      exec (.xacc c px x a) s = .next (passed c len (occupy (putX (issued s c len) c x.val
        (((activeLanes s c px).flatMap fun j => (List.range (fmtLane f)).map fun k =>
          let e := elemOf f ((s.ctx c).vreg a.val) (j * fmtLane f + k)
          if fmtIsMx f then mxAddend e else e).foldl accAdd (accOf s c x.val))) c x.val))) ∧
    (Issues s c ⟨0xDF02, px, [x.val, r.val], 0⟩ len → AccSound s c x.val → ((s.ctx c).sreg r.val).tag.toNat ∈ [1, 3, 4, 5, 6, 7] →
      exec (.xaccS c px x r) s = .next (passed c len (putX (issued s c len) c x.val
        ((sAddends ((s.ctx c).sreg r.val)).foldl accAdd (accOf s c x.val))))) ∧
    (Issues s c ⟨0xDF03, px, [x.val, a.val, b.val], 0⟩ len → AccSound s c x.val → FmtIs s c px a f → HoldsFmt s c a f → HoldsFmt s c b g →
      ((f = .int8 ∧ g = .int8) ∨ ((f = .e4m3 ∨ f = .e5m2) ∧ (g = .e4m3 ∨ g = .e5m2))) →
      exec (.xaccp c px x a b) s = .next (passed c len (occupy (putX (issued s c len) c x.val
        (((activeLanes s c px).flatMap fun j => (List.range 4).map fun k =>
          FVal.mul (elem s c f a (j * 4 + k)) (elem s c g b (j * 4 + k))).foldl accAdd (accOf s c x.val))) c x.val))) ∧
    (Issues s c ⟨0xDF04, px, [x.val, y.val], 0⟩ len → AccFree s c y.val → AccSound s c x.val → AccSound s c y.val →
      exec (.xmerge c px x y) s = .next (passed c len (occupy (occupy (putX (issued s c len) c x.val
        (accMerge (accOf s c x.val) (accOf s c y.val))) c x.val) c y.val))) ∧
    (Issues s c ⟨0xDF05, px, [x.val, y.val], 0⟩ len → AccFree s c y.val → AccSound s c y.val →
      exec (.xmov c px x y) s = .next (passed c len (occupy (occupy (putX (issued s c len) c x.val (accOf s c y.val)) c x.val) c y.val)))) ∧
  (∀ (s : State) (c : CtxId) (px : Px) (x : XReg) (d : SReg) (a : Addr) (t : STarget) (rm : Rm) (p len : Nat), px.rep = none → AccFree s c x.val →
    (Issues s c ⟨0xDF06, px, x.val :: addrBytes a, a.disp.toNat⟩ len → Reaches s c a 0 48 8 rightRd p →
      let u := (issued s c len).settle p 48
      (∀ k, k < 6 → u.mem.tagAt (p + 8 * k) = Tag.int64) → ∀ acc, accOfImage ((List.range 6).map fun k => (u.mem.word (p + 8 * k)).bits) = some acc →
      exec (.xld c px x a) s = .next (passed c len (putX u c x.val acc))) ∧
    (Issues s c ⟨0xDF07, px, x.val :: addrBytes a, a.disp.toNat⟩ len → AccSound s c x.val → Reaches s c a 0 48 8 rightWr p →
      (∀ k, k < 6 → (issued s c len).mem.tagAt (p + 8 * k) ≠ Tag.code) →
      exec (.xst c px x a) s = .next (passed c len (writeImage p (natOfBytes ((accImage (accOf s c x.val)).flatMap fun w => bytesOf 8 w.toNat))
        (2 ^ 384 - 1) Tag.int64 false (List.range 6) (issued s c len)))) ∧
    (Issues s c (insn 0xDF08 [d.val, x.val, sTargetCode t * 16 + rmCode rm] 0) len → AccSound s c x.val →
      exec (.xrd c d x t rm) s = .next (passed c len ((issued s c len).updCtx c fun X =>
        let r := accReadOut (accOf s c x.val) t (rndAt (s.ctx c) rm x.val)
        { X.setS d.val r.1 with flg := flagAfter (flagAfter X.flg 6 r.2.1) 7 r.2.2 }))) ∧
    (Issues s c (insn 0xDF09 [d.val, x.val] 0) len → AccSound s c x.val →
      exec (.xcnt c d x) s = .next (passed c len ((issued s c len).updCtx c
        (writesSZ d (TWord.int (BitVec.ofNat 64 (accOf s c x.val).cnt.toNat)) (decide ((accOf s c x.val).cnt = 0)))))) ∧
    (Issues s c (insn 0xDF0A [d.val, x.val] 0) len → AccSound s c x.val →
      exec (.xstat c d x) s = .next (passed c len ((issued s c len).updCtx c
        (writesS d (TWord.int (BitVec.ofNat 64 (accStateByte (accOf s c x.val))))))))) ∧
  (∀ (s : State) (c : CtxId) (px : Px) (x : XReg) (len : Nat), px.rep = none →
    (Issues s c ⟨0xDF00, px, [x.val], 0⟩ len → (s.eng c.eng.val).occ.getLsbD x.val = true →
      exec (.xclr c px x) s = .next (waiting c len ((issued s c len).updCtx c fun X => { X with wait := .acc x.val }))) ∧
    ((s.ctx c).wait = .acc x.val → exec (.accumulatorWaitEnd c) s = .next ((s.updEng c.eng.val fun e =>
      { e with occ := e.occ &&& ~~~(1#16 <<< x.val) }).updCtx c fun X => { X with wait := .none })))

/-- vcvt and vcvth convert the elements of their window under the mode into the destination elements of R139, vcvt2 two registers into adjacent
windows; I is set where an element was inexact; a window that does not exist raises ST_UNDEFINED_OPCODE.
scvt converts element 0 of Sa by its tag and sets I; an MX tag gives ST_TAG_FAULT.
philox gives each active lane a word of Philox4x32-10, raw or as a uniform number; vtopk writes the indices of the k largest active lanes in
descending order, −1 beyond them, and Z when k ≤ 0; vscan writes each active lane the exact sum of the active lanes up to it, or below it, rounded once
(the sign of an empty sum is the model's choice, log entry 11); vsample writes the lowest index whose value exceeds a threshold, or −1 with Z; vpenal
divides a lane at or above zero and multiplies any other; vaccept sets the bits of the active lanes in which the exact product of the draw and the draft
probability is below the target probability. -/
def Obligations.ConversionsAndSampling : Prop :=
  (∀ (s : State) (c : CtxId) (px : Px) (d a b : VReg) (f t : Fmt) (w : Bool) (rm : Rm) (len : Nat), px.rep = none → FmtIs s c px a f →
    HoldsFmt s c a f → ∀ e ∈ [(0xDF20, Instr.vcvt, 0), (0xDF22, Instr.vcvth, 2)],
    (Issues s c ⟨e.1, px, [d.val, a.val, fmtCode t * 16 + (if w then 8 else 0) + rmCode rm], 0⟩ len →
      (∀ p, window f t (e.2.2 + w.toNat) = some p →
        let r := Cvt.result ⟨s.ctx c, px, f, t, rm, p, (s.ctx c).vreg a.val, (s.ctx c).vreg d.val⟩
        exec (e.2.1 c px d a t w rm) s = .next (passed c len ((issued s c len).updCtx c fun x =>
          { x.setV d.val r.1 with flg := flagAfter x.flg 6 r.2 }))) ∧
      (window f t (e.2.2 + w.toNat) = none → exec (e.2.1 c px d a t w rm) s = .next ((issued s c len).faultCtx c stUndef 0))) ∧
    (Issues s c ⟨0xDF21, px, [d.val, a.val, b.val, fmtCode t * 16 + (if w then 8 else 0) + rmCode rm], 0⟩ len → HoldsFmt s c b f →
      fmtLane f < fmtLane t → fmtLane t < 8 * fmtLane f → (w = true → fmtLane t = 4 * fmtLane f) →
      let n := 128 * fmtLane f
      let r1 := Cvt.result ⟨s.ctx c, px, f, t, rm, (2 * w.toNat * n, n, 0), (s.ctx c).vreg a.val, (s.ctx c).vreg d.val⟩
      let r2 := Cvt.result ⟨s.ctx c, px, f, t, rm, ((2 * w.toNat + 1) * n, n, 0), (s.ctx c).vreg b.val, r1.1⟩
      exec (.vcvt2 c px d a b t w rm) s = .next (passed c len ((issued s c len).updCtx c fun x =>
        { x.setV d.val r2.1 with flg := flagAfter x.flg 6 (r1.2 || r2.2) })))) ∧
  (∀ (s : State) (c : CtxId) (d a : SReg) (t : STarget) (rm : Rm) (len : Nat),
    Issues s c (insn 0xDF23 [d.val, a.val, sTargetCode t * 16 + rmCode rm] 0) len →
    (((s.ctx c).sreg a.val).tag.toNat ∈ [1, 3, 4, 5, 6, 7] → ∀ v, (sAddends ((s.ctx c).sreg a.val)).head? = some v →
      let r := toTarget t (rndAt (s.ctx c) rm 0) v
      exec (.scvt c d a t rm) s = .next (passed c len ((issued s c len).updCtx c fun x =>
        { x.setS d.val r.1 with flg := flagAfter x.flg 6 r.2 }))) ∧
    (((s.ctx c).sreg a.val).tag = Tag.fp64 →
      let r := toTarget t (rndAt (s.ctx c) rm 0) (decodeE fmtFp64 ((s.ctx c).sreg a.val).bits.toNat)
      exec (.scvt c d a t rm) s = .next (passed c len ((issued s c len).updCtx c fun x =>
        { x.setS d.val r.1 with flg := flagAfter x.flg 6 r.2 }))) ∧
    (((s.ctx c).sreg a.val).tag ∈ [Tag.mxfp8, Tag.mxfp6, Tag.mxfp4, Tag.mxint8] →
      exec (.scvt c d a t rm) s = .next ((issued s c len).faultCtx c stTag 0))) ∧
  (∀ (s : State) (c : CtxId) (px : Px) (d a b e : VReg) (k r : SReg) (m : MReg) (rm : Rm) (f : Fmt) (len : Nat), px.rep = none →
    (∀ w : BitVec 2, Issues s c ⟨0xDF43, px, [d.val, a.val, w.toNat], 0⟩ len → HoldsFmt s c a .int32 → px.fmt = none ∨ px.fmt = some .int32 →
      exec (.philox c px d a w 0) s = .next (passed c len (putLanes (issued s c len) c px d.val .int32 fun j =>
        (philox (s.ctx c).srkey (lane s c a j) (s.ctx c).srstream (s.ctx c).srstep w.toNat).toNat))) ∧
    (∀ w : BitVec 2, Issues s c ⟨0xDF43, px, [d.val, a.val, 4 + w.toNat], 0⟩ len → HoldsFmt s c a .int32 → px.fmt = none ∨ px.fmt = some .int32 →
      exec (.philox c px d a w 1) s = .next (passed c len (putLanes (issued s c len) c px d.val .fp32 fun j =>
        (roundE fmtFp32 .ieee ⟨.rne, 0⟩ (FVal.scale (-24) (FVal.ofInt
          ((philox (s.ctx c).srkey (lane s c a j) (s.ctx c).srstream (s.ctx c).srstep w.toNat).toNat / 256 : Nat)))).1))) ∧
    (∀ w : BitVec 2, Issues s c ⟨0xDF43, px, [d.val, a.val, 8 + w.toNat], 0⟩ len → HoldsFmt s c a .int32 → px.fmt = none ∨ px.fmt = some .int32 →
      exec (.philox c px d a w 2) s = .next (passed c len (putLanes (issued s c len) c px d.val .fp32 fun j =>
        (roundE fmtFp32 .ieee ⟨.rne, 0⟩ (FVal.scale (-24) (FVal.ofInt
          ((philox (s.ctx c).srkey (lane s c a j) (s.ctx c).srstream (s.ctx c).srstep w.toNat).toNat / 256 + 1 : Nat)))).1))) ∧
    (∀ n : Int, ∀ js, Issues s c ⟨0xDF44, px, [d.val, a.val, k.val], 0⟩ len → FmtIs s c px a f → f = .fp32 ∨ f = .int32 → HoldsFmt s c a f →
      HoldsInt s c k (BitVec.ofInt 64 n) → -(2 ^ 63) ≤ n → n < 2 ^ 63 → Ranked f ((s.ctx c).vreg a.val) (activeLanes s c px) js →
      exec (.vtopk c px d a k) s = .next (passed c len ((issued s c len).updCtx c fun x =>
        { x.setV d.val { lanes := lanesOf fun j => if (j : Int) < n then js.getD j (2 ^ 32 - 1) else 2 ^ 32 - 1,
                         scale := (x.vreg d.val).scale, tag := .fmt .int32 } with flg := flagAfter x.flg 0 (decide (n ≤ 0)) }))) ∧
    (∀ excl : Bool, Issues s c ⟨0xDF45, px, [d.val, a.val, (if excl then 8 else 0) + rmCode rm], 0⟩ len → FmtIs s c px a f → HoldsFmt s c a f →
      (f = .int32 → rm = .rne →
        exec (.vscan c px d a excl rm) s = .next (passed c len (putLanes (issued s c len) c px d.val f fun j =>
          ofSigned 32 (((List.range (if excl then j else j + 1)).filter (laneOn (s.ctx c) px)).foldl
            (fun t l => t + toSigned 32 (lane s c a l)) 0)))) ∧
      (f = .fp32 → exec (.vscan c px d a excl rm) s = .next (passed c len (putLanes (issued s c len) c px d.val f fun j =>
        rounded s c .fp32 rm j (sumF rm (((List.range (if excl then j else j + 1)).filter (laneOn (s.ctx c) px)).map (f32 s c a))))))) ∧
    (Issues s c ⟨0xDF46, px, [r.val, a.val, b.val], 0⟩ len → HoldsFmt s c a .fp32 → HoldsFmt s c b .fp32 →
      exec (.vsample c px r a b) s = .next (passed c len ((issued s c len).updCtx c (
        match (List.range 128).find? fun j => !(f32 s c a j).isNan && !(f32 s c b 0).isNan && FVal.cmp (f32 s c b 0) (f32 s c a j) == .lt with
        | some j => writesSZ r (TWord.int (BitVec.ofNat 64 j)) false
        | none => writesSZ r (TWord.int (BitVec.allOnes 64)) true)))) ∧
    (Issues s c ⟨0xDF47, px, [d.val, a.val, b.val, rmCode rm], 0⟩ len → FmtIs s c px a .fp32 → HoldsFmt s c a .fp32 → HoldsFmt s c b .fp32 →
      exec (.vpenal c px d a b rm) s = .next (passed c len (putLanes (issued s c len) c px d.val .fp32 fun j =>
        rounded s c .fp32 rm j (if !(f32 s c a j).isNan && FVal.cmp (.zero false) (f32 s c a j) != .gt
          then FVal.div (f32 s c a j) (f32 s c b j) else FVal.mul (f32 s c a j) (f32 s c b j))))) ∧
    (Issues s c ⟨0xDF48, px, [m.val, a.val, b.val, e.val], 0⟩ len → FmtIs s c px a .fp32 → HoldsFmt s c a .fp32 → HoldsFmt s c b .fp32 →
      HoldsFmt s c e .fp32 →
      exec (.vaccept c px m a b e) s = .next (passed c len ((issued s c len).updCtx c (writesMask s c px m fun j =>
        let x := FVal.mul (f32 s c e j) (f32 s c b j)
        !x.isNan && !(f32 s c a j).isNan && FVal.cmp x (f32 s c a j) == .lt)))))

/-- sem.add adds modulo 2⁶⁴, sem.set writes, sem.rd reads, sem.wait subtracts at once when the value suffices and nobody waits before it, or
waits in WAIT_SEM at the end of the queue; sem.wait of 0 completes at once.
Waiters of a semaphore are served strictly in arrival order: the first is served when its value is reached, and while the first asks
for more than the value nobody behind it is served.
bar.arrive records an arrival and goes on, bar.sync then waits in WAIT_BAR while the phase is incomplete, and bar.wait completes at once
when the context has no arrival in an open phase and waits otherwise; a unit of another Peck gives ST_HANDLE_RIGHTS.
A phase completes when its arrivals reach COUNT: PHASE advances by one modulo 2¹⁶ and ARRIVED returns to 0. -/
def Obligations.SemaphoresAndBarriers : Prop :=
  (∀ (s : State) (c : CtxId) (ord : Bool) (a : SReg) (n : BitVec 6) (v : Word) (len : Nat), HoldsInt s c a v →
    (Issues s c (insnOrd 0xC3 ord [a.val] n.toNat) len → NoWaiter s c.eng n.toNat →
      exec (.semAdd c ord a n) s = .next (passed c len (withSem (issued s c len) c.eng n.toNat ((s.eng c.eng.val).sem n.toNat + v)))) ∧
    (Issues s c (insnOrd 0xC6 ord [a.val] n.toNat) len → NoWaiter s c.eng n.toNat →
      exec (.semSet c ord a n) s = .next (passed c len (withSem (issued s c len) c.eng n.toNat v))) ∧
    (Issues s c (insn 0xC5 [a.val] n.toNat) len →
      exec (.semRd c a n) s = .next (passed c len ((issued s c len).updCtx c (writesS a (TWord.int ((s.eng c.eng.val).sem n.toNat)))))) ∧
    (Issues s c (insn 0xC4 [a.val] n.toNat) len →
      (v = 0 → exec (.semWait c a n) s = .next (passed c len (issued s c len))) ∧
      (v ≠ 0 → v.toNat ≤ ((s.eng c.eng.val).sem n.toNat).toNat → NoWaiter s c.eng n.toNat →
        exec (.semWait c a n) s = .next (passed c len
          (withSem (issued s c len) c.eng n.toNat ((s.eng c.eng.val).sem n.toNat - v)))) ∧
      (v ≠ 0 → (((s.eng c.eng.val).sem n.toNat).toNat < v.toNat ∨ ¬NoWaiter s c.eng n.toNat) →
        exec (.semWait c a n) s = .next (waiting c len (((issued s c len).updEng c.eng.val fun x =>
          { x with semQ := x.semQ ++ [⟨c.slot.val, n.toNat, v⟩] }).updCtx c fun y => { y with state := .waitSem, wait := .sem n.toNat }))))) ∧
  (∀ (s : State) (e : Fin 128) (n : Nat) (w : SemWaiter) (ws : List SemWaiter), (s.eng e.val).semQ = w :: ws → w.sem = n → w.slot < 8 →
    (((s.eng e.val).sem n).toNat < w.need.toNat → serveSem s e n = s) ∧
    (w.need.toNat ≤ ((s.eng e.val).sem n).toNat → w ∉ ws → (∀ v ∈ ws, v.sem = n → ((s.eng e.val).sem n - w.need).toNat < v.need.toNat) →
      serveSem s e n = wakePast (s.updEng e.val fun x => { x.setSem n (x.sem n - w.need) with semQ := ws }) ⟨e, Fin.ofNat 8 w.slot⟩)) ∧
  (∀ (s : State) (c : CtxId) (u : BarUnit) (len : Nat),
    let n := unitNo c.eng u
    (BarReady s c n → (s.bar n).arrived.toNat + 1 < (s.bar n).count.toNat →
      (Issues s c (insn 0xC7 [] (unitImm u)) len →
        exec (.barArrive c u) s = .next (passed c len (arrivedAt (issued s c len) c n))) ∧
      (Issues s c (insn 0xC9 [] (unitImm u)) len →
        exec (.barSync c u) s = .next (waiting c len ((arrivedAt (issued s c len) c n).updCtx c fun y =>
          { y with state := .waitBar, wait := .bar n false })))) ∧
    (BarReady s c n → Issues s c (insn 0xC8 [] (unitImm u)) len → exec (.barWait c u) s = .next (passed c len (issued s c len))) ∧
    ((s.bar n).peck = (s.ctx c).peck → (s.bar n).pair = false → tblGet false (s.ctx c).arrived n = true →
      Issues s c (insn 0xC8 [] (unitImm u)) len →
      exec (.barWait c u) s = .next (waiting c len ((issued s c len).updCtx c fun y => { y with state := .waitBar, wait := .bar n false }))) ∧
    ((s.bar n).peck ≠ (s.ctx c).peck → Issues s c (insn 0xC7 [] (unitImm u)) len →
      exec (.barArrive c u) s = .next ((issued s c len).faultCtx c stRights 0))) ∧
  (∀ (s : State) (u : Nat), (s.bar u).pair = false → (s.bar u).remote = 0 → (s.bar u).held = none →
    ((s.bar u).arrived.toNat < (s.bar u).count.toNat → barCheck s u = s) ∧
    ((s.bar u).count.toNat ≤ (s.bar u).arrived.toNat →
      ((barCheck s u).bar u).phase = (s.bar u).phase + 1 ∧ ((barCheck s u).bar u).arrived = 0 ∧
      ((barCheck s u).bar u).count = (s.bar u).count ∧ (∀ v, v ≠ u → (barCheck s u).bar v = s.bar v) ∧
      (∀ c : CtxId, (s.ctx c).wait = .bar u false → (tblGet Ctx.free (s.eng c.eng.val).ctxs c.slot.val) ≠ Ctx.free → s.engines.Pairwise (fun a b => a.1 < b.1) →
        (∀ e ∈ s.engines, e.1 < 128 ∧ e.2.ctxs.Pairwise (fun a b => a.1 < b.1) ∧ ∀ k ∈ e.2.ctxs, k.1 < 8) →
        ((barCheck s u).ctx c).wait = .done)))

/-- cpy queues the copy that a descriptor describes when every check of R172 passes and the queue has room: the queue ends with it, the next
copy number and the queue's sequence advance, and nothing moves yet; an ordered cpy holds its context in WAIT_COPY; a descriptor that fails a
check faults the cpy with its status and queues nothing.
The first checks of a descriptor come in the order of R172: a POISON or 0xE word before the tags, the tags before a reserved OP.
A cpy whose descriptor is POISON, mis-tagged or names a reserved OP faults with the status and queues nothing.
cpystat reads a queue's status word under INT64 and clears it; cpywait and fence go on at once when no copy of the context is open, on the
queue or at all, and otherwise wait in WAIT_COPY.
sem.add with the ordered prefix waits in WAIT_COPY while a copy of its context is open; ORDERED_START starts an instruction that waits so,
and CONTEXT_READY makes a context READY whose event has come, or that waits at a fence with no copy open, and leaves one that waits at a fence
with a copy open. -/
def Obligations.CopyInstructions : Prop :=
  (∀ e ∈ copyRowsOf, ∀ (s : State) (c : CtxId) (ord : Bool) (q : Fin 4) (h : HReg) (a : SReg) (p len : Nat),
    Issues s c (insnOrd 0xC0 ord [q.val, h.val, a.val] 0) len → DescAt s c h a p → (∀ k, k < 8 → Clean s (p + 8 * k)) →
    descOp (descWords (issued s c len) p) = .ok e.2 → descOp (descWords s p) = .ok e.2 → (issued s c len).settle p 64 = issued s c len →
    (s.settle p 64).mem = s.mem →
    (∀ k, checkDesc s (descWords (issued s c len) p) = .ok k → k.dst.kind ≠ .remote → ((s.eng c.eng.val).queue q.val).length < 64 →
      (∀ w ∈ (s.eng c.eng.val).queueQ, w.q ≠ q.val) →
      ∃ t, exec (e.1 c ord q h a) s = .next (passed c len t) ∧ t.nextCopy = s.nextCopy + 1 ∧ t.mem = (issued s c len).mem ∧
        (t.eng c.eng.val).queue q.val = (s.eng c.eng.val).queue q.val ++ [queuedCopy s c ord q.val k] ∧
        (ord = true → (t.ctx c).state = .waitCopy ∧ (t.ctx c).wait = .ordCopy s.nextCopy) ∧ (ord = false → (t.ctx c).state = .running)) ∧
    (∀ st, checkDesc s (descWords (issued s c len) p) = .error st → exec (e.1 c ord q h a) s = .next ((issued s c len).faultCtx c st 0))) ∧
  (∀ (s : State) (ws : List TWord), ws.length = 8 →
    ((∃ w ∈ ws, w.tag = Tag.poison ∨ w.tag = Tag.rsvd) → checkDesc s ws = .error stPoison) ∧
    ((∀ w ∈ ws, w.tag ≠ Tag.poison ∧ w.tag ≠ Tag.rsvd) →
      (∃ i ∈ [0, 2, 4, 5, 6, 7], (ws.getD i TWord.zero).tag ≠ Tag.int64 ∧ (ws.getD i TWord.zero).tag ≠ Tag.nil) →
      checkDesc s ws = .error stTag) ∧
    ((∀ w ∈ ws, w.tag ≠ Tag.poison ∧ w.tag ≠ Tag.rsvd) →
      (∀ i ∈ [0, 2, 4, 5, 6, 7], (ws.getD i TWord.zero).tag = Tag.int64 ∨ (ws.getD i TWord.zero).tag = Tag.nil) →
      2 < ((ws.getD 0 TWord.zero).bits.extractLsb' 16 8).toNat → checkDesc s ws = .error stUndef)) ∧
  (∀ (s : State) (c : CtxId) (ord : Bool) (q : Fin 4) (h : HReg) (a : SReg) (p len : Nat) (st : Status),
    Issues s c (insnOrd 0xC0 ord [q.val, h.val, a.val] 0) len → DescAt s c h a p →
    descOp (descWords (s.settle p 64) p) = .error st → descOp (descWords ((issued s c len).settle p 64) p) = .error st →
    exec (.cpyRefused c ord q h a) s = .next (((issued s c len).settle p 64).faultCtx c st 0)) ∧
  (∀ (s : State) (c : CtxId) (d : SReg) (q : Fin 4) (len : Nat),
    let k := tblGet CpyStat.clear (s.ctx c).cpystat q.val
    (Issues s c (insn 0xC1 [d.val] q.val) len →
      exec (.cpystat c d q) s = .next (passed c len ((issued s c len).updCtx c fun x =>
        { x.setS d.val (TWord.int (k.faultoff ++ k.seq ++ k.errcount ++ k.status)) with
          cpystat := tblSet CpyStat.clear x.cpystat q.val CpyStat.clear }))) ∧
    (Issues s c (insn 0xC2 [] q.val) len →
      ((∀ x ∈ (s.eng c.eng.val).queue q.val, x.slot ≠ c.slot.val) → exec (.cpywait c q) s = .next (passed c len (issued s c len))) ∧
      ((∃ x ∈ (s.eng c.eng.val).queue q.val, x.slot = c.slot.val) →
        exec (.cpywait c q) s = .next (waiting c len ((issued s c len).updCtx c fun y =>
          { y with state := .waitCopy, wait := .cpywait q.val })))) ∧
    (Issues s c (insn 0xCA [] 0) len →
      (copiesOpen s c = false → exec (.fence c) s = .next (passed c len (issued s c len))) ∧
      (copiesOpen s c = true → exec (.fence c) s = .next (waiting c len ((issued s c len).updCtx c fun y =>
        { y with state := .waitCopy, wait := .fence }))))) ∧
  (∀ (s : State) (c : CtxId),
    (∀ (a : SReg) (n : BitVec 6) (len : Nat), canIssue s c = true → decodeAt s c = .ok (insnOrd 0xC3 true [a.val] n.toNat, len) →
      copiesOpen s c = true → exec (.semAdd c true a n) s = .next ((settleFetch s c len).updCtx c fun x =>
        { x with state := .waitCopy, wait := .order, ilen := len })) ∧
    ((s.ctx c).wait = .order → copiesOpen s c = false →
      exec (.orderedStart c) s = .next (s.updCtx c fun x => { x with state := .running, wait := .none })) ∧
    ((s.ctx c).wait = .done → exec (.contextReady c) s = .next (s.updCtx c fun x => { x with state := .ready, wait := .none })) ∧
    ((s.ctx c).wait = .fence → copiesOpen s c = true → exec (.contextReady c) s = .next s) ∧
    ((s.ctx c).wait = .fence → copiesOpen s c = false → exec (.contextReady c) s = .next ((wakePast s c).updCtx c fun x =>
      { x with state := .ready, wait := .none })))

/-! ## What every step keeps -/

namespace Sys2Proof.Spec

/-- The rows of the Sorryn instruction set (R90 to R155), with the events by which a waiting or a faulting context goes on (R93, R156). -/
def ofContext (c : Instr) : Bool :=
  match c with
  | .nop .. | .mov .. | .movi .. | .movi64 .. | .add .. | .sub .. | .mul .. | .mulh .. | .mulhu .. | .div .. | .divu .. | .rem .. | .remu ..
  | .and_ .. | .or_ .. | .xor_ .. | .shl .. | .shr .. | .sar .. | .rol .. | .min_ .. | .max_ .. | .minu .. | .maxu .. | .cmp .. | .tst ..
  | .neg .. | .not_ .. | .clz .. | .ctz .. | .popc .. | .bswap .. | .addi .. | .muli .. | .andi .. | .ori .. | .xori .. | .shli .. | .shri ..
  | .sari .. | .roli .. | .cmpi .. | .tsti .. | .sxtB .. | .sxtH .. | .sxtW .. | .zxtB .. | .zxtH .. | .zxtW .. | .retag .. | .tagof ..
  | .bCc .. | .call_ .. | .jr .. | .callr .. | .ret .. | .dbnz .. | .setcc .. | .csel .. | .rdflg .. | .wrflg .. | .clrflg .. | .ldB ..
  | .ldH .. | .ldW .. | .ldD .. | .ldBs .. | .ldHs .. | .ldWs .. | .stB .. | .stH .. | .stW .. | .stD .. | .vld .. | .vst .. | .vldsc ..
  | .vstsc .. | .ldh .. | .sth .. | .h2s .. | .s2h .. | .hderive .. | .hcheck .. | .hlen .. | .amoAdd .. | .amoAnd .. | .amoOr .. | .amoXor ..
  | .amoSwap .. | .amoMin .. | .amoMax .. | .amoCas .. | .retagM .. | .vadd .. | .vsub .. | .vmul .. | .vfma .. | .vfms .. | .vfnma ..
  | .vmin .. | .vmax .. | .vabs .. | .vneg .. | .vdiv .. | .vsqrt .. | .vrsqrt .. | .vrcp .. | .vexp2 .. | .vlog2 .. | .vdot .. | .vcmpEq ..
  | .vcmpLt .. | .vcmpLe .. | .vcmpUn .. | .vsel .. | .vand .. | .vor .. | .vxor .. | .vshl .. | .vshr .. | .vsar .. | .vmov .. | .vsplat ..
  | .vsplati .. | .vlane .. | .vredmax .. | .vredmin .. | .vargmax .. | .vargmin .. | .vperm .. | .vrot .. | .vext .. | .vins .. | .mand ..
  | .mor .. | .mxor .. | .mnot .. | .mset .. | .mpop .. | .mfirst .. | .mfromv .. | .copy .. | .copy2d .. | .fill .. | .cpystat .. | .cpywait ..
  | .semAdd .. | .semWait .. | .semRd .. | .semSet .. | .barArrive .. | .barWait .. | .barSync .. | .fence .. | .sysr .. | .sysw .. | .yield_ ..
  | .halt .. | .rdcst .. | .xclr .. | .xacc .. | .xaccS .. | .xaccp .. | .xmerge .. | .xmov .. | .xld .. | .xst .. | .xrd .. | .xcnt ..
  | .xstat .. | .vcvt .. | .vcvt2 .. | .vcvth .. | .scvt .. | .rngRd .. | .rngWr .. | .rngStep .. | .philox .. | .vtopk .. | .vscan ..
  | .vsample .. | .vpenal .. | .vaccept .. | .contextReady .. | .orderedStart .. | .accumulatorWaitEnd .. | .reservedEncoding ..
  | .fetchFault .. | .cpyRefused .. => true
  | _ => false

end Sys2Proof.Spec

/-- A step that runs an instruction of a context, and an idle step, keep memory in its canonical form (keys rising, no entry equal to what an
unlisted address reads as), from every state that has it. -/
def Obligations.MemoryStaysCanonical : Prop :=
  ∀ (s t : State), (∀ c ∈ s.pending.head?, ofContext c = true) → s.Inv → step s = .next t → t.Inv

namespace Sys2Proof.Spec

/-- A doorbell write of 32-bit PI `pi` to ring `r` of the manager (0) or a Peck (R382): a disabled ring ignores and counts it; the ring's
own PI changes nothing; a PI at or ahead of it by no more than the ring's slots from CI is taken, and the time of the write with it; any
other puts the ring in error and is reported. -/
abbrev RingDoorbell (s : State) (p r : Nat) (w : Word) (t : State) : Prop :=
  let k := 16 * p + r
  let x := s.ring k
  let pi := w.setWidth 32
  let good := decide (fld w 32 32 = 0 ∧ (pi - x.ci).toNat ≤ 2 ^ x.log2 ∧ (x.pi - x.ci).toNat ≤ (pi - x.ci).toNat)
  (x.en = false → t = s.errWr) ∧
  (x.en = true → fld w 32 32 = 0 → pi = x.pi → t = s) ∧
  (x.en = true → good = true → pi ≠ x.pi → t = s.setRing k { x with pi := pi, bells := (t.ring k).bells }) ∧
  (x.en = true → good = false → ¬(fld w 32 32 = 0 ∧ pi = x.pi) →
    t = (let u := s.setRing k { x with error := true }
         let u := if p = 0 then u else u.peckEvent p sevWarn evRingError (BitVec.ofNat 64 (r + p * 256)) w
         u.mgrEvent sevWarn evRingError (BitVec.ofNat 64 (r + p * 256)) w))

/-- A ring's reset (R383): its undispatched items complete with the status, in ring order, and PI, CI and the error flag are 0. -/
def ringReset (s : State) (p r : Nat) (st : Status) : State :=
  (((s.ring (16 * p + r)).waiting.foldl (fun u n => u.completeItem { itemOf p r (s.ring (16 * p + r)) n with id := u.nextItem } st 0 0) s)).setRing
    (16 * p + r) { s.ring (16 * p + r) with pi := 0, ci := 0, error := false, gone := [] }

end Sys2Proof.Spec

/-- Rings: a doorbell of a ring moves PI to the value written, or is refused as R382 says, and a write to its high half does nothing; dispatch takes the
next published descriptor: CI advances (R384), a POISON or 0xE word, or the first failing check of R389, completes it with that status, and a good
one becomes a work item with its TYPE, TAG and body (R385, R387); the ring-reset rows reset their ring (R383); a configuration write takes effect
when it is legal and is counted when not, and enabling sets PI and CI to 0 (R380); a window write stores its word under NIL (R381), and a poisoned
one is discarded and counted (R436); NOP completes; LOG_READ writes the entry asked for, or the oldest held, and RESULT is a free value where
nothing is held (R388). -/
def Obligations.RingCommands : Prop :=
  (∀ (r : Fin 4) (part : RegPart) (v : Word) (s : State), Ready s → part ≠ .high →
    Gives (.ringMdb r part v) s (RingDoorbell s 0 r.val (ovr part 0 v))) ∧
  (∀ (r : Fin 4) (v : Word) (s : State), Ready s → exec (.ringMdb r .high v) s = .next s) ∧
  (∀ (vf : Fin 256) (r : Fin 16) (part : RegPart) (v : Word) (p : Nat) (s : State), Ready s → part ≠ .high → s.vfPeck vf.val = some p → p ≠ 0 →
    Gives (.vfDb vf r part v) s (RingDoorbell s p r.val (ovr part 0 v))) ∧
  (∀ (vf : Fin 256) (r : Fin 16) (v : Word) (s : State), Ready s → exec (.vfDb vf r .high v) s = .next s) ∧
  (∀ (p : Fin 256) (r : Fin 16) (n : BitVec 32) (ns : List (BitVec 32)) (s : State), canDispatch s p.val r.val = true →
    (s.ring (16 * p.val + r.val)).waiting = n :: ns →
    Gives (.ringDispatch p r) s fun t =>
      let x := s.ring (16 * p.val + r.val)
      let i := { itemOf p.val r.val x n with id := s.nextItem }
      let u := { s.setRing (16 * p.val + r.val) { x with ci := n + 1, gone := x.gone.filter fun m => m ≠ n } with nextItem := s.nextItem + 1 }
      let bad := (List.range 8).any fun w => (x.word n w).tag == Tag.poison || (x.word n w).tag == Tag.rsvd
      let st := descStatus p.val (x.word n 0).bits i.body
      (bad = true → t = u.completeItem i stPoison (BitVec.ofNat 64 (n.toNat % 2 ^ x.log2)) 0) ∧
      (bad = false → st ≠ stOk → t = u.completeItem i st 0 0) ∧
      (bad = false → st = stOk → (t.ring (16 * p.val + r.val)).ci = n + 1 ∧
        t.items.dropLast = s.items ∧ (t.items.getLast?.map fun j => (j.id, j.fn, j.ring, j.typ, j.tag, j.body, j.phase)) =
          some (s.nextItem, p.val, r.val, i.typ, i.tag, i.body, .dispatched))) ∧
  (∀ (vf : Fin 256) (r : Fin 16) (part : RegPart) (v : Word) (p : Nat) (s : State), Ready s → s.vfPeck vf.val = some p → fld (ovr part 0 v) 0 1 = 1 →
    exec (.vfRreset vf r part v) s = .next (ringReset s p r.val stAborted)) ∧
  (∀ (r : Fin 4) (part : RegPart) (v : Word) (s : State), Ready s → fld (ovr part 0 v) 5 1 = 1 →
    exec (.ringReset r part v) s = .next (ringReset s 0 r.val stAborted)) ∧
  (∀ (p : Fin 256) (r : Fin 16) (part : RegPart) (v : Word) (s : State), Ready s → (p.val ≠ 0 ∨ (r.val < 4 ∧ fld (ovr part 0 v) 5 1 = 0)) →
    Gives (.ringCfgWrite p r part v) s fun t =>
      let x := s.ring (16 * p.val + r.val)
      let w := ovr part (ringCfgWord p.val x) v
      let new := { x with log2 := fld w 0 4, en := fld w 4 1 == 1, offset := if p.val = 0 then r.val * 16 else fld w 8 10 }
      let new := if new.en && !x.en then { new with pi := 0, ci := 0, error := false, gone := [] } else new
      (ringCfgOk s p.val r.val new = true → t = s.setRing (16 * p.val + r.val) new) ∧ (ringCfgOk s p.val r.val new = false → t = s.errWr)) ∧
  (∀ (vf : Fin 256) (off k j : Nat) (data : List Byte) (p : Nat) (s : State), Ready s → (vf.val = 0 ∧ p = 0 ∨ vf.val ≠ 0 ∧ s.vfPeck vf.val = some p) →
    data.length = 8 → off % 8 = 0 → windowSlot s p off = some (k, j) →
    exec (.ringWindowWrite vf off data false) s =
      .next (s.setRing k { s.ring k with words := tblSet TWord.zero (s.ring k).words j ⟨BitVec.ofNat 64 (natOfBytes data), Tag.nil⟩ })) ∧
  (∀ (vf : Fin 256) (off : Nat) (data : List Byte) (s : State), Ready s → vf.val = 0 →
    exec (.ringWindowWrite vf off data true) s = .next (s.errWr.setFn 0 { s.fn 0 with aerPoison := true })) ∧
  (∀ (id : Nat) (i : Item) (s : State), Request s id 0x0001 i → exec (.nopRequest id) s = .next (s.completeItem i stOk 0 0)) ∧
  (∀ (id : Nat) (i : Item) (s : State), Request s id 0x0004 i →
    Gives (.logRead id) s fun t =>
      let first := max (i.w 1).toNat (s.logpi - 131072)
      ((i.w 2).toNat = 1 → first < s.logpi →
        t = (s.hostWrite i.fn (i.w 0) (recBytes (tblGet ⟨0, 0, 0, 0, 0, 0, 0⟩ s.log first) false false) false).completeItem i stOk
          (BitVec.ofNat 64 first) 1) ∧
      (s.logpi ≤ (i.w 1).toNat → t = ({ s with free := s.free + 1 }).completeItem i stOk (Config.freeWord s.free) 0))

namespace Sys2Proof.Spec

/-- A Spring's CI takes the low half of the write, and the Spring writes what it then has room for (R392, R394). -/
def springCI (s : State) (k p sp : Nat) (v : Word) : State := (s.setSpring k { s.spring k with ci := v.setWidth 32 }).drain p sp

/-- The vector of a function is held: its pending bit is set and the hold is counted; otherwise one message goes out and is counted (R369). -/
abbrev Signals (s : State) (f v : Nat) (t : State) : Prop :=
  let x := s.fn f
  let held := !x.msixEn || x.fmask || (x.vec v).mask || !x.bme || x.d3
  (held = true → t = (s.setFn f (x.setVec v { x.vec v with pending := true })).bump rHeld 1) ∧
  (held = false → t = (s.emit (.msix f v (x.vec v).addr (x.vec v).data)).bump rMsgs 1)

end Sys2Proof.Spec

/-- Springs and vectors: a write of CI moves it (R394, R404, R407); a manager Spring keeps its BASE while enabled, refuses CFG outside its ranges, and
starts with PI and CI 0 (R393, R407); the delay of a signal ends in one message (R394); SPRING_CFG disables, refuses a location that is not HOST,
not writable, not page-aligned or too short, or enables a Spring there (R393); a message that an unmasked vector owes is sent (R369); INTC_TEST
signals the vector it names, or counts a vector or function that is not there (R379). -/
def Obligations.SpringAndVectorCommands : Prop :=
  (∀ (vf : Fin 256) (sp : Fin 16) (part : RegPart) (v : Word) (p : Nat) (s : State), Ready s → s.vfPeck vf.val = some p → part ≠ .high →
    exec (.vfSprci vf sp part v) s = .next (springCI s (16 * p + sp.val) p sp.val v)) ∧
  (∀ (sp : Fin 16) (part : RegPart) (v : Word) (s : State), Ready s → part ≠ .high →
    exec (.sprgCiWrite sp part v) s = .next (springCI s sp.val 0 sp.val v)) ∧
  (∀ (sp : Fin 16) (part : RegPart) (v : Word) (s : State), Ready s →
    Gives (.sprgCfgWrite sp true part v) s fun t =>
      ((s.spring sp.val).en = true → t = s.errWr) ∧
      ((s.spring sp.val).en = false →
        t = s.setSpring sp.val { s.spring sp.val with base := ovr part (s.spring sp.val).base v &&& ~~~0xFFF#64 })) ∧
  (∀ (sp : Fin 16) (v : Word) (s : State), Ready s →
    Gives (.sprgCfgWrite sp false .full v) s fun t =>
      let x := s.spring sp.val
      let y := { x with en := v.getLsbD 0, events := v.getLsbD 1, log2 := fld v 8 5, vector := fld v 16 11, count := fld v 32 8, delay := fld v 48 10 }
      let fits := decide (6 ≤ y.log2 ∧ y.log2 ≤ 16 ∧ 1 ≤ y.count)
      (v.getLsbD 0 = true → (x.en = true ∨ fits = false) → t = s.errWr) ∧
      (v.getLsbD 0 = true → x.en = false → fits = true →
        t = (s.setSpring sp.val { y with pi := 0, ci := 0, unsig := 0, first := none, loc := none }).drain 0 sp.val) ∧
      (v.getLsbD 0 = false → t = s.setSpring sp.val y)) ∧
  (∀ (p : Fin 256) (sp : Fin 16) (t0 : Nat) (s : State), (s.spring (16 * p.val + sp.val)).first = some t0 →
    t0 + (s.spring (16 * p.val + sp.val)).delay * 1000 ≤ s.time →
    Gives (.springDelayExpiry p sp) s
      (Signals (s.setSpring (16 * p.val + sp.val) { s.spring (16 * p.val + sp.val) with unsig := 0, first := none }) (s.fnOf p.val)
        (s.spring (16 * p.val + sp.val)).vector)) ∧
  (∀ (id : Nat) (i : Item) (s : State), Request s id 0x0003 i →
    Gives (.springCfg id) s fun t =>
      let w := i.w 0
      let k := 16 * i.fn + fld w 0 4
      let r := i.ref 0
      (fld w 8 1 = 0 → t = (s.setSpring k { s.spring k with en := false }).completeItem i stOk 0 0) ∧
      (fld w 8 1 = 1 → r.st ≠ stOk → t = s.completeItem i r.st 0 0) ∧
      (fld w 8 1 = 1 → r.st = stOk → (r.loc.kind ≠ .host ∨ hasRight r.h rightWr = false ∨ (i.w 2).toNat % 4096 ≠ 0 ∨
          r.loc.len.toNat < (i.w 2).toNat + 2 ^ fld w 40 8 * 32) → t = s.completeItem i stRights 0 0) ∧
      (fld w 8 1 = 1 → r.st = stOk → r.loc.kind = .host → hasRight r.h rightWr = true → (i.w 2).toNat % 4096 = 0 →
        (i.w 2).toNat + 2 ^ fld w 40 8 * 32 ≤ r.loc.len.toNat →
        t = ((s.setSpring k {
          s.spring k with en := true, events := w.getLsbD 9, log2 := fld w 40 8, vector := fld w 16 16, count := fld w 32 8,
                          delay := fld w 48 16, base := r.loc.base + i.w 2, loc := some r.loc, pi := 0, ci := 0, unsig := 0,
                          first := none }).completeItem i stOk 0 0).drain i.fn (fld w 0 4))) ∧
  (∀ (f : Nat) (b : Bool) (s : State),
    Gives (.msixUnmask f (.enable b)) s fun t => (t.fn f).msixEn = b ∧ (t.fn f).fmask = (s.fn f).fmask) ∧
  (∀ (f v : Nat) (addr : Word) (data : BitVec 32) (s : State), f ≠ 0 → s.pfPeck f = none → (s.fn f).vecs = [(v, ⟨0, 0, true, true⟩)] →
    (s.fn f).msixEn = true → (s.fn f).fmask = false → (s.fn f).bme = true → (s.fn f).d3 = false →
    Gives (.msixUnmask f (.entry v addr data false)) s fun t =>
      t.out = .msix f v addr data :: s.out ∧ ((t.fn f).vec v).pending = false ∧ t.reg rMsgs = s.reg rMsgs + 1) ∧
  (∀ (part : RegPart) (v : Word) (s : State), Ready s → part ≠ .high →
    Gives (.intcTestWrite part v) s fun t =>
      let f := fld (ovr part 0 v) 16 8
      let vec := fld (ovr part 0 v) 0 11
      (f ≠ 0 → (64 ≤ vec ∨ (s.fn f).enabled = false) → t = s.errWr) ∧
      ((f = 0 ∨ (vec < 64 ∧ (s.fn f).enabled = true)) → Signals s f vec t))

namespace Sys2Proof.Spec

/-- The manager driver is detached with a cause: DRIVER_LOST is logged, its Springs are disabled, MGR_STAT shows the cause (R400, R401). -/
abbrev Detached (s : State) (cause : Nat) (t : State) : Prop :=
  t.attached = false ∧ fld (t.reg rMgrStat) 0 1 = 0 ∧ fld (t.reg rMgrStat) 8 8 = cause ∧ fld (t.reg rMgrStat) 32 32 = fld (s.reg rMgrStat) 32 32 ∧
  (∀ sp, sp < 16 → (t.spring sp).en = false) ∧ (∀ k, k < 4096 → 16 ≤ k → t.spring k = s.spring k) ∧ t.logpi = s.logpi + 1 ∧
  tblGet ⟨0, 0, 0, 0, 0, 0, 0⟩ t.log s.logpi =
    evRec s sevWarn evDriverLost (BitVec.ofNat 64 cause) (BitVec.ofNat 64 (fld (s.reg rMgrStat) 32 32)) ∧
  t.mem = s.mem ∧ t.rings = s.rings ∧ t.items = s.items

end Sys2Proof.Spec

/-- The manager driver: attaching with a new EPOCH, or detaching with cause 5 while attached (R400, R402); heartbeats; detaching by a write
(cause 1) or by silence for PERIOD (cause 0) (R400). -/
def Obligations.ManagerDriver : Prop :=
  (∀ (part : RegPart) (v : Word) (s : State), Ready s → s.attached = true → Gives (.ringAttach part v) s (Detached s 5)) ∧
  (∀ (part : RegPart) (v : Word) (s : State), Ready s → s.attached = false →
    (fld (ovr part 0 v) 0 32 = 0 ∨ fld (ovr part 0 v) 0 32 = fld (s.reg rMgrStat) 32 32) → exec (.ringAttach part v) s = .next s.errWr) ∧
  (∀ (part : RegPart) (v : Word) (s : State), Ready s → s.attached = false → fld (ovr part 0 v) 0 32 ≠ 0 →
    fld (ovr part 0 v) 0 32 ≠ fld (s.reg rMgrStat) 32 32 →
    Gives (.ringAttach part v) s fun t =>
      t.attached = true ∧ t.hbeat = s.time ∧ fld (t.reg rMgrStat) 0 1 = 1 ∧ fld (t.reg rMgrStat) 32 32 = fld (ovr part 0 v) 0 32 ∧
      (fld (ovr part 0 v) 32 1 = 0 → ∀ r, r < 4 → (t.ring r).pi = 0 ∧ (t.ring r).ci = 0 ∧ (t.ring r).error = false) ∧
      (fld (ovr part 0 v) 32 1 = 1 → t.rings = s.rings)) ∧
  (∀ (part : RegPart) (v : Word) (s : State), Ready s →
    exec (.ringHbeat part v) s = .next (if s.attached then { s with hbeat := s.time } else s)) ∧
  (∀ (part : RegPart) (v : Word) (s : State), Ready s → s.attached = true → fld (ovr part 0 v) 0 1 = 1 → Gives (.ringDetach part v) s (Detached s 1)) ∧
  (∀ s : State, s.attached = true → s.hbeat + fld (s.reg rHbCfg) 0 14 * 1000000 ≤ s.time → Gives .mgrHeartbeatTimeout s (Detached s 0)) ∧
  (∀ s : State, s.attached = true → s.time < s.hbeat + fld (s.reg rHbCfg) 0 14 * 1000000 → exec .mgrHeartbeatTimeout s = .next s)
/-- Reads of host and accelerator memory: a completion goes to the service that asked, or is counted and logged when no read awaits it; a read
without a completion in time fails and its tag is quarantined, and released a timeout later (R361, R362); invalidations wait for the reads that
used them (R365); a request at a downstream port goes where ACS and the windows send it (R367). -/
def Obligations.ReadsAndRouting : Prop :=
  (∀ (tag f : Nat) (ok ep : Bool) (data : List Byte) (s : State), (∀ r ∈ s.reads, r.tag ≠ tag) →
    exec (.pcieReadCompletion tag f ok ep data) s = .next ((s.bump rUnexpCpl 1).setFn f { s.fn f with aerUnexp := true })) ∧
  (∀ (tag f t0 : Nat) (ok ep : Bool) (data : List Byte) (r : ReadReq) (s : State), s.reads = [r] → r.tag = tag → r.quar = some t0 → s.atsInv = [] →
    exec (.pcieReadCompletion tag f ok ep data) s =
      .next ((({ s with reads := [] }.bump rUnexpCpl 1).setFn r.fn { s.fn r.fn with aerUnexp := true }).setReg rQuar 0)) ∧
  (∀ (tag f : Nat) (data : List Byte) (r : ReadReq) (s : State), s.reads = [r] → r.tag = tag → r.quar = none → s.atsInv = [] → data.length = r.len →
    exec (.pcieReadCompletion tag f true false data) s =
      .next (fetchPump (settleAll ({ s with reads := [], arrivals := s.arrivals ++ [(r.user, r.off, data)] }.outcome r.user r.off stOk)))) ∧
  (∀ (tag f : Nat) (data : List Byte) (r : ReadReq) (s : State), s.reads = [r] → r.tag = tag → r.quar = none → s.atsInv = [] → data.length = r.len →
    exec (.pcieReadCompletion tag f true true data) s =
      .next (fetchPump (settleAll ((({ s with reads := [] }).setFn r.fn { s.fn r.fn with aerPoison := true }).outcome r.user r.off stPoison)))) ∧
  (∀ (tag f : Nat) (ep : Bool) (data : List Byte) (r : ReadReq) (s : State), s.reads = [r] → r.tag = tag → r.quar = none → s.atsInv = [] →
    exec (.pcieReadCompletion tag f false ep data) s = .next (fetchPump (settleAll ({ s with reads := [] }.outcome r.user r.off stRights)))) ∧
  (∀ (tag : Nat) (r : ReadReq) (s : State), s.reads = [r] → r.tag = tag → r.quar = none → s.atsInv = [] → r.host = true →
    r.sent + (s.fn r.fn).cto * 1000 ≤ s.time →
    exec (.pcieCompletionTimeout tag) s =
      .next (settleAll (((({ s with reads := [{ r with quar := some (s.time + (s.fn r.fn).cto * 1000), user := .none }] }.bump rCplTo 1).setFn r.fn
        { s.fn r.fn with aerTimeout := true }).setReg rQuar 1).outcome r.user r.off stCplTimeout))) ∧
  (∀ (tag t0 : Nat) (r : ReadReq) (s : State), s.reads = [r] → r.tag = tag → r.quar = some t0 → t0 ≤ s.time → s.atsInv = [] →
    exec (.tagQuarantineExpiry tag) s = .next (fetchPump (settleAll ({ s with reads := [] }.setReg rQuar 0)))) ∧
  (∀ (f page n : Nat) (s : State), s.reads = [] → s.atsInv = [] →
    exec (.atsInvalidation f page n) s =
      .next ({ s with ats := s.ats.filter fun e => !(e.1 == f && decide (page ≤ e.2) && decide (e.2 < page + n)) }.emit
        (.signal "INVALIDATION_COMPLETION" [f, page]))) ∧
  (∀ (f page n : Nat) (r : ReadReq) (s : State), s.reads = [r] → s.atsInv = [] → r.host = true → r.fn = f → r.quar = none → 0 < r.len → r.len ≤ 4096 →
    page * 4096 ≤ r.iova.toNat → r.iova.toNat + r.len ≤ (page + n) * 4096 →
    exec (.atsInvalidation f page n) s =
      .next { s with ats := s.ats.filter fun e => !(e.1 == f && decide (page ≤ e.2) && decide (e.2 < page + n)), atsInv := [(f, page, [r.tag])] }) ∧
  (∀ (port : Fin 64) (rid : Nat) (tr : Bool) (a n : Nat) (s : State), portThere s port.val = true → portUpstream (cfgOf s port.val) (port.val % 4) = false →
    pcieLink s port.val = 2 →
    exec (.peerRequest port rid tr a n) s = .next (s.emit (
      match peerRoute s port.val rid tr a n with
      | 66 => .signal "ACS_VIOLATION" [port.val, rid, a]
      | 67 => .completionError 1
      | d => .signal "PEER_ROUTE" [port.val, d, a, n])))

/-- Host accesses to the Mere through PF0 BAR2 (R50, R324, R435, R436): a read outside READY answers zeros; a granted or reserved Gill reads as
zeros and is counted; a POISON word makes the completion poisoned; a poisoned write is discarded and counted; a write of a word leaves it under NIL. -/
def Obligations.MereWindow : Prop :=
  (∀ (off n : Nat) (s : State), 0 < n → off + n ≤ 0x20000000 → s.phase ≠ 2 →
    exec (.bar2Read off n) s = .next (s.emit (.completion (List.replicate n 0) false))) ∧
  (∀ (off : Nat) (s : State), Ready s → off < 0x20000000 → bar2Closed s off = true → s.settle (mereBase + off) 1 = s →
    exec (.bar2Read off 1) s = .next ((s.bump rErrBar2 1).emit (.completion [0] false))) ∧
  (∀ (off : Nat) (s : State), Ready s → off < 0x20000000 → bar2Closed s off = false → s.settle (mereBase + off) 1 = s →
    s.mem.tagAt (mereBase + off) = Tag.poison →
    exec (.bar2Read off 1) s = .next ((s.bump rErrBar2 1).emit (.completion [0] true))) ∧
  (∀ (off : Nat) (s : State), Ready s → off < 0x20000000 → bar2Closed s off = false → s.settle (mereBase + off) 1 = s →
    s.mem.tagAt (mereBase + off) ≠ Tag.poison → s.mem.tagAt (mereBase + off) ≠ Tag.rsvd →
    exec (.bar2Read off 1) s = .next (s.emit (.completion [s.mem.byte (mereBase + off)] false))) ∧
  (∀ (off : Nat) (data : List Byte) (s : State), Ready s → off + data.length ≤ 0x20000000 → data ≠ [] →
    exec (.bar2Write off data true) s = .next ((s.bump rErrBar2 1).setFn 0 { s.fn 0 with aerPoison := true })) ∧
  (∀ (off : Nat) (data : List Byte) (s : State), Ready s → off + 8 ≤ 0x20000000 → off % 8 = 0 → data.length = 8 → bar2Closed s off = true →
    exec (.bar2Write off data false) s = .next (s.bump rErrBar2 1)) ∧
  (∀ (off : Nat) (data : List Byte) (s : State), Ready s → off + 8 ≤ 0x20000000 → off % 8 = 0 → data.length = 8 → bar2Closed s off = false →
    s.mem.tagAt (mereBase + off) ≠ Tag.code →
    Gives (.bar2Write off data false) s fun t =>
      t.mem = s.mem.setWord (mereBase + off) ⟨BitVec.ofNat 64 (natOfBytes data), Tag.nil⟩ ∧ t.regs = s.regs ∧ t.out = s.out)

/-- Ports and functions: a DEVCTL_PORTCFG write is kept for the port's next training, and one with an unknown CFG is refused (R349); a DEVCTL_VHCFG
write with legal ranges is taken and one out of range refused (R377); a trained link shows its rate, width and FLIT mode (R350); DPC fails the reads
to the contained port with ST_CPL_TIMEOUT and logs it, and its release lets the port train (R368); Bus Master Enable cleared, FLR and D3hot fence
the Peck of a VF with ST_FENCED, and change a VF without a Peck only in its function (R370, R372); those of PF0 detach the manager with their cause
(R373); the loss of an upstream link clears its windows, its BARs and its functions' enables (R374), PERST# does so too, and its end trains the port
(R553). -/
def Obligations.PortsAndFences : Prop :=
  (∀ (g : Fin 16) (v : Word) (s : State), s.reg (rPortCfg g.val) = 0 → fld v 0 3 ≤ 4 → fld v 8 16 = 0 →
    (∀ k, k < 4 → pcieLink s (4 * g.val + k) = 0 ∨ 4 * g.val + k ∈ s.pcie.disabled) →
    exec (.devctlPortcfgWrite g .full v) s =
      .next { s with pcie := { s.pcie with next := (s.pcie.next.filter fun e => e.1 ≠ g.val) ++ [(g.val, BitVec.ofNat 64 (fld v 0 3))] } }) ∧
  (∀ (g : Fin 16) (v : Word) (s : State), 5 ≤ fld v 0 3 → exec (.devctlPortcfgWrite g .full v) s = .next s.errWr) ∧
  (∀ (vh : Fin 4) (v : Word) (s : State), (fld v 0 8 = 0 ∨ fld v 16 8 = 0 ∨ 256 < fld v 0 8 + fld v 8 8 ∨ 256 < fld v 16 8 + fld v 24 8) →
    exec (.devctlVhcfgWrite vh .full v) s = .next s.errWr) ∧
  (∀ (vh : Fin 4) (v : Word) (s : State), 1 ≤ fld v 0 8 → 1 ≤ fld v 16 8 → fld v 0 8 + fld v 8 8 ≤ 256 → fld v 16 8 + fld v 24 8 ≤ 256 →
    (s.fn (if vh.val = 0 then 0 else 512 + vh.val)).enabled = false → (s.fn (if vh.val = 0 then 256 else 516 + vh.val)).enabled = false →
    s.pecks = [] → (∀ u : Fin 4, u ≠ vh → fld (s.reg (rVhCfg u.val)) 8 8 = 0 ∧ fld (s.reg (rVhCfg u.val)) 24 8 = 0) →
    exec (.devctlVhcfgWrite vh .full v) s = .next (s.setReg (rVhCfg vh.val) (v &&& 0xFFFFFFFF))) ∧
  (∀ (port : Fin 64) (rate width top : Nat) (flit : Bool) (s : State), s.pcie.next = [] → portWidth (cfgOf s port.val) (port.val % 4) = some top →
    portUpstream (cfgOf s port.val) (port.val % 4) = false → pcieLink s port.val = 1 → s.pcie.disabled = [] → s.pcie.refused = false → s.phase = 2 → width ≤ top → rate ≤ 5 →
    (flit = true ∨ rate ≤ 4) →
    exec (.pcieLinkTrained port rate width flit) s =
      .next (s.setRegField (rPortStat (port.val / 4)) (16 * (port.val % 4)) 16 (2 + rate * 4 + flit.toNat * 32 + width * 64))) ∧
  (∀ (port : Fin 64) (s : State), portThere s port.val = true → portUpstream (cfgOf s port.val) (port.val % 4) = false → pcieLink s port.val = 2 →
    exec (.dpcTrigger port) s = .next (fetchPump
      ((settleAll (failReads (setPortLink s port.val 3) (readTo (setPortLink s port.val 3) port.val) stCplTimeout)).mgrEvent sevWarn evPortContained
        (BitVec.ofNat 64 port.val) 0))) ∧
  (∀ (port : Fin 64) (s : State), pcieLink s port.val = 3 →
    exec (.dpcRelease port) s = .next (s.setRegField (rPortStat (port.val / 4)) (16 * (port.val % 4)) 2 1)) ∧
  (∀ (f : Fin 512) (p : Nat) (s : State), 0 < f.val → f.val < 256 → s.pfPeck f.val = some p → (s.peck p).state = .active →
    let fenced (u : State) : State :=
      (settleAll ((disablePeck u p stFenced).updPeck p fun x => { x with fenced := true })).mgrEvent sevWarn evVfFenced (BitVec.ofNat 64 f.val)
        (BitVec.ofNat 64 p)
    exec (.vfBusMasterDisable f) s = .next (fenced (s.setFn f.val { s.fn f.val with bme := false })) ∧
    exec (.vfFlr f) s = .next (fenced (s.setFn f.val { Fn.reset with enabled := (s.fn f.val).enabled })) ∧
    exec (.vfD3hot f) s = .next (fenced (s.setFn f.val { s.fn f.val with d3 := true }))) ∧
  (∀ (f : Fin 512) (s : State), 0 < f.val → f.val < 256 → s.pfPeck f.val = none →
    exec (.vfBusMasterDisable f) s = .next (s.setFn f.val { s.fn f.val with bme := false }) ∧
    exec (.vfFlr f) s = .next (s.setFn f.val { Fn.reset with enabled := (s.fn f.val).enabled }) ∧
    exec (.vfD3hot f) s = .next (s.setFn f.val { s.fn f.val with d3 := true })) ∧
  (∀ s : State, s.attached = true → s.items = [] → Gives (.pf0Fence false) s fun t =>
    (t.fn 0).bme = false ∧ Detached (fenceManager (s.setFn 0 { s.fn 0 with bme := false })) 2 t ∧
      ∀ r, r < 4 → (t.ring r).pi = 0 ∧ (t.ring r).ci = 0 ∧ (t.ring r).error = false) ∧
  (∀ s : State, Gives (.pf0Fence true) s fun t => t.fn 0 = Fn.reset ∧ t.attached = false) ∧
  (∀ s : State, s.attached = true → Gives .pf0D3hot s fun t => (t.fn 0).d3 = true ∧ Detached (s.setFn 0 { s.fn 0 with d3 := true }) 3 t) ∧
  (∀ (vh : Fin 4) (down : Bool) (s : State), exec (.upstreamLinkLoss vh down) s = .next (upstreamLost s vh.val down) ∧
    (upPort s vh.val = none → upstreamLost s vh.val down = s)) ∧
  (∀ (vh : Fin 4) (down : Bool) (p : Nat) (s : State), upPort s vh.val = some p → Gives (.upstreamLinkLoss vh down) s fun t =>
    (∀ w ∈ t.windows, w.1 ≠ p) ∧ (∀ b ∈ t.pcie.bars, b.1 ≠ vh.val) ∧ (∀ f ∈ vhFns s vh.val, (t.fn f).bme = false ∧ (t.fn f).msixEn = false) ∧
    (vh.val = 0 → t.attached = false)) ∧
  (∀ (vh : Fin 4) (p : Nat) (s : State), upPort s vh.val = some p → Gives (.perstAssert vh) s fun t =>
    t.windows = (upstreamLost s vh.val true).windows ∧ (∀ e ∈ t.pcie.up, e.1 ≠ vh.val) ∧ (∀ w ∈ t.windows, w.1 ≠ p) ∧ (vh.val = 0 → t.attached = false)) ∧
  (∀ (vh : Fin 4) (s : State), upPort s vh.val = none →
    exec (.perstAssert vh) s = .next { s with pcie := { s.pcie with up := s.pcie.up.filter fun e => e.1 ≠ vh.val } }) ∧
  (∀ (vh : Fin 4) (p : Nat) (s : State), (∀ e ∈ s.pcie.up, e.1 ≠ vh.val) → upPort s vh.val = some p → pcieLink s p = 0 → s.pcie.refused = false →
    exec (.perstDeassert vh) s =
      .next (setPortLink { s with pcie := { s.pcie with up := s.pcie.up ++ [(vh.val, s.time)] } } p 1))
namespace Sys2Proof.Spec

/-- A command on Peck `p`, number `id`, whose turn it is (R328, R331). -/
abbrev PeckCmd (s : State) (id t : Nat) (i : Item) (p : Nat) : Prop :=
  Request s id t i ∧ cmdTurn s i = true ∧ fld (i.w 0) 0 8 = p ∧ p ≠ 0

/-- The commands of R328 with the states of a Peck in which each may run. -/
def peckCommands : List (Nat × (Nat → Instr) × List PeckState) :=
  [(0x0500, .peckCreate, [.free]), (0x0501, .peckGrant, [.active, .quiescing, .quiesced]),
   (0x0502, .peckRelease, [.active, .quiescing, .quiesced]), (0x0503, .peckMint, [.active, .quiescing, .quiesced]),
   (0x0504, .peckRevoke, [.active, .quiescing, .quiesced]), (0x0505, .peckQuiesce, [.active]), (0x0506, .peckResume, [.quiesced]),
   (0x0507, .peckDisable, [.active, .quiescing, .quiesced]), (0x0508, .peckReset, [.quiesced, .disabled]),
   (0x0509, .peckRemove, [.quiesced, .disabled]), (0x050B, fun id => .peckExport id [] 0, [.quiesced]), (0x050C, fun id => .peckImport id [] [] 0, [.quiesced])]

/-- The item completes with a status and a result; AUX is 0 (R390, R391). -/
abbrev completes (s : State) (i : Item) (st : Status) (r : Word) : State := s.completeItem i st r 0

/-- The entry that directory word `dir` of Peck `p` names is revoked (R337): it and its descendants are disarmed and their generation advances; the
directory word becomes NIL, the entries are freed and the item completes once no copy, read or send that passed its check against them is in
progress. -/
abbrev Revoked (s : State) (i : Item) (p dir : Nat) (t : State) : Prop :=
  let u := revokeSteps s [hIndex (s.dirWord p dir).bits]
  (u.2.any (entryInUse u.1) = false → t = completes ((revokeFree u.1 u.2).putWord (dirBase p + 8 * dir) TWord.zero) i stOk 0) ∧
  (u.2.any (entryInUse u.1) = true → t = { u.1.setPhase i.id .committed with revokes := [⟨i.id, p, dir, u.2⟩] })

end Sys2Proof.Spec

/-- The checks of a Peck command come first (R328, R330): Peck number 0 is NUMBER, a state in which the command may not run is STATE; and the
commands that create a Peck, grant and release its units, and mint and revoke its handles do what R323 and R330 to R337 say. -/
def Obligations.PeckCommands : Prop :=
  (∀ (id : Nat) (i : Item) (s : State), ∀ e ∈ peckCommands, Request s id e.1 i → cmdTurn s i = true → s.revokes = [] → fld (i.w 0) 0 8 = 0 →
    exec (e.2.1 id) s = .next (completes s i stRights 0x02)) ∧
  (∀ (id : Nat) (i : Item) (p : Nat) (s : State), ∀ e ∈ peckCommands, PeckCmd s id e.1 i p → s.revokes = [] → (s.peck p).state ∉ e.2.2 →
    exec (e.2.1 id) s = .next (completes s i stFenced 0x01)) ∧
  (∀ (id : Nat) (i : Item) (p : Nat) (s : State), PeckCmd s id 0x0500 i p → (s.peck p).state = .free → vfOwned s (fld (i.w 0) 8 8) 0 = false →
    exec (.peckCreate id) s = .next (completes s i stRights 0x03)) ∧
  (∀ (id : Nat) (i : Item) (p : Nat) (s : State), PeckCmd s id 0x0500 i p → (s.peck p).state = .free →
    (∀ e ∈ s.pecks, e.1 ≠ p → e.2.state = .free) → vfOwned s (fld (i.w 0) 8 8) 0 = true → (fld (i.w 0) 16 8 = 0 ∨ vfOwned s (fld (i.w 0) 16 8) 16 = true) →
    exec (.peckCreate id) s = .next (completes (epochUp (closeMeter (mintDir (s.setPeck p {
      Peck.reset with state := .quiesced, vf0 := fld (i.w 0) 8 8, vf1 := fld (i.w 0) 16 8, roots := (s.peck p).roots, trk := (s.peck p).trk,
                      cache := (s.peck p).cache, meter := { Meter.reset with start := s.time, engAt := s.time } }) p) p true)) i stOk 0)) ∧
  (∀ (id : Nat) (i : Item) (p n : Nat) (s : State), PeckCmd s id 0x0501 i p → (s.peck p).state = .quiesced → fld (i.w 0) 8 8 = 1 → (i.w 1).toNat = n →
    i.w 2 = 1 → n < 196608 → unitPeck s .grains n ≠ p →
    exec (.peckGrant id) s = .next (
      if unitFree s .grains n then completes (moveUnit (meterTick s p) .grains n p) i stOk 0 else completes s i stRights 0x04)) ∧
  (∀ (s : State) (n p : Nat), p ≠ 0 → unitPeck s .grains n = 0 → (s.peck p).grains.testBit n = false →
    ((moveUnit s .grains n p).peck p).grains.testBit n = true ∧ (moveUnit s .grains n p).mem = s.mem.zero (n * 0x200000) 0x200000) ∧
  (∀ (id : Nat) (i : Item) (p n : Nat) (s : State), PeckCmd s id 0x0502 i p → (s.peck p).state = .quiesced → fld (i.w 0) 8 8 = 1 → (i.w 1).toNat = n →
    i.w 2 = 1 → n < 196608 →
    exec (.peckRelease id) s = .next (
      if unitPeck s .grains n ≠ p then completes s i stRights 0x05
      else if unitInUse s .grains n then completes s i stRights 0x06
      else completes (moveUnit (meterTick s p) .grains n 0) i stOk 0)) ∧
  (∀ (id : Nat) (i : Item) (p : Nat) (s : State), PeckCmd s id 0x0503 i p → (s.peck p).state = .active →
    (s.dirWord p (fld (i.w 0) 16 16)).tag ≠ Tag.nil → exec (.peckMint id) s = .next (completes s i stDuplicate 0x09)) ∧
  (∀ (id : Nat) (i : Item) (p k : Nat) (s : State), PeckCmd s id 0x0503 i p → (s.peck p).state = .active → fld (i.w 0) 8 8 = 1 →
    (s.dirWord p (fld (i.w 0) 16 16)).tag = Tag.nil → (i.w 1).toNat + (i.w 2).toNat ≤ 2 ^ 64 →
    fld (i.w 0) 34 1 = 0 → fld (i.w 0) 37 1 = 0 → rootsUsed s p < (s.peck p).roots → freeRoot s = some k →
    let rights := BitVec.ofNat 8 (fld (i.w 0) 32 8)
    exec (.peckMint id) s = .next (completes ((s.setRegion k {
      Region.free with used := true, kind := .host, peck := BitVec.ofNat 8 p, base := i.w 1, len := i.w 2, rights := rights, gen := (s.region k).gen }).putWord
        (dirBase p + 8 * fld (i.w 0) 16 16) ⟨mkHandle k (s.region k).gen rights, Tag.handle⟩) i stOk (mintKey k (s.region k).gen))) ∧
  (∀ (id : Nat) (i : Item) (p : Nat) (s : State), PeckCmd s id 0x0503 i p → (s.peck p).state = .active → fld (i.w 0) 8 8 = 0 →
    (s.dirWord p (fld (i.w 0) 16 16)).tag = Tag.nil → rangeExists (i.w 1).toNat (i.w 2).toNat = false →
    exec (.peckMint id) s = .next (completes s i stRights 0x08)) ∧
  (∀ (id : Nat) (i : Item) (p : Nat) (s : State), PeckCmd s id 0x0504 i p → s.revokes = [] → (s.peck p).state = .active →
    let w := s.dirWord p (fld (i.w 0) 16 16)
    (w.tag = Tag.nil → exec (.peckRevoke id) s = .next (completes s i stRights 0x0A)) ∧
    (w.tag = Tag.handle → (s.current w.bits).isSome = true → Gives (.peckRevoke id) s (Revoked s i p (fld (i.w 0) 16 16))) ∧
    (w.tag = Tag.handle → s.current w.bits = none →
      exec (.peckRevoke id) s = .next (completes (s.putWord (dirBase p + 8 * fld (i.w 0) 16 16) TWord.zero) i stOk 0))) ∧
  (∀ (id p dir : Nat) (es : List (Nat × BitVec 16)) (i : Item) (s : State), s.revokes = [⟨id, p, dir, es⟩] → s.item id = some i →
    (es.any (entryInUse s) = true → exec (.peckRevoke id) s = .next s) ∧
    (es.any (entryInUse s) = false →
      exec (.peckRevoke id) s = .next (completes ((revokeFree { s with revokes := [] } es).putWord (dirBase p + 8 * dir) TWord.zero) i stOk 0))) ∧
  (∀ (id : Nat) (i : Item) (r : Region) (s : State), Request s id 0x0510 i → i.fn ≠ 0 → s.revokes = [] →
    s.settle (dirBase i.fn + 8 * fld (i.w 0) 0 12) 8 = s →
    let w := s.dirWord i.fn (fld (i.w 0) 0 12)
    w.tag = Tag.handle → s.current w.bits = some r →
    (i.ref 0).st = stOk → (i.ref 0).loc.kind = .local_ → hasRight (i.ref 0).h rightWr = true → (i.w 2).toNat % 8 = 0 →
    (i.w 2).toNat + 8 ≤ (i.ref 0).loc.len.toNat →
    exec (.peckHplace id) s = .next (
      let u := placeWord s ((i.ref 0).loc.base.toNat + (i.w 2).toNat) w
      completes u.1 i (if u.2 then stTag else stOk) 0)) ∧
  (∀ (id k : Nat) (i : Item) (r : Region) (s : State), Request s id 0x0511 i → s.revokes = [] → s.settle (dirBase i.fn + 8 * fld (i.w 0) 0 12) 8 = s →
    let w := s.dirWord i.fn (fld (i.w 0) 0 12)
    w.tag = Tag.handle → s.current w.bits = some r → hasRight w.bits rightDrv = true → deriveOk r (i.w 1).toNat (i.w 2).toNat = true →
    (s.dirWord i.fn (fld (i.w 0) 16 12)).tag = Tag.nil → rootsUsed s i.fn < (s.peck i.fn).roots → freeRoot s = some k →
    let rights := hRights w.bits &&& BitVec.ofNat 8 (fld (i.w 0) 32 8)
    exec (.peckHderive id) s = .next (completes ((s.setRegion k {
      r with used := true, retired := false, base := r.base + i.w 1, len := i.w 2, rights := rights, gen := (s.region k).gen,
             parent := some (hIndex w.bits), pgen := r.gen }).putWord (dirBase i.fn + 8 * fld (i.w 0) 16 12) ⟨mkHandle k (s.region k).gen rights, Tag.handle⟩) i stOk
        0)) ∧
  (∀ (id : Nat) (i : Item) (s : State), Request s id 0x0512 i → s.revokes = [] → s.settle (dirBase i.fn + 8 * fld (i.w 0) 0 12) 8 = s →
    let w := s.dirWord i.fn (fld (i.w 0) 0 12)
    (w.tag = Tag.nil → exec (.peckHdrop id) s = .next (completes s i stRights 0x0A)) ∧
    (w.tag = Tag.handle → s.current w.bits = none → exec (.peckHdrop id) s = .next (completes s i stStale 0)) ∧
    (w.tag = Tag.handle → (s.current w.bits).isSome = true → (s.region (hIndex w.bits)).parent = none → exec (.peckHdrop id) s =
      .next (completes (s.putWord (dirBase i.fn + 8 * fld (i.w 0) 0 12) TWord.zero) i stOk 0)) ∧
    (w.tag = Tag.handle → (s.current w.bits).isSome = true → isRoot (hIndex w.bits) = true → (s.region (hIndex w.bits)).parent.isSome = true →
      Gives (.peckHdrop id) s (Revoked s i i.fn (fld (i.w 0) 0 12))))

/-- The transitions of a Peck: PECK_QUIESCE leaves it QUIESCING until it has drained, when the request completes and it is QUIESCED, and its expiry
fences what still runs (R331, R332); PECK_RESUME makes it ACTIVE, PECK_DISABLE fences it with ST_FUNCTION_DISABLED (R333), and PECK_RESET and
PECK_REMOVE begin and, at their ends, leave it QUIESCED with its directory minted anew, or removed (R332); the dirty-page log starts with its ring,
unless four Pecks log, stops, and takes its read pointer (R339). -/
def Obligations.PeckTransitions : Prop :=
  (∀ (id : Nat) (i : Item) (p : Nat) (s : State), PeckCmd s id 0x0505 i p → (s.peck p).state = .active →
    exec (.peckQuiesce id) s = .next ((s.setPeck p {
      s.peck p with state := .quiescing, quiesce := some (id, s.time + fld (i.w 0) 32 32 * 1000000) }).setPhase id .active)) ∧
  (∀ (p : Fin 256) (id t0 : Nat) (i : Item) (s : State), (s.peck p.val).state = .quiescing → drained s p.val = true →
    (s.peck p.val).quiesce = some (id, t0) → s.item id = some i →
    Gives (.peckQuiesced p) s fun t =>
      t = completes ((s.setPeck p.val { s.peck p.val with state := .quiesced }).setPeck p.val { s.peck p.val with state := .quiesced, quiesce := none })
        i stOk 0) ∧
  (∀ (p : Fin 256) (s : State), (s.peck p.val).state ≠ .quiescing → exec (.peckQuiesced p) s = .next s) ∧
  (∀ (p : Fin 256) (id t0 : Nat) (s : State), (s.peck p.val).state = .quiescing → (s.peck p.val).quiesce = some (id, t0) →
    exec (.quiesceWaitExpiry p) s = .next (
      if t0 ≤ s.time then settleAll ((List.range 4).foldl (fun u q => fenceCipher u p.val q stFenced 4097) (fencePeck s p.val stFenced)) else s)) ∧
  (∀ (id : Nat) (i : Item) (p : Nat) (s : State), PeckCmd s id 0x0506 i p → (s.peck p).state = .quiesced →
    exec (.peckResume id) s = .next (completes (s.setPeck p { s.peck p with state := .active }) i stOk 0)) ∧
  (∀ (id : Nat) (i : Item) (p : Nat) (s : State), PeckCmd s id 0x0507 i p → (s.peck p).state = .active →
    exec (.peckDisable id) s = .next (settleAll (completes (disablePeck s p stFunctionDisabled) i stOk 0))) ∧
  (∀ (id : Nat) (i : Item) (p : Nat) (s : State), PeckCmd s id 0x0508 i p → (s.peck p).state = .disabled →
    exec (.peckReset id) s = .next (settleAll ((beginReset s p .resetting (some id)).setPhase id .active))) ∧
  (∀ (id : Nat) (i : Item) (p : Nat) (s : State), PeckCmd s id 0x0509 i p → (s.peck p).state = .quiesced →
    exec (.peckRemove id) s = .next (settleAll ((beginReset s p .removing (some id)).setPhase id .active))) ∧
  (∀ (s : State) (p : Nat) (st : PeckState) (id : Option Nat), ((beginReset s p st id).peck p).state = st ∧ ((beginReset s p st id).peck p).doing = id) ∧
  (∀ (p : Fin 256) (s : State), (s.peck p.val).state = .resetting →
    exec (.peckResetDone p) s = .next (settleAll (endReset (endQuiesce ((mintDir (clearPeck s p.val) p.val).updPeck p.val fun x =>
      { x with state := .quiesced, fenced := false }) p.val stOk) p.val))) ∧
  (∀ (p : Fin 256) (s : State), (s.peck p.val).state = .removing → exec (.peckRemoveDone p) s = .next (settleAll (finishRemove s p.val))) ∧
  (∀ (p : Fin 256) (s : State), (s.peck p.val).state = .active → exec (.peckResetDone p) s = .next s ∧ exec (.peckRemoveDone p) s = .next s) ∧
  (∀ (s : State) (p : Nat), (mintDir s p).mem.word (dirBase p) = ⟨mkHandle (dirEntry p) (s.region (dirEntry p)).gen 1, Tag.handle⟩ ∧
    ((mintDir s p).region (dirEntry p)).rights = 1 ∧ ((mintDir s p).region (dirEntry p)).base = BitVec.ofNat 64 (dirBase p) ∧
    ((mintDir s p).region (dirEntry p)).len = 0x8000) ∧
  (∀ (id : Nat) (i : Item) (p : Nat) (s : State), PeckCmd s id 0x050A i p → (s.peck p).state = .active → fld (i.w 0) 8 8 = 0 →
    exec (.peckLogStart id) s = .next (
      if loggers s p ≥ 4 then completes s i stRights 0x0C
      else completes (s.setPeck p {
        s.peck p with logging := true, logovf := false, logBase := i.w 1, logLog2 := fld (i.w 0) 32 32, filter := [] }) i stOk 0)) ∧
  (∀ (id : Nat) (i : Item) (p : Nat) (s : State), PeckCmd s id 0x050A i p → (s.peck p).state = .active → fld (i.w 0) 8 8 = 1 →
    exec (.peckLogStop id) s = .next (completes (s.setPeck p { s.peck p with logging := false, logovf := false }) i stOk 0)) ∧
  (∀ (p : Fin 256) (v : Word) (s : State), Ready s → p.val ≠ 0 →
    exec (.peckLogrdWrite p .full v) s = .next (s.setPeck p.val { s.peck p.val with logrd := v.setWidth 32, filter := [] }))

/-- What the manager may have done for a Peck besides: an attestation is written with its signature (R344); an export answers ST_HANDLE_RIGHTS for a key
that is no point of the curve (R340), and an import the first check that its container fails, or loads it (R341); meter records are closed once a
minute, and CI taken (R342, R343); ABORT ends the item it finds, or answers ST_ABORT_TOO_LATE, and takes a waiting descriptor out of its ring (R396,
R397); ENG_CTL resets an engine, which its completion reports (R187, R191); a write of a barrier unit that names a FREE Peck is refused, and a legal
one resets the unit to it with COUNT and PAIR (R185, R192). -/
def Obligations.PeckServices : Prop :=
  (∀ (id : Nat) (i : Item) (s : State), Request s id 0x050D i → i.fn = 0 → cmdTurn s i = true →
    exec (.peckAttest id) s = .next (
      let h := reportHead s (fld (i.w 0) 0 8) (([2, 3, 4, 5].map i.w).flatMap fun w => bytesOf 8 w.toNat)
      let u := ecdsaSign s h
      completes (mgrWrite u.1 (i.w 1) (h ++ u.2)) i stOk 0)) ∧
  (∀ (id : Nat) (i : Item) (s : State), Request s id 0x050D i → i.fn ≠ 0 → ((i.ref 0).check [.host] [rightWr] ≠ stOk) →
    exec (.peckAttest id) s = .next (completes s i ((i.ref 0).check [.host] [rightWr]) 0)) ∧
  (∀ (id : Nat) (i : Item) (p : Nat) (pub : List Byte) (st : BitVec 16) (s : State), PeckCmd s id 0x050B i p → (s.peck p).state = .quiesced →
    ringsEmpty s p = true →
    Gives (.peckExport id pub st) s fun t =>
      (st ≠ stOk → t = completes s i st 0) ∧
      (st = stOk → onP384 (recNum pub 0 48) (recNum pub 48 48) = false → t = completes s i stRights 0x0D) ∧
      (st = stOk → onP384 (recNum pub 0 48) (recNum pub 48 48) = true → t.item id = none)) ∧
  (∀ (id : Nat) (i : Item) (p : Nat) (data pub : List Byte) (s : State), PeckCmd s id 0x050C i p → (s.peck p).state = .quiesced →
    ringsEmpty s p = true → rootsUsed s p = 0 →
    exec (.peckImport id data pub stOk) s = .next (
      match openImport (data.take (i.w 2).toNat) pub with
      | none => completes s i stRights 0x0D
      | some m =>
        if shapeOk s p m = false then completes s i stRights 0x0E
        else if (s.peck p).roots < (movedRoots m).length then completes s i stRights 0x07
        else if (freshRoots s (movedRoots m)).2.length ≠ (movedRoots m).length then completes s i stRights 0x10
        else match loadImport s p m with
          | none => completes s i stRights 0x0D
          | some u => completes u i stOk 0)) ∧
  (∀ s : State, s.time / 60000000000 ≤ s.minute → exec .meterMinute s = .next s) ∧
  (∀ s : State, s.minute < s.time / 60000000000 →
    exec .meterMinute s = .next (((List.range 256).filter fun p => p ≠ 0 ∧ (s.peck p).state ≠ .free).foldl (fun u p => closeMeter u p false)
      { s with minute := s.time / 60000000000 })) ∧
  (∀ (v : Word) (s : State), Ready s → s.mtr = [] → exec (.peckMtrciWrite .full v) s = .next (s.setReg rMtrCi (v &&& 0xFFFFFFFF))) ∧
  (∀ (id : Nat) (i j : Item) (s : State), Request s id 0x0002 i →
    (s.items.find? fun j => j.fn == i.fn && j.ring == fld (i.w 1) 0 4 && j.tag == i.w 0 && j.id != i.id) = some j →
    exec (.abort id) s = .next (
      match abortItem s j with
      | some u => settleAll (completes u i stOk 0)
      | none => completes s i stAbortTooLate 0)) ∧
  (∀ (s : State) (j : Item), j.typ = 0x0403#16 → s.msgs = [] → j.phase = .committed → abortItem s j = none) ∧
  (∀ (id : Nat) (i : Item) (n : BitVec 32) (s : State), Request s id 0x0002 i →
    (s.items.find? fun j => j.fn == i.fn && j.ring == fld (i.w 1) 0 4 && j.tag == i.w 0 && j.id != i.id) = none →
    let k := 16 * i.fn + fld (i.w 1) 0 4
    ((s.ring k).waiting.find? fun n => (itemOf i.fn (fld (i.w 1) 0 4) (s.ring k) n).tag == i.w 0) = some n →
    Gives (.abort id) s fun t => (t.ring k).gone = (s.ring k).gone ++ [n] ∧ (t.ring k).pi = (s.ring k).pi ∧ (t.ring k).ci = (s.ring k).ci) ∧
  (∀ (e : Fin 128) (v : Word) (s : State), Ready s → v.getLsbD 0 = true → (s.eng e.val).resetting = false →
    (s.peck (s.eng e.val).peck.toNat).state = .active →
    exec (.engCtlReset e .full v) s = .next (settleAll ((clearEngine { s with replays := s.replays.filter fun r => r.eng ≠ e.val } e.val
      stFenced).updEng e.val fun x => { x with resetting := true }))) ∧
  (∀ (e : Fin 128) (s : State), (s.eng e.val).resetting = true → (s.peck (s.eng e.val).peck.toNat).state = .active →
    fld (s.reg (rIntgPool e.val)) 55 1 = 0 → (s.eng e.val).poolBad = false → s.rcv.escals = [] →
    exec (.engineResetComplete e) s =
      .next ((s.updEng e.val fun x => { x with resetting := false }).mgrEvent sevInfo evEngResetDone (BitVec.ofNat 64 e.val) 0)) ∧
  (∀ (u : Fin 384) (v : Word) (s : State), Ready s → fld v 0 8 ≠ 0 → (s.peck (fld v 0 8)).state = .free →
    exec (.engBarWrite u .full v) s = .next s.errWr) ∧
  (∀ (u : Fin 384) (v : Word) (s : State), Ready s → (s.peck (fld v 0 8)).state = .active → fld v 0 8 ≠ (s.bar u.val).peck.toNat →
    s.pair.joined = false → s.engines = [] → 1 ≤ fld v 16 12 → fld v 16 12 ≤ (if u.val < 256 then (if v.getLsbD 8 then 2048 else 1024) else 128) →
    Gives (.engBarWrite u .full v) s fun t => t = s.setBar u.val {
      s.bar u.val with peck := BitVec.ofNat 8 (fld v 0 8), phase := 0, arrived := 0, remote := 0, count := BitVec.ofNat 12 (fld v 16 12), held := none,
                       pair := decide (u.val < 256) && v.getLsbD 8,
                       split := (s.bar u.val).split && (decide (u.val < 256) && v.getLsbD 8) })
namespace Sys2Proof.Spec

/-- A frame arrives on a port that is up, for the port's address and Wymoug's UDP port, of a length that the port takes (R252 to R254). -/
abbrev TakenUp (s : State) (port : Nat) (p : Pkt) : Prop :=
  portUp s port = true ∧ isWymoug s p = true ∧ rxLen p ≤ 9216 ∧ p.dst = instAddr (fabricBase s) (port / 4)

/-- A packet of a type arrives, well formed, under a valid SA with the GCM tag that the SA's key gives it (R272 steps 1 and 2). -/
abbrev Arrives (s : State) (port : Nat) (p : Pkt) (typ sa : Nat) : Prop :=
  TakenUp s port p ∧ p.typ.toNat = typ ∧ pktBad p = false ∧ saBySpi s p.spi.toNat = some sa ∧
  p.tag = (sealPkt (s.key (saSlot s sa)).key p).2 ∧ (s.key (saSlot s sa)).state = .loaded

/-- A packet without a tracker and without a result-cache entry: none of its message has been received (R271, R281). -/
abbrev Unseen (s : State) (port : Nat) (p : Pkt) : Prop :=
  s.trk (port / 4) p.src p.msgid = none ∧ s.cached (port / 4) p.src p.msgid = none

/-- The state after a packet has been counted. -/
def counted (s : State) (port : Nat) : State := s.bump (rWymCtr (port / 4) 1) 1

/-- The ingress policer of the port and Peck is off: the packet counts as green, and its Peck's meter counts the frame (R313, R315). -/
def admitted (s : State) (port : Nat) (p : Pkt) (k : Nat) : State :=
  let u := counted s port
  let b := rxLen p
  (u.bump (rSchCtr port 3) 1).updPeck k fun x => { x with meter := { x.meter with rx := x.meter.rx + b } }

/-- No policer acts on the packets of a Peck at a port. -/
abbrev Unpoliced (s : State) (port k : Nat) : Prop := fld ((counted s port).reg (rPolC port k)) 39 1 = 0

end Sys2Proof.Spec

/-- A packet that fails checks 1 and 2 of R272 only counts: a frame for another address or UDP port, or one too long (R252 to R254), a malformed
packet (R266), one without a valid SA or whose tag is not the one that the SA's key gives (R265); a port that is down takes nothing. Malformed
packets of any kind count by their own row as well. Rows that may end a message end with the settling of what waits. -/
def Obligations.PacketsDropped : Prop :=
  (∀ (port : Fin 16) (p : Pkt) (s : State), ∀ e ∈ [(1, Instr.write, id), (2, Instr.send, settleAll), (3, Instr.readreq, id),
    (4, Instr.readresp, settleAll), (5, Instr.atomic, id), (6, Instr.atomicresp, settleAll), (7, Instr.ack, settleAll), (8, Instr.nak, settleAll),
    (9, Instr.probe, id)], p.typ.toNat = e.1 →
    (portUp s port.val = false → exec (e.2.1 port p) s = .next (e.2.2 s)) ∧
    (portUp s port.val = true →
      (isWymoug s p = false ∨ 9216 < rxLen p ∨ p.dst ≠ instAddr (fabricBase s) (port.val / 4)) →
        exec (e.2.1 port p) s = .next (e.2.2 (s.bump (rWymOther port.val) 1))) ∧
    (TakenUp s port.val p →
      (pktBad p = true → exec (e.2.1 port p) s = .next (e.2.2 (s.bump (rWymCtr (port.val / 4) 5) 1))) ∧
      (pktBad p = false → saBySpi s p.spi.toNat = none → exec (e.2.1 port p) s = .next (e.2.2 (s.bump (rWymCtr (port.val / 4) 4) 1))) ∧
      (∀ sa, sa < 1024 → pktBad p = false → saBySpi s p.spi.toNat = some sa →
        (p.tag ≠ (sealPkt (s.key (saSlot s sa)).key p).2 ∨ (s.key (saSlot s sa)).state ≠ .loaded) →
        exec (e.2.1 port p) s = .next (e.2.2 (s.bump (rWymCtr (port.val / 4) 4) 1))))) ∧
  (∀ (port : Fin 16) (p : Pkt) (s : State), TakenUp s port.val p → pktBad p = true →
    exec (.malformedPacket port p) s = .next (s.bump (rWymCtr (port.val / 4) 5) 1)) ∧
  (∀ (port : Fin 16) (p : Pkt) (s : State), pktBad p = false → exec (.malformedPacket port p) s = .next s)

/-- What the receiver does with the packets it admits: WRITE is checked in the order of R272, placed and acknowledged, and a duplicate is only
acknowledged; SEND takes the buffer at the head of its endpoint's queue or is answered BUSY (R280); ATOMIC is executed once (R278, R281); READREQ
is answered by READRESPs, which wait for their pacing (R277); PROBE by an ACK (R267). -/
def Obligations.PacketsReceived : Prop :=
  (∀ (port : Fin 16) (p : Pkt) (sa : Nat) (t0 : Trk) (s : State), Arrives s port.val p 1 sa → Unpoliced s port.val (saPeck (counted s port.val) sa) →
    let u := admitted s port.val p (saPeck (counted s port.val) sa)
    u.trk (port.val / 4) p.src p.msgid = some t0 → u.cached (port.val / 4) p.src p.msgid = none → t0.bits.testBit p.pidx.toNat = true →
    exec (.write port p) s = .next (ack ((setTrk u (port.val / 4) { t0 with since := 0, first := none, last := u.time }).bump
      (rWymCtr (port.val / 4) 3) 1) port.val p t0.bits u.mono)) ∧
  (∀ (port : Fin 16) (p : Pkt) (sa : Nat) (st : Status) (s : State), Arrives s port.val p 1 sa → Unpoliced s port.val (saPeck (counted s port.val) sa) →
    let u := admitted s port.val p (saPeck (counted s port.val) sa)
    Unseen u port.val p → keyCheck u sa p 1 (pktShape p) = .error st →
    exec (.write port p) s = .next (nak u port.val p false st)) ∧
  (∀ (port : Fin 16) (p : Pkt) (sa : Nat) (r : Region) (s : State), Arrives s port.val p 1 sa → Unpoliced s port.val (saPeck (counted s port.val) sa) →
    p.ext = none → let u := admitted s port.val p (saPeck (counted s port.val) sa)
    Unseen u port.val p → keyCheck u sa p 1 (pktShape p) = .ok r → r.kind = .local_ → trkFree u (port.val / 4) r.peck.toNat = true →
    exec (.write port p) s = .next (rxPlaced (placeBytes u (r.base.toNat + (p.roff.toNat + p.pidx.toNat * pktPsize p)) p.payload
      (((u.arm p.rkey.toNat).map (·.imp)).getD Tag.nil)).1 port.val p r.peck.toNat)) ∧
  (∀ (s : State) (sa : Nat) (p : Pkt) (right : Nat) (shape : Bool) (a : Arm), s.arm p.rkey.toNat = some a →
    let r := s.region p.rkey.toNat
    ((r.used = false ∨ r.retired = true ∨ r.gen ≠ p.rgen) → keyCheck s sa p right shape = .error stStale) ∧
    (p.rkey.toNat < 2 ^ 20 → r.used = true → r.retired = false → r.gen = p.rgen →
      (a.rights.getLsbD right = false ∨ a.sa ≠ sa ∨ r.len.toNat < p.roff.toNat + p.msglen.toNat ∨ shape = false) →
      keyCheck s sa p right shape = .error stRights) ∧
    (p.rkey.toNat < 2 ^ 20 → r.used = true → r.retired = false → r.gen = p.rgen → a.rights.getLsbD right = true → a.sa = sa →
      p.roff.toNat + p.msglen.toNat ≤ r.len.toNat → shape = true → (s.peck r.peck.toNat).state = .active → keyCheck s sa p right shape = .ok r)) ∧
  (∀ (port : Fin 16) (p : Pkt) (sa : Nat) (s : State), Arrives s port.val p 2 sa → Unpoliced s port.val (saPeck (counted s port.val) sa) →
    p.ext = none → let u := admitted s port.val p (saPeck (counted s port.val) sa)
    let peck := (u.ep p.rkey.toNat).peck
    Unseen u port.val p → epCheck u sa p = stOk → trkFree u (port.val / 4) peck = true →
    cacheFree u (port.val / 4) peck = true → mailVol u p.rkey.toNat = none →
    (u.ep p.rkey.toNat).posts = [] → exec (.send port p) s = .next (settleAll (nak u port.val p true 0))) ∧
  (∀ (port : Fin 16) (p : Pkt) (sa : Nat) (b : Post) (rest : List Post) (s : State), Arrives s port.val p 2 sa →
    Unpoliced s port.val (saPeck (counted s port.val) sa) → p.ext = none →
    let u := admitted s port.val p (saPeck (counted s port.val) sa)
    let ep := p.rkey.toNat
    let peck := (u.ep ep).peck
    Unseen u port.val p → epCheck u sa p = stOk → trkFree u (port.val / 4) peck = true → cacheFree u (port.val / 4) peck = true → mailVol u ep = none →
    (u.ep ep).posts = b :: rest → p.msglen.toNat ≤ b.len →
    exec (.send port p) s = .next (settleAll (sendPlace (u.setEp ep { u.ep ep with posts := rest }) port.val p
      ⟨p.src, p.msgid, peck, u.time, .send b ep 0 0 false false⟩ b ep 0 false))) ∧
  (∀ (port : Fin 16) (p : Pkt) (sa : Nat) (c : CacheEnt) (st : Status) (old : Word) (s : State), Arrives s port.val p 5 sa →
    Unpoliced s port.val (saPeck (counted s port.val) sa) →
    let u := admitted s port.val p (saPeck (counted s port.val) sa)
    u.cached (port.val / 4) p.src p.msgid = some c → c.kind = .atomic st old →
    exec (.atomic port p) s = .next (atomicAnswer u port.val p st old)) ∧
  (∀ (port : Fin 16) (p : Pkt) (sa : Nat) (r : Region) (s : State), Arrives s port.val p 5 sa → Unpoliced s port.val (saPeck (counted s port.val) sa) →
    let u := admitted s port.val p (saPeck (counted s port.val) sa)
    p.ext = none → u.cached (port.val / 4) p.src p.msgid = none → keyCheck u sa p 2 (p.msglen == 8 && p.pidx == 0 && p.plen == 16) = .ok r → r.kind = .local_ →
    p.roff.toNat % 8 = 0 → cacheFree u (port.val / 4) r.peck.toNat = true →
    exec (.atomic port p) s = .next (
      let x := runAtomic u r p
      atomicAnswer (putCache x.2.2 (port.val / 4) ⟨p.src, p.msgid, r.peck.toNat, x.2.2.time, .atomic x.1 x.2.1⟩) port.val p x.1 x.2.1)) ∧
  (∀ (s : State) (r : Region) (p : Pkt) (old : Word), let a := r.base.toNat + p.roff.toNat
    let x := BitVec.ofNat 64 (natOfBytes (p.payload.take 8))
    s.settle a 8 = s → s.mem.word a = TWord.int old → fld p.spec 0 8 < 7 →
    (runAtomic s r p).1 = stOk ∧ (runAtomic s r p).2.1 = old ∧
    (runAtomic s r p).2.2.mem = s.mem.setWord a (TWord.int
      (match fld p.spec 0 8 with
      | 0 => old + x | 1 => old &&& x | 2 => old ||| x | 3 => old ^^^ x | 4 => x
      | 5 => if old.toInt < x.toInt then old else x | _ => if old.toInt < x.toInt then x else old))) ∧
  (∀ (port : Fin 16) (p : Pkt) (sa q : Nat) (r : Region) (s : State), Arrives s port.val p 3 sa → Unpoliced s port.val (saPeck (counted s port.val) sa) →
    let u := admitted s port.val p (saPeck (counted s port.val) sa)
    keyCheck u sa p 0 (within 10 13 (fld p.spec 0 4) && within 1 (128 * pktPsize p) p.msglen.toNat && p.plen == 16) = .ok r →
    p.ext = none → respQueue u (port.val / 4) r.peck.toNat = some q → natOfBytes (p.payload.take 16) = 1 → r.kind = .local_ →
    exec (.readreq port p) s = .next { u with nextResp := u.nextResp + 1, resps := u.resps ++ [{
      num := u.nextResp, port := port.val, req := p, k := 0, path := p.path.toNat, peck := r.peck.toNat,
      addr := some (r.base.toNat + p.roff.toNat), got := [], wait := false }] }) ∧
  (∀ (port : Fin 16) (p : Pkt) (sa : Nat) (r : Region) (s : State), Arrives s port.val p 3 sa → Unpoliced s port.val (saPeck (counted s port.val) sa) →
    let u := admitted s port.val p (saPeck (counted s port.val) sa)
    keyCheck u sa p 0 (within 10 13 (fld p.spec 0 4) && within 1 (128 * pktPsize p) p.msglen.toNat && p.plen == 16) = .ok r →
    p.ext = none → respQueue u (port.val / 4) r.peck.toNat = none → exec (.readreq port p) s = .next (nak u port.val p false stSchNoQueue)) ∧
  (∀ (port : Fin 16) (p : Pkt) (sa : Nat) (s : State), Arrives s port.val p 9 sa → s.trk (port.val / 4) p.src p.msgid = none →
    exec (.probe port p) s = .next (ack (counted s port.val) port.val p 0 s.mono))

/-- The sender's side of the answers (R277, R278, R285): an ACK of its last packets completes a message, a NAK with BUSY delays its packet, any
other NAK fails it, a READRESP is placed once, an ATOMICRESP completes its message with the old word; an answer to nothing counts. -/
def Obligations.AnswersReceived : Prop :=
  (∀ (port : Fin 16) (p : Pkt) (sa : Nat) (s : State), Arrives s port.val p 4 sa → Unpoliced s port.val (saPeck (counted s port.val) sa) →
    s.msgs = [] →
    exec (.readresp port p) s = .next (settleAll ((admitted s port.val p (saPeck (counted s port.val) sa)).bump (rWymCtr (port.val / 4) 12) 1))) ∧
  (∀ (port : Fin 16) (p : Pkt) (sa : Nat) (s : State), Arrives s port.val p 6 sa → s.msgs = [] →
    exec (.atomicresp port p) s = .next (settleAll ((counted s port.val).bump (rWymCtr (port.val / 4) 12) 1))) ∧
  (∀ (port : Fin 16) (p : Pkt) (sa : Nat) (m : Msg) (s : State), Arrives s port.val p 7 sa → answered (counted s port.val) port.val p = some m →
    exec (.ack port p) s = .next (settleAll (msgAcked (updPath (counted s port.val) (port.val / 4) p.src p.path.toNat fun y =>
      rttSample (counted s port.val) (port.val / 4) p.path.toNat y (BitVec.ofNat 32 s.time - p.msglen - BitVec.ofNat 32 p.pidx.toNat).toNat) m
      (p.roff.toNat + p.spec.toNat * 2 ^ 64)))) ∧
  (∀ (port : Fin 16) (p : Pkt) (sa : Nat) (m : Msg) (s : State), Arrives s port.val p 8 sa → p.flags.getLsbD 4 = false →
    let u := (counted s port.val).bump (rWymCtr (port.val / 4) 7) 1
    answered u port.val p = some m → exec (.nak port p) s = .next (settleAll (endMsg u m (p.spec.setWidth 16)))) ∧
  (∀ (port : Fin 16) (p : Pkt) (sa : Nat) (m : Msg) (s : State), Arrives s port.val p 8 sa → p.flags.getLsbD 4 = true →
    let u := counted s port.val
    answered u port.val p = some m →
    exec (.nak port p) s = .next (settleAll (updPkt u m.key (if m.kind = .read ∨ m.kind = .atomic then 0 else p.pidx.toNat) fun pk =>
      { pk with phase := .ready, sent := pk.sent + msgRto u m }))) ∧
  (∀ (port : Fin 16) (p : Pkt) (sa : Nat) (m : Msg) (s : State), Arrives s port.val p 4 sa →
    Unpoliced s port.val (saPeck (counted s port.val) sa) → let u := admitted s port.val p (saPeck (counted s port.val) sa)
    answered u port.val p = some m → m.kind = .read → p.pidx.toNat = 0 → m.len ≤ m.psize → 1 ≤ m.len → p.payload.length = m.len → m.acked = 0 →
    exec (.readresp port p) s = .next (settleAll (endMsg { u with arrivals := u.arrivals ++ [(m.user, m.off, p.payload)] } m stOk))) ∧
  (∀ (port : Fin 16) (p : Pkt) (sa : Nat) (m : Msg) (s : State), Arrives s port.val p 6 sa →
    let u := counted s port.val
    answered u port.val p = some m → m.kind = .atomic →
    exec (.atomicresp port p) s = .next (settleAll (endMsg { u with arrivals := u.arrivals ++ [(m.user, m.off, p.payload.take 8)] } m stOk))) ∧
  (∀ (s : State) (m : Msg) (st : Status), m.wr = none → s.ports = [] → m.user ≠ .none →
    endMsg s m st = { s with msgs := s.msgs.filter fun x => x.key ≠ m.key, insts := tblSet Inst.reset s.insts m.inst { s.inst m.inst with prog := (s.inst m.inst).prog + 1 },
                             outcomes := s.outcomes ++ [(m.user, m.off, st)] })
/-- A tenant's transport requests: arming advances the entry's generation and returns the key (R260, R261), disarming leaves it (R262), posting
appends a buffer to an endpoint's queue (R280), WYM_SEND and WYM_ATOMIC hand their message to the next instance in turn (R257, R278, R279); a
pacing slot gives the oldest due packet to its port's queue (R287, R288); sealed writes are released (R275). -/
def Obligations.TransportRequests : Prop :=
  (∀ (id sa : Nat) (i : Item) (s : State), Request s id 0x0400 i → armStatus s i = stOk → saBySpi s (i.w 1).toNat = some sa →
    exec (.wymArm id) s = .next (
      let n := (i.ref 0).loc.index
      let u := advanceEntry s n
      let g := (u.region n).gen
      completes ((u.setArm n ⟨sa, (i.w 2).setWidth 3, ((i.w 2) >>> 4).setWidth 4⟩).putWord (dirBase i.fn + 8 * (i.w 0).toNat)
        ⟨mkHandle n g (hRights (i.ref 0).h), Tag.handle⟩) i stOk (BitVec.ofNat 64 (n + g.toNat * 2 ^ 24)))) ∧
  (∀ (id : Nat) (i : Item) (s : State), Request s id 0x0400 i → armStatus s i ≠ stOk → armStatus s i ≠ stRearmTooSoon →
    exec (.wymArm id) s = .next (completes s i (armStatus s i) 0)) ∧
  (∀ (s : State) (i : Item), (i.ref 0).st ≠ stOk → armStatus s i = (i.ref 0).st) ∧
  (∀ (id t0 : Nat) (i : Item) (s : State), Request s id 0x0400 i → armStatus s i = stRearmTooSoon → wymHold s = false →
    (s.region (i.ref 0).loc.index).gen ≠ 0xFFFF → s.retired = [((i.ref 0).loc.index, (s.region (i.ref 0).loc.index).gen + 1, t0)] →
    s.time < t0 + fld (s.reg rWymHorizon) 0 7 * 1000000 ∧
    exec (.wymArm id) s = .next (completes s i stRearmTooSoon (BitVec.ofNat 64 (t0 + fld (s.reg rWymHorizon) 0 7 * 1000000)))) ∧
  (∀ (s : State) (n : Nat), n ≠ 0 → s.springs = [] → s.bindings = [] → s.landed = [] → (∀ e ∈ s.regions, e.2.parent ≠ some n) →
    ((advanceEntry s n).region n).gen = (s.region n).gen + 1) ∧
  (∀ (id : Nat) (i : Item) (s : State), Request s id 0x0401 i →
    exec (.wymDisarm id) s = .next (
      if (i.ref 0).st ≠ stOk then completes s i (i.ref 0).st 0
      else completes { s with arms := tblErase s.arms (i.ref 0).loc.index } i stOk 0)) ∧
  (∀ (id : Nat) (i : Item) (s : State), Request s id 0x0402 i →
    let ep := fld (i.w 4) 0 12
    (i.ref 0).st = stOk → (i.ref 0).loc.kind ∈ [HKind.local_, .host, .accel] → hasRight (i.ref 0).h rightWr = true →
    (i.w 1).toNat + (i.w 2).toNat ≤ (i.ref 0).loc.len.toNat → (s.ep ep).peck = i.fn → (s.ep ep).posts.length < 256 → mailVol s ep = none →
    fld (i.w 4) 12 4 ≤ 0xB → wymHold s = false →
    exec (.wymPost id) s = .next (completes (s.setEp ep { s.ep ep with posts := (s.ep ep).posts ++
      [⟨(i.ref 0).loc, i.w 1, (i.w 2).toNat, i.w 3, BitVec.ofNat 4 (fld (i.w 4) 12 4), i.spring⟩] }) i stOk 0)) ∧
  (∀ (id : Nat) (i : Item) (s : State), Request s id 0x0403 i → sendStatus s i ≠ stOk →
    exec (.wymSend id) s = .next (settleAll (completes s i (sendStatus s i) 0))) ∧
  (∀ (id : Nat) (i : Item) (s : State), Request s id 0x0403 i → sendStatus s i = stOk → anyUp s = true →
    scopeFits s i.fn (BitVec.ofNat 16 (fld (i.w 5) 0 16)) (i.ref 1).loc.raddr = true → (i.ref 0).loc.kind = .local_ →
    exec (.wymSend id) s = .next (settleAll (sendItem { s with writes := s.writes ++
      [⟨i.wr, i.fn, BitVec.ofNat 16 (fld (i.w 5) 0 16), (i.ref 1).loc.raddr, 1⟩] } i (.send (i.w 4) ((i.ref 0).loc.base + i.w 1).toNat)))) ∧
  (∀ (id : Nat) (i : Item) (s : State), Request s id 0x0404 i → 8 ≤ fld (i.w 5) 32 8 → exec (.wymAtomic id) s = .next (settleAll (completes s i stUndef 0))) ∧
  (∀ (id : Nat) (i : Item) (s : State), Request s id 0x0404 i → fld (i.w 5) 32 8 < 8 →
    (i.ref 0).check [.remote] [rightWr] = stOk → (i.ref 1).check [.local_] [rightWr] = stOk → remIsEp (i.ref 0).loc = false →
    (i.ref 0).loc.holds (i.w 1) 8 8 = true → (i.ref 1).loc.holds (BitVec.ofNat 64 (fld (i.w 5) 0 32)) 8 8 = true → anyUp s = true →
    exec (.wymAtomic id) s = .next (settleAll (dealMsg (s.updItem id fun x => { x with phase := .active, open_ := 1 }) (256 + 16 * i.fn + i.ring)
      (i.ref 0).loc.raddr (newMsg .atomic i.fn (i.ref 0).loc 0 ((i.ref 0).loc.base + i.w 1) 8 (wymPsize s) none false none (.item i.id) 0
        (.atomic (fld (i.w 5) 32 8) (i.w 2) (i.w 3)))))) ∧
  (∀ (s : State) (d j : Nat) (base : BitVec 128) (m : Msg), dealNext s d = some j → m.kind = .atomic → fld (s.reg (rSchQ j m.queue)) 0 1 = 1 →
    fld (s.reg (rSchQ j m.queue)) 8 8 = m.peck →
    dealMsg s d base m = { s with nextKey := s.nextKey + 1, deal := tblSet 3 s.deal d j,
                                  msgs := s.msgs ++ [{ m with key := s.nextKey, dealer := d, inst := j, dst := instAddr base j, pkts := [(0, ⟨.ready, 0, 0, false, 0⟩)] }] }) ∧
  (∀ (key : Nat) (m : Msg) (s : State), s.msg key = some m →
    exec (.wymSealRelease key) s = .next (if m.held ∧ sealFree s m then s.updMsg key fun m => { m with held := false } else s)) ∧
  (∀ (i : Fin 4) (dst : BitVec 128) (path : Fin 128) (m : Msg) (k : Nat) (pk : MsgPkt) (u s : State), s.resps = [] → s.msgs = [m] → m.inst = i.val →
    msgTarget s m = dst → m.pkts = [(k, pk)] → pktDue s m pk = true → pk.tried = false → bestPath s i.val dst none = some path.val →
    ensureDest s i.val dst = some u →
    (u.path i.val dst path.val).next ≤ u.time → (tblGet PQueue.reset (u.port (4 * i.val + path.val / 32)).qs m.queue).ents.length < 256 →
    exec (.wymPacingSlot i dst path) s = .next (settleAll (enqueue (updPkt ((setPath u i.val dst path.val {
      u.path i.val dst path.val with next := u.time + msgFrame u (4 * i.val + path.val / 32) m k * 8000000000 / max 1 (u.path i.val dst path.val).rate }).updMsg
        m.key fun m => { m with begun := true, dst := dst }) m.key k fun pk => { pk with phase := .queued, path := path.val })
      (4 * i.val + path.val / 32) m.queue (.msg m.key k)))) ∧
  (∀ (i : Fin 4) (dst : BitVec 128) (path : Fin 128) (r : Resp) (q : Nat) (u s : State), s.resps = [r] → r.wait = false → r.port / 4 = i.val →
    r.req.src = dst → r.path = path.val → ensureDest s i.val dst = some u → (u.path i.val dst path.val).next ≤ u.time →
    respQueue { u with resps := [] } i.val r.peck = some q → (tblGet PQueue.reset (u.port r.port).qs q).ents.length < 256 →
    exec (.wymPacingSlot i dst path) s = .next (settleAll (enqueue (setPath { u with resps := [] } i.val dst path.val {
      u.path i.val dst path.val with
        next := u.time + pktFrame (portVlan u r.port) false (respLen r) * 8000000000 / max 1 (u.path i.val dst path.val).rate }) r.port q (.resp r))))

/-- The transport's timers, each of which does nothing before its time: a delayed acknowledgement is sent (R273); a finished tracker is dropped after
its linger and an idle one with a count (R274); a cached result is dropped after a horizon (R281); an unacknowledged packet is ready again after its
RTO, an avoided path is probed after its time, and a probe leaves when none is out (R282, R287); a message past its horizon fails with
ST_HORIZON_EXCEEDED (R283); and a hold ends with message numbers from 0 (R290). -/
def Obligations.TransportTimers : Prop :=
  (∀ (i : Fin 4) (src : BitVec 128) (msgid : Word) (t0 : Trk) (f : Nat) (s : State), s.trk i.val src msgid = some t0 → t0.first = some f →
    exec (.wymAckdelayExpiry i src msgid) s = .next (
      if f + fld (s.reg rWymCc) 56 8 * 100 ≤ s.time then ack (setTrk s i.val { t0 with since := 0, first := none }) t0.port t0.pkt t0.bits t0.at_ else s)) ∧
  (∀ (i : Fin 4) (src : BitVec 128) (msgid : Word) (t0 : Trk) (d : Nat) (s : State), s.trk i.val src msgid = some t0 → t0.done = some d →
    exec (.trackerLingerExpiry i src msgid) s = .next (
      if d + fld (s.reg rWymHorizon) 16 14 * 1000 ≤ s.time then
        s.setInst i.val { s.inst i.val with trks := (s.inst i.val).trks.filter fun y => !(y.src == src && y.msgid == msgid) }
      else s)) ∧
  (∀ (i : Fin 4) (src : BitVec 128) (msgid : Word) (t0 : Trk) (s : State), s.trk i.val src msgid = some t0 → t0.done = none →
    exec (.trackerIdleExpiry i src msgid) s = .next (
      if t0.last + fld (s.reg rWymHorizon) 32 10 * 100000 ≤ s.time then
        (s.setInst i.val { s.inst i.val with trks := (s.inst i.val).trks.filter fun y => !(y.src == src && y.msgid == msgid) }).bump (rWymCtr i.val 11) 1
      else s)) ∧
  (∀ (i : Fin 4) (src : BitVec 128) (msgid : Word) (c : CacheEnt) (s : State), (s.inst i.val).cache = [c] → c.src = src → c.msgid = msgid →
    exec (.resultCacheExpiry i src msgid) s = .next (
      if c.made + fld (s.reg rWymHorizon) 0 7 * 1000000 ≤ s.time then s.setInst i.val { s.inst i.val with cache := [] } else s)) ∧
  (∀ (key : Nat) (m : Msg) (k q : Nat) (pk : MsgPkt) (s : State), s.msg key = some m → m.pkts = [(k, pk)] → pk.phase = .flight q →
    exec (.wymRtoExpiry key) s = .next (
      if pk.sent + msgRto s m ≤ s.time then s.updMsg key fun m => { m with pkts := m.pkts.map fun (k, pk) => (k, match pk.phase with
        | .flight _ => { pk with phase := .ready, later := 0 }
        | _ => pk) }
      else s)) ∧
  (∀ (key : Nat) (m : Msg) (t0 : Nat) (s : State), s.msg key = some m → m.t0 = some t0 →
    exec (.wymHorizonExpiry key) s = .next (
      if t0 + fld (s.reg rWymHorizon) 0 7 * 1000000 ≤ s.time then settleAll ((endMsg s m stHorizon).bump (rWymCtr m.inst 9) 1) else s)) ∧
  (∀ (i : Fin 4) (dst : BitVec 128) (path : Fin 128) (t0 : Nat) (s : State), (s.path i.val dst path.val).phase = .avoided t0 →
    exec (.pathAvoidExpiry i dst path) s = .next (
      if t0 ≤ s.time then setPath s i.val dst path.val { s.path i.val dst path.val with phase := .probing 0, probe := none, probed := 0 } else s)) ∧
  (∀ (i : Fin 4) (dst : BitVec 128) (path : Fin 128) (g sa : Nat) (s : State), (s.path i.val dst path.val).phase = .probing g → probeSa s = some sa →
    s.time < (s.path i.val dst path.val).probed + (s.path i.val dst path.val).srtt → (s.path i.val dst path.val).probed ≠ 0 →
    exec (.pathProbeTimer i dst path) s = .next s) ∧
  (∀ (i : Fin 4) (dst : BitVec 128) (path : Fin 128) (g sa : Nat) (s : State), (s.path i.val dst path.val).phase = .probing g → probeSa s = some sa →
    (s.path i.val dst path.val).probed = 0 → (s.port (4 * i.val + path.val / 32)).ctl = [] →
    Gives (.pathProbeTimer i dst path) s fun t => t.free = s.free + 1 ∧
      ((t.port (4 * i.val + path.val / 32)).ctl.map fun p => (p.1.typ, p.1.dst, p.1.src, p.1.path.toNat, p.1.spi.toNat)) =
        [(BitVec.ofNat 8 9, dst, instAddr (fabricBase s) i.val, path.val, saSpi s sa)]) ∧
  (∀ (i : Fin 4) (t0 : Nat) (s : State), (s.inst i.val).hold = some t0 → t0 ≠ 0 →
    exec (.wymHoldEnd i) s = .next (if t0 ≤ s.time then s.setInst i.val { s.inst i.val with hold := some 0, nextMsg := 0 } else s))

/-- Ethernet ports and the egress scheduler: a link comes up in the port's mode with its advertisements and solicitation queued (R251, R254), and the
instance holds its transmissions for one horizon when it is its first (R290); a link that goes down hands its control frames to the lowest other
port that is up and drops its probes (R299); neighbour discovery and ARP answer for the device's own addresses and count the rest, and a bad frame
counts (R252, R254); WYM_HORIZON is refused while a port is enabled and takes its fields otherwise (R284, R293); an SA's identity keeps while it is
valid, its SPI is not 0, and it becomes valid only with an SPI that no other SA has, a living Peck and that Peck's key slot (R294, R295); SCH_Q,
shapers and gate chains take legal writes and refuse the rest (R306, R308, R316, R319 to R321); a bank switches at SWITCHAT (R311); a control frame
is sent when its port is free and its shaper conforms, with the port's VLAN and control DSCP, and occupies the port for its length (R297, R305). -/
def Obligations.PortsAndScheduler : Prop :=
  (∀ (port : Fin 16) (s : State), fld (s.reg (rWymPort port.val)) 0 1 = 1 → (s.port port.val).link ≠ 2 → (s.inst (port.val / 4)).hold = some 0 →
    s.msgs = [] → Quiet s →
    Gives (.ethLinkUp port) s fun t => (t.port port.val).link = 2 ∧ (t.port port.val).mode = fld (s.reg (rWymPort port.val)) 1 2 ∧
      ((t.port port.val).fw.map (·.1)) = ((s.port port.val).fw.map (·.1)) ++ (List.replicate 4 "NEIGHBOUR_ADVERTISEMENT" ++ ["NEIGHBOUR_SOLICITATION"]) ∧
      t.insts = s.insts ∧ t.mem = s.mem ∧ t.out = s.out) ∧
  (∀ (port : Fin 16) (s : State), fld (s.reg (rWymPort port.val)) 0 1 = 1 → (s.port port.val).link ≠ 2 → (s.inst (port.val / 4)).hold = none →
    s.msgs = [] → Quiet s →
    Gives (.ethLinkUp port) s fun t => (t.inst (port.val / 4)).hold = some (s.time + fld (s.reg rWymHorizon) 0 7 * 1000000)) ∧
  (∀ (port : Fin 16) (s : State), (s.port port.val).link = 2 → (s.port port.val).qs = [] → fld (s.reg (rWymPort port.val)) 0 1 = 1 →
    (∀ a ∈ (s.port port.val).ctl, a.1.typ.toNat = 9) →
    Gives (.ethLinkDown port) s fun t => t.port port.val = { s.port port.val with link := 1, ctl := [], cmark := 0 } ∧ t.msgs = s.msgs) ∧
  (∀ (port to_ : Fin 16) (a : Pkt × Nat) (s : State), (s.port port.val).link = 2 → (s.port port.val).qs = [] → (s.port port.val).ctl = [a] →
    a.1.typ.toNat ≠ 9 → to_.val / 4 = port.val / 4 → to_ ≠ port → portUp s to_.val = true → (∀ k < 4, 4 * (port.val / 4) + k < to_.val →
      4 * (port.val / 4) + k ≠ port.val → portUp s (4 * (port.val / 4) + k) = false) →
    Gives (.ethLinkDown port) s fun t => (t.port to_.val).ctl = (s.port to_.val).ctl ++ [a] ∧ (t.port port.val).ctl = []) ∧
  (∀ (port : Fin 16) (s : State), Ready s → s.reg (rWymPort port.val) = 0 →
    Gives (.wymPortCfgWrite port .full 3) s fun t => t.reg (rWymPort port.val) = 3 ∧ (t.port port.val).link = 1 ∧ (t.port port.val).cTok = [] ∧
      (t.port port.val).pTok = []) ∧
  (∀ (port : Fin 16) (target : BitVec 128) (mac : BitVec 48) (s : State), portUp s port.val = true →
    exec (.neighbourDiscovery port true target mac) s = .next (
      if (List.range 4).any (fun k => target == instAddr (fabricBase s) k) then
        s.setPort port.val { s.port port.val with fw := (s.port port.val).fw ++ [("NEIGHBOUR_ADVERTISEMENT", [target.toNat], ndLen)] }
      else s.bump (rWymOther port.val) 1)) ∧
  (∀ (port : Fin 16) (target : BitVec 128) (mac : BitVec 48) (s : State), portUp s port.val = true → target.toNat = nextHop s port.val →
    exec (.neighbourDiscovery port false target mac) s = .next (s.setPort port.val { s.port port.val with nhop := some mac })) ∧
  (∀ (port : Fin 16) (target : BitVec 32) (s : State), portUp s port.val = true →
    exec (.arpRequest port target (some target)) s =
      .next (s.setPort port.val { s.port port.val with fw := (s.port port.val).fw ++ [("ARP_REPLY", [target.toNat], 64)] }) ∧
    exec (.arpRequest port target none) s = .next s) ∧
  (∀ (port : Fin 16) (s : State), portUp s port.val = true → exec (.ethFrameInvalid port) s = .next (s.bump (rWymOther port.val) 1)) ∧
  (∀ (v : Word) (s : State), Ready s → portsOff s = false → exec (.wymHorizonWrite .full v) s = .next s.errWr) ∧
  (∀ (v : Word) (s : State), Ready s → portsOff s = true → 2 ≤ fld v 0 7 → fld v 0 7 ≤ 100 → 1 ≤ fld v 8 8 → fld v 8 8 ≤ 100 →
    10 ≤ fld v 16 14 → fld v 16 14 ≤ 10000 → 1 ≤ fld v 32 10 → fld v 32 10 ≤ 1000 → fld v 8 8 * 2 ≤ fld v 0 7 * 10 →
    Gives (.wymHorizonWrite .full v) s fun t => fld (t.reg rWymHorizon) 0 7 = fld v 0 7 ∧ fld (t.reg rWymHorizon) 8 8 = fld v 8 8 ∧
      fld (t.reg rWymHorizon) 16 14 = fld v 16 14 ∧ fld (t.reg rWymHorizon) 32 10 = fld v 32 10 ∧ t.reg rErrWr = s.reg rErrWr) ∧
  (∀ (n : Fin 1024) (v : Word) (s : State), Ready s → fld v 0 32 ≠ 0 →
    exec (.wymSaKeyWrite n true .full v) s = .next (if saValid s n.val then s.errWr else s.setReg (rSaId n.val) v)) ∧
  (∀ (n : Fin 1024) (v : Word) (s : State), Ready s → fld v 0 32 = 0 → saValid s n.val = false →
    Gives (.wymSaKeyWrite n true .full v) s fun t => saSpi t n.val = saSpi s n.val ∧ fld (t.reg (rSaId n.val)) 32 32 = fld v 32 32 ∧
      t.reg rErrWr = s.reg rErrWr + 1) ∧
  (∀ (n : Fin 1024) (v : Word) (s : State), Ready s → saValid s n.val = false → fld v 13 1 = 1 → saSpi s n.val = 0 → fld v 16 8 ≠ 0 →
    exec (.wymSaKeyWrite n false .full v) s = .next s.errWr) ∧
  (∀ (n : Fin 1024) (v : Word) (s : State), Ready s → saValid s n.val = false → fld v 13 1 = 1 → saSpi s n.val ≠ 0 → saBySpi s (saSpi s n.val) = none →
    fld v 16 8 ≠ 0 → (s.peck (fld v 16 8)).state = .active → (s.peck (fld v 16 8)).keys.testBit (fld v 0 12) = true →
    Gives (.wymSaKeyWrite n false .full v) s fun t => saValid t n.val = true ∧ saPeck t n.val = fld v 16 8 ∧ saSlot t n.val = fld v 0 12 ∧
      saEnc t n.val = v.getLsbD 12) ∧
  (∀ (d : Fin 4) (q : Fin 4096) (v : Word) (s : State), Ready s → Quiet s → s.reg (rSchQ d.val q.val) = 0 → fld v 0 1 = 1 →
    (s.peck (fld v 8 8)).state = .active → fld v 8 8 ≠ 0 → fld v 16 16 ≠ 0 →
    Gives (.schQWrite d q .full v) s fun t => fld (t.reg (rSchQ d.val q.val)) 0 4 = fld v 0 4 ∧ fld (t.reg (rSchQ d.val q.val)) 8 8 = fld v 8 8 ∧
      fld (t.reg (rSchQ d.val q.val)) 16 16 = fld v 16 16 ∧ fld (t.reg (rSchQ d.val q.val)) 32 6 = fld v 32 6 ∧ t.ports = s.ports) ∧
  (∀ (d : Fin 4) (q : Fin 4096) (v : Word) (s : State), Ready s → Quiet s → fld v 8 8 ≠ 0 → (s.peck (fld v 8 8)).state = .free →
    exec (.schQWrite d q .full v) s = .next s.errWr) ∧
  (∀ (r : ShReg) (port : Fin 16) (k : Fin 256) (v : Word) (s : State), Ready s → k.val ≠ 0 → fld v 20 16 < 0x24 →
    exec (.schShaperWrite r port k .full v) s = .next s.errWr) ∧
  (∀ (port : Fin 16) (k : Fin 256) (v : Word) (s : State), Ready s → 0x24 ≤ fld v 20 16 → fld v 0 20 ≤ 800000 →
    Gives (.schShaperWrite .ctl port k .full v) s fun t => fld (t.reg (rCtlShp port.val)) 0 20 = fld v 0 20 ∧
      fld (t.reg (rCtlShp port.val)) 20 16 = fld v 20 16 ∧
      (t.port port.val).ctlTok = ⟨if fld v 36 1 = 1 then 0 else ((fld v 20 16 * 256 * 8192000 : Nat) : Int), s.mono⟩) ∧
  (∀ (port : Fin 16) (s : State), (s.port port.val).switch_ = true → (s.port port.val).swAt ≤ s.time → Quiet s →
    exec (.gateEntryBoundary port) s = .next (s.setPort port.val { s.port port.val with bank := 1 - (s.port port.val).bank, switch_ := false, swAt := 0 })) ∧
  (∀ (port : Fin 16) (v : Word) (s : State), Ready s → fld v 2 1 = 0 → (s.port port.val).switch_ = false →
    exec (.schGatectlSwitch port .full v) s = .next (s.setReg (rGateCtl port.val) (v &&& 1))) ∧
  (∀ (port : Fin 16) (v : Word) (s : State), Ready s → fld v 2 1 = 1 → (s.port port.val).switch_ = false →
    let u := s.setReg (rGateCtl port.val) (v &&& 1)
    chainOk (chainOf u port.val (1 - (u.port port.val).bank)) = true → s.time < (u.reg (rSwitchAt port.val)).toNat →
    exec (.schGatectlSwitch port .full v) s =
      .next (u.setPort port.val { u.port port.val with switch_ := true, swAt := (u.reg (rSwitchAt port.val)).toNat })) ∧
  (∀ (port : Fin 16) (v : Word) (s : State), Ready s → fld v 2 1 = 1 → s.time < (s.port port.val).swAt →
    let u := s.setReg (rGateCtl port.val) (v &&& 1)
    chainOk (chainOf u port.val (1 - (u.port port.val).bank)) = false →
    exec (.schGatectlSwitch port .full v) s =
      .next (u.setPort port.val { u.port port.val with switch_ := false, swAt := 0 }).errWr) ∧
  (∀ (port : Fin 16) (bank : Fin 2) (r : ChainReg) (v : Word) (s : State), Ready s → gatesOn s port.val = true → bankAt s port.val s.time = bank.val →
    exec (.schChainWrite port bank r .full v) s = .next s.errWr) ∧
  (∀ (port : Fin 16) (bank : Fin 2) (v : Word) (s : State), Ready s → gatesOn s port.val = false →
    Gives (.schChainWrite port bank .base .full v) s fun t => t.reg (rSchBase port.val bank.val) = v ∧ t.reg rErrWr = s.reg rErrWr) ∧
  (∀ (port : Fin 16) (s : State), portUp s port.val = true → s.mono * 100 < (s.port port.val).busy → exec (.schTransmit port) s = .next (settleAll s)) ∧
  (∀ (port : Fin 16) (what : String) (fs : List Nat) (len : Nat) (s : State), portUp s port.val = true → (s.port port.val).busy ≤ s.mono * 100 →
    Quiet s → (s.port port.val).nhop = none → (s.port port.val).fw = [(what, fs, len)] → 0 < (ctlTok s port.val).n → gatesOn s port.val = false →
    what ≠ "PTP_DELAY_REQ" → (s.port port.val).switch_ = false →
    Gives (.schTransmit port) s fun t => t.out = .frame port.val what (portVlan s port.val) (ctlDscp s port.val) fs [] :: s.out ∧ (t.port port.val).fw = [] ∧
      (t.port port.val).busy = s.mono * 100 + (len + vlanLen (portVlan s port.val) + 20) * 2 ^ (s.port port.val).mode ∧
      (t.port port.val).ctlTok.n = (ctlTok s port.val).n - tokOf (len + vlanLen (portVlan s port.val) + 20))
namespace Sys2Proof.Spec

/-- The queue in which an engine's copy `k` stands alone, its turn to begin (R169). -/
abbrev CopyAlone (s : State) (e : Fin 128) (q : Fin 4) (k : Copy) : Prop :=
  (s.eng e.val).queue q.val = [k] ∧ (∀ j : Fin 4, j ≠ q → (s.eng e.val).queue j.val = []) ∧ k.phase = .queued ∧ (s.eng e.val).resetting = false ∧
  Quiet s ∧ s.cqs = []

/-- No word waits for its error to be found: memory reads as it stands (R14, R436). -/
abbrev Settled (s : State) : Prop := s.latent = [] ∧ ∀ e ∈ s.mem.tags, e.2 ≠ Tag.rsvd

/-- None of the n words from address a on is CODE. -/
abbrev NoCode (s : State) (a n : Nat) : Prop := ∀ e ∈ s.mem.tags, e.2 = Tag.code → e.1 < a / 8 ∨ a / 8 + n ≤ e.1

end Sys2Proof.Spec

/-- Copies as they run: a FILL gives every word of its destination the pattern under its import tag (R171); a copy within the device moves words
with their tags, as if all were read before any is written (R44); the oldest copy of a queue completes, is counted, records a failure in its
slot's status word and signals (R169, R175, R176); an unfinished one stays. -/
def Obligations.CopiesRun : Prop :=
  (∀ (e : Fin 128) (q : Fin 4) (deny : List Nat) (k : Copy) (s : State), CopyAlone s e q k → k.src = none → k.dst.kind = .local_ → k.status = stOk →
    let a := k.dst.base.toNat + k.dstOff.toNat
    a % 8 = 0 → NoCode s a (k.len / 8) →
    Gives (.copyStart e k.id deny) s fun t => (∀ j ∈ List.range (k.len / 8), t.mem.word (a + 8 * j) = ⟨k.srcOff, k.imp⟩) ∧
      (t.eng e.val).queue q.val = [{ k with phase := .moving, moved := k.len }]) ∧
  (∀ (e : Fin 128) (q : Fin 4) (deny : List Nat) (k : Copy) (l : Loc) (s : State), CopyAlone s e q k → k.src = some l → l.kind = .local_ →
    k.dst.kind = .local_ → k.status = stOk → k.rows ≤ 1 → k.len % 8 = 0 → Settled s →
    let a := k.dst.base.toNat + k.dstOff.toNat
    let b := l.base.toNat + k.srcOff.toNat
    a % 8 = 0 → b % 8 = 0 → NoCode s a (k.len / 8) →
    Gives (.copyStart e k.id deny) s fun t => (∀ j ∈ List.range (k.len / 8), t.mem.word (a + 8 * j) = s.mem.word (b + 8 * j)) ∧
      (t.eng e.val).queue q.val = [{ k with phase := .moving, moved := k.len }]) ∧
  (∀ (e : Fin 128) (q : Fin 4) (k : Copy) (ks : List Copy) (s : State), (s.eng e.val).queue q.val = k :: ks → (∀ x ∈ ks, x.id ≠ k.id) →
    k.phase = .moving → k.open_ = 0 → k.todo = [] → k.reading = false → k.sig = false → k.slot < 8 →
    Gives (.copyComplete e q) s fun t => (t.eng e.val).queue q.val = ks ∧ (t.eng e.val).progress = (s.eng e.val).progress + 1 ∧
      (t.eng e.val).cpybytes = (s.eng e.val).cpybytes + BitVec.ofNat 64 (if k.status = stOk then k.len * max 1 k.rows else k.moved) ∧
      (t.eng e.val).cpyerr = (s.eng e.val).cpyerr + (if k.status = stOk then 0 else 1) ∧
      tblGet CpyStat.clear ((t.eng e.val).ctx k.slot).cpystat q.val =
        (let c := tblGet CpyStat.clear ((s.eng e.val).ctx k.slot).cpystat q.val
         if k.status = stOk then c
         else if c.errcount = 0 then ⟨k.status, 1, BitVec.ofNat 8 k.seq, k.fault⟩
         else { c with errcount := if c.errcount = 255 then 255 else c.errcount + 1 })) ∧
  (∀ (e : Fin 128) (q : Fin 4) (k : Copy) (s : State), (s.eng e.val).queue q.val = [k] → k.phase = .moving → k.open_ = 0 → k.todo = [] →
    k.reading = false → k.sig = true → k.status = stOk → (s.eng e.val).semQ = [] →
    Gives (.copyComplete e q) s fun t => (t.eng e.val).sem k.sem = (s.eng e.val).sem k.sem + k.sigval.setWidth 64 ∧ (t.eng e.val).queue q.val = []) ∧
  (∀ (e : Fin 128) (q : Fin 4) (k : Copy) (s : State), (s.eng e.val).queue q.val = [k] → k.phase = .queued ∨ k.open_ ≠ 0 →
    exec (.copyComplete e q) s = .next s)

/-- Work items of contexts: a program load tags what it loads CODE, and a failed read of an external source zeroes what was loaded (R161); an unload
zeroes the CODE words of its region (R162); a start request answers the first check it fails, and otherwise its context stands in the lowest
free slot with the start record's PC and registers, or waits (R163 to R166); a context that has ended completes its item and frees its slot
(R167, R168, R574). -/
def Obligations.WorkItems : Prop :=
  (∀ (id : Nat) (data : List Byte) (st : Status) (i : Item) (s : State), Request s id 0x0101 i → progLoadStatus s i ≠ stOk →
    exec (.progLoad id data st) s = .next (completes s i (progLoadStatus s i) 0)) ∧
  (∀ (id : Nat) (data : List Byte) (st : Status) (i : Item) (s : State), Request s id 0x0101 i → progLoadStatus s i = stOk →
    (i.ref 0).loc.kind = .local_ → Settled s →
    let a := (i.ref 0).loc.base.toNat + (i.w 1).toNat
    let n := (i.w 4).toNat / 8
    let p := (i.ref 1).loc.base.toNat + (i.w 3).toNat
    a % 8 = 0 → (∀ k ∈ List.range n, (s.mem.word (a + 8 * k)).tag ≠ Tag.poison ∧ (s.mem.word (a + 8 * k)).tag ≠ Tag.handle) →
    exec (.progLoad id data st) s =
      .next (completes (s.putWords p ((List.range n).map fun k => ⟨(s.mem.word (a + 8 * k)).bits, Tag.code⟩)) i stOk 0)) ∧
  (∀ (id : Nat) (data : List Byte) (st : Status) (i : Item) (s : State), Request s id 0x0101 i → progLoadStatus s i = stOk →
    (i.ref 0).loc.kind ≠ .local_ →
    let p := (i.ref 1).loc.base.toNat + (i.w 3).toNat
    (st = stOk → data.length = (i.w 4).toNat → exec (.progLoad id data st) s = .next (completes (s.putWords p
      ((List.range (data.length / 8)).map fun k => ⟨BitVec.ofNat 64 (natOfBytes ((data.drop (8 * k)).take 8)), Tag.code⟩)) i stOk 0)) ∧
    (st ≠ stOk → exec (.progLoad id data st) s = .next (completes (s.zeroMem p (min data.length (i.w 4).toNat / 8 * 8)) i st 0))) ∧
  (∀ (ws : List TWord) (a : Nat) (s : State) (j : Nat), a % 8 = 0 → j < ws.length → (s.putWords a ws).mem.word (a + 8 * j) = ws.getD j TWord.zero) ∧
  (∀ (id : Nat) (i : Item) (s : State), Request s id 0x0102 i →
    let a := (i.ref 0).loc.base.toNat
    let n := (i.ref 0).loc.len.toNat
    ((i.ref 0).check [.local_] [rightWr, rightEx] ≠ stOk →
      exec (.progUnload id) s = .next (completes s i ((i.ref 0).check [.local_] [rightWr, rightEx]) 0)) ∧
    ((i.ref 0).check [.local_] [rightWr, rightEx] = stOk → s.allCtx = [] →
      exec (.progUnload id) s = .next (completes
        (((s.mem.tags.filter fun e => e.2 == Tag.code && decide (a ≤ 8 * e.1) && decide (8 * e.1 < a + n)).map (·.1)).foldl
          (fun s w => s.putWord (8 * w) TWord.zero) s) i stOk 0))) ∧
  (∀ (ws : List Nat) (s : State) (w : Nat),
    (ws.foldl (fun s w => s.putWord (8 * w) TWord.zero) s).mem.word (8 * w) = if w ∈ ws then TWord.zero else s.mem.word (8 * w)) ∧
  (∀ (id : Nat) (i : Item) (s : State), Request s id 0x0100 i → (i.ref 0).check [.local_] [rightRd] = stOk →
    (i.ref 0).loc.holds (i.w 1) 256 64 = true → Settled s →
    let ws := (List.range 32).map fun k => s.mem.word ((i.ref 0).loc.base.toNat + (i.w 1).toNat + 8 * k)
    startStatus s i.fn ws ≠ stOk → exec (.ctxStart id) s = .next (completes s i (startStatus s i.fn ws) 0)) ∧
  (∀ (id : Nat) (i : Item) (e : Fin 128) (k : Fin 8) (s : State), Request s id 0x0100 i → s.items = [i] → i.id = id →
    (i.ref 0).check [.local_] [rightRd] = stOk → (i.ref 0).loc.holds (i.w 1) 256 64 = true → Settled s →
    let ws := (List.range 32).map fun k => s.mem.word ((i.ref 0).loc.base.toNat + (i.w 1).toNat + 8 * k)
    let w := fun n => ws.getD n TWord.zero
    startStatus s i.fn ws = stOk → fld (w 0).bits 27 1 = 0 → placeFor s i.fn (w 0).bits = some (e.val, k.val) →
    Gives (.ctxStart id) s fun t => t.items = [{ i with phase := .active }] ∧
      (let x := t.ctx ⟨e, k⟩
       x.state = .running ∧ x.pc = (w 2).bits ∧ x.code = (w 1).bits ∧ x.item = some id ∧ x.peck.toNat = i.fn % 256 ∧
       (∀ j ∈ List.range 8, x.sreg j = w (24 + j)) ∧ (∀ j ∈ List.range 16, (w (8 + j)).tag = Tag.handle → x.hreg j = w (8 + j)) ∧
       x.srkey = (if fld (w 0).bits 25 1 = 1 then (w 3).bits else 0) ∧ x.srstep = (if fld (w 0).bits 25 1 = 1 then (w 5).bits else 0))) ∧
  (∀ (id : Nat) (i : Item) (s : State), Request s id 0x0100 i → (i.ref 0).check [.local_] [rightRd] = stOk →
    (i.ref 0).loc.holds (i.w 1) 256 64 = true → Settled s →
    let ws := (List.range 32).map fun k => s.mem.word ((i.ref 0).loc.base.toNat + (i.w 1).toNat + 8 * k)
    startStatus s i.fn ws = stOk → fld (ws.getD 0 TWord.zero).bits 27 1 = 0 → placeFor s i.fn (ws.getD 0 TWord.zero).bits = none →
    exec (.ctxStart id) s = .next { s.updItem id fun x => { x with phase := .waiting } with starts := s.starts ++ [(id, startCtx s i ws [])] }) ∧
  (∀ (id : Nat) (i : Item) (x : Ctx) (s : State), s.items = [i] → i.id = id → i.typ.toNat = 0x0100 → i.phase = .waiting → s.starts = [(id, x)] →
    let w := (x.start.getD 0 TWord.zero).bits
    (startHeld s i.fn w = false → exec (.contextPlace id) s = .next (completes s i stRights 0)) ∧
    (startHeld s i.fn w = true → placeFor s i.fn w = none → exec (.contextPlace id) s = .next s)) ∧
  (∀ (id : Nat) (i : Item) (x : Ctx) (e : Fin 128) (k : Fin 8) (s : State), s.items = [i] → i.id = id → i.typ.toNat = 0x0100 → i.phase = .waiting →
    s.starts = [(id, x)] →
    let w := (x.start.getD 0 TWord.zero).bits
    startHeld s i.fn w = true → placeFor s i.fn w = some (e.val, k.val) →
    Gives (.contextPlace id) s fun t => t.items = [{ i with phase := .active }] ∧ t.ctx ⟨e, k⟩ = { x with cyc0 := s.qcycles } ∧ t.starts = []) ∧
  (∀ (c : CtxId) (i : Item) (s : State), (s.ctx c).state = .halted → copiesOpen s c = false → (s.ctx c).held = false → (s.ctx c).replay = false →
    (s.ctx c).item = some i.id → s.item i.id = some i → (s.ctx c).save = none →
    exec (.workItemComplete c) s = .next ((freeCtx s c).completeItem i ((s.ctx c).cpyFence) (s.ctx c).result (s.ctx c).pc)) ∧
  (∀ (c : CtxId) (s : State), (freeCtx s c).ctx c = Ctx.free) ∧
  (∀ (c : CtxId) (s : State), (s.ctx c).state = .running → exec (.workItemComplete c) s = .next s) ∧
  (∀ (s : State) (k : Fin 8) (x : Ctx) (l : Loc) (st : CtxState), x.save = some l → l.base.toNat % 8 = 0 → NoCode s l.base.toNat 4432 →
    let w := fun n => (saveRecord s k.val x st).1.mem.word (l.base.toNat + 8 * n)
    w 2 = TWord.int x.pc ∧ w 3 = TWord.int x.flg ∧ w 4 = TWord.int x.srkey ∧ w 6 = TWord.int x.srstep ∧
    (∀ j ∈ List.range 32, w (8 + j) = x.sreg j) ∧ (∀ j ∈ List.range 16, w (40 + j) = x.hreg j) ∧ (saveRecord s k.val x st).2 = false)
namespace Sys2Proof.Spec

/-- The collective requests by the OP of their record (R194). -/
def collectives : List ((Nat → Instr) × Nat) :=
  [(.allreduce, 0), (.reduceScatter, 1), (.allgather, 2), (.reduce, 3), (.broadcast, 4), (.alltoall, 5), (.step, 6)]

/-- A collective request whose record of 16 words `ws` can be read (R193). -/
abbrev CollAsked (s : State) (id : Nat) (i : Item) (ws : List TWord) : Prop :=
  Request s id 0x0200 i ∧ (i.ref 0).check [.local_] [rightRd] = stOk ∧ (i.ref 0).loc.holds (i.w 1) 128 128 = true ∧ Settled s ∧
  ws = (List.range 16).map fun k => s.mem.word (((i.ref 0).loc.base + i.w 1).toNat + 8 * k)

/-- Collective `c` runs, is not decided, and no announce record disagrees with it (R202, R203). -/
abbrev CollRuns (s : State) (id : Nat) (c : Coll) : Prop :=
  s.coll id = some c ∧ c.running = true ∧ c.endSt = none ∧ mismatched s c = false ∧ Quiet s

/-- The piece that this member owns is summed without a program: its contributions have landed, hold no POISON, and an engine can take it
(R204, R205). -/
abbrev PieceReady (s : State) (c : Coll) (k : Nat) : Prop :=
  (ownedChunks c.rec_).contains k = true ∧ c.red = [] ∧ crTree c.rec_ = false ∧ crProgram c.rec_ = false ∧ crVerdict c.rec_ = false ∧
  crNorm c.rec_ = false ∧ (∀ o ∈ pieceAreas c.rec_ k, landed s c o (pieceLen c.rec_ k (crSelf c.rec_) * crSi c.rec_) = true) ∧
  (jobPlace s c.peck c.engs 7).isSome = true ∧ Settled s ∧ ∀ e ∈ s.mem.tags, e.2 ≠ Tag.poison

/-- A collective that can leave at once: alone in the device, nothing under way for it. -/
abbrev CollAlone (s : State) (c : Coll) : Prop :=
  s.colls = [c] ∧ c.running = true ∧ c.sent = 0 ∧ c.xfers = [] ∧ c.jobs = [] ∧ s.fetches = [] ∧ s.msgs = [] ∧ s.vreqs = [] ∧ s.reads = [] ∧ s.landed = [] ∧
  Quiet s ∧ ∀ g ∈ s.groups, g.peck = c.peck → g.group = crGroup c.rec_ → g.gone = [] ∧ g.done = (crSeq c.rec_).toNat

/-- The device after collective `c` of group `g` has left: LAST holds its SEQ (R200, R224). -/
def collGone (s : State) (c : Coll) : State :=
  { s with
    colls := []
    groups := s.groups.map fun (g : Group) => if g.peck = c.peck ∧ g.group = crGroup c.rec_ then { g with done := (crSeq c.rec_).toNat + 1 } else g }

end Sys2Proof.Spec

/-- Collective requests (R193, R198, R200, R202): a record that cannot be read, names no OP, is tainted or breaks a field rule is refused with
its status; the first failing check of R198 answers; an accepted one takes its SEQ in the group, binds its landing region and runs when its turn
has come. -/
def Obligations.CollectiveRequests : Prop :=
  (∀ e ∈ collectives, ∀ (id : Nat) (i : Item) (ws : List TWord) (s : State), CollAsked s id i ws → wordPoison (wd ws 0) = false → crOp ws = e.2 →
    Quiet s →
    (anyPoison ws = true → exec (e.1 id) s = .next (completes s i stPoison 0)) ∧
    (anyPoison ws = false → anyPoison (crLists s ws).2.words = true → exec (e.1 id) s = .next (completes s i stPoison 0)) ∧
    (anyPoison ws = false → anyPoison (crLists s ws).2.words = false → crFieldsOk ws = false →
      exec (e.1 id) s = .next (completes s i stRedBadRecord 0)) ∧
    (∀ (l : CrLists) (hd : List TWord), anyPoison ws = false → (crLists s ws).2 = l → anyPoison l.words = false →
      hd = (if crOp ws = 6 then (crList s (wd ws 11) 4).2 else []) →
      (crStatus s i.fn ws l hd ≠ stOk → exec (e.1 id) s = .next (completes s i (crStatus s i.fn ws l hd) 0)) ∧
      (crStatus s i.fn ws l hd = stOk → exec (e.1 id) s = .next (settleAll (collNext
        (addColl (s.updItem i.id fun x => { x with phase := .active }) (newColl s i ws l hd)) i.fn (crGroup ws)))))) ∧
  (∀ e ∈ collectives, ∀ (id : Nat) (i : Item) (ws : List TWord) (s : State), CollAsked s id i ws → crOp ws ≠ e.2 → Quiet s →
    exec (e.1 id) s = .next s) ∧
  (∀ (s : State) (c : Coll), s.groups = [] → s.bindings = [] → s.colls = [] → crSeq c.rec_ = 0 → s.landed = [] →
    (addColl s c).groups = [⟨c.peck, crGroup c.rec_, 0, 1, []⟩] ∧ (addColl s c).bindings = [⟨c.landing.index, c.landing.gen, c.peck, crGroup c.rec_⟩] ∧
    (addColl s c).colls = [c] ∧ (addColl s c).mem = s.mem) ∧
  (∀ (s : State) (c : Coll) (x : Landed) (k : Nat), s.landed = [x] → x.index = c.landing.index → x.seq = c.seq → c.rowsAt ≤ x.off →
    x.off + x.len ≤ c.rowsAt + c.rowsLen → (c.landing.base.toNat + x.off) % 8 = 0 → k < x.len / 8 →
    (s.mem.word (c.landing.base.toNat + x.off + 8 * k)).tag ≠ Tag.poison →
    (addColl s c).mem.word (c.landing.base.toNat + x.off + 8 * k) = TWord.int (s.mem.word (c.landing.base.toNat + x.off + 8 * k)).bits) ∧
  (∀ (s : State) (c : Coll), s.groups = [⟨c.peck, crGroup c.rec_, (crSeq c.rec_).toNat, (crSeq c.rec_).toNat + 1, []⟩] → s.colls = [c] → c.running = false →
    crNmem c.rec_ = 1 → crSelf c.rec_ = 0 → crVerdict c.rec_ = false → crNorm c.rec_ = false → crReverse c.rec_ = false →
    Settled s → collNext s c.peck (crGroup c.rec_) = { s with colls := [{ c with
      running := true, t0 := s.time, lastAnn := s.time
      step := if crOp c.rec_ = 6 then (s.mem.word (c.state_.base.toNat + 8)).bits else c.step }] }) ∧
  (∀ (s : State) (c : Coll) (g : Group), s.groups = [g] → g.peck = c.peck → g.group = crGroup c.rec_ → s.colls = [c] → g.done ≠ (crSeq c.rec_).toNat →
    collNext s c.peck (crGroup c.rec_) = s) ∧
  (∀ (id : Nat) (i : Item) (s : State), Request s id 0x0200 i → Quiet s → (i.ref 0).check [.local_] [rightRd] ≠ stOk →
    exec (.collectiveRefused id) s = .next (completes s i ((i.ref 0).check [.local_] [rightRd]) 0)) ∧
  (∀ (id : Nat) (i : Item) (s : State), Request s id 0x0200 i → Quiet s → (i.ref 0).check [.local_] [rightRd] = stOk →
    (i.ref 0).loc.holds (i.w 1) 128 128 = false → exec (.collectiveRefused id) s = .next (completes s i stRights 0)) ∧
  (∀ (id : Nat) (i : Item) (ws : List TWord) (s : State), CollAsked s id i ws → Quiet s →
    exec (.collectiveRefused id) s = .next (
      if (wd ws 0).tag = Tag.poison then completes s i stPoison 0 else if 6 < crOp ws then
        completes s i (if anyPoison ws = true ∨ anyPoison (crLists s ws).2.words = true then stPoison else stRedBadRecord) 0
      else s)) ∧
  (∀ (g : Group) (n m : Nat), g.done = n → n < m → g.gone = [] →
    groupDone g n = { g with done := n + 1 } ∧ groupDone g m = { g with gone := [m] }) ∧
  (∀ (g : Group) (n : Nat), g.done = n → g.gone = [n + 1] → groupDone g n = { g with done := n + 2, gone := [] })

/-- A collective as it runs: the announce record holds member, digest and SEQ (R201, R202) and is sent again each millisecond to the members that have
not announced (R203); a piece is sent to a member that announced, as one message for the group and SEQ (R200), in the order of R203 and at most 16
chunks ahead; the piece that this member owns is the exact sum of its contributions, rounded once (R204 to R206), and its result goes to the members
that want it (R208); the votes decide FAIL, SKIP or APPLY, or time out with ST_RED_VERDICT (R213, R214); a library optimizer's piece is applied as
R217 gives it for PROG 0, and STEP and DIRTY are written at the end (R219); a landed chunk is delivered to the destination; a stall gives
ST_RED_MEMBER_LOST while something is missing (R220); and completion frees the collective, counts it and answers its status and RESULT, for an
ALLTOALL dispatch ST_RED_ROUTE_OVERFLOW with the rows dropped (R212). -/
def Obligations.CollectivePhases : Prop :=
  (∀ (id : Nat) (c : Coll) (js : List Nat) (s : State), CollRuns s id c → js = (others c.rec_).filter (fun j => !announced s c j) →
    exec (.announceResend id) s = .next (
      if js = [] ∨ s.time < c.lastAnn + 1000000 then s
      else settleAll (announce (s.updColl id fun c => { c with lastAnn := s.time }) id js))) ∧
  (∀ (id : Nat) (c : Coll) (s : State) (js : List Nat), s.coll id = some c → crOp c.rec_ ≠ 5 →
    announce s id js = js.foldl (fun s j => collBytes s id j (crSelf c.rec_ * 128)
      (bytesOf 8 (0x0100 + crSelf c.rec_ * 2 ^ 16) ++ bytesOf 8 c.digest.toNat ++ bytesOf 8 (crSeq c.rec_).toNat ++ List.replicate 104 0)) s) ∧
  (∀ (id j off : Nat) (bs : List Byte) (c : Coll) (s : State), s.coll id = some c → s.colls = [c] → msgPieces (wymPsize s) bs.length = [(0, bs.length)] →
    collBytes s id j off bs = (let l := c.members.getD j Loc.none
      dealMsg { s with colls := [{ c with sent := c.sent + 1 }] } (5000 + c.peck) l.raddr (newMsg .write c.peck l 0
        (l.base + BitVec.ofNat 64 (slotOff c.rec_ j + off)) bs.length (wymPsize s) none false (some (crGroup c.rec_, crSeq c.rec_)) (.coll id 0) 0 (.bytes bs)))) ∧
  (∀ (id k j : Nat) (deny : List Nat) (c : Coll) (l : Loc) (off : Word) (s : State), CollRuns s id c → s.colls = [c] → mayStart c k = true → (k, j) ∉ c.sends →
    j ≠ crSelf c.rec_ → j < crNmem c.rec_ → k < crChunks c.rec_ → announced s c j = true → crReduces c.rec_ = true → crTree c.rec_ = false →
    crSrcSplit c.rec_ = false → c.srcs = [(l, off)] → crNsrc c.rec_ = 1 → l.kind = .local_ → 0 < pieceLen c.rec_ k j * crSi c.rec_ →
    exec (.collSend id k j deny) s = .next (settleAll (collMem { s with colls := [{ c with sends := c.sends ++ [(k, j)] }] } id j
      (areaOff c.rec_ (crSelf c.rec_) + k * crP c.rec_ * crSi c.rec_) (l.base.toNat + off.toNat + (k * crChunk c.rec_ + j * crP c.rec_) * crSi c.rec_)
      (pieceLen c.rec_ k j * crSi c.rec_)))) ∧
  (∀ (c : Coll) (k : Nat), crReduces c.rec_ = true → crSrcSplit c.rec_ = false → c.sends.map (·.1) = List.range k → k < crChunks c.rec_ →
    collOpen c = true → c.done = [] → mayStart c k = decide (k < 16) ∧ mayStart c (k + 1) = false) ∧
  (∀ (id k : Nat) (c : Coll) (s : State), CollRuns s id c → s.colls = [c] → PieceReady s c k → crOp c.rec_ ≠ 6 →
    let n := pieceLen c.rec_ k (crSelf c.rec_)
    let e0 := k * crChunk c.rec_ + crSelf c.rec_ * crP c.rec_
    Gives (.collReduce id k) s fun t => (t.colls.map (·.red)) = [[(k, (List.range n).flatMap fun i => bytesOf (crSo c.rec_)
        (accReadOut (accAddAll XAcc.clear ((pieceAreas c.rec_ k).map fun o => elemAt s (crIn c.rec_) (landAddr c (o + i * crSi c.rec_))))
          (codeTarget (crOut c.rec_)) (resRnd c.rec_ (e0 + i))).1.bits.toNat)]] ∧
      t.reg rRedAddends = (s.bump rRedAddends (n * (pieceAreas c.rec_ k).length)).reg rRedAddends ∧ t.mem = s.mem) ∧
  (∀ (id : Nat) (c : Coll) (v : Nat) (s : State), CollRuns s id c → c.voted = some v → c.verdict = none → votesHeld s c = true → Settled s →
    (∀ e ∈ s.mem.tags, e.2 ≠ Tag.poison) → crNorm c.rec_ = false → crVerdict c.rec_ = true →
    let js := List.range (crNmem c.rec_)
    let word := fun j o => landWord s c (crNmem c.rec_ * 128 + j * 128 + o)
    exec (.collVerdict id) s = .next (
      if js.any fun j => word j 8 != c.digest || word j 24 != word (crSelf c.rec_) 24 then
        (s.bump rRedMismatch 1).updColl id fun c => { c with norm2 := 0, verdict := some 2, endSt := some stRedShape }
      else if js.any fun j => fld (word j 0) 40 1 == 1 then
        (s.bump rRedSkip 1).updColl id fun c => { c with norm2 := 0, verdict := some 1, endSt := some stRedStepSkipped }
      else s.updColl id fun c => { c with norm2 := 0, verdict := some 0 })) ∧
  (∀ (id : Nat) (c : Coll) (v : Nat) (s : State), CollRuns s id c → c.voted = some v → c.verdict = none → votesHeld s c = false →
    exec (.collVerdictTimeout id) s = .next (if v + c.vlim * 1000000 ≤ s.time then
      s.updColl id fun c => { c with verdict := some 3, endSt := some stRedVerdict } else s)) ∧
  (∀ (id k : Nat) (c : Coll) (g : List Byte) (s : State), CollRuns s id c → s.colls = [c] → c.red = [(k, g)] → c.res = [] → crOp c.rec_ = 6 → collOpen c = true →
    hyTenant c.hyper = false → (jobPlace s c.peck c.engs 7).isSome = true → Settled s → (∀ e ∈ s.mem.tags, e.2 ≠ Tag.poison) →
    let u := collWrites s id true
    (∀ j ∈ List.range ((g.length / 4 + 255) / 256), blockTags u (c.state_.base.toNat + 4096 + k * crP c.rec_ / 256 * 2048 + 2048 * j) = true) →
    exec (.collApply id k) s = .next (settleAll (collStepDone
      ((applyLib u c k g).1.updColl id fun c => { c with res := [(k, (applyLib u c k g).2)] }) id))) ∧
  (∀ (h : List TWord) (t : Nat) (sgn w m v g : FVal), hyProg h = 0 →
    let f := fun o => decodeE fmtFp32 (rb h o 4)
    let r := fun x => decodeE fmtFp32 (roundE fmtFp32 .ieee ⟨.rne, 0⟩ x).1
    let fma := fun (a b c : FVal) => r (FVal.add .rne (a.mul b) c)
    let m' := fma (f 12) m (r (g.mul (f 28)))
    optimize h none t sgn w m v g id id = (r (FVal.add .rne w (r ((f 8).mul (fma (f 24) w m'))).neg), m', v)) ∧
  (∀ (s : State) (id : Nat) (c : Coll), s.coll id = some c → crOp c.rec_ = 6 → (∀ k ∈ ownedChunks c.rec_, c.res.any (fun e => e.1 == k) = true) →
    c.state_.base.toNat % 8 = 0 →
    (collStepDone s id).mem.word (c.state_.base.toNat + 8) = TWord.int (c.step + 1) ∧
    ((collStepDone s id).mem.word c.state_.base.toNat).tag = Tag.int64 ∧ fld ((collStepDone s id).mem.word c.state_.base.toNat).bits 32 8 = 0) ∧
  (∀ (id k : Nat) (deny : List Nat) (c : Coll) (b : List Byte) (lo n : Nat) (s : State), CollRuns s id c → s.colls = [c] → c.fwd = [] → collOpen c = true →
    crReduces c.rec_ = true → resUnit c.rec_ k (crSelf c.rec_) = some (lo, n) → ownRes c k = some b →
    (∀ j ∈ resTargets c.rec_ (crSelf c.rec_), announced s c j = true) →
    exec (.collResult id k (crSelf c.rec_) deny) s = .next (settleAll (collPutBytes (s.updColl id fun c => { c with fwd := [(k, crSelf c.rec_)] }) id
      (crOp c.rec_ != 3 || crTree c.rec_ || crSelf c.rec_ == crRoot c.rec_) (resTargets c.rec_ (crSelf c.rec_)) (resOff c.rec_ + lo * crSo c.rec_) b
      (match fmtOfCode (crOut c.rec_) with
      | some f => fmtTag f
      | none => Tag.nil)))) ∧
  (∀ (id k : Nat) (deny : List Nat) (c : Coll) (s : State), CollRuns s id c → s.colls = [c] → c.done = [] → k < crChunks c.rec_ → collOpen c = true →
    crOp c.rec_ ≠ 5 → crNdst c.rec_ = 0 → exec (.collDeliver id k deny) s = .next { s with colls := [{ c with done := [k] }] }) ∧
  (∀ (id k : Nat) (deny : List Nat) (c : Coll) (l : Loc) (off : Word) (s : State), CollRuns s id c → s.colls = [c] → c.done = [] → k < crChunks c.rec_ → collOpen c = true →
    crOp c.rec_ ∉ [1, 5] → crNdst c.rec_ = 1 → c.dsts = [(l, off)] → l.kind = .local_ → crDstSplit c.rec_ = false →
    let o := resOff c.rec_ + k * crChunk c.rec_ * crSo c.rec_
    let n := chunkLen c.rec_ k * crSo c.rec_
    landed s c o n = true →
    exec (.collDeliver id k deny) s = .next (settleAll (
      let r := svcMove (collWrites s id false) c.peck (landAddr c o) l (off.toNat + k * crChunk c.rec_ * crSo c.rec_) n
        (match fmtOfCode (crOut c.rec_) with
        | some f => fmtTag f
        | none => Tag.nil)
      if r.2 ≠ stOk then collFail r.1 id r.2 else r.1.updColl id fun c => { c with done := [k] }))) ∧
  (∀ (id : Nat) (c : Coll) (s : State), CollRuns s id c →
    exec (.collStallExpiry id) s = .next (if c.t0 + c.stall * 1000000 ≤ s.time ∧ collWaits s c = true then settleAll (collFail s id stRedMemberLost) else s)) ∧
  (∀ (lost : Nat) (c : Coll) (i : Item) (st : Status) (s : State), CollAlone s c → c.endSt = some st → st ≠ stOk → s.item c.item = some i →
    crVerdict c.rec_ = false → crNorm c.rec_ = false →
    exec (.collComplete c.id lost) s = .next (completes ((collGone s c).bump rRedFail 1) i st 0)) ∧
  (∀ (lost : Nat) (c : Coll) (i : Item) (s : State), CollAlone s c → c.endSt = none → collAllDone c = true → crOp c.rec_ ∉ [5, 6] →
    s.item c.item = some i → exec (.collComplete c.id lost) s = .next (completes ((collGone s c).bump rRedDone 1) i stOk (collResult c))) ∧
  (∀ (lost : Nat) (c : Coll) (i : Item) (s : State), CollAlone s c → c.endSt = none → collAllDone c = true → crOp c.rec_ = 5 → crReverse c.rec_ = false →
    s.item c.item = some i → exec (.collComplete c.id lost) s = .next (
      if c.dropped + lost = 0 then completes ((collGone s c).bump rRedDone 1) i stOk 0
      else completes ((collGone s c).bump rRedFail 1) i stRedRoute (BitVec.ofNat 64 (c.dropped + lost)))) ∧
  (∀ (lost : Nat) (c : Coll) (s : State), s.coll c.id = some c → Quiet s → c.sent ≠ 0 ∨ c.xfers ≠ [] → exec (.collComplete c.id lost) s = .next s)
namespace Sys2Proof.Spec

/-- The record of 16 words that a request names by its first reference can be read at `off`. -/
abbrev RecordAt (s : State) (i : Item) (off : Word) (ws : List TWord) : Prop :=
  (i.ref 0).check [.local_] [rightRd] = stOk ∧ (i.ref 0).loc.holds off 128 128 = true ∧ Settled s ∧
  ws = (List.range 16).map fun k => s.mem.word (((i.ref 0).loc.base + off).toNat + 8 * k)

/-- Sequence q is entry `e` of the table, the only one, with a step `g` in work for item `i`. -/
abbrev Stepping (s : State) (q : Nat) (e : GenSeq) (g : GenStep) (i : Item) : Prop :=
  s.seqs = [e] ∧ e.index = q ∧ e.step = some g ∧ s.item g.item = some i ∧ Quiet s

/-- The bytes of an output record (R241). -/
def outputRecord (st : Status) (ntok nacc tag : Nat) (pos : Word) (toks : List Nat) : List Byte :=
  bytesOf 2 0x0100 ++ bytesOf 2 st.toNat ++ [BitVec.ofNat 8 ntok, BitVec.ofNat 8 nacc, 0, 0] ++ bytesOf 8 tag ++ bytesOf 8 pos.toNat ++
    (List.range 17).flatMap (fun i => bytesOf 4 (toks.getD i 0)) ++ List.replicate 36 0

end Sys2Proof.Spec

/-- The sequence table (R229 to R231): a registration takes the lowest free entry and answers its number, or the first failing check; an update
replaces the record, sets POS only with SETPOS and clears the KV fault; a deregistration removes the entry, at once or after the running step. -/
def Obligations.SequenceTable : Prop :=
  (∀ (id : Nat) (i : Item) (s : State), Request s id 0x0300 i → (i.ref 0).check [.local_] [rightRd] ≠ stOk →
    exec (.genRegister id) s = .next (completes s i ((i.ref 0).check [.local_] [rightRd]) 0)) ∧
  (∀ (id : Nat) (i : Item) (r : List TWord) (s : State), Request s id 0x0300 i → RecordAt s i (i.w 1) r → genStatus s r ≠ stOk →
    exec (.genRegister id) s = .next (completes s i (genStatus s r) 0)) ∧
  (∀ (id : Nat) (i : Item) (r : List TWord) (s : State), Request s id 0x0300 i → RecordAt s i (i.w 1) r → genStatus s r = stOk →
    s.seqs.length < 16384 →
    (fld (s.reg (rGenPeck i.fn)) 16 15 ≤ (s.seqs.filter fun e => e.peck == i.fn).length →
      exec (.genRegister id) s = .next (completes s i stGenTableFull 0)) ∧
    ((s.seqs.filter fun e => e.peck == i.fn).length < fld (s.reg (rGenPeck i.fn)) 16 15 → fld (s.reg (rGenPeck i.fn)) 0 8 = 0 →
      exec (.genRegister id) s = .next (completes s i stGenNoEngines 0))) ∧
  (∀ (id q : Nat) (i : Item) (r : List TWord) (s : State), Request s id 0x0300 i → RecordAt s i (i.w 1) r → genStatus s r = stOk →
    s.seqs.length < 16384 → (s.seqs.filter fun e => e.peck == i.fn).length < fld (s.reg (rGenPeck i.fn)) 16 15 → fld (s.reg (rGenPeck i.fn)) 0 8 ≠ 0 →
    q < 16384 → s.seq q = none → (∀ j ∈ List.range q, (s.seq j).isSome = true) →
    exec (.genRegister id) s = .next (completes { s with seqs := s.seqs ++ [⟨q, i.fn, r, (wd r 6).bits, false, none, [], none⟩] } i stOk
      (BitVec.ofNat 64 q))) ∧
  (∀ (id : Nat) (i : Item) (s : State), Request s id 0x0301 i → seqOf s i.fn (fld (i.w 0) 0 16) = none →
    exec (.genUpdate id) s = .next (completes s i stGenNoSeq 0)) ∧
  (∀ (id : Nat) (i : Item) (e : GenSeq) (r : List TWord) (s : State), Request s id 0x0301 i → s.seqs = [e] → e.peck = i.fn → e.index = fld (i.w 0) 0 16 →
    RecordAt s i (i.w 2) r →
    (genStatus s r ≠ stOk → exec (.genUpdate id) s = .next (completes s i (genStatus s r) 0)) ∧
    (genStatus s r = stOk → gsKv r = 0 → exec (.genUpdate id) s = .next (completes
      { s with seqs := [{ e with
        rec_ := r, pos := if fld (i.w 0) 16 1 = 1 then (wd r 6).bits else e.pos, kvfault := false
        step := e.step.map fun g => { g with moved := g.moved || decide (fld (i.w 0) 16 1 = 1) } }] } i stOk 0))) ∧
  (∀ (s : State) (a : Nat) (f : Bool) (st : Status), a % 8 = 0 → s.mem.tagAt a ≠ Tag.code → s.mem.tagAt (a + 8) ≠ Tag.code → s.cqs = [] →
    fld ((kvHeader s a f st).mem.word a).bits 32 1 = f.toNat ∧ fld ((kvHeader s a f st).mem.word a).bits 0 32 = fld (s.mem.word a).bits 0 32 ∧
    (kvHeader s a f st).mem.word (a + 8) = TWord.int (st.setWidth 64)) ∧
  (∀ (id : Nat) (i : Item) (s : State), Request s id 0x0302 i → seqOf s i.fn (i.w 0).toNat = none →
    exec (.genDeregister id) s = .next (completes s i stGenNoSeq 0)) ∧
  (∀ (id : Nat) (i : Item) (e : GenSeq) (s : State), Request s id 0x0302 i → s.seqs = [e] → e.peck = i.fn → e.index = (i.w 0).toNat → e.queue = [] →
    exec (.genDeregister id) s = .next (
      if e.leaving.isSome then completes s i stGenNoSeq 0
      else if e.step.isSome then { s.updItem id (fun x => { x with phase := .committed }) with seqs := [{ e with leaving := some id }] }
      else completes { s with seqs := [] } i stOk 0))

/-- A decode step (R233, R234, R238, R240 to R245): it waits in its sequence's queue, is dispatched in order when it passes its checks, is sampled once its
input is here and a sampler engine is free, writes its record, advances POS and the counters, and appends its rows to the KV pages. -/
def Obligations.DecodeSteps : Prop :=
  (∀ (id : Nat) (i : Item) (s : State), Request s id 0x0303 i → seqOf s i.fn (fld (i.w 0) 0 16) = none →
    exec (.genStep id) s = .next (completes (s.bump rGenFail 1) i stGenNoSeq 0)) ∧
  (∀ (id : Nat) (i : Item) (e : GenSeq) (s : State), Request s id 0x0303 i → s.seqs = [e] → e.peck = i.fn → e.index = fld (i.w 0) 0 16 →
    (stepFieldsOk e i.body = false → s.current (wd e.rec_ 8).bits = none →
      exec (.genStep id) s = .next (completes (s.bump rGenFail 1) i stGenBadRecord 0)) ∧
    (stepFieldsOk e i.body = true → fld (s.reg rGenCfg) 0 3 + (if e.step = none then 1 else 0) ≤ e.queue.length → s.current (wd e.rec_ 8).bits = none →
      exec (.genStep id) s = .next (completes (s.bump rGenFail 1) i stGenBusy 0)) ∧
    (stepFieldsOk e i.body = true → e.queue.length < fld (s.reg rGenCfg) 0 3 + (if e.step = none then 1 else 0) →
      exec (.genStep id) s = .next { s.updItem id (fun x => { x with phase := .active }) with seqs := [{ e with queue := e.queue ++ [id] }] })) ∧
  (∀ (q id : Nat) (rest : List Nat) (e : GenSeq) (i : Item) (s : State), s.seqs = [e] → e.index = q → e.step = none → e.queue = id :: rest →
    ckptHoldsSeqs s e.peck = false → s.item id = some i → fld (i.w 0) 24 1 = 0 → Quiet s →
    let u := { s with seqs := [{ e with queue := rest }] }
    (dispatchStatus u e i = stOk → exec (.genDispatch q) s = .next (settleAll (fetchStart
      { s.updItem id (fun x => { x with phase := .committed }) with
        seqs := [{ e with queue := rest, step := some ⟨id, .pull, e.rec_, [], false, stOk, [], 0, none, e.pos, false, samplerEngines s e.peck,
          locWord s (wd e.rec_ 8), locWord s (wd e.rec_ 11), locWord s (wd e.rec_ 9), locWord s (wd e.rec_ 10)⟩ }] } (.gen q 0) e.peck (locWord s (wd e.rec_ 7)) (i.w 2).toNat (gtBlock e.rec_ i.body) []))) ∧
    (dispatchStatus u e i ≠ stOk → s.current (wd e.rec_ 8).bits = none →
      exec (.genDispatch q) s = .next (completes (u.bump rGenFail 1) i (dispatchStatus u e i) 0))) ∧
  (∀ (s : State) (e : GenSeq) (i : Item), stepFieldsOk e i.body = false → dispatchStatus s e i = stGenBadRecord) ∧
  (∀ (s : State) (e : GenSeq) (i : Item), stepFieldsOk e i.body = true → i.w 1 ≠ e.pos → dispatchStatus s e i = stGenPos) ∧
  (∀ (s : State) (e : GenSeq) (i : Item), stepFieldsOk e i.body = true → i.w 1 = e.pos → e.kvfault = true → dispatchStatus s e i = stGenKvFull) ∧
  (∀ (q : Nat) (e : GenSeq) (s : State), s.seqs = [e] → e.index = q → e.step ≠ none ∨ e.queue = [] → Quiet s → exec (.genDispatch q) s = .next s) ∧
  (∀ (q : Nat) (e : GenSeq) (g : GenStep) (i : Item) (x : Nat) (u : State) (ts : List Nat) (s : State), Stepping s q e g i → g.phase = .pull → g.here = true →
    gsTenant g.rec_ = false → g.engs = [x] → (s.eng x).peck.toNat = e.peck → (s.eng x).resetting = false → ((s.eng x).ctx 6).state = .free →
    (sampler s g i.body).1 = u → (sampler s g i.body).2.toOption = some ts → Quiet u → u.seqs = s.seqs →
    exec (.genSample q) s = .next { u with seqs := [{ e with step := some { g with phase := .sampled, toks := ts, nacc := ts.length - 1 } }] }) ∧
  (∀ (s : State) (g : GenStep) (b : List Word), inputOk g.rec_ b g.input = false → sampler s g b = (s, .error stGenBadLogits)) ∧
  (∀ (s : State) (g : GenStep) (b : List Word) (es : List (Nat × FVal)) (t : Nat), inputOk g.rec_ b g.input = true → gtDraft b = 0 →
    rb g.rec_ 28 4 = 0x3F800000 → (gsInvtemp g.rec_).isZero = true → es = (rowEnts g.rec_ b g.input 0).map (fun e => (e.1, r32 e.2)) →
    (∀ e ∈ es, badLogit e.2 = false) → greedy es = some t → sampler s g b = (s, .ok [t])) ∧
  (∀ (es : List (Nat × FVal)) (t : Nat), (∀ e ∈ es, e.2.isNan = false) → greedy es = some t →
    (es.any fun e => e.1 == t && es.all fun x => !FVal.lt e.2 x.2) = true) ∧
  (∀ (q : Nat) (e : GenSeq) (g : GenStep) (i : Item) (u : State) (s : State), Stepping s q e g i → g.phase = .sampled → g.st = stOk → gsHist g.rec_ = 0 →
    e.leaving = none → putOutput s e.peck g.out (i.w 3).toNat (outputRecord stOk g.toks.length g.nacc (fld (i.w 5) 0 32)
      (g.pos + BitVec.ofNat 64 g.toks.length) g.toks) = (u, stOk) → u.seqs = s.seqs → u.items = s.items → Quiet u → g.toks.length ≤ 17 → g.nacc ≤ 16 →
    let pos := if g.moved then e.pos else g.pos + BitVec.ofNat 64 g.toks.length
    let v := ((((noteShare u i).bump rGenTokens g.toks.length).bump rGenDrafts (fld (i.w 0) 16 8)).bump rGenAccepted g.nacc)
    exec (.genOutputWrite q) s = .next (
      if fld (i.w 0) 24 1 = 1 then { v with seqs := [{ e with pos := pos, step := some { g with phase := .written } }] }
      else if fld (i.w 0) 25 1 = 1 then completes ({ v with seqs := [{ e with pos := pos, step := none }] }.bump rGenSteps 1) i stOk 0
      else let w := { v with seqs := [{ e with pos := pos, step := none }] }.bump rGenSteps 1
        { w with items := w.items.filter fun j => j.id ≠ i.id })) ∧
  (∀ (q : Nat) (e : GenSeq) (g : GenStep) (i : Item) (u : State) (s : State) (st : Status), Stepping s q e g i → g.phase = .sampled → g.st ≠ stOk →
    e.leaving = none → putOutput s e.peck g.out (i.w 3).toNat (outputRecord g.st 0 0 (fld (i.w 5) 0 32) g.pos []) = (u, st) → u.seqs = s.seqs →
    u.items = s.items → Quiet u →
    exec (.genOutputWrite q) s = .next (completes ({ (if st = stOk then noteShare u i else u) with seqs := [{ e with step := none }] }.bump rGenFail 1) i g.st 0)) ∧
  (∀ (s : State) (i : Item), (noteShare s i).shares =
    (s.shares.filter fun x => decide (s.time / 1000000000 ≤ x.1 / 1000000000 + 1)) ++ [(s.time, s.time - i.t0)]) ∧
  (∀ (q : Nat) (deny : List Nat) (e : GenSeq) (g : GenStep) (i : Item) (s : State), Stepping s q e g i → g.phase = .written →
    let n := g.toks.length
    exec (.kvAppend q deny) s = .next (
      if (kvNeeds s g.kvt (gsKv g.rec_) (kvPages s g.kvt + n + 2) (kvCur s g.kvt) none n).any fun c => (kvPage s g.kvt c).moving then s
      else settleAll (fetchStart { s with seqs := [{ e with step := some { g with phase := .append } }] } (.gen q 1) e.peck g.kvsrc (i.w 4).toNat
        (n * gsKv g.rec_) deny))) ∧
  (∀ (id : Nat) (deny : List Nat) (i : Item) (s : State), Request s id 0x0304 i → Quiet s → seqOf s i.fn (fld (i.w 0) 0 16) = none →
    exec (.genKvmove id deny) s = .next (completes s i stGenNoSeq 0)) ∧
  (∀ (id : Nat) (deny : List Nat) (i : Item) (e : GenSeq) (w : TWord) (s : State), Request s id 0x0304 i → Quiet s → seqOf s i.fn (fld (i.w 0) 0 16) = some e →
    (i.ref 0).check [.local_] [rightRd] = stOk → fld (i.w 0) 16 7 = 1 → (i.ref 0).loc.holds (i.w 2) 16 16 = true → gsKv e.rec_ ≠ 0 → e.step = none →
    Settled s → isStale s (wd e.rec_ 10) = false →
    let a := ((i.ref 0).loc.base + i.w 2).toNat
    s.mem.word a = w → w.tag = Tag.handle → (s.mem.word (a + 8)).tag = Tag.int64 → (s.mem.word (a + 8)).bits.toNat < 65536 →
    exec (.genKvmove id deny) s = .next (settleAll (kvIssue (s.updItem id fun i => { i with phase := .committed, open_ := 1 }) i.fn e id
      (locWord s (wd e.rec_ 10)) w (s.mem.word (a + 8)).bits.toNat deny))) ∧
  (∀ (s : State) (p : Nat) (e : GenSeq) (id : Nat) (i : Item) (t : Loc) (w : TWord) (n : Nat) (deny : List Nat), kvMoveStatus s t w n ≠ stOk →
    s.item id = some i → i.open_ = 1 → i.st = stOk →
    kvIssue s p e id t w n deny = completes (s.updItem id fun _ => { i with open_ := 0, st := kvMoveStatus s t w n }) { i with open_ := 0, st := kvMoveStatus s t w n }
      (kvMoveStatus s t w n) 0) ∧
  (∀ (s : State) (m : KvMove) (a : Nat), a = m.kvt.base.toNat + 16 * m.page → a % 8 = 0 → s.mem.tagAt a ≠ Tag.code → s.mem.tagAt (a + 8) ≠ Tag.code → m.hword.tag ≠ Tag.code → s.cqs = [] → s.item m.item = none →
    (kvEnd s m stOk).mem.word a = m.hword ∧ fld ((kvEnd s m stOk).mem.word (a + 8)).bits 3 1 = 0 ∧ (kvEnd s m stTag).mem.word a = s.mem.word a)
/-- The data feed (R422 to R425): a start is checked and takes a slot; LIMIT only rises; a stop ends an idle feed and marks another; a batch
begins with reads, ends with its write, and its position record stands in slot b mod 2 under INT64; the shuffle loses no document. -/
def Obligations.DataFeed : Prop :=
  (∀ (id : Nat) (i : Item) (s : State), Request s id 0x0600 i → (i.ref 0).check [.local_] [rightRd] ≠ stOk →
    exec (.feedStart id) s = .next (completes s i ((i.ref 0).check [.local_] [rightRd]) 0)) ∧
  (∀ (id : Nat) (i : Item) (ws : List TWord) (s : State), Request s id 0x0600 i → RecordAt s i (i.w 1) ws →
    (feedStatus s ws ≠ stOk → exec (.feedStart id) s = .next (completes s i (feedStatus s ws) 0)) ∧
    (feedStatus s ws = stOk → (s.feed i.fn (fld (wd ws 0).bits 16 4)).isSome → exec (.feedStart id) s = .next (completes s i stDuplicate 0)) ∧
    (feedStatus s ws = stOk → s.feed i.fn (fld (wd ws 0).bits 16 4) = none → fld (wd ws 0).bits 24 1 = 0 →
      exec (.feedStart id) s = .next (match placeFor s i.fn (BitVec.ofNat 64 (2 ^ 47)) with
        | none => s
        | some (e, k) =>
          { (s.setEng e ((s.eng e).setCtx k
              { Ctx.free with state := .running, peck := BitVec.ofNat 8 i.fn, item := some id, held := true })).updItem id (fun x => { x with phase := .active }) with
            feeds := s.feeds ++ [⟨i.fn, fld (wd ws 0).bits 16 4, id, e, k, ws, (wd ws 10).bits.toNat, false, 0, 0, 0, 0, 0, .idle, 0, stOk⟩] }))) ∧
  (∀ (id : Nat) (i : Item) (f : Feed) (s : State), Request s id 0x0601 i → s.feeds = [f] → f.peck = i.fn → f.id = (i.w 0).toNat →
    exec (.feedAdvance id) s = .next (completes { s with feeds := [{ f with limit := max f.limit (i.w 1).toNat }] } i stOk 0)) ∧
  (∀ (id : Nat) (i : Item) (s : State), Request s id 0x0601 i → s.feed i.fn (i.w 0).toNat = none →
    exec (.feedAdvance id) s = .next (completes s i stStorNoFeed 0)) ∧
  (∀ (id : Nat) (i : Item) (s : State), Request s id 0x0602 i → s.feed i.fn (i.w 0).toNat = none →
    exec (.feedStop id) s = .next (completes s i stStorNoFeed 0)) ∧
  (∀ (id : Nat) (i : Item) (f : Feed) (s : State), Request s id 0x0602 i → s.feeds = [f] → f.peck = i.fn → f.id = (i.w 0).toNat →
    exec (.feedStop id) s = .next (
      if f.phase = .idle then completes (feedEnd s f stOk) i stOk 0 else completes { s with feeds := [{ f with stop := true }] } i stOk 0)) ∧
  (∀ (f : Feed) (i : Item) (st : Status) (s : State), s.feeds = [f] → s.msgs = [] → s.reads = [] → s.vreqs = [] → Quiet s → s.item f.item = some i →
    f.eng < 128 → f.slot < 8 →
    feedEnd s f st = completes (freeCtx { s with feeds := [] } ⟨Fin.ofNat 128 f.eng, Fin.ofNat 8 f.slot⟩) i st (BitVec.ofNat 64 f.count)) ∧
  (∀ (p : Fin 256) (id : Fin 16) (f : Feed) (s : State), s.feeds = [f] → f.peck = p.val → f.id = id.val → f.phase = .idle → Quiet s →
    exec (.feedBatch p id) s = .next (
      if f.stop ∨ (fdEpochs f.rec_ ≠ 0 ∧ fdEpochs f.rec_ ≤ f.epoch) then settleAll (feedEnd s f stOk)
      else if f.batch < f.limit then settleAll (feedRead s f) else s)) ∧
  (∀ (p : Fin 256) (id : Fin 16) (f : Feed) (u : State) (st : Status) (s : State), s.feeds = [f] → f.peck = p.val → f.id = id.val → f.phase = .reading →
    f.open_ = 0 → f.st = stOk → feedWrite s f ((feedPack s f).flatMap fun t => bytesOf 4 t) = (u, st) → u.feeds = s.feeds →
    exec (.feedBatch p id) s = .next (settleAll (
      let v := { u with arrivals := u.arrivals.filter fun a => a.1 ≠ .feed f.peck f.id }
      if st ≠ stOk then feedEnd v f st else { v with feeds := [{ f with phase := .written }] }))) ∧
  (∀ (p : Fin 256) (id : Fin 16) (f : Feed) (s : State), s.feeds = [f] → f.peck = p.val → f.id = id.val → f.phase = .written → f.stop = false →
    fdEpochs f.rec_ = 0 → s.cqs = [] →
    let a := regionBase s (wd f.rec_ 8) + 64 * (f.batch % 2)
    let pos := (batchPieces s f).2
    a % 8 = 0 → NoCode s a 8 →
    Gives (.feedPositionRecord p id) s fun t =>
      t.feeds = [{ f with batch := f.batch + 1, count := f.count + 1, epoch := pos.1, sample := pos.2.1, tok := pos.2.2, phase := .idle }] ∧
      t.mem.word a = TWord.int (BitVec.ofNat 64 (0x0100 + f.id * 65536)) ∧ t.mem.word (a + 8) = TWord.int (BitVec.ofNat 64 (f.batch + 1)) ∧
      t.mem.word (a + 32) = TWord.int (BitVec.ofNat 64 pos.2.1) ∧ t.mem.word (a + 48) = TWord.int (BitVec.ofNat 64 pos.1)) ∧
  (∀ (seed : Word) (e h x y : Nat), x < 2 ^ (2 * h) → y < 2 ^ (2 * h) → feedF seed e h x = feedF seed e h y → x = y)

/-- Key slots (R448 to R460): a slot is loaded, by import or by the device's own generator, only when its holder asks, no alarm is live and it is
empty; an erasure waits for reserved invocations; a reservation counts, and is refused beyond LIMIT; an alarm zeroes every key. -/
def Obligations.KeySlots : Prop :=
  (∀ (id : Nat) (data : List Byte) (st : Status) (i : Item) (s : State), Request s id 0x0700 i →
    (i.ref 0).check [.local_, .host, .accel, .remote, .volume] [if (i.ref 0).loc.kind = .local_ then rightRd else rightCpin] = stOk →
    (i.ref 0).loc.holds (i.w 2) 256 8 = true → loadStatus s i.fn (fld (i.w 0) 0 12) ≠ stOk →
    exec (.keyImport id data st) s = .next (completes s i (loadStatus s i.fn (fld (i.w 0) 0 12)) 0)) ∧
  (∀ (id : Nat) (data : List Byte) (st : Status) (i : Item) (s : State), Request s id 0x0700 i → (i.ref 0).loc.kind ≠ .local_ →
    (i.ref 0).check [.host, .accel, .remote, .volume] [rightCpin] = stOk → (i.ref 0).loc.holds (i.w 2) 256 8 = true →
    let n := fld (i.w 0) 0 12
    loadStatus s i.fn n = stOk →
    (st ≠ stOk → exec (.keyImport id data st) s = .next (completes s i st 0)) ∧
    (st = stOk → data.length = 256 → importFieldsOk data = false → exec (.keyImport id data st) s = .next (completes s i stUndef 0)) ∧
    (st = stOk → data.length = 256 → importFieldsOk data = true → exec (.keyImport id data st) s = .next (
      match importKeyOf data Config.devId i.fn with
      | none => completes s i stRights 0
      | some k => completes (s.setKey n { s.key n with
          state := .loaded, origin := 1, kind := recNum data 2 1, use := BitVec.ofNat 8 (recNum data 3 1), count := recNum data 8 8, key := k }) i stOk 0))) ∧
  (∀ (s : State) (p n : Nat), loadStatus s p n =
    if p = 0 ∨ (s.peck p).keys.testBit n = false then stRights else if s.alarmLive ≠ 0 then stKeyErased
    else if (s.key n).state = .loaded then stDuplicate else stOk) ∧
  (∀ (id : Nat) (i : Item) (s : State), Request s id 0x0701 i → loadStatus s i.fn (fld (i.w 0) 0 12) ≠ stOk →
    exec (.keyGenerate id) s = .next (completes s i (loadStatus s i.fn (fld (i.w 0) 0 12)) 0)) ∧
  (∀ (id : Nat) (i : Item) (s : State), Request s id 0x0701 i → loadStatus s i.fn (fld (i.w 0) 0 12) = stOk →
    1 ≤ fld (i.w 0) 16 8 → fld (i.w 0) 16 8 ≤ 3 → 1 ≤ fld (i.w 0) 24 8 → fld (i.w 0) 24 8 ≤ 63 →
    let n := fld (i.w 0) 0 12
    Gives (.keyGenerate id) s fun t => (t.key n).state = .loaded ∧ (t.key n).origin = 2 ∧ (t.key n).kind = fld (i.w 0) 16 8 ∧
      (t.key n).use.toNat = fld (i.w 0) 24 8 ∧ (t.key n).count = 0 ∧ (t.key n).limit = (s.key n).limit ∧
      (t.key n).key.length = (if fld (i.w 0) 16 8 = 1 then 16 else if fld (i.w 0) 16 8 = 2 then 32 else 64) ∧ t.mem = s.mem) ∧
  (∀ (id : Nat) (i : Item) (s : State), s.item id = some i → i.typ.toNat = 0x0702 →
    let n := fld (i.w 0) 0 12
    (i.phase = .dispatched → slotHeld s i.fn n = false → exec (.keyErase id) s = .next (completes s i stRights 0)) ∧
    (slotHeld s i.fn n = true → slotBusy s n = true →
      exec (.keyErase id) s = .next ((s.setKey n { s.key n with erasing := true }).updItem id fun x => { x with phase := .active })) ∧
    (slotHeld s i.fn n = true → slotBusy s n = false →
      exec (.keyErase id) s = .next (completes (s.setKey n ⟨.empty, 0, 0, 0, (s.key n).peck, 0, (s.key n).limit, [], (s.key n).warned, false⟩) i stOk 0))) ∧
  (∀ (id : Nat) (i : Item) (s : State), Request s id 0x0704 i → i.fn = 0 →
    exec (.keyInfo id) s = .next (completes (mgrWrite (ecdsaSign s keyInfoHead).1 (i.w 1) (keyInfoHead ++ (ecdsaSign s keyInfoHead).2 ++ certBytes)) i stOk 0)) ∧
  (∀ (id : Nat) (i : Item) (s : State), Request s id 0x0704 i → i.fn ≠ 0 →
    ((i.ref 0).check [.host, .local_] [rightWr] ≠ stOk → exec (.keyInfo id) s = .next (completes s i ((i.ref 0).check [.host, .local_] [rightWr]) 0)) ∧
    ((i.ref 0).check [.host, .local_] [rightWr] = stOk → (i.ref 0).loc.holds (i.w 2) 4096 8 = true →
      exec (.keyInfo id) s = .next (
        let r := ecdsaSign s keyInfoHead
        let w := svcWrite r.1 i.fn (i.ref 0).loc (i.w 2).toNat (keyInfoHead ++ r.2 ++ certBytes) Tag.nil
        completes w.1 i w.2 0))) ∧
  (∀ (n : Fin 4096) (part : RegPart) (v : Word) (s : State), Ready s →
    Gives (.keyLimitWrite n part v) s fun t => (t.key n.val).limit = (ovr part (BitVec.ofNat 64 (s.key n.val).limit) v).toNat ∧
      (t.key n.val).count = (s.key n.val).count ∧ (t.key n.val).key = (s.key n.val).key ∧ (t.key n.val).state = (s.key n.val).state ∧ t.mem = s.mem) ∧
  (∀ (v : Word) (s : State), Ready s →
    Gives (.keyAlarmClear .full v) s fun t => (∀ b ∈ List.range 4, (t.reg rKeyAlarm).getLsbD b =
      ((s.reg rKeyAlarm).getLsbD b && (!v.getLsbD b || s.alarmLive.getLsbD b))) ∧ t.alarmLive = s.alarmLive) ∧
  (∀ (src : Fin 4) (s : State), s.keys.Pairwise (fun a b => a.1 ≠ b.1) →
    Gives (.tamperAlarm src) s fun t => (∀ e ∈ s.keys, (t.key e.1).key = [] ∧ (t.key e.1).state = (if e.2.state = .loaded then .erased else e.2.state) ∧
        (t.key e.1).peck = e.2.peck) ∧
      t.alarmLive.getLsbD src.val = true ∧ (t.reg rKeyAlarm).getLsbD src.val = true ∧ t.mem = s.mem) ∧
  (∀ (src : Fin 4) (s : State), Gives (.alarmSourceCleared src) s fun t => t.alarmLive.getLsbD src.val = false ∧ t.keys = s.keys ∧ t.reg rKeyAlarm = s.reg rKeyAlarm) ∧
  (∀ (s : State) (n k use : Nat) (kinds : List Nat), let x := s.key n
    keyStatus x k kinds use = (
      if x.state ≠ .loaded ∨ x.erasing = true then stKeyErased
      else if x.kind ∉ kinds ∨ x.use.getLsbD use = false then stRights
      else if x.count + k ≤ x.limit then stOk else stKeyExhausted) ∧
    (keyStatus x k kinds use = stOk → (((keyReserve s n k kinds use).2.2).key n).count = x.count + k ∧ (keyReserve s n k kinds use).2.1 = x.count))

/-- Cipher command queues (R461 to R463): a queue is enabled with PI and CI 0 or disabled; the row that names the mode of the queue's next command
runs it, writes its status into its word 0 and advances CI, and any other row leaves it; CFB and CTR decrypt what they encrypt. -/
def Obligations.CipherQueues : Prop :=
  (∀ (id : Nat) (i : Item) (s : State), Request s id 0x0703 i → fld (i.w 0) 8 1 = 0 →
    let k := 4 * i.fn + fld (i.w 0) 0 2
    exec (.keyCqcfg id) s = .next (completes (s.setCq k { s.cq k with en := false }) i stOk 0)) ∧
  (∀ (id : Nat) (i : Item) (s : State), Request s id 0x0703 i → fld (i.w 0) 8 1 = 1 → s.cqs = [] →
    (i.ref 0).check [.local_] [rightRd, rightWr] = stOk → (i.ref 0).loc.holds (i.w 2) (64 + 64 * 2 ^ fld (i.w 3) 0 8) 64 = true →
    let k := 4 * i.fn + fld (i.w 0) 0 2
    let a := (i.ref 0).loc.base.toNat + (i.w 2).toNat
    s.mem.tagAt a ≠ Tag.code → s.mem.tagAt (a + 8) ≠ Tag.code → a % 8 = 0 →
    exec (.keyCqcfg id) s = .next (completes ((((s.setCq k CipherQ.reset).putWord a (TWord.int 0)).putWord (a + 8) (TWord.int 0)).setCq k
      ⟨true, a, fld (i.w 3) 0 8, 0, 0, false⟩) i stOk 0)) ∧
  (∀ e ∈ ([(.cbcEncrypt, some 0), (.cbcDecrypt, some 1), (.cfbEncrypt, some 2), (.cfbDecrypt, some 3), (.ctr, some 4), (.cipherCommandRefused, none)] :
      List ((Fin 256 → Fin 4 → Instr) × Option Nat)), ∀ (p : Fin 256) (q : Fin 4) (a : Nat) (s : State), nextCipher s p.val q.val = some a → Settled s →
    (e.2 = (if (s.mem.word a).tag = Tag.int64 ∧ fld (s.mem.word a).bits 16 8 ≤ 4 then some (fld (s.mem.word a).bits 16 8) else none) →
      exec (e.1 p q) s = .next (endCipher (cipherAt s p.val a).1 p.val q.val a (cipherAt s p.val a).2)) ∧
    (e.2 ≠ (if (s.mem.word a).tag = Tag.int64 ∧ fld (s.mem.word a).bits 16 8 ≤ 4 then some (fld (s.mem.word a).bits 16 8) else none) →
      exec (e.1 p q) s = .next s)) ∧
  (∀ e ∈ ([(.cbcEncrypt, some 0), (.cbcDecrypt, some 1), (.cfbEncrypt, some 2), (.cfbDecrypt, some 3), (.ctr, some 4), (.cipherCommandRefused, none)] :
      List ((Fin 256 → Fin 4 → Instr) × Option Nat)), ∀ (p : Fin 256) (q : Fin 4) (s : State), nextCipher s p.val q.val = none → exec (e.1 p q) s = .next s) ∧
  (∀ (p a : Nat) (ws : List TWord) (s : State), a % 8 = 0 → Settled s → ws = (List.range 8).map (fun k => s.mem.word (a + 8 * k)) →
    (anyPoison ws = true → (cipherAt s p a).2 = stPoison) ∧
    (anyPoison ws = false → cipherFieldsOk ws = false → (cipherAt s p a).2 = stUndef) ∧
    (anyPoison ws = false → cipherFieldsOk ws = true → cipherTagsOk ws = false → (cipherAt s p a).2 = stTag)) ∧
  (∀ (p q a : Nat) (st : Status) (s : State), a % 8 = 0 → (s.cq (4 * p + q)).base % 8 = 0 → (s.mem.word a).tag = Tag.int64 → s.mem.tagAt ((s.cq (4 * p + q)).base + 8) ≠ Tag.code →
    s.cqs = [(4 * p + q, { s.cq (4 * p + q) with en := true, stopped := false })] → (s.cq (4 * p + q)).base ≠ a → (s.cq (4 * p + q)).base + 8 ≠ a →
    let t := endCipher s p q a st
    (t.cq (4 * p + q)).ci = (s.cq (4 * p + q)).ci + 1 ∧ t.mem.word ((s.cq (4 * p + q)).base + 8) = TWord.int ((s.cq (4 * p + q)).ci + 1) ∧
    fld (t.mem.word a).bits 48 16 = st.toNat ∧ fld (t.mem.word a).bits 0 48 = fld (s.mem.word a).bits 0 48) ∧
  (∀ (key : List Nat) (bs : List (List Nat)) (iv : List Nat), (∀ b ∈ bs, b.length = 16) →
    (cfb true key (blocks16 (cfb false key bs iv).1) iv).1 = bs.flatten) ∧
  (∀ (key : List Nat) (bs : List (List Nat)) (iv : List Nat), (∀ b ∈ bs, b.length = 16) →
    (ctrMode key (blocks16 (ctrMode key bs iv).1) iv).1 = bs.flatten)
namespace Sys2Proof.Spec

/-- Nothing is under way outside the device's own memory. -/
abbrev Still (s : State) : Prop := s.msgs = [] ∧ s.reads = [] ∧ s.vreqs = [] ∧ s.fetches = [] ∧ Quiet s

/-- Peck p has checkpoint `c` of its own, the only one of the device, begun by item `i`. -/
abbrev CkptIs (s : State) (p : Nat) (c : Ckpt) : Prop := s.ckpts = [c] ∧ c.peck = p ∧ c.item.isSome = true

/-- No request of a Peck guards a unit. -/
abbrev NoGuards (s : State) (p : Nat) : Prop := ∀ i ∈ s.items, i.fn = p → i.typ ≠ 0x0801

end Sys2Proof.Spec

/-- Checkpoints from their request to their failure (R467 to R471, R475, R476, R482, R483): the checks of R470, the wait for a notice or a time,
guards, notices and their deadline, and cancellation. -/
def Obligations.CheckpointRequests : Prop :=
  (∀ (id : Nat) (i : Item) (s : State), Request s id 0x0800 i → (i.ref 0).check [.local_] [rightRd] ≠ stOk →
    exec (.ckptBegin id) s = .next (completes s i ((i.ref 0).check [.local_] [rightRd]) 0)) ∧
  (∀ (id : Nat) (i : Item) (ws : List TWord) (es : List (List TWord)) (s : State), Request s id 0x0800 i → (i.ref 0).check [.local_] [rightRd] = stOk →
    (i.ref 0).loc.holds (i.w 1) 128 128 = true → Settled s →
    ws = (List.range 16).map (fun k => s.mem.word ((i.ref 0).loc.base.toNat + (i.w 1).toNat + 8 * k)) →
    es = (if anyPoison ws = false ∧ ckNsrc ws ≤ 256 ∧ recRegion s (wd ws 4) [rightRd] (64 * ckNsrc ws) = stOk then
      srcEntries (memWords s.mem (regionBase s (wd ws 4)) (8 * ckNsrc ws)) (ckNsrc ws) else []) →
    (ckptStatus s i.fn ws es (stateHeads s es).2 ≠ stOk → exec (.ckptBegin id) s = .next (completes s i (ckptStatus s i.fn ws es (stateHeads s es).2) 0)) ∧
    (ckptStatus s i.fn ws es (stateHeads s es).2 = stOk →
      Gives (.ckptBegin id) s fun t => (t.ckpts.map fun c => (c.peck, c.item, c.phase, c.rec_, c.done)) =
          (s.ckpts.map fun c => (c.peck, c.item, c.phase, c.rec_, c.done)) ++ [(i.fn, some id,
            if fld (wd ws 0).bits 18 1 = 1 ∨ (fld (wd ws 0).bits 19 1 = 1 ∧ s.time < (wd ws 2).bits.toNat) then 1 else 2, ws, [])] ∧
        t.items = s.items.map (fun x => if x.id = id then { x with phase := .committed } else x) ∧ t.mem = s.mem)) ∧
  (∀ (id : Nat) (i : Item) (s : State), Request s id 0x0801 i → s.ckpt i.fn true = none → exec (.ckptGuard id) s = .next (completes s i stOk 0)) ∧
  (∀ (id : Nat) (i : Item) (c : Ckpt) (s : State), Request s id 0x0801 i → CkptIs s i.fn c →
    (c.phase ≠ 3 → exec (.ckptGuard id) s = .next (completes s i stOk 0)) ∧
    (c.phase = 3 → guardUnits c i = none → exec (.ckptGuard id) s = .next (completes s i stRights 0)) ∧
    (∀ us : List Nat, c.phase = 3 → guardUnits c i = some us → exec (.ckptGuard id) s = .next (ckptGuards
      ({ s with ckpts := [{ c with want := c.want ++ us.filter fun u => !c.done.contains u && !c.want.contains u }] }.updItem id fun x =>
        { x with phase := .active }) i.fn))) ∧
  (∀ (i : Item) (c : Ckpt) (us : List Nat) (s : State), CkptIs s i.fn c → c.phase = 3 → s.items = [i] → i.typ.toNat = 0x0801 → i.phase = .active →
    guardUnits c i = some us → ckptGuards s i.fn = (if us.all fun u => c.done.contains u then completes s i stOk 0 else s)) ∧
  (∀ (id : Nat) (i : Item) (s : State), Request s id 0x0802 i → s.ckpt i.fn true = none → exec (.ckptCancel id) s = .next (completes s i stAbortTooLate 0)) ∧
  (∀ (id : Nat) (i : Item) (c : Ckpt) (s : State), Request s id 0x0802 i → CkptIs s i.fn c →
    exec (.ckptCancel id) s = .next (
      if c.phase ≤ 3 then settleAll (completes (ckptFail s c stAborted) i stOk 0) else completes s i stAbortTooLate 0)) ∧
  (∀ (p : Nat) (c : Ckpt) (i : Item) (st : Status) (s : State), CkptIs s p c → c.item = some i.id → s.item i.id = some i → Still s → c.mir = 0 →
    NoGuards s p → ckptFail s c st = completes ((bothEvent { s with ckpts := [] } p sevWarn evCkptFailed (BitVec.ofNat 64 (p + st.toNat * 2 ^ 16))
      (BitVec.ofNat 64 c.gen)).bump rCkptFailed 1) i st 0) ∧
  (∀ (id : Nat) (i : Item) (s : State), Request s id 0x0804 i →
    let p := fld (i.w 0) 0 8
    let ms := if i.w 1 = 0 then fld (s.reg rCkptCfg) 0 20 else (i.w 1).toNat
    (p = 0 ∨ (s.peck p).state = .free → exec (.ckptNotice id) s = .next (completes s i stRights 0)) ∧
    (p ≠ 0 → (s.peck p).state ≠ .free →
      Gives (.ckptNotice id) s fun t =>
        t.notices = (s.notices.filter fun n => n.1 ≠ p) ++ [(p, match s.notices.find? fun n => n.1 == p with
          | some n => min n.2 (s.time + ms * 1000000)
          | none => s.time + ms * 1000000)] ∧
        t.ckpts = s.ckpts.map (fun c => if c.peck = p ∧ c.phase = 1 ∧ fld (wd c.rec_ 0).bits 18 1 = 1 then { c with phase := 2 } else c) ∧ t.mem = s.mem)) ∧
  (∀ (p : Fin 256) (s : State),
    exec (.ckptAtTime p) s = .next { s with
      ckpts := s.ckpts.map fun c => if c.peck = p.val ∧ c.phase = 1 ∧ fld (wd c.rec_ 0).bits 19 1 = 1 ∧ (wd c.rec_ 2).bits.toNat ≤ s.time then { c with phase := 2 } else c }) ∧
  (∀ (p : Fin 256) (t : Nat) (c : Ckpt) (s : State), s.notices = [(p.val, t)] → CkptIs s p.val c →
    exec (.ckptDeadlineExpiry p) s = .next (
      if s.time < t then s else if c.phase ≤ 3 then settleAll (ckptFail { s with notices := [] } c stCkptUnsealed) else { s with notices := [] })) ∧
  (∀ (p : Fin 256) (t : Nat) (s : State), s.notices = [(p.val, t)] → s.ckpt p.val true = none → t ≤ s.time →
    exec (.ckptDeadlineExpiry p) s = .next { s with notices := [] }) ∧
  (∀ (part : RegPart) (v : Word) (s : State), Ready s → s.mirrors ≠ [] → exec (.ckptMircfgWrite part v) s = .next s.errWr) ∧
  (∀ (v : Word) (s : State), Ready s → s.mirrors = [] → 196608 < fld v 0 18 + fld v 32 18 → exec (.ckptMircfgWrite .full v) s = .next s.errWr) ∧
  (∀ (v : Word) (s : State), Ready s → s.mirrors = [] → fld v 0 18 + fld v 32 18 ≤ 98048 →
    (∀ e ∈ s.pecks, ∀ k ∈ List.range (fld v 32 18), e.2.grains.testBit (fld v 0 18 + k) = false) →
    exec (.ckptMircfgWrite .full v) s = .next (s.setReg rMirCfg (BitVec.ofNat 64 (fld v 0 18 + fld v 32 18 * 2 ^ 32))))

/-- A checkpoint's phases: the cut waits for the Peck's writes in flight, then stands at its time with memory as it is (R471, R474); the next unit is
captured from that memory, with its POISON words counted (R473); the heads are read (R479), and then the records leave in order, each only once its
unit is captured (R480), and the manifest when all have left (R481); sealing completes the request with generation and slot; the mirror takes units,
acknowledges each once, is confirmed, and is freed (R477); a takeover waits for the horizon and the completion timeout, gives up a mirror that is
not whole, and streams out one that is (R478); a restore refuses a bad request and an unsealed manifest, reads, and completes as R490 and R491 say. -/
def Obligations.CheckpointPhases : Prop :=
  (∀ (p : Fin 256) (c : Ckpt) (s : State), CkptIs s p.val c → c.phase ≠ 2 ∨ cutWaits s c = true → exec (.ckptCut p) s = .next s) ∧
  (∀ (p : Fin 256) (c : Ckpt) (s : State), CkptIs s p.val c → c.phase = 2 → cutWaits s c = false → Settled s → Quiet s → fld (wd c.rec_ 0).bits 16 1 = 0 →
    c.dest.kind = .remote → anyUp s = false →
    Gives (.ckptCut p) s fun t => t.ckpts.map (fun c => (c.phase, c.cut, c.mir, c.done)) = [(3, s.time, 0, c.done)] ∧ t.ckpts.map (·.snap) = [s.mem]) ∧
  (∀ (p : Fin 256) (deny : List Nat) (c : Ckpt) (u : Nat) (s : State), CkptIs s p.val c → c.phase = 3 → nextUnit c = some u →
    exec (.ckptUnitCapture p deny) s = .next (settleAll (captureUnit s c u deny))) ∧
  (∀ (p : Fin 256) (deny : List Nat) (c : Ckpt) (s : State), CkptIs s p.val c → c.phase ≠ 3 ∨ nextUnit c = none →
    exec (.ckptUnitCapture p deny) s = .next s) ∧
  (∀ (s : State) (c : Ckpt) (u k j : Nat) (x : Sect) (l : Loc) (e : List TWord) (deny : List Nat), unitSect c u = some (k, x, j) → c.srcs[k]? = some (l, e) →
    l.kind = .local_ →
    let ws := memWords c.snap (l.base.toNat + csOff e + j * unitLen) (unitPlen x j / 8)
    captureUnit s c u deny = unitDone (placeWords s (unitAt c u) ws).1 (addPoison c k (ws.filter wordPoison).length) u) ∧
  (∀ (p : Fin 256) (c : Ckpt) (s : State), CkptIs s p.val c → 3 ≤ c.phase → c.out_ = .idle ∨ c.out_ = .records →
    exec (.ckptStreamRecord p) s = .next (settleAll (if c.out_ = .idle then ckptHeads s c else ckptRecord s c))) ∧
  (∀ (s : State) (c : Ckpt) (k j : Nat) (x : Sect), (recordList c.sects)[c.data.length]? = some (k, x, j) → x.skind ≠ 4 → c.item.isSome = true →
    c.done.contains (x.unit0 + j) = false → ckptRecord s c = s) ∧
  (∀ (p : Fin 256) (c : Ckpt) (s : State), CkptIs s p.val c → c.phase = 4 → c.out_ = .records → c.open_ = 0 → c.data.length = (recordList c.sects).length →
    exec (.ckptSeal p) s = .next (if c.dest.kind = .volume ∨ anyUp s = true then settleAll (ckptTable s c) else s)) ∧
  (∀ (p : Nat) (c : Ckpt) (i : Item) (s : State), CkptIs s p c → c.item = some i.id → s.item i.id = some i → Still s → c.mir = 0 → NoGuards s p →
    ckptDone s c = completes ((bothEvent { s with ckpts := [] } p sevInfo evCkptSealed (BitVec.ofNat 64 p) (BitVec.ofNat 64 c.gen)).bump rCkptSealed 1) i stOk
      (BitVec.ofNat 64 (c.gen % 2 ^ 48 + c.slot * 2 ^ 48))) ∧
  (∀ (p : Fin 256) (m : MirMsg) (s : State), s.pair.joined = false → exec (.ckptMirrorUnit p m) s = .next s) ∧
  (∀ (p : Fin 256) (s : State), s.pair.joined = true → Quiet s →
    exec (.ckptMirrorUnit p .free) s = .next { s with mirrors := s.mirrors.filter fun x => x.peck ≠ p.val }) ∧
  (∀ (p : Fin 256) (c : Ckpt) (s : State), s.pair.joined = true → Quiet s → CkptIs s p.val c →
    exec (.ckptMirrorUnit p .confirm) s = .next (if c.mir = 2 then { s with ckpts := [{ c with mir := 3 }] } else s)) ∧
  (∀ (p : Fin 256) (u : Nat) (c : Ckpt) (s : State), s.pair.joined = true → Quiet s → CkptIs s p.val c → c.phase = 5 → c.mir = 1 →
    exec (.ckptMirrorUnit p (.ack u)) s = .next { s with
      ckpts := [{ c with
        acked := u :: c.acked
        mir := if (List.range (ckUnits c)).all (fun k => (u :: c.acked).contains k) then 2 else 1 }] }) ∧
  (∀ (p : Fin 256) (u : Nat) (ws : List TWord) (m : Mirror) (s : State), s.pair.joined = true → Quiet s → s.mirrors = [m] → m.peck = p.val →
    (m.nunits ≤ u ∨ m.got.contains u = true → exec (.ckptMirrorUnit p (.unit u ws)) s = .next s) ∧
    (u < m.nunits → m.got.contains u = false → (∃ k ∈ List.range m.nunits, k ≠ u ∧ m.got.contains k = false) →
      Gives (.ckptMirrorUnit p (.unit u ws)) s fun t => t.mirrors.map (·.got) = [m.got ++ [u]] ∧
        t.out = .flit "MIRROR_ACK" [p.val, u] :: (placeWords s (m.base + 0x10000 + u * unitLen) (ws.take (unitLen / 8))).1.out ∧
        t.mem = (placeWords s (m.base + 0x10000 + u * unitLen) (ws.take (unitLen / 8))).1.mem)) ∧
  (∀ (p : Fin 256) (m : Mirror) (t : Nat) (s : State), s.mirrors = [m] → m.peck = p.val → m.split = some t → s.ckpts = [] →
    s.time < t + max (wymH s) ((s.reg rCto).toNat * 1000) → exec (.ckptTakeoverStart p) s = .next s) ∧
  (∀ (p : Fin 256) (m : Mirror) (t : Nat) (s : State), s.mirrors = [m] → m.peck = p.val → m.split = some t → s.ckpts = [] → Still s →
    t + max (wymH s) ((s.reg rCto).toNat * 1000) ≤ s.time → mirrorGood s m = false →
    Gives (.ckptTakeoverStart p) s fun t => t.mirrors = [] ∧ t.ckpts = [] ∧ t.reg rCkptTakeovers = (s.bump rCkptTakeovers 1).reg rCkptTakeovers ∧
      t.reg rCkptFailed = (s.bump rCkptFailed 1).reg rCkptFailed) ∧
  (∀ (p : Fin 256) (m : Mirror) (t : Nat) (s : State), s.mirrors = [m] → m.peck = p.val → m.split = some t → s.ckpts = [] →
    t + max (wymH s) ((s.reg rCto).toNat * 1000) ≤ s.time → mirrorGood s m = true →
    let c : Ckpt := ⟨p.val, none, 6, [], [], Loc.none, locOfWord s (s.dirWord p.val m.dstdir).bits, recNum m.head 24 8, Memory.empty, m.gens, m.sects, m.gen, m.slot,
      .idle, [], [], [], [], [], 0, m.poison, 3, [], m.base + 0x10000, m.slotsz, m.pkeyslot, m.head⟩
    exec (.ckptTakeoverStart p) s = .next (settleAll (ckptOpen
      { (bothEvent s p.val sevWarn evCkptTakeover (BitVec.ofNat 64 p.val) (BitVec.ofNat 64 m.gen)).bump rCkptTakeovers 1 with ckpts := [c] } c))) ∧
  (∀ (id : Nat) (i : Item) (s : State), Request s id 0x0803 i → i.open_ = 0 →
    (i.w 5).toNat % 32 ≠ 0 ∨ fld (i.w 3) 12 4 ≠ 0 ∨ (i.w 2).toNat % 4096 ≠ 0 ∨ i.w 2 = 0 → exec (.ckptRestore id) s = .next (completes s i stUndef 0)) ∧
  (∀ (id : Nat) (i : Item) (es : List (List TWord)) (s : State), Request s id 0x0803 i → i.open_ = 0 → (i.w 5).toNat % 32 = 0 → fld (i.w 3) 12 4 = 0 →
    (i.w 2).toNat % 4096 = 0 → i.w 2 ≠ 0 → (i.ref 0).check [.volume, .remote] [rightRd] = stOk → (i.ref 1).check [.local_] [rightRd] = stOk →
    (i.ref 1).loc.holds (i.w 5) (32 * fld (i.w 3) 16 16) 32 = true → (i.ref 0).loc.kind = .volume → Settled s →
    es = restEntries (memWords s.mem ((i.ref 1).loc.base.toNat + (i.w 5).toNat) (4 * fld (i.w 3) 16 16)) (fld (i.w 3) 16 16) →
    exec (.ckptRestore id) s = .next (
      if restStatus s i es ≠ stOk then completes s i (restStatus s i es) 0
      else settleAll ((if i.w 1 = 0 then [0, 1] else [(i.w 1).toNat - 1]).foldl (fun s k => restRead s i (k * (i.w 2).toNat) 4096 (4096 * k))
        (s.updItem id fun x => { x with phase := .active })))) ∧
  (∀ (id : Nat) (i : Item) (s : State), s.item id = some i → i.typ.toNat = 0x0803 → i.open_ = 0 → i.phase = .active → Quiet s → i.w 1 = 1 →
    manifestSealed (restBytes i 0 512) = false → exec (.ckptRestore id) s = .next (completes s i stCkptUnsealed 0)) ∧
  (∀ (id : Nat) (i : Item) (es : List (List TWord)) (u : State) (st : Status) (s : State), s.item id = some i → i.typ.toNat = 0x0803 → i.open_ = 0 →
    i.phase = .committed → Settled s →
    es = restEntries (memWords s.mem ((i.ref 1).loc.base.toNat + (i.w 5).toNat) (4 * fld (i.w 3) 16 16)) (fld (i.w 3) 16 16) →
    let mf := restBytes i 0 512
    restRun s i mf (restBytes i 512 (recNum mf 48 8 - 0x1000)) es = (u, st) →
    exec (.ckptRestore id) s = .next (settleAll (completes u i st (if st = stOk then BitVec.ofNat 64 (recNum mf 8 8) else 0))))
/-- Live update: FW_STAGE refuses while an image is staged or active, refuses a bundle it cannot read or accept, and stages one it can, and FW_ABANDON
drops a staged image until activation (R497, R501); FW_ACTIVATE needs a staged image, and a joined pair one of its major version or SPLITOK (R503),
and is deferred in an emergency, until one second after its end (R506); the groups switch in order (R496, R503), and two seconds after the last the
image is committed, and a flash write fills the idle slot, switches to it and raises the minimum, while a torn one leaves the slot bad (R505); a
trip of a switched core in probation rolls the update back (R504), and otherwise is counted (R500), a second within the window asking for a device
warm reset (R524). -/
def Obligations.FirmwareUpdate : Prop :=
  (∀ (id : Nat) (i : Item) (bs : List Byte) (st : BitVec 16) (s : State), Request s id 0x0900 i →
    (s.fw.staged.isSome = true ∨ s.fw.activating = true → exec (.fwStage id bs st) s = .next (completes s i stDuplicate 0)) ∧
    (s.fw.staged = none → s.fw.activating = false → st ≠ stOk → exec (.fwStage id bs st) s = .next (completes s i st 0)) ∧
    (s.fw.staged = none → s.fw.activating = false → st = stOk → parseBundle (bs.take (i.w 1).toNat) = none →
      exec (.fwStage id bs st) s = .next (completes s i stUndef 0))) ∧
  (∀ (id : Nat) (i : Item) (bs : List Byte) (b : Bundle) (s : State), Request s id 0x0900 i → s.fw.staged = none → s.fw.activating = false →
    parseBundle (bs.take (i.w 1).toNat) = some b →
    exec (.fwStage id bs stOk) s = .next (
      if b.ok = true ∧ s.fw.minsec ≤ b.secver ∧ b.isa ≤ 1 ∧ handover s ≤ b.horead ∧ b.hoback.testBit (handover s - 1) = true then
        completes (({ s with fw := { s.fw with staged := some b, flash := decide (fld (i.w 2) 0 1 = 1), rolled := false } }).mgrEvent sevInfo evFwStaged
          (BitVec.ofNat 64 b.ver) (BitVec.ofNat 64 b.secver)) i stOk 0
      else completes s i stRights 0)) ∧
  (∀ (id : Nat) (i : Item) (s : State), Request s id 0x0902 i →
    (s.fw.staged = none ∨ s.fw.activating = true → exec (.fwAbandon id) s = .next (completes s i stAbortTooLate 0)) ∧
    (s.fw.staged.isSome = true → s.fw.activating = false →
      exec (.fwAbandon id) s = .next (completes { s with fw := { s.fw with staged := none, flash := false, deferred := false } } i stOk 0))) ∧
  (∀ (id : Nat) (i : Item) (s : State), Request s id 0x0901 i → s.fw.staged = none ∨ s.fw.activating = true →
    exec (.fwActivate id) s = .next (completes s i stRights 0)) ∧
  (∀ (id : Nat) (i : Item) (b : Bundle) (s : State), Request s id 0x0901 i → s.fw.staged = some b → s.fw.activating = false →
    (s.pair.joined = true → b.ver / 65536 ≠ fwVer s / 65536 → fld (i.w 0) 0 1 = 0 → exec (.fwActivate id) s = .next (completes s i stRights 0)) ∧
    (s.pair.joined = false ∨ b.ver / 65536 = fwVer s / 65536 ∨ fld (i.w 0) 0 1 = 1 →
      (s.pwr.epwr = true ∨ s.pwr.ethm = true → exec (.fwActivate id) s = .next (completes (({ s with
        fw := { s.fw with deferred := true } }).mgrEvent sevWarn evFwDeferred (BitVec.ofNat 64 b.ver) 0) i stDeferredEmergency 0)) ∧
      (s.pwr.epwr = false → s.pwr.ethm = false → exec (.fwActivate id) s = .next (completes { s with
        fw := { s.fw with activating := true, switched := [], group := 0, began := s.time } } i stOk 0)))) ∧
  (∀ (s : State), exec .fwDeferredStart s = .next (
    if s.fw.deferred = true ∧ s.fw.staged.isSome = true ∧ s.fw.activating = false ∧ s.pwr.epwr = false ∧ s.pwr.ethm = false ∧
      (s.pwr.cleared = 0 ∨ s.pwr.cleared + 1000000000 ≤ s.time) then
      { s with fw := { s.fw with activating := true, switched := [], group := 0, began := s.time } } else s)) ∧
  (∀ (g : Fin 7) (s : State), Ready s → s.fw.activating = true → g.val = s.fw.switched.length + 1 → s.pwr.epwr = false → s.pwr.ethm = false →
    s.pwr.cleared ≤ s.fw.began ∨ s.pwr.cleared + 1000000000 ≤ s.time →
    let u := { s with fw := { s.fw with
      switched := s.fw.switched ++ [g.val], group := g.val, switchAt := s.time, probation := true, deferred := false } }
    exec (.fwGroupSwitch g) s = .next (if g.val = 1 then group1Switched u else u)) ∧
  (∀ (g : Fin 7) (s : State), s.fw.activating = false ∨ g.val ≠ s.fw.switched.length + 1 ∨ s.pwr.epwr = true ∨ s.pwr.ethm = true →
    exec (.fwGroupSwitch g) s = .next s) ∧
  (∀ (b : Bundle) (s : State), s.fw.staged = some b → s.fw.activating = true → s.fw.switched.length = 6 →
    exec .fwProbationEnd s = .next (if s.time < s.fw.switchAt + 2000000000 then s else
      let c := { b with board := b.board.or (s.fw.run.bind (·.board)) }
      ({ s with fw := { s.fw with run := some c, staged := none, switched := [], activating := false, probation := false, group := 0, flash := false, toFlash := if s.fw.flash = true then some c else none } }).mgrEvent sevInfo evFwCommitted (BitVec.ofNat 64 b.ver) (BitVec.ofNat 64 s.fw.flash.toNat))) ∧
  (∀ (b : Bundle) (s : State), s.fw.toFlash = some b →
    Gives (.fwFlashWrite true) s fun t => (if s.fw.active then t.fw.flashA else t.fw.flashB) = some { b with ok := true } ∧
      (if s.fw.active then t.fw.flashB = s.fw.flashB else t.fw.flashA = s.fw.flashA) ∧ t.fw.active = !s.fw.active ∧
      t.fw.minsec = (if b.raise_ then max s.fw.minsec b.secver else s.fw.minsec) ∧ t.fw.toFlash = none ∧ t.fw.run = s.fw.run) ∧
  (∀ (b : Bundle) (s : State), s.fw.toFlash = some b →
    Gives (.fwFlashWrite false) s fun t => (if s.fw.active then t.fw.flashA else t.fw.flashB) = some { b with ok := false } ∧
      t.fw.active = s.fw.active ∧ t.fw.minsec = s.fw.minsec ∧ t.fw.toFlash = none) ∧
  (∀ (ok : Bool) (s : State), s.fw.toFlash = none → exec (.fwFlashWrite ok) s = .next s) ∧
  (∀ (n : Fin 60) (held : List Nat) (s : State), (s.core n.val).state = 0 → exec (.watchdogTrip n held) s = .next s) ∧
  (∀ (n : Fin 60) (held : List Nat) (s : State), (s.core n.val).state ≠ 0 → s.fw.probation = true → s.fw.switched.contains (coreGroup n.val) = true →
    exec (.watchdogTrip n held) s = .next (settleAll (rollback s n.val held))) ∧
  (∀ (n : Nat) (s : State), s.fw.switched.contains 1 = false →
    rollback s n [] = ({ s with fw := { s.fw with staged := none, switched := [], activating := false, probation := false, flash := false, deferred := false, rolled := true, group := 0 } }).mgrEvent sevWarn evFwRollback
        (BitVec.ofNat 64 ((s.fw.staged.map fun b : Bundle => b.ver).getD 0)) (BitVec.ofNat 64 n)) ∧
  (∀ (n : Fin 60) (held : List Nat) (s : State), (s.core n.val).state ≠ 0 → s.fw.probation = false → (s.core n.val).last = none →
    Gives (.watchdogTrip n held) s fun t =>
      t.core n.val = ⟨(s.core n.val).state, ((s.core n.val).trips + 1) % 65536, some s.time⟩ ∧ t.reg rFwTrips = (s.bump rFwTrips 1).reg rFwTrips ∧
      t.mem = s.mem ∧ t.items = s.items) ∧
  (∀ (n : Fin 60) (held : List Nat) (t0 : Nat) (s : State), (s.core n.val).state ≠ 0 → s.fw.probation = false → (s.core n.val).last = some t0 →
    s.time ≤ t0 + fld (s.reg rRcvCfg) 52 10 * 1000000 → n.val < 56 → s.rcv.warm = none → fld (s.reg rRcvPcreq) 0 1 = 0 →
    recentWarms s < fld (s.reg rRcvCfg) 48 3 →
    Gives (.watchdogTrip n held) s fun t => t.rcv.warm = some 3)

/-- Boot: a cold device takes the slot in use, or the other one, halts at step 2 without either, at step 3 on a rail, at step 4 on a link and at step 7
on the HBM, and otherwise is READY at time 0 with every link up (R498). The hang detector samples a watched unit eight times over its span and acts
when its counter has not moved (R509, R510); a manager ring that hangs is only counted (R512). Replay runs a slot's context again from its start
record, and ends with the last (R516 to R519). RCV_WARMRESET and RCV_POWERCYCLE complete and act (R528); a warm reset is due unless too many came
lately, when a power cycle is asked for, once a second (R523, R524, R526); the reset leaves no collective, checkpoint, sequence or feed and the
manager detached (R525); a power cycle keeps what flash and fuses hold and nothing else (R31); D3cold loses keys and memory and its exit boots
(R371). -/
def Obligations.BootAndRecovery : Prop :=
  (∀ (b : BootIn) (s : State), s.phase ≠ 0 ∨ s.d3cold = true → exec (.boot b) s = .next s) ∧
  (∀ (b : BootIn) (s : State), s.phase = 0 → s.d3cold = false →
    exec (.boot b) s = .next (settleAll (coldBoot { s with secondary := b.strap, phase := 1 } b))) ∧
  (∀ (b : BootIn) (s : State), (slotBad s (if s.fw.active then s.fw.flashB else s.fw.flashA)).isSome = true →
    (slotBad s (if s.fw.active then s.fw.flashA else s.fw.flashB)).isSome = true →
    (coldBoot s b).phase = 3 ∧ (coldBoot s b).fw.errStep = 2 ∧ (coldBoot s b).fw.errCause = 1 ∧ (coldBoot s b).mem = s.mem) ∧
  (∀ (b : BootIn) (r : Fin 5) (s : State), slotBad s (if s.fw.active then s.fw.flashB else s.fw.flashA) = none → b.rail = some r →
    (coldBoot s b).phase = 3 ∧ (coldBoot s b).fw.errStep = 3 ∧ (coldBoot s b).fw.errCause = 4 ∧ (coldBoot s b).pwr.pg = BitVec.ofNat 5 (2 ^ r.val - 1)) ∧
  (∀ (b : BootIn) (s : State), slotBad s (if s.fw.active then s.fw.flashB else s.fw.flashA) = none → b.rail = none → s.intg.out_ = [] → b.lanes = [] →
    (if s.fw.active then s.fw.flashB else s.fw.flashA).bind (·.board) = none →
    (b.links ≠ [] → (coldBoot s b).phase = 3 ∧ (coldBoot s b).fw.errStep = 4 ∧ (coldBoot s b).fw.errCause = 2) ∧
    (b.links = [] → b.hbm = true → (coldBoot s b).phase = 3 ∧ (coldBoot s b).fw.errStep = 7 ∧ (coldBoot s b).fw.errCause = 3) ∧
    (b.links = [] → b.hbm = false → s.intg.soft = [] → s.intg.faults = [] → (coldBoot s b).phase = 2 ∧ (coldBoot s b).time = 0 ∧
      (coldBoot s b).fw.run = (if s.fw.active then s.fw.flashB else s.fw.flashA) ∧ (coldBoot s b).pwr.pg = 0x1F ∧ (coldBoot s b).pwr.en = 0xF ∧
      (∀ l ∈ List.range 17, fld ((coldBoot s b).reg (rLink l)) 0 2 = 2))) ∧
  (∀ (b : BootIn) (s : State), slotBad s s.fw.flashA = some 1 → s.fw.active = false → slotBad s s.fw.flashB = none → b.rail = some 0 →
    (coldBoot s b).fw.run = s.fw.flashB ∧ (coldBoot s b).fw.booted = true) ∧
  (∀ (u : ProgUnit) (s : State), s.rcv.escals = [] → s.replays = [] → watched s u = false →
    exec (.progressSample u) s = .next (s.setWatch { s.watch (unitCode s u) with samples := [] })) ∧
  (∀ (u : ProgUnit) (w : Watch) (l : List (Nat × Nat)) (s : State), s.rcv.escals = [] → s.replays = [] → watched s u = true → w = s.watch (unitCode s u) →
    (w.samples.all fun p => decide (p.1 + spanOf s u * 125000 ≤ s.time)) = true → l = ((s.time, counterOf s u) :: w.samples).take 9 →
    exec (.progressSample u) s = .next (if l.length = 9 ∧ (l.map (·.2)).getLast? = some (counterOf s u) then hang s u else s.setWatch { w with samples := l })) ∧
  (∀ (u : ProgUnit) (p : Nat × Nat) (s : State), s.rcv.escals = [] → s.replays = [] → watched s u = true →
    (s.watch (unitCode s u)).samples.head? = some p → s.time < p.1 + spanOf s u * 125000 → exec (.progressSample u) s = .next s) ∧
  (∀ (r : Fin 4) (s : State), (s.watch (unitCode s (.mgrRing r))).acted = none →
    (hang s (.mgrRing r)).reg rRcvHangs = (s.bump rRcvHangs 1).reg rRcvHangs ∧ (hang s (.mgrRing r)).rcv = s.rcv ∧ (hang s (.mgrRing r)).mem = s.mem ∧
    ((hang s (.mgrRing r)).watch (unitCode s (.mgrRing r))).acted = some s.time) ∧
  (∀ (e : Fin 128) (s : State), s.replay e.val = none ∨ (s.replay e.val).any (fun r => r.run.isSome) = true → exec (.replayRun e) s = .next s) ∧
  (∀ (e : Fin 128) (r : Replay) (s : State), s.replay e.val = some r → r.run = none → r.left = [] → exec (.replayRun e) s = .next (replayEnd s r)) ∧
  (∀ (e : Fin 128) (k : Fin 8) (i : Item) (r : Replay) (s : State), s.replay e.val = some r → r.run = none → r.left.head? = some k.val →
    (s.ctx ⟨e, k⟩).item = some i.id → s.item i.id = some i → startFlag (s.ctx ⟨e, k⟩).start 3 = false →
    let u := startCtx s i (s.ctx ⟨e, k⟩).start []
    let v := (freeCtx (fenceCopies s e (some k.val) stFenced) ⟨e, k⟩).setCtx ⟨e, k⟩ { u with replay := true, arrived := (s.ctx ⟨e, k⟩).arrived }
    exec (.replayRun e) s = .next (v.updReplay e.val fun r => { r with run := some k.val, samples := [(v.time, engCounter v e.val)] })) ∧
  (∀ (id : Nat) (i : Item) (s : State), Request s id 0x0940 i → exec (.rcvWarmreset id) s = .next (warmLevel (completes s i stOk 0) 1 0)) ∧
  (∀ (id : Nat) (i : Item) (s : State), Request s id 0x0941 i → exec (.rcvPowercycle id) s = .next (powerLevel (completes s i stOk 0) 5 0)) ∧
  (∀ (cause : Nat) (code : Word) (s : State), fld (s.reg rRcvPcreq) 0 1 = 0 →
    powerLevel s cause code = requestPowerCycle (escalate s 4 code) cause ∧
    (s.rcv.warm = none → recentWarms s < fld (s.reg rRcvCfg) 48 3 →
      (warmLevel s cause code).rcv.warm = some cause ∧ (warmLevel s cause code).mem = s.mem) ∧
    (s.rcv.warm = none → fld (s.reg rRcvCfg) 48 3 ≤ recentWarms s → warmLevel s cause code = powerLevel s 1 code)) ∧
  (∀ (s : State), exec .powercycleRequestRepeat s = .next (
    if fld (s.reg rRcvPcreq) 0 1 = 1 ∧ (s.pwr.fallback = true ∨ s.rcv.asked + 1000000000 ≤ s.time) then askPower s else s)) ∧
  (∀ (b : BootIn) (s : State), s.rcv.reserve = false → s.rcv.warm = none → exec (.deviceWarmReset b) s = .next s) ∧
  (∀ (b : BootIn) (cause : Nat) (s : State), s.rcv.reserve = false → s.rcv.warm = some cause →
    exec (.deviceWarmReset b) s = .next (settleAll (warmBoot (warmState s cause) b))) ∧
  (∀ (cause : Nat) (s : State), (warmState s cause).attached = false ∧ (warmState s cause).colls = [] ∧ (warmState s cause).ckpts = [] ∧
    (warmState s cause).seqs = [] ∧ (warmState s cause).feeds = [] ∧ (warmState s cause).rcv.warm = none ∧ (warmState s cause).watches = []) ∧
  (∀ (s : State), exec .boardPowerCycle s = .next (coldState s)) ∧
  (∀ (s : State), (coldState s).phase = 0 ∧ (coldState s).mem = State.reset.mem ∧ (coldState s).items = [] ∧ (coldState s).regions = State.reset.regions ∧
    (coldState s).keys = State.reset.keys ∧ (coldState s).fw.flashA = s.fw.flashA ∧ (coldState s).fw.flashB = s.fw.flashB ∧
    (coldState s).fw.active = s.fw.active ∧ (coldState s).fw.minsec = s.fw.minsec ∧ (coldState s).intg.grains = s.intg.grains ∧
    (coldState s).intg.gills = s.intg.gills ∧ (coldState s).intg.faults = s.intg.faults ∧ (coldState s).pending = s.pending) ∧
  (∀ (s : State), s.d3cold = true ∨ s.phase = 0 → exec .d3coldEntry s = .next s) ∧
  (∀ (s : State), s.d3cold = false → s.phase ≠ 0 → s.pecks = [] →
    Gives .d3coldEntry s fun t => t.d3cold = true ∧ t.phase = 0 ∧ t.keys = State.reset.keys ∧ t.mem = State.reset.mem ∧ t.mtr = s.mtr ∧
      t.fw.flashA = s.fw.flashA ∧ t.i3c = s.i3c ∧ t.reg rRcvPcreq = s.reg rRcvPcreq) ∧
  (∀ (b : BootIn) (s : State), s.d3cold = false → exec (.d3coldExit b) s = .next s) ∧
  (∀ (b : BootIn) (s : State), s.d3cold = true → exec (.d3coldExit b) s = .next (settleAll (coldBoot { s with d3cold := false, phase := 1 } b)))

/-- A pair: a trained link starts joining unless the pair was asked to part (R535, R536), and a link down splits it with cause 6 (R537); lane errors are
counted and, above LANETHR, cost a half (R533); a join record of the other role and the same ISA, firmware major, Wymwerk version and epoch joins,
and any other splits with the cause of its first difference (R534); a LEAVE flit, silence of the heartbeat and PAIR_LEAVE split it, PAIR_JOIN asks
again, the retry timer tries again, and heartbeats leave each 100 µs (R536 to R538); arrivals, completions and configurations of barrier units cross
(R184, R539); and the measured offset sets the secondary's clock, with TLOCK after 16 good measurements (R540, R541). -/
def Obligations.PairStates : Prop :=
  (∀ (low high : Bool) (s : State), pairLive s = true → low = true ∨ high = true → s.pair.state ≠ 3 ∨ s.pair.cause ≠ 9 →
    Gives (.pairLinkTrained low high) s fun t => t.pair.state = 1 ∧ t.pair.low = low ∧ t.pair.high = high ∧ t.pair.tried = s.time ∧
      t.pair.was = s.pair.joined ∧ t.out.length = s.out.length + 1 ∧ t.mem = s.mem ∧ t.regs = s.regs) ∧
  (∀ (low high : Bool) (s : State), pairLive s = true → low = true ∨ high = true → s.pair.state = 3 → s.pair.cause = 9 →
    exec (.pairLinkTrained low high) s = .next { s with pair := { s.pair with low := low, high := high } }) ∧
  (∀ (low high : Bool) (s : State), pairLive s = false ∨ (low = false ∧ high = false) → exec (.pairLinkTrained low high) s = .next s) ∧
  (∀ (s : State), s.pair.state = 0 ∨ s.pair.state = 3 →
    exec .pairLinkDown s = .next { s with pair := { s.pair with low := false, high := false } }) ∧
  (∀ (s : State), s.pair.state = 1 → s.pair.was = false → s.items = [] →
    exec .pairLinkDown s = .next { s with pair := { s.pair with state := 3, cause := 6, low := false, high := false, was := false, good := 0 } }) ∧
  (∀ (s : State), s.pair.state = 2 → s.items = [] → s.barriers = [] → s.ckpts = [] →
    Gives .pairLinkDown s fun t => t.pair.state = 3 ∧ t.pair.cause = 6 ∧ t.pair.tlock = false ∧ t.reg rPairSplits = (s.bump rPairSplits 1).reg rPairSplits ∧
      t.mirrors = s.mirrors.filterMap (fun m => if m.confirmed then some { m with split := m.split.or (some s.time) } else none)) ∧
  (∀ (l : Fin 16) (e r p : Nat) (s : State), s.pair.up = true → e ≤ fld (s.reg rIntgCfg) 0 16 →
    Gives (.pairLaneErrors l e r p) s fun t => t.pair = s.pair ∧ t.mem = s.mem ∧
      fld (t.reg rPairLinkErr) 0 32 = min (2 ^ 32 - 1) (fld (s.reg rPairLinkErr) 0 32 + r) ∧
      fld (t.reg rPairLinkErr) 32 32 = min (2 ^ 32 - 1) (fld (s.reg rPairLinkErr) 32 32 + p)) ∧
  (∀ (l : Fin 16) (e r p : Nat) (s : State), s.pair.low = true → s.pair.high = true → fld (s.reg rIntgCfg) 0 16 < e →
    Gives (.pairLaneErrors l e r p) s fun t => t.pair = { s.pair with low := decide (8 ≤ l.val), high := decide (l.val < 8) }) ∧
  (∀ (l : Fin 16) (e r p : Nat) (s : State), s.pair.up = false → exec (.pairLaneErrors l e r p) s = .next s) ∧
  (∀ (r : JoinRec) (s : State), pairLive s = true → s.pair.up = true → s.pair.state = 1 → joinCause (joinRec s) r = 0 → s.barriers = [] → s.items = [] →
    Gives (.pairJoinRecord r true) s fun t => t.pair = { s.pair with state := 2, was := false, good := 0, hbIn := s.time } ∧
      t.reg rPairPeer = r.devid.setWidth 64 ∧ t.mem = s.mem) ∧
  (∀ (r : JoinRec) (s : State), pairLive s = true → s.pair.up = true → s.pair.state = 1 → s.pair.was = false → joinCause (joinRec s) r ≠ 0 → s.items = [] →
    Gives (.pairJoinRecord r true) s fun t => t.pair = { s.pair with state := 3, cause := joinCause (joinRec s) r, was := false, good := 0 } ∧
      t.reg rPairPeer = r.devid.setWidth 64 ∧ t.mem = s.mem) ∧
  (∀ (a b : JoinRec), joinCause a b = (if a.role = b.role then 1 else if a.isa ≠ b.isa then 2 else if a.fwmajor ≠ b.fwmajor then 3 else
    if a.wymver ≠ b.wymver then 4 else if a.epoch ≠ b.epoch then 5 else 0)) ∧
  (∀ (r : JoinRec) (answer : Bool) (s : State), pairLive s = false ∨ s.pair.up = false ∨ (answer = true ∧ s.pair.state ≠ 1) →
    exec (.pairJoinRecord r answer) s = .next s) ∧
  (∀ (m : Bool) (s : State), exec (.pairLeaveFlit m) s = .next (pairSplit s (if m then 9 else 8))) ∧
  (∀ (s : State), s.pair.state = 2 → exec .pairHeartbeatTimeout s = .next (
    if s.pair.hbIn + fld (s.reg rPairCfg) 0 10 * 1000000 ≤ s.time then pairSplit s 7 else s)) ∧
  (∀ (s : State), s.pair.state ≠ 2 → exec .pairHeartbeatTimeout s = .next s) ∧
  (∀ (s : State), exec .pairHeartbeatSend s = .next (if s.pair.joined = true ∧ s.pair.hbOut + 100000 ≤ s.time then
    { s with pair := { s.pair with hbOut := s.time }, out := .flit "HEARTBEAT" [] :: s.out } else s)) ∧
  (∀ (s : State), exec .pairRetryTimer s = .next (
    if pairLive s = true ∧ s.pair.up = true ∧ ((s.pair.state = 3 ∧ s.pair.cause ≠ 9) ∨ s.pair.state = 1) ∧ fld (s.reg rPairCfg) 32 1 = 1 ∧
      s.pair.tried + fld (s.reg rPairCfg) 16 10 * 1000000 ≤ s.time then startJoin s else s)) ∧
  (∀ (id : Nat) (i : Item) (s : State), Request s id 0x0980 i →
    (s.pair.state = 2 → exec (.pairJoin id) s = .next (completes s i stOk 0)) ∧
    (s.pair.state ≠ 2 → s.pair.up = false → exec (.pairJoin id) s = .next (completes s i stPairSplit 6)) ∧
    (s.pair.state ≠ 2 → s.pair.up = true → exec (.pairJoin id) s = .next (startJoin (s.updItem id fun x => { x with phase := .committed })))) ∧
  (∀ (id : Nat) (i : Item) (s : State), Request s id 0x0981 i → s.pair.state = 3 ∨ s.pair.state = 0 →
    exec (.pairLeave id) s = .next (completes { s with pair := { s.pair with cause := if s.pair.state = 3 then 9 else s.pair.cause } } i stOk 0)) ∧
  (∀ (id : Nat) (i : Item) (s : State), Request s id 0x0981 i → s.pair.state = 1 → s.pair.was = false → s.items = [i] → s.pair.up = true →
    exec (.pairLeave id) s = .next (completes { s with
      pair := { s.pair with state := 3, cause := 9, was := false, good := 0 }
      out := .flit "LEAVE" [1] :: s.out } i stOk 0)) ∧
  (∀ (u : Fin 256) (f : BarFlit) (s : State), s.pair.joined = false → exec (.pairBarrierFlit u f) s = .next s) ∧
  (∀ (u : Fin 256) (s : State), s.pair.joined = true → exec (.pairBarrierFlit u .arrival) s = .next (
    if (s.bar u.val).pair then barCheck (s.setBar u.val { s.bar u.val with remote := (s.bar u.val).remote + 1 }) u.val else s)) ∧
  (∀ (u : Fin 256) (n : BitVec 12) (s : State), s.pair.joined = true → exec (.pairBarrierFlit u (.complete n)) s = .next (
    if (s.bar u.val).pair = true ∧ s.secondary = true then
      wakeBar (s.setBar u.val { s.bar u.val with
        phase := (s.bar u.val).phase + 1, arrived := 0, remote := 0, count := n, held := none
        mate := match (s.bar u.val).mate with
          | some (p, k, _) => some (p, k, n)
          | none => none }) u.val else s)) ∧
  (∀ (u : Fin 256) (p : Bool) (k : BitVec 8) (n : BitVec 12) (s : State), s.pair.joined = true → exec (.pairBarrierFlit u (.config p k n)) s = .next (
    s.setBar u.val { s.bar u.val with
      mate := some (p, k, n)
      count := if (s.bar u.val).pair = true ∧ p = true ∧ s.secondary = true then n else (s.bar u.val).count })) ∧
  (∀ (ps : Int) (s : State), s.pair.joined = false → exec (.pairTimeExchange ps) s = .next s) ∧
  (∀ (ps : Int) (s : State), s.pair.joined = true → s.secondary = false →
    Gives (.pairTimeExchange ps) s fun t => t.reg rPairOffset = BitVec.ofNat 64 (BitVec.ofInt 32 ps).toNat ∧
      t.pair = { s.pair with
        good := if ps.natAbs ≤ 2000 then min 16 (s.pair.good + 1) else 0
        tlock := decide (ps.natAbs ≤ 2000 ∧ (s.pair.tlock = true ∨ 15 ≤ s.pair.good)) } ∧ t.time = s.time) ∧
  (∀ (ps : Int) (s : State), s.pair.joined = true → s.secondary = true →
    Gives (.pairTimeExchange ps) s fun t => (ps.natAbs ≤ 1000000 → t.clk = { s.clk with slew := -(ps * 1000000) } ∧ t.time = s.time) ∧
      (1000000 < ps.natAbs → t.time = ((Int.ofNat s.time - ps / 1000) % (2 ^ 64 : Int)).toNat))

/-- The management bus: ENTDAA answers the device's identity and gives it a dynamic address, SETNEWDA changes it and RSTDAA takes it, and GETPID,
GETBCR, GETDCR and GETSTATUS answer, the value of GETSTATUS free (R542, R543); ENEC and DISEC enable in-band interrupts (R545); the private commands
GET_STATE, NOTICE, WAKE and GET_ID answer as R544 says, a reserved one ST_UNDEFINED_OPCODE, and a private read gives status and answer; without an
address nothing answers; PAIR_FABRIC, PAIR_MAC and the next hops are refused while a port is enabled and take legal values otherwise (R546). -/
def Obligations.ManagementBus : Prop :=
  (∀ (da : BitVec 7) (s : State), s.i3c.da = none → exec (.entdaa da) s = .next { s with
    i3c := { s.i3c with da := some da }
    out := .i3c "ENTDAA" ((bytesOf 6 devIdNum).reverse ++ [0x06, 0x00]) :: s.out }) ∧
  (∀ (a : BitVec 7) (da : BitVec 7) (s : State), s.i3c.da = some a → exec (.entdaa da) s = .next s ∧
    exec (.setnewda da) s = .next { s with i3c := { s.i3c with da := some da } } ∧
    exec .getpid s = .next { s with out := .i3c "GETPID" (bytesOf 6 devIdNum).reverse :: s.out } ∧
    exec .getbcr s = .next { s with out := .i3c "GETBCR" [0x06] :: s.out } ∧
    exec .getdcr s = .next { s with out := .i3c "GETDCR" [0x00] :: s.out } ∧
    Gives .getstatus s (fun t => t.out = .i3c "GETSTATUS" (bytesOf 2 (Config.freeWord s.free).toNat) :: s.out ∧ t.free = s.free + 1 ∧ t.i3c = s.i3c)) ∧
  (∀ (s : State), exec .rstdaa s = .next { s with i3c := { s.i3c with da := none } }) ∧
  (∀ (a : BitVec 7) (b : Byte) (s : State), s.i3c.da = some a →
    exec (.enec b) s = .next { s with i3c := { s.i3c with ibi := s.i3c.ibi || b.getLsbD 0 } } ∧
    exec (.disec b) s = .next { s with i3c := { s.i3c with ibi := s.i3c.ibi && !b.getLsbD 0 } }) ∧
  (∀ (a : BitVec 7) (s : State), s.i3c.da = some a →
    exec .getState s = .next { s with i3c := { s.i3c with
      st := stOk
      resp := [BitVec.ofNat 8 s.phase, BitVec.ofNat 8 s.fw.errStep, BitVec.ofNat 8 s.fw.errCause,
        BitVec.ofNat 8 (fld (s.reg rRcvPcreq) 8 7 + fld (s.reg rRcvPcreq) 0 1 * 128),
        BitVec.ofNat 8 (fld (s.reg rKeyAlarm) 0 4 + s.alarmLive.toNat * 16),
        BitVec.ofNat 8 (s.pair.state % 4 + (if s.secondary then 4 else 0) + (if s.pair.tlock then 8 else 0)),
        BitVec.ofNat 8 (fld (s.reg rAlive) 0 8), BitVec.ofNat 8 (fld (s.reg rAlive) 8 8)] } }) ∧
  (∀ (a : BitVec 7) (p : Fin 256) (ms : BitVec 32) (s : State), s.i3c.da = some a →
    (s.phase ≠ 2 → exec (.notice p ms) s = .next { s with i3c := { s.i3c with st := stFenced, resp := [] } }) ∧
    (s.phase = 2 → p.val = 0 ∨ (s.peck p.val).state = .free → exec (.notice p ms) s = .next { s with i3c := { s.i3c with st := stRights, resp := [] } }) ∧
    (s.phase = 2 → p.val ≠ 0 → (s.peck p.val).state ≠ .free →
      exec (.notice p ms) s = .next (i3cAnswer (giveNotice s p.val ms.toNat) stOk []))) ∧
  (∀ (a : BitVec 7) (s : State), s.i3c.da = some a →
    exec .wake s = .next (if s.d3cold then
      { s with pcie := { s.pcie with wake := true }, out := .signal "WAKE#" [1] :: s.out, i3c := { s.i3c with st := stOk, resp := [] } }
    else { s with i3c := { s.i3c with st := stOk, resp := [] } })) ∧
  (∀ (a : BitVec 7) (s : State), s.i3c.da = some a →
    exec .getId s = .next { s with i3c := { s.i3c with
      st := stOk
      resp := bytesOf 6 devIdNum ++ [if Config.lowPower then 2 else 1] ++ [if s.secondary then 1 else 0] } } ∧
    exec .i3cReservedCommand s = .next { s with i3c := { s.i3c with st := stUndef, resp := [] } } ∧
    exec .i3cPrivateRead s = .next { s with out := .i3c "READ" (bytesOf 2 s.i3c.st.toNat ++ s.i3c.resp) :: s.out }) ∧
  (∀ c ∈ ([Instr.setnewda 9, Instr.getpid, Instr.getbcr, Instr.getdcr, Instr.getstatus, Instr.enec 1, Instr.disec 1, Instr.getState, Instr.notice 1 0,
    Instr.wake, Instr.getId, Instr.i3cReservedCommand, Instr.i3cPrivateRead] : List Instr), ∀ (s : State), s.i3c.da = none → exec c s = .next s) ∧
  (∀ (r : AddrReg) (part : RegPart) (v : Word) (s : State), Ready s → portsOff s = false → exec (.pairAddressWrite r part v) s = .next s.errWr) ∧
  (∀ (part : RegPart) (v : Word) (s : State), Ready s → portsOff s = true →
    let w := ovr part (s.reg (rFabric 0)) v
    exec (.pairAddressWrite (.fabric 0) part v) s = .next (
      if fld w 0 8 = 0xFF ∨ (w = 0 ∧ s.reg (rFabric 1) &&& 0xFCFFFFFFFFFFFFFF = 0) then s.errWr else s.setReg (rFabric 0) w)) ∧
  (∀ (part : RegPart) (v : Word) (s : State), Ready s → portsOff s = true →
    let w := ovr part (s.reg (rFabric 1)) v &&& 0xFCFFFFFFFFFFFFFF
    exec (.pairAddressWrite (.fabric 1) part v) s = .next (
      if fld (s.reg (rFabric 0)) 0 8 = 0xFF ∨ (s.reg (rFabric 0) = 0 ∧ w = 0) then s.errWr else s.setReg (rFabric 1) w)) ∧
  (∀ (part : RegPart) (v : Word) (s : State), Ready s → portsOff s = true →
    let w := ovr part (s.reg rPairMac) v
    exec (.pairAddressWrite .mac part v) s = .next (
      if fld w 0 1 = 1 ∨ fld w 40 4 ≠ 0 then s.errWr else s.setReg rPairMac (BitVec.ofNat 64 (fld w 0 48)))) ∧
  (∀ (p : Fin 16) (h : Fin 2) (part : RegPart) (v : Word) (s : State), Ready s → portsOff s = true →
    let u := s.setReg (rNhop p.val h.val) (ovr part (s.reg (rNhop p.val h.val)) v)
    exec (.pairAddressWrite (.nhop p h) part v) s = .next (u.setPort p.val { u.port p.val with nhop := none }))

/-- Power: an emergency makes the clock aim for n = 4, is counted and logged once, and ends, with no sensor within 5 °C of the limit, with its length
logged and a limit written meanwhile taking force (R557, R558); sensors keep their last and highest readings, log a crossing of the warning, begin
an emergency at the hot limit, and trip at 115 °C (R557, R559); a rail that falls trips, erases the keys and asks for a power cycle (R552, R526); a
root PLL that unlocks takes every link down and asks for one (R561); samples and AVS readings set the measured registers and lower or raise the
clock that the controller aims for (R551, R555, R556); an idle HBM half enters self-refresh when its governing latency allows, and leaves it (R566);
PWR_LIMIT takes what its range allows (R572). -/
def Obligations.PowerEvents : Prop :=
  (∀ (s : State), Ready s → s.pwr.epwr = false → s.pwr.ethm = false →
    (exec .emergPwrAssert s = .next (({ s with pwr := { s.pwr with epwr := true, since := s.time, goal := 4, want := 4 } }.bump
      rPwrEmergs 1).mgrEvent sevWarn evPwrEmergency 1 (BitVec.ofNat 64 s.time))) ∧
    (exec .emergThmAssert s = .next (({ s with pwr := { s.pwr with ethm := true, since := s.time, hotAt := s.time, goal := 4, want := 4 } }.bump
      rPwrEmergs 1).mgrEvent sevWarn evPwrEmergency 2 (BitVec.ofNat 64 s.time)))) ∧
  (∀ (s : State), Ready s → s.pwr.epwr = false → s.pwr.ethm = true →
    exec .emergPwrAssert s = .next { s with pwr := { s.pwr with epwr := true, goal := 4, want := 4 } } ∧ exec .emergThmAssert s = .next s) ∧
  (∀ (s : State), Ready s → s.pwr.epwr = true → s.pwr.ethm = false →
    exec .emergPwrAssert s = .next s ∧
    exec .emergThmAssert s = .next { s with pwr := { s.pwr with ethm := true, hotAt := s.time, goal := 4, want := 4 } }) ∧
  (∀ (s : State), s.phase ≠ 2 → exec .emergPwrAssert s = .next s ∧ exec .emergThmAssert s = .next s) ∧
  (∀ (pwr thm : Bool) (s : State), (s.pwr.epwr = false ∧ s.pwr.ethm = false) ∨
    s.pwr.temps.any (fun x : Nat × Int => decide (x.2 > (fld (s.reg rThmLimits) 8 8 : Int) - 5)) = true → exec (.emergencyClear pwr thm) s = .next s) ∧
  (∀ (pwr thm : Bool) (s : State), s.pwr.epwr = true → s.pwr.ethm = false →
    s.pwr.temps.any (fun x : Nat × Int => decide (x.2 > (fld (s.reg rThmLimits) 8 8 : Int) - 5)) = false →
    (pwr = false → exec (.emergencyClear pwr thm) s = .next s) ∧
    (pwr = true → exec (.emergencyClear pwr thm) s = .next ((match s.pwr.limit with
      | some w => ({ s with pwr := { s.pwr with epwr := false, cleared := s.time, limit := none } }).setReg rPwrLimit (BitVec.ofNat 64 w)
      | none => { s with pwr := { s.pwr with epwr := false, cleared := s.time } }).mgrEvent sevInfo evPwrEmergencyClear 0
        (BitVec.ofNat 64 ((s.time - s.pwr.since) / 1000))))) ∧
  (∀ (i : Fin 54) (t : Int) (s : State), s.phase ≠ 2 → Gives (.thermalSensorCrossing i t) s fun u =>
    tblGet 0 u.pwr.temps i.val = t ∧ tblGet 0 u.pwr.highs i.val = max (tblGet 0 s.pwr.highs i.val) t ∧ u.pcie = s.pcie) ∧
  (∀ (i : Fin 54) (t : Int) (s : State), Ready s → fld (s.reg rThmLimits) 0 8 ≤ fld (s.reg rThmLimits) 8 8 → t < (fld (s.reg rThmLimits) 0 8 : Int) → t < 115 →
    exec (.thermalSensorCrossing i t) s = .next { s with pwr := { s.pwr with
      temps := tblSet 0 s.pwr.temps i.val t
      highs := tblSet 0 s.pwr.highs i.val (max (tblGet 0 s.pwr.highs i.val) t) } }) ∧
  (∀ (i : Fin 54) (t : Int) (s : State), Ready s → tblGet 0 s.pwr.temps i.val < (fld (s.reg rThmLimits) 0 8 : Int) → (fld (s.reg rThmLimits) 0 8 : Int) ≤ t →
    t < (fld (s.reg rThmLimits) 8 8 : Int) → t < 115 → exec (.thermalSensorCrossing i t) s = .next (({ s with pwr := { s.pwr with
      temps := tblSet 0 s.pwr.temps i.val t
      highs := tblSet 0 s.pwr.highs i.val (max (tblGet 0 s.pwr.highs i.val) t) } }).mgrEvent sevWarn evThmWarn (BitVec.ofNat 64 i.val) (BitVec.ofInt 64 t))) ∧
  (∀ (i : Fin 54) (t : Int) (s : State), Ready s → s.pwr.ethm = false → (fld (s.reg rThmLimits) 8 8 : Int) ≤ t → t < 115 →
    Gives (.thermalSensorCrossing i t) s fun u => u.pwr.ethm = true ∧ u.pwr.goal = 4 ∧ u.pwr.n = s.pwr.n ∧ u.pcie = s.pcie) ∧
  (∀ (i : Fin 54) (t : Int) (s : State), Ready s → tblGet 0 s.pwr.temps i.val < 115 → 115 ≤ t → i.val < 46 → fld (s.reg rRcvPcreq) 0 1 = 0 →
    Gives (.thermalSensorCrossing i t) s fun u => u.pcie.trip = true ∧ fld (u.reg rRcvPcreq) 0 1 = 1) ∧
  (∀ (r : Fin 5) (s : State), s.phase = 0 ∨ s.d3cold = true ∨ s.pwr.pg.getLsbD r.val = false → exec (.railPgFall r) s = .next s) ∧
  (∀ (r : Fin 5) (s : State), s.phase ≠ 0 → s.d3cold = false → s.pwr.pg.getLsbD r.val = true → fld (s.reg rRcvPcreq) 0 1 = 0 →
    Gives (.railPgFall r) s fun u => u.pwr.pg = s.pwr.pg &&& ~~~(1#5 <<< r.val) ∧ u.pcie.trip = true ∧ fld (u.reg rRcvPcreq) 0 1 = 1 ∧
      u.alarmLive.getLsbD 0 = true ∧ (∀ n ∈ List.range 4096, (u.key n).state ≠ .loaded)) ∧
  (∀ (s : State), s.pwr.lock = false → exec .rootPllUnlock s = .next s) ∧
  (∀ (s : State), s.pwr.lock = true → fld (s.reg rRcvPcreq) 0 1 = 0 → Gives .rootPllUnlock s fun u =>
    u.pwr.lock = false ∧ u.pwr.fallback = true ∧ (∀ l ∈ List.range 17, fld (u.reg (rLink l)) 0 2 = 0) ∧ fld (u.reg rRcvPcreq) 0 1 = 1 ∧
    fld (u.reg rRcvPcreq) 8 8 = 4) ∧
  (∀ (a b c : Nat) (s : State), s.phase ≠ 2 ∨ s.time < s.pwr.sampled + 10000 → exec (.pwrSample a b c) s = .next s) ∧
  (∀ (a b c : Nat) (s : State), Ready s → s.pwr.sampled + 10000 ≤ s.time →
    Gives (.pwrSample a b c) s fun u => u.reg rPwrMeas = BitVec.ofNat 64 (b % 65536 + s.pwr.amps % 65536 * 2 ^ 16 + c % 65536 * 2 ^ 32) ∧
      u.pwr.sampled = s.time ∧ u.pwr.ovr = (if fld (s.reg rPwrLimit) 0 11 < a then some (s.pwr.ovr.getD s.time) else none) ∧
      (s.pwr.epwr = true ∨ s.pwr.ethm = true → u.pwr.n = s.pwr.n ∧ u.pwr.want = s.pwr.want) ∧
      (s.pwr.epwr = false → s.pwr.ethm = false → c > fld (s.reg rPwrLimit) 0 11 → 4 < s.pwr.n →
        u.pwr.n = s.pwr.n ∧ 4 ≤ u.pwr.goal ∧ u.pwr.goal < s.pwr.n ∧ u.pwr.want = u.pwr.goal)) ∧
  (∀ (a b c : Nat) (s : State), Ready s → s.pwr.sampled + 10000 ≤ s.time → s.pwr.epwr = false → s.pwr.ethm = false → s.pwr.n ≤ 16 →
    a ≤ fld (s.reg rPwrLimit) 0 11 → a ≤ (if Config.lowPower then 860 else 1150) → c ≤ fld (s.reg rPwrLimit) 0 11 → s.pwr.amps ≤ vrMax s →
    Gives (.pwrSample a b c) s fun u => u.pwr.n = s.pwr.n ∧ u.pwr.goal = s.pwr.goal ∧ s.pwr.n ≤ u.pwr.want ∧ u.pwr.want ≤ 16 ∧ u.pwr.vcore = vTarget u.pwr.want) ∧
  (∀ (mv amps : Nat) (temp : Int) (s : State), s.phase ≠ 2 →
    exec (.avsPoll mv amps temp) s = .next { s with pwr := { s.pwr with volts := mv, amps := amps, temp := temp } }) ∧
  (∀ (mv amps : Nat) (temp : Int) (s : State), Ready s → s.pwr.epwr = true ∨ s.pwr.ethm = true →
    exec (.avsPoll mv amps temp) s = .next { s with pwr := { s.pwr with
      volts := mv, amps := amps, temp := temp
      vcore := if s.pwr.n = s.pwr.want then vTarget s.pwr.n else s.pwr.vcore } }) ∧
  (∀ (mv amps : Nat) (temp : Int) (s : State), Ready s → s.pwr.epwr = false → s.pwr.ethm = false → amps ≤ vrMax s →
    exec (.avsPoll mv amps temp) s = .next { s with pwr := { s.pwr with
      volts := mv, amps := amps, temp := temp
      goal := if s.pwr.vcore ≤ mv then s.pwr.want else s.pwr.goal
      vcore := if s.pwr.n = s.pwr.want then vTarget s.pwr.n else s.pwr.vcore } }) ∧
  (∀ (mv amps : Nat) (temp : Int) (s : State), Ready s → s.pwr.epwr = false → s.pwr.ethm = false → vrMax s < amps → 4 < s.pwr.n →
    Gives (.avsPoll mv amps temp) s fun u => 4 ≤ u.pwr.goal ∧ u.pwr.goal < s.pwr.n ∧ u.pwr.want = u.pwr.goal ∧ u.pwr.n = s.pwr.n) ∧
  (∀ (h : Fin 2) (s : State), Ready s → exec (.hbmSelfRefreshEntry h false) s = .next (s.setRegField rPwrIdle (8 + 4 * h.val) 4 0) ∧
    exec (.hbmSelfRefreshEntry h true) s = .next (
      if 5000 ≤ govern s (holdsHalf s h.val) then s.setRegField rPwrIdle (8 + 4 * h.val) 4 15 else s)) ∧
  (∀ (part : RegPart) (v : Word) (s : State), Ready s → exec (.pwrLimitWrite part v) s = .next (
    let w := fld (ovr part (s.reg rPwrLimit) v) 0 11
    if part = .high then s
    else if w < 600 ∨ (if Config.lowPower then 750 else 1000) < w then s.errWr
    else if s.pwr.epwr = true ∨ s.pwr.ethm = true then { s with pwr := { s.pwr with limit := some w } } else s.setReg rPwrLimit (BitVec.ofNat 64 w)))

/-- Device time: TIME_STEP adds its signed value in mode 2 and is refused otherwise, and by a joined secondary; TIME_NOW reads whole, or the low half
first with the high half latched per function (R562, R572); the pulse output marks each second (R565); IEEE 1588 messages are taken in mode 1, on an
enabled port and in the domain: two announces make a master, Sync, Follow_Up, Delay_Resp and the peer-delay messages give offset and delay (R563),
and the servo slews an offset within 1 µs (R564) and, on a joined secondary, only reports it (R540); a silent master is dropped, and delay requests
leave with the next sequence number. -/
def Obligations.DeviceTime : Prop :=
  (∀ (part : RegPart) (v : Word) (s : State), Ready s → fld (s.reg rTimeCfg) 0 2 ≠ 2 ∨ (s.secondary = true ∧ s.pair.joined = true) →
    exec (.timeStepWrite part v) s = .next s.errWr) ∧
  (∀ (part : RegPart) (v : Word) (s : State), Ready s → fld (s.reg rTimeCfg) 0 2 = 2 → s.secondary = false ∨ s.pair.joined = false →
    exec (.timeStepWrite part v) s = .next (stepTime s (ovr part 0 v).toInt)) ∧
  (∀ (d : Int) (s : State), s.pecks = [] → (stepTime s d).time = ((Int.ofNat s.time + d) % (2 ^ 64 : Int)).toNat ∧
    (stepTime s d).reg rTimeSteps = (s.bump rTimeSteps 1).reg rTimeSteps ∧ (stepTime s d).mem = s.mem) ∧
  (∀ (f : Fin 512) (s : State), Ready s →
    exec (.timeNowRead f .full) s = .next { s with out := .completion (bytesOf 8 s.time) false :: s.out } ∧
    exec (.timeNowRead f .low) s = .next { s with
      clk := { s.clk with latch := (s.clk.latch.filter fun x => x.1 ≠ f.val) ++ [(f.val, s.time / 2 ^ 32)] }
      out := .completion (bytesOf 4 s.time) false :: s.out }) ∧
  (∀ (f : Fin 512) (h : Nat) (s : State), Ready s → s.clk.latch.find? (fun x => x.1 == f.val) = some (f.val, h) →
    exec (.timeNowRead f .high) s = .next { s with
      clk := { s.clk with latch := s.clk.latch.filter fun x => x.1 ≠ f.val }
      out := .completion (bytesOf 4 h) false :: s.out }) ∧
  (∀ (f : Fin 512) (s : State), s.phase ≠ 2 → exec (.timeNowRead f .full) s = .next { s with out := .completion (List.replicate 8 0) false :: s.out }) ∧
  (∀ (s : State), exec .ppsEdge s = .next (
    if s.time / 1000000000 ≤ s.clk.pps then s
    else if s.phase = 2 ∧ fld (s.reg rTimeCfg) 27 1 = 1 then { s with
      clk := { s.clk with pps := s.time / 1000000000 }
      out := .signal "PPS_OUT" [1, s.time / 1000000000 * 1000000000, 0, s.time / 1000000000 * 1000000000 + 1000] :: s.out }
    else { s with clk := { s.clk with pps := s.time / 1000000000 } })) ∧
  (∀ (port : Fin 16) (domain ident : Nat) (m : PtpMsg) (s : State), s.phase ≠ 2 ∨ fld (s.reg rTimeCfg) 0 2 ≠ 1 ∨ fld (s.reg rTimeCfg) (10 + port.val) 1 = 0 ∨
    domain ≠ fld (s.reg rTimeCfg) 2 8 → exec (.ptpMessage port domain ident m) s = .next s) ∧
  (∀ (port : Fin 16) (ident : Nat) (prio : List Nat) (s : State), Ready s → fld (s.reg rTimeCfg) 0 2 = 1 → fld (s.reg rTimeCfg) (10 + port.val) 1 = 1 →
    s.clk.masters = [] → s.clk.chosen = none →
    exec (.ptpMessage port (fld (s.reg rTimeCfg) 2 8) ident (.announce prio)) s = .next { s with clk := { s.clk with masters := [⟨port.val, ident, prio, 1⟩] } }) ∧
  (∀ (port : Fin 16) (ident : Nat) (prio : List Nat) (s : State), Ready s → fld (s.reg rTimeCfg) 0 2 = 1 → fld (s.reg rTimeCfg) (10 + port.val) 1 = 1 →
    s.clk.masters = [⟨port.val, ident, prio, 1⟩] → s.clk.chosen = none →
    Gives (.ptpMessage port (fld (s.reg rTimeCfg) 2 8) ident (.announce prio)) s fun t => t.clk.chosen = some (port.val, ident) ∧
      fld (t.reg rTimeStat) 0 2 = 2 ∧ fld (t.reg rTimeStat) 8 4 = port.val ∧ t.clk.ms = none ∧ t.clk.delay = none) ∧
  (∀ (port : Fin 16) (ident seq : Nat) (o corr : Int) (s : State), Ready s → fld (s.reg rTimeCfg) 0 2 = 1 → fld (s.reg rTimeCfg) (10 + port.val) 1 = 1 →
    (s.clk.chosen ≠ some (port.val, ident) →
      exec (.ptpMessage port (fld (s.reg rTimeCfg) 2 8) ident (.sync seq (some o) corr)) s = .next s) ∧
    (s.clk.chosen = some (port.val, ident) →
      exec (.ptpMessage port (fld (s.reg rTimeCfg) 2 8) ident (.sync seq none corr)) s = .next { s with clk := { s.clk with sync := some (seq, s.time) } } ∧
      exec (.ptpMessage port (fld (s.reg rTimeCfg) 2 8) ident (.sync seq (some o) corr)) s = .next (
        servo { s with clk := { s.clk with sync := none, ms := some ((s.time : Int) - o - corr) } }))) ∧
  (∀ (port : Fin 16) (ident seq a : Nat) (o corr : Int) (s : State), Ready s → fld (s.reg rTimeCfg) 0 2 = 1 → fld (s.reg rTimeCfg) (10 + port.val) 1 = 1 →
    s.clk.chosen = some (port.val, ident) → s.clk.sync = some (seq, a) →
    exec (.ptpMessage port (fld (s.reg rTimeCfg) 2 8) ident (.followUp seq o corr)) s = .next (
      servo { s with clk := { s.clk with sync := none, ms := some ((a : Int) - o - corr) } })) ∧
  (∀ (port : Fin 16) (ident seq dep : Nat) (ms r corr : Int) (s : State), Ready s → fld (s.reg rTimeCfg) 0 2 = 1 → fld (s.reg rTimeCfg) (10 + port.val) 1 = 1 →
    s.clk.chosen = some (port.val, ident) → fld (s.reg rTimeCfg) 26 1 = 0 → s.clk.req = some (seq, dep) → s.clk.ms = some ms →
    exec (.ptpMessage port (fld (s.reg rTimeCfg) 2 8) ident (.delayResp seq r corr)) s = .next (
      servo { s with clk := { s.clk with req := none, resp := none, delay := some ((ms + (r - dep - corr)) / 2) } })) ∧
  (∀ (port : Fin 16) (ident seq dep : Nat) (r corr : Int) (s : State), Ready s → fld (s.reg rTimeCfg) 0 2 = 1 → fld (s.reg rTimeCfg) (10 + port.val) 1 = 1 →
    fld (s.reg rTimeCfg) 26 1 = 1 → s.clk.req = some (seq, dep) →
    exec (.ptpMessage port (fld (s.reg rTimeCfg) 2 8) ident (.pdelayResp seq true r corr)) s = .next { s with
      clk := { s.clk with resp := some (s.time, r + corr) } } ∧
    exec (.ptpMessage port (fld (s.reg rTimeCfg) 2 8) ident (.pdelayResp seq false r corr)) s = .next (
      servo { s with clk := { s.clk with req := none, resp := none, delay := some (((s.time : Int) - dep - corr) / 2) } })) ∧
  (∀ (port : Fin 16) (ident seq dep a : Nat) (r o corr : Int) (s : State), Ready s → fld (s.reg rTimeCfg) 0 2 = 1 →
    fld (s.reg rTimeCfg) (10 + port.val) 1 = 1 → fld (s.reg rTimeCfg) 26 1 = 1 → s.clk.req = some (seq, dep) → s.clk.resp = some (a, r) →
    exec (.ptpMessage port (fld (s.reg rTimeCfg) 2 8) ident (.pdelayFollowUp seq o corr)) s = .next (
      servo { s with clk := { s.clk with req := none, resp := none, delay := some (((a : Int) - dep - (o + corr - r)) / 2) } })) ∧
  (∀ (m d : Int) (s : State), s.clk.ms = some m → s.clk.delay = some d → s.secondary = true → s.pair.joined = true →
    servo s = s.setRegField rTimeStat 32 32 (BitVec.ofInt 32 (m - d)).toNat) ∧
  (∀ (m d : Int) (s : State), s.clk.ms = some m → s.clk.delay = some d → s.secondary = false → (m - d).natAbs ≤ 1000 →
    fld ((servo s).reg rTimeStat) 0 2 = 3 ∧ (servo s).clk.slew = -((m - d) * 1000 * 1000000) ∧ (servo s).time = s.time ∧ (servo s).free = s.free + 1) ∧
  (∀ (s : State), s.clk.ms = none ∨ s.clk.delay = none → servo s = s) ∧
  (∀ (s : State), s.clk.chosen = none → exec .announceReceiptTimeout s = .next s ∧ exec .ptpDelayRequest s = .next s) ∧
  (∀ (p i n : Nat) (prio : List Nat) (s : State), s.clk.chosen = some (p, i) → s.clk.masters = [⟨p, i, prio, n⟩] →
    Gives .announceReceiptTimeout s fun t => t.clk.chosen = none ∧ t.clk.masters = [] ∧ fld (t.reg rTimeStat) 0 2 = 1) ∧
  (∀ (p i : Nat) (s : State), Ready s → s.clk.chosen = some (p, i) → fld (s.reg rTimeCfg) 0 2 = 1 →
    exec .ptpDelayRequest s = .next (({ s with clk := { s.clk with seq := (s.clk.seq + 1) % 65536, req := none, resp := none } }).setPort p { s.port p with
      fw := (s.port p).fw ++ [("PTP_DELAY_REQ", [(s.clk.seq + 1) % 65536, fld (s.reg rTimeCfg) 26 1], if fld (s.reg rTimeCfg) 26 1 = 1 then 122 else 112)] }))

/-- Integrity: a scrub with a legal range starts, and its end writes what it found, at most 16 addresses (R442 to R444); a targeted self-test of a
faulty word that passes is transient, one that fails or has passed before is repaired from a spare, a Pool line without a spare withdraws its engine
at its next reset, and a row is tested at the engine's next reset (R438 to R440); an address that does not exist is the one fault of the model (log
entry 68). A die-to-die link that goes down asks for a power cycle (R20); lane errors below LANETHR only count, with the words of lost flits POISON
(R17, R40), and at LANETHR spare a lane or, the spares gone, take the module out (R18, R19). A poisoned register write is counted (R436), a
misaligned one too (R4), a write outside READY does nothing, and a plain register takes the fields that are in range and counts the others; an
access of another width or alignment is counted, and a read of that kind answers zeros (R4). -/
def Obligations.IntegrityAndRegisters : Prop :=
  (∀ (part : RegPart) (v : Word) (s : State), Ready s → fld (ovr part 0 v) 0 1 = 0 → exec (.intgScrubStart part v) s = .next s) ∧
  (∀ (part : RegPart) (v : Word) (s : State), Ready s → fld (ovr part 0 v) 0 1 = 1 → s.intg.scrub.isSome = true ∨ fld (s.reg rScrubBase) 0 40 % 64 ≠ 0 ∨
    fld (s.reg rScrubLen) 0 41 % 64 ≠ 0 ∨ fld (s.reg rScrubLen) 0 41 = 0 ∨ 2 ^ 40 < fld (s.reg rScrubLen) 0 41 ∨
    rangeExists (fld (s.reg rScrubBase) 0 40) (fld (s.reg rScrubLen) 0 41) = false → exec (.intgScrubStart part v) s = .next s.errWr) ∧
  (∀ (a n : Nat) (part : RegPart) (v : Word) (s : State), Ready s → fld (ovr part 0 v) 0 1 = 1 → s.intg.scrub = none → a = fld (s.reg rScrubBase) 0 40 →
    n = fld (s.reg rScrubLen) 0 41 → a % 64 = 0 → n % 64 = 0 → 0 < n → n ≤ 2 ^ 40 → rangeExists a n = true →
    Gives (.intgScrubStart part v) s fun t => t.intg.scrub = some ((scrubFinds s a n).1, (scrubFinds s a n).2.length, (scrubFinds s a n).2.take 16) ∧
      t.reg rScrubCtl = 2 ∧ t.reg rScrubStat = 0 ∧ t.mem = (s.settle a n).mem ∧ t.latent = (s.settle a n).latent) ∧
  (∀ (a n : Nat) (s : State), s.latent = [] → (scrubFinds s a n).1 = 0) ∧
  (∀ (s : State), s.intg.scrub = none → exec .scrubPassEnd s = .next s) ∧
  (∀ (corr n a : Nat) (s : State), s.intg.scrub = some (corr, n, [a]) →
    Gives .scrubPassEnd s fun t => t.intg.scrub = none ∧ t.reg rScrubCtl = 0 ∧ t.reg (rScrubAddr 0) = BitVec.ofNat 64 a ∧
      t.reg rScrubStat = BitVec.ofNat 64 (min corr (2 ^ 32 - 1) + min n 65535 * 2 ^ 32 + 2 ^ 48)) ∧
  (∀ (a : Nat) (fail : Bool) (s : State), addrExists a = false → exec (.targetedSelfTest (.word a) fail) s = .fault (.addressHole a)) ∧
  (∀ (a : Nat) (fail : Bool) (s : State), addrExists a = true → s.intg.faults = [] → exec (.targetedSelfTest (.word a) fail) s = .next s) ∧
  (∀ (a : Nat) (s : State), addrExists a = true → s.intg.faults = [a / 8 * 8] → s.intg.passes = [] →
    exec (.targetedSelfTest (.word a) false) s = .next (({ s with
      intg := { s.intg with faults := [], passes := [(lineKey (a / 8 * 8), s.time)] } }).mgrEvent sevInfo evFaultTransient
        (BitVec.ofNat 64 (unitOf (a / 8 * 8)).2) (BitVec.ofNat 64 (a / 8 * 8)))) ∧
  (∀ (a : Nat) (s : State), addrExists a = true → s.intg.faults = [a / 8 * 8] →
    exec (.targetedSelfTest (.word a) true) s = .next (repairAt { s with intg := { s.intg with faults := [] } } (a / 8 * 8))) ∧
  (∀ (a : Nat) (s : State), poolBase ≤ a →
    repairAt s a = (if fld (s.reg (unitOf a).1) 48 6 = 0 then
        (s.mgrEvent sevWarn evSparesOut (BitVec.ofNat 64 (unitOf a).2) (BitVec.ofNat 64 a)).updEng ((a - poolBase) / 0x200000) fun x => { x with poolBad := true }
      else (s.setRegField (unitOf a).1 48 6 (fld (s.reg (unitOf a).1) 48 6 - 1)).mgrEvent sevInfo evRepaired (BitVec.ofNat 64 (unitOf a).2)
        (BitVec.ofNat 64 (fld (s.reg (unitOf a).1) 48 6 - 1)))) ∧
  (∀ (e : Fin 128) (fail : Bool) (s : State), residents s e.val ≠ 0 →
    exec (.targetedSelfTest (.row e) fail) s = .next ((s.setRegField (rIntgPool e.val) 55 1 1).updEng e.val fun x => { x with
      badRows := x.badRows + (if fail then 1 else 0) })) ∧
  (∀ (l : Fin 17) (s : State), fld (s.reg (rLink l.val)) 0 2 = 0 → exec (.d2dLinkDown l) s = .next s) ∧
  (∀ (l : Fin 17) (s : State), fld (s.reg (rLink l.val)) 0 2 ≠ 0 → fld (s.reg rRcvPcreq) 0 1 = 0 →
    Gives (.d2dLinkDown l) s fun t => fld (t.reg (rLink l.val)) 0 2 = 0 ∧ fld (t.reg (rLink l.val)) 8 5 = 0 ∧ fld (t.reg rRcvPcreq) 0 1 = 1 ∧
      fld (t.reg rRcvPcreq) 8 8 = 4) ∧
  (∀ (l : Fin 17) (m : Fin 16) (d : Bool) (e r : Nat) (w : List (List Nat)) (s : State), linkModules l.val ≤ m.val ∨
    s.intg.out_.contains (l.val * 16 + m.val) = true ∨ fld (s.reg (rLink l.val)) 0 2 < 2 → exec (.laneSparing l m d ⟨e, r⟩ w) s = .next s) ∧
  (∀ (l : Fin 17) (m : Fin 16) (d : Bool) (e r a : Nat) (s : State), m.val < linkModules l.val → s.intg.out_.contains (l.val * 16 + m.val) = false →
    2 ≤ fld (s.reg (rLink l.val)) 0 2 → e < fld (s.reg rIntgCfg) 0 16 → a % 8 = 0 → rangeExists a 8 = true →
    Gives (.laneSparing l m d ⟨e, r⟩ [[a]]) s fun t => (t.mem.word a).tag = Tag.poison ∧ t.intg.lanes = s.intg.lanes ∧ t.intg.out_ = s.intg.out_ ∧
      t.reg (rLinkRetry l.val) = (s.bump (rLinkRetry l.val) r).reg (rLinkRetry l.val) ∧
      t.reg (rLinkUnc l.val) = (s.bump (rLinkUnc l.val) 1).reg (rLinkUnc l.val)) ∧
  (∀ (l : Fin 17) (m : Fin 16) (d : Bool) (e r : Nat) (s : State), m.val < linkModules l.val → s.intg.out_.contains (l.val * 16 + m.val) = false →
    2 ≤ fld (s.reg (rLink l.val)) 0 2 → fld (s.reg rIntgCfg) 0 16 ≤ e →
    let k := (l.val * 16 + m.val) * 2 + (if d then 1 else 0)
    Gives (.laneSparing l m d ⟨e, r⟩ []) s fun t =>
      (tblGet 0 s.intg.lanes k < 4 → tblGet 0 t.intg.lanes k = tblGet 0 s.intg.lanes k + 1 ∧ t.intg.out_ = s.intg.out_ ∧
        fld (t.reg (rLink l.val)) 0 2 = fld (s.reg (rLink l.val)) 0 2 ∧ t.reg (rLinkSpared l.val) = (s.bump (rLinkSpared l.val) 1).reg (rLinkSpared l.val)) ∧
      (4 ≤ tblGet 0 s.intg.lanes k → t.intg.out_ = s.intg.out_ ++ [l.val * 16 + m.val] ∧
        (1 < fld (s.reg (rLink l.val)) 8 5 → fld (t.reg (rLink l.val)) 0 2 = 3 ∧
          fld (t.reg (rLink l.val)) 8 5 = fld (s.reg (rLink l.val)) 8 5 - 1))) ∧
  (∀ (f : Fin 512) (off : Nat) (part : RegPart) (v : Word) (s : State),
    exec (.registerWrite f off part v true) s = .next (logPoisoned s.errWr f.val)) ∧
  (∀ (f : Fin 512) (off : Nat) (part : RegPart) (v : Word) (s : State), off % 8 ≠ 0 →
    exec (.registerWrite f off part v false) s = .next (s.bump rErrAcc 1)) ∧
  (∀ (f : Fin 512) (off : Nat) (part : RegPart) (v : Word) (s : State), off % 8 = 0 → 256 ≤ f.val →
    exec (.registerWrite f off part v false) s = .next (nvDoorbell s f.val off part v)) ∧
  (∀ (f : Fin 512) (off : Nat) (part : RegPart) (v : Word) (s : State), off % 8 = 0 → f.val < 256 →
    f.val ≠ 0 ∨ (s.phase ≠ 2 ∧ 0x20000 ≤ off ∧ (off < 0xB00000 ∨ 0xC00000 ≤ off)) → exec (.registerWrite f off part v false) s = .next s) ∧
  (∀ (off : Nat) (part : RegPart) (v : Word) (fs : List RegField) (s : State), Ready s → off % 8 = 0 → plainFields off = some fs →
    exec (.registerWrite 0 off part v false) s = .next (s.writeFields off part v fs)) ∧
  (∀ (off lo w least most : Nat) (part : RegPart) (v : Word) (s : State),
    s.writeFields off part v [⟨lo, w, least, most⟩] = (
      if least ≤ fld (ovr part (s.reg off) v) lo w ∧ fld (ovr part (s.reg off) v) lo w ≤ most then
        s.setRegField off lo w (fld (ovr part (s.reg off) v) lo w) else s.errWr.setReg off (s.reg off))) ∧
  (∀ (part : RegPart) (v : Word) (s : State), Ready s →
    exec (.registerWrite 0 rTimeAdj part v false) s = .next (
      let x := (ovr part (s.reg rTimeAdj) v).setWidth 32
      if fld (s.reg rTimeCfg) 0 2 ≠ 2 ∨ (s.secondary = true ∧ s.pair.joined = true) ∨ x.toInt < -200000 ∨ 200000 < x.toInt then s.errWr
      else s.setReg rTimeAdj (x.setWidth 64))) ∧
  (∀ (n : Fin 1024) (part : RegPart) (v : Word) (s : State), Ready s → exec (.registerWrite 0 (rVol2 n.val) part v false) s = .next (
    if fld (s.reg (rVol n.val)) 0 1 = 1 then s.errWr else s.setReg (rVol2 n.val) (ovr part (s.reg (rVol2 n.val)) v))) ∧
  (∀ (f : Fin 512) (off len : Nat) (s : State), ¬(len = 8 ∧ off % 8 = 0) → ¬(len = 4 ∧ off % 4 = 0) →
    exec (.registerAccessInvalid f off len true) s = .next (s.bump rErrAcc 1) ∧
    exec (.registerAccessInvalid f off len false) s = .next { s.bump rErrAcc 1 with
      out := .completion (List.replicate len 0) false :: s.out })

namespace Sys2Proof.Spec

/-- The controller of Peck p takes a command of submission queue q; `u` is the state in which it has taken it (R418, R421). -/
abbrev Taken (s u : State) (p q : Nat) (sq : NvSq) : Prop :=
  nvReady s p = true ∧ (s.nvme p).sq q = some sq ∧
    u = s.setNvme p ((s.nvme p).setSq q { sq with head := (sq.head + 1) % max 1 sq.size })

end Sys2Proof.Spec

/-- Drives and volumes: a drive is released only when absent or failed and no volume lies on it (R408); STOR_VOL enables a volume whose drives carry it
and disables one that nothing names, and takes no other write while enabled (R411, R429); a request waits for overlapping ones before it (R413), and
then sends its drive commands to the blocks of R411, or fails with ST_STOR_VOLUME; a drive's answer, error or silence ends the command, and a fatal
one fails the drive (R410, R415); hot-plug adds and removes drives (R408); a mirror that does not answer leaves ST_STOR_MIRROR_LOST (R416, R417). -/
def Obligations.StorageEvents : Prop :=
  (∀ (d : Fin 32) (part : RegPart) (v : Word) (s : State), Ready s → fld (ovr part 0 v) 32 1 = 0 → exec (.storDrvRelease d part v) s = .next s) ∧
  (∀ (d : Fin 32) (part : RegPart) (v : Word) (s : State), Ready s → fld (ovr part 0 v) 32 1 = 1 → volsOnDrive s d.val ≠ [] ∨
    (s.drive d.val).state = .ready ∨ (s.drive d.val).state = .unsuitable → exec (.storDrvRelease d part v) s = .next s.errWr) ∧
  (∀ (d : Fin 32) (part : RegPart) (v : Word) (s : State), Ready s → fld (ovr part 0 v) 32 1 = 1 → volsOnDrive s d.val = [] →
    (s.drive d.val).state = .absent ∨ (s.drive d.val).state = .failed →
    exec (.storDrvRelease d part v) s = .next (s.setDrive d.val { s.drive d.val with state := .absent, ident := none, blocks := 0, port := 0 })) ∧
  (∀ (n : Fin 1024) (part : RegPart) (w : Word) (s : State), Ready s → volEn s n.val = true →
    fld (ovr part (s.reg (rVol n.val)) w) 0 1 = 1 ∨ volNamed s n.val = true → exec (.storVolWrite n part w) s = .next s.errWr) ∧
  (∀ (n : Fin 1024) (part : RegPart) (w : Word) (s : State), Ready s → volEn s n.val = true → fld (ovr part (s.reg (rVol n.val)) w) 0 1 = 0 →
    volNamed s n.val = false → nvReady s (volPeck s n.val) = false →
    Gives (.storVolWrite n part w) s fun t => volEn t n.val = false ∧ (t.vol n.val).state = .off ∧ t.regions = s.regions ∧ t.mem = s.mem) ∧
  (∀ (n : Fin 1024) (v w : Word) (s : State), Ready s → volEn s n.val = false → fld v 0 1 = 0 → 4 ≤ fld v 24 4 → fld v 24 4 ≤ 8 →
    w = v &&& 0x00000FFF0F1FFF07 → exec (.storVolWrite n .full v) s = .next (s.setReg (rVol n.val) w)) ∧
  (∀ (n : Fin 1024) (v w : Word) (t s : State), Ready s → volEn s n.val = false → fld v 0 1 = 1 → 4 ≤ fld v 24 4 → fld v 24 4 ≤ 8 →
    w = v &&& 0x00000FFF0F1FFF07 → t = s.setReg (rVol n.val) w →
    exec (.storVolWrite n .full v) s = .next (
      if volCanEnable t n.val then nvChanged (t.setVol n.val { t.vol n.val with state := .online }) (volPeck t n.val) n.val else s.errWr)) ∧
  (∀ (id : Nat) (s : State), Quiet s → s.vreq id = none → exec (.volumeRequestStart id) s = .next s) ∧
  (∀ (id : Nat) (r : VReq) (s : State), Quiet s → s.vreq id = some r → r.waiting = false ∨ vreqBlocked s r = true →
    exec (.volumeRequestStart id) s = .next s) ∧
  (∀ (id : Nat) (r : VReq) (s : State), s.vreq id = some r → r.waiting = true → vreqBlocked s r = false →
    exec (.volumeRequestStart id) s = .next (settleAll (vreqStart s id))) ∧
  (∀ (a b : VReq), vreqsClash a b = true ↔ a.vol = b.vol ∧ a.blk < b.blk + b.n ∧ b.blk < a.blk + a.n ∧ ¬(a.kind = .read ∧ b.kind = .read)) ∧
  (∀ (id : Nat) (r : VReq) (s : State), s.vreqs = [r] → r.id = id → volEn s r.vol = true → (s.vol r.vol).state = .online → r.blk + r.n ≤ volBlocks s r.vol →
    volEnc s r.vol = false → r.kind = .read → r.n = 1 → r.open_ = 0 → r.mirror = none → (s.drive (blockAt s r.vol r.blk).1).state = .ready →
    let c := blockAt s r.vol r.blk
    vreqStart s id = { s with
      nextDcmd := s.nextDcmd + 1
      dcmds := s.dcmds ++ [⟨s.nextDcmd, c.1, id, r.blk, 1, s.time⟩]
      vreqs := [{ r with waiting := false, open_ := 1 }]
      out := .drive c.1 s.nextDcmd 2 c.2 1 [] :: s.out }) ∧
  (∀ (id : Nat) (r : VReq) (s : State), s.vreqs = [r] → r.id = id → r.dead = false → r.open_ = 0 → r.mirror = none → r.st = stOk → r.bad = none →
    volEn s r.vol = false ∨ (s.vol r.vol).state = .off ∨ (s.vol r.vol).state = .failed ∨ volBlocks s r.vol < r.blk + r.n →
    vreqStart s id = State.outcome { s with vreqs := [] } r.user r.off stStorVolume) ∧
  (∀ (v n u w : Nat) (s : State), u = volU s v → w = volW s v →
    blockAt s v n = (extDrive s v (n / u % w), extStart s v (n / u % w) + n / u / w * u + n % u)) ∧
  (∀ (id : Nat) (e : Option (BitVec 16)) (fatal : Bool) (data : List Byte) (s : State), s.dcmds.find? (fun c => c.id == id) = none →
    exec (.driveCommandComplete id e fatal data) s = .next s ∧ exec (.driveCommandTimeout id) s = .next s) ∧
  (∀ (id : Nat) (e : Option (BitVec 16)) (data : List Byte) (c : DriveCmd) (s : State), s.dcmds.find? (fun c => c.id == id) = some c →
    exec (.driveCommandComplete id e true data) s = .next (settleAll (failDrive s c.drive ((e.getD 0).toNat)))) ∧
  (∀ (id : Nat) (e : BitVec 16) (data : List Byte) (c : DriveCmd) (r : VReq) (s : State), s.dcmds.find? (fun c => c.id == id) = some c →
    s.vreq c.req = some r →
    exec (.driveCommandComplete id (some e) false data) s = .next (settleAll (failDcmd (s.bump rStorCmds 1) c stStorMedia))) ∧
  (∀ (id : Nat) (data : List Byte) (c : DriveCmd) (r : VReq) (s : State), s.dcmds.find? (fun c => c.id == id) = some c → s.vreq c.req = some r →
    (r.kind = .read → data.length ≠ c.n * 4096 → exec (.driveCommandComplete id none false data) s = .next s) ∧
    (r.kind ≠ .read ∨ data.length = c.n * 4096 →
      exec (.driveCommandComplete id none false data) s = .next (settleAll (driveDone (s.bump rStorCmds 1) c r data)))) ∧
  (∀ (data : List Byte) (c : DriveCmd) (r : VReq) (s : State), s.vreqs = [r] → s.dcmds = [c] → c.req = r.id → r.kind = .read → r.dead = false →
    r.lost = false → volEnc s r.vol = false → r.open_ = 1 → r.waiting = false → r.mirror = none → r.bad = none →
    (driveDone s c r data).dcmds = [] ∧ (driveDone s c r data).vreqs = [] ∧
    (driveDone s c r data).arrivals = s.arrivals ++ [(r.user, r.off + (c.blk - r.blk) * 4096, data)] ∧
    (driveDone s c r data).outcomes = s.outcomes ++ (if r.user = User.none then [] else [(r.user, r.off, r.st)])) ∧
  (∀ (c : DriveCmd) (r : VReq) (st : Status) (s : State), s.vreqs = [r] → s.dcmds = [c] → c.req = r.id → r.dead = false → r.open_ = 1 → r.waiting = false →
    r.mirror = none → r.bad = none → r.st = stOk →
    failDcmd s c st = ({ s with
      dcmds := []
      vreqs := []
      outcomes := s.outcomes ++ (if r.user = User.none then [] else [(r.user, r.off + (c.blk - r.blk) * 4096, st)]) }.setDrive c.drive { s.drive c.drive with errs := (s.drive c.drive).errs + 1 })) ∧
  (∀ (d n : Nat) (s : State), ((s.drive d).state ≠ .ready → failDrive s d n = s) ∧
    ((s.drive d).state = .ready → s.dcmds = [] → volsOnDrive s d = [] →
      failDrive s d n = (s.setDrive d { s.drive d with state := .failed }).mgrEvent sevWarn evDriveFailed (BitVec.ofNat 64 d) (BitVec.ofNat 64 n))) ∧
  (∀ (id : Nat) (c : DriveCmd) (s : State), s.dcmds.find? (fun c => c.id == id) = some c →
    exec (.driveCommandTimeout id) s = .next (
      if c.sent + (s.reg rCto).toNat * 1000 ≤ s.time then settleAll (failDrive s c.drive 0) else s)) ∧
  (∀ (port ident : Nat) (size : Option Nat) (s : State), Quiet s → s.drives = [] →
    exec (.driveHotplug port ident size false) s = .next s ∧
    exec (.driveHotplug port ident size true) s = .next ((s.setDrive 0 { Drive.reset with
      state := if size.isSome then .ready else .unsuitable
      port := port, blocks := size.getD 0, ident := some ident }).mgrEvent sevInfo evDriveAdded 0 (BitVec.ofNat 64 port))) ∧
  (∀ (port d : Nat) (ident : Nat) (size : Option Nat) (x : Drive) (s : State), s.drives = [(d, x)] → x.port = port → x.state = .ready →
    exec (.driveHotplug port ident size false) s = .next (settleAll (failDrive s d 0))) ∧
  (∀ (id : Nat) (r : VReq) (s : State), s.vreq id = some r → r.mirror = none → exec (.mirrorTimeout id) s = .next s) ∧
  (∀ (id num t : Nat) (r : VReq) (s : State), s.vreq id = some r → r.mirror = some (num, t) →
    exec (.mirrorTimeout id) s = .next (
      if t + fld (s.reg rStorCfg) 0 14 * 1000000 ≤ s.time then settleAll (mirrorEnd s id num stStorMirrorLost) else s)) ∧
  (∀ (num t : Nat) (r : VReq) (s : State), s.vreqs = [r] → r.mirror = some (num, t) → r.open_ = 0 → r.waiting = false → r.dead = false → r.bad = none →
    (s.vol r.vol).state = .degraded → mirrorEnd s r.id num stStorMirrorLost = { s with
      vreqs := []
      outcomes := s.outcomes ++ (if r.user = User.none then [] else [(r.user, r.off, if r.st = stOk then stStorMirrorLost else r.st)]) })

/-- The NVMe controllers: enabling makes the admin queues, unless the Peck is DISABLED (R418), and reset and the fences of PF1 clear the controller
(R421); the queue commands create and delete queues under the standard's checks; Identify answers a namespace's size, log page 4 the changed
namespaces, Abort what is held, and Set and Get Features what R419 lists; asynchronous event requests are held until an event is there; Flush,
Write, Read, Write Zeroes and Dataset Management act on the volume of their namespace and are refused out of range, and device statuses are answered
in the terms of R420; a completion entry takes the next slot of its queue with its phase bit, waits while the queue is full, and the queue's head
doorbell is taken (R2, R418). -/
def Obligations.NvmeCommands : Prop :=
  (∀ (p : Fin 256) (a c : Word) (m n : Nat) (s : State), Ready s → nvExists s p.val = true → (s.nvme p.val).en = false →
    ((s.peck p.val).state = .disabled → exec (.nvmeControllerEnable p a c m n) s = .next (s.setNvme p.val { s.nvme p.val with cfs := true })) ∧
    ((s.peck p.val).state ≠ .disabled → 2 ≤ m → m ≤ 4096 → 2 ≤ n → n ≤ 4096 →
      exec (.nvmeControllerEnable p a c m n) s = .next (s.setNvme p.val (({ Nvme.reset with en := true }.setSq 0 ⟨a, m, 0, 0⟩).setCq 0 ⟨c, n, 0, true, 0, 0, []⟩)))) ∧
  (∀ (p : Fin 256) (a c : Word) (m n : Nat) (s : State), nvExists s p.val = false ∨ (s.nvme p.val).en = true ∨ s.phase ≠ 2 →
    exec (.nvmeControllerEnable p a c m n) s = .next s) ∧
  (∀ (p : Fin 256) (s : State), nvExists s p.val = false → exec (.nvmeControllerReset p) s = .next s ∧
    (∀ flr ∈ [true, false], exec (.pf1Fence p flr) s = .next s)) ∧
  (∀ (p : Fin 256) (s : State), nvExists s p.val = true → Quiet s → s.vreqs = [] →
    exec (.nvmeControllerReset p) s = .next { s with nvmes := tblErase s.nvmes p.val } ∧
    exec (.pf1Fence p true) s = .next ({ s with nvmes := tblErase s.nvmes p.val }.setFn (nvFn s p.val) { Fn.reset with
      enabled := (s.fn (nvFn s p.val)).enabled }) ∧
    exec (.pf1Fence p false) s = .next ({ s with nvmes := tblErase s.nvmes p.val }.setFn (nvFn s p.val) { s.fn (nvFn s p.val) with bme := false })) ∧
  (∀ (p : Fin 256) (cid q vec : BitVec 16) (size : Nat) (base : Word) (contig ien : Bool) (sq : NvSq) (s u : State), Taken s u p.val 0 sq →
    (p.val = 0 ∨ q = 0 ∨ 16 < q.toNat ∨ ((u.nvme p.val).cq q.toNat).isSome = true →
      exec (.nvmeCreateIoCq p cid q size base contig ien vec) s = .next (nvDone u p.val 0 cid.toNat 0 (1, 1))) ∧
    (p.val ≠ 0 → 1 ≤ q.toNat → q.toNat ≤ 16 → (u.nvme p.val).cq q.toNat = none → 2 ≤ size → size ≤ 4096 → contig = true → vec.toNat < 17 →
      exec (.nvmeCreateIoCq p cid q size base contig ien vec) s = .next (
        nvDone (u.setNvme p.val ((u.nvme p.val).setCq q.toNat ⟨base, size, vec.toNat, ien, 0, 0, []⟩)) p.val 0 cid.toNat 0 (0, 0)))) ∧
  (∀ (p : Fin 256) (cid q cq : BitVec 16) (size : Nat) (base : Word) (contig : Bool) (sq : NvSq) (s u : State), Taken s u p.val 0 sq →
    (p.val = 0 ∨ q = 0 ∨ 16 < q.toNat ∨ ((u.nvme p.val).sq q.toNat).isSome = true →
      exec (.nvmeCreateIoSq p cid q size base contig cq) s = .next (nvDone u p.val 0 cid.toNat 0 (1, 1))) ∧
    (p.val ≠ 0 → 1 ≤ q.toNat → q.toNat ≤ 16 → (u.nvme p.val).sq q.toNat = none → 2 ≤ size → size ≤ 4096 →
      (cq = 0 ∨ (u.nvme p.val).cq cq.toNat = none → exec (.nvmeCreateIoSq p cid q size base contig cq) s = .next (nvDone u p.val 0 cid.toNat 0 (1, 0))) ∧
      (cq ≠ 0 → ((u.nvme p.val).cq cq.toNat).isSome = true → contig = true →
        exec (.nvmeCreateIoSq p cid q size base contig cq) s = .next (
          nvDone (u.setNvme p.val ((u.nvme p.val).setSq q.toNat ⟨base, size, cq.toNat, 0⟩)) p.val 0 cid.toNat 0 (0, 0))))) ∧
  (∀ (p : Fin 256) (cid q : BitVec 16) (sq : NvSq) (s u : State), Taken s u p.val 0 sq →
    (q = 0 ∨ (u.nvme p.val).sq q.toNat = none → exec (.nvmeDeleteIoSq p cid q) s = .next (nvDone u p.val 0 cid.toNat 0 (1, 1))) ∧
    (q ≠ 0 → ((u.nvme p.val).sq q.toNat).isSome = true → (u.nvme p.val).cmds = [] → exec (.nvmeDeleteIoSq p cid q) s = .next (
      nvDone (u.setNvme p.val { u.nvme p.val with sqs := tblErase (u.nvme p.val).sqs q.toNat }) p.val 0 cid.toNat 0 (0, 0)))) ∧
  (∀ (p : Fin 256) (cid q : BitVec 16) (sq : NvSq) (s u : State), Taken s u p.val 0 sq →
    (q = 0 ∨ (u.nvme p.val).cq q.toNat = none → exec (.nvmeDeleteIoCq p cid q) s = .next (nvDone u p.val 0 cid.toNat 0 (1, 1))) ∧
    (q ≠ 0 → ((u.nvme p.val).cq q.toNat).isSome = true → (∃ e ∈ (u.nvme p.val).sqs, e.2.cq = q.toNat) →
      exec (.nvmeDeleteIoCq p cid q) s = .next (nvDone u p.val 0 cid.toNat 0 (1, 0x0C))) ∧
    (q ≠ 0 → ((u.nvme p.val).cq q.toNat).isSome = true → (∀ e ∈ (u.nvme p.val).sqs, e.2.cq ≠ q.toNat) →
      exec (.nvmeDeleteIoCq p cid q) s = .next (
        nvDone (u.setNvme p.val { u.nvme p.val with cqs := tblErase (u.nvme p.val).cqs q.toNat }) p.val 0 cid.toNat 0 (0, 0)))) ∧
  (∀ (p : Fin 256) (cid : BitVec 16) (cns : BitVec 8) (nsid : BitVec 32) (prp : List Word) (st : NvSt) (bs : List Byte) (sq : NvSq) (s u : State),
    Taken s u p.val 0 sq → nvIdentify u p.val cns.toNat nsid.toNat = (st, bs) →
    exec (.nvmeIdentify p cid cns nsid prp) s = .next (nvDone (if st = (0, 0) then nvWrite u p.val prp 0 bs else u) p.val 0 cid.toNat 0 st)) ∧
  (∀ (p n : Nat) (s : State), n = 0 ∨ 1024 < n → (nvIdentify s p 0 n).1 = (0, 0x0B)) ∧
  (∀ (p n : Nat) (s : State), 1 ≤ n → n ≤ 1024 → (nvActive s p).contains n = true →
    (nvIdentify s p 0 n).1 = (0, 0) ∧ (nvIdentify s p 0 n).2.length = 4096 ∧ (nvIdentify s p 0 n).2.take 8 = bytesOf 8 (volBlocks s (n - 1))) ∧
  (∀ (p : Fin 256) (cid : BitVec 16) (dw off : Nat) (retain : Bool) (prp : List Word) (sq : NvSq) (s u : State), Taken s u p.val 0 sq →
    let v := nvWrite u p.val prp 0 (((nvList (u.nvme p.val).changed).drop off).take (min (dw * 4) (512 * 4096)))
    exec (.nvmeGetLogPage p cid 4 dw off retain prp) s = .next (
      nvDone (if retain then v else v.setNvme p.val { u.nvme p.val with changed := [] }) p.val 0 cid.toNat 0 (0, 0))) ∧
  (∀ (p : Fin 256) (cid : BitVec 16) (lid : BitVec 8) (dw off : Nat) (retain : Bool) (prp : List Word) (sq : NvSq) (s u : State), Taken s u p.val 0 sq →
    lid ≠ 1 → lid ≠ 2 → lid ≠ 4 → exec (.nvmeGetLogPage p cid lid dw off retain prp) s = .next (nvDone u p.val 0 cid.toNat 0 (0, 2))) ∧
  (∀ (p : Fin 256) (cid q target : BitVec 16) (sq : NvSq) (s u : State), Taken s u p.val 0 sq →
    (q ≠ 0 ∨ (u.nvme p.val).aers.contains target.toNat = false →
      exec (.nvmeAbort p cid q target) s = .next (nvDone u p.val 0 cid.toNat 1 (0, 0))) ∧
    (q = 0 → (u.nvme p.val).aers.contains target.toNat = true → exec (.nvmeAbort p cid q target) s = .next (
      nvDone (nvDone (u.setNvme p.val { u.nvme p.val with aers := (u.nvme p.val).aers.erase target.toNat }) p.val 0 target.toNat 0 (0, 7))
        p.val 0 cid.toNat 0 (0, 0)))) ∧
  (∀ (p : Fin 256) (cid : BitVec 16) (fid : BitVec 8) (v : BitVec 32) (sq : NvSq) (s u : State), Taken s u p.val 0 sq →
    (fid.toNat ∉ [1, 2, 7, 8, 11] ∨ (fid = 2 ∧ v.toNat % 32 ≠ 0) → exec (.nvmeSetFeatures p cid fid v) s = .next (nvDone u p.val 0 cid.toNat 0 (0, 2))) ∧
    (fid = 7 → exec (.nvmeGetFeatures p cid fid) s = .next (nvDone u p.val 0 cid.toNat 0xF000F (0, 0))) ∧
    (fid = 7 → v.toNat % 65536 ≠ 65535 → v.toNat / 65536 ≠ 65535 → exec (.nvmeSetFeatures p cid fid v) s = .next (
      if (u.nvme p.val).sqs.any (fun e => e.1 != 0) = true ∨ (u.nvme p.val).cqs.any (fun e => e.1 != 0) = true then
        nvDone u p.val 0 cid.toNat 0 (0, 0x0C)
      else nvDone u p.val 0 cid.toNat 0xF000F (0, 0))) ∧
    (fid.toNat ∈ [1, 2, 8, 11] → exec (.nvmeGetFeatures p cid fid) s = .next (
      nvDone u p.val 0 cid.toNat (tblGet 0 (u.nvme p.val).feats fid.toNat) (0, 0))) ∧
    (fid.toNat ∈ [1, 8, 11] → exec (.nvmeSetFeatures p cid fid v) s = .next (
      nvDone (u.setNvme p.val { u.nvme p.val with feats := tblSet 0 (u.nvme p.val).feats fid.toNat v.toNat }) p.val 0 cid.toNat 0 (0, 0)))) ∧
  (∀ (p : Fin 256) (cid : BitVec 16) (sq : NvSq) (s u : State), Taken s u p.val 0 sq → (u.nvme p.val).event = false →
    exec (.nvmeAsyncEventRequest p cid) s = .next (u.setNvme p.val { u.nvme p.val with aers := (u.nvme p.val).aers ++ [cid.toNat] })) ∧
  (∀ (p : Fin 256) (cid : BitVec 16) (sq : NvSq) (s u : State), Taken s u p.val 0 sq → (u.nvme p.val).event = true → (u.nvme p.val).aers = [] →
    exec (.nvmeAsyncEventRequest p cid) s = .next (
      nvDone (u.setNvme p.val { u.nvme p.val with event := false }) p.val 0 cid.toNat (2 + 4 * 65536) (0, 0))) ∧
  (∀ (p : Fin 256) (q cid : BitVec 16) (nsid : BitVec 32) (sq : NvSq) (s u : State), q ≠ 0 → Taken s u p.val q.toNat sq →
    (nsid ≠ 0xFFFFFFFF#32 → (nvActive u p.val).contains nsid.toNat = false →
      exec (.nvmeFlush p q cid nsid) s = .next (nvDone u p.val q.toNat cid.toNat 0 (0, 0x0B))) ∧
    (nsid = 0xFFFFFFFF#32 ∨ (nvActive u p.val).contains nsid.toNat = true → (u.nvme p.val).cmds = [] → exec (.nvmeFlush p q cid nsid) s = .next (
      nvDone (u.setNvme p.val { u.nvme p.val with next := (u.nvme p.val).next + 1 }) p.val q.toNat cid.toNat 0 (0, 0)))) ∧
  (∀ (p : Fin 256) (q cid k : BitVec 16) (nsid : BitVec 32) (b : Word) (data : List Byte) (sq : NvSq) (s u : State), q ≠ 0 → Taken s u p.val q.toNat sq →
    data.length = (k.toNat + 1) * 4096 →
    exec (.nvmeWrite p q cid nsid b k data stOk) s = .next (settleAll (
      if 512 < k.toNat + 1 then nvDone u p.val q.toNat cid.toNat 0 (0, 2)
      else nvRun u p.val q.toNat cid.toNat nsid.toNat .write [(b.toNat, k.toNat + 1)] [] data))) ∧
  (∀ (p : Fin 256) (q cid k : BitVec 16) (nsid : BitVec 32) (b : Word) (data : List Byte) (sq : NvSq) (s u : State), q ≠ 0 → Taken s u p.val q.toNat sq →
    k.toNat + 1 ≤ 512 → exec (.nvmeWrite p q cid nsid b k data stFenced) s = .next (settleAll (nvDone u p.val q.toNat cid.toNat 0 (0, 6))) ∧
      exec (.nvmeWrite p q cid nsid b k data stStorMedia) s = .next (settleAll (nvDone u p.val q.toNat cid.toNat 0 (2, 0x80)))) ∧
  (∀ (p : Fin 256) (q cid k : BitVec 16) (nsid : BitVec 32) (b : Word) (prp : List Word) (sq : NvSq) (s u : State), q ≠ 0 → Taken s u p.val q.toNat sq →
    exec (.nvmeRead p q cid nsid b k prp) s = .next (settleAll (
      if 512 < k.toNat + 1 then nvDone u p.val q.toNat cid.toNat 0 (0, 2)
      else nvRun u p.val q.toNat cid.toNat nsid.toNat .read [(b.toNat, k.toNat + 1)] prp [])) ∧
    exec (.nvmeWriteZeroes p q cid nsid b k) s = .next (settleAll (
      nvRun u p.val q.toNat cid.toNat nsid.toNat .zeroes [(b.toNat, k.toNat + 1)] [] []))) ∧
  (∀ (p : Fin 256) (q cid : BitVec 16) (nsid : BitVec 32) (ad : Bool) (rs : List (Nat × Nat)) (sq : NvSq) (s u : State), q ≠ 0 →
    Taken s u p.val q.toNat sq → exec (.nvmeDatasetManagement p q cid nsid ad rs stOk) s = .next (settleAll (
      if 256 < rs.length then nvDone u p.val q.toNat cid.toNat 0 (0, 2)
      else nvRun u p.val q.toNat cid.toNat nsid.toNat .dealloc (if ad then rs else []) [] [])) ∧
    exec (.nvmeDatasetManagement p q cid nsid ad rs stFenced) s = .next (settleAll (nvDone u p.val q.toNat cid.toNat 0 (0, 6)))) ∧
  (∀ (p q cid n : Nat) (kind : VKind) (rs : List (Nat × Nat)) (prp : List Word) (data : List Byte) (s : State),
    (n = 0 ∨ 1024 < n ∨ volEn s (n - 1) = false ∨ volPeck s (n - 1) ≠ p → nvRun s p q cid n kind rs prp data = nvDone s p q cid 0 (0, 0x0B)) ∧
    (1 ≤ n → n ≤ 1024 → volEn s (n - 1) = true → volPeck s (n - 1) = p → (∃ r ∈ rs, volBlocks s (n - 1) < r.1 + r.2) →
      nvRun s p q cid n kind rs prp data = nvDone s p q cid 0 (0, 0x80))) ∧
  (∀ (p q cid n b k : Nat) (kind : VKind) (prp : List Word) (data : List Byte) (s : State), 1 ≤ n → n ≤ 1024 → volEn s (n - 1) = true →
    volPeck s (n - 1) = p → 1 ≤ k → k ≤ 16 → b + k ≤ volBlocks s (n - 1) →
    nvRun s p q cid n kind [(b, k)] prp data = vreqAdd (nvAdd s p q cid (kind != .read) false prp 1) (n - 1) kind b k (data.take (k * 4096)) (.nvme p q cid) 0 false) ∧
  (∀ (p : Fin 256) (q cid : BitVec 16) (field : Bool) (sq : NvSq) (s u : State), Taken s u p.val q.toNat sq →
    exec (.nvmeInvalidOpcode p q cid field) s = .next (nvDone u p.val q.toNat cid.toNat 0 (if field then (0, 2) else (0, 1)))) ∧
  (∀ (p q cid dw0 : Nat) (st : NvSt) (sq : NvSq) (cq : NvCq) (s : State), (s.nvme p).sq q = some sq → (s.nvme p).cq sq.cq = some cq → cq.ien = false →
    cq.held = [] → cq.tail - cq.head + 1 < cq.size →
    let a := cq.base + BitVec.ofNat 64 (cq.tail % cq.size * 16)
    let u := (s.setNvme p ((s.nvme p).setCq sq.cq { cq with tail := cq.tail + 1 })).logRange p a 16
    nvDone s p q cid dw0 st = { u with out := .hostWrite (nvFn u p) (u.rid (nvFn u p)) a (bytesOf 4 dw0 ++ bytesOf 4 0 ++ bytesOf 4 (sq.head + q * 65536) ++
      bytesOf 4 (cid % 65536 + (cq.tail / cq.size + 1) % 2 * 2 ^ 16 + st.2 * 2 ^ 17 + st.1 * 2 ^ 25)) false :: u.out }) ∧
  (∀ (p q cid dw0 : Nat) (st : NvSt) (sq : NvSq) (cq : NvCq) (s : State), (s.nvme p).sq q = some sq → (s.nvme p).cq sq.cq = some cq →
    cq.size ≤ cq.tail - cq.head + 1 → nvDone s p q cid dw0 st =
      s.setNvme p ((s.nvme p).setCq sq.cq { cq with held := cq.held ++ [⟨q, sq.head, cid, dw0, st.1, st.2⟩] })) ∧
  (∀ (f : Fin 512) (p q h : Nat) (cq : NvCq) (s : State), 256 ≤ f.val → nvOfFn s f.val = some p → (s.nvme p).cq q = some cq → cq.held = [] →
    cq.head = 0 → h ≤ cq.tail → h < cq.size → h < 65536 → nvReady s p = true →
    exec (.registerWrite f (0x1000 + 8 * q) .high (BitVec.ofNat 64 (h * 2 ^ 32)) false) s =
      .next (s.setNvme p ((s.nvme p).setCq q { cq with head := h })))
end

