-- ==== Sys2Proof/Laws/Tbl.lean ====
section
/-!
SUPPORT. Laws of the sparse tables: a read after a write, and the canonical form, which every operation keeps.
-/

namespace Sys2Proof.Machine

variable {α : Type}

theorem tblGet_erase (d : α) (t : List (Nat × α)) (k j : Nat) :
    tblGet d (tblErase t k) j = if j = k then d else tblGet d t j := by
  induction t with
  | nil => simp [tblErase, tblGet]
  | cons e t ih =>
    obtain ⟨i, v⟩ := e
    by_cases h : i = k
    · subst h; simp only [tblErase, if_true, ih, tblGet]
      by_cases h2 : j = i <;> simp [h2, eq_comm]
    · simp only [tblErase, h, if_false, tblGet, ih]
      by_cases h2 : i = j
      · subst h2; simp [h]
      · simp [h2]

theorem tblGet_insert (d : α) (t : List (Nat × α)) (k : Nat) (v : α) (j : Nat) (hk : ∀ e ∈ t, e.1 ≠ k) :
    tblGet d (tblInsert t k v) j = if j = k then v else tblGet d t j := by
  induction t with
  | nil =>
    by_cases h2 : j = k
    · simp [tblInsert, tblGet, h2]
    · simp [tblInsert, tblGet, h2, Ne.symm h2]
  | cons e t ih =>
    obtain ⟨i, w⟩ := e
    have hi : i ≠ k := hk _ (List.mem_cons_self ..)
    have ih' := ih (fun e he => hk e (List.mem_cons_of_mem _ he))
    by_cases hlt : k < i
    · simp only [tblInsert, hlt, if_true, tblGet]
      by_cases h2 : j = k
      · subst h2; simp
      · simp [h2, Ne.symm h2]
    · simp only [tblInsert, hlt, if_false, tblGet, ih']
      by_cases h2 : i = j
      · subst h2; simp [hi]
      · simp [h2]

theorem tblErase_no_key (t : List (Nat × α)) (k : Nat) : ∀ e ∈ tblErase t k, e.1 ≠ k := by
  induction t with
  | nil => simp [tblErase]
  | cons e t ih =>
    obtain ⟨i, v⟩ := e
    by_cases h : i = k
    · simpa [tblErase, h] using ih
    · simp only [tblErase, h, if_false, List.mem_cons]
      rintro e (rfl | he)
      · exact h
      · exact ih _ he

/-- A read after a write. -/
theorem tblGet_set [DecidableEq α] (d : α) (t : List (Nat × α)) (k j : Nat) (v : α) :
    tblGet d (tblSet d t k v) j = if j = k then v else tblGet d t j := by
  by_cases h : v = d
  · subst h; simp [tblSet, tblGet_erase]
  · have := tblGet_insert d (tblErase t k) k v j (tblErase_no_key t k)
    simp only [tblSet, h, if_false, this, tblGet_erase]
    by_cases h2 : j = k <;> simp [h2]

@[simp] theorem tblGet_set_self [DecidableEq α] (d : α) (t : List (Nat × α)) (k : Nat) (v : α) :
    tblGet d (tblSet d t k v) k = v := by simp [tblGet_set]

theorem tblGet_set_ne [DecidableEq α] (d : α) (t : List (Nat × α)) {k j : Nat} (v : α) (h : j ≠ k) :
    tblGet d (tblSet d t k v) j = tblGet d t j := by simp [tblGet_set, h]

/-- A read elsewhere, under another default: registers have reset values of their own. -/
theorem tblGet_set_ne' [DecidableEq α] (d d' : α) (t : List (Nat × α)) {k j : Nat} (v : α) (h : j ≠ k) :
    tblGet d (tblSet d' t k v) j = tblGet d t j := by
  unfold tblSet
  split
  · simp [tblGet_erase, h]
  · rw [tblGet_insert d _ k v j (tblErase_no_key t k), tblGet_erase]; simp [h]

/-! ## The canonical form -/

theorem tblWfFrom_mono [DecidableEq α] (d : α) {a b : Nat} (h : a ≤ b) (t : List (Nat × α)) (w : tblWfFrom d b t = true) :
    tblWfFrom d a t = true := by
  cases t with
  | nil => rfl
  | cons e t => obtain ⟨i, v⟩ := e; simp [tblWfFrom] at w ⊢; exact ⟨⟨by omega, w.1.2⟩, w.2⟩

theorem tblWfFrom_erase [DecidableEq α] (d : α) (t : List (Nat × α)) (k lo : Nat) (w : tblWfFrom d lo t = true) :
    tblWfFrom d lo (tblErase t k) = true := by
  induction t generalizing lo with
  | nil => rfl
  | cons e t ih =>
    obtain ⟨i, v⟩ := e
    simp only [tblWfFrom, Bool.and_eq_true, decide_eq_true_eq] at w
    by_cases h : i = k
    · simp only [tblErase, h, if_true]
      exact ih _ (tblWfFrom_mono d (by omega) _ w.2)
    · simp only [tblErase, h, if_false, tblWfFrom, Bool.and_eq_true, decide_eq_true_eq]
      exact ⟨w.1, ih _ w.2⟩

theorem tblWfFrom_insert [DecidableEq α] (d : α) (t : List (Nat × α)) (k lo : Nat) (v : α) (hv : v ≠ d) (hlo : lo ≤ k)
    (hk : ∀ e ∈ t, e.1 ≠ k) (w : tblWfFrom d lo t = true) : tblWfFrom d lo (tblInsert t k v) = true := by
  induction t generalizing lo with
  | nil => simp [tblInsert, tblWfFrom, hv, hlo]
  | cons e t ih =>
    obtain ⟨i, x⟩ := e
    simp only [tblWfFrom, Bool.and_eq_true, decide_eq_true_eq] at w
    have hi : i ≠ k := hk _ (List.mem_cons_self ..)
    by_cases h : k < i
    · simp only [tblInsert, h, if_true, tblWfFrom, Bool.and_eq_true, decide_eq_true_eq]
      exact ⟨⟨hlo, hv⟩, ⟨by omega, w.1.2⟩, w.2⟩
    · simp only [tblInsert, h, if_false, tblWfFrom, Bool.and_eq_true, decide_eq_true_eq]
      exact ⟨w.1, ih _ (by omega) (fun e he => hk e (List.mem_cons_of_mem _ he)) w.2⟩

theorem tblWf_set [DecidableEq α] (d : α) (t : List (Nat × α)) (k : Nat) (v : α) (w : tblWf d t = true) :
    tblWf d (tblSet d t k v) = true := by
  unfold tblWf tblSet at *
  by_cases h : v = d
  · simp only [h, if_true]; exact tblWfFrom_erase d t k 0 w
  · simp only [h, if_false]
    exact tblWfFrom_insert d _ k 0 v h (by omega) (tblErase_no_key t k) (tblWfFrom_erase d t k 0 w)

theorem tblWfFrom_filter [DecidableEq α] (d : α) (p : Nat × α → Bool) (t : List (Nat × α)) (lo : Nat)
    (w : tblWfFrom d lo t = true) : tblWfFrom d lo (t.filter p) = true := by
  induction t generalizing lo with
  | nil => rfl
  | cons e t ih =>
    obtain ⟨i, v⟩ := e
    simp only [tblWfFrom, Bool.and_eq_true, decide_eq_true_eq] at w
    by_cases h : p (i, v)
    · simp only [List.filter_cons, h, if_true, tblWfFrom, Bool.and_eq_true, decide_eq_true_eq]
      exact ⟨w.1, ih _ w.2⟩
    · simp only [List.filter_cons, h]
      exact ih _ (tblWfFrom_mono d (by omega) _ w.2)

theorem tblWf_clear [DecidableEq α] (d : α) (t : List (Nat × α)) (lo hi : Nat) (w : tblWf d t = true) :
    tblWf d (tblClear t lo hi) = true := tblWfFrom_filter d _ t 0 w

end Sys2Proof.Machine
end

