-- ==== Sys2Proof/Laws/State.lean ====
section
/-!
SUPPORT. What each named update of the state leaves alone: one lemma per update and field, true by `rfl`; and what the updated part reads as.
-/

namespace Sys2Proof.Machine

variable (s : State)

@[simp] theorem State.setReg_pending (a : Nat) (v : Word) : (s.setReg a v).pending = s.pending := rfl
@[simp] theorem State.setReg_mem (a : Nat) (v : Word) : (s.setReg a v).mem = s.mem := rfl
@[simp] theorem State.setReg_regions (a : Nat) (v : Word) : (s.setReg a v).regions = s.regions := rfl
@[simp] theorem State.setReg_engines (a : Nat) (v : Word) : (s.setReg a v).engines = s.engines := rfl
@[simp] theorem State.setReg_barriers (a : Nat) (v : Word) : (s.setReg a v).barriers = s.barriers := rfl
@[simp] theorem State.setReg_deriveFill (a : Nat) (v : Word) : (s.setReg a v).deriveFill = s.deriveFill := rfl
@[simp] theorem State.setReg_deriveRsv (a : Nat) (v : Word) : (s.setReg a v).deriveRsv = s.deriveRsv := rfl
@[simp] theorem State.setReg_deriveBack (a : Nat) (v : Word) : (s.setReg a v).deriveBack = s.deriveBack := rfl
@[simp] theorem State.setReg_revokes (a : Nat) (v : Word) : (s.setReg a v).revokes = s.revokes := rfl
@[simp] theorem State.setReg_starts (a : Nat) (v : Word) : (s.setReg a v).starts = s.starts := rfl
@[simp] theorem State.setReg_time (a : Nat) (v : Word) : (s.setReg a v).time = s.time := rfl
@[simp] theorem State.setReg_mono (a : Nat) (v : Word) : (s.setReg a v).mono = s.mono := rfl
@[simp] theorem State.setReg_qcycles (a : Nat) (v : Word) : (s.setReg a v).qcycles = s.qcycles := rfl
@[simp] theorem State.setReg_nextCopy (a : Nat) (v : Word) : (s.setReg a v).nextCopy = s.nextCopy := rfl
@[simp] theorem State.setReg_free (a : Nat) (v : Word) : (s.setReg a v).free = s.free := rfl
@[simp] theorem State.setReg_secondary (a : Nat) (v : Word) : (s.setReg a v).secondary = s.secondary := rfl
@[simp] theorem State.setReg_latent (a : Nat) (v : Word) : (s.setReg a v).latent = s.latent := rfl
@[simp] theorem State.setReg_fns (a : Nat) (v : Word) : (s.setReg a v).fns = s.fns := rfl
@[simp] theorem State.setReg_springs (a : Nat) (v : Word) : (s.setReg a v).springs = s.springs := rfl
@[simp] theorem State.setReg_rings (a : Nat) (v : Word) : (s.setReg a v).rings = s.rings := rfl
@[simp] theorem State.setReg_items (a : Nat) (v : Word) : (s.setReg a v).items = s.items := rfl
@[simp] theorem State.setReg_nextItem (a : Nat) (v : Word) : (s.setReg a v).nextItem = s.nextItem := rfl
@[simp] theorem State.setReg_log (a : Nat) (v : Word) : (s.setReg a v).log = s.log := rfl
@[simp] theorem State.setReg_logpi (a : Nat) (v : Word) : (s.setReg a v).logpi = s.logpi := rfl
@[simp] theorem State.setReg_attached (a : Nat) (v : Word) : (s.setReg a v).attached = s.attached := rfl
@[simp] theorem State.setReg_hbeat (a : Nat) (v : Word) : (s.setReg a v).hbeat = s.hbeat := rfl
@[simp] theorem State.setReg_reads (a : Nat) (v : Word) : (s.setReg a v).reads = s.reads := rfl
@[simp] theorem State.setReg_nextTag (a : Nat) (v : Word) : (s.setReg a v).nextTag = s.nextTag := rfl
@[simp] theorem State.setReg_out (a : Nat) (v : Word) : (s.setReg a v).out = s.out := rfl
@[simp] theorem State.setReg_cqs (a : Nat) (v : Word) : (s.setReg a v).cqs = s.cqs := rfl
@[simp] theorem State.setReg_pecks (a : Nat) (v : Word) : (s.setReg a v).pecks = s.pecks := rfl
@[simp] theorem State.setReg_phase (a : Nat) (v : Word) : (s.setReg a v).phase = s.phase := rfl
@[simp] theorem State.setReg_ats (a : Nat) (v : Word) : (s.setReg a v).ats = s.ats := rfl
@[simp] theorem State.setReg_atsInv (a : Nat) (v : Word) : (s.setReg a v).atsInv = s.atsInv := rfl
@[simp] theorem State.setReg_keys (a : Nat) (v : Word) : (s.setReg a v).keys = s.keys := rfl
@[simp] theorem State.setReg_arms (a : Nat) (v : Word) : (s.setReg a v).arms = s.arms := rfl
@[simp] theorem State.setReg_retired (a : Nat) (v : Word) : (s.setReg a v).retired = s.retired := rfl
@[simp] theorem State.setReg_insts (a : Nat) (v : Word) : (s.setReg a v).insts = s.insts := rfl
@[simp] theorem State.setReg_msgs (a : Nat) (v : Word) : (s.setReg a v).msgs = s.msgs := rfl
@[simp] theorem State.setReg_nextKey (a : Nat) (v : Word) : (s.setReg a v).nextKey = s.nextKey := rfl
@[simp] theorem State.setReg_eps (a : Nat) (v : Word) : (s.setReg a v).eps = s.eps := rfl
@[simp] theorem State.setReg_ports (a : Nat) (v : Word) : (s.setReg a v).ports = s.ports := rfl
@[simp] theorem State.setReg_writes (a : Nat) (v : Word) : (s.setReg a v).writes = s.writes := rfl
@[simp] theorem State.setReg_resps (a : Nat) (v : Word) : (s.setReg a v).resps = s.resps := rfl
@[simp] theorem State.setReg_nextResp (a : Nat) (v : Word) : (s.setReg a v).nextResp = s.nextResp := rfl
@[simp] theorem State.setReg_groups (a : Nat) (v : Word) : (s.setReg a v).groups = s.groups := rfl
@[simp] theorem State.setReg_bindings (a : Nat) (v : Word) : (s.setReg a v).bindings = s.bindings := rfl
@[simp] theorem State.setReg_landed (a : Nat) (v : Word) : (s.setReg a v).landed = s.landed := rfl
@[simp] theorem State.setReg_nextWr (a : Nat) (v : Word) : (s.setReg a v).nextWr = s.nextWr := rfl
@[simp] theorem State.setReg_deal (a : Nat) (v : Word) : (s.setReg a v).deal = s.deal := rfl
@[simp] theorem State.setReg_outcomes (a : Nat) (v : Word) : (s.setReg a v).outcomes = s.outcomes := rfl
@[simp] theorem State.setReg_arrivals (a : Nat) (v : Word) : (s.setReg a v).arrivals = s.arrivals := rfl
@[simp] theorem State.setReg_windows (a : Nat) (v : Word) : (s.setReg a v).windows = s.windows := rfl
@[simp] theorem State.setReg_drives (a : Nat) (v : Word) : (s.setReg a v).drives = s.drives := rfl
@[simp] theorem State.setReg_vols (a : Nat) (v : Word) : (s.setReg a v).vols = s.vols := rfl
@[simp] theorem State.setReg_vreqs (a : Nat) (v : Word) : (s.setReg a v).vreqs = s.vreqs := rfl
@[simp] theorem State.setReg_nextVreq (a : Nat) (v : Word) : (s.setReg a v).nextVreq = s.nextVreq := rfl
@[simp] theorem State.setReg_dcmds (a : Nat) (v : Word) : (s.setReg a v).dcmds = s.dcmds := rfl
@[simp] theorem State.setReg_nvmes (a : Nat) (v : Word) : (s.setReg a v).nvmes = s.nvmes := rfl
@[simp] theorem State.setReg_feeds (a : Nat) (v : Word) : (s.setReg a v).feeds = s.feeds := rfl
@[simp] theorem State.setReg_nextDcmd (a : Nat) (v : Word) : (s.setReg a v).nextDcmd = s.nextDcmd := rfl
@[simp] theorem State.setReg_fetches (a : Nat) (v : Word) : (s.setReg a v).fetches = s.fetches := rfl
@[simp] theorem State.setReg_nextFetch (a : Nat) (v : Word) : (s.setReg a v).nextFetch = s.nextFetch := rfl
@[simp] theorem State.setReg_scratch (a : Nat) (v : Word) : (s.setReg a v).scratch = s.scratch := rfl
@[simp] theorem State.setReg_colls (a : Nat) (v : Word) : (s.setReg a v).colls = s.colls := rfl
@[simp] theorem State.setReg_nextColl (a : Nat) (v : Word) : (s.setReg a v).nextColl = s.nextColl := rfl
@[simp] theorem State.setReg_seqs (a : Nat) (v : Word) : (s.setReg a v).seqs = s.seqs := rfl
@[simp] theorem State.setReg_shares (a : Nat) (v : Word) : (s.setReg a v).shares = s.shares := rfl
@[simp] theorem State.setReg_kvmoves (a : Nat) (v : Word) : (s.setReg a v).kvmoves = s.kvmoves := rfl
@[simp] theorem State.setReg_nextMove (a : Nat) (v : Word) : (s.setReg a v).nextMove = s.nextMove := rfl
@[simp] theorem State.setReg_alarmLive (a : Nat) (v : Word) : (s.setReg a v).alarmLive = s.alarmLive := rfl
@[simp] theorem State.setReg_d3cold (a : Nat) (v : Word) : (s.setReg a v).d3cold = s.d3cold := rfl
@[simp] theorem State.setReg_ckpts (a : Nat) (v : Word) : (s.setReg a v).ckpts = s.ckpts := rfl
@[simp] theorem State.setReg_notices (a : Nat) (v : Word) : (s.setReg a v).notices = s.notices := rfl
@[simp] theorem State.setReg_mirrors (a : Nat) (v : Word) : (s.setReg a v).mirrors = s.mirrors := rfl
@[simp] theorem State.setReg_pair (a : Nat) (v : Word) : (s.setReg a v).pair = s.pair := rfl
@[simp] theorem State.setReg_i3c (a : Nat) (v : Word) : (s.setReg a v).i3c = s.i3c := rfl
@[simp] theorem State.setReg_fw (a : Nat) (v : Word) : (s.setReg a v).fw = s.fw := rfl
@[simp] theorem State.setReg_watches (a : Nat) (v : Word) : (s.setReg a v).watches = s.watches := rfl
@[simp] theorem State.setReg_replays (a : Nat) (v : Word) : (s.setReg a v).replays = s.replays := rfl
@[simp] theorem State.setReg_verdicts (a : Nat) (v : Word) : (s.setReg a v).verdicts = s.verdicts := rfl
@[simp] theorem State.setReg_warms (a : Nat) (v : Word) : (s.setReg a v).warms = s.warms := rfl
@[simp] theorem State.setReg_mtr (a : Nat) (v : Word) : (s.setReg a v).mtr = s.mtr := rfl
@[simp] theorem State.setReg_minute (a : Nat) (v : Word) : (s.setReg a v).minute = s.minute := rfl
@[simp] theorem State.setReg_pcie (a : Nat) (v : Word) : (s.setReg a v).pcie = s.pcie := rfl
@[simp] theorem State.setReg_intg (a : Nat) (v : Word) : (s.setReg a v).intg = s.intg := rfl
@[simp] theorem State.setReg_pwr (a : Nat) (v : Word) : (s.setReg a v).pwr = s.pwr := rfl
@[simp] theorem State.setReg_clk (a : Nat) (v : Word) : (s.setReg a v).clk = s.clk := rfl
@[simp] theorem State.setReg_rcv (a : Nat) (v : Word) : (s.setReg a v).rcv = s.rcv := rfl

@[simp] theorem State.bump_pending (a n : Nat) : (s.bump a n).pending = s.pending := rfl
@[simp] theorem State.bump_mem (a n : Nat) : (s.bump a n).mem = s.mem := rfl
@[simp] theorem State.bump_regions (a n : Nat) : (s.bump a n).regions = s.regions := rfl
@[simp] theorem State.bump_engines (a n : Nat) : (s.bump a n).engines = s.engines := rfl
@[simp] theorem State.bump_barriers (a n : Nat) : (s.bump a n).barriers = s.barriers := rfl
@[simp] theorem State.bump_deriveFill (a n : Nat) : (s.bump a n).deriveFill = s.deriveFill := rfl
@[simp] theorem State.bump_deriveRsv (a n : Nat) : (s.bump a n).deriveRsv = s.deriveRsv := rfl
@[simp] theorem State.bump_deriveBack (a n : Nat) : (s.bump a n).deriveBack = s.deriveBack := rfl
@[simp] theorem State.bump_revokes (a n : Nat) : (s.bump a n).revokes = s.revokes := rfl
@[simp] theorem State.bump_starts (a n : Nat) : (s.bump a n).starts = s.starts := rfl
@[simp] theorem State.bump_time (a n : Nat) : (s.bump a n).time = s.time := rfl
@[simp] theorem State.bump_mono (a n : Nat) : (s.bump a n).mono = s.mono := rfl
@[simp] theorem State.bump_qcycles (a n : Nat) : (s.bump a n).qcycles = s.qcycles := rfl
@[simp] theorem State.bump_nextCopy (a n : Nat) : (s.bump a n).nextCopy = s.nextCopy := rfl
@[simp] theorem State.bump_free (a n : Nat) : (s.bump a n).free = s.free := rfl
@[simp] theorem State.bump_secondary (a n : Nat) : (s.bump a n).secondary = s.secondary := rfl
@[simp] theorem State.bump_latent (a n : Nat) : (s.bump a n).latent = s.latent := rfl
@[simp] theorem State.bump_fns (a n : Nat) : (s.bump a n).fns = s.fns := rfl
@[simp] theorem State.bump_springs (a n : Nat) : (s.bump a n).springs = s.springs := rfl
@[simp] theorem State.bump_rings (a n : Nat) : (s.bump a n).rings = s.rings := rfl
@[simp] theorem State.bump_items (a n : Nat) : (s.bump a n).items = s.items := rfl
@[simp] theorem State.bump_nextItem (a n : Nat) : (s.bump a n).nextItem = s.nextItem := rfl
@[simp] theorem State.bump_log (a n : Nat) : (s.bump a n).log = s.log := rfl
@[simp] theorem State.bump_logpi (a n : Nat) : (s.bump a n).logpi = s.logpi := rfl
@[simp] theorem State.bump_attached (a n : Nat) : (s.bump a n).attached = s.attached := rfl
@[simp] theorem State.bump_hbeat (a n : Nat) : (s.bump a n).hbeat = s.hbeat := rfl
@[simp] theorem State.bump_reads (a n : Nat) : (s.bump a n).reads = s.reads := rfl
@[simp] theorem State.bump_nextTag (a n : Nat) : (s.bump a n).nextTag = s.nextTag := rfl
@[simp] theorem State.bump_out (a n : Nat) : (s.bump a n).out = s.out := rfl
@[simp] theorem State.bump_cqs (a n : Nat) : (s.bump a n).cqs = s.cqs := rfl
@[simp] theorem State.bump_pecks (a n : Nat) : (s.bump a n).pecks = s.pecks := rfl
@[simp] theorem State.bump_phase (a n : Nat) : (s.bump a n).phase = s.phase := rfl
@[simp] theorem State.bump_ats (a n : Nat) : (s.bump a n).ats = s.ats := rfl
@[simp] theorem State.bump_atsInv (a n : Nat) : (s.bump a n).atsInv = s.atsInv := rfl
@[simp] theorem State.bump_keys (a n : Nat) : (s.bump a n).keys = s.keys := rfl
@[simp] theorem State.bump_arms (a n : Nat) : (s.bump a n).arms = s.arms := rfl
@[simp] theorem State.bump_retired (a n : Nat) : (s.bump a n).retired = s.retired := rfl
@[simp] theorem State.bump_insts (a n : Nat) : (s.bump a n).insts = s.insts := rfl
@[simp] theorem State.bump_msgs (a n : Nat) : (s.bump a n).msgs = s.msgs := rfl
@[simp] theorem State.bump_nextKey (a n : Nat) : (s.bump a n).nextKey = s.nextKey := rfl
@[simp] theorem State.bump_eps (a n : Nat) : (s.bump a n).eps = s.eps := rfl
@[simp] theorem State.bump_ports (a n : Nat) : (s.bump a n).ports = s.ports := rfl
@[simp] theorem State.bump_writes (a n : Nat) : (s.bump a n).writes = s.writes := rfl
@[simp] theorem State.bump_resps (a n : Nat) : (s.bump a n).resps = s.resps := rfl
@[simp] theorem State.bump_nextResp (a n : Nat) : (s.bump a n).nextResp = s.nextResp := rfl
@[simp] theorem State.bump_groups (a n : Nat) : (s.bump a n).groups = s.groups := rfl
@[simp] theorem State.bump_bindings (a n : Nat) : (s.bump a n).bindings = s.bindings := rfl
@[simp] theorem State.bump_landed (a n : Nat) : (s.bump a n).landed = s.landed := rfl
@[simp] theorem State.bump_nextWr (a n : Nat) : (s.bump a n).nextWr = s.nextWr := rfl
@[simp] theorem State.bump_deal (a n : Nat) : (s.bump a n).deal = s.deal := rfl
@[simp] theorem State.bump_outcomes (a n : Nat) : (s.bump a n).outcomes = s.outcomes := rfl
@[simp] theorem State.bump_arrivals (a n : Nat) : (s.bump a n).arrivals = s.arrivals := rfl
@[simp] theorem State.bump_windows (a n : Nat) : (s.bump a n).windows = s.windows := rfl
@[simp] theorem State.bump_drives (a n : Nat) : (s.bump a n).drives = s.drives := rfl
@[simp] theorem State.bump_vols (a n : Nat) : (s.bump a n).vols = s.vols := rfl
@[simp] theorem State.bump_vreqs (a n : Nat) : (s.bump a n).vreqs = s.vreqs := rfl
@[simp] theorem State.bump_nextVreq (a n : Nat) : (s.bump a n).nextVreq = s.nextVreq := rfl
@[simp] theorem State.bump_dcmds (a n : Nat) : (s.bump a n).dcmds = s.dcmds := rfl
@[simp] theorem State.bump_nvmes (a n : Nat) : (s.bump a n).nvmes = s.nvmes := rfl
@[simp] theorem State.bump_feeds (a n : Nat) : (s.bump a n).feeds = s.feeds := rfl
@[simp] theorem State.bump_nextDcmd (a n : Nat) : (s.bump a n).nextDcmd = s.nextDcmd := rfl
@[simp] theorem State.bump_fetches (a n : Nat) : (s.bump a n).fetches = s.fetches := rfl
@[simp] theorem State.bump_nextFetch (a n : Nat) : (s.bump a n).nextFetch = s.nextFetch := rfl
@[simp] theorem State.bump_scratch (a n : Nat) : (s.bump a n).scratch = s.scratch := rfl
@[simp] theorem State.bump_colls (a n : Nat) : (s.bump a n).colls = s.colls := rfl
@[simp] theorem State.bump_nextColl (a n : Nat) : (s.bump a n).nextColl = s.nextColl := rfl
@[simp] theorem State.bump_seqs (a n : Nat) : (s.bump a n).seqs = s.seqs := rfl
@[simp] theorem State.bump_shares (a n : Nat) : (s.bump a n).shares = s.shares := rfl
@[simp] theorem State.bump_kvmoves (a n : Nat) : (s.bump a n).kvmoves = s.kvmoves := rfl
@[simp] theorem State.bump_nextMove (a n : Nat) : (s.bump a n).nextMove = s.nextMove := rfl
@[simp] theorem State.bump_alarmLive (a n : Nat) : (s.bump a n).alarmLive = s.alarmLive := rfl
@[simp] theorem State.bump_d3cold (a n : Nat) : (s.bump a n).d3cold = s.d3cold := rfl
@[simp] theorem State.bump_ckpts (a n : Nat) : (s.bump a n).ckpts = s.ckpts := rfl
@[simp] theorem State.bump_notices (a n : Nat) : (s.bump a n).notices = s.notices := rfl
@[simp] theorem State.bump_mirrors (a n : Nat) : (s.bump a n).mirrors = s.mirrors := rfl
@[simp] theorem State.bump_pair (a n : Nat) : (s.bump a n).pair = s.pair := rfl
@[simp] theorem State.bump_i3c (a n : Nat) : (s.bump a n).i3c = s.i3c := rfl
@[simp] theorem State.bump_fw (a n : Nat) : (s.bump a n).fw = s.fw := rfl
@[simp] theorem State.bump_watches (a n : Nat) : (s.bump a n).watches = s.watches := rfl
@[simp] theorem State.bump_replays (a n : Nat) : (s.bump a n).replays = s.replays := rfl
@[simp] theorem State.bump_verdicts (a n : Nat) : (s.bump a n).verdicts = s.verdicts := rfl
@[simp] theorem State.bump_warms (a n : Nat) : (s.bump a n).warms = s.warms := rfl
@[simp] theorem State.bump_mtr (a n : Nat) : (s.bump a n).mtr = s.mtr := rfl
@[simp] theorem State.bump_minute (a n : Nat) : (s.bump a n).minute = s.minute := rfl
@[simp] theorem State.bump_pcie (a n : Nat) : (s.bump a n).pcie = s.pcie := rfl
@[simp] theorem State.bump_intg (a n : Nat) : (s.bump a n).intg = s.intg := rfl
@[simp] theorem State.bump_pwr (a n : Nat) : (s.bump a n).pwr = s.pwr := rfl
@[simp] theorem State.bump_clk (a n : Nat) : (s.bump a n).clk = s.clk := rfl
@[simp] theorem State.bump_rcv (a n : Nat) : (s.bump a n).rcv = s.rcv := rfl

@[simp] theorem State.setRegField_pending (a lo w v : Nat) : (s.setRegField a lo w v).pending = s.pending := rfl
@[simp] theorem State.setRegField_mem (a lo w v : Nat) : (s.setRegField a lo w v).mem = s.mem := rfl
@[simp] theorem State.setRegField_regions (a lo w v : Nat) : (s.setRegField a lo w v).regions = s.regions := rfl
@[simp] theorem State.setRegField_engines (a lo w v : Nat) : (s.setRegField a lo w v).engines = s.engines := rfl
@[simp] theorem State.setRegField_barriers (a lo w v : Nat) : (s.setRegField a lo w v).barriers = s.barriers := rfl
@[simp] theorem State.setRegField_deriveFill (a lo w v : Nat) : (s.setRegField a lo w v).deriveFill = s.deriveFill := rfl
@[simp] theorem State.setRegField_deriveRsv (a lo w v : Nat) : (s.setRegField a lo w v).deriveRsv = s.deriveRsv := rfl
@[simp] theorem State.setRegField_deriveBack (a lo w v : Nat) : (s.setRegField a lo w v).deriveBack = s.deriveBack := rfl
@[simp] theorem State.setRegField_revokes (a lo w v : Nat) : (s.setRegField a lo w v).revokes = s.revokes := rfl
@[simp] theorem State.setRegField_starts (a lo w v : Nat) : (s.setRegField a lo w v).starts = s.starts := rfl
@[simp] theorem State.setRegField_time (a lo w v : Nat) : (s.setRegField a lo w v).time = s.time := rfl
@[simp] theorem State.setRegField_mono (a lo w v : Nat) : (s.setRegField a lo w v).mono = s.mono := rfl
@[simp] theorem State.setRegField_qcycles (a lo w v : Nat) : (s.setRegField a lo w v).qcycles = s.qcycles := rfl
@[simp] theorem State.setRegField_nextCopy (a lo w v : Nat) : (s.setRegField a lo w v).nextCopy = s.nextCopy := rfl
@[simp] theorem State.setRegField_free (a lo w v : Nat) : (s.setRegField a lo w v).free = s.free := rfl
@[simp] theorem State.setRegField_secondary (a lo w v : Nat) : (s.setRegField a lo w v).secondary = s.secondary := rfl
@[simp] theorem State.setRegField_latent (a lo w v : Nat) : (s.setRegField a lo w v).latent = s.latent := rfl
@[simp] theorem State.setRegField_fns (a lo w v : Nat) : (s.setRegField a lo w v).fns = s.fns := rfl
@[simp] theorem State.setRegField_springs (a lo w v : Nat) : (s.setRegField a lo w v).springs = s.springs := rfl
@[simp] theorem State.setRegField_rings (a lo w v : Nat) : (s.setRegField a lo w v).rings = s.rings := rfl
@[simp] theorem State.setRegField_items (a lo w v : Nat) : (s.setRegField a lo w v).items = s.items := rfl
@[simp] theorem State.setRegField_nextItem (a lo w v : Nat) : (s.setRegField a lo w v).nextItem = s.nextItem := rfl
@[simp] theorem State.setRegField_log (a lo w v : Nat) : (s.setRegField a lo w v).log = s.log := rfl
@[simp] theorem State.setRegField_logpi (a lo w v : Nat) : (s.setRegField a lo w v).logpi = s.logpi := rfl
@[simp] theorem State.setRegField_attached (a lo w v : Nat) : (s.setRegField a lo w v).attached = s.attached := rfl
@[simp] theorem State.setRegField_hbeat (a lo w v : Nat) : (s.setRegField a lo w v).hbeat = s.hbeat := rfl
@[simp] theorem State.setRegField_reads (a lo w v : Nat) : (s.setRegField a lo w v).reads = s.reads := rfl
@[simp] theorem State.setRegField_nextTag (a lo w v : Nat) : (s.setRegField a lo w v).nextTag = s.nextTag := rfl
@[simp] theorem State.setRegField_out (a lo w v : Nat) : (s.setRegField a lo w v).out = s.out := rfl
@[simp] theorem State.setRegField_cqs (a lo w v : Nat) : (s.setRegField a lo w v).cqs = s.cqs := rfl
@[simp] theorem State.setRegField_pecks (a lo w v : Nat) : (s.setRegField a lo w v).pecks = s.pecks := rfl
@[simp] theorem State.setRegField_phase (a lo w v : Nat) : (s.setRegField a lo w v).phase = s.phase := rfl
@[simp] theorem State.setRegField_ats (a lo w v : Nat) : (s.setRegField a lo w v).ats = s.ats := rfl
@[simp] theorem State.setRegField_atsInv (a lo w v : Nat) : (s.setRegField a lo w v).atsInv = s.atsInv := rfl
@[simp] theorem State.setRegField_keys (a lo w v : Nat) : (s.setRegField a lo w v).keys = s.keys := rfl
@[simp] theorem State.setRegField_arms (a lo w v : Nat) : (s.setRegField a lo w v).arms = s.arms := rfl
@[simp] theorem State.setRegField_retired (a lo w v : Nat) : (s.setRegField a lo w v).retired = s.retired := rfl
@[simp] theorem State.setRegField_insts (a lo w v : Nat) : (s.setRegField a lo w v).insts = s.insts := rfl
@[simp] theorem State.setRegField_msgs (a lo w v : Nat) : (s.setRegField a lo w v).msgs = s.msgs := rfl
@[simp] theorem State.setRegField_nextKey (a lo w v : Nat) : (s.setRegField a lo w v).nextKey = s.nextKey := rfl
@[simp] theorem State.setRegField_eps (a lo w v : Nat) : (s.setRegField a lo w v).eps = s.eps := rfl
@[simp] theorem State.setRegField_ports (a lo w v : Nat) : (s.setRegField a lo w v).ports = s.ports := rfl
@[simp] theorem State.setRegField_writes (a lo w v : Nat) : (s.setRegField a lo w v).writes = s.writes := rfl
@[simp] theorem State.setRegField_resps (a lo w v : Nat) : (s.setRegField a lo w v).resps = s.resps := rfl
@[simp] theorem State.setRegField_nextResp (a lo w v : Nat) : (s.setRegField a lo w v).nextResp = s.nextResp := rfl
@[simp] theorem State.setRegField_groups (a lo w v : Nat) : (s.setRegField a lo w v).groups = s.groups := rfl
@[simp] theorem State.setRegField_bindings (a lo w v : Nat) : (s.setRegField a lo w v).bindings = s.bindings := rfl
@[simp] theorem State.setRegField_landed (a lo w v : Nat) : (s.setRegField a lo w v).landed = s.landed := rfl
@[simp] theorem State.setRegField_nextWr (a lo w v : Nat) : (s.setRegField a lo w v).nextWr = s.nextWr := rfl
@[simp] theorem State.setRegField_deal (a lo w v : Nat) : (s.setRegField a lo w v).deal = s.deal := rfl
@[simp] theorem State.setRegField_outcomes (a lo w v : Nat) : (s.setRegField a lo w v).outcomes = s.outcomes := rfl
@[simp] theorem State.setRegField_arrivals (a lo w v : Nat) : (s.setRegField a lo w v).arrivals = s.arrivals := rfl
@[simp] theorem State.setRegField_windows (a lo w v : Nat) : (s.setRegField a lo w v).windows = s.windows := rfl
@[simp] theorem State.setRegField_drives (a lo w v : Nat) : (s.setRegField a lo w v).drives = s.drives := rfl
@[simp] theorem State.setRegField_vols (a lo w v : Nat) : (s.setRegField a lo w v).vols = s.vols := rfl
@[simp] theorem State.setRegField_vreqs (a lo w v : Nat) : (s.setRegField a lo w v).vreqs = s.vreqs := rfl
@[simp] theorem State.setRegField_nextVreq (a lo w v : Nat) : (s.setRegField a lo w v).nextVreq = s.nextVreq := rfl
@[simp] theorem State.setRegField_dcmds (a lo w v : Nat) : (s.setRegField a lo w v).dcmds = s.dcmds := rfl
@[simp] theorem State.setRegField_nvmes (a lo w v : Nat) : (s.setRegField a lo w v).nvmes = s.nvmes := rfl
@[simp] theorem State.setRegField_feeds (a lo w v : Nat) : (s.setRegField a lo w v).feeds = s.feeds := rfl
@[simp] theorem State.setRegField_nextDcmd (a lo w v : Nat) : (s.setRegField a lo w v).nextDcmd = s.nextDcmd := rfl
@[simp] theorem State.setRegField_fetches (a lo w v : Nat) : (s.setRegField a lo w v).fetches = s.fetches := rfl
@[simp] theorem State.setRegField_nextFetch (a lo w v : Nat) : (s.setRegField a lo w v).nextFetch = s.nextFetch := rfl
@[simp] theorem State.setRegField_scratch (a lo w v : Nat) : (s.setRegField a lo w v).scratch = s.scratch := rfl
@[simp] theorem State.setRegField_colls (a lo w v : Nat) : (s.setRegField a lo w v).colls = s.colls := rfl
@[simp] theorem State.setRegField_nextColl (a lo w v : Nat) : (s.setRegField a lo w v).nextColl = s.nextColl := rfl
@[simp] theorem State.setRegField_seqs (a lo w v : Nat) : (s.setRegField a lo w v).seqs = s.seqs := rfl
@[simp] theorem State.setRegField_shares (a lo w v : Nat) : (s.setRegField a lo w v).shares = s.shares := rfl
@[simp] theorem State.setRegField_kvmoves (a lo w v : Nat) : (s.setRegField a lo w v).kvmoves = s.kvmoves := rfl
@[simp] theorem State.setRegField_nextMove (a lo w v : Nat) : (s.setRegField a lo w v).nextMove = s.nextMove := rfl
@[simp] theorem State.setRegField_alarmLive (a lo w v : Nat) : (s.setRegField a lo w v).alarmLive = s.alarmLive := rfl
@[simp] theorem State.setRegField_d3cold (a lo w v : Nat) : (s.setRegField a lo w v).d3cold = s.d3cold := rfl
@[simp] theorem State.setRegField_ckpts (a lo w v : Nat) : (s.setRegField a lo w v).ckpts = s.ckpts := rfl
@[simp] theorem State.setRegField_notices (a lo w v : Nat) : (s.setRegField a lo w v).notices = s.notices := rfl
@[simp] theorem State.setRegField_mirrors (a lo w v : Nat) : (s.setRegField a lo w v).mirrors = s.mirrors := rfl
@[simp] theorem State.setRegField_pair (a lo w v : Nat) : (s.setRegField a lo w v).pair = s.pair := rfl
@[simp] theorem State.setRegField_i3c (a lo w v : Nat) : (s.setRegField a lo w v).i3c = s.i3c := rfl
@[simp] theorem State.setRegField_fw (a lo w v : Nat) : (s.setRegField a lo w v).fw = s.fw := rfl
@[simp] theorem State.setRegField_watches (a lo w v : Nat) : (s.setRegField a lo w v).watches = s.watches := rfl
@[simp] theorem State.setRegField_replays (a lo w v : Nat) : (s.setRegField a lo w v).replays = s.replays := rfl
@[simp] theorem State.setRegField_verdicts (a lo w v : Nat) : (s.setRegField a lo w v).verdicts = s.verdicts := rfl
@[simp] theorem State.setRegField_warms (a lo w v : Nat) : (s.setRegField a lo w v).warms = s.warms := rfl
@[simp] theorem State.setRegField_mtr (a lo w v : Nat) : (s.setRegField a lo w v).mtr = s.mtr := rfl
@[simp] theorem State.setRegField_minute (a lo w v : Nat) : (s.setRegField a lo w v).minute = s.minute := rfl
@[simp] theorem State.setRegField_pcie (a lo w v : Nat) : (s.setRegField a lo w v).pcie = s.pcie := rfl
@[simp] theorem State.setRegField_intg (a lo w v : Nat) : (s.setRegField a lo w v).intg = s.intg := rfl
@[simp] theorem State.setRegField_pwr (a lo w v : Nat) : (s.setRegField a lo w v).pwr = s.pwr := rfl
@[simp] theorem State.setRegField_clk (a lo w v : Nat) : (s.setRegField a lo w v).clk = s.clk := rfl
@[simp] theorem State.setRegField_rcv (a lo w v : Nat) : (s.setRegField a lo w v).rcv = s.rcv := rfl

@[simp] theorem State.satField_pending (a lo w : Nat) : (s.satField a lo w).pending = s.pending := rfl
@[simp] theorem State.satField_mem (a lo w : Nat) : (s.satField a lo w).mem = s.mem := rfl
@[simp] theorem State.satField_regions (a lo w : Nat) : (s.satField a lo w).regions = s.regions := rfl
@[simp] theorem State.satField_engines (a lo w : Nat) : (s.satField a lo w).engines = s.engines := rfl
@[simp] theorem State.satField_barriers (a lo w : Nat) : (s.satField a lo w).barriers = s.barriers := rfl
@[simp] theorem State.satField_deriveFill (a lo w : Nat) : (s.satField a lo w).deriveFill = s.deriveFill := rfl
@[simp] theorem State.satField_deriveRsv (a lo w : Nat) : (s.satField a lo w).deriveRsv = s.deriveRsv := rfl
@[simp] theorem State.satField_deriveBack (a lo w : Nat) : (s.satField a lo w).deriveBack = s.deriveBack := rfl
@[simp] theorem State.satField_revokes (a lo w : Nat) : (s.satField a lo w).revokes = s.revokes := rfl
@[simp] theorem State.satField_starts (a lo w : Nat) : (s.satField a lo w).starts = s.starts := rfl
@[simp] theorem State.satField_time (a lo w : Nat) : (s.satField a lo w).time = s.time := rfl
@[simp] theorem State.satField_mono (a lo w : Nat) : (s.satField a lo w).mono = s.mono := rfl
@[simp] theorem State.satField_qcycles (a lo w : Nat) : (s.satField a lo w).qcycles = s.qcycles := rfl
@[simp] theorem State.satField_nextCopy (a lo w : Nat) : (s.satField a lo w).nextCopy = s.nextCopy := rfl
@[simp] theorem State.satField_free (a lo w : Nat) : (s.satField a lo w).free = s.free := rfl
@[simp] theorem State.satField_secondary (a lo w : Nat) : (s.satField a lo w).secondary = s.secondary := rfl
@[simp] theorem State.satField_latent (a lo w : Nat) : (s.satField a lo w).latent = s.latent := rfl
@[simp] theorem State.satField_fns (a lo w : Nat) : (s.satField a lo w).fns = s.fns := rfl
@[simp] theorem State.satField_springs (a lo w : Nat) : (s.satField a lo w).springs = s.springs := rfl
@[simp] theorem State.satField_rings (a lo w : Nat) : (s.satField a lo w).rings = s.rings := rfl
@[simp] theorem State.satField_items (a lo w : Nat) : (s.satField a lo w).items = s.items := rfl
@[simp] theorem State.satField_nextItem (a lo w : Nat) : (s.satField a lo w).nextItem = s.nextItem := rfl
@[simp] theorem State.satField_log (a lo w : Nat) : (s.satField a lo w).log = s.log := rfl
@[simp] theorem State.satField_logpi (a lo w : Nat) : (s.satField a lo w).logpi = s.logpi := rfl
@[simp] theorem State.satField_attached (a lo w : Nat) : (s.satField a lo w).attached = s.attached := rfl
@[simp] theorem State.satField_hbeat (a lo w : Nat) : (s.satField a lo w).hbeat = s.hbeat := rfl
@[simp] theorem State.satField_reads (a lo w : Nat) : (s.satField a lo w).reads = s.reads := rfl
@[simp] theorem State.satField_nextTag (a lo w : Nat) : (s.satField a lo w).nextTag = s.nextTag := rfl
@[simp] theorem State.satField_out (a lo w : Nat) : (s.satField a lo w).out = s.out := rfl
@[simp] theorem State.satField_cqs (a lo w : Nat) : (s.satField a lo w).cqs = s.cqs := rfl
@[simp] theorem State.satField_pecks (a lo w : Nat) : (s.satField a lo w).pecks = s.pecks := rfl
@[simp] theorem State.satField_phase (a lo w : Nat) : (s.satField a lo w).phase = s.phase := rfl
@[simp] theorem State.satField_ats (a lo w : Nat) : (s.satField a lo w).ats = s.ats := rfl
@[simp] theorem State.satField_atsInv (a lo w : Nat) : (s.satField a lo w).atsInv = s.atsInv := rfl
@[simp] theorem State.satField_keys (a lo w : Nat) : (s.satField a lo w).keys = s.keys := rfl
@[simp] theorem State.satField_arms (a lo w : Nat) : (s.satField a lo w).arms = s.arms := rfl
@[simp] theorem State.satField_retired (a lo w : Nat) : (s.satField a lo w).retired = s.retired := rfl
@[simp] theorem State.satField_insts (a lo w : Nat) : (s.satField a lo w).insts = s.insts := rfl
@[simp] theorem State.satField_msgs (a lo w : Nat) : (s.satField a lo w).msgs = s.msgs := rfl
@[simp] theorem State.satField_nextKey (a lo w : Nat) : (s.satField a lo w).nextKey = s.nextKey := rfl
@[simp] theorem State.satField_eps (a lo w : Nat) : (s.satField a lo w).eps = s.eps := rfl
@[simp] theorem State.satField_ports (a lo w : Nat) : (s.satField a lo w).ports = s.ports := rfl
@[simp] theorem State.satField_writes (a lo w : Nat) : (s.satField a lo w).writes = s.writes := rfl
@[simp] theorem State.satField_resps (a lo w : Nat) : (s.satField a lo w).resps = s.resps := rfl
@[simp] theorem State.satField_nextResp (a lo w : Nat) : (s.satField a lo w).nextResp = s.nextResp := rfl
@[simp] theorem State.satField_groups (a lo w : Nat) : (s.satField a lo w).groups = s.groups := rfl
@[simp] theorem State.satField_bindings (a lo w : Nat) : (s.satField a lo w).bindings = s.bindings := rfl
@[simp] theorem State.satField_landed (a lo w : Nat) : (s.satField a lo w).landed = s.landed := rfl
@[simp] theorem State.satField_nextWr (a lo w : Nat) : (s.satField a lo w).nextWr = s.nextWr := rfl
@[simp] theorem State.satField_deal (a lo w : Nat) : (s.satField a lo w).deal = s.deal := rfl
@[simp] theorem State.satField_outcomes (a lo w : Nat) : (s.satField a lo w).outcomes = s.outcomes := rfl
@[simp] theorem State.satField_arrivals (a lo w : Nat) : (s.satField a lo w).arrivals = s.arrivals := rfl
@[simp] theorem State.satField_windows (a lo w : Nat) : (s.satField a lo w).windows = s.windows := rfl
@[simp] theorem State.satField_drives (a lo w : Nat) : (s.satField a lo w).drives = s.drives := rfl
@[simp] theorem State.satField_vols (a lo w : Nat) : (s.satField a lo w).vols = s.vols := rfl
@[simp] theorem State.satField_vreqs (a lo w : Nat) : (s.satField a lo w).vreqs = s.vreqs := rfl
@[simp] theorem State.satField_nextVreq (a lo w : Nat) : (s.satField a lo w).nextVreq = s.nextVreq := rfl
@[simp] theorem State.satField_dcmds (a lo w : Nat) : (s.satField a lo w).dcmds = s.dcmds := rfl
@[simp] theorem State.satField_nvmes (a lo w : Nat) : (s.satField a lo w).nvmes = s.nvmes := rfl
@[simp] theorem State.satField_feeds (a lo w : Nat) : (s.satField a lo w).feeds = s.feeds := rfl
@[simp] theorem State.satField_nextDcmd (a lo w : Nat) : (s.satField a lo w).nextDcmd = s.nextDcmd := rfl
@[simp] theorem State.satField_fetches (a lo w : Nat) : (s.satField a lo w).fetches = s.fetches := rfl
@[simp] theorem State.satField_nextFetch (a lo w : Nat) : (s.satField a lo w).nextFetch = s.nextFetch := rfl
@[simp] theorem State.satField_scratch (a lo w : Nat) : (s.satField a lo w).scratch = s.scratch := rfl
@[simp] theorem State.satField_colls (a lo w : Nat) : (s.satField a lo w).colls = s.colls := rfl
@[simp] theorem State.satField_nextColl (a lo w : Nat) : (s.satField a lo w).nextColl = s.nextColl := rfl
@[simp] theorem State.satField_seqs (a lo w : Nat) : (s.satField a lo w).seqs = s.seqs := rfl
@[simp] theorem State.satField_shares (a lo w : Nat) : (s.satField a lo w).shares = s.shares := rfl
@[simp] theorem State.satField_kvmoves (a lo w : Nat) : (s.satField a lo w).kvmoves = s.kvmoves := rfl
@[simp] theorem State.satField_nextMove (a lo w : Nat) : (s.satField a lo w).nextMove = s.nextMove := rfl
@[simp] theorem State.satField_alarmLive (a lo w : Nat) : (s.satField a lo w).alarmLive = s.alarmLive := rfl
@[simp] theorem State.satField_d3cold (a lo w : Nat) : (s.satField a lo w).d3cold = s.d3cold := rfl
@[simp] theorem State.satField_ckpts (a lo w : Nat) : (s.satField a lo w).ckpts = s.ckpts := rfl
@[simp] theorem State.satField_notices (a lo w : Nat) : (s.satField a lo w).notices = s.notices := rfl
@[simp] theorem State.satField_mirrors (a lo w : Nat) : (s.satField a lo w).mirrors = s.mirrors := rfl
@[simp] theorem State.satField_pair (a lo w : Nat) : (s.satField a lo w).pair = s.pair := rfl
@[simp] theorem State.satField_i3c (a lo w : Nat) : (s.satField a lo w).i3c = s.i3c := rfl
@[simp] theorem State.satField_fw (a lo w : Nat) : (s.satField a lo w).fw = s.fw := rfl
@[simp] theorem State.satField_watches (a lo w : Nat) : (s.satField a lo w).watches = s.watches := rfl
@[simp] theorem State.satField_replays (a lo w : Nat) : (s.satField a lo w).replays = s.replays := rfl
@[simp] theorem State.satField_verdicts (a lo w : Nat) : (s.satField a lo w).verdicts = s.verdicts := rfl
@[simp] theorem State.satField_warms (a lo w : Nat) : (s.satField a lo w).warms = s.warms := rfl
@[simp] theorem State.satField_mtr (a lo w : Nat) : (s.satField a lo w).mtr = s.mtr := rfl
@[simp] theorem State.satField_minute (a lo w : Nat) : (s.satField a lo w).minute = s.minute := rfl
@[simp] theorem State.satField_pcie (a lo w : Nat) : (s.satField a lo w).pcie = s.pcie := rfl
@[simp] theorem State.satField_intg (a lo w : Nat) : (s.satField a lo w).intg = s.intg := rfl
@[simp] theorem State.satField_pwr (a lo w : Nat) : (s.satField a lo w).pwr = s.pwr := rfl
@[simp] theorem State.satField_clk (a lo w : Nat) : (s.satField a lo w).clk = s.clk := rfl
@[simp] theorem State.satField_rcv (a lo w : Nat) : (s.satField a lo w).rcv = s.rcv := rfl

@[simp] theorem State.errWr_pending : (s.errWr).pending = s.pending := rfl
@[simp] theorem State.errWr_mem : (s.errWr).mem = s.mem := rfl
@[simp] theorem State.errWr_regions : (s.errWr).regions = s.regions := rfl
@[simp] theorem State.errWr_engines : (s.errWr).engines = s.engines := rfl
@[simp] theorem State.errWr_barriers : (s.errWr).barriers = s.barriers := rfl
@[simp] theorem State.errWr_deriveFill : (s.errWr).deriveFill = s.deriveFill := rfl
@[simp] theorem State.errWr_deriveRsv : (s.errWr).deriveRsv = s.deriveRsv := rfl
@[simp] theorem State.errWr_deriveBack : (s.errWr).deriveBack = s.deriveBack := rfl
@[simp] theorem State.errWr_revokes : (s.errWr).revokes = s.revokes := rfl
@[simp] theorem State.errWr_starts : (s.errWr).starts = s.starts := rfl
@[simp] theorem State.errWr_time : (s.errWr).time = s.time := rfl
@[simp] theorem State.errWr_mono : (s.errWr).mono = s.mono := rfl
@[simp] theorem State.errWr_qcycles : (s.errWr).qcycles = s.qcycles := rfl
@[simp] theorem State.errWr_nextCopy : (s.errWr).nextCopy = s.nextCopy := rfl
@[simp] theorem State.errWr_free : (s.errWr).free = s.free := rfl
@[simp] theorem State.errWr_secondary : (s.errWr).secondary = s.secondary := rfl
@[simp] theorem State.errWr_latent : (s.errWr).latent = s.latent := rfl
@[simp] theorem State.errWr_fns : (s.errWr).fns = s.fns := rfl
@[simp] theorem State.errWr_springs : (s.errWr).springs = s.springs := rfl
@[simp] theorem State.errWr_rings : (s.errWr).rings = s.rings := rfl
@[simp] theorem State.errWr_items : (s.errWr).items = s.items := rfl
@[simp] theorem State.errWr_nextItem : (s.errWr).nextItem = s.nextItem := rfl
@[simp] theorem State.errWr_log : (s.errWr).log = s.log := rfl
@[simp] theorem State.errWr_logpi : (s.errWr).logpi = s.logpi := rfl
@[simp] theorem State.errWr_attached : (s.errWr).attached = s.attached := rfl
@[simp] theorem State.errWr_hbeat : (s.errWr).hbeat = s.hbeat := rfl
@[simp] theorem State.errWr_reads : (s.errWr).reads = s.reads := rfl
@[simp] theorem State.errWr_nextTag : (s.errWr).nextTag = s.nextTag := rfl
@[simp] theorem State.errWr_out : (s.errWr).out = s.out := rfl
@[simp] theorem State.errWr_cqs : (s.errWr).cqs = s.cqs := rfl
@[simp] theorem State.errWr_pecks : (s.errWr).pecks = s.pecks := rfl
@[simp] theorem State.errWr_phase : (s.errWr).phase = s.phase := rfl
@[simp] theorem State.errWr_ats : (s.errWr).ats = s.ats := rfl
@[simp] theorem State.errWr_atsInv : (s.errWr).atsInv = s.atsInv := rfl
@[simp] theorem State.errWr_keys : (s.errWr).keys = s.keys := rfl
@[simp] theorem State.errWr_arms : (s.errWr).arms = s.arms := rfl
@[simp] theorem State.errWr_retired : (s.errWr).retired = s.retired := rfl
@[simp] theorem State.errWr_insts : (s.errWr).insts = s.insts := rfl
@[simp] theorem State.errWr_msgs : (s.errWr).msgs = s.msgs := rfl
@[simp] theorem State.errWr_nextKey : (s.errWr).nextKey = s.nextKey := rfl
@[simp] theorem State.errWr_eps : (s.errWr).eps = s.eps := rfl
@[simp] theorem State.errWr_ports : (s.errWr).ports = s.ports := rfl
@[simp] theorem State.errWr_writes : (s.errWr).writes = s.writes := rfl
@[simp] theorem State.errWr_resps : (s.errWr).resps = s.resps := rfl
@[simp] theorem State.errWr_nextResp : (s.errWr).nextResp = s.nextResp := rfl
@[simp] theorem State.errWr_groups : (s.errWr).groups = s.groups := rfl
@[simp] theorem State.errWr_bindings : (s.errWr).bindings = s.bindings := rfl
@[simp] theorem State.errWr_landed : (s.errWr).landed = s.landed := rfl
@[simp] theorem State.errWr_nextWr : (s.errWr).nextWr = s.nextWr := rfl
@[simp] theorem State.errWr_deal : (s.errWr).deal = s.deal := rfl
@[simp] theorem State.errWr_outcomes : (s.errWr).outcomes = s.outcomes := rfl
@[simp] theorem State.errWr_arrivals : (s.errWr).arrivals = s.arrivals := rfl
@[simp] theorem State.errWr_windows : (s.errWr).windows = s.windows := rfl
@[simp] theorem State.errWr_drives : (s.errWr).drives = s.drives := rfl
@[simp] theorem State.errWr_vols : (s.errWr).vols = s.vols := rfl
@[simp] theorem State.errWr_vreqs : (s.errWr).vreqs = s.vreqs := rfl
@[simp] theorem State.errWr_nextVreq : (s.errWr).nextVreq = s.nextVreq := rfl
@[simp] theorem State.errWr_dcmds : (s.errWr).dcmds = s.dcmds := rfl
@[simp] theorem State.errWr_nvmes : (s.errWr).nvmes = s.nvmes := rfl
@[simp] theorem State.errWr_feeds : (s.errWr).feeds = s.feeds := rfl
@[simp] theorem State.errWr_nextDcmd : (s.errWr).nextDcmd = s.nextDcmd := rfl
@[simp] theorem State.errWr_fetches : (s.errWr).fetches = s.fetches := rfl
@[simp] theorem State.errWr_nextFetch : (s.errWr).nextFetch = s.nextFetch := rfl
@[simp] theorem State.errWr_scratch : (s.errWr).scratch = s.scratch := rfl
@[simp] theorem State.errWr_colls : (s.errWr).colls = s.colls := rfl
@[simp] theorem State.errWr_nextColl : (s.errWr).nextColl = s.nextColl := rfl
@[simp] theorem State.errWr_seqs : (s.errWr).seqs = s.seqs := rfl
@[simp] theorem State.errWr_shares : (s.errWr).shares = s.shares := rfl
@[simp] theorem State.errWr_kvmoves : (s.errWr).kvmoves = s.kvmoves := rfl
@[simp] theorem State.errWr_nextMove : (s.errWr).nextMove = s.nextMove := rfl
@[simp] theorem State.errWr_alarmLive : (s.errWr).alarmLive = s.alarmLive := rfl
@[simp] theorem State.errWr_d3cold : (s.errWr).d3cold = s.d3cold := rfl
@[simp] theorem State.errWr_ckpts : (s.errWr).ckpts = s.ckpts := rfl
@[simp] theorem State.errWr_notices : (s.errWr).notices = s.notices := rfl
@[simp] theorem State.errWr_mirrors : (s.errWr).mirrors = s.mirrors := rfl
@[simp] theorem State.errWr_pair : (s.errWr).pair = s.pair := rfl
@[simp] theorem State.errWr_i3c : (s.errWr).i3c = s.i3c := rfl
@[simp] theorem State.errWr_fw : (s.errWr).fw = s.fw := rfl
@[simp] theorem State.errWr_watches : (s.errWr).watches = s.watches := rfl
@[simp] theorem State.errWr_replays : (s.errWr).replays = s.replays := rfl
@[simp] theorem State.errWr_verdicts : (s.errWr).verdicts = s.verdicts := rfl
@[simp] theorem State.errWr_warms : (s.errWr).warms = s.warms := rfl
@[simp] theorem State.errWr_mtr : (s.errWr).mtr = s.mtr := rfl
@[simp] theorem State.errWr_minute : (s.errWr).minute = s.minute := rfl
@[simp] theorem State.errWr_pcie : (s.errWr).pcie = s.pcie := rfl
@[simp] theorem State.errWr_intg : (s.errWr).intg = s.intg := rfl
@[simp] theorem State.errWr_pwr : (s.errWr).pwr = s.pwr := rfl
@[simp] theorem State.errWr_clk : (s.errWr).clk = s.clk := rfl
@[simp] theorem State.errWr_rcv : (s.errWr).rcv = s.rcv := rfl

@[simp] theorem State.emit_pending (o : Out) : (s.emit o).pending = s.pending := rfl
@[simp] theorem State.emit_mem (o : Out) : (s.emit o).mem = s.mem := rfl
@[simp] theorem State.emit_regions (o : Out) : (s.emit o).regions = s.regions := rfl
@[simp] theorem State.emit_engines (o : Out) : (s.emit o).engines = s.engines := rfl
@[simp] theorem State.emit_barriers (o : Out) : (s.emit o).barriers = s.barriers := rfl
@[simp] theorem State.emit_deriveFill (o : Out) : (s.emit o).deriveFill = s.deriveFill := rfl
@[simp] theorem State.emit_deriveRsv (o : Out) : (s.emit o).deriveRsv = s.deriveRsv := rfl
@[simp] theorem State.emit_deriveBack (o : Out) : (s.emit o).deriveBack = s.deriveBack := rfl
@[simp] theorem State.emit_revokes (o : Out) : (s.emit o).revokes = s.revokes := rfl
@[simp] theorem State.emit_starts (o : Out) : (s.emit o).starts = s.starts := rfl
@[simp] theorem State.emit_time (o : Out) : (s.emit o).time = s.time := rfl
@[simp] theorem State.emit_mono (o : Out) : (s.emit o).mono = s.mono := rfl
@[simp] theorem State.emit_qcycles (o : Out) : (s.emit o).qcycles = s.qcycles := rfl
@[simp] theorem State.emit_nextCopy (o : Out) : (s.emit o).nextCopy = s.nextCopy := rfl
@[simp] theorem State.emit_free (o : Out) : (s.emit o).free = s.free := rfl
@[simp] theorem State.emit_secondary (o : Out) : (s.emit o).secondary = s.secondary := rfl
@[simp] theorem State.emit_regs (o : Out) : (s.emit o).regs = s.regs := rfl
@[simp] theorem State.emit_latent (o : Out) : (s.emit o).latent = s.latent := rfl
@[simp] theorem State.emit_fns (o : Out) : (s.emit o).fns = s.fns := rfl
@[simp] theorem State.emit_springs (o : Out) : (s.emit o).springs = s.springs := rfl
@[simp] theorem State.emit_rings (o : Out) : (s.emit o).rings = s.rings := rfl
@[simp] theorem State.emit_items (o : Out) : (s.emit o).items = s.items := rfl
@[simp] theorem State.emit_nextItem (o : Out) : (s.emit o).nextItem = s.nextItem := rfl
@[simp] theorem State.emit_log (o : Out) : (s.emit o).log = s.log := rfl
@[simp] theorem State.emit_logpi (o : Out) : (s.emit o).logpi = s.logpi := rfl
@[simp] theorem State.emit_attached (o : Out) : (s.emit o).attached = s.attached := rfl
@[simp] theorem State.emit_hbeat (o : Out) : (s.emit o).hbeat = s.hbeat := rfl
@[simp] theorem State.emit_reads (o : Out) : (s.emit o).reads = s.reads := rfl
@[simp] theorem State.emit_nextTag (o : Out) : (s.emit o).nextTag = s.nextTag := rfl
@[simp] theorem State.emit_cqs (o : Out) : (s.emit o).cqs = s.cqs := rfl
@[simp] theorem State.emit_pecks (o : Out) : (s.emit o).pecks = s.pecks := rfl
@[simp] theorem State.emit_phase (o : Out) : (s.emit o).phase = s.phase := rfl
@[simp] theorem State.emit_ats (o : Out) : (s.emit o).ats = s.ats := rfl
@[simp] theorem State.emit_atsInv (o : Out) : (s.emit o).atsInv = s.atsInv := rfl
@[simp] theorem State.emit_keys (o : Out) : (s.emit o).keys = s.keys := rfl
@[simp] theorem State.emit_arms (o : Out) : (s.emit o).arms = s.arms := rfl
@[simp] theorem State.emit_retired (o : Out) : (s.emit o).retired = s.retired := rfl
@[simp] theorem State.emit_insts (o : Out) : (s.emit o).insts = s.insts := rfl
@[simp] theorem State.emit_msgs (o : Out) : (s.emit o).msgs = s.msgs := rfl
@[simp] theorem State.emit_nextKey (o : Out) : (s.emit o).nextKey = s.nextKey := rfl
@[simp] theorem State.emit_eps (o : Out) : (s.emit o).eps = s.eps := rfl
@[simp] theorem State.emit_ports (o : Out) : (s.emit o).ports = s.ports := rfl
@[simp] theorem State.emit_writes (o : Out) : (s.emit o).writes = s.writes := rfl
@[simp] theorem State.emit_resps (o : Out) : (s.emit o).resps = s.resps := rfl
@[simp] theorem State.emit_nextResp (o : Out) : (s.emit o).nextResp = s.nextResp := rfl
@[simp] theorem State.emit_groups (o : Out) : (s.emit o).groups = s.groups := rfl
@[simp] theorem State.emit_bindings (o : Out) : (s.emit o).bindings = s.bindings := rfl
@[simp] theorem State.emit_landed (o : Out) : (s.emit o).landed = s.landed := rfl
@[simp] theorem State.emit_nextWr (o : Out) : (s.emit o).nextWr = s.nextWr := rfl
@[simp] theorem State.emit_deal (o : Out) : (s.emit o).deal = s.deal := rfl
@[simp] theorem State.emit_outcomes (o : Out) : (s.emit o).outcomes = s.outcomes := rfl
@[simp] theorem State.emit_arrivals (o : Out) : (s.emit o).arrivals = s.arrivals := rfl
@[simp] theorem State.emit_windows (o : Out) : (s.emit o).windows = s.windows := rfl
@[simp] theorem State.emit_drives (o : Out) : (s.emit o).drives = s.drives := rfl
@[simp] theorem State.emit_vols (o : Out) : (s.emit o).vols = s.vols := rfl
@[simp] theorem State.emit_vreqs (o : Out) : (s.emit o).vreqs = s.vreqs := rfl
@[simp] theorem State.emit_nextVreq (o : Out) : (s.emit o).nextVreq = s.nextVreq := rfl
@[simp] theorem State.emit_dcmds (o : Out) : (s.emit o).dcmds = s.dcmds := rfl
@[simp] theorem State.emit_nvmes (o : Out) : (s.emit o).nvmes = s.nvmes := rfl
@[simp] theorem State.emit_feeds (o : Out) : (s.emit o).feeds = s.feeds := rfl
@[simp] theorem State.emit_nextDcmd (o : Out) : (s.emit o).nextDcmd = s.nextDcmd := rfl
@[simp] theorem State.emit_fetches (o : Out) : (s.emit o).fetches = s.fetches := rfl
@[simp] theorem State.emit_nextFetch (o : Out) : (s.emit o).nextFetch = s.nextFetch := rfl
@[simp] theorem State.emit_scratch (o : Out) : (s.emit o).scratch = s.scratch := rfl
@[simp] theorem State.emit_colls (o : Out) : (s.emit o).colls = s.colls := rfl
@[simp] theorem State.emit_nextColl (o : Out) : (s.emit o).nextColl = s.nextColl := rfl
@[simp] theorem State.emit_seqs (o : Out) : (s.emit o).seqs = s.seqs := rfl
@[simp] theorem State.emit_shares (o : Out) : (s.emit o).shares = s.shares := rfl
@[simp] theorem State.emit_kvmoves (o : Out) : (s.emit o).kvmoves = s.kvmoves := rfl
@[simp] theorem State.emit_nextMove (o : Out) : (s.emit o).nextMove = s.nextMove := rfl
@[simp] theorem State.emit_alarmLive (o : Out) : (s.emit o).alarmLive = s.alarmLive := rfl
@[simp] theorem State.emit_d3cold (o : Out) : (s.emit o).d3cold = s.d3cold := rfl
@[simp] theorem State.emit_ckpts (o : Out) : (s.emit o).ckpts = s.ckpts := rfl
@[simp] theorem State.emit_notices (o : Out) : (s.emit o).notices = s.notices := rfl
@[simp] theorem State.emit_mirrors (o : Out) : (s.emit o).mirrors = s.mirrors := rfl
@[simp] theorem State.emit_pair (o : Out) : (s.emit o).pair = s.pair := rfl
@[simp] theorem State.emit_i3c (o : Out) : (s.emit o).i3c = s.i3c := rfl
@[simp] theorem State.emit_fw (o : Out) : (s.emit o).fw = s.fw := rfl
@[simp] theorem State.emit_watches (o : Out) : (s.emit o).watches = s.watches := rfl
@[simp] theorem State.emit_replays (o : Out) : (s.emit o).replays = s.replays := rfl
@[simp] theorem State.emit_verdicts (o : Out) : (s.emit o).verdicts = s.verdicts := rfl
@[simp] theorem State.emit_warms (o : Out) : (s.emit o).warms = s.warms := rfl
@[simp] theorem State.emit_mtr (o : Out) : (s.emit o).mtr = s.mtr := rfl
@[simp] theorem State.emit_minute (o : Out) : (s.emit o).minute = s.minute := rfl
@[simp] theorem State.emit_pcie (o : Out) : (s.emit o).pcie = s.pcie := rfl
@[simp] theorem State.emit_intg (o : Out) : (s.emit o).intg = s.intg := rfl
@[simp] theorem State.emit_pwr (o : Out) : (s.emit o).pwr = s.pwr := rfl
@[simp] theorem State.emit_clk (o : Out) : (s.emit o).clk = s.clk := rfl
@[simp] theorem State.emit_rcv (o : Out) : (s.emit o).rcv = s.rcv := rfl

@[simp] theorem State.setEng_pending (e : Nat) (x : Engine) : (s.setEng e x).pending = s.pending := rfl
@[simp] theorem State.setEng_mem (e : Nat) (x : Engine) : (s.setEng e x).mem = s.mem := rfl
@[simp] theorem State.setEng_regions (e : Nat) (x : Engine) : (s.setEng e x).regions = s.regions := rfl
@[simp] theorem State.setEng_barriers (e : Nat) (x : Engine) : (s.setEng e x).barriers = s.barriers := rfl
@[simp] theorem State.setEng_deriveFill (e : Nat) (x : Engine) : (s.setEng e x).deriveFill = s.deriveFill := rfl
@[simp] theorem State.setEng_deriveRsv (e : Nat) (x : Engine) : (s.setEng e x).deriveRsv = s.deriveRsv := rfl
@[simp] theorem State.setEng_deriveBack (e : Nat) (x : Engine) : (s.setEng e x).deriveBack = s.deriveBack := rfl
@[simp] theorem State.setEng_revokes (e : Nat) (x : Engine) : (s.setEng e x).revokes = s.revokes := rfl
@[simp] theorem State.setEng_starts (e : Nat) (x : Engine) : (s.setEng e x).starts = s.starts := rfl
@[simp] theorem State.setEng_time (e : Nat) (x : Engine) : (s.setEng e x).time = s.time := rfl
@[simp] theorem State.setEng_mono (e : Nat) (x : Engine) : (s.setEng e x).mono = s.mono := rfl
@[simp] theorem State.setEng_qcycles (e : Nat) (x : Engine) : (s.setEng e x).qcycles = s.qcycles := rfl
@[simp] theorem State.setEng_nextCopy (e : Nat) (x : Engine) : (s.setEng e x).nextCopy = s.nextCopy := rfl
@[simp] theorem State.setEng_free (e : Nat) (x : Engine) : (s.setEng e x).free = s.free := rfl
@[simp] theorem State.setEng_secondary (e : Nat) (x : Engine) : (s.setEng e x).secondary = s.secondary := rfl
@[simp] theorem State.setEng_regs (e : Nat) (x : Engine) : (s.setEng e x).regs = s.regs := rfl
@[simp] theorem State.setEng_latent (e : Nat) (x : Engine) : (s.setEng e x).latent = s.latent := rfl
@[simp] theorem State.setEng_fns (e : Nat) (x : Engine) : (s.setEng e x).fns = s.fns := rfl
@[simp] theorem State.setEng_springs (e : Nat) (x : Engine) : (s.setEng e x).springs = s.springs := rfl
@[simp] theorem State.setEng_rings (e : Nat) (x : Engine) : (s.setEng e x).rings = s.rings := rfl
@[simp] theorem State.setEng_items (e : Nat) (x : Engine) : (s.setEng e x).items = s.items := rfl
@[simp] theorem State.setEng_nextItem (e : Nat) (x : Engine) : (s.setEng e x).nextItem = s.nextItem := rfl
@[simp] theorem State.setEng_log (e : Nat) (x : Engine) : (s.setEng e x).log = s.log := rfl
@[simp] theorem State.setEng_logpi (e : Nat) (x : Engine) : (s.setEng e x).logpi = s.logpi := rfl
@[simp] theorem State.setEng_attached (e : Nat) (x : Engine) : (s.setEng e x).attached = s.attached := rfl
@[simp] theorem State.setEng_hbeat (e : Nat) (x : Engine) : (s.setEng e x).hbeat = s.hbeat := rfl
@[simp] theorem State.setEng_reads (e : Nat) (x : Engine) : (s.setEng e x).reads = s.reads := rfl
@[simp] theorem State.setEng_nextTag (e : Nat) (x : Engine) : (s.setEng e x).nextTag = s.nextTag := rfl
@[simp] theorem State.setEng_out (e : Nat) (x : Engine) : (s.setEng e x).out = s.out := rfl
@[simp] theorem State.setEng_cqs (e : Nat) (x : Engine) : (s.setEng e x).cqs = s.cqs := rfl
@[simp] theorem State.setEng_pecks (e : Nat) (x : Engine) : (s.setEng e x).pecks = s.pecks := rfl
@[simp] theorem State.setEng_phase (e : Nat) (x : Engine) : (s.setEng e x).phase = s.phase := rfl
@[simp] theorem State.setEng_ats (e : Nat) (x : Engine) : (s.setEng e x).ats = s.ats := rfl
@[simp] theorem State.setEng_atsInv (e : Nat) (x : Engine) : (s.setEng e x).atsInv = s.atsInv := rfl
@[simp] theorem State.setEng_keys (e : Nat) (x : Engine) : (s.setEng e x).keys = s.keys := rfl
@[simp] theorem State.setEng_arms (e : Nat) (x : Engine) : (s.setEng e x).arms = s.arms := rfl
@[simp] theorem State.setEng_retired (e : Nat) (x : Engine) : (s.setEng e x).retired = s.retired := rfl
@[simp] theorem State.setEng_insts (e : Nat) (x : Engine) : (s.setEng e x).insts = s.insts := rfl
@[simp] theorem State.setEng_msgs (e : Nat) (x : Engine) : (s.setEng e x).msgs = s.msgs := rfl
@[simp] theorem State.setEng_nextKey (e : Nat) (x : Engine) : (s.setEng e x).nextKey = s.nextKey := rfl
@[simp] theorem State.setEng_eps (e : Nat) (x : Engine) : (s.setEng e x).eps = s.eps := rfl
@[simp] theorem State.setEng_ports (e : Nat) (x : Engine) : (s.setEng e x).ports = s.ports := rfl
@[simp] theorem State.setEng_writes (e : Nat) (x : Engine) : (s.setEng e x).writes = s.writes := rfl
@[simp] theorem State.setEng_resps (e : Nat) (x : Engine) : (s.setEng e x).resps = s.resps := rfl
@[simp] theorem State.setEng_nextResp (e : Nat) (x : Engine) : (s.setEng e x).nextResp = s.nextResp := rfl
@[simp] theorem State.setEng_groups (e : Nat) (x : Engine) : (s.setEng e x).groups = s.groups := rfl
@[simp] theorem State.setEng_bindings (e : Nat) (x : Engine) : (s.setEng e x).bindings = s.bindings := rfl
@[simp] theorem State.setEng_landed (e : Nat) (x : Engine) : (s.setEng e x).landed = s.landed := rfl
@[simp] theorem State.setEng_nextWr (e : Nat) (x : Engine) : (s.setEng e x).nextWr = s.nextWr := rfl
@[simp] theorem State.setEng_deal (e : Nat) (x : Engine) : (s.setEng e x).deal = s.deal := rfl
@[simp] theorem State.setEng_outcomes (e : Nat) (x : Engine) : (s.setEng e x).outcomes = s.outcomes := rfl
@[simp] theorem State.setEng_arrivals (e : Nat) (x : Engine) : (s.setEng e x).arrivals = s.arrivals := rfl
@[simp] theorem State.setEng_windows (e : Nat) (x : Engine) : (s.setEng e x).windows = s.windows := rfl
@[simp] theorem State.setEng_drives (e : Nat) (x : Engine) : (s.setEng e x).drives = s.drives := rfl
@[simp] theorem State.setEng_vols (e : Nat) (x : Engine) : (s.setEng e x).vols = s.vols := rfl
@[simp] theorem State.setEng_vreqs (e : Nat) (x : Engine) : (s.setEng e x).vreqs = s.vreqs := rfl
@[simp] theorem State.setEng_nextVreq (e : Nat) (x : Engine) : (s.setEng e x).nextVreq = s.nextVreq := rfl
@[simp] theorem State.setEng_dcmds (e : Nat) (x : Engine) : (s.setEng e x).dcmds = s.dcmds := rfl
@[simp] theorem State.setEng_nvmes (e : Nat) (x : Engine) : (s.setEng e x).nvmes = s.nvmes := rfl
@[simp] theorem State.setEng_feeds (e : Nat) (x : Engine) : (s.setEng e x).feeds = s.feeds := rfl
@[simp] theorem State.setEng_nextDcmd (e : Nat) (x : Engine) : (s.setEng e x).nextDcmd = s.nextDcmd := rfl
@[simp] theorem State.setEng_fetches (e : Nat) (x : Engine) : (s.setEng e x).fetches = s.fetches := rfl
@[simp] theorem State.setEng_nextFetch (e : Nat) (x : Engine) : (s.setEng e x).nextFetch = s.nextFetch := rfl
@[simp] theorem State.setEng_scratch (e : Nat) (x : Engine) : (s.setEng e x).scratch = s.scratch := rfl
@[simp] theorem State.setEng_colls (e : Nat) (x : Engine) : (s.setEng e x).colls = s.colls := rfl
@[simp] theorem State.setEng_nextColl (e : Nat) (x : Engine) : (s.setEng e x).nextColl = s.nextColl := rfl
@[simp] theorem State.setEng_seqs (e : Nat) (x : Engine) : (s.setEng e x).seqs = s.seqs := rfl
@[simp] theorem State.setEng_shares (e : Nat) (x : Engine) : (s.setEng e x).shares = s.shares := rfl
@[simp] theorem State.setEng_kvmoves (e : Nat) (x : Engine) : (s.setEng e x).kvmoves = s.kvmoves := rfl
@[simp] theorem State.setEng_nextMove (e : Nat) (x : Engine) : (s.setEng e x).nextMove = s.nextMove := rfl
@[simp] theorem State.setEng_alarmLive (e : Nat) (x : Engine) : (s.setEng e x).alarmLive = s.alarmLive := rfl
@[simp] theorem State.setEng_d3cold (e : Nat) (x : Engine) : (s.setEng e x).d3cold = s.d3cold := rfl
@[simp] theorem State.setEng_ckpts (e : Nat) (x : Engine) : (s.setEng e x).ckpts = s.ckpts := rfl
@[simp] theorem State.setEng_notices (e : Nat) (x : Engine) : (s.setEng e x).notices = s.notices := rfl
@[simp] theorem State.setEng_mirrors (e : Nat) (x : Engine) : (s.setEng e x).mirrors = s.mirrors := rfl
@[simp] theorem State.setEng_pair (e : Nat) (x : Engine) : (s.setEng e x).pair = s.pair := rfl
@[simp] theorem State.setEng_i3c (e : Nat) (x : Engine) : (s.setEng e x).i3c = s.i3c := rfl
@[simp] theorem State.setEng_fw (e : Nat) (x : Engine) : (s.setEng e x).fw = s.fw := rfl
@[simp] theorem State.setEng_watches (e : Nat) (x : Engine) : (s.setEng e x).watches = s.watches := rfl
@[simp] theorem State.setEng_replays (e : Nat) (x : Engine) : (s.setEng e x).replays = s.replays := rfl
@[simp] theorem State.setEng_verdicts (e : Nat) (x : Engine) : (s.setEng e x).verdicts = s.verdicts := rfl
@[simp] theorem State.setEng_warms (e : Nat) (x : Engine) : (s.setEng e x).warms = s.warms := rfl
@[simp] theorem State.setEng_mtr (e : Nat) (x : Engine) : (s.setEng e x).mtr = s.mtr := rfl
@[simp] theorem State.setEng_minute (e : Nat) (x : Engine) : (s.setEng e x).minute = s.minute := rfl
@[simp] theorem State.setEng_pcie (e : Nat) (x : Engine) : (s.setEng e x).pcie = s.pcie := rfl
@[simp] theorem State.setEng_intg (e : Nat) (x : Engine) : (s.setEng e x).intg = s.intg := rfl
@[simp] theorem State.setEng_pwr (e : Nat) (x : Engine) : (s.setEng e x).pwr = s.pwr := rfl
@[simp] theorem State.setEng_clk (e : Nat) (x : Engine) : (s.setEng e x).clk = s.clk := rfl
@[simp] theorem State.setEng_rcv (e : Nat) (x : Engine) : (s.setEng e x).rcv = s.rcv := rfl

@[simp] theorem State.updEng_pending (e : Nat) (f : Engine → Engine) : (s.updEng e f).pending = s.pending := rfl
@[simp] theorem State.updEng_mem (e : Nat) (f : Engine → Engine) : (s.updEng e f).mem = s.mem := rfl
@[simp] theorem State.updEng_regions (e : Nat) (f : Engine → Engine) : (s.updEng e f).regions = s.regions := rfl
@[simp] theorem State.updEng_barriers (e : Nat) (f : Engine → Engine) : (s.updEng e f).barriers = s.barriers := rfl
@[simp] theorem State.updEng_deriveFill (e : Nat) (f : Engine → Engine) : (s.updEng e f).deriveFill = s.deriveFill := rfl
@[simp] theorem State.updEng_deriveRsv (e : Nat) (f : Engine → Engine) : (s.updEng e f).deriveRsv = s.deriveRsv := rfl
@[simp] theorem State.updEng_deriveBack (e : Nat) (f : Engine → Engine) : (s.updEng e f).deriveBack = s.deriveBack := rfl
@[simp] theorem State.updEng_revokes (e : Nat) (f : Engine → Engine) : (s.updEng e f).revokes = s.revokes := rfl
@[simp] theorem State.updEng_starts (e : Nat) (f : Engine → Engine) : (s.updEng e f).starts = s.starts := rfl
@[simp] theorem State.updEng_time (e : Nat) (f : Engine → Engine) : (s.updEng e f).time = s.time := rfl
@[simp] theorem State.updEng_mono (e : Nat) (f : Engine → Engine) : (s.updEng e f).mono = s.mono := rfl
@[simp] theorem State.updEng_qcycles (e : Nat) (f : Engine → Engine) : (s.updEng e f).qcycles = s.qcycles := rfl
@[simp] theorem State.updEng_nextCopy (e : Nat) (f : Engine → Engine) : (s.updEng e f).nextCopy = s.nextCopy := rfl
@[simp] theorem State.updEng_free (e : Nat) (f : Engine → Engine) : (s.updEng e f).free = s.free := rfl
@[simp] theorem State.updEng_secondary (e : Nat) (f : Engine → Engine) : (s.updEng e f).secondary = s.secondary := rfl
@[simp] theorem State.updEng_regs (e : Nat) (f : Engine → Engine) : (s.updEng e f).regs = s.regs := rfl
@[simp] theorem State.updEng_latent (e : Nat) (f : Engine → Engine) : (s.updEng e f).latent = s.latent := rfl
@[simp] theorem State.updEng_fns (e : Nat) (f : Engine → Engine) : (s.updEng e f).fns = s.fns := rfl
@[simp] theorem State.updEng_springs (e : Nat) (f : Engine → Engine) : (s.updEng e f).springs = s.springs := rfl
@[simp] theorem State.updEng_rings (e : Nat) (f : Engine → Engine) : (s.updEng e f).rings = s.rings := rfl
@[simp] theorem State.updEng_items (e : Nat) (f : Engine → Engine) : (s.updEng e f).items = s.items := rfl
@[simp] theorem State.updEng_nextItem (e : Nat) (f : Engine → Engine) : (s.updEng e f).nextItem = s.nextItem := rfl
@[simp] theorem State.updEng_log (e : Nat) (f : Engine → Engine) : (s.updEng e f).log = s.log := rfl
@[simp] theorem State.updEng_logpi (e : Nat) (f : Engine → Engine) : (s.updEng e f).logpi = s.logpi := rfl
@[simp] theorem State.updEng_attached (e : Nat) (f : Engine → Engine) : (s.updEng e f).attached = s.attached := rfl
@[simp] theorem State.updEng_hbeat (e : Nat) (f : Engine → Engine) : (s.updEng e f).hbeat = s.hbeat := rfl
@[simp] theorem State.updEng_reads (e : Nat) (f : Engine → Engine) : (s.updEng e f).reads = s.reads := rfl
@[simp] theorem State.updEng_nextTag (e : Nat) (f : Engine → Engine) : (s.updEng e f).nextTag = s.nextTag := rfl
@[simp] theorem State.updEng_out (e : Nat) (f : Engine → Engine) : (s.updEng e f).out = s.out := rfl
@[simp] theorem State.updEng_cqs (e : Nat) (f : Engine → Engine) : (s.updEng e f).cqs = s.cqs := rfl
@[simp] theorem State.updEng_pecks (e : Nat) (f : Engine → Engine) : (s.updEng e f).pecks = s.pecks := rfl
@[simp] theorem State.updEng_phase (e : Nat) (f : Engine → Engine) : (s.updEng e f).phase = s.phase := rfl
@[simp] theorem State.updEng_ats (e : Nat) (f : Engine → Engine) : (s.updEng e f).ats = s.ats := rfl
@[simp] theorem State.updEng_atsInv (e : Nat) (f : Engine → Engine) : (s.updEng e f).atsInv = s.atsInv := rfl
@[simp] theorem State.updEng_keys (e : Nat) (f : Engine → Engine) : (s.updEng e f).keys = s.keys := rfl
@[simp] theorem State.updEng_arms (e : Nat) (f : Engine → Engine) : (s.updEng e f).arms = s.arms := rfl
@[simp] theorem State.updEng_retired (e : Nat) (f : Engine → Engine) : (s.updEng e f).retired = s.retired := rfl
@[simp] theorem State.updEng_insts (e : Nat) (f : Engine → Engine) : (s.updEng e f).insts = s.insts := rfl
@[simp] theorem State.updEng_msgs (e : Nat) (f : Engine → Engine) : (s.updEng e f).msgs = s.msgs := rfl
@[simp] theorem State.updEng_nextKey (e : Nat) (f : Engine → Engine) : (s.updEng e f).nextKey = s.nextKey := rfl
@[simp] theorem State.updEng_eps (e : Nat) (f : Engine → Engine) : (s.updEng e f).eps = s.eps := rfl
@[simp] theorem State.updEng_ports (e : Nat) (f : Engine → Engine) : (s.updEng e f).ports = s.ports := rfl
@[simp] theorem State.updEng_writes (e : Nat) (f : Engine → Engine) : (s.updEng e f).writes = s.writes := rfl
@[simp] theorem State.updEng_resps (e : Nat) (f : Engine → Engine) : (s.updEng e f).resps = s.resps := rfl
@[simp] theorem State.updEng_nextResp (e : Nat) (f : Engine → Engine) : (s.updEng e f).nextResp = s.nextResp := rfl
@[simp] theorem State.updEng_groups (e : Nat) (f : Engine → Engine) : (s.updEng e f).groups = s.groups := rfl
@[simp] theorem State.updEng_bindings (e : Nat) (f : Engine → Engine) : (s.updEng e f).bindings = s.bindings := rfl
@[simp] theorem State.updEng_landed (e : Nat) (f : Engine → Engine) : (s.updEng e f).landed = s.landed := rfl
@[simp] theorem State.updEng_nextWr (e : Nat) (f : Engine → Engine) : (s.updEng e f).nextWr = s.nextWr := rfl
@[simp] theorem State.updEng_deal (e : Nat) (f : Engine → Engine) : (s.updEng e f).deal = s.deal := rfl
@[simp] theorem State.updEng_outcomes (e : Nat) (f : Engine → Engine) : (s.updEng e f).outcomes = s.outcomes := rfl
@[simp] theorem State.updEng_arrivals (e : Nat) (f : Engine → Engine) : (s.updEng e f).arrivals = s.arrivals := rfl
@[simp] theorem State.updEng_windows (e : Nat) (f : Engine → Engine) : (s.updEng e f).windows = s.windows := rfl
@[simp] theorem State.updEng_drives (e : Nat) (f : Engine → Engine) : (s.updEng e f).drives = s.drives := rfl
@[simp] theorem State.updEng_vols (e : Nat) (f : Engine → Engine) : (s.updEng e f).vols = s.vols := rfl
@[simp] theorem State.updEng_vreqs (e : Nat) (f : Engine → Engine) : (s.updEng e f).vreqs = s.vreqs := rfl
@[simp] theorem State.updEng_nextVreq (e : Nat) (f : Engine → Engine) : (s.updEng e f).nextVreq = s.nextVreq := rfl
@[simp] theorem State.updEng_dcmds (e : Nat) (f : Engine → Engine) : (s.updEng e f).dcmds = s.dcmds := rfl
@[simp] theorem State.updEng_nvmes (e : Nat) (f : Engine → Engine) : (s.updEng e f).nvmes = s.nvmes := rfl
@[simp] theorem State.updEng_feeds (e : Nat) (f : Engine → Engine) : (s.updEng e f).feeds = s.feeds := rfl
@[simp] theorem State.updEng_nextDcmd (e : Nat) (f : Engine → Engine) : (s.updEng e f).nextDcmd = s.nextDcmd := rfl
@[simp] theorem State.updEng_fetches (e : Nat) (f : Engine → Engine) : (s.updEng e f).fetches = s.fetches := rfl
@[simp] theorem State.updEng_nextFetch (e : Nat) (f : Engine → Engine) : (s.updEng e f).nextFetch = s.nextFetch := rfl
@[simp] theorem State.updEng_scratch (e : Nat) (f : Engine → Engine) : (s.updEng e f).scratch = s.scratch := rfl
@[simp] theorem State.updEng_colls (e : Nat) (f : Engine → Engine) : (s.updEng e f).colls = s.colls := rfl
@[simp] theorem State.updEng_nextColl (e : Nat) (f : Engine → Engine) : (s.updEng e f).nextColl = s.nextColl := rfl
@[simp] theorem State.updEng_seqs (e : Nat) (f : Engine → Engine) : (s.updEng e f).seqs = s.seqs := rfl
@[simp] theorem State.updEng_shares (e : Nat) (f : Engine → Engine) : (s.updEng e f).shares = s.shares := rfl
@[simp] theorem State.updEng_kvmoves (e : Nat) (f : Engine → Engine) : (s.updEng e f).kvmoves = s.kvmoves := rfl
@[simp] theorem State.updEng_nextMove (e : Nat) (f : Engine → Engine) : (s.updEng e f).nextMove = s.nextMove := rfl
@[simp] theorem State.updEng_alarmLive (e : Nat) (f : Engine → Engine) : (s.updEng e f).alarmLive = s.alarmLive := rfl
@[simp] theorem State.updEng_d3cold (e : Nat) (f : Engine → Engine) : (s.updEng e f).d3cold = s.d3cold := rfl
@[simp] theorem State.updEng_ckpts (e : Nat) (f : Engine → Engine) : (s.updEng e f).ckpts = s.ckpts := rfl
@[simp] theorem State.updEng_notices (e : Nat) (f : Engine → Engine) : (s.updEng e f).notices = s.notices := rfl
@[simp] theorem State.updEng_mirrors (e : Nat) (f : Engine → Engine) : (s.updEng e f).mirrors = s.mirrors := rfl
@[simp] theorem State.updEng_pair (e : Nat) (f : Engine → Engine) : (s.updEng e f).pair = s.pair := rfl
@[simp] theorem State.updEng_i3c (e : Nat) (f : Engine → Engine) : (s.updEng e f).i3c = s.i3c := rfl
@[simp] theorem State.updEng_fw (e : Nat) (f : Engine → Engine) : (s.updEng e f).fw = s.fw := rfl
@[simp] theorem State.updEng_watches (e : Nat) (f : Engine → Engine) : (s.updEng e f).watches = s.watches := rfl
@[simp] theorem State.updEng_replays (e : Nat) (f : Engine → Engine) : (s.updEng e f).replays = s.replays := rfl
@[simp] theorem State.updEng_verdicts (e : Nat) (f : Engine → Engine) : (s.updEng e f).verdicts = s.verdicts := rfl
@[simp] theorem State.updEng_warms (e : Nat) (f : Engine → Engine) : (s.updEng e f).warms = s.warms := rfl
@[simp] theorem State.updEng_mtr (e : Nat) (f : Engine → Engine) : (s.updEng e f).mtr = s.mtr := rfl
@[simp] theorem State.updEng_minute (e : Nat) (f : Engine → Engine) : (s.updEng e f).minute = s.minute := rfl
@[simp] theorem State.updEng_pcie (e : Nat) (f : Engine → Engine) : (s.updEng e f).pcie = s.pcie := rfl
@[simp] theorem State.updEng_intg (e : Nat) (f : Engine → Engine) : (s.updEng e f).intg = s.intg := rfl
@[simp] theorem State.updEng_pwr (e : Nat) (f : Engine → Engine) : (s.updEng e f).pwr = s.pwr := rfl
@[simp] theorem State.updEng_clk (e : Nat) (f : Engine → Engine) : (s.updEng e f).clk = s.clk := rfl
@[simp] theorem State.updEng_rcv (e : Nat) (f : Engine → Engine) : (s.updEng e f).rcv = s.rcv := rfl

@[simp] theorem State.setCtx_pending (c : CtxId) (x : Ctx) : (s.setCtx c x).pending = s.pending := rfl
@[simp] theorem State.setCtx_mem (c : CtxId) (x : Ctx) : (s.setCtx c x).mem = s.mem := rfl
@[simp] theorem State.setCtx_regions (c : CtxId) (x : Ctx) : (s.setCtx c x).regions = s.regions := rfl
@[simp] theorem State.setCtx_barriers (c : CtxId) (x : Ctx) : (s.setCtx c x).barriers = s.barriers := rfl
@[simp] theorem State.setCtx_deriveFill (c : CtxId) (x : Ctx) : (s.setCtx c x).deriveFill = s.deriveFill := rfl
@[simp] theorem State.setCtx_deriveRsv (c : CtxId) (x : Ctx) : (s.setCtx c x).deriveRsv = s.deriveRsv := rfl
@[simp] theorem State.setCtx_deriveBack (c : CtxId) (x : Ctx) : (s.setCtx c x).deriveBack = s.deriveBack := rfl
@[simp] theorem State.setCtx_revokes (c : CtxId) (x : Ctx) : (s.setCtx c x).revokes = s.revokes := rfl
@[simp] theorem State.setCtx_starts (c : CtxId) (x : Ctx) : (s.setCtx c x).starts = s.starts := rfl
@[simp] theorem State.setCtx_time (c : CtxId) (x : Ctx) : (s.setCtx c x).time = s.time := rfl
@[simp] theorem State.setCtx_mono (c : CtxId) (x : Ctx) : (s.setCtx c x).mono = s.mono := rfl
@[simp] theorem State.setCtx_qcycles (c : CtxId) (x : Ctx) : (s.setCtx c x).qcycles = s.qcycles := rfl
@[simp] theorem State.setCtx_nextCopy (c : CtxId) (x : Ctx) : (s.setCtx c x).nextCopy = s.nextCopy := rfl
@[simp] theorem State.setCtx_free (c : CtxId) (x : Ctx) : (s.setCtx c x).free = s.free := rfl
@[simp] theorem State.setCtx_secondary (c : CtxId) (x : Ctx) : (s.setCtx c x).secondary = s.secondary := rfl
@[simp] theorem State.setCtx_regs (c : CtxId) (x : Ctx) : (s.setCtx c x).regs = s.regs := rfl
@[simp] theorem State.setCtx_latent (c : CtxId) (x : Ctx) : (s.setCtx c x).latent = s.latent := rfl
@[simp] theorem State.setCtx_fns (c : CtxId) (x : Ctx) : (s.setCtx c x).fns = s.fns := rfl
@[simp] theorem State.setCtx_springs (c : CtxId) (x : Ctx) : (s.setCtx c x).springs = s.springs := rfl
@[simp] theorem State.setCtx_rings (c : CtxId) (x : Ctx) : (s.setCtx c x).rings = s.rings := rfl
@[simp] theorem State.setCtx_items (c : CtxId) (x : Ctx) : (s.setCtx c x).items = s.items := rfl
@[simp] theorem State.setCtx_nextItem (c : CtxId) (x : Ctx) : (s.setCtx c x).nextItem = s.nextItem := rfl
@[simp] theorem State.setCtx_log (c : CtxId) (x : Ctx) : (s.setCtx c x).log = s.log := rfl
@[simp] theorem State.setCtx_logpi (c : CtxId) (x : Ctx) : (s.setCtx c x).logpi = s.logpi := rfl
@[simp] theorem State.setCtx_attached (c : CtxId) (x : Ctx) : (s.setCtx c x).attached = s.attached := rfl
@[simp] theorem State.setCtx_hbeat (c : CtxId) (x : Ctx) : (s.setCtx c x).hbeat = s.hbeat := rfl
@[simp] theorem State.setCtx_reads (c : CtxId) (x : Ctx) : (s.setCtx c x).reads = s.reads := rfl
@[simp] theorem State.setCtx_nextTag (c : CtxId) (x : Ctx) : (s.setCtx c x).nextTag = s.nextTag := rfl
@[simp] theorem State.setCtx_out (c : CtxId) (x : Ctx) : (s.setCtx c x).out = s.out := rfl
@[simp] theorem State.setCtx_cqs (c : CtxId) (x : Ctx) : (s.setCtx c x).cqs = s.cqs := rfl
@[simp] theorem State.setCtx_pecks (c : CtxId) (x : Ctx) : (s.setCtx c x).pecks = s.pecks := rfl
@[simp] theorem State.setCtx_phase (c : CtxId) (x : Ctx) : (s.setCtx c x).phase = s.phase := rfl
@[simp] theorem State.setCtx_ats (c : CtxId) (x : Ctx) : (s.setCtx c x).ats = s.ats := rfl
@[simp] theorem State.setCtx_atsInv (c : CtxId) (x : Ctx) : (s.setCtx c x).atsInv = s.atsInv := rfl
@[simp] theorem State.setCtx_keys (c : CtxId) (x : Ctx) : (s.setCtx c x).keys = s.keys := rfl
@[simp] theorem State.setCtx_arms (c : CtxId) (x : Ctx) : (s.setCtx c x).arms = s.arms := rfl
@[simp] theorem State.setCtx_retired (c : CtxId) (x : Ctx) : (s.setCtx c x).retired = s.retired := rfl
@[simp] theorem State.setCtx_insts (c : CtxId) (x : Ctx) : (s.setCtx c x).insts = s.insts := rfl
@[simp] theorem State.setCtx_msgs (c : CtxId) (x : Ctx) : (s.setCtx c x).msgs = s.msgs := rfl
@[simp] theorem State.setCtx_nextKey (c : CtxId) (x : Ctx) : (s.setCtx c x).nextKey = s.nextKey := rfl
@[simp] theorem State.setCtx_eps (c : CtxId) (x : Ctx) : (s.setCtx c x).eps = s.eps := rfl
@[simp] theorem State.setCtx_ports (c : CtxId) (x : Ctx) : (s.setCtx c x).ports = s.ports := rfl
@[simp] theorem State.setCtx_writes (c : CtxId) (x : Ctx) : (s.setCtx c x).writes = s.writes := rfl
@[simp] theorem State.setCtx_resps (c : CtxId) (x : Ctx) : (s.setCtx c x).resps = s.resps := rfl
@[simp] theorem State.setCtx_nextResp (c : CtxId) (x : Ctx) : (s.setCtx c x).nextResp = s.nextResp := rfl
@[simp] theorem State.setCtx_groups (c : CtxId) (x : Ctx) : (s.setCtx c x).groups = s.groups := rfl
@[simp] theorem State.setCtx_bindings (c : CtxId) (x : Ctx) : (s.setCtx c x).bindings = s.bindings := rfl
@[simp] theorem State.setCtx_landed (c : CtxId) (x : Ctx) : (s.setCtx c x).landed = s.landed := rfl
@[simp] theorem State.setCtx_nextWr (c : CtxId) (x : Ctx) : (s.setCtx c x).nextWr = s.nextWr := rfl
@[simp] theorem State.setCtx_deal (c : CtxId) (x : Ctx) : (s.setCtx c x).deal = s.deal := rfl
@[simp] theorem State.setCtx_outcomes (c : CtxId) (x : Ctx) : (s.setCtx c x).outcomes = s.outcomes := rfl
@[simp] theorem State.setCtx_arrivals (c : CtxId) (x : Ctx) : (s.setCtx c x).arrivals = s.arrivals := rfl
@[simp] theorem State.setCtx_windows (c : CtxId) (x : Ctx) : (s.setCtx c x).windows = s.windows := rfl
@[simp] theorem State.setCtx_drives (c : CtxId) (x : Ctx) : (s.setCtx c x).drives = s.drives := rfl
@[simp] theorem State.setCtx_vols (c : CtxId) (x : Ctx) : (s.setCtx c x).vols = s.vols := rfl
@[simp] theorem State.setCtx_vreqs (c : CtxId) (x : Ctx) : (s.setCtx c x).vreqs = s.vreqs := rfl
@[simp] theorem State.setCtx_nextVreq (c : CtxId) (x : Ctx) : (s.setCtx c x).nextVreq = s.nextVreq := rfl
@[simp] theorem State.setCtx_dcmds (c : CtxId) (x : Ctx) : (s.setCtx c x).dcmds = s.dcmds := rfl
@[simp] theorem State.setCtx_nvmes (c : CtxId) (x : Ctx) : (s.setCtx c x).nvmes = s.nvmes := rfl
@[simp] theorem State.setCtx_feeds (c : CtxId) (x : Ctx) : (s.setCtx c x).feeds = s.feeds := rfl
@[simp] theorem State.setCtx_nextDcmd (c : CtxId) (x : Ctx) : (s.setCtx c x).nextDcmd = s.nextDcmd := rfl
@[simp] theorem State.setCtx_fetches (c : CtxId) (x : Ctx) : (s.setCtx c x).fetches = s.fetches := rfl
@[simp] theorem State.setCtx_nextFetch (c : CtxId) (x : Ctx) : (s.setCtx c x).nextFetch = s.nextFetch := rfl
@[simp] theorem State.setCtx_scratch (c : CtxId) (x : Ctx) : (s.setCtx c x).scratch = s.scratch := rfl
@[simp] theorem State.setCtx_colls (c : CtxId) (x : Ctx) : (s.setCtx c x).colls = s.colls := rfl
@[simp] theorem State.setCtx_nextColl (c : CtxId) (x : Ctx) : (s.setCtx c x).nextColl = s.nextColl := rfl
@[simp] theorem State.setCtx_seqs (c : CtxId) (x : Ctx) : (s.setCtx c x).seqs = s.seqs := rfl
@[simp] theorem State.setCtx_shares (c : CtxId) (x : Ctx) : (s.setCtx c x).shares = s.shares := rfl
@[simp] theorem State.setCtx_kvmoves (c : CtxId) (x : Ctx) : (s.setCtx c x).kvmoves = s.kvmoves := rfl
@[simp] theorem State.setCtx_nextMove (c : CtxId) (x : Ctx) : (s.setCtx c x).nextMove = s.nextMove := rfl
@[simp] theorem State.setCtx_alarmLive (c : CtxId) (x : Ctx) : (s.setCtx c x).alarmLive = s.alarmLive := rfl
@[simp] theorem State.setCtx_d3cold (c : CtxId) (x : Ctx) : (s.setCtx c x).d3cold = s.d3cold := rfl
@[simp] theorem State.setCtx_ckpts (c : CtxId) (x : Ctx) : (s.setCtx c x).ckpts = s.ckpts := rfl
@[simp] theorem State.setCtx_notices (c : CtxId) (x : Ctx) : (s.setCtx c x).notices = s.notices := rfl
@[simp] theorem State.setCtx_mirrors (c : CtxId) (x : Ctx) : (s.setCtx c x).mirrors = s.mirrors := rfl
@[simp] theorem State.setCtx_pair (c : CtxId) (x : Ctx) : (s.setCtx c x).pair = s.pair := rfl
@[simp] theorem State.setCtx_i3c (c : CtxId) (x : Ctx) : (s.setCtx c x).i3c = s.i3c := rfl
@[simp] theorem State.setCtx_fw (c : CtxId) (x : Ctx) : (s.setCtx c x).fw = s.fw := rfl
@[simp] theorem State.setCtx_watches (c : CtxId) (x : Ctx) : (s.setCtx c x).watches = s.watches := rfl
@[simp] theorem State.setCtx_replays (c : CtxId) (x : Ctx) : (s.setCtx c x).replays = s.replays := rfl
@[simp] theorem State.setCtx_verdicts (c : CtxId) (x : Ctx) : (s.setCtx c x).verdicts = s.verdicts := rfl
@[simp] theorem State.setCtx_warms (c : CtxId) (x : Ctx) : (s.setCtx c x).warms = s.warms := rfl
@[simp] theorem State.setCtx_mtr (c : CtxId) (x : Ctx) : (s.setCtx c x).mtr = s.mtr := rfl
@[simp] theorem State.setCtx_minute (c : CtxId) (x : Ctx) : (s.setCtx c x).minute = s.minute := rfl
@[simp] theorem State.setCtx_pcie (c : CtxId) (x : Ctx) : (s.setCtx c x).pcie = s.pcie := rfl
@[simp] theorem State.setCtx_intg (c : CtxId) (x : Ctx) : (s.setCtx c x).intg = s.intg := rfl
@[simp] theorem State.setCtx_pwr (c : CtxId) (x : Ctx) : (s.setCtx c x).pwr = s.pwr := rfl
@[simp] theorem State.setCtx_clk (c : CtxId) (x : Ctx) : (s.setCtx c x).clk = s.clk := rfl
@[simp] theorem State.setCtx_rcv (c : CtxId) (x : Ctx) : (s.setCtx c x).rcv = s.rcv := rfl

@[simp] theorem State.updCtx_pending (c : CtxId) (f : Ctx → Ctx) : (s.updCtx c f).pending = s.pending := rfl
@[simp] theorem State.updCtx_mem (c : CtxId) (f : Ctx → Ctx) : (s.updCtx c f).mem = s.mem := rfl
@[simp] theorem State.updCtx_regions (c : CtxId) (f : Ctx → Ctx) : (s.updCtx c f).regions = s.regions := rfl
@[simp] theorem State.updCtx_barriers (c : CtxId) (f : Ctx → Ctx) : (s.updCtx c f).barriers = s.barriers := rfl
@[simp] theorem State.updCtx_deriveFill (c : CtxId) (f : Ctx → Ctx) : (s.updCtx c f).deriveFill = s.deriveFill := rfl
@[simp] theorem State.updCtx_deriveRsv (c : CtxId) (f : Ctx → Ctx) : (s.updCtx c f).deriveRsv = s.deriveRsv := rfl
@[simp] theorem State.updCtx_deriveBack (c : CtxId) (f : Ctx → Ctx) : (s.updCtx c f).deriveBack = s.deriveBack := rfl
@[simp] theorem State.updCtx_revokes (c : CtxId) (f : Ctx → Ctx) : (s.updCtx c f).revokes = s.revokes := rfl
@[simp] theorem State.updCtx_starts (c : CtxId) (f : Ctx → Ctx) : (s.updCtx c f).starts = s.starts := rfl
@[simp] theorem State.updCtx_time (c : CtxId) (f : Ctx → Ctx) : (s.updCtx c f).time = s.time := rfl
@[simp] theorem State.updCtx_mono (c : CtxId) (f : Ctx → Ctx) : (s.updCtx c f).mono = s.mono := rfl
@[simp] theorem State.updCtx_qcycles (c : CtxId) (f : Ctx → Ctx) : (s.updCtx c f).qcycles = s.qcycles := rfl
@[simp] theorem State.updCtx_nextCopy (c : CtxId) (f : Ctx → Ctx) : (s.updCtx c f).nextCopy = s.nextCopy := rfl
@[simp] theorem State.updCtx_free (c : CtxId) (f : Ctx → Ctx) : (s.updCtx c f).free = s.free := rfl
@[simp] theorem State.updCtx_secondary (c : CtxId) (f : Ctx → Ctx) : (s.updCtx c f).secondary = s.secondary := rfl
@[simp] theorem State.updCtx_regs (c : CtxId) (f : Ctx → Ctx) : (s.updCtx c f).regs = s.regs := rfl
@[simp] theorem State.updCtx_latent (c : CtxId) (f : Ctx → Ctx) : (s.updCtx c f).latent = s.latent := rfl
@[simp] theorem State.updCtx_fns (c : CtxId) (f : Ctx → Ctx) : (s.updCtx c f).fns = s.fns := rfl
@[simp] theorem State.updCtx_springs (c : CtxId) (f : Ctx → Ctx) : (s.updCtx c f).springs = s.springs := rfl
@[simp] theorem State.updCtx_rings (c : CtxId) (f : Ctx → Ctx) : (s.updCtx c f).rings = s.rings := rfl
@[simp] theorem State.updCtx_items (c : CtxId) (f : Ctx → Ctx) : (s.updCtx c f).items = s.items := rfl
@[simp] theorem State.updCtx_nextItem (c : CtxId) (f : Ctx → Ctx) : (s.updCtx c f).nextItem = s.nextItem := rfl
@[simp] theorem State.updCtx_log (c : CtxId) (f : Ctx → Ctx) : (s.updCtx c f).log = s.log := rfl
@[simp] theorem State.updCtx_logpi (c : CtxId) (f : Ctx → Ctx) : (s.updCtx c f).logpi = s.logpi := rfl
@[simp] theorem State.updCtx_attached (c : CtxId) (f : Ctx → Ctx) : (s.updCtx c f).attached = s.attached := rfl
@[simp] theorem State.updCtx_hbeat (c : CtxId) (f : Ctx → Ctx) : (s.updCtx c f).hbeat = s.hbeat := rfl
@[simp] theorem State.updCtx_reads (c : CtxId) (f : Ctx → Ctx) : (s.updCtx c f).reads = s.reads := rfl
@[simp] theorem State.updCtx_nextTag (c : CtxId) (f : Ctx → Ctx) : (s.updCtx c f).nextTag = s.nextTag := rfl
@[simp] theorem State.updCtx_out (c : CtxId) (f : Ctx → Ctx) : (s.updCtx c f).out = s.out := rfl
@[simp] theorem State.updCtx_cqs (c : CtxId) (f : Ctx → Ctx) : (s.updCtx c f).cqs = s.cqs := rfl
@[simp] theorem State.updCtx_pecks (c : CtxId) (f : Ctx → Ctx) : (s.updCtx c f).pecks = s.pecks := rfl
@[simp] theorem State.updCtx_phase (c : CtxId) (f : Ctx → Ctx) : (s.updCtx c f).phase = s.phase := rfl
@[simp] theorem State.updCtx_ats (c : CtxId) (f : Ctx → Ctx) : (s.updCtx c f).ats = s.ats := rfl
@[simp] theorem State.updCtx_atsInv (c : CtxId) (f : Ctx → Ctx) : (s.updCtx c f).atsInv = s.atsInv := rfl
@[simp] theorem State.updCtx_keys (c : CtxId) (f : Ctx → Ctx) : (s.updCtx c f).keys = s.keys := rfl
@[simp] theorem State.updCtx_arms (c : CtxId) (f : Ctx → Ctx) : (s.updCtx c f).arms = s.arms := rfl
@[simp] theorem State.updCtx_retired (c : CtxId) (f : Ctx → Ctx) : (s.updCtx c f).retired = s.retired := rfl
@[simp] theorem State.updCtx_insts (c : CtxId) (f : Ctx → Ctx) : (s.updCtx c f).insts = s.insts := rfl
@[simp] theorem State.updCtx_msgs (c : CtxId) (f : Ctx → Ctx) : (s.updCtx c f).msgs = s.msgs := rfl
@[simp] theorem State.updCtx_nextKey (c : CtxId) (f : Ctx → Ctx) : (s.updCtx c f).nextKey = s.nextKey := rfl
@[simp] theorem State.updCtx_eps (c : CtxId) (f : Ctx → Ctx) : (s.updCtx c f).eps = s.eps := rfl
@[simp] theorem State.updCtx_ports (c : CtxId) (f : Ctx → Ctx) : (s.updCtx c f).ports = s.ports := rfl
@[simp] theorem State.updCtx_writes (c : CtxId) (f : Ctx → Ctx) : (s.updCtx c f).writes = s.writes := rfl
@[simp] theorem State.updCtx_resps (c : CtxId) (f : Ctx → Ctx) : (s.updCtx c f).resps = s.resps := rfl
@[simp] theorem State.updCtx_nextResp (c : CtxId) (f : Ctx → Ctx) : (s.updCtx c f).nextResp = s.nextResp := rfl
@[simp] theorem State.updCtx_groups (c : CtxId) (f : Ctx → Ctx) : (s.updCtx c f).groups = s.groups := rfl
@[simp] theorem State.updCtx_bindings (c : CtxId) (f : Ctx → Ctx) : (s.updCtx c f).bindings = s.bindings := rfl
@[simp] theorem State.updCtx_landed (c : CtxId) (f : Ctx → Ctx) : (s.updCtx c f).landed = s.landed := rfl
@[simp] theorem State.updCtx_nextWr (c : CtxId) (f : Ctx → Ctx) : (s.updCtx c f).nextWr = s.nextWr := rfl
@[simp] theorem State.updCtx_deal (c : CtxId) (f : Ctx → Ctx) : (s.updCtx c f).deal = s.deal := rfl
@[simp] theorem State.updCtx_outcomes (c : CtxId) (f : Ctx → Ctx) : (s.updCtx c f).outcomes = s.outcomes := rfl
@[simp] theorem State.updCtx_arrivals (c : CtxId) (f : Ctx → Ctx) : (s.updCtx c f).arrivals = s.arrivals := rfl
@[simp] theorem State.updCtx_windows (c : CtxId) (f : Ctx → Ctx) : (s.updCtx c f).windows = s.windows := rfl
@[simp] theorem State.updCtx_drives (c : CtxId) (f : Ctx → Ctx) : (s.updCtx c f).drives = s.drives := rfl
@[simp] theorem State.updCtx_vols (c : CtxId) (f : Ctx → Ctx) : (s.updCtx c f).vols = s.vols := rfl
@[simp] theorem State.updCtx_vreqs (c : CtxId) (f : Ctx → Ctx) : (s.updCtx c f).vreqs = s.vreqs := rfl
@[simp] theorem State.updCtx_nextVreq (c : CtxId) (f : Ctx → Ctx) : (s.updCtx c f).nextVreq = s.nextVreq := rfl
@[simp] theorem State.updCtx_dcmds (c : CtxId) (f : Ctx → Ctx) : (s.updCtx c f).dcmds = s.dcmds := rfl
@[simp] theorem State.updCtx_nvmes (c : CtxId) (f : Ctx → Ctx) : (s.updCtx c f).nvmes = s.nvmes := rfl
@[simp] theorem State.updCtx_feeds (c : CtxId) (f : Ctx → Ctx) : (s.updCtx c f).feeds = s.feeds := rfl
@[simp] theorem State.updCtx_nextDcmd (c : CtxId) (f : Ctx → Ctx) : (s.updCtx c f).nextDcmd = s.nextDcmd := rfl
@[simp] theorem State.updCtx_fetches (c : CtxId) (f : Ctx → Ctx) : (s.updCtx c f).fetches = s.fetches := rfl
@[simp] theorem State.updCtx_nextFetch (c : CtxId) (f : Ctx → Ctx) : (s.updCtx c f).nextFetch = s.nextFetch := rfl
@[simp] theorem State.updCtx_scratch (c : CtxId) (f : Ctx → Ctx) : (s.updCtx c f).scratch = s.scratch := rfl
@[simp] theorem State.updCtx_colls (c : CtxId) (f : Ctx → Ctx) : (s.updCtx c f).colls = s.colls := rfl
@[simp] theorem State.updCtx_nextColl (c : CtxId) (f : Ctx → Ctx) : (s.updCtx c f).nextColl = s.nextColl := rfl
@[simp] theorem State.updCtx_seqs (c : CtxId) (f : Ctx → Ctx) : (s.updCtx c f).seqs = s.seqs := rfl
@[simp] theorem State.updCtx_shares (c : CtxId) (f : Ctx → Ctx) : (s.updCtx c f).shares = s.shares := rfl
@[simp] theorem State.updCtx_kvmoves (c : CtxId) (f : Ctx → Ctx) : (s.updCtx c f).kvmoves = s.kvmoves := rfl
@[simp] theorem State.updCtx_nextMove (c : CtxId) (f : Ctx → Ctx) : (s.updCtx c f).nextMove = s.nextMove := rfl
@[simp] theorem State.updCtx_alarmLive (c : CtxId) (f : Ctx → Ctx) : (s.updCtx c f).alarmLive = s.alarmLive := rfl
@[simp] theorem State.updCtx_d3cold (c : CtxId) (f : Ctx → Ctx) : (s.updCtx c f).d3cold = s.d3cold := rfl
@[simp] theorem State.updCtx_ckpts (c : CtxId) (f : Ctx → Ctx) : (s.updCtx c f).ckpts = s.ckpts := rfl
@[simp] theorem State.updCtx_notices (c : CtxId) (f : Ctx → Ctx) : (s.updCtx c f).notices = s.notices := rfl
@[simp] theorem State.updCtx_mirrors (c : CtxId) (f : Ctx → Ctx) : (s.updCtx c f).mirrors = s.mirrors := rfl
@[simp] theorem State.updCtx_pair (c : CtxId) (f : Ctx → Ctx) : (s.updCtx c f).pair = s.pair := rfl
@[simp] theorem State.updCtx_i3c (c : CtxId) (f : Ctx → Ctx) : (s.updCtx c f).i3c = s.i3c := rfl
@[simp] theorem State.updCtx_fw (c : CtxId) (f : Ctx → Ctx) : (s.updCtx c f).fw = s.fw := rfl
@[simp] theorem State.updCtx_watches (c : CtxId) (f : Ctx → Ctx) : (s.updCtx c f).watches = s.watches := rfl
@[simp] theorem State.updCtx_replays (c : CtxId) (f : Ctx → Ctx) : (s.updCtx c f).replays = s.replays := rfl
@[simp] theorem State.updCtx_verdicts (c : CtxId) (f : Ctx → Ctx) : (s.updCtx c f).verdicts = s.verdicts := rfl
@[simp] theorem State.updCtx_warms (c : CtxId) (f : Ctx → Ctx) : (s.updCtx c f).warms = s.warms := rfl
@[simp] theorem State.updCtx_mtr (c : CtxId) (f : Ctx → Ctx) : (s.updCtx c f).mtr = s.mtr := rfl
@[simp] theorem State.updCtx_minute (c : CtxId) (f : Ctx → Ctx) : (s.updCtx c f).minute = s.minute := rfl
@[simp] theorem State.updCtx_pcie (c : CtxId) (f : Ctx → Ctx) : (s.updCtx c f).pcie = s.pcie := rfl
@[simp] theorem State.updCtx_intg (c : CtxId) (f : Ctx → Ctx) : (s.updCtx c f).intg = s.intg := rfl
@[simp] theorem State.updCtx_pwr (c : CtxId) (f : Ctx → Ctx) : (s.updCtx c f).pwr = s.pwr := rfl
@[simp] theorem State.updCtx_clk (c : CtxId) (f : Ctx → Ctx) : (s.updCtx c f).clk = s.clk := rfl
@[simp] theorem State.updCtx_rcv (c : CtxId) (f : Ctx → Ctx) : (s.updCtx c f).rcv = s.rcv := rfl

@[simp] theorem State.faultCtx_pending (c : CtxId) (st : Status) (n : Nat) : (s.faultCtx c st n).pending = s.pending := rfl
@[simp] theorem State.faultCtx_mem (c : CtxId) (st : Status) (n : Nat) : (s.faultCtx c st n).mem = s.mem := rfl
@[simp] theorem State.faultCtx_regions (c : CtxId) (st : Status) (n : Nat) : (s.faultCtx c st n).regions = s.regions := rfl
@[simp] theorem State.faultCtx_barriers (c : CtxId) (st : Status) (n : Nat) : (s.faultCtx c st n).barriers = s.barriers := rfl
@[simp] theorem State.faultCtx_deriveFill (c : CtxId) (st : Status) (n : Nat) : (s.faultCtx c st n).deriveFill = s.deriveFill := rfl
@[simp] theorem State.faultCtx_deriveRsv (c : CtxId) (st : Status) (n : Nat) : (s.faultCtx c st n).deriveRsv = s.deriveRsv := rfl
@[simp] theorem State.faultCtx_deriveBack (c : CtxId) (st : Status) (n : Nat) : (s.faultCtx c st n).deriveBack = s.deriveBack := rfl
@[simp] theorem State.faultCtx_revokes (c : CtxId) (st : Status) (n : Nat) : (s.faultCtx c st n).revokes = s.revokes := rfl
@[simp] theorem State.faultCtx_starts (c : CtxId) (st : Status) (n : Nat) : (s.faultCtx c st n).starts = s.starts := rfl
@[simp] theorem State.faultCtx_time (c : CtxId) (st : Status) (n : Nat) : (s.faultCtx c st n).time = s.time := rfl
@[simp] theorem State.faultCtx_mono (c : CtxId) (st : Status) (n : Nat) : (s.faultCtx c st n).mono = s.mono := rfl
@[simp] theorem State.faultCtx_qcycles (c : CtxId) (st : Status) (n : Nat) : (s.faultCtx c st n).qcycles = s.qcycles := rfl
@[simp] theorem State.faultCtx_nextCopy (c : CtxId) (st : Status) (n : Nat) : (s.faultCtx c st n).nextCopy = s.nextCopy := rfl
@[simp] theorem State.faultCtx_free (c : CtxId) (st : Status) (n : Nat) : (s.faultCtx c st n).free = s.free := rfl
@[simp] theorem State.faultCtx_secondary (c : CtxId) (st : Status) (n : Nat) : (s.faultCtx c st n).secondary = s.secondary := rfl
@[simp] theorem State.faultCtx_regs (c : CtxId) (st : Status) (n : Nat) : (s.faultCtx c st n).regs = s.regs := rfl
@[simp] theorem State.faultCtx_latent (c : CtxId) (st : Status) (n : Nat) : (s.faultCtx c st n).latent = s.latent := rfl
@[simp] theorem State.faultCtx_fns (c : CtxId) (st : Status) (n : Nat) : (s.faultCtx c st n).fns = s.fns := rfl
@[simp] theorem State.faultCtx_springs (c : CtxId) (st : Status) (n : Nat) : (s.faultCtx c st n).springs = s.springs := rfl
@[simp] theorem State.faultCtx_rings (c : CtxId) (st : Status) (n : Nat) : (s.faultCtx c st n).rings = s.rings := rfl
@[simp] theorem State.faultCtx_items (c : CtxId) (st : Status) (n : Nat) : (s.faultCtx c st n).items = s.items := rfl
@[simp] theorem State.faultCtx_nextItem (c : CtxId) (st : Status) (n : Nat) : (s.faultCtx c st n).nextItem = s.nextItem := rfl
@[simp] theorem State.faultCtx_log (c : CtxId) (st : Status) (n : Nat) : (s.faultCtx c st n).log = s.log := rfl
@[simp] theorem State.faultCtx_logpi (c : CtxId) (st : Status) (n : Nat) : (s.faultCtx c st n).logpi = s.logpi := rfl
@[simp] theorem State.faultCtx_attached (c : CtxId) (st : Status) (n : Nat) : (s.faultCtx c st n).attached = s.attached := rfl
@[simp] theorem State.faultCtx_hbeat (c : CtxId) (st : Status) (n : Nat) : (s.faultCtx c st n).hbeat = s.hbeat := rfl
@[simp] theorem State.faultCtx_reads (c : CtxId) (st : Status) (n : Nat) : (s.faultCtx c st n).reads = s.reads := rfl
@[simp] theorem State.faultCtx_nextTag (c : CtxId) (st : Status) (n : Nat) : (s.faultCtx c st n).nextTag = s.nextTag := rfl
@[simp] theorem State.faultCtx_out (c : CtxId) (st : Status) (n : Nat) : (s.faultCtx c st n).out = s.out := rfl
@[simp] theorem State.faultCtx_cqs (c : CtxId) (st : Status) (n : Nat) : (s.faultCtx c st n).cqs = s.cqs := rfl
@[simp] theorem State.faultCtx_pecks (c : CtxId) (st : Status) (n : Nat) : (s.faultCtx c st n).pecks = s.pecks := rfl
@[simp] theorem State.faultCtx_phase (c : CtxId) (st : Status) (n : Nat) : (s.faultCtx c st n).phase = s.phase := rfl
@[simp] theorem State.faultCtx_ats (c : CtxId) (st : Status) (n : Nat) : (s.faultCtx c st n).ats = s.ats := rfl
@[simp] theorem State.faultCtx_atsInv (c : CtxId) (st : Status) (n : Nat) : (s.faultCtx c st n).atsInv = s.atsInv := rfl
@[simp] theorem State.faultCtx_keys (c : CtxId) (st : Status) (n : Nat) : (s.faultCtx c st n).keys = s.keys := rfl
@[simp] theorem State.faultCtx_arms (c : CtxId) (st : Status) (n : Nat) : (s.faultCtx c st n).arms = s.arms := rfl
@[simp] theorem State.faultCtx_retired (c : CtxId) (st : Status) (n : Nat) : (s.faultCtx c st n).retired = s.retired := rfl
@[simp] theorem State.faultCtx_insts (c : CtxId) (st : Status) (n : Nat) : (s.faultCtx c st n).insts = s.insts := rfl
@[simp] theorem State.faultCtx_msgs (c : CtxId) (st : Status) (n : Nat) : (s.faultCtx c st n).msgs = s.msgs := rfl
@[simp] theorem State.faultCtx_nextKey (c : CtxId) (st : Status) (n : Nat) : (s.faultCtx c st n).nextKey = s.nextKey := rfl
@[simp] theorem State.faultCtx_eps (c : CtxId) (st : Status) (n : Nat) : (s.faultCtx c st n).eps = s.eps := rfl
@[simp] theorem State.faultCtx_ports (c : CtxId) (st : Status) (n : Nat) : (s.faultCtx c st n).ports = s.ports := rfl
@[simp] theorem State.faultCtx_writes (c : CtxId) (st : Status) (n : Nat) : (s.faultCtx c st n).writes = s.writes := rfl
@[simp] theorem State.faultCtx_resps (c : CtxId) (st : Status) (n : Nat) : (s.faultCtx c st n).resps = s.resps := rfl
@[simp] theorem State.faultCtx_nextResp (c : CtxId) (st : Status) (n : Nat) : (s.faultCtx c st n).nextResp = s.nextResp := rfl
@[simp] theorem State.faultCtx_groups (c : CtxId) (st : Status) (n : Nat) : (s.faultCtx c st n).groups = s.groups := rfl
@[simp] theorem State.faultCtx_bindings (c : CtxId) (st : Status) (n : Nat) : (s.faultCtx c st n).bindings = s.bindings := rfl
@[simp] theorem State.faultCtx_landed (c : CtxId) (st : Status) (n : Nat) : (s.faultCtx c st n).landed = s.landed := rfl
@[simp] theorem State.faultCtx_nextWr (c : CtxId) (st : Status) (n : Nat) : (s.faultCtx c st n).nextWr = s.nextWr := rfl
@[simp] theorem State.faultCtx_deal (c : CtxId) (st : Status) (n : Nat) : (s.faultCtx c st n).deal = s.deal := rfl
@[simp] theorem State.faultCtx_outcomes (c : CtxId) (st : Status) (n : Nat) : (s.faultCtx c st n).outcomes = s.outcomes := rfl
@[simp] theorem State.faultCtx_arrivals (c : CtxId) (st : Status) (n : Nat) : (s.faultCtx c st n).arrivals = s.arrivals := rfl
@[simp] theorem State.faultCtx_windows (c : CtxId) (st : Status) (n : Nat) : (s.faultCtx c st n).windows = s.windows := rfl
@[simp] theorem State.faultCtx_drives (c : CtxId) (st : Status) (n : Nat) : (s.faultCtx c st n).drives = s.drives := rfl
@[simp] theorem State.faultCtx_vols (c : CtxId) (st : Status) (n : Nat) : (s.faultCtx c st n).vols = s.vols := rfl
@[simp] theorem State.faultCtx_vreqs (c : CtxId) (st : Status) (n : Nat) : (s.faultCtx c st n).vreqs = s.vreqs := rfl
@[simp] theorem State.faultCtx_nextVreq (c : CtxId) (st : Status) (n : Nat) : (s.faultCtx c st n).nextVreq = s.nextVreq := rfl
@[simp] theorem State.faultCtx_dcmds (c : CtxId) (st : Status) (n : Nat) : (s.faultCtx c st n).dcmds = s.dcmds := rfl
@[simp] theorem State.faultCtx_nvmes (c : CtxId) (st : Status) (n : Nat) : (s.faultCtx c st n).nvmes = s.nvmes := rfl
@[simp] theorem State.faultCtx_feeds (c : CtxId) (st : Status) (n : Nat) : (s.faultCtx c st n).feeds = s.feeds := rfl
@[simp] theorem State.faultCtx_nextDcmd (c : CtxId) (st : Status) (n : Nat) : (s.faultCtx c st n).nextDcmd = s.nextDcmd := rfl
@[simp] theorem State.faultCtx_fetches (c : CtxId) (st : Status) (n : Nat) : (s.faultCtx c st n).fetches = s.fetches := rfl
@[simp] theorem State.faultCtx_nextFetch (c : CtxId) (st : Status) (n : Nat) : (s.faultCtx c st n).nextFetch = s.nextFetch := rfl
@[simp] theorem State.faultCtx_scratch (c : CtxId) (st : Status) (n : Nat) : (s.faultCtx c st n).scratch = s.scratch := rfl
@[simp] theorem State.faultCtx_colls (c : CtxId) (st : Status) (n : Nat) : (s.faultCtx c st n).colls = s.colls := rfl
@[simp] theorem State.faultCtx_nextColl (c : CtxId) (st : Status) (n : Nat) : (s.faultCtx c st n).nextColl = s.nextColl := rfl
@[simp] theorem State.faultCtx_seqs (c : CtxId) (st : Status) (n : Nat) : (s.faultCtx c st n).seqs = s.seqs := rfl
@[simp] theorem State.faultCtx_shares (c : CtxId) (st : Status) (n : Nat) : (s.faultCtx c st n).shares = s.shares := rfl
@[simp] theorem State.faultCtx_kvmoves (c : CtxId) (st : Status) (n : Nat) : (s.faultCtx c st n).kvmoves = s.kvmoves := rfl
@[simp] theorem State.faultCtx_nextMove (c : CtxId) (st : Status) (n : Nat) : (s.faultCtx c st n).nextMove = s.nextMove := rfl
@[simp] theorem State.faultCtx_alarmLive (c : CtxId) (st : Status) (n : Nat) : (s.faultCtx c st n).alarmLive = s.alarmLive := rfl
@[simp] theorem State.faultCtx_d3cold (c : CtxId) (st : Status) (n : Nat) : (s.faultCtx c st n).d3cold = s.d3cold := rfl
@[simp] theorem State.faultCtx_ckpts (c : CtxId) (st : Status) (n : Nat) : (s.faultCtx c st n).ckpts = s.ckpts := rfl
@[simp] theorem State.faultCtx_notices (c : CtxId) (st : Status) (n : Nat) : (s.faultCtx c st n).notices = s.notices := rfl
@[simp] theorem State.faultCtx_mirrors (c : CtxId) (st : Status) (n : Nat) : (s.faultCtx c st n).mirrors = s.mirrors := rfl
@[simp] theorem State.faultCtx_pair (c : CtxId) (st : Status) (n : Nat) : (s.faultCtx c st n).pair = s.pair := rfl
@[simp] theorem State.faultCtx_i3c (c : CtxId) (st : Status) (n : Nat) : (s.faultCtx c st n).i3c = s.i3c := rfl
@[simp] theorem State.faultCtx_fw (c : CtxId) (st : Status) (n : Nat) : (s.faultCtx c st n).fw = s.fw := rfl
@[simp] theorem State.faultCtx_watches (c : CtxId) (st : Status) (n : Nat) : (s.faultCtx c st n).watches = s.watches := rfl
@[simp] theorem State.faultCtx_replays (c : CtxId) (st : Status) (n : Nat) : (s.faultCtx c st n).replays = s.replays := rfl
@[simp] theorem State.faultCtx_verdicts (c : CtxId) (st : Status) (n : Nat) : (s.faultCtx c st n).verdicts = s.verdicts := rfl
@[simp] theorem State.faultCtx_warms (c : CtxId) (st : Status) (n : Nat) : (s.faultCtx c st n).warms = s.warms := rfl
@[simp] theorem State.faultCtx_mtr (c : CtxId) (st : Status) (n : Nat) : (s.faultCtx c st n).mtr = s.mtr := rfl
@[simp] theorem State.faultCtx_minute (c : CtxId) (st : Status) (n : Nat) : (s.faultCtx c st n).minute = s.minute := rfl
@[simp] theorem State.faultCtx_pcie (c : CtxId) (st : Status) (n : Nat) : (s.faultCtx c st n).pcie = s.pcie := rfl
@[simp] theorem State.faultCtx_intg (c : CtxId) (st : Status) (n : Nat) : (s.faultCtx c st n).intg = s.intg := rfl
@[simp] theorem State.faultCtx_pwr (c : CtxId) (st : Status) (n : Nat) : (s.faultCtx c st n).pwr = s.pwr := rfl
@[simp] theorem State.faultCtx_clk (c : CtxId) (st : Status) (n : Nat) : (s.faultCtx c st n).clk = s.clk := rfl
@[simp] theorem State.faultCtx_rcv (c : CtxId) (st : Status) (n : Nat) : (s.faultCtx c st n).rcv = s.rcv := rfl

@[simp] theorem State.putS_pending (c : CtxId) (r : Nat) (w : TWord) : (s.putS c r w).pending = s.pending := rfl
@[simp] theorem State.putS_mem (c : CtxId) (r : Nat) (w : TWord) : (s.putS c r w).mem = s.mem := rfl
@[simp] theorem State.putS_regions (c : CtxId) (r : Nat) (w : TWord) : (s.putS c r w).regions = s.regions := rfl
@[simp] theorem State.putS_barriers (c : CtxId) (r : Nat) (w : TWord) : (s.putS c r w).barriers = s.barriers := rfl
@[simp] theorem State.putS_deriveFill (c : CtxId) (r : Nat) (w : TWord) : (s.putS c r w).deriveFill = s.deriveFill := rfl
@[simp] theorem State.putS_deriveRsv (c : CtxId) (r : Nat) (w : TWord) : (s.putS c r w).deriveRsv = s.deriveRsv := rfl
@[simp] theorem State.putS_deriveBack (c : CtxId) (r : Nat) (w : TWord) : (s.putS c r w).deriveBack = s.deriveBack := rfl
@[simp] theorem State.putS_revokes (c : CtxId) (r : Nat) (w : TWord) : (s.putS c r w).revokes = s.revokes := rfl
@[simp] theorem State.putS_starts (c : CtxId) (r : Nat) (w : TWord) : (s.putS c r w).starts = s.starts := rfl
@[simp] theorem State.putS_time (c : CtxId) (r : Nat) (w : TWord) : (s.putS c r w).time = s.time := rfl
@[simp] theorem State.putS_mono (c : CtxId) (r : Nat) (w : TWord) : (s.putS c r w).mono = s.mono := rfl
@[simp] theorem State.putS_qcycles (c : CtxId) (r : Nat) (w : TWord) : (s.putS c r w).qcycles = s.qcycles := rfl
@[simp] theorem State.putS_nextCopy (c : CtxId) (r : Nat) (w : TWord) : (s.putS c r w).nextCopy = s.nextCopy := rfl
@[simp] theorem State.putS_free (c : CtxId) (r : Nat) (w : TWord) : (s.putS c r w).free = s.free := rfl
@[simp] theorem State.putS_secondary (c : CtxId) (r : Nat) (w : TWord) : (s.putS c r w).secondary = s.secondary := rfl
@[simp] theorem State.putS_regs (c : CtxId) (r : Nat) (w : TWord) : (s.putS c r w).regs = s.regs := rfl
@[simp] theorem State.putS_latent (c : CtxId) (r : Nat) (w : TWord) : (s.putS c r w).latent = s.latent := rfl
@[simp] theorem State.putS_fns (c : CtxId) (r : Nat) (w : TWord) : (s.putS c r w).fns = s.fns := rfl
@[simp] theorem State.putS_springs (c : CtxId) (r : Nat) (w : TWord) : (s.putS c r w).springs = s.springs := rfl
@[simp] theorem State.putS_rings (c : CtxId) (r : Nat) (w : TWord) : (s.putS c r w).rings = s.rings := rfl
@[simp] theorem State.putS_items (c : CtxId) (r : Nat) (w : TWord) : (s.putS c r w).items = s.items := rfl
@[simp] theorem State.putS_nextItem (c : CtxId) (r : Nat) (w : TWord) : (s.putS c r w).nextItem = s.nextItem := rfl
@[simp] theorem State.putS_log (c : CtxId) (r : Nat) (w : TWord) : (s.putS c r w).log = s.log := rfl
@[simp] theorem State.putS_logpi (c : CtxId) (r : Nat) (w : TWord) : (s.putS c r w).logpi = s.logpi := rfl
@[simp] theorem State.putS_attached (c : CtxId) (r : Nat) (w : TWord) : (s.putS c r w).attached = s.attached := rfl
@[simp] theorem State.putS_hbeat (c : CtxId) (r : Nat) (w : TWord) : (s.putS c r w).hbeat = s.hbeat := rfl
@[simp] theorem State.putS_reads (c : CtxId) (r : Nat) (w : TWord) : (s.putS c r w).reads = s.reads := rfl
@[simp] theorem State.putS_nextTag (c : CtxId) (r : Nat) (w : TWord) : (s.putS c r w).nextTag = s.nextTag := rfl
@[simp] theorem State.putS_out (c : CtxId) (r : Nat) (w : TWord) : (s.putS c r w).out = s.out := rfl
@[simp] theorem State.putS_cqs (c : CtxId) (r : Nat) (w : TWord) : (s.putS c r w).cqs = s.cqs := rfl
@[simp] theorem State.putS_pecks (c : CtxId) (r : Nat) (w : TWord) : (s.putS c r w).pecks = s.pecks := rfl
@[simp] theorem State.putS_phase (c : CtxId) (r : Nat) (w : TWord) : (s.putS c r w).phase = s.phase := rfl
@[simp] theorem State.putS_ats (c : CtxId) (r : Nat) (w : TWord) : (s.putS c r w).ats = s.ats := rfl
@[simp] theorem State.putS_atsInv (c : CtxId) (r : Nat) (w : TWord) : (s.putS c r w).atsInv = s.atsInv := rfl
@[simp] theorem State.putS_keys (c : CtxId) (r : Nat) (w : TWord) : (s.putS c r w).keys = s.keys := rfl
@[simp] theorem State.putS_arms (c : CtxId) (r : Nat) (w : TWord) : (s.putS c r w).arms = s.arms := rfl
@[simp] theorem State.putS_retired (c : CtxId) (r : Nat) (w : TWord) : (s.putS c r w).retired = s.retired := rfl
@[simp] theorem State.putS_insts (c : CtxId) (r : Nat) (w : TWord) : (s.putS c r w).insts = s.insts := rfl
@[simp] theorem State.putS_msgs (c : CtxId) (r : Nat) (w : TWord) : (s.putS c r w).msgs = s.msgs := rfl
@[simp] theorem State.putS_nextKey (c : CtxId) (r : Nat) (w : TWord) : (s.putS c r w).nextKey = s.nextKey := rfl
@[simp] theorem State.putS_eps (c : CtxId) (r : Nat) (w : TWord) : (s.putS c r w).eps = s.eps := rfl
@[simp] theorem State.putS_ports (c : CtxId) (r : Nat) (w : TWord) : (s.putS c r w).ports = s.ports := rfl
@[simp] theorem State.putS_writes (c : CtxId) (r : Nat) (w : TWord) : (s.putS c r w).writes = s.writes := rfl
@[simp] theorem State.putS_resps (c : CtxId) (r : Nat) (w : TWord) : (s.putS c r w).resps = s.resps := rfl
@[simp] theorem State.putS_nextResp (c : CtxId) (r : Nat) (w : TWord) : (s.putS c r w).nextResp = s.nextResp := rfl
@[simp] theorem State.putS_groups (c : CtxId) (r : Nat) (w : TWord) : (s.putS c r w).groups = s.groups := rfl
@[simp] theorem State.putS_bindings (c : CtxId) (r : Nat) (w : TWord) : (s.putS c r w).bindings = s.bindings := rfl
@[simp] theorem State.putS_landed (c : CtxId) (r : Nat) (w : TWord) : (s.putS c r w).landed = s.landed := rfl
@[simp] theorem State.putS_nextWr (c : CtxId) (r : Nat) (w : TWord) : (s.putS c r w).nextWr = s.nextWr := rfl
@[simp] theorem State.putS_deal (c : CtxId) (r : Nat) (w : TWord) : (s.putS c r w).deal = s.deal := rfl
@[simp] theorem State.putS_outcomes (c : CtxId) (r : Nat) (w : TWord) : (s.putS c r w).outcomes = s.outcomes := rfl
@[simp] theorem State.putS_arrivals (c : CtxId) (r : Nat) (w : TWord) : (s.putS c r w).arrivals = s.arrivals := rfl
@[simp] theorem State.putS_windows (c : CtxId) (r : Nat) (w : TWord) : (s.putS c r w).windows = s.windows := rfl
@[simp] theorem State.putS_drives (c : CtxId) (r : Nat) (w : TWord) : (s.putS c r w).drives = s.drives := rfl
@[simp] theorem State.putS_vols (c : CtxId) (r : Nat) (w : TWord) : (s.putS c r w).vols = s.vols := rfl
@[simp] theorem State.putS_vreqs (c : CtxId) (r : Nat) (w : TWord) : (s.putS c r w).vreqs = s.vreqs := rfl
@[simp] theorem State.putS_nextVreq (c : CtxId) (r : Nat) (w : TWord) : (s.putS c r w).nextVreq = s.nextVreq := rfl
@[simp] theorem State.putS_dcmds (c : CtxId) (r : Nat) (w : TWord) : (s.putS c r w).dcmds = s.dcmds := rfl
@[simp] theorem State.putS_nvmes (c : CtxId) (r : Nat) (w : TWord) : (s.putS c r w).nvmes = s.nvmes := rfl
@[simp] theorem State.putS_feeds (c : CtxId) (r : Nat) (w : TWord) : (s.putS c r w).feeds = s.feeds := rfl
@[simp] theorem State.putS_nextDcmd (c : CtxId) (r : Nat) (w : TWord) : (s.putS c r w).nextDcmd = s.nextDcmd := rfl
@[simp] theorem State.putS_fetches (c : CtxId) (r : Nat) (w : TWord) : (s.putS c r w).fetches = s.fetches := rfl
@[simp] theorem State.putS_nextFetch (c : CtxId) (r : Nat) (w : TWord) : (s.putS c r w).nextFetch = s.nextFetch := rfl
@[simp] theorem State.putS_scratch (c : CtxId) (r : Nat) (w : TWord) : (s.putS c r w).scratch = s.scratch := rfl
@[simp] theorem State.putS_colls (c : CtxId) (r : Nat) (w : TWord) : (s.putS c r w).colls = s.colls := rfl
@[simp] theorem State.putS_nextColl (c : CtxId) (r : Nat) (w : TWord) : (s.putS c r w).nextColl = s.nextColl := rfl
@[simp] theorem State.putS_seqs (c : CtxId) (r : Nat) (w : TWord) : (s.putS c r w).seqs = s.seqs := rfl
@[simp] theorem State.putS_shares (c : CtxId) (r : Nat) (w : TWord) : (s.putS c r w).shares = s.shares := rfl
@[simp] theorem State.putS_kvmoves (c : CtxId) (r : Nat) (w : TWord) : (s.putS c r w).kvmoves = s.kvmoves := rfl
@[simp] theorem State.putS_nextMove (c : CtxId) (r : Nat) (w : TWord) : (s.putS c r w).nextMove = s.nextMove := rfl
@[simp] theorem State.putS_alarmLive (c : CtxId) (r : Nat) (w : TWord) : (s.putS c r w).alarmLive = s.alarmLive := rfl
@[simp] theorem State.putS_d3cold (c : CtxId) (r : Nat) (w : TWord) : (s.putS c r w).d3cold = s.d3cold := rfl
@[simp] theorem State.putS_ckpts (c : CtxId) (r : Nat) (w : TWord) : (s.putS c r w).ckpts = s.ckpts := rfl
@[simp] theorem State.putS_notices (c : CtxId) (r : Nat) (w : TWord) : (s.putS c r w).notices = s.notices := rfl
@[simp] theorem State.putS_mirrors (c : CtxId) (r : Nat) (w : TWord) : (s.putS c r w).mirrors = s.mirrors := rfl
@[simp] theorem State.putS_pair (c : CtxId) (r : Nat) (w : TWord) : (s.putS c r w).pair = s.pair := rfl
@[simp] theorem State.putS_i3c (c : CtxId) (r : Nat) (w : TWord) : (s.putS c r w).i3c = s.i3c := rfl
@[simp] theorem State.putS_fw (c : CtxId) (r : Nat) (w : TWord) : (s.putS c r w).fw = s.fw := rfl
@[simp] theorem State.putS_watches (c : CtxId) (r : Nat) (w : TWord) : (s.putS c r w).watches = s.watches := rfl
@[simp] theorem State.putS_replays (c : CtxId) (r : Nat) (w : TWord) : (s.putS c r w).replays = s.replays := rfl
@[simp] theorem State.putS_verdicts (c : CtxId) (r : Nat) (w : TWord) : (s.putS c r w).verdicts = s.verdicts := rfl
@[simp] theorem State.putS_warms (c : CtxId) (r : Nat) (w : TWord) : (s.putS c r w).warms = s.warms := rfl
@[simp] theorem State.putS_mtr (c : CtxId) (r : Nat) (w : TWord) : (s.putS c r w).mtr = s.mtr := rfl
@[simp] theorem State.putS_minute (c : CtxId) (r : Nat) (w : TWord) : (s.putS c r w).minute = s.minute := rfl
@[simp] theorem State.putS_pcie (c : CtxId) (r : Nat) (w : TWord) : (s.putS c r w).pcie = s.pcie := rfl
@[simp] theorem State.putS_intg (c : CtxId) (r : Nat) (w : TWord) : (s.putS c r w).intg = s.intg := rfl
@[simp] theorem State.putS_pwr (c : CtxId) (r : Nat) (w : TWord) : (s.putS c r w).pwr = s.pwr := rfl
@[simp] theorem State.putS_clk (c : CtxId) (r : Nat) (w : TWord) : (s.putS c r w).clk = s.clk := rfl
@[simp] theorem State.putS_rcv (c : CtxId) (r : Nat) (w : TWord) : (s.putS c r w).rcv = s.rcv := rfl

@[simp] theorem State.setRegion_pending (i : Nat) (r : Region) : (s.setRegion i r).pending = s.pending := rfl
@[simp] theorem State.setRegion_mem (i : Nat) (r : Region) : (s.setRegion i r).mem = s.mem := rfl
@[simp] theorem State.setRegion_engines (i : Nat) (r : Region) : (s.setRegion i r).engines = s.engines := rfl
@[simp] theorem State.setRegion_barriers (i : Nat) (r : Region) : (s.setRegion i r).barriers = s.barriers := rfl
@[simp] theorem State.setRegion_deriveFill (i : Nat) (r : Region) : (s.setRegion i r).deriveFill = s.deriveFill := rfl
@[simp] theorem State.setRegion_deriveRsv (i : Nat) (r : Region) : (s.setRegion i r).deriveRsv = s.deriveRsv := rfl
@[simp] theorem State.setRegion_deriveBack (i : Nat) (r : Region) : (s.setRegion i r).deriveBack = s.deriveBack := rfl
@[simp] theorem State.setRegion_revokes (i : Nat) (r : Region) : (s.setRegion i r).revokes = s.revokes := rfl
@[simp] theorem State.setRegion_starts (i : Nat) (r : Region) : (s.setRegion i r).starts = s.starts := rfl
@[simp] theorem State.setRegion_time (i : Nat) (r : Region) : (s.setRegion i r).time = s.time := rfl
@[simp] theorem State.setRegion_mono (i : Nat) (r : Region) : (s.setRegion i r).mono = s.mono := rfl
@[simp] theorem State.setRegion_qcycles (i : Nat) (r : Region) : (s.setRegion i r).qcycles = s.qcycles := rfl
@[simp] theorem State.setRegion_nextCopy (i : Nat) (r : Region) : (s.setRegion i r).nextCopy = s.nextCopy := rfl
@[simp] theorem State.setRegion_free (i : Nat) (r : Region) : (s.setRegion i r).free = s.free := rfl
@[simp] theorem State.setRegion_secondary (i : Nat) (r : Region) : (s.setRegion i r).secondary = s.secondary := rfl
@[simp] theorem State.setRegion_regs (i : Nat) (r : Region) : (s.setRegion i r).regs = s.regs := rfl
@[simp] theorem State.setRegion_latent (i : Nat) (r : Region) : (s.setRegion i r).latent = s.latent := rfl
@[simp] theorem State.setRegion_fns (i : Nat) (r : Region) : (s.setRegion i r).fns = s.fns := rfl
@[simp] theorem State.setRegion_springs (i : Nat) (r : Region) : (s.setRegion i r).springs = s.springs := rfl
@[simp] theorem State.setRegion_rings (i : Nat) (r : Region) : (s.setRegion i r).rings = s.rings := rfl
@[simp] theorem State.setRegion_items (i : Nat) (r : Region) : (s.setRegion i r).items = s.items := rfl
@[simp] theorem State.setRegion_nextItem (i : Nat) (r : Region) : (s.setRegion i r).nextItem = s.nextItem := rfl
@[simp] theorem State.setRegion_log (i : Nat) (r : Region) : (s.setRegion i r).log = s.log := rfl
@[simp] theorem State.setRegion_logpi (i : Nat) (r : Region) : (s.setRegion i r).logpi = s.logpi := rfl
@[simp] theorem State.setRegion_attached (i : Nat) (r : Region) : (s.setRegion i r).attached = s.attached := rfl
@[simp] theorem State.setRegion_hbeat (i : Nat) (r : Region) : (s.setRegion i r).hbeat = s.hbeat := rfl
@[simp] theorem State.setRegion_reads (i : Nat) (r : Region) : (s.setRegion i r).reads = s.reads := rfl
@[simp] theorem State.setRegion_nextTag (i : Nat) (r : Region) : (s.setRegion i r).nextTag = s.nextTag := rfl
@[simp] theorem State.setRegion_out (i : Nat) (r : Region) : (s.setRegion i r).out = s.out := rfl
@[simp] theorem State.setRegion_cqs (i : Nat) (r : Region) : (s.setRegion i r).cqs = s.cqs := rfl
@[simp] theorem State.setRegion_pecks (i : Nat) (r : Region) : (s.setRegion i r).pecks = s.pecks := rfl
@[simp] theorem State.setRegion_phase (i : Nat) (r : Region) : (s.setRegion i r).phase = s.phase := rfl
@[simp] theorem State.setRegion_ats (i : Nat) (r : Region) : (s.setRegion i r).ats = s.ats := rfl
@[simp] theorem State.setRegion_atsInv (i : Nat) (r : Region) : (s.setRegion i r).atsInv = s.atsInv := rfl
@[simp] theorem State.setRegion_keys (i : Nat) (r : Region) : (s.setRegion i r).keys = s.keys := rfl
@[simp] theorem State.setRegion_arms (i : Nat) (r : Region) : (s.setRegion i r).arms = s.arms := rfl
@[simp] theorem State.setRegion_retired (i : Nat) (r : Region) : (s.setRegion i r).retired = s.retired := rfl
@[simp] theorem State.setRegion_insts (i : Nat) (r : Region) : (s.setRegion i r).insts = s.insts := rfl
@[simp] theorem State.setRegion_msgs (i : Nat) (r : Region) : (s.setRegion i r).msgs = s.msgs := rfl
@[simp] theorem State.setRegion_nextKey (i : Nat) (r : Region) : (s.setRegion i r).nextKey = s.nextKey := rfl
@[simp] theorem State.setRegion_eps (i : Nat) (r : Region) : (s.setRegion i r).eps = s.eps := rfl
@[simp] theorem State.setRegion_ports (i : Nat) (r : Region) : (s.setRegion i r).ports = s.ports := rfl
@[simp] theorem State.setRegion_writes (i : Nat) (r : Region) : (s.setRegion i r).writes = s.writes := rfl
@[simp] theorem State.setRegion_resps (i : Nat) (r : Region) : (s.setRegion i r).resps = s.resps := rfl
@[simp] theorem State.setRegion_nextResp (i : Nat) (r : Region) : (s.setRegion i r).nextResp = s.nextResp := rfl
@[simp] theorem State.setRegion_groups (i : Nat) (r : Region) : (s.setRegion i r).groups = s.groups := rfl
@[simp] theorem State.setRegion_bindings (i : Nat) (r : Region) : (s.setRegion i r).bindings = s.bindings := rfl
@[simp] theorem State.setRegion_landed (i : Nat) (r : Region) : (s.setRegion i r).landed = s.landed := rfl
@[simp] theorem State.setRegion_nextWr (i : Nat) (r : Region) : (s.setRegion i r).nextWr = s.nextWr := rfl
@[simp] theorem State.setRegion_deal (i : Nat) (r : Region) : (s.setRegion i r).deal = s.deal := rfl
@[simp] theorem State.setRegion_outcomes (i : Nat) (r : Region) : (s.setRegion i r).outcomes = s.outcomes := rfl
@[simp] theorem State.setRegion_arrivals (i : Nat) (r : Region) : (s.setRegion i r).arrivals = s.arrivals := rfl
@[simp] theorem State.setRegion_windows (i : Nat) (r : Region) : (s.setRegion i r).windows = s.windows := rfl
@[simp] theorem State.setRegion_drives (i : Nat) (r : Region) : (s.setRegion i r).drives = s.drives := rfl
@[simp] theorem State.setRegion_vols (i : Nat) (r : Region) : (s.setRegion i r).vols = s.vols := rfl
@[simp] theorem State.setRegion_vreqs (i : Nat) (r : Region) : (s.setRegion i r).vreqs = s.vreqs := rfl
@[simp] theorem State.setRegion_nextVreq (i : Nat) (r : Region) : (s.setRegion i r).nextVreq = s.nextVreq := rfl
@[simp] theorem State.setRegion_dcmds (i : Nat) (r : Region) : (s.setRegion i r).dcmds = s.dcmds := rfl
@[simp] theorem State.setRegion_nvmes (i : Nat) (r : Region) : (s.setRegion i r).nvmes = s.nvmes := rfl
@[simp] theorem State.setRegion_feeds (i : Nat) (r : Region) : (s.setRegion i r).feeds = s.feeds := rfl
@[simp] theorem State.setRegion_nextDcmd (i : Nat) (r : Region) : (s.setRegion i r).nextDcmd = s.nextDcmd := rfl
@[simp] theorem State.setRegion_fetches (i : Nat) (r : Region) : (s.setRegion i r).fetches = s.fetches := rfl
@[simp] theorem State.setRegion_nextFetch (i : Nat) (r : Region) : (s.setRegion i r).nextFetch = s.nextFetch := rfl
@[simp] theorem State.setRegion_scratch (i : Nat) (r : Region) : (s.setRegion i r).scratch = s.scratch := rfl
@[simp] theorem State.setRegion_colls (i : Nat) (r : Region) : (s.setRegion i r).colls = s.colls := rfl
@[simp] theorem State.setRegion_nextColl (i : Nat) (r : Region) : (s.setRegion i r).nextColl = s.nextColl := rfl
@[simp] theorem State.setRegion_seqs (i : Nat) (r : Region) : (s.setRegion i r).seqs = s.seqs := rfl
@[simp] theorem State.setRegion_shares (i : Nat) (r : Region) : (s.setRegion i r).shares = s.shares := rfl
@[simp] theorem State.setRegion_kvmoves (i : Nat) (r : Region) : (s.setRegion i r).kvmoves = s.kvmoves := rfl
@[simp] theorem State.setRegion_nextMove (i : Nat) (r : Region) : (s.setRegion i r).nextMove = s.nextMove := rfl
@[simp] theorem State.setRegion_alarmLive (i : Nat) (r : Region) : (s.setRegion i r).alarmLive = s.alarmLive := rfl
@[simp] theorem State.setRegion_d3cold (i : Nat) (r : Region) : (s.setRegion i r).d3cold = s.d3cold := rfl
@[simp] theorem State.setRegion_ckpts (i : Nat) (r : Region) : (s.setRegion i r).ckpts = s.ckpts := rfl
@[simp] theorem State.setRegion_notices (i : Nat) (r : Region) : (s.setRegion i r).notices = s.notices := rfl
@[simp] theorem State.setRegion_mirrors (i : Nat) (r : Region) : (s.setRegion i r).mirrors = s.mirrors := rfl
@[simp] theorem State.setRegion_pair (i : Nat) (r : Region) : (s.setRegion i r).pair = s.pair := rfl
@[simp] theorem State.setRegion_i3c (i : Nat) (r : Region) : (s.setRegion i r).i3c = s.i3c := rfl
@[simp] theorem State.setRegion_fw (i : Nat) (r : Region) : (s.setRegion i r).fw = s.fw := rfl
@[simp] theorem State.setRegion_watches (i : Nat) (r : Region) : (s.setRegion i r).watches = s.watches := rfl
@[simp] theorem State.setRegion_replays (i : Nat) (r : Region) : (s.setRegion i r).replays = s.replays := rfl
@[simp] theorem State.setRegion_verdicts (i : Nat) (r : Region) : (s.setRegion i r).verdicts = s.verdicts := rfl
@[simp] theorem State.setRegion_warms (i : Nat) (r : Region) : (s.setRegion i r).warms = s.warms := rfl
@[simp] theorem State.setRegion_mtr (i : Nat) (r : Region) : (s.setRegion i r).mtr = s.mtr := rfl
@[simp] theorem State.setRegion_minute (i : Nat) (r : Region) : (s.setRegion i r).minute = s.minute := rfl
@[simp] theorem State.setRegion_pcie (i : Nat) (r : Region) : (s.setRegion i r).pcie = s.pcie := rfl
@[simp] theorem State.setRegion_intg (i : Nat) (r : Region) : (s.setRegion i r).intg = s.intg := rfl
@[simp] theorem State.setRegion_pwr (i : Nat) (r : Region) : (s.setRegion i r).pwr = s.pwr := rfl
@[simp] theorem State.setRegion_clk (i : Nat) (r : Region) : (s.setRegion i r).clk = s.clk := rfl
@[simp] theorem State.setRegion_rcv (i : Nat) (r : Region) : (s.setRegion i r).rcv = s.rcv := rfl

@[simp] theorem State.setPeck_pending (p : Nat) (x : Peck) : (s.setPeck p x).pending = s.pending := rfl
@[simp] theorem State.setPeck_mem (p : Nat) (x : Peck) : (s.setPeck p x).mem = s.mem := rfl
@[simp] theorem State.setPeck_regions (p : Nat) (x : Peck) : (s.setPeck p x).regions = s.regions := rfl
@[simp] theorem State.setPeck_engines (p : Nat) (x : Peck) : (s.setPeck p x).engines = s.engines := rfl
@[simp] theorem State.setPeck_barriers (p : Nat) (x : Peck) : (s.setPeck p x).barriers = s.barriers := rfl
@[simp] theorem State.setPeck_deriveFill (p : Nat) (x : Peck) : (s.setPeck p x).deriveFill = s.deriveFill := rfl
@[simp] theorem State.setPeck_deriveRsv (p : Nat) (x : Peck) : (s.setPeck p x).deriveRsv = s.deriveRsv := rfl
@[simp] theorem State.setPeck_deriveBack (p : Nat) (x : Peck) : (s.setPeck p x).deriveBack = s.deriveBack := rfl
@[simp] theorem State.setPeck_revokes (p : Nat) (x : Peck) : (s.setPeck p x).revokes = s.revokes := rfl
@[simp] theorem State.setPeck_starts (p : Nat) (x : Peck) : (s.setPeck p x).starts = s.starts := rfl
@[simp] theorem State.setPeck_time (p : Nat) (x : Peck) : (s.setPeck p x).time = s.time := rfl
@[simp] theorem State.setPeck_mono (p : Nat) (x : Peck) : (s.setPeck p x).mono = s.mono := rfl
@[simp] theorem State.setPeck_qcycles (p : Nat) (x : Peck) : (s.setPeck p x).qcycles = s.qcycles := rfl
@[simp] theorem State.setPeck_nextCopy (p : Nat) (x : Peck) : (s.setPeck p x).nextCopy = s.nextCopy := rfl
@[simp] theorem State.setPeck_free (p : Nat) (x : Peck) : (s.setPeck p x).free = s.free := rfl
@[simp] theorem State.setPeck_secondary (p : Nat) (x : Peck) : (s.setPeck p x).secondary = s.secondary := rfl
@[simp] theorem State.setPeck_regs (p : Nat) (x : Peck) : (s.setPeck p x).regs = s.regs := rfl
@[simp] theorem State.setPeck_latent (p : Nat) (x : Peck) : (s.setPeck p x).latent = s.latent := rfl
@[simp] theorem State.setPeck_fns (p : Nat) (x : Peck) : (s.setPeck p x).fns = s.fns := rfl
@[simp] theorem State.setPeck_springs (p : Nat) (x : Peck) : (s.setPeck p x).springs = s.springs := rfl
@[simp] theorem State.setPeck_rings (p : Nat) (x : Peck) : (s.setPeck p x).rings = s.rings := rfl
@[simp] theorem State.setPeck_items (p : Nat) (x : Peck) : (s.setPeck p x).items = s.items := rfl
@[simp] theorem State.setPeck_nextItem (p : Nat) (x : Peck) : (s.setPeck p x).nextItem = s.nextItem := rfl
@[simp] theorem State.setPeck_log (p : Nat) (x : Peck) : (s.setPeck p x).log = s.log := rfl
@[simp] theorem State.setPeck_logpi (p : Nat) (x : Peck) : (s.setPeck p x).logpi = s.logpi := rfl
@[simp] theorem State.setPeck_attached (p : Nat) (x : Peck) : (s.setPeck p x).attached = s.attached := rfl
@[simp] theorem State.setPeck_hbeat (p : Nat) (x : Peck) : (s.setPeck p x).hbeat = s.hbeat := rfl
@[simp] theorem State.setPeck_reads (p : Nat) (x : Peck) : (s.setPeck p x).reads = s.reads := rfl
@[simp] theorem State.setPeck_nextTag (p : Nat) (x : Peck) : (s.setPeck p x).nextTag = s.nextTag := rfl
@[simp] theorem State.setPeck_out (p : Nat) (x : Peck) : (s.setPeck p x).out = s.out := rfl
@[simp] theorem State.setPeck_cqs (p : Nat) (x : Peck) : (s.setPeck p x).cqs = s.cqs := rfl
@[simp] theorem State.setPeck_phase (p : Nat) (x : Peck) : (s.setPeck p x).phase = s.phase := rfl
@[simp] theorem State.setPeck_ats (p : Nat) (x : Peck) : (s.setPeck p x).ats = s.ats := rfl
@[simp] theorem State.setPeck_atsInv (p : Nat) (x : Peck) : (s.setPeck p x).atsInv = s.atsInv := rfl
@[simp] theorem State.setPeck_keys (p : Nat) (x : Peck) : (s.setPeck p x).keys = s.keys := rfl
@[simp] theorem State.setPeck_arms (p : Nat) (x : Peck) : (s.setPeck p x).arms = s.arms := rfl
@[simp] theorem State.setPeck_retired (p : Nat) (x : Peck) : (s.setPeck p x).retired = s.retired := rfl
@[simp] theorem State.setPeck_insts (p : Nat) (x : Peck) : (s.setPeck p x).insts = s.insts := rfl
@[simp] theorem State.setPeck_msgs (p : Nat) (x : Peck) : (s.setPeck p x).msgs = s.msgs := rfl
@[simp] theorem State.setPeck_nextKey (p : Nat) (x : Peck) : (s.setPeck p x).nextKey = s.nextKey := rfl
@[simp] theorem State.setPeck_eps (p : Nat) (x : Peck) : (s.setPeck p x).eps = s.eps := rfl
@[simp] theorem State.setPeck_ports (p : Nat) (x : Peck) : (s.setPeck p x).ports = s.ports := rfl
@[simp] theorem State.setPeck_writes (p : Nat) (x : Peck) : (s.setPeck p x).writes = s.writes := rfl
@[simp] theorem State.setPeck_resps (p : Nat) (x : Peck) : (s.setPeck p x).resps = s.resps := rfl
@[simp] theorem State.setPeck_nextResp (p : Nat) (x : Peck) : (s.setPeck p x).nextResp = s.nextResp := rfl
@[simp] theorem State.setPeck_groups (p : Nat) (x : Peck) : (s.setPeck p x).groups = s.groups := rfl
@[simp] theorem State.setPeck_bindings (p : Nat) (x : Peck) : (s.setPeck p x).bindings = s.bindings := rfl
@[simp] theorem State.setPeck_landed (p : Nat) (x : Peck) : (s.setPeck p x).landed = s.landed := rfl
@[simp] theorem State.setPeck_nextWr (p : Nat) (x : Peck) : (s.setPeck p x).nextWr = s.nextWr := rfl
@[simp] theorem State.setPeck_deal (p : Nat) (x : Peck) : (s.setPeck p x).deal = s.deal := rfl
@[simp] theorem State.setPeck_outcomes (p : Nat) (x : Peck) : (s.setPeck p x).outcomes = s.outcomes := rfl
@[simp] theorem State.setPeck_arrivals (p : Nat) (x : Peck) : (s.setPeck p x).arrivals = s.arrivals := rfl
@[simp] theorem State.setPeck_windows (p : Nat) (x : Peck) : (s.setPeck p x).windows = s.windows := rfl
@[simp] theorem State.setPeck_drives (p : Nat) (x : Peck) : (s.setPeck p x).drives = s.drives := rfl
@[simp] theorem State.setPeck_vols (p : Nat) (x : Peck) : (s.setPeck p x).vols = s.vols := rfl
@[simp] theorem State.setPeck_vreqs (p : Nat) (x : Peck) : (s.setPeck p x).vreqs = s.vreqs := rfl
@[simp] theorem State.setPeck_nextVreq (p : Nat) (x : Peck) : (s.setPeck p x).nextVreq = s.nextVreq := rfl
@[simp] theorem State.setPeck_dcmds (p : Nat) (x : Peck) : (s.setPeck p x).dcmds = s.dcmds := rfl
@[simp] theorem State.setPeck_nvmes (p : Nat) (x : Peck) : (s.setPeck p x).nvmes = s.nvmes := rfl
@[simp] theorem State.setPeck_feeds (p : Nat) (x : Peck) : (s.setPeck p x).feeds = s.feeds := rfl
@[simp] theorem State.setPeck_nextDcmd (p : Nat) (x : Peck) : (s.setPeck p x).nextDcmd = s.nextDcmd := rfl
@[simp] theorem State.setPeck_fetches (p : Nat) (x : Peck) : (s.setPeck p x).fetches = s.fetches := rfl
@[simp] theorem State.setPeck_nextFetch (p : Nat) (x : Peck) : (s.setPeck p x).nextFetch = s.nextFetch := rfl
@[simp] theorem State.setPeck_scratch (p : Nat) (x : Peck) : (s.setPeck p x).scratch = s.scratch := rfl
@[simp] theorem State.setPeck_colls (p : Nat) (x : Peck) : (s.setPeck p x).colls = s.colls := rfl
@[simp] theorem State.setPeck_nextColl (p : Nat) (x : Peck) : (s.setPeck p x).nextColl = s.nextColl := rfl
@[simp] theorem State.setPeck_seqs (p : Nat) (x : Peck) : (s.setPeck p x).seqs = s.seqs := rfl
@[simp] theorem State.setPeck_shares (p : Nat) (x : Peck) : (s.setPeck p x).shares = s.shares := rfl
@[simp] theorem State.setPeck_kvmoves (p : Nat) (x : Peck) : (s.setPeck p x).kvmoves = s.kvmoves := rfl
@[simp] theorem State.setPeck_nextMove (p : Nat) (x : Peck) : (s.setPeck p x).nextMove = s.nextMove := rfl
@[simp] theorem State.setPeck_alarmLive (p : Nat) (x : Peck) : (s.setPeck p x).alarmLive = s.alarmLive := rfl
@[simp] theorem State.setPeck_d3cold (p : Nat) (x : Peck) : (s.setPeck p x).d3cold = s.d3cold := rfl
@[simp] theorem State.setPeck_ckpts (p : Nat) (x : Peck) : (s.setPeck p x).ckpts = s.ckpts := rfl
@[simp] theorem State.setPeck_notices (p : Nat) (x : Peck) : (s.setPeck p x).notices = s.notices := rfl
@[simp] theorem State.setPeck_mirrors (p : Nat) (x : Peck) : (s.setPeck p x).mirrors = s.mirrors := rfl
@[simp] theorem State.setPeck_pair (p : Nat) (x : Peck) : (s.setPeck p x).pair = s.pair := rfl
@[simp] theorem State.setPeck_i3c (p : Nat) (x : Peck) : (s.setPeck p x).i3c = s.i3c := rfl
@[simp] theorem State.setPeck_fw (p : Nat) (x : Peck) : (s.setPeck p x).fw = s.fw := rfl
@[simp] theorem State.setPeck_watches (p : Nat) (x : Peck) : (s.setPeck p x).watches = s.watches := rfl
@[simp] theorem State.setPeck_replays (p : Nat) (x : Peck) : (s.setPeck p x).replays = s.replays := rfl
@[simp] theorem State.setPeck_verdicts (p : Nat) (x : Peck) : (s.setPeck p x).verdicts = s.verdicts := rfl
@[simp] theorem State.setPeck_warms (p : Nat) (x : Peck) : (s.setPeck p x).warms = s.warms := rfl
@[simp] theorem State.setPeck_mtr (p : Nat) (x : Peck) : (s.setPeck p x).mtr = s.mtr := rfl
@[simp] theorem State.setPeck_minute (p : Nat) (x : Peck) : (s.setPeck p x).minute = s.minute := rfl
@[simp] theorem State.setPeck_pcie (p : Nat) (x : Peck) : (s.setPeck p x).pcie = s.pcie := rfl
@[simp] theorem State.setPeck_intg (p : Nat) (x : Peck) : (s.setPeck p x).intg = s.intg := rfl
@[simp] theorem State.setPeck_pwr (p : Nat) (x : Peck) : (s.setPeck p x).pwr = s.pwr := rfl
@[simp] theorem State.setPeck_clk (p : Nat) (x : Peck) : (s.setPeck p x).clk = s.clk := rfl
@[simp] theorem State.setPeck_rcv (p : Nat) (x : Peck) : (s.setPeck p x).rcv = s.rcv := rfl

@[simp] theorem State.updPeck_pending (p : Nat) (f : Peck → Peck) : (s.updPeck p f).pending = s.pending := rfl
@[simp] theorem State.updPeck_mem (p : Nat) (f : Peck → Peck) : (s.updPeck p f).mem = s.mem := rfl
@[simp] theorem State.updPeck_regions (p : Nat) (f : Peck → Peck) : (s.updPeck p f).regions = s.regions := rfl
@[simp] theorem State.updPeck_engines (p : Nat) (f : Peck → Peck) : (s.updPeck p f).engines = s.engines := rfl
@[simp] theorem State.updPeck_barriers (p : Nat) (f : Peck → Peck) : (s.updPeck p f).barriers = s.barriers := rfl
@[simp] theorem State.updPeck_deriveFill (p : Nat) (f : Peck → Peck) : (s.updPeck p f).deriveFill = s.deriveFill := rfl
@[simp] theorem State.updPeck_deriveRsv (p : Nat) (f : Peck → Peck) : (s.updPeck p f).deriveRsv = s.deriveRsv := rfl
@[simp] theorem State.updPeck_deriveBack (p : Nat) (f : Peck → Peck) : (s.updPeck p f).deriveBack = s.deriveBack := rfl
@[simp] theorem State.updPeck_revokes (p : Nat) (f : Peck → Peck) : (s.updPeck p f).revokes = s.revokes := rfl
@[simp] theorem State.updPeck_starts (p : Nat) (f : Peck → Peck) : (s.updPeck p f).starts = s.starts := rfl
@[simp] theorem State.updPeck_time (p : Nat) (f : Peck → Peck) : (s.updPeck p f).time = s.time := rfl
@[simp] theorem State.updPeck_mono (p : Nat) (f : Peck → Peck) : (s.updPeck p f).mono = s.mono := rfl
@[simp] theorem State.updPeck_qcycles (p : Nat) (f : Peck → Peck) : (s.updPeck p f).qcycles = s.qcycles := rfl
@[simp] theorem State.updPeck_nextCopy (p : Nat) (f : Peck → Peck) : (s.updPeck p f).nextCopy = s.nextCopy := rfl
@[simp] theorem State.updPeck_free (p : Nat) (f : Peck → Peck) : (s.updPeck p f).free = s.free := rfl
@[simp] theorem State.updPeck_secondary (p : Nat) (f : Peck → Peck) : (s.updPeck p f).secondary = s.secondary := rfl
@[simp] theorem State.updPeck_regs (p : Nat) (f : Peck → Peck) : (s.updPeck p f).regs = s.regs := rfl
@[simp] theorem State.updPeck_latent (p : Nat) (f : Peck → Peck) : (s.updPeck p f).latent = s.latent := rfl
@[simp] theorem State.updPeck_fns (p : Nat) (f : Peck → Peck) : (s.updPeck p f).fns = s.fns := rfl
@[simp] theorem State.updPeck_springs (p : Nat) (f : Peck → Peck) : (s.updPeck p f).springs = s.springs := rfl
@[simp] theorem State.updPeck_rings (p : Nat) (f : Peck → Peck) : (s.updPeck p f).rings = s.rings := rfl
@[simp] theorem State.updPeck_items (p : Nat) (f : Peck → Peck) : (s.updPeck p f).items = s.items := rfl
@[simp] theorem State.updPeck_nextItem (p : Nat) (f : Peck → Peck) : (s.updPeck p f).nextItem = s.nextItem := rfl
@[simp] theorem State.updPeck_log (p : Nat) (f : Peck → Peck) : (s.updPeck p f).log = s.log := rfl
@[simp] theorem State.updPeck_logpi (p : Nat) (f : Peck → Peck) : (s.updPeck p f).logpi = s.logpi := rfl
@[simp] theorem State.updPeck_attached (p : Nat) (f : Peck → Peck) : (s.updPeck p f).attached = s.attached := rfl
@[simp] theorem State.updPeck_hbeat (p : Nat) (f : Peck → Peck) : (s.updPeck p f).hbeat = s.hbeat := rfl
@[simp] theorem State.updPeck_reads (p : Nat) (f : Peck → Peck) : (s.updPeck p f).reads = s.reads := rfl
@[simp] theorem State.updPeck_nextTag (p : Nat) (f : Peck → Peck) : (s.updPeck p f).nextTag = s.nextTag := rfl
@[simp] theorem State.updPeck_out (p : Nat) (f : Peck → Peck) : (s.updPeck p f).out = s.out := rfl
@[simp] theorem State.updPeck_cqs (p : Nat) (f : Peck → Peck) : (s.updPeck p f).cqs = s.cqs := rfl
@[simp] theorem State.updPeck_phase (p : Nat) (f : Peck → Peck) : (s.updPeck p f).phase = s.phase := rfl
@[simp] theorem State.updPeck_ats (p : Nat) (f : Peck → Peck) : (s.updPeck p f).ats = s.ats := rfl
@[simp] theorem State.updPeck_atsInv (p : Nat) (f : Peck → Peck) : (s.updPeck p f).atsInv = s.atsInv := rfl
@[simp] theorem State.updPeck_keys (p : Nat) (f : Peck → Peck) : (s.updPeck p f).keys = s.keys := rfl
@[simp] theorem State.updPeck_arms (p : Nat) (f : Peck → Peck) : (s.updPeck p f).arms = s.arms := rfl
@[simp] theorem State.updPeck_retired (p : Nat) (f : Peck → Peck) : (s.updPeck p f).retired = s.retired := rfl
@[simp] theorem State.updPeck_insts (p : Nat) (f : Peck → Peck) : (s.updPeck p f).insts = s.insts := rfl
@[simp] theorem State.updPeck_msgs (p : Nat) (f : Peck → Peck) : (s.updPeck p f).msgs = s.msgs := rfl
@[simp] theorem State.updPeck_nextKey (p : Nat) (f : Peck → Peck) : (s.updPeck p f).nextKey = s.nextKey := rfl
@[simp] theorem State.updPeck_eps (p : Nat) (f : Peck → Peck) : (s.updPeck p f).eps = s.eps := rfl
@[simp] theorem State.updPeck_ports (p : Nat) (f : Peck → Peck) : (s.updPeck p f).ports = s.ports := rfl
@[simp] theorem State.updPeck_writes (p : Nat) (f : Peck → Peck) : (s.updPeck p f).writes = s.writes := rfl
@[simp] theorem State.updPeck_resps (p : Nat) (f : Peck → Peck) : (s.updPeck p f).resps = s.resps := rfl
@[simp] theorem State.updPeck_nextResp (p : Nat) (f : Peck → Peck) : (s.updPeck p f).nextResp = s.nextResp := rfl
@[simp] theorem State.updPeck_groups (p : Nat) (f : Peck → Peck) : (s.updPeck p f).groups = s.groups := rfl
@[simp] theorem State.updPeck_bindings (p : Nat) (f : Peck → Peck) : (s.updPeck p f).bindings = s.bindings := rfl
@[simp] theorem State.updPeck_landed (p : Nat) (f : Peck → Peck) : (s.updPeck p f).landed = s.landed := rfl
@[simp] theorem State.updPeck_nextWr (p : Nat) (f : Peck → Peck) : (s.updPeck p f).nextWr = s.nextWr := rfl
@[simp] theorem State.updPeck_deal (p : Nat) (f : Peck → Peck) : (s.updPeck p f).deal = s.deal := rfl
@[simp] theorem State.updPeck_outcomes (p : Nat) (f : Peck → Peck) : (s.updPeck p f).outcomes = s.outcomes := rfl
@[simp] theorem State.updPeck_arrivals (p : Nat) (f : Peck → Peck) : (s.updPeck p f).arrivals = s.arrivals := rfl
@[simp] theorem State.updPeck_windows (p : Nat) (f : Peck → Peck) : (s.updPeck p f).windows = s.windows := rfl
@[simp] theorem State.updPeck_drives (p : Nat) (f : Peck → Peck) : (s.updPeck p f).drives = s.drives := rfl
@[simp] theorem State.updPeck_vols (p : Nat) (f : Peck → Peck) : (s.updPeck p f).vols = s.vols := rfl
@[simp] theorem State.updPeck_vreqs (p : Nat) (f : Peck → Peck) : (s.updPeck p f).vreqs = s.vreqs := rfl
@[simp] theorem State.updPeck_nextVreq (p : Nat) (f : Peck → Peck) : (s.updPeck p f).nextVreq = s.nextVreq := rfl
@[simp] theorem State.updPeck_dcmds (p : Nat) (f : Peck → Peck) : (s.updPeck p f).dcmds = s.dcmds := rfl
@[simp] theorem State.updPeck_nvmes (p : Nat) (f : Peck → Peck) : (s.updPeck p f).nvmes = s.nvmes := rfl
@[simp] theorem State.updPeck_feeds (p : Nat) (f : Peck → Peck) : (s.updPeck p f).feeds = s.feeds := rfl
@[simp] theorem State.updPeck_nextDcmd (p : Nat) (f : Peck → Peck) : (s.updPeck p f).nextDcmd = s.nextDcmd := rfl
@[simp] theorem State.updPeck_fetches (p : Nat) (f : Peck → Peck) : (s.updPeck p f).fetches = s.fetches := rfl
@[simp] theorem State.updPeck_nextFetch (p : Nat) (f : Peck → Peck) : (s.updPeck p f).nextFetch = s.nextFetch := rfl
@[simp] theorem State.updPeck_scratch (p : Nat) (f : Peck → Peck) : (s.updPeck p f).scratch = s.scratch := rfl
@[simp] theorem State.updPeck_colls (p : Nat) (f : Peck → Peck) : (s.updPeck p f).colls = s.colls := rfl
@[simp] theorem State.updPeck_nextColl (p : Nat) (f : Peck → Peck) : (s.updPeck p f).nextColl = s.nextColl := rfl
@[simp] theorem State.updPeck_seqs (p : Nat) (f : Peck → Peck) : (s.updPeck p f).seqs = s.seqs := rfl
@[simp] theorem State.updPeck_shares (p : Nat) (f : Peck → Peck) : (s.updPeck p f).shares = s.shares := rfl
@[simp] theorem State.updPeck_kvmoves (p : Nat) (f : Peck → Peck) : (s.updPeck p f).kvmoves = s.kvmoves := rfl
@[simp] theorem State.updPeck_nextMove (p : Nat) (f : Peck → Peck) : (s.updPeck p f).nextMove = s.nextMove := rfl
@[simp] theorem State.updPeck_alarmLive (p : Nat) (f : Peck → Peck) : (s.updPeck p f).alarmLive = s.alarmLive := rfl
@[simp] theorem State.updPeck_d3cold (p : Nat) (f : Peck → Peck) : (s.updPeck p f).d3cold = s.d3cold := rfl
@[simp] theorem State.updPeck_ckpts (p : Nat) (f : Peck → Peck) : (s.updPeck p f).ckpts = s.ckpts := rfl
@[simp] theorem State.updPeck_notices (p : Nat) (f : Peck → Peck) : (s.updPeck p f).notices = s.notices := rfl
@[simp] theorem State.updPeck_mirrors (p : Nat) (f : Peck → Peck) : (s.updPeck p f).mirrors = s.mirrors := rfl
@[simp] theorem State.updPeck_pair (p : Nat) (f : Peck → Peck) : (s.updPeck p f).pair = s.pair := rfl
@[simp] theorem State.updPeck_i3c (p : Nat) (f : Peck → Peck) : (s.updPeck p f).i3c = s.i3c := rfl
@[simp] theorem State.updPeck_fw (p : Nat) (f : Peck → Peck) : (s.updPeck p f).fw = s.fw := rfl
@[simp] theorem State.updPeck_watches (p : Nat) (f : Peck → Peck) : (s.updPeck p f).watches = s.watches := rfl
@[simp] theorem State.updPeck_replays (p : Nat) (f : Peck → Peck) : (s.updPeck p f).replays = s.replays := rfl
@[simp] theorem State.updPeck_verdicts (p : Nat) (f : Peck → Peck) : (s.updPeck p f).verdicts = s.verdicts := rfl
@[simp] theorem State.updPeck_warms (p : Nat) (f : Peck → Peck) : (s.updPeck p f).warms = s.warms := rfl
@[simp] theorem State.updPeck_mtr (p : Nat) (f : Peck → Peck) : (s.updPeck p f).mtr = s.mtr := rfl
@[simp] theorem State.updPeck_minute (p : Nat) (f : Peck → Peck) : (s.updPeck p f).minute = s.minute := rfl
@[simp] theorem State.updPeck_pcie (p : Nat) (f : Peck → Peck) : (s.updPeck p f).pcie = s.pcie := rfl
@[simp] theorem State.updPeck_intg (p : Nat) (f : Peck → Peck) : (s.updPeck p f).intg = s.intg := rfl
@[simp] theorem State.updPeck_pwr (p : Nat) (f : Peck → Peck) : (s.updPeck p f).pwr = s.pwr := rfl
@[simp] theorem State.updPeck_clk (p : Nat) (f : Peck → Peck) : (s.updPeck p f).clk = s.clk := rfl
@[simp] theorem State.updPeck_rcv (p : Nat) (f : Peck → Peck) : (s.updPeck p f).rcv = s.rcv := rfl

@[simp] theorem State.setFn_pending (f : Nat) (x : Fn) : (s.setFn f x).pending = s.pending := rfl
@[simp] theorem State.setFn_mem (f : Nat) (x : Fn) : (s.setFn f x).mem = s.mem := rfl
@[simp] theorem State.setFn_regions (f : Nat) (x : Fn) : (s.setFn f x).regions = s.regions := rfl
@[simp] theorem State.setFn_engines (f : Nat) (x : Fn) : (s.setFn f x).engines = s.engines := rfl
@[simp] theorem State.setFn_barriers (f : Nat) (x : Fn) : (s.setFn f x).barriers = s.barriers := rfl
@[simp] theorem State.setFn_deriveFill (f : Nat) (x : Fn) : (s.setFn f x).deriveFill = s.deriveFill := rfl
@[simp] theorem State.setFn_deriveRsv (f : Nat) (x : Fn) : (s.setFn f x).deriveRsv = s.deriveRsv := rfl
@[simp] theorem State.setFn_deriveBack (f : Nat) (x : Fn) : (s.setFn f x).deriveBack = s.deriveBack := rfl
@[simp] theorem State.setFn_revokes (f : Nat) (x : Fn) : (s.setFn f x).revokes = s.revokes := rfl
@[simp] theorem State.setFn_starts (f : Nat) (x : Fn) : (s.setFn f x).starts = s.starts := rfl
@[simp] theorem State.setFn_time (f : Nat) (x : Fn) : (s.setFn f x).time = s.time := rfl
@[simp] theorem State.setFn_mono (f : Nat) (x : Fn) : (s.setFn f x).mono = s.mono := rfl
@[simp] theorem State.setFn_qcycles (f : Nat) (x : Fn) : (s.setFn f x).qcycles = s.qcycles := rfl
@[simp] theorem State.setFn_nextCopy (f : Nat) (x : Fn) : (s.setFn f x).nextCopy = s.nextCopy := rfl
@[simp] theorem State.setFn_free (f : Nat) (x : Fn) : (s.setFn f x).free = s.free := rfl
@[simp] theorem State.setFn_secondary (f : Nat) (x : Fn) : (s.setFn f x).secondary = s.secondary := rfl
@[simp] theorem State.setFn_regs (f : Nat) (x : Fn) : (s.setFn f x).regs = s.regs := rfl
@[simp] theorem State.setFn_latent (f : Nat) (x : Fn) : (s.setFn f x).latent = s.latent := rfl
@[simp] theorem State.setFn_springs (f : Nat) (x : Fn) : (s.setFn f x).springs = s.springs := rfl
@[simp] theorem State.setFn_rings (f : Nat) (x : Fn) : (s.setFn f x).rings = s.rings := rfl
@[simp] theorem State.setFn_items (f : Nat) (x : Fn) : (s.setFn f x).items = s.items := rfl
@[simp] theorem State.setFn_nextItem (f : Nat) (x : Fn) : (s.setFn f x).nextItem = s.nextItem := rfl
@[simp] theorem State.setFn_log (f : Nat) (x : Fn) : (s.setFn f x).log = s.log := rfl
@[simp] theorem State.setFn_logpi (f : Nat) (x : Fn) : (s.setFn f x).logpi = s.logpi := rfl
@[simp] theorem State.setFn_attached (f : Nat) (x : Fn) : (s.setFn f x).attached = s.attached := rfl
@[simp] theorem State.setFn_hbeat (f : Nat) (x : Fn) : (s.setFn f x).hbeat = s.hbeat := rfl
@[simp] theorem State.setFn_reads (f : Nat) (x : Fn) : (s.setFn f x).reads = s.reads := rfl
@[simp] theorem State.setFn_nextTag (f : Nat) (x : Fn) : (s.setFn f x).nextTag = s.nextTag := rfl
@[simp] theorem State.setFn_out (f : Nat) (x : Fn) : (s.setFn f x).out = s.out := rfl
@[simp] theorem State.setFn_cqs (f : Nat) (x : Fn) : (s.setFn f x).cqs = s.cqs := rfl
@[simp] theorem State.setFn_pecks (f : Nat) (x : Fn) : (s.setFn f x).pecks = s.pecks := rfl
@[simp] theorem State.setFn_phase (f : Nat) (x : Fn) : (s.setFn f x).phase = s.phase := rfl
@[simp] theorem State.setFn_ats (f : Nat) (x : Fn) : (s.setFn f x).ats = s.ats := rfl
@[simp] theorem State.setFn_atsInv (f : Nat) (x : Fn) : (s.setFn f x).atsInv = s.atsInv := rfl
@[simp] theorem State.setFn_keys (f : Nat) (x : Fn) : (s.setFn f x).keys = s.keys := rfl
@[simp] theorem State.setFn_arms (f : Nat) (x : Fn) : (s.setFn f x).arms = s.arms := rfl
@[simp] theorem State.setFn_retired (f : Nat) (x : Fn) : (s.setFn f x).retired = s.retired := rfl
@[simp] theorem State.setFn_insts (f : Nat) (x : Fn) : (s.setFn f x).insts = s.insts := rfl
@[simp] theorem State.setFn_msgs (f : Nat) (x : Fn) : (s.setFn f x).msgs = s.msgs := rfl
@[simp] theorem State.setFn_nextKey (f : Nat) (x : Fn) : (s.setFn f x).nextKey = s.nextKey := rfl
@[simp] theorem State.setFn_eps (f : Nat) (x : Fn) : (s.setFn f x).eps = s.eps := rfl
@[simp] theorem State.setFn_ports (f : Nat) (x : Fn) : (s.setFn f x).ports = s.ports := rfl
@[simp] theorem State.setFn_writes (f : Nat) (x : Fn) : (s.setFn f x).writes = s.writes := rfl
@[simp] theorem State.setFn_resps (f : Nat) (x : Fn) : (s.setFn f x).resps = s.resps := rfl
@[simp] theorem State.setFn_nextResp (f : Nat) (x : Fn) : (s.setFn f x).nextResp = s.nextResp := rfl
@[simp] theorem State.setFn_groups (f : Nat) (x : Fn) : (s.setFn f x).groups = s.groups := rfl
@[simp] theorem State.setFn_bindings (f : Nat) (x : Fn) : (s.setFn f x).bindings = s.bindings := rfl
@[simp] theorem State.setFn_landed (f : Nat) (x : Fn) : (s.setFn f x).landed = s.landed := rfl
@[simp] theorem State.setFn_nextWr (f : Nat) (x : Fn) : (s.setFn f x).nextWr = s.nextWr := rfl
@[simp] theorem State.setFn_deal (f : Nat) (x : Fn) : (s.setFn f x).deal = s.deal := rfl
@[simp] theorem State.setFn_outcomes (f : Nat) (x : Fn) : (s.setFn f x).outcomes = s.outcomes := rfl
@[simp] theorem State.setFn_arrivals (f : Nat) (x : Fn) : (s.setFn f x).arrivals = s.arrivals := rfl
@[simp] theorem State.setFn_windows (f : Nat) (x : Fn) : (s.setFn f x).windows = s.windows := rfl
@[simp] theorem State.setFn_drives (f : Nat) (x : Fn) : (s.setFn f x).drives = s.drives := rfl
@[simp] theorem State.setFn_vols (f : Nat) (x : Fn) : (s.setFn f x).vols = s.vols := rfl
@[simp] theorem State.setFn_vreqs (f : Nat) (x : Fn) : (s.setFn f x).vreqs = s.vreqs := rfl
@[simp] theorem State.setFn_nextVreq (f : Nat) (x : Fn) : (s.setFn f x).nextVreq = s.nextVreq := rfl
@[simp] theorem State.setFn_dcmds (f : Nat) (x : Fn) : (s.setFn f x).dcmds = s.dcmds := rfl
@[simp] theorem State.setFn_nvmes (f : Nat) (x : Fn) : (s.setFn f x).nvmes = s.nvmes := rfl
@[simp] theorem State.setFn_feeds (f : Nat) (x : Fn) : (s.setFn f x).feeds = s.feeds := rfl
@[simp] theorem State.setFn_nextDcmd (f : Nat) (x : Fn) : (s.setFn f x).nextDcmd = s.nextDcmd := rfl
@[simp] theorem State.setFn_fetches (f : Nat) (x : Fn) : (s.setFn f x).fetches = s.fetches := rfl
@[simp] theorem State.setFn_nextFetch (f : Nat) (x : Fn) : (s.setFn f x).nextFetch = s.nextFetch := rfl
@[simp] theorem State.setFn_scratch (f : Nat) (x : Fn) : (s.setFn f x).scratch = s.scratch := rfl
@[simp] theorem State.setFn_colls (f : Nat) (x : Fn) : (s.setFn f x).colls = s.colls := rfl
@[simp] theorem State.setFn_nextColl (f : Nat) (x : Fn) : (s.setFn f x).nextColl = s.nextColl := rfl
@[simp] theorem State.setFn_seqs (f : Nat) (x : Fn) : (s.setFn f x).seqs = s.seqs := rfl
@[simp] theorem State.setFn_shares (f : Nat) (x : Fn) : (s.setFn f x).shares = s.shares := rfl
@[simp] theorem State.setFn_kvmoves (f : Nat) (x : Fn) : (s.setFn f x).kvmoves = s.kvmoves := rfl
@[simp] theorem State.setFn_nextMove (f : Nat) (x : Fn) : (s.setFn f x).nextMove = s.nextMove := rfl
@[simp] theorem State.setFn_alarmLive (f : Nat) (x : Fn) : (s.setFn f x).alarmLive = s.alarmLive := rfl
@[simp] theorem State.setFn_d3cold (f : Nat) (x : Fn) : (s.setFn f x).d3cold = s.d3cold := rfl
@[simp] theorem State.setFn_ckpts (f : Nat) (x : Fn) : (s.setFn f x).ckpts = s.ckpts := rfl
@[simp] theorem State.setFn_notices (f : Nat) (x : Fn) : (s.setFn f x).notices = s.notices := rfl
@[simp] theorem State.setFn_mirrors (f : Nat) (x : Fn) : (s.setFn f x).mirrors = s.mirrors := rfl
@[simp] theorem State.setFn_pair (f : Nat) (x : Fn) : (s.setFn f x).pair = s.pair := rfl
@[simp] theorem State.setFn_i3c (f : Nat) (x : Fn) : (s.setFn f x).i3c = s.i3c := rfl
@[simp] theorem State.setFn_fw (f : Nat) (x : Fn) : (s.setFn f x).fw = s.fw := rfl
@[simp] theorem State.setFn_watches (f : Nat) (x : Fn) : (s.setFn f x).watches = s.watches := rfl
@[simp] theorem State.setFn_replays (f : Nat) (x : Fn) : (s.setFn f x).replays = s.replays := rfl
@[simp] theorem State.setFn_verdicts (f : Nat) (x : Fn) : (s.setFn f x).verdicts = s.verdicts := rfl
@[simp] theorem State.setFn_warms (f : Nat) (x : Fn) : (s.setFn f x).warms = s.warms := rfl
@[simp] theorem State.setFn_mtr (f : Nat) (x : Fn) : (s.setFn f x).mtr = s.mtr := rfl
@[simp] theorem State.setFn_minute (f : Nat) (x : Fn) : (s.setFn f x).minute = s.minute := rfl
@[simp] theorem State.setFn_pcie (f : Nat) (x : Fn) : (s.setFn f x).pcie = s.pcie := rfl
@[simp] theorem State.setFn_intg (f : Nat) (x : Fn) : (s.setFn f x).intg = s.intg := rfl
@[simp] theorem State.setFn_pwr (f : Nat) (x : Fn) : (s.setFn f x).pwr = s.pwr := rfl
@[simp] theorem State.setFn_clk (f : Nat) (x : Fn) : (s.setFn f x).clk = s.clk := rfl
@[simp] theorem State.setFn_rcv (f : Nat) (x : Fn) : (s.setFn f x).rcv = s.rcv := rfl

@[simp] theorem State.setSpring_pending (k : Nat) (x : Spring) : (s.setSpring k x).pending = s.pending := rfl
@[simp] theorem State.setSpring_mem (k : Nat) (x : Spring) : (s.setSpring k x).mem = s.mem := rfl
@[simp] theorem State.setSpring_regions (k : Nat) (x : Spring) : (s.setSpring k x).regions = s.regions := rfl
@[simp] theorem State.setSpring_engines (k : Nat) (x : Spring) : (s.setSpring k x).engines = s.engines := rfl
@[simp] theorem State.setSpring_barriers (k : Nat) (x : Spring) : (s.setSpring k x).barriers = s.barriers := rfl
@[simp] theorem State.setSpring_deriveFill (k : Nat) (x : Spring) : (s.setSpring k x).deriveFill = s.deriveFill := rfl
@[simp] theorem State.setSpring_deriveRsv (k : Nat) (x : Spring) : (s.setSpring k x).deriveRsv = s.deriveRsv := rfl
@[simp] theorem State.setSpring_deriveBack (k : Nat) (x : Spring) : (s.setSpring k x).deriveBack = s.deriveBack := rfl
@[simp] theorem State.setSpring_revokes (k : Nat) (x : Spring) : (s.setSpring k x).revokes = s.revokes := rfl
@[simp] theorem State.setSpring_starts (k : Nat) (x : Spring) : (s.setSpring k x).starts = s.starts := rfl
@[simp] theorem State.setSpring_time (k : Nat) (x : Spring) : (s.setSpring k x).time = s.time := rfl
@[simp] theorem State.setSpring_mono (k : Nat) (x : Spring) : (s.setSpring k x).mono = s.mono := rfl
@[simp] theorem State.setSpring_qcycles (k : Nat) (x : Spring) : (s.setSpring k x).qcycles = s.qcycles := rfl
@[simp] theorem State.setSpring_nextCopy (k : Nat) (x : Spring) : (s.setSpring k x).nextCopy = s.nextCopy := rfl
@[simp] theorem State.setSpring_free (k : Nat) (x : Spring) : (s.setSpring k x).free = s.free := rfl
@[simp] theorem State.setSpring_secondary (k : Nat) (x : Spring) : (s.setSpring k x).secondary = s.secondary := rfl
@[simp] theorem State.setSpring_regs (k : Nat) (x : Spring) : (s.setSpring k x).regs = s.regs := rfl
@[simp] theorem State.setSpring_latent (k : Nat) (x : Spring) : (s.setSpring k x).latent = s.latent := rfl
@[simp] theorem State.setSpring_fns (k : Nat) (x : Spring) : (s.setSpring k x).fns = s.fns := rfl
@[simp] theorem State.setSpring_rings (k : Nat) (x : Spring) : (s.setSpring k x).rings = s.rings := rfl
@[simp] theorem State.setSpring_items (k : Nat) (x : Spring) : (s.setSpring k x).items = s.items := rfl
@[simp] theorem State.setSpring_nextItem (k : Nat) (x : Spring) : (s.setSpring k x).nextItem = s.nextItem := rfl
@[simp] theorem State.setSpring_log (k : Nat) (x : Spring) : (s.setSpring k x).log = s.log := rfl
@[simp] theorem State.setSpring_logpi (k : Nat) (x : Spring) : (s.setSpring k x).logpi = s.logpi := rfl
@[simp] theorem State.setSpring_attached (k : Nat) (x : Spring) : (s.setSpring k x).attached = s.attached := rfl
@[simp] theorem State.setSpring_hbeat (k : Nat) (x : Spring) : (s.setSpring k x).hbeat = s.hbeat := rfl
@[simp] theorem State.setSpring_reads (k : Nat) (x : Spring) : (s.setSpring k x).reads = s.reads := rfl
@[simp] theorem State.setSpring_nextTag (k : Nat) (x : Spring) : (s.setSpring k x).nextTag = s.nextTag := rfl
@[simp] theorem State.setSpring_out (k : Nat) (x : Spring) : (s.setSpring k x).out = s.out := rfl
@[simp] theorem State.setSpring_cqs (k : Nat) (x : Spring) : (s.setSpring k x).cqs = s.cqs := rfl
@[simp] theorem State.setSpring_pecks (k : Nat) (x : Spring) : (s.setSpring k x).pecks = s.pecks := rfl
@[simp] theorem State.setSpring_phase (k : Nat) (x : Spring) : (s.setSpring k x).phase = s.phase := rfl
@[simp] theorem State.setSpring_ats (k : Nat) (x : Spring) : (s.setSpring k x).ats = s.ats := rfl
@[simp] theorem State.setSpring_atsInv (k : Nat) (x : Spring) : (s.setSpring k x).atsInv = s.atsInv := rfl
@[simp] theorem State.setSpring_keys (k : Nat) (x : Spring) : (s.setSpring k x).keys = s.keys := rfl
@[simp] theorem State.setSpring_arms (k : Nat) (x : Spring) : (s.setSpring k x).arms = s.arms := rfl
@[simp] theorem State.setSpring_retired (k : Nat) (x : Spring) : (s.setSpring k x).retired = s.retired := rfl
@[simp] theorem State.setSpring_insts (k : Nat) (x : Spring) : (s.setSpring k x).insts = s.insts := rfl
@[simp] theorem State.setSpring_msgs (k : Nat) (x : Spring) : (s.setSpring k x).msgs = s.msgs := rfl
@[simp] theorem State.setSpring_nextKey (k : Nat) (x : Spring) : (s.setSpring k x).nextKey = s.nextKey := rfl
@[simp] theorem State.setSpring_eps (k : Nat) (x : Spring) : (s.setSpring k x).eps = s.eps := rfl
@[simp] theorem State.setSpring_ports (k : Nat) (x : Spring) : (s.setSpring k x).ports = s.ports := rfl
@[simp] theorem State.setSpring_writes (k : Nat) (x : Spring) : (s.setSpring k x).writes = s.writes := rfl
@[simp] theorem State.setSpring_resps (k : Nat) (x : Spring) : (s.setSpring k x).resps = s.resps := rfl
@[simp] theorem State.setSpring_nextResp (k : Nat) (x : Spring) : (s.setSpring k x).nextResp = s.nextResp := rfl
@[simp] theorem State.setSpring_groups (k : Nat) (x : Spring) : (s.setSpring k x).groups = s.groups := rfl
@[simp] theorem State.setSpring_bindings (k : Nat) (x : Spring) : (s.setSpring k x).bindings = s.bindings := rfl
@[simp] theorem State.setSpring_landed (k : Nat) (x : Spring) : (s.setSpring k x).landed = s.landed := rfl
@[simp] theorem State.setSpring_nextWr (k : Nat) (x : Spring) : (s.setSpring k x).nextWr = s.nextWr := rfl
@[simp] theorem State.setSpring_deal (k : Nat) (x : Spring) : (s.setSpring k x).deal = s.deal := rfl
@[simp] theorem State.setSpring_outcomes (k : Nat) (x : Spring) : (s.setSpring k x).outcomes = s.outcomes := rfl
@[simp] theorem State.setSpring_arrivals (k : Nat) (x : Spring) : (s.setSpring k x).arrivals = s.arrivals := rfl
@[simp] theorem State.setSpring_windows (k : Nat) (x : Spring) : (s.setSpring k x).windows = s.windows := rfl
@[simp] theorem State.setSpring_drives (k : Nat) (x : Spring) : (s.setSpring k x).drives = s.drives := rfl
@[simp] theorem State.setSpring_vols (k : Nat) (x : Spring) : (s.setSpring k x).vols = s.vols := rfl
@[simp] theorem State.setSpring_vreqs (k : Nat) (x : Spring) : (s.setSpring k x).vreqs = s.vreqs := rfl
@[simp] theorem State.setSpring_nextVreq (k : Nat) (x : Spring) : (s.setSpring k x).nextVreq = s.nextVreq := rfl
@[simp] theorem State.setSpring_dcmds (k : Nat) (x : Spring) : (s.setSpring k x).dcmds = s.dcmds := rfl
@[simp] theorem State.setSpring_nvmes (k : Nat) (x : Spring) : (s.setSpring k x).nvmes = s.nvmes := rfl
@[simp] theorem State.setSpring_feeds (k : Nat) (x : Spring) : (s.setSpring k x).feeds = s.feeds := rfl
@[simp] theorem State.setSpring_nextDcmd (k : Nat) (x : Spring) : (s.setSpring k x).nextDcmd = s.nextDcmd := rfl
@[simp] theorem State.setSpring_fetches (k : Nat) (x : Spring) : (s.setSpring k x).fetches = s.fetches := rfl
@[simp] theorem State.setSpring_nextFetch (k : Nat) (x : Spring) : (s.setSpring k x).nextFetch = s.nextFetch := rfl
@[simp] theorem State.setSpring_scratch (k : Nat) (x : Spring) : (s.setSpring k x).scratch = s.scratch := rfl
@[simp] theorem State.setSpring_colls (k : Nat) (x : Spring) : (s.setSpring k x).colls = s.colls := rfl
@[simp] theorem State.setSpring_nextColl (k : Nat) (x : Spring) : (s.setSpring k x).nextColl = s.nextColl := rfl
@[simp] theorem State.setSpring_seqs (k : Nat) (x : Spring) : (s.setSpring k x).seqs = s.seqs := rfl
@[simp] theorem State.setSpring_shares (k : Nat) (x : Spring) : (s.setSpring k x).shares = s.shares := rfl
@[simp] theorem State.setSpring_kvmoves (k : Nat) (x : Spring) : (s.setSpring k x).kvmoves = s.kvmoves := rfl
@[simp] theorem State.setSpring_nextMove (k : Nat) (x : Spring) : (s.setSpring k x).nextMove = s.nextMove := rfl
@[simp] theorem State.setSpring_alarmLive (k : Nat) (x : Spring) : (s.setSpring k x).alarmLive = s.alarmLive := rfl
@[simp] theorem State.setSpring_d3cold (k : Nat) (x : Spring) : (s.setSpring k x).d3cold = s.d3cold := rfl
@[simp] theorem State.setSpring_ckpts (k : Nat) (x : Spring) : (s.setSpring k x).ckpts = s.ckpts := rfl
@[simp] theorem State.setSpring_notices (k : Nat) (x : Spring) : (s.setSpring k x).notices = s.notices := rfl
@[simp] theorem State.setSpring_mirrors (k : Nat) (x : Spring) : (s.setSpring k x).mirrors = s.mirrors := rfl
@[simp] theorem State.setSpring_pair (k : Nat) (x : Spring) : (s.setSpring k x).pair = s.pair := rfl
@[simp] theorem State.setSpring_i3c (k : Nat) (x : Spring) : (s.setSpring k x).i3c = s.i3c := rfl
@[simp] theorem State.setSpring_fw (k : Nat) (x : Spring) : (s.setSpring k x).fw = s.fw := rfl
@[simp] theorem State.setSpring_watches (k : Nat) (x : Spring) : (s.setSpring k x).watches = s.watches := rfl
@[simp] theorem State.setSpring_replays (k : Nat) (x : Spring) : (s.setSpring k x).replays = s.replays := rfl
@[simp] theorem State.setSpring_verdicts (k : Nat) (x : Spring) : (s.setSpring k x).verdicts = s.verdicts := rfl
@[simp] theorem State.setSpring_warms (k : Nat) (x : Spring) : (s.setSpring k x).warms = s.warms := rfl
@[simp] theorem State.setSpring_mtr (k : Nat) (x : Spring) : (s.setSpring k x).mtr = s.mtr := rfl
@[simp] theorem State.setSpring_minute (k : Nat) (x : Spring) : (s.setSpring k x).minute = s.minute := rfl
@[simp] theorem State.setSpring_pcie (k : Nat) (x : Spring) : (s.setSpring k x).pcie = s.pcie := rfl
@[simp] theorem State.setSpring_intg (k : Nat) (x : Spring) : (s.setSpring k x).intg = s.intg := rfl
@[simp] theorem State.setSpring_pwr (k : Nat) (x : Spring) : (s.setSpring k x).pwr = s.pwr := rfl
@[simp] theorem State.setSpring_clk (k : Nat) (x : Spring) : (s.setSpring k x).clk = s.clk := rfl
@[simp] theorem State.setSpring_rcv (k : Nat) (x : Spring) : (s.setSpring k x).rcv = s.rcv := rfl

@[simp] theorem State.setRing_pending (k : Nat) (x : Ring) : (s.setRing k x).pending = s.pending := rfl
@[simp] theorem State.setRing_mem (k : Nat) (x : Ring) : (s.setRing k x).mem = s.mem := rfl
@[simp] theorem State.setRing_regions (k : Nat) (x : Ring) : (s.setRing k x).regions = s.regions := rfl
@[simp] theorem State.setRing_engines (k : Nat) (x : Ring) : (s.setRing k x).engines = s.engines := rfl
@[simp] theorem State.setRing_barriers (k : Nat) (x : Ring) : (s.setRing k x).barriers = s.barriers := rfl
@[simp] theorem State.setRing_deriveFill (k : Nat) (x : Ring) : (s.setRing k x).deriveFill = s.deriveFill := rfl
@[simp] theorem State.setRing_deriveRsv (k : Nat) (x : Ring) : (s.setRing k x).deriveRsv = s.deriveRsv := rfl
@[simp] theorem State.setRing_deriveBack (k : Nat) (x : Ring) : (s.setRing k x).deriveBack = s.deriveBack := rfl
@[simp] theorem State.setRing_revokes (k : Nat) (x : Ring) : (s.setRing k x).revokes = s.revokes := rfl
@[simp] theorem State.setRing_starts (k : Nat) (x : Ring) : (s.setRing k x).starts = s.starts := rfl
@[simp] theorem State.setRing_time (k : Nat) (x : Ring) : (s.setRing k x).time = s.time := rfl
@[simp] theorem State.setRing_mono (k : Nat) (x : Ring) : (s.setRing k x).mono = s.mono := rfl
@[simp] theorem State.setRing_qcycles (k : Nat) (x : Ring) : (s.setRing k x).qcycles = s.qcycles := rfl
@[simp] theorem State.setRing_nextCopy (k : Nat) (x : Ring) : (s.setRing k x).nextCopy = s.nextCopy := rfl
@[simp] theorem State.setRing_free (k : Nat) (x : Ring) : (s.setRing k x).free = s.free := rfl
@[simp] theorem State.setRing_secondary (k : Nat) (x : Ring) : (s.setRing k x).secondary = s.secondary := rfl
@[simp] theorem State.setRing_regs (k : Nat) (x : Ring) : (s.setRing k x).regs = s.regs := rfl
@[simp] theorem State.setRing_latent (k : Nat) (x : Ring) : (s.setRing k x).latent = s.latent := rfl
@[simp] theorem State.setRing_fns (k : Nat) (x : Ring) : (s.setRing k x).fns = s.fns := rfl
@[simp] theorem State.setRing_springs (k : Nat) (x : Ring) : (s.setRing k x).springs = s.springs := rfl
@[simp] theorem State.setRing_items (k : Nat) (x : Ring) : (s.setRing k x).items = s.items := rfl
@[simp] theorem State.setRing_nextItem (k : Nat) (x : Ring) : (s.setRing k x).nextItem = s.nextItem := rfl
@[simp] theorem State.setRing_log (k : Nat) (x : Ring) : (s.setRing k x).log = s.log := rfl
@[simp] theorem State.setRing_logpi (k : Nat) (x : Ring) : (s.setRing k x).logpi = s.logpi := rfl
@[simp] theorem State.setRing_attached (k : Nat) (x : Ring) : (s.setRing k x).attached = s.attached := rfl
@[simp] theorem State.setRing_hbeat (k : Nat) (x : Ring) : (s.setRing k x).hbeat = s.hbeat := rfl
@[simp] theorem State.setRing_reads (k : Nat) (x : Ring) : (s.setRing k x).reads = s.reads := rfl
@[simp] theorem State.setRing_nextTag (k : Nat) (x : Ring) : (s.setRing k x).nextTag = s.nextTag := rfl
@[simp] theorem State.setRing_out (k : Nat) (x : Ring) : (s.setRing k x).out = s.out := rfl
@[simp] theorem State.setRing_cqs (k : Nat) (x : Ring) : (s.setRing k x).cqs = s.cqs := rfl
@[simp] theorem State.setRing_pecks (k : Nat) (x : Ring) : (s.setRing k x).pecks = s.pecks := rfl
@[simp] theorem State.setRing_phase (k : Nat) (x : Ring) : (s.setRing k x).phase = s.phase := rfl
@[simp] theorem State.setRing_ats (k : Nat) (x : Ring) : (s.setRing k x).ats = s.ats := rfl
@[simp] theorem State.setRing_atsInv (k : Nat) (x : Ring) : (s.setRing k x).atsInv = s.atsInv := rfl
@[simp] theorem State.setRing_keys (k : Nat) (x : Ring) : (s.setRing k x).keys = s.keys := rfl
@[simp] theorem State.setRing_arms (k : Nat) (x : Ring) : (s.setRing k x).arms = s.arms := rfl
@[simp] theorem State.setRing_retired (k : Nat) (x : Ring) : (s.setRing k x).retired = s.retired := rfl
@[simp] theorem State.setRing_insts (k : Nat) (x : Ring) : (s.setRing k x).insts = s.insts := rfl
@[simp] theorem State.setRing_msgs (k : Nat) (x : Ring) : (s.setRing k x).msgs = s.msgs := rfl
@[simp] theorem State.setRing_nextKey (k : Nat) (x : Ring) : (s.setRing k x).nextKey = s.nextKey := rfl
@[simp] theorem State.setRing_eps (k : Nat) (x : Ring) : (s.setRing k x).eps = s.eps := rfl
@[simp] theorem State.setRing_ports (k : Nat) (x : Ring) : (s.setRing k x).ports = s.ports := rfl
@[simp] theorem State.setRing_writes (k : Nat) (x : Ring) : (s.setRing k x).writes = s.writes := rfl
@[simp] theorem State.setRing_resps (k : Nat) (x : Ring) : (s.setRing k x).resps = s.resps := rfl
@[simp] theorem State.setRing_nextResp (k : Nat) (x : Ring) : (s.setRing k x).nextResp = s.nextResp := rfl
@[simp] theorem State.setRing_groups (k : Nat) (x : Ring) : (s.setRing k x).groups = s.groups := rfl
@[simp] theorem State.setRing_bindings (k : Nat) (x : Ring) : (s.setRing k x).bindings = s.bindings := rfl
@[simp] theorem State.setRing_landed (k : Nat) (x : Ring) : (s.setRing k x).landed = s.landed := rfl
@[simp] theorem State.setRing_nextWr (k : Nat) (x : Ring) : (s.setRing k x).nextWr = s.nextWr := rfl
@[simp] theorem State.setRing_deal (k : Nat) (x : Ring) : (s.setRing k x).deal = s.deal := rfl
@[simp] theorem State.setRing_outcomes (k : Nat) (x : Ring) : (s.setRing k x).outcomes = s.outcomes := rfl
@[simp] theorem State.setRing_arrivals (k : Nat) (x : Ring) : (s.setRing k x).arrivals = s.arrivals := rfl
@[simp] theorem State.setRing_windows (k : Nat) (x : Ring) : (s.setRing k x).windows = s.windows := rfl
@[simp] theorem State.setRing_drives (k : Nat) (x : Ring) : (s.setRing k x).drives = s.drives := rfl
@[simp] theorem State.setRing_vols (k : Nat) (x : Ring) : (s.setRing k x).vols = s.vols := rfl
@[simp] theorem State.setRing_vreqs (k : Nat) (x : Ring) : (s.setRing k x).vreqs = s.vreqs := rfl
@[simp] theorem State.setRing_nextVreq (k : Nat) (x : Ring) : (s.setRing k x).nextVreq = s.nextVreq := rfl
@[simp] theorem State.setRing_dcmds (k : Nat) (x : Ring) : (s.setRing k x).dcmds = s.dcmds := rfl
@[simp] theorem State.setRing_nvmes (k : Nat) (x : Ring) : (s.setRing k x).nvmes = s.nvmes := rfl
@[simp] theorem State.setRing_feeds (k : Nat) (x : Ring) : (s.setRing k x).feeds = s.feeds := rfl
@[simp] theorem State.setRing_nextDcmd (k : Nat) (x : Ring) : (s.setRing k x).nextDcmd = s.nextDcmd := rfl
@[simp] theorem State.setRing_fetches (k : Nat) (x : Ring) : (s.setRing k x).fetches = s.fetches := rfl
@[simp] theorem State.setRing_nextFetch (k : Nat) (x : Ring) : (s.setRing k x).nextFetch = s.nextFetch := rfl
@[simp] theorem State.setRing_scratch (k : Nat) (x : Ring) : (s.setRing k x).scratch = s.scratch := rfl
@[simp] theorem State.setRing_colls (k : Nat) (x : Ring) : (s.setRing k x).colls = s.colls := rfl
@[simp] theorem State.setRing_nextColl (k : Nat) (x : Ring) : (s.setRing k x).nextColl = s.nextColl := rfl
@[simp] theorem State.setRing_seqs (k : Nat) (x : Ring) : (s.setRing k x).seqs = s.seqs := rfl
@[simp] theorem State.setRing_shares (k : Nat) (x : Ring) : (s.setRing k x).shares = s.shares := rfl
@[simp] theorem State.setRing_kvmoves (k : Nat) (x : Ring) : (s.setRing k x).kvmoves = s.kvmoves := rfl
@[simp] theorem State.setRing_nextMove (k : Nat) (x : Ring) : (s.setRing k x).nextMove = s.nextMove := rfl
@[simp] theorem State.setRing_alarmLive (k : Nat) (x : Ring) : (s.setRing k x).alarmLive = s.alarmLive := rfl
@[simp] theorem State.setRing_d3cold (k : Nat) (x : Ring) : (s.setRing k x).d3cold = s.d3cold := rfl
@[simp] theorem State.setRing_ckpts (k : Nat) (x : Ring) : (s.setRing k x).ckpts = s.ckpts := rfl
@[simp] theorem State.setRing_notices (k : Nat) (x : Ring) : (s.setRing k x).notices = s.notices := rfl
@[simp] theorem State.setRing_mirrors (k : Nat) (x : Ring) : (s.setRing k x).mirrors = s.mirrors := rfl
@[simp] theorem State.setRing_pair (k : Nat) (x : Ring) : (s.setRing k x).pair = s.pair := rfl
@[simp] theorem State.setRing_i3c (k : Nat) (x : Ring) : (s.setRing k x).i3c = s.i3c := rfl
@[simp] theorem State.setRing_fw (k : Nat) (x : Ring) : (s.setRing k x).fw = s.fw := rfl
@[simp] theorem State.setRing_watches (k : Nat) (x : Ring) : (s.setRing k x).watches = s.watches := rfl
@[simp] theorem State.setRing_replays (k : Nat) (x : Ring) : (s.setRing k x).replays = s.replays := rfl
@[simp] theorem State.setRing_verdicts (k : Nat) (x : Ring) : (s.setRing k x).verdicts = s.verdicts := rfl
@[simp] theorem State.setRing_warms (k : Nat) (x : Ring) : (s.setRing k x).warms = s.warms := rfl
@[simp] theorem State.setRing_mtr (k : Nat) (x : Ring) : (s.setRing k x).mtr = s.mtr := rfl
@[simp] theorem State.setRing_minute (k : Nat) (x : Ring) : (s.setRing k x).minute = s.minute := rfl
@[simp] theorem State.setRing_pcie (k : Nat) (x : Ring) : (s.setRing k x).pcie = s.pcie := rfl
@[simp] theorem State.setRing_intg (k : Nat) (x : Ring) : (s.setRing k x).intg = s.intg := rfl
@[simp] theorem State.setRing_pwr (k : Nat) (x : Ring) : (s.setRing k x).pwr = s.pwr := rfl
@[simp] theorem State.setRing_clk (k : Nat) (x : Ring) : (s.setRing k x).clk = s.clk := rfl
@[simp] theorem State.setRing_rcv (k : Nat) (x : Ring) : (s.setRing k x).rcv = s.rcv := rfl

@[simp] theorem State.updItem_pending (i : ItemId) (f : Item → Item) : (s.updItem i f).pending = s.pending := rfl
@[simp] theorem State.updItem_mem (i : ItemId) (f : Item → Item) : (s.updItem i f).mem = s.mem := rfl
@[simp] theorem State.updItem_regions (i : ItemId) (f : Item → Item) : (s.updItem i f).regions = s.regions := rfl
@[simp] theorem State.updItem_engines (i : ItemId) (f : Item → Item) : (s.updItem i f).engines = s.engines := rfl
@[simp] theorem State.updItem_barriers (i : ItemId) (f : Item → Item) : (s.updItem i f).barriers = s.barriers := rfl
@[simp] theorem State.updItem_deriveFill (i : ItemId) (f : Item → Item) : (s.updItem i f).deriveFill = s.deriveFill := rfl
@[simp] theorem State.updItem_deriveRsv (i : ItemId) (f : Item → Item) : (s.updItem i f).deriveRsv = s.deriveRsv := rfl
@[simp] theorem State.updItem_deriveBack (i : ItemId) (f : Item → Item) : (s.updItem i f).deriveBack = s.deriveBack := rfl
@[simp] theorem State.updItem_revokes (i : ItemId) (f : Item → Item) : (s.updItem i f).revokes = s.revokes := rfl
@[simp] theorem State.updItem_starts (i : ItemId) (f : Item → Item) : (s.updItem i f).starts = s.starts := rfl
@[simp] theorem State.updItem_time (i : ItemId) (f : Item → Item) : (s.updItem i f).time = s.time := rfl
@[simp] theorem State.updItem_mono (i : ItemId) (f : Item → Item) : (s.updItem i f).mono = s.mono := rfl
@[simp] theorem State.updItem_qcycles (i : ItemId) (f : Item → Item) : (s.updItem i f).qcycles = s.qcycles := rfl
@[simp] theorem State.updItem_nextCopy (i : ItemId) (f : Item → Item) : (s.updItem i f).nextCopy = s.nextCopy := rfl
@[simp] theorem State.updItem_free (i : ItemId) (f : Item → Item) : (s.updItem i f).free = s.free := rfl
@[simp] theorem State.updItem_secondary (i : ItemId) (f : Item → Item) : (s.updItem i f).secondary = s.secondary := rfl
@[simp] theorem State.updItem_regs (i : ItemId) (f : Item → Item) : (s.updItem i f).regs = s.regs := rfl
@[simp] theorem State.updItem_latent (i : ItemId) (f : Item → Item) : (s.updItem i f).latent = s.latent := rfl
@[simp] theorem State.updItem_fns (i : ItemId) (f : Item → Item) : (s.updItem i f).fns = s.fns := rfl
@[simp] theorem State.updItem_springs (i : ItemId) (f : Item → Item) : (s.updItem i f).springs = s.springs := rfl
@[simp] theorem State.updItem_rings (i : ItemId) (f : Item → Item) : (s.updItem i f).rings = s.rings := rfl
@[simp] theorem State.updItem_nextItem (i : ItemId) (f : Item → Item) : (s.updItem i f).nextItem = s.nextItem := rfl
@[simp] theorem State.updItem_log (i : ItemId) (f : Item → Item) : (s.updItem i f).log = s.log := rfl
@[simp] theorem State.updItem_logpi (i : ItemId) (f : Item → Item) : (s.updItem i f).logpi = s.logpi := rfl
@[simp] theorem State.updItem_attached (i : ItemId) (f : Item → Item) : (s.updItem i f).attached = s.attached := rfl
@[simp] theorem State.updItem_hbeat (i : ItemId) (f : Item → Item) : (s.updItem i f).hbeat = s.hbeat := rfl
@[simp] theorem State.updItem_reads (i : ItemId) (f : Item → Item) : (s.updItem i f).reads = s.reads := rfl
@[simp] theorem State.updItem_nextTag (i : ItemId) (f : Item → Item) : (s.updItem i f).nextTag = s.nextTag := rfl
@[simp] theorem State.updItem_out (i : ItemId) (f : Item → Item) : (s.updItem i f).out = s.out := rfl
@[simp] theorem State.updItem_cqs (i : ItemId) (f : Item → Item) : (s.updItem i f).cqs = s.cqs := rfl
@[simp] theorem State.updItem_pecks (i : ItemId) (f : Item → Item) : (s.updItem i f).pecks = s.pecks := rfl
@[simp] theorem State.updItem_phase (i : ItemId) (f : Item → Item) : (s.updItem i f).phase = s.phase := rfl
@[simp] theorem State.updItem_ats (i : ItemId) (f : Item → Item) : (s.updItem i f).ats = s.ats := rfl
@[simp] theorem State.updItem_atsInv (i : ItemId) (f : Item → Item) : (s.updItem i f).atsInv = s.atsInv := rfl
@[simp] theorem State.updItem_keys (i : ItemId) (f : Item → Item) : (s.updItem i f).keys = s.keys := rfl
@[simp] theorem State.updItem_arms (i : ItemId) (f : Item → Item) : (s.updItem i f).arms = s.arms := rfl
@[simp] theorem State.updItem_retired (i : ItemId) (f : Item → Item) : (s.updItem i f).retired = s.retired := rfl
@[simp] theorem State.updItem_insts (i : ItemId) (f : Item → Item) : (s.updItem i f).insts = s.insts := rfl
@[simp] theorem State.updItem_msgs (i : ItemId) (f : Item → Item) : (s.updItem i f).msgs = s.msgs := rfl
@[simp] theorem State.updItem_nextKey (i : ItemId) (f : Item → Item) : (s.updItem i f).nextKey = s.nextKey := rfl
@[simp] theorem State.updItem_eps (i : ItemId) (f : Item → Item) : (s.updItem i f).eps = s.eps := rfl
@[simp] theorem State.updItem_ports (i : ItemId) (f : Item → Item) : (s.updItem i f).ports = s.ports := rfl
@[simp] theorem State.updItem_writes (i : ItemId) (f : Item → Item) : (s.updItem i f).writes = s.writes := rfl
@[simp] theorem State.updItem_resps (i : ItemId) (f : Item → Item) : (s.updItem i f).resps = s.resps := rfl
@[simp] theorem State.updItem_nextResp (i : ItemId) (f : Item → Item) : (s.updItem i f).nextResp = s.nextResp := rfl
@[simp] theorem State.updItem_groups (i : ItemId) (f : Item → Item) : (s.updItem i f).groups = s.groups := rfl
@[simp] theorem State.updItem_bindings (i : ItemId) (f : Item → Item) : (s.updItem i f).bindings = s.bindings := rfl
@[simp] theorem State.updItem_landed (i : ItemId) (f : Item → Item) : (s.updItem i f).landed = s.landed := rfl
@[simp] theorem State.updItem_nextWr (i : ItemId) (f : Item → Item) : (s.updItem i f).nextWr = s.nextWr := rfl
@[simp] theorem State.updItem_deal (i : ItemId) (f : Item → Item) : (s.updItem i f).deal = s.deal := rfl
@[simp] theorem State.updItem_outcomes (i : ItemId) (f : Item → Item) : (s.updItem i f).outcomes = s.outcomes := rfl
@[simp] theorem State.updItem_arrivals (i : ItemId) (f : Item → Item) : (s.updItem i f).arrivals = s.arrivals := rfl
@[simp] theorem State.updItem_windows (i : ItemId) (f : Item → Item) : (s.updItem i f).windows = s.windows := rfl
@[simp] theorem State.updItem_drives (i : ItemId) (f : Item → Item) : (s.updItem i f).drives = s.drives := rfl
@[simp] theorem State.updItem_vols (i : ItemId) (f : Item → Item) : (s.updItem i f).vols = s.vols := rfl
@[simp] theorem State.updItem_vreqs (i : ItemId) (f : Item → Item) : (s.updItem i f).vreqs = s.vreqs := rfl
@[simp] theorem State.updItem_nextVreq (i : ItemId) (f : Item → Item) : (s.updItem i f).nextVreq = s.nextVreq := rfl
@[simp] theorem State.updItem_dcmds (i : ItemId) (f : Item → Item) : (s.updItem i f).dcmds = s.dcmds := rfl
@[simp] theorem State.updItem_nvmes (i : ItemId) (f : Item → Item) : (s.updItem i f).nvmes = s.nvmes := rfl
@[simp] theorem State.updItem_feeds (i : ItemId) (f : Item → Item) : (s.updItem i f).feeds = s.feeds := rfl
@[simp] theorem State.updItem_nextDcmd (i : ItemId) (f : Item → Item) : (s.updItem i f).nextDcmd = s.nextDcmd := rfl
@[simp] theorem State.updItem_fetches (i : ItemId) (f : Item → Item) : (s.updItem i f).fetches = s.fetches := rfl
@[simp] theorem State.updItem_nextFetch (i : ItemId) (f : Item → Item) : (s.updItem i f).nextFetch = s.nextFetch := rfl
@[simp] theorem State.updItem_scratch (i : ItemId) (f : Item → Item) : (s.updItem i f).scratch = s.scratch := rfl
@[simp] theorem State.updItem_colls (i : ItemId) (f : Item → Item) : (s.updItem i f).colls = s.colls := rfl
@[simp] theorem State.updItem_nextColl (i : ItemId) (f : Item → Item) : (s.updItem i f).nextColl = s.nextColl := rfl
@[simp] theorem State.updItem_seqs (i : ItemId) (f : Item → Item) : (s.updItem i f).seqs = s.seqs := rfl
@[simp] theorem State.updItem_shares (i : ItemId) (f : Item → Item) : (s.updItem i f).shares = s.shares := rfl
@[simp] theorem State.updItem_kvmoves (i : ItemId) (f : Item → Item) : (s.updItem i f).kvmoves = s.kvmoves := rfl
@[simp] theorem State.updItem_nextMove (i : ItemId) (f : Item → Item) : (s.updItem i f).nextMove = s.nextMove := rfl
@[simp] theorem State.updItem_alarmLive (i : ItemId) (f : Item → Item) : (s.updItem i f).alarmLive = s.alarmLive := rfl
@[simp] theorem State.updItem_d3cold (i : ItemId) (f : Item → Item) : (s.updItem i f).d3cold = s.d3cold := rfl
@[simp] theorem State.updItem_ckpts (i : ItemId) (f : Item → Item) : (s.updItem i f).ckpts = s.ckpts := rfl
@[simp] theorem State.updItem_notices (i : ItemId) (f : Item → Item) : (s.updItem i f).notices = s.notices := rfl
@[simp] theorem State.updItem_mirrors (i : ItemId) (f : Item → Item) : (s.updItem i f).mirrors = s.mirrors := rfl
@[simp] theorem State.updItem_pair (i : ItemId) (f : Item → Item) : (s.updItem i f).pair = s.pair := rfl
@[simp] theorem State.updItem_i3c (i : ItemId) (f : Item → Item) : (s.updItem i f).i3c = s.i3c := rfl
@[simp] theorem State.updItem_fw (i : ItemId) (f : Item → Item) : (s.updItem i f).fw = s.fw := rfl
@[simp] theorem State.updItem_watches (i : ItemId) (f : Item → Item) : (s.updItem i f).watches = s.watches := rfl
@[simp] theorem State.updItem_replays (i : ItemId) (f : Item → Item) : (s.updItem i f).replays = s.replays := rfl
@[simp] theorem State.updItem_verdicts (i : ItemId) (f : Item → Item) : (s.updItem i f).verdicts = s.verdicts := rfl
@[simp] theorem State.updItem_warms (i : ItemId) (f : Item → Item) : (s.updItem i f).warms = s.warms := rfl
@[simp] theorem State.updItem_mtr (i : ItemId) (f : Item → Item) : (s.updItem i f).mtr = s.mtr := rfl
@[simp] theorem State.updItem_minute (i : ItemId) (f : Item → Item) : (s.updItem i f).minute = s.minute := rfl
@[simp] theorem State.updItem_pcie (i : ItemId) (f : Item → Item) : (s.updItem i f).pcie = s.pcie := rfl
@[simp] theorem State.updItem_intg (i : ItemId) (f : Item → Item) : (s.updItem i f).intg = s.intg := rfl
@[simp] theorem State.updItem_pwr (i : ItemId) (f : Item → Item) : (s.updItem i f).pwr = s.pwr := rfl
@[simp] theorem State.updItem_clk (i : ItemId) (f : Item → Item) : (s.updItem i f).clk = s.clk := rfl
@[simp] theorem State.updItem_rcv (i : ItemId) (f : Item → Item) : (s.updItem i f).rcv = s.rcv := rfl

@[simp] theorem State.popped_mem (r : List Instr) : (s.popped r).mem = s.mem := rfl
@[simp] theorem State.popped_regions (r : List Instr) : (s.popped r).regions = s.regions := rfl
@[simp] theorem State.popped_engines (r : List Instr) : (s.popped r).engines = s.engines := rfl
@[simp] theorem State.popped_barriers (r : List Instr) : (s.popped r).barriers = s.barriers := rfl
@[simp] theorem State.popped_deriveFill (r : List Instr) : (s.popped r).deriveFill = s.deriveFill := rfl
@[simp] theorem State.popped_deriveRsv (r : List Instr) : (s.popped r).deriveRsv = s.deriveRsv := rfl
@[simp] theorem State.popped_deriveBack (r : List Instr) : (s.popped r).deriveBack = s.deriveBack := rfl
@[simp] theorem State.popped_revokes (r : List Instr) : (s.popped r).revokes = s.revokes := rfl
@[simp] theorem State.popped_starts (r : List Instr) : (s.popped r).starts = s.starts := rfl
@[simp] theorem State.popped_time (r : List Instr) : (s.popped r).time = s.time := rfl
@[simp] theorem State.popped_mono (r : List Instr) : (s.popped r).mono = s.mono := rfl
@[simp] theorem State.popped_qcycles (r : List Instr) : (s.popped r).qcycles = s.qcycles := rfl
@[simp] theorem State.popped_nextCopy (r : List Instr) : (s.popped r).nextCopy = s.nextCopy := rfl
@[simp] theorem State.popped_free (r : List Instr) : (s.popped r).free = s.free := rfl
@[simp] theorem State.popped_secondary (r : List Instr) : (s.popped r).secondary = s.secondary := rfl
@[simp] theorem State.popped_regs (r : List Instr) : (s.popped r).regs = s.regs := rfl
@[simp] theorem State.popped_latent (r : List Instr) : (s.popped r).latent = s.latent := rfl
@[simp] theorem State.popped_fns (r : List Instr) : (s.popped r).fns = s.fns := rfl
@[simp] theorem State.popped_springs (r : List Instr) : (s.popped r).springs = s.springs := rfl
@[simp] theorem State.popped_rings (r : List Instr) : (s.popped r).rings = s.rings := rfl
@[simp] theorem State.popped_items (r : List Instr) : (s.popped r).items = s.items := rfl
@[simp] theorem State.popped_nextItem (r : List Instr) : (s.popped r).nextItem = s.nextItem := rfl
@[simp] theorem State.popped_log (r : List Instr) : (s.popped r).log = s.log := rfl
@[simp] theorem State.popped_logpi (r : List Instr) : (s.popped r).logpi = s.logpi := rfl
@[simp] theorem State.popped_attached (r : List Instr) : (s.popped r).attached = s.attached := rfl
@[simp] theorem State.popped_hbeat (r : List Instr) : (s.popped r).hbeat = s.hbeat := rfl
@[simp] theorem State.popped_reads (r : List Instr) : (s.popped r).reads = s.reads := rfl
@[simp] theorem State.popped_nextTag (r : List Instr) : (s.popped r).nextTag = s.nextTag := rfl
@[simp] theorem State.popped_out (r : List Instr) : (s.popped r).out = s.out := rfl
@[simp] theorem State.popped_cqs (r : List Instr) : (s.popped r).cqs = s.cqs := rfl
@[simp] theorem State.popped_pecks (r : List Instr) : (s.popped r).pecks = s.pecks := rfl
@[simp] theorem State.popped_phase (r : List Instr) : (s.popped r).phase = s.phase := rfl
@[simp] theorem State.popped_ats (r : List Instr) : (s.popped r).ats = s.ats := rfl
@[simp] theorem State.popped_atsInv (r : List Instr) : (s.popped r).atsInv = s.atsInv := rfl
@[simp] theorem State.popped_keys (r : List Instr) : (s.popped r).keys = s.keys := rfl
@[simp] theorem State.popped_arms (r : List Instr) : (s.popped r).arms = s.arms := rfl
@[simp] theorem State.popped_retired (r : List Instr) : (s.popped r).retired = s.retired := rfl
@[simp] theorem State.popped_insts (r : List Instr) : (s.popped r).insts = s.insts := rfl
@[simp] theorem State.popped_msgs (r : List Instr) : (s.popped r).msgs = s.msgs := rfl
@[simp] theorem State.popped_nextKey (r : List Instr) : (s.popped r).nextKey = s.nextKey := rfl
@[simp] theorem State.popped_eps (r : List Instr) : (s.popped r).eps = s.eps := rfl
@[simp] theorem State.popped_ports (r : List Instr) : (s.popped r).ports = s.ports := rfl
@[simp] theorem State.popped_writes (r : List Instr) : (s.popped r).writes = s.writes := rfl
@[simp] theorem State.popped_resps (r : List Instr) : (s.popped r).resps = s.resps := rfl
@[simp] theorem State.popped_nextResp (r : List Instr) : (s.popped r).nextResp = s.nextResp := rfl
@[simp] theorem State.popped_groups (r : List Instr) : (s.popped r).groups = s.groups := rfl
@[simp] theorem State.popped_bindings (r : List Instr) : (s.popped r).bindings = s.bindings := rfl
@[simp] theorem State.popped_landed (r : List Instr) : (s.popped r).landed = s.landed := rfl
@[simp] theorem State.popped_nextWr (r : List Instr) : (s.popped r).nextWr = s.nextWr := rfl
@[simp] theorem State.popped_deal (r : List Instr) : (s.popped r).deal = s.deal := rfl
@[simp] theorem State.popped_outcomes (r : List Instr) : (s.popped r).outcomes = s.outcomes := rfl
@[simp] theorem State.popped_arrivals (r : List Instr) : (s.popped r).arrivals = s.arrivals := rfl
@[simp] theorem State.popped_windows (r : List Instr) : (s.popped r).windows = s.windows := rfl
@[simp] theorem State.popped_drives (r : List Instr) : (s.popped r).drives = s.drives := rfl
@[simp] theorem State.popped_vols (r : List Instr) : (s.popped r).vols = s.vols := rfl
@[simp] theorem State.popped_vreqs (r : List Instr) : (s.popped r).vreqs = s.vreqs := rfl
@[simp] theorem State.popped_nextVreq (r : List Instr) : (s.popped r).nextVreq = s.nextVreq := rfl
@[simp] theorem State.popped_dcmds (r : List Instr) : (s.popped r).dcmds = s.dcmds := rfl
@[simp] theorem State.popped_nvmes (r : List Instr) : (s.popped r).nvmes = s.nvmes := rfl
@[simp] theorem State.popped_feeds (r : List Instr) : (s.popped r).feeds = s.feeds := rfl
@[simp] theorem State.popped_nextDcmd (r : List Instr) : (s.popped r).nextDcmd = s.nextDcmd := rfl
@[simp] theorem State.popped_fetches (r : List Instr) : (s.popped r).fetches = s.fetches := rfl
@[simp] theorem State.popped_nextFetch (r : List Instr) : (s.popped r).nextFetch = s.nextFetch := rfl
@[simp] theorem State.popped_scratch (r : List Instr) : (s.popped r).scratch = s.scratch := rfl
@[simp] theorem State.popped_colls (r : List Instr) : (s.popped r).colls = s.colls := rfl
@[simp] theorem State.popped_nextColl (r : List Instr) : (s.popped r).nextColl = s.nextColl := rfl
@[simp] theorem State.popped_seqs (r : List Instr) : (s.popped r).seqs = s.seqs := rfl
@[simp] theorem State.popped_shares (r : List Instr) : (s.popped r).shares = s.shares := rfl
@[simp] theorem State.popped_kvmoves (r : List Instr) : (s.popped r).kvmoves = s.kvmoves := rfl
@[simp] theorem State.popped_nextMove (r : List Instr) : (s.popped r).nextMove = s.nextMove := rfl
@[simp] theorem State.popped_alarmLive (r : List Instr) : (s.popped r).alarmLive = s.alarmLive := rfl
@[simp] theorem State.popped_d3cold (r : List Instr) : (s.popped r).d3cold = s.d3cold := rfl
@[simp] theorem State.popped_ckpts (r : List Instr) : (s.popped r).ckpts = s.ckpts := rfl
@[simp] theorem State.popped_notices (r : List Instr) : (s.popped r).notices = s.notices := rfl
@[simp] theorem State.popped_mirrors (r : List Instr) : (s.popped r).mirrors = s.mirrors := rfl
@[simp] theorem State.popped_pair (r : List Instr) : (s.popped r).pair = s.pair := rfl
@[simp] theorem State.popped_i3c (r : List Instr) : (s.popped r).i3c = s.i3c := rfl
@[simp] theorem State.popped_fw (r : List Instr) : (s.popped r).fw = s.fw := rfl
@[simp] theorem State.popped_watches (r : List Instr) : (s.popped r).watches = s.watches := rfl
@[simp] theorem State.popped_replays (r : List Instr) : (s.popped r).replays = s.replays := rfl
@[simp] theorem State.popped_verdicts (r : List Instr) : (s.popped r).verdicts = s.verdicts := rfl
@[simp] theorem State.popped_warms (r : List Instr) : (s.popped r).warms = s.warms := rfl
@[simp] theorem State.popped_mtr (r : List Instr) : (s.popped r).mtr = s.mtr := rfl
@[simp] theorem State.popped_minute (r : List Instr) : (s.popped r).minute = s.minute := rfl
@[simp] theorem State.popped_pcie (r : List Instr) : (s.popped r).pcie = s.pcie := rfl
@[simp] theorem State.popped_intg (r : List Instr) : (s.popped r).intg = s.intg := rfl
@[simp] theorem State.popped_pwr (r : List Instr) : (s.popped r).pwr = s.pwr := rfl
@[simp] theorem State.popped_clk (r : List Instr) : (s.popped r).clk = s.clk := rfl
@[simp] theorem State.popped_rcv (r : List Instr) : (s.popped r).rcv = s.rcv := rfl

@[simp] theorem State.zeroMem_pending (a n : Nat) : (s.zeroMem a n).pending = s.pending := rfl
@[simp] theorem State.zeroMem_regions (a n : Nat) : (s.zeroMem a n).regions = s.regions := rfl
@[simp] theorem State.zeroMem_engines (a n : Nat) : (s.zeroMem a n).engines = s.engines := rfl
@[simp] theorem State.zeroMem_barriers (a n : Nat) : (s.zeroMem a n).barriers = s.barriers := rfl
@[simp] theorem State.zeroMem_deriveFill (a n : Nat) : (s.zeroMem a n).deriveFill = s.deriveFill := rfl
@[simp] theorem State.zeroMem_deriveRsv (a n : Nat) : (s.zeroMem a n).deriveRsv = s.deriveRsv := rfl
@[simp] theorem State.zeroMem_deriveBack (a n : Nat) : (s.zeroMem a n).deriveBack = s.deriveBack := rfl
@[simp] theorem State.zeroMem_revokes (a n : Nat) : (s.zeroMem a n).revokes = s.revokes := rfl
@[simp] theorem State.zeroMem_starts (a n : Nat) : (s.zeroMem a n).starts = s.starts := rfl
@[simp] theorem State.zeroMem_time (a n : Nat) : (s.zeroMem a n).time = s.time := rfl
@[simp] theorem State.zeroMem_mono (a n : Nat) : (s.zeroMem a n).mono = s.mono := rfl
@[simp] theorem State.zeroMem_qcycles (a n : Nat) : (s.zeroMem a n).qcycles = s.qcycles := rfl
@[simp] theorem State.zeroMem_nextCopy (a n : Nat) : (s.zeroMem a n).nextCopy = s.nextCopy := rfl
@[simp] theorem State.zeroMem_free (a n : Nat) : (s.zeroMem a n).free = s.free := rfl
@[simp] theorem State.zeroMem_secondary (a n : Nat) : (s.zeroMem a n).secondary = s.secondary := rfl
@[simp] theorem State.zeroMem_regs (a n : Nat) : (s.zeroMem a n).regs = s.regs := rfl
@[simp] theorem State.zeroMem_fns (a n : Nat) : (s.zeroMem a n).fns = s.fns := rfl
@[simp] theorem State.zeroMem_springs (a n : Nat) : (s.zeroMem a n).springs = s.springs := rfl
@[simp] theorem State.zeroMem_rings (a n : Nat) : (s.zeroMem a n).rings = s.rings := rfl
@[simp] theorem State.zeroMem_items (a n : Nat) : (s.zeroMem a n).items = s.items := rfl
@[simp] theorem State.zeroMem_nextItem (a n : Nat) : (s.zeroMem a n).nextItem = s.nextItem := rfl
@[simp] theorem State.zeroMem_log (a n : Nat) : (s.zeroMem a n).log = s.log := rfl
@[simp] theorem State.zeroMem_logpi (a n : Nat) : (s.zeroMem a n).logpi = s.logpi := rfl
@[simp] theorem State.zeroMem_attached (a n : Nat) : (s.zeroMem a n).attached = s.attached := rfl
@[simp] theorem State.zeroMem_hbeat (a n : Nat) : (s.zeroMem a n).hbeat = s.hbeat := rfl
@[simp] theorem State.zeroMem_reads (a n : Nat) : (s.zeroMem a n).reads = s.reads := rfl
@[simp] theorem State.zeroMem_nextTag (a n : Nat) : (s.zeroMem a n).nextTag = s.nextTag := rfl
@[simp] theorem State.zeroMem_out (a n : Nat) : (s.zeroMem a n).out = s.out := rfl
@[simp] theorem State.zeroMem_cqs (a n : Nat) : (s.zeroMem a n).cqs = s.cqs := rfl
@[simp] theorem State.zeroMem_pecks (a n : Nat) : (s.zeroMem a n).pecks = s.pecks := rfl
@[simp] theorem State.zeroMem_phase (a n : Nat) : (s.zeroMem a n).phase = s.phase := rfl
@[simp] theorem State.zeroMem_ats (a n : Nat) : (s.zeroMem a n).ats = s.ats := rfl
@[simp] theorem State.zeroMem_atsInv (a n : Nat) : (s.zeroMem a n).atsInv = s.atsInv := rfl
@[simp] theorem State.zeroMem_keys (a n : Nat) : (s.zeroMem a n).keys = s.keys := rfl
@[simp] theorem State.zeroMem_arms (a n : Nat) : (s.zeroMem a n).arms = s.arms := rfl
@[simp] theorem State.zeroMem_retired (a n : Nat) : (s.zeroMem a n).retired = s.retired := rfl
@[simp] theorem State.zeroMem_insts (a n : Nat) : (s.zeroMem a n).insts = s.insts := rfl
@[simp] theorem State.zeroMem_msgs (a n : Nat) : (s.zeroMem a n).msgs = s.msgs := rfl
@[simp] theorem State.zeroMem_nextKey (a n : Nat) : (s.zeroMem a n).nextKey = s.nextKey := rfl
@[simp] theorem State.zeroMem_eps (a n : Nat) : (s.zeroMem a n).eps = s.eps := rfl
@[simp] theorem State.zeroMem_ports (a n : Nat) : (s.zeroMem a n).ports = s.ports := rfl
@[simp] theorem State.zeroMem_writes (a n : Nat) : (s.zeroMem a n).writes = s.writes := rfl
@[simp] theorem State.zeroMem_resps (a n : Nat) : (s.zeroMem a n).resps = s.resps := rfl
@[simp] theorem State.zeroMem_nextResp (a n : Nat) : (s.zeroMem a n).nextResp = s.nextResp := rfl
@[simp] theorem State.zeroMem_groups (a n : Nat) : (s.zeroMem a n).groups = s.groups := rfl
@[simp] theorem State.zeroMem_bindings (a n : Nat) : (s.zeroMem a n).bindings = s.bindings := rfl
@[simp] theorem State.zeroMem_landed (a n : Nat) : (s.zeroMem a n).landed = s.landed := rfl
@[simp] theorem State.zeroMem_nextWr (a n : Nat) : (s.zeroMem a n).nextWr = s.nextWr := rfl
@[simp] theorem State.zeroMem_deal (a n : Nat) : (s.zeroMem a n).deal = s.deal := rfl
@[simp] theorem State.zeroMem_outcomes (a n : Nat) : (s.zeroMem a n).outcomes = s.outcomes := rfl
@[simp] theorem State.zeroMem_arrivals (a n : Nat) : (s.zeroMem a n).arrivals = s.arrivals := rfl
@[simp] theorem State.zeroMem_windows (a n : Nat) : (s.zeroMem a n).windows = s.windows := rfl
@[simp] theorem State.zeroMem_drives (a n : Nat) : (s.zeroMem a n).drives = s.drives := rfl
@[simp] theorem State.zeroMem_vols (a n : Nat) : (s.zeroMem a n).vols = s.vols := rfl
@[simp] theorem State.zeroMem_vreqs (a n : Nat) : (s.zeroMem a n).vreqs = s.vreqs := rfl
@[simp] theorem State.zeroMem_nextVreq (a n : Nat) : (s.zeroMem a n).nextVreq = s.nextVreq := rfl
@[simp] theorem State.zeroMem_dcmds (a n : Nat) : (s.zeroMem a n).dcmds = s.dcmds := rfl
@[simp] theorem State.zeroMem_nvmes (a n : Nat) : (s.zeroMem a n).nvmes = s.nvmes := rfl
@[simp] theorem State.zeroMem_feeds (a n : Nat) : (s.zeroMem a n).feeds = s.feeds := rfl
@[simp] theorem State.zeroMem_nextDcmd (a n : Nat) : (s.zeroMem a n).nextDcmd = s.nextDcmd := rfl
@[simp] theorem State.zeroMem_fetches (a n : Nat) : (s.zeroMem a n).fetches = s.fetches := rfl
@[simp] theorem State.zeroMem_nextFetch (a n : Nat) : (s.zeroMem a n).nextFetch = s.nextFetch := rfl
@[simp] theorem State.zeroMem_scratch (a n : Nat) : (s.zeroMem a n).scratch = s.scratch := rfl
@[simp] theorem State.zeroMem_colls (a n : Nat) : (s.zeroMem a n).colls = s.colls := rfl
@[simp] theorem State.zeroMem_nextColl (a n : Nat) : (s.zeroMem a n).nextColl = s.nextColl := rfl
@[simp] theorem State.zeroMem_seqs (a n : Nat) : (s.zeroMem a n).seqs = s.seqs := rfl
@[simp] theorem State.zeroMem_shares (a n : Nat) : (s.zeroMem a n).shares = s.shares := rfl
@[simp] theorem State.zeroMem_kvmoves (a n : Nat) : (s.zeroMem a n).kvmoves = s.kvmoves := rfl
@[simp] theorem State.zeroMem_nextMove (a n : Nat) : (s.zeroMem a n).nextMove = s.nextMove := rfl
@[simp] theorem State.zeroMem_alarmLive (a n : Nat) : (s.zeroMem a n).alarmLive = s.alarmLive := rfl
@[simp] theorem State.zeroMem_d3cold (a n : Nat) : (s.zeroMem a n).d3cold = s.d3cold := rfl
@[simp] theorem State.zeroMem_ckpts (a n : Nat) : (s.zeroMem a n).ckpts = s.ckpts := rfl
@[simp] theorem State.zeroMem_notices (a n : Nat) : (s.zeroMem a n).notices = s.notices := rfl
@[simp] theorem State.zeroMem_mirrors (a n : Nat) : (s.zeroMem a n).mirrors = s.mirrors := rfl
@[simp] theorem State.zeroMem_pair (a n : Nat) : (s.zeroMem a n).pair = s.pair := rfl
@[simp] theorem State.zeroMem_i3c (a n : Nat) : (s.zeroMem a n).i3c = s.i3c := rfl
@[simp] theorem State.zeroMem_fw (a n : Nat) : (s.zeroMem a n).fw = s.fw := rfl
@[simp] theorem State.zeroMem_watches (a n : Nat) : (s.zeroMem a n).watches = s.watches := rfl
@[simp] theorem State.zeroMem_replays (a n : Nat) : (s.zeroMem a n).replays = s.replays := rfl
@[simp] theorem State.zeroMem_verdicts (a n : Nat) : (s.zeroMem a n).verdicts = s.verdicts := rfl
@[simp] theorem State.zeroMem_warms (a n : Nat) : (s.zeroMem a n).warms = s.warms := rfl
@[simp] theorem State.zeroMem_mtr (a n : Nat) : (s.zeroMem a n).mtr = s.mtr := rfl
@[simp] theorem State.zeroMem_minute (a n : Nat) : (s.zeroMem a n).minute = s.minute := rfl
@[simp] theorem State.zeroMem_pcie (a n : Nat) : (s.zeroMem a n).pcie = s.pcie := rfl
@[simp] theorem State.zeroMem_intg (a n : Nat) : (s.zeroMem a n).intg = s.intg := rfl
@[simp] theorem State.zeroMem_pwr (a n : Nat) : (s.zeroMem a n).pwr = s.pwr := rfl
@[simp] theorem State.zeroMem_clk (a n : Nat) : (s.zeroMem a n).clk = s.clk := rfl
@[simp] theorem State.zeroMem_rcv (a n : Nat) : (s.zeroMem a n).rcv = s.rcv := rfl

@[simp] theorem State.putWord_pending (a : Nat) (w : TWord) : (s.putWord a w).pending = s.pending := rfl
@[simp] theorem State.putWord_regions (a : Nat) (w : TWord) : (s.putWord a w).regions = s.regions := rfl
@[simp] theorem State.putWord_engines (a : Nat) (w : TWord) : (s.putWord a w).engines = s.engines := rfl
@[simp] theorem State.putWord_barriers (a : Nat) (w : TWord) : (s.putWord a w).barriers = s.barriers := rfl
@[simp] theorem State.putWord_deriveFill (a : Nat) (w : TWord) : (s.putWord a w).deriveFill = s.deriveFill := rfl
@[simp] theorem State.putWord_deriveRsv (a : Nat) (w : TWord) : (s.putWord a w).deriveRsv = s.deriveRsv := rfl
@[simp] theorem State.putWord_deriveBack (a : Nat) (w : TWord) : (s.putWord a w).deriveBack = s.deriveBack := rfl
@[simp] theorem State.putWord_revokes (a : Nat) (w : TWord) : (s.putWord a w).revokes = s.revokes := rfl
@[simp] theorem State.putWord_starts (a : Nat) (w : TWord) : (s.putWord a w).starts = s.starts := rfl
@[simp] theorem State.putWord_time (a : Nat) (w : TWord) : (s.putWord a w).time = s.time := rfl
@[simp] theorem State.putWord_mono (a : Nat) (w : TWord) : (s.putWord a w).mono = s.mono := rfl
@[simp] theorem State.putWord_qcycles (a : Nat) (w : TWord) : (s.putWord a w).qcycles = s.qcycles := rfl
@[simp] theorem State.putWord_nextCopy (a : Nat) (w : TWord) : (s.putWord a w).nextCopy = s.nextCopy := rfl
@[simp] theorem State.putWord_free (a : Nat) (w : TWord) : (s.putWord a w).free = s.free := rfl
@[simp] theorem State.putWord_secondary (a : Nat) (w : TWord) : (s.putWord a w).secondary = s.secondary := rfl
@[simp] theorem State.putWord_regs (a : Nat) (w : TWord) : (s.putWord a w).regs = s.regs := rfl
@[simp] theorem State.putWord_fns (a : Nat) (w : TWord) : (s.putWord a w).fns = s.fns := rfl
@[simp] theorem State.putWord_springs (a : Nat) (w : TWord) : (s.putWord a w).springs = s.springs := rfl
@[simp] theorem State.putWord_rings (a : Nat) (w : TWord) : (s.putWord a w).rings = s.rings := rfl
@[simp] theorem State.putWord_items (a : Nat) (w : TWord) : (s.putWord a w).items = s.items := rfl
@[simp] theorem State.putWord_nextItem (a : Nat) (w : TWord) : (s.putWord a w).nextItem = s.nextItem := rfl
@[simp] theorem State.putWord_log (a : Nat) (w : TWord) : (s.putWord a w).log = s.log := rfl
@[simp] theorem State.putWord_logpi (a : Nat) (w : TWord) : (s.putWord a w).logpi = s.logpi := rfl
@[simp] theorem State.putWord_attached (a : Nat) (w : TWord) : (s.putWord a w).attached = s.attached := rfl
@[simp] theorem State.putWord_hbeat (a : Nat) (w : TWord) : (s.putWord a w).hbeat = s.hbeat := rfl
@[simp] theorem State.putWord_reads (a : Nat) (w : TWord) : (s.putWord a w).reads = s.reads := rfl
@[simp] theorem State.putWord_nextTag (a : Nat) (w : TWord) : (s.putWord a w).nextTag = s.nextTag := rfl
@[simp] theorem State.putWord_out (a : Nat) (w : TWord) : (s.putWord a w).out = s.out := rfl
@[simp] theorem State.putWord_cqs (a : Nat) (w : TWord) : (s.putWord a w).cqs = s.cqs := rfl
@[simp] theorem State.putWord_pecks (a : Nat) (w : TWord) : (s.putWord a w).pecks = s.pecks := rfl
@[simp] theorem State.putWord_phase (a : Nat) (w : TWord) : (s.putWord a w).phase = s.phase := rfl
@[simp] theorem State.putWord_ats (a : Nat) (w : TWord) : (s.putWord a w).ats = s.ats := rfl
@[simp] theorem State.putWord_atsInv (a : Nat) (w : TWord) : (s.putWord a w).atsInv = s.atsInv := rfl
@[simp] theorem State.putWord_keys (a : Nat) (w : TWord) : (s.putWord a w).keys = s.keys := rfl
@[simp] theorem State.putWord_arms (a : Nat) (w : TWord) : (s.putWord a w).arms = s.arms := rfl
@[simp] theorem State.putWord_retired (a : Nat) (w : TWord) : (s.putWord a w).retired = s.retired := rfl
@[simp] theorem State.putWord_insts (a : Nat) (w : TWord) : (s.putWord a w).insts = s.insts := rfl
@[simp] theorem State.putWord_msgs (a : Nat) (w : TWord) : (s.putWord a w).msgs = s.msgs := rfl
@[simp] theorem State.putWord_nextKey (a : Nat) (w : TWord) : (s.putWord a w).nextKey = s.nextKey := rfl
@[simp] theorem State.putWord_eps (a : Nat) (w : TWord) : (s.putWord a w).eps = s.eps := rfl
@[simp] theorem State.putWord_ports (a : Nat) (w : TWord) : (s.putWord a w).ports = s.ports := rfl
@[simp] theorem State.putWord_writes (a : Nat) (w : TWord) : (s.putWord a w).writes = s.writes := rfl
@[simp] theorem State.putWord_resps (a : Nat) (w : TWord) : (s.putWord a w).resps = s.resps := rfl
@[simp] theorem State.putWord_nextResp (a : Nat) (w : TWord) : (s.putWord a w).nextResp = s.nextResp := rfl
@[simp] theorem State.putWord_groups (a : Nat) (w : TWord) : (s.putWord a w).groups = s.groups := rfl
@[simp] theorem State.putWord_bindings (a : Nat) (w : TWord) : (s.putWord a w).bindings = s.bindings := rfl
@[simp] theorem State.putWord_landed (a : Nat) (w : TWord) : (s.putWord a w).landed = s.landed := rfl
@[simp] theorem State.putWord_nextWr (a : Nat) (w : TWord) : (s.putWord a w).nextWr = s.nextWr := rfl
@[simp] theorem State.putWord_deal (a : Nat) (w : TWord) : (s.putWord a w).deal = s.deal := rfl
@[simp] theorem State.putWord_outcomes (a : Nat) (w : TWord) : (s.putWord a w).outcomes = s.outcomes := rfl
@[simp] theorem State.putWord_arrivals (a : Nat) (w : TWord) : (s.putWord a w).arrivals = s.arrivals := rfl
@[simp] theorem State.putWord_windows (a : Nat) (w : TWord) : (s.putWord a w).windows = s.windows := rfl
@[simp] theorem State.putWord_drives (a : Nat) (w : TWord) : (s.putWord a w).drives = s.drives := rfl
@[simp] theorem State.putWord_vols (a : Nat) (w : TWord) : (s.putWord a w).vols = s.vols := rfl
@[simp] theorem State.putWord_vreqs (a : Nat) (w : TWord) : (s.putWord a w).vreqs = s.vreqs := rfl
@[simp] theorem State.putWord_nextVreq (a : Nat) (w : TWord) : (s.putWord a w).nextVreq = s.nextVreq := rfl
@[simp] theorem State.putWord_dcmds (a : Nat) (w : TWord) : (s.putWord a w).dcmds = s.dcmds := rfl
@[simp] theorem State.putWord_nvmes (a : Nat) (w : TWord) : (s.putWord a w).nvmes = s.nvmes := rfl
@[simp] theorem State.putWord_feeds (a : Nat) (w : TWord) : (s.putWord a w).feeds = s.feeds := rfl
@[simp] theorem State.putWord_nextDcmd (a : Nat) (w : TWord) : (s.putWord a w).nextDcmd = s.nextDcmd := rfl
@[simp] theorem State.putWord_fetches (a : Nat) (w : TWord) : (s.putWord a w).fetches = s.fetches := rfl
@[simp] theorem State.putWord_nextFetch (a : Nat) (w : TWord) : (s.putWord a w).nextFetch = s.nextFetch := rfl
@[simp] theorem State.putWord_scratch (a : Nat) (w : TWord) : (s.putWord a w).scratch = s.scratch := rfl
@[simp] theorem State.putWord_colls (a : Nat) (w : TWord) : (s.putWord a w).colls = s.colls := rfl
@[simp] theorem State.putWord_nextColl (a : Nat) (w : TWord) : (s.putWord a w).nextColl = s.nextColl := rfl
@[simp] theorem State.putWord_seqs (a : Nat) (w : TWord) : (s.putWord a w).seqs = s.seqs := rfl
@[simp] theorem State.putWord_shares (a : Nat) (w : TWord) : (s.putWord a w).shares = s.shares := rfl
@[simp] theorem State.putWord_kvmoves (a : Nat) (w : TWord) : (s.putWord a w).kvmoves = s.kvmoves := rfl
@[simp] theorem State.putWord_nextMove (a : Nat) (w : TWord) : (s.putWord a w).nextMove = s.nextMove := rfl
@[simp] theorem State.putWord_alarmLive (a : Nat) (w : TWord) : (s.putWord a w).alarmLive = s.alarmLive := rfl
@[simp] theorem State.putWord_d3cold (a : Nat) (w : TWord) : (s.putWord a w).d3cold = s.d3cold := rfl
@[simp] theorem State.putWord_ckpts (a : Nat) (w : TWord) : (s.putWord a w).ckpts = s.ckpts := rfl
@[simp] theorem State.putWord_notices (a : Nat) (w : TWord) : (s.putWord a w).notices = s.notices := rfl
@[simp] theorem State.putWord_mirrors (a : Nat) (w : TWord) : (s.putWord a w).mirrors = s.mirrors := rfl
@[simp] theorem State.putWord_pair (a : Nat) (w : TWord) : (s.putWord a w).pair = s.pair := rfl
@[simp] theorem State.putWord_i3c (a : Nat) (w : TWord) : (s.putWord a w).i3c = s.i3c := rfl
@[simp] theorem State.putWord_fw (a : Nat) (w : TWord) : (s.putWord a w).fw = s.fw := rfl
@[simp] theorem State.putWord_watches (a : Nat) (w : TWord) : (s.putWord a w).watches = s.watches := rfl
@[simp] theorem State.putWord_replays (a : Nat) (w : TWord) : (s.putWord a w).replays = s.replays := rfl
@[simp] theorem State.putWord_verdicts (a : Nat) (w : TWord) : (s.putWord a w).verdicts = s.verdicts := rfl
@[simp] theorem State.putWord_warms (a : Nat) (w : TWord) : (s.putWord a w).warms = s.warms := rfl
@[simp] theorem State.putWord_mtr (a : Nat) (w : TWord) : (s.putWord a w).mtr = s.mtr := rfl
@[simp] theorem State.putWord_minute (a : Nat) (w : TWord) : (s.putWord a w).minute = s.minute := rfl
@[simp] theorem State.putWord_pcie (a : Nat) (w : TWord) : (s.putWord a w).pcie = s.pcie := rfl
@[simp] theorem State.putWord_intg (a : Nat) (w : TWord) : (s.putWord a w).intg = s.intg := rfl
@[simp] theorem State.putWord_pwr (a : Nat) (w : TWord) : (s.putWord a w).pwr = s.pwr := rfl
@[simp] theorem State.putWord_clk (a : Nat) (w : TWord) : (s.putWord a w).clk = s.clk := rfl
@[simp] theorem State.putWord_rcv (a : Nat) (w : TWord) : (s.putWord a w).rcv = s.rcv := rfl

/-! ## What the updated part reads as -/

@[simp] theorem State.popped_pending (r : List Instr) : (s.popped r).pending = r := rfl
@[simp] theorem State.emit_out (o : Out) : (s.emit o).out = o :: s.out := rfl
@[simp] theorem State.zeroMem_mem (a n : Nat) : (s.zeroMem a n).mem = s.mem.zero a n := rfl
@[simp] theorem State.putWord_mem (a : Nat) (w : TWord) : (s.putWord a w).mem = s.mem.setWord a w := rfl

theorem State.reg_setReg (a b : Nat) (v : Word) : (s.setReg a v).reg b = if b = a then v else s.reg b := by
  unfold State.reg State.setReg
  by_cases h : b = a
  · subst h; simp
  · rw [if_neg h]; exact tblGet_set_ne' _ _ _ v h
@[simp] theorem State.reg_setReg_self (a : Nat) (v : Word) : (s.setReg a v).reg a = v := by simp [State.reg_setReg]

theorem State.eng_setEng (e j : Nat) (x : Engine) : (s.setEng e x).eng j = if j = e then x else s.eng j := tblGet_set _ _ _ _ _
@[simp] theorem State.eng_setEng_self (e : Nat) (x : Engine) : (s.setEng e x).eng e = x := by simp [State.eng_setEng]
theorem State.eng_updEng (e j : Nat) (f : Engine → Engine) : (s.updEng e f).eng j = if j = e then f (s.eng e) else s.eng j :=
  tblGet_set _ _ _ _ _
theorem Engine.ctx_setCtx (x : Engine) (k j : Nat) (c : Ctx) : (x.setCtx k c).ctx j = if j = k then c else x.ctx j :=
  tblGet_set _ _ _ _ _
@[simp] theorem Engine.ctx_setCtx_self (x : Engine) (k : Nat) (c : Ctx) : (x.setCtx k c).ctx k = c := by simp [Engine.ctx_setCtx]

/-- A context just set reads back. -/
@[simp] theorem State.ctx_setCtx_self (c : CtxId) (x : Ctx) : (s.setCtx c x).ctx c = x := by
  simp [State.ctx, State.setCtx, State.updEng]
@[simp] theorem State.ctx_updCtx_self (c : CtxId) (f : Ctx → Ctx) : (s.updCtx c f).ctx c = f (s.ctx c) := by
  simp [State.updCtx]
/-- The other contexts of the device keep their state. -/
theorem State.ctx_setCtx_ne (c d : CtxId) (x : Ctx) (h : d ≠ c) : (s.setCtx c x).ctx d = s.ctx d := by
  unfold State.ctx State.setCtx
  rw [State.eng_updEng]
  by_cases he : d.eng.val = c.eng.val
  · rw [if_pos he, Engine.ctx_setCtx, if_neg, he]
    intro hs
    apply h
    cases c; cases d
    simp only [CtxId.mk.injEq]
    exact ⟨Fin.ext he, Fin.ext hs⟩
  · rw [if_neg he]
theorem State.ctx_updCtx_ne (c d : CtxId) (f : Ctx → Ctx) (h : d ≠ c) : (s.updCtx c f).ctx d = s.ctx d :=
  s.ctx_setCtx_ne c d _ h

theorem Ctx.sreg_setS (x : Ctx) (r j : Nat) (w : TWord) : (x.setS r w).sreg j = if j = r then w else x.sreg j := tblGet_set _ _ _ _ _
theorem Ctx.hreg_setH (x : Ctx) (r j : Nat) (w : TWord) : (x.setH r w).hreg j = if j = r then w else x.hreg j := tblGet_set _ _ _ _ _
theorem Ctx.vreg_setV (x : Ctx) (r j : Nat) (w : VVal) : (x.setV r w).vreg j = if j = r then w else x.vreg j := tblGet_set _ _ _ _ _
theorem Ctx.mreg_setM (x : Ctx) (r j : Nat) (w : BitVec 128) : (x.setM r w).mreg j = if j = r then w else x.mreg j :=
  tblGet_set _ _ _ _ _

theorem State.region_setRegion (i j : Nat) (r : Region) : (s.setRegion i r).region j = if j = i then r else s.region j :=
  tblGet_set _ _ _ _ _
theorem State.peck_setPeck (p j : Nat) (x : Peck) : (s.setPeck p x).peck j = if j = p then x else s.peck j := tblGet_set _ _ _ _ _
@[simp] theorem State.peck_setPeck_self (p : Nat) (x : Peck) : (s.setPeck p x).peck p = x := by simp [State.peck_setPeck]
theorem State.fn_setFn (f j : Nat) (x : Fn) : (s.setFn f x).fn j = if j = f then x else s.fn j := tblGet_set _ _ _ _ _
theorem State.spring_setSpring (k j : Nat) (x : Spring) : (s.setSpring k x).spring j = if j = k then x else s.spring j :=
  tblGet_set _ _ _ _ _
theorem State.ring_setRing (k j : Nat) (x : Ring) : (s.setRing k x).ring j = if j = k then x else s.ring j := tblGet_set _ _ _ _ _

end Sys2Proof.Machine
end

