-- ==== Sys2Proof/Laws/Issue.lean ====
section
/-!
SUPPORT. What the shared operations of an instruction do: reading words for errors, issue, repeat, completion, and the checks of operands and
addresses. A proof about an instruction cites these and unfolds only the instruction's own body.
-/

namespace Sys2Proof.Machine

/-! ## Records and events leave the engines, the regions and memory alone -/

/-- The parts of the state that delivering a record or an event never changes. -/
structure SameCore (s t : State) : Prop where
  engines : t.engines = s.engines
  regions : t.regions = s.regions
  mem : t.mem = s.mem
  latent : t.latent = s.latent
  barriers : t.barriers = s.barriers
  deriveFill : t.deriveFill = s.deriveFill
  cqs : t.cqs = s.cqs
  pending : t.pending = s.pending
  qcycles : t.qcycles = s.qcycles
  time : t.time = s.time

theorem SameCore.rfl' (s : State) : SameCore s s := ⟨rfl, rfl, rfl, rfl, rfl, rfl, rfl, rfl, rfl, rfl⟩
theorem SameCore.trans {s t u : State} (h : SameCore s t) (k : SameCore t u) : SameCore s u :=
  ⟨k.1.trans h.1, k.2.trans h.2, k.3.trans h.3, k.4.trans h.4, k.5.trans h.5, k.6.trans h.6, k.7.trans h.7, k.8.trans h.8,
   k.9.trans h.9, k.10.trans h.10⟩

theorem sameCore_setReg (s : State) (a : Nat) (v : Word) : SameCore s (s.setReg a v) := ⟨rfl, rfl, rfl, rfl, rfl, rfl, rfl, rfl, rfl, rfl⟩
theorem sameCore_emit (s : State) (o : Out) : SameCore s (s.emit o) := ⟨rfl, rfl, rfl, rfl, rfl, rfl, rfl, rfl, rfl, rfl⟩
theorem sameCore_setFn (s : State) (f : Nat) (x : Fn) : SameCore s (s.setFn f x) := ⟨rfl, rfl, rfl, rfl, rfl, rfl, rfl, rfl, rfl, rfl⟩
theorem sameCore_setPeck (s : State) (p : Nat) (x : Peck) : SameCore s (s.setPeck p x) :=
  ⟨rfl, rfl, rfl, rfl, rfl, rfl, rfl, rfl, rfl, rfl⟩
theorem sameCore_setSpring (s : State) (k : Nat) (x : Spring) : SameCore s (s.setSpring k x) :=
  ⟨rfl, rfl, rfl, rfl, rfl, rfl, rfl, rfl, rfl, rfl⟩
theorem sameCore_logRec (s : State) (r : Rec) : SameCore s (s.logRec r) := ⟨rfl, rfl, rfl, rfl, rfl, rfl, rfl, rfl, rfl, rfl⟩

theorem SameCore.foldl {α : Type} (f : State → α → State) (h : ∀ s a, SameCore s (f s a)) (l : List α) (s : State) :
    SameCore s (l.foldl f s) := by
  induction l generalizing s with
  | nil => exact .rfl' s
  | cons a l ih => exact (h s a).trans (ih _)

theorem sameCore_signalVec (s : State) (f v : Nat) : SameCore s (s.signalVec f v) := by
  unfold State.signalVec
  dsimp only
  split
  · exact (sameCore_setFn _ _ _).trans (sameCore_setReg _ _ _)
  · exact (sameCore_emit _ _).trans (sameCore_setReg _ _ _)

theorem sameCore_logPage (s : State) (p page : Nat) : SameCore s (s.logPage p page) := by
  unfold State.logPage
  dsimp only
  split
  · exact .rfl' s
  · split
    · exact sameCore_setPeck _ _ _
    · exact (sameCore_emit _ _).trans (sameCore_setPeck _ _ _)

theorem sameCore_logRange (s : State) (p : Nat) (iova : Word) (len : Nat) : SameCore s (s.logRange p iova len) := by
  unfold State.logRange
  split
  · exact .rfl' s
  · exact SameCore.foldl _ (fun s i => sameCore_logPage s p _) _ s

theorem sameCore_hostWrite (s : State) (p : Nat) (iova : Word) (bs : List Byte) (ep : Bool) : SameCore s (s.hostWrite p iova bs ep) :=
  (sameCore_logRange _ _ _ _).trans (sameCore_emit _ _)

theorem sameCore_drainSpring (p fuel : Nat) (s : State) (k : Nat) : SameCore s (drainSpring p fuel s k) := by
  induction fuel generalizing s with
  | zero => exact .rfl' s
  | succ n ih =>
    unfold drainSpring
    dsimp only
    split
    · exact .rfl' s
    · split
      · refine SameCore.trans ?_ (ih _)
        have h2 : ∀ (u : State) x y z, SameCore u ((u.updPeck p x).hostWrite p y z false) :=
          fun u x y z => (sameCore_setPeck _ _ _).trans (sameCore_hostWrite _ _ _ _ _)
        split
        · exact ((h2 _ _ _ _).trans (sameCore_hostWrite _ _ _ _ _)).trans
            ((sameCore_setSpring _ _ _).trans (sameCore_signalVec _ _ _))
        · exact ((h2 _ _ _ _).trans (sameCore_hostWrite _ _ _ _ _)).trans (sameCore_setSpring _ _ _)
      · exact .rfl' s

theorem sameCore_drain (s : State) (p sp : Nat) : SameCore s (s.drain p sp) := sameCore_drainSpring _ _ _ _

theorem sameCore_drainAll (s : State) (p : Nat) : SameCore s (s.drainAll p) :=
  SameCore.foldl _ (fun s sp => sameCore_drain s p sp) _ s

theorem sameCore_toSpring (s : State) (f sp : Nat) (r : Rec) : SameCore s (s.toSpring f sp r) := by
  unfold State.toSpring
  dsimp only
  split
  · exact sameCore_setSpring _ _ _
  · exact (sameCore_setSpring _ _ _).trans (sameCore_drain _ _ _)

theorem sameCore_record (s : State) (f sp : Nat) (r : Rec) : SameCore s (s.record f sp r) := by
  unfold State.record
  split
  · exact sameCore_logRec _ _
  · exact sameCore_toSpring _ _ _ _

theorem sameCore_logEvent (s : State) (sev : Nat) (ty : BitVec 16) (a b : Word) : SameCore s (s.logEvent sev ty a b) := by
  unfold State.logEvent
  dsimp only
  split
  · exact (sameCore_logRec _ _).trans (sameCore_signalVec _ _ _)
  · exact sameCore_logRec _ _

/-- A manager event. -/
theorem sameCore_mgrEvent (s : State) (sev : Nat) (ty : BitVec 16) (a b : Word) : SameCore s (s.mgrEvent sev ty a b) := by
  unfold State.mgrEvent
  split
  · exact sameCore_toSpring _ _ _ _
  · dsimp only
    split
    · exact (sameCore_logEvent _ _ _ _ _).trans (sameCore_emit _ _)
    · exact sameCore_logEvent _ _ _ _ _

/-- A Peck event. -/
theorem sameCore_peckEvent (s : State) (p sev : Nat) (ty : BitVec 16) (a b : Word) : SameCore s (s.peckEvent p sev ty a b) := by
  unfold State.peckEvent
  split
  · exact .rfl' s
  · split
    · exact sameCore_toSpring _ _ _ _
    · exact sameCore_setPeck _ _ _

/-! ## Reading words for errors -/

/-- What a read of words never changes: everything of the core but memory and the latent errors. -/
structure SameRun (s t : State) : Prop where
  engines : t.engines = s.engines
  regions : t.regions = s.regions
  barriers : t.barriers = s.barriers
  deriveFill : t.deriveFill = s.deriveFill
  cqs : t.cqs = s.cqs
  pending : t.pending = s.pending
  qcycles : t.qcycles = s.qcycles
  time : t.time = s.time

theorem SameRun.rfl' (s : State) : SameRun s s := ⟨rfl, rfl, rfl, rfl, rfl, rfl, rfl, rfl⟩
theorem SameRun.trans {s t u : State} (h : SameRun s t) (k : SameRun t u) : SameRun s u :=
  ⟨k.1.trans h.1, k.2.trans h.2, k.3.trans h.3, k.4.trans h.4, k.5.trans h.5, k.6.trans h.6, k.7.trans h.7, k.8.trans h.8⟩
theorem SameCore.run {s t : State} (h : SameCore s t) : SameRun s t :=
  ⟨h.engines, h.regions, h.barriers, h.deriveFill, h.cqs, h.pending, h.qcycles, h.time⟩

theorem sameRun_mem (s : State) (m : Memory) : SameRun s { s with mem := m } := ⟨rfl, rfl, rfl, rfl, rfl, rfl, rfl, rfl⟩
theorem sameRun_words (s : State) (m : Memory) (l : List (Nat × ErrPat)) : SameRun s { s with mem := m, latent := l } :=
  ⟨rfl, rfl, rfl, rfl, rfl, rfl, rfl, rfl⟩
theorem sameRun_lost (s : State) (m : Memory) (l : List (Nat × ErrPat)) (x : Rcv) :
    SameRun s { s with mem := m, latent := l, rcv := x } := ⟨rfl, rfl, rfl, rfl, rfl, rfl, rfl, rfl⟩
theorem sameRun_addFault (s : State) (a : Nat) : SameRun s (s.addFault a) := ⟨rfl, rfl, rfl, rfl, rfl, rfl, rfl, rfl⟩
theorem sameRun_satField (s : State) (a lo w : Nat) : SameRun s (s.satField a lo w) := (sameCore_setReg _ _ _).run
theorem SameRun.ite {s t u : State} (p : Prop) [Decidable p] (h : SameRun s t) (k : SameRun s u) : SameRun s (if p then t else u) := by
  split
  · exact h
  · exact k

theorem sameRun_settleWord (s : State) (a : Nat) : SameRun s (s.settleWord a) := by
  have h1 : SameRun s (s.eccWord a) := by
    unfold State.eccWord
    split
    · exact .rfl' s
    · exact (sameRun_words s _ _).trans ((sameRun_satField _ _ _ _).trans (sameRun_addFault _ _))
    · exact (sameRun_lost s _ _ _).trans
        ((sameRun_satField _ _ _ _).trans ((sameCore_mgrEvent _ _ _ _ _).run.trans (sameRun_addFault _ _)))
  exact h1.trans (SameRun.ite _ (sameRun_mem _ _) (.rfl' _))

theorem SameRun.foldl {α : Type} (f : State → α → State) (h : ∀ s a, SameRun s (f s a)) (l : List α) (s : State) :
    SameRun s (l.foldl f s) := by
  induction l generalizing s with
  | nil => exact .rfl' s
  | cons a l ih => exact (h s a).trans (ih _)

theorem sameRun_settle (s : State) (a n : Nat) : SameRun s (s.settle a n) :=
  SameRun.foldl _ (fun s k => sameRun_settleWord s (k * 8)) _ s

theorem sameRun_settleFetch (s : State) (c : CtxId) (len : Nat) : SameRun s (settleFetch s c len) := by
  unfold settleFetch
  dsimp only
  split
  · exact .rfl' s
  · exact sameRun_settle _ _ _

theorem SameRun.ctx {s t : State} (h : SameRun s t) (c : CtxId) : t.ctx c = s.ctx c := by simp [State.ctx, State.eng, h.engines]
theorem SameRun.eng {s t : State} (h : SameRun s t) (e : Nat) : t.eng e = s.eng e := by simp [State.eng, h.engines]
theorem SameRun.current {s t : State} (h : SameRun s t) (w : Word) : t.current w = s.current w := by
  unfold State.current State.region; rw [h.regions]
theorem SameRun.copiesOpen {s t : State} (h : SameRun s t) (c : CtxId) : copiesOpen t c = copiesOpen s c := by
  simp [Machine.copiesOpen, h.eng]

/-- A clean word is read without any effect. -/
theorem settleWord_clean (s : State) (a : Nat) (h : tblGet ErrPat.none s.latent (a / 8) = ErrPat.none) (ht : s.mem.tagAt a ≠ Tag.rsvd) :
    s.settleWord a = s := by
  have he : s.eccWord a = s := by simp [State.eccWord, h, eccOf]
  rw [State.settleWord, he, State.readTag, if_neg ht]

/-! ## Issue -/

/-- What an issued instruction finds in its context. -/
@[simp] theorem issued_ctx (s : State) (c : CtxId) (len : Nat) :
    (issued s c len).ctx c = { s.ctx c with state := .running, wait := .none } := by
  simp [issued, (sameRun_settleFetch s c len).ctx]

theorem issued_sreg (s : State) (c : CtxId) (len r : Nat) : ((issued s c len).ctx c).sreg r = (s.ctx c).sreg r := by
  rw [issued_ctx]; rfl
theorem issued_hreg (s : State) (c : CtxId) (len r : Nat) : ((issued s c len).ctx c).hreg r = (s.ctx c).hreg r := by
  rw [issued_ctx]; rfl
theorem issued_vreg (s : State) (c : CtxId) (len r : Nat) : ((issued s c len).ctx c).vreg r = (s.ctx c).vreg r := by
  rw [issued_ctx]; rfl
theorem issued_mreg (s : State) (c : CtxId) (len r : Nat) : ((issued s c len).ctx c).mreg r = (s.ctx c).mreg r := by
  rw [issued_ctx]; rfl

@[simp] theorem issued_current (s : State) (c : CtxId) (len : Nat) (w : Word) : (issued s c len).current w = s.current w := by
  exact (sameRun_settleFetch s c len).current w

theorem decode_of {ε α : Type} {x : Except ε α} {v : α} (h : x.toOption = some v) : x = .ok v := by
  cases x with
  | error e => cases h
  | ok a => simp only [Except.toOption, Option.some.injEq] at h; rw [h]

/-- What the bytes at PC of an issuing context decode to. -/
theorem Issues.decode {s : State} {c : CtxId} {w : Insn} {len : Nat} (h : Issues s c w len) : decodeAt s c = .ok (w, len) := decode_of h.2.1

/-- An issued instruction runs its instances and completes. -/
theorem issueState_issues {s : State} {c : CtxId} {w : Insn} {len : Nat} (h : Issues s c w len) (body : State → Nat → IRes) :
    issueState c w body s = finish c len (runReps body (pxCount w.px) 0 (issued s c len)) := by
  have h2 := h.decode
  obtain ⟨h1, -, h3⟩ := h
  have h4 : (w.px.ord && copiesOpen (settleFetch s c len) c) = false := by
    rw [(sameRun_settleFetch s c len).copiesOpen]
    cases ho : w.px.ord
    · rfl
    · simp [h3 ho]
  unfold issueState
  rw [if_neg (by simp [h1]), h2]
  simp only [ne_eq, not_true_eq_false, if_false, h4, issued]
  rfl

theorem pxCount_none {p : Px} (h : p.rep = none) : pxCount p = 1 := by simp [pxCount, h]

/-- One instance that ends in sequence. -/
theorem issue_seq {s t : State} {c : CtxId} {w : Insn} {len : Nat} {body : State → Nat → IRes} (h : Issues s c w len) (hp : w.px.rep = none)
    (hb : body (issued s c len) 0 = .ok t .seq) : issue c w body s = .next (passed c len t) := by
  simp [issue, issueState_issues h, pxCount_none hp, runReps, hb, finish, passed]

/-- One instance that jumps. -/
theorem issue_jump {s t : State} {c : CtxId} {w : Insn} {len : Nat} {pc : Word} {body : State → Nat → IRes} (h : Issues s c w len)
    (hp : w.px.rep = none) (hb : body (issued s c len) 0 = .ok t (.jump pc)) : issue c w body s = .next (jumped c pc t) := by
  simp [issue, issueState_issues h, pxCount_none hp, runReps, hb, finish, jumped]

/-- One instance that waits. -/
theorem issue_wait {s t : State} {c : CtxId} {w : Insn} {len : Nat} {body : State → Nat → IRes} (h : Issues s c w len) (hp : w.px.rep = none)
    (hb : body (issued s c len) 0 = .ok t .wait) : issue c w body s = .next (waiting c len t) := by
  simp [issue, issueState_issues h, pxCount_none hp, runReps, hb, finish, waiting]

/-- One instance that stops the context. -/
theorem issue_stop {s t : State} {c : CtxId} {w : Insn} {len : Nat} {body : State → Nat → IRes} (h : Issues s c w len) (hp : w.px.rep = none)
    (hb : body (issued s c len) 0 = .ok t .stop) : issue c w body s = .next (retire t c.eng.val) := by
  simp [issue, issueState_issues h, pxCount_none hp, runReps, hb, finish]

/-- One instance that faults (R101). -/
theorem issue_fault {s t : State} {c : CtxId} {w : Insn} {len : Nat} {st : Status} {body : State → Nat → IRes} (h : Issues s c w len)
    (hp : w.px.rep = none) (hb : body (issued s c len) 0 = .fault st t) : issue c w body s = .next (t.faultCtx c st 0) := by
  simp [issue, issueState_issues h, pxCount_none hp, runReps, hb, finish]

/-- Whatever an instruction of a context does, it answers a next state. -/
theorem issue_answers (c : CtxId) (w : Insn) (body : State → Nat → IRes) (s : State) : ∃ t, issue c w body s = .next t := ⟨_, rfl⟩

/-! ## Operands -/

theorem useInt_of {s : State} {c : CtxId} {r : Nat} {v : Word} (k : Word → IRes) (h : (s.ctx c).sreg r = TWord.int v) :
    useInt s c r k = k v := by unfold useInt useS; rw [h]; rfl

theorem useS_of {s : State} {c : CtxId} {r : Nat} {w : TWord} (ok : Tag → Bool) (k : TWord → IRes) (h : (s.ctx c).sreg r = w)
    (hp : w.tag ≠ Tag.poison) (hr : w.tag ≠ Tag.rsvd) (hk : ok w.tag = true) : useS s c r ok k = k w := by
  simp only [useS, h, if_neg hp, if_neg hr, hk, if_true]

theorem useH_of {s : State} {c : CtxId} {r : Nat} {w : Word} (k : Word → IRes) (h : (s.ctx c).hreg r = ⟨w, Tag.handle⟩) :
    useH s c r k = k w := by
  simp only [useH, h, if_true]
  rfl

/-- The address operands of an instruction. -/
theorem useAddr_of {s : State} {c : CtxId} {a : Addr} {w : Word} (k : Word → Nat → IRes) (h : HoldsHandle s c a.h w)
    (hv : IndexOk s c a) : useAddr s c a k = k w (indexOf s c a) := by
  unfold useAddr
  rw [useH_of _ h]
  unfold indexOf
  cases hi : a.idx with
  | none => rfl
  | some r =>
    have ht := hv r hi
    exact useInt_of _ (show (s.ctx c).sreg r.val = ⟨((s.ctx c).sreg r.val).bits, Tag.int64⟩ by rw [← ht])

/-- The checks of R117 pass where an address is reached. -/
theorem checkAddr_of {s : State} {w : Word} {r : Region} {off : Nat} {z : Int} {size align right : Nat} (h : LocalWith s w right r)
    (hz : (off : Int) = z) (ha : off % align = 0) (hb : off + size ≤ r.len.toNat) :
    checkAddr s w z size align right = .ok (r.base.toNat + off) := by
  obtain ⟨h1, h2, h3⟩ := h
  subst hz
  unfold checkAddr
  simp only [h1, h2, h3, ne_eq, not_true_eq_false, if_false, Bool.true_eq_false]
  rw [if_neg]
  · simp
  · omega

/-- What an address that is reached consists of. -/
theorem Reaches.parts {s : State} {c : CtxId} {a : Addr} {adv size align right p : Nat} (h : Reaches s c a adv size align right p) :
    ∃ (w : Word) (r : Region) (off : Nat), HoldsHandle s c a.h w ∧ IndexOk s c a ∧ LocalWith s w right r ∧
      (off : Int) = reachOff s c a adv ∧ off % align = 0 ∧ off + size ≤ r.len.toNat ∧ p = r.base.toNat + off := by
  obtain ⟨h1, h2, r, hr, hk, hg, h0, ha, hb, rfl⟩ := h
  refine ⟨((s.ctx c).hreg a.h.val).bits, r, (reachOff s c a adv).toNat, ?_, h2, ⟨hr, hk, hg⟩, Int.toNat_of_nonneg h0, ha, hb, rfl⟩
  show (s.ctx c).hreg a.h.val = ⟨_, _⟩
  rw [← h1]

/-- An access that reaches device address `p`. -/
theorem withAccess_of {s : State} {c : CtxId} {a : Addr} {adv size align right p : Nat} (rd : Bool) (k : State → Nat → IRes)
    (h : Reaches s c a adv size align right p) :
    withAccess s c a adv size align right rd k = k (if rd then s.settle p size else s) p := by
  obtain ⟨w, r, off, h1, h2, h3, h4, h5, h6, rfl⟩ := h.parts
  unfold withAccess accessAt
  rw [useAddr_of _ h1 h2, checkAddr_of h3 (by unfold addrOff; exact h4) h5 h6]

theorem issued_indexOf (s : State) (c : CtxId) (len : Nat) (a : Addr) : indexOf (issued s c len) c a = indexOf s c a := by
  unfold indexOf
  cases a.idx with
  | none => rfl
  | some r => simp only [issued_sreg]

/-- An address is reached from the issued state when it is reached before. -/
theorem Reaches.issued {s : State} {c : CtxId} {a : Addr} {adv size align right p : Nat} (len : Nat)
    (h : Reaches s c a adv size align right p) : Reaches (issued s c len) c a adv size align right p := by
  simpa only [Reaches, IndexOk, reachOff, issued_hreg, issued_sreg, issued_current, issued_indexOf] using h

end Sys2Proof.Machine
end

