-- ==== Sys2Proof/Laws/Memory.lean ====
section
/-!
SUPPORT. Laws of memory: what a byte and a tag read as after each write, and the canonical form, which every memory operation keeps.
-/

namespace Sys2Proof.Machine

theorem bytesOf_length (n v : Nat) : (bytesOf n v).length = n := by
  induction n generalizing v with
  | zero => rfl
  | succ n ih => simp [bytesOf, ih]

/-! ## Reads after writes -/

theorem Memory.byte_setByte (m : Memory) (a j : Nat) (b : Byte) :
    (m.setByte a b).byte j = if j = a then b else m.byte j := tblGet_set _ _ _ _ _

@[simp] theorem Memory.tagAt_setByte (m : Memory) (a j : Nat) (b : Byte) : (m.setByte a b).tagAt j = m.tagAt j := rfl

/-- A byte outside the bytes written reads as before. -/
theorem Memory.byte_setBytes_out (bs : List Byte) (m : Memory) (a j : Nat) (h : j < a ∨ a + bs.length ≤ j) :
    (m.setBytes a bs).byte j = m.byte j := by
  induction bs generalizing m a with
  | nil => rfl
  | cons b bs ih =>
    simp only [Memory.setBytes, List.length_cons] at h ⊢
    rw [ih _ _ (by omega), Memory.byte_setByte]
    simp [show j ≠ a by omega]

/-- A byte among those written reads as written. -/
theorem Memory.byte_setBytes_in (bs : List Byte) (m : Memory) (a i : Nat) (h : i < bs.length) :
    (m.setBytes a bs).byte (a + i) = bs[i] := by
  induction bs generalizing m a i with
  | nil => simp at h
  | cons b bs ih =>
    cases i with
    | zero =>
      simp only [Memory.setBytes, Nat.add_zero, List.getElem_cons_zero]
      rw [Memory.byte_setBytes_out _ _ _ _ (by omega), Memory.byte_setByte]; simp
    | succ i =>
      have := ih (m.setByte a b) (a + 1) i (by simpa using h)
      simp only [Memory.setBytes, List.getElem_cons_succ]
      rw [← this]; congr 1; omega

@[simp] theorem Memory.tagAt_setBytes (bs : List Byte) (m : Memory) (a j : Nat) : (m.setBytes a bs).tagAt j = m.tagAt j := by
  induction bs generalizing m a with
  | nil => rfl
  | cons b bs ih => simp [Memory.setBytes, ih]

theorem Memory.tagAt_setTag (m : Memory) (a j : Nat) (t : Tag) :
    (m.setTag a t).tagAt j = if j / 8 = a / 8 then t else m.tagAt j := tblGet_set _ _ _ _ _

@[simp] theorem Memory.byte_setTag (m : Memory) (a j : Nat) (t : Tag) : (m.setTag a t).byte j = m.byte j := rfl

theorem Memory.byte_setWord_out (m : Memory) (a j : Nat) (w : TWord) (h : j < a ∨ a + 8 ≤ j) :
    (m.setWord a w).byte j = m.byte j := by
  exact Memory.byte_setBytes_out (bytesOf 8 w.bits.toNat) m a j (by rw [bytesOf_length]; exact h)

theorem Memory.tagAt_setWord (m : Memory) (a j : Nat) (w : TWord) :
    (m.setWord a w).tagAt j = if j / 8 = a / 8 then w.tag else m.tagAt j := by
  simp [Memory.setWord, Memory.tagAt_setTag]

/-- The number that the bytes of a number spell. -/
theorem natOfBytes_bytesOf (n v : Nat) : natOfBytes (bytesOf n v) = v % 256 ^ n := by
  induction n generalizing v with
  | zero => simp [bytesOf, natOfBytes, Nat.mod_one]
  | succ n ih =>
    have e : (BitVec.ofNat 8 v).toNat = v % 256 := by simp
    simp only [bytesOf, natOfBytes, ih, e]
    rw [show 256 ^ (n + 1) = 256 * 256 ^ n from by rw [Nat.pow_succ, Nat.mul_comm], Nat.mod_mul]

theorem Memory.bytes_length (m : Memory) (a n : Nat) : (m.bytes a n).length = n := by
  induction n generalizing a with
  | zero => rfl
  | succ n ih => simp [Memory.bytes, ih]

/-- Bytes just written read back. -/
theorem Memory.bytes_setBytes_self (bs : List Byte) (m : Memory) (a : Nat) : (m.setBytes a bs).bytes a bs.length = bs := by
  suffices ∀ (bs : List Byte) (m : Memory) (a : Nat), (m.setBytes a bs).bytes a bs.length = bs by exact this bs m a
  intro bs
  induction bs with
  | nil => intro m a; rfl
  | cons b bs ih =>
    intro m a
    simp only [Memory.setBytes, List.length_cons, Memory.bytes]
    rw [ih, Memory.byte_setBytes_out _ _ _ _ (by omega), Memory.byte_setByte]; simp

theorem Memory.bytes_setTag (m : Memory) (a j n : Nat) (t : Tag) : (m.setTag a t).bytes j n = m.bytes j n := by
  induction n generalizing j with
  | zero => rfl
  | succ n ih => simp [Memory.bytes, ih]

/-- A word just written reads back, data and tag. -/
theorem Memory.word_setWord (m : Memory) (a : Nat) (w : TWord) : (m.setWord a w).word a = w := by
  have hb : ((m.setWord a w).bytes a 8) = bytesOf 8 w.bits.toNat := by
    have := Memory.bytes_setBytes_self (bytesOf 8 w.bits.toNat) m a
    rw [bytesOf_length] at this
    simpa [Memory.setWord, Memory.bytes_setTag] using this
  obtain ⟨bits, tag⟩ := w
  simp only [Memory.word, Memory.num, hb, natOfBytes_bytesOf, TWord.mk.injEq]
  constructor
  · apply BitVec.eq_of_toNat_eq
    have := bits.isLt
    simp; omega
  · simp [Memory.tagAt_setWord]

/-! ## The canonical form -/

theorem Memory.wf_iff (m : Memory) : m.wf = true ↔ tblWf (0 : Byte) m.data = true ∧ tblWf Tag.nil m.tags = true := by
  simp [Memory.wf]

theorem Memory.wf_setByte (m : Memory) (a : Nat) (b : Byte) (h : m.wf = true) : (m.setByte a b).wf = true := by
  rw [Memory.wf_iff] at *; exact ⟨tblWf_set _ _ _ _ h.1, h.2⟩

theorem Memory.wf_setBytes (bs : List Byte) (m : Memory) (a : Nat) (h : m.wf = true) : (m.setBytes a bs).wf = true := by
  induction bs generalizing m a with
  | nil => exact h
  | cons b bs ih => exact ih _ _ (m.wf_setByte a b h)

theorem Memory.wf_setTag (m : Memory) (a : Nat) (t : Tag) (h : m.wf = true) : (m.setTag a t).wf = true := by
  rw [Memory.wf_iff] at *; exact ⟨h.1, tblWf_set _ _ _ _ h.2⟩

theorem Memory.wf_setWord (m : Memory) (a : Nat) (w : TWord) (h : m.wf = true) : (m.setWord a w).wf = true :=
  Memory.wf_setTag _ _ _ (Memory.wf_setBytes _ _ _ h)

theorem Memory.wf_zero (m : Memory) (a n : Nat) (h : m.wf = true) : (m.zero a n).wf = true := by
  rw [Memory.wf_iff] at *; exact ⟨tblWf_clear _ _ _ _ h.1, tblWf_clear _ _ _ _ h.2⟩

theorem Memory.wf_storeWord (m m' : Memory) (a : Nat) (w : TWord) (h : m.wf = true) (e : m.storeWord a w = some m') :
    m'.wf = true := by
  unfold Memory.storeWord at e
  split at e
  · cases e
  · cases e; exact Memory.wf_setWord _ _ _ h

theorem Memory.wf_storeSub (m m' : Memory) (a : Nat) (bs : List Byte) (h : m.wf = true) (e : m.storeSub a bs = some m') :
    m'.wf = true := by
  unfold Memory.storeSub at e
  dsimp only at e
  split at e
  · cases e
  · split at e
    · cases e; exact Memory.wf_setTag _ _ _ h
    · cases e
      split
      · exact Memory.wf_setTag _ _ _ (Memory.wf_setBytes _ _ _ h)
      · exact Memory.wf_setBytes _ _ _ h

theorem Memory.wf_copyIn (m m' : Memory) (a : Nat) (bs : List Byte) (imp : Tag) (h : m.wf = true)
    (e : m.copyIn a bs imp = some m') : m'.wf = true := by
  unfold Memory.copyIn at e
  split at e
  · exact Memory.wf_storeWord _ _ _ _ h e
  · dsimp only at e
    split at e
    · cases e
    · split at e
      · cases e; exact Memory.wf_setTag _ _ _ h
      · cases e; exact Memory.wf_setTag _ _ _ (Memory.wf_setBytes _ _ _ h)

theorem Memory.wf_copyInAll (m : Memory) (a : Nat) (bs : List Byte) (imp : Tag) (h : m.wf = true) :
    (m.copyInAll a bs imp).1.wf = true := by
  unfold Memory.copyInAll
  generalize splitWords (bs.length + 1) a bs = l
  suffices ∀ (l : List (Nat × List Byte)) (x : Memory × List Nat), x.1.wf = true →
      (l.foldl (fun (m, bad) (a, ws) => match m.copyIn a ws imp with
        | some m' => (m', bad)
        | none => (m, bad ++ [a])) x).1.wf = true by exact this l (m, []) h
  intro l
  induction l with
  | nil => intro x hx; exact hx
  | cons e l ih =>
    intro x hx
    apply ih
    dsimp only
    split
    · rename_i m' he; exact Memory.wf_copyIn _ _ _ _ _ hx he
    · exact hx

/-- Memory at reset lists nothing. -/
theorem Memory.wf_empty : Memory.empty.wf = true := rfl

end Sys2Proof.Machine
end

