-- ==== Sys2Proof/WellFormed.lean ====
section
/-!
DEFINITION. Well-formed commands: what the operand types do not say. A register access has a width and alignment of R4 or is one that R4 refuses,
bytes of an access stay in their window (R324, R381), a prefix is one that the instruction permits (R85, R86, R88), and a packet's payload
fits its header (R253, R266).
-/

namespace Sys2Proof

/-- The prefixes are permitted for the opcode, take at most four bytes, and do not repeat 0 times. -/
def prefixFits (op : Nat) (p : Px) : Bool :=
  match Machine.opInfo op with
  | some f => Machine.pxOk f p && decide ((Machine.encodePx p).length ≤ 4) && decide (p.rep ≠ some 0)
  | none => false

/-- A frame carries at most 8,192 bytes of payload (R253). -/
def Pkt.fits (p : Pkt) : Bool := decide (p.payload.length ≤ 8192) && p.tag.length == 16

def Instr.wf : Instr → Bool
  | .nop _ => true
  | .mov _ _ _ => true
  | .movi _ _ _ => true
  | .movi64 _ _ _ => true
  | .add _ _ _ _ => true
  | .sub _ _ _ _ => true
  | .mul _ _ _ _ => true
  | .mulh _ _ _ _ => true
  | .mulhu _ _ _ _ => true
  | .div _ _ _ _ => true
  | .divu _ _ _ _ => true
  | .rem _ _ _ _ => true
  | .remu _ _ _ _ => true
  | .and_ _ _ _ _ => true
  | .or_ _ _ _ _ => true
  | .xor_ _ _ _ _ => true
  | .shl _ _ _ _ => true
  | .shr _ _ _ _ => true
  | .sar _ _ _ _ => true
  | .rol _ _ _ _ => true
  | .min_ _ _ _ _ => true
  | .max_ _ _ _ _ => true
  | .minu _ _ _ _ => true
  | .maxu _ _ _ _ => true
  | .cmp _ _ _ => true
  | .tst _ _ _ => true
  | .neg _ _ _ => true
  | .not_ _ _ _ => true
  | .clz _ _ _ => true
  | .ctz _ _ _ => true
  | .popc _ _ _ => true
  | .bswap _ _ _ => true
  | .addi _ _ _ _ => true
  | .muli _ _ _ _ => true
  | .andi _ _ _ _ => true
  | .ori _ _ _ _ => true
  | .xori _ _ _ _ => true
  | .shli _ _ _ _ => true
  | .shri _ _ _ _ => true
  | .sari _ _ _ _ => true
  | .roli _ _ _ _ => true
  | .cmpi _ _ _ => true
  | .tsti _ _ _ => true
  | .sxtB _ _ _ => true
  | .sxtH _ _ _ => true
  | .sxtW _ _ _ => true
  | .zxtB _ _ _ => true
  | .zxtH _ _ _ => true
  | .zxtW _ _ _ => true
  | .retag _ _ _ _ => true
  | .tagof _ _ _ => true
  | .bCc _ _ _ => true
  | .call_ _ _ => true
  | .jr _ _ => true
  | .callr _ _ => true
  | .ret _ => true
  | .dbnz _ _ _ => true
  | .setcc _ _ _ => true
  | .csel _ _ _ _ _ => true
  | .rdflg _ _ => true
  | .wrflg _ _ => true
  | .clrflg _ _ => true
  | .ldB _ _ _ _ => true
  | .ldH _ _ _ _ => true
  | .ldW _ _ _ _ => true
  | .ldD _ _ _ _ => true
  | .ldBs _ _ _ _ => true
  | .ldHs _ _ _ _ => true
  | .ldWs _ _ _ _ => true
  | .stB _ _ _ _ => true
  | .stH _ _ _ _ => true
  | .stW _ _ _ _ => true
  | .stD _ _ _ _ => true
  | .vld _ _ _ _ => true
  | .vst _ _ _ _ => true
  | .vldsc _ _ _ _ => true
  | .vstsc _ _ _ _ => true
  | .ldh _ _ _ _ => true
  | .sth _ _ _ _ => true
  | .h2s _ _ _ => true
  | .s2h _ _ _ => true
  | .hderive _ _ _ _ _ _ => true
  | .hcheck _ _ _ _ => true
  | .hlen _ _ _ => true
  | .amoAdd _ _ _ _ _ => true
  | .amoAnd _ _ _ _ _ => true
  | .amoOr _ _ _ _ _ => true
  | .amoXor _ _ _ _ _ => true
  | .amoSwap _ _ _ _ _ => true
  | .amoMin _ _ _ _ _ => true
  | .amoMax _ _ _ _ _ => true
  | .amoCas _ _ _ _ _ => true
  | .retagM _ _ _ _ => true
  | .vadd _ px _ _ _ _ => prefixFits 0x80 px
  | .vsub _ px _ _ _ _ => prefixFits 0x81 px
  | .vmul _ px _ _ _ _ => prefixFits 0x82 px
  | .vfma _ px _ _ _ _ _ => prefixFits 0x83 px
  | .vfms _ px _ _ _ _ _ => prefixFits 0x84 px
  | .vfnma _ px _ _ _ _ _ => prefixFits 0x85 px
  | .vmin _ px _ _ _ => prefixFits 0x86 px
  | .vmax _ px _ _ _ => prefixFits 0x87 px
  | .vabs _ px _ _ => prefixFits 0x88 px
  | .vneg _ px _ _ => prefixFits 0x89 px
  | .vdiv _ px _ _ _ _ => prefixFits 0x8A px
  | .vsqrt _ px _ _ _ => prefixFits 0x8B px
  | .vrsqrt _ px _ _ _ => prefixFits 0x8C px
  | .vrcp _ px _ _ _ => prefixFits 0x8D px
  | .vexp2 _ px _ _ _ => prefixFits 0x8E px
  | .vlog2 _ px _ _ _ => prefixFits 0x8F px
  | .vdot _ px _ _ _ _ => prefixFits 0x90 px
  | .vcmpEq _ px _ _ _ => prefixFits 0x91 px
  | .vcmpLt _ px _ _ _ => prefixFits 0x92 px
  | .vcmpLe _ px _ _ _ => prefixFits 0x93 px
  | .vcmpUn _ px _ _ _ => prefixFits 0x94 px
  | .vsel _ px _ _ _ _ => prefixFits 0x95 px
  | .vand _ px _ _ _ => prefixFits 0x96 px
  | .vor _ px _ _ _ => prefixFits 0x97 px
  | .vxor _ px _ _ _ => prefixFits 0x98 px
  | .vshl _ px _ _ _ => prefixFits 0x99 px
  | .vshr _ px _ _ _ => prefixFits 0x9A px
  | .vsar _ px _ _ _ => prefixFits 0x9B px
  | .vmov _ px _ _ => prefixFits 0x9C px
  | .vsplat _ px _ _ => prefixFits 0x9D px
  | .vsplati _ px _ _ => prefixFits 0x9E px
  | .vlane _ px _ => prefixFits 0x9F px
  | .vredmax _ px _ _ => prefixFits 0xA0 px
  | .vredmin _ px _ _ => prefixFits 0xA1 px
  | .vargmax _ px _ _ => prefixFits 0xA2 px
  | .vargmin _ px _ _ => prefixFits 0xA3 px
  | .vperm _ px _ _ _ => prefixFits 0xA4 px
  | .vrot _ px _ _ _ => prefixFits 0xA5 px
  | .vext _ px _ _ _ => prefixFits 0xA6 px
  | .vins _ px _ _ _ => prefixFits 0xA7 px
  | .mand _ _ _ _ => true
  | .mor _ _ _ _ => true
  | .mxor _ _ _ _ => true
  | .mnot _ _ _ => true
  | .mset _ _ _ => true
  | .mpop _ _ _ => true
  | .mfirst _ _ _ => true
  | .mfromv _ _ _ => true
  | .copy _ _ _ _ _ => true
  | .copy2d _ _ _ _ _ => true
  | .fill _ _ _ _ _ => true
  | .cpystat _ _ _ => true
  | .cpywait _ _ => true
  | .semAdd _ _ _ _ => true
  | .semWait _ _ _ => true
  | .semRd _ _ _ => true
  | .semSet _ _ _ _ => true
  | .barArrive _ _ => true
  | .barWait _ _ => true
  | .barSync _ _ => true
  | .fence _ => true
  | .sysr _ _ _ => true
  | .sysw _ _ _ => true
  | .yield_ _ => true
  | .halt _ _ => true
  | .rdcst _ _ => true
  | .xclr _ px _ => prefixFits 0xDF00 px
  | .xacc _ px _ _ => prefixFits 0xDF01 px
  | .xaccS _ px _ _ => prefixFits 0xDF02 px
  | .xaccp _ px _ _ _ => prefixFits 0xDF03 px
  | .xmerge _ px _ _ => prefixFits 0xDF04 px
  | .xmov _ px _ _ => prefixFits 0xDF05 px
  | .xld _ _ _ _ => true
  | .xst _ _ _ _ => true
  | .xrd _ _ _ _ _ => true
  | .xcnt _ _ _ => true
  | .xstat _ _ _ => true
  | .vcvt _ px _ _ _ _ _ => prefixFits 0xDF20 px
  | .vcvt2 _ px _ _ _ _ _ _ => prefixFits 0xDF21 px
  | .vcvth _ px _ _ _ _ _ => prefixFits 0xDF22 px
  | .scvt _ _ _ _ _ => true
  | .rngRd _ _ _ => true
  | .rngWr _ _ _ => true
  | .rngStep _ => true
  | .philox _ px _ _ _ _ => prefixFits 0xDF43 px
  | .vtopk _ px _ _ _ => prefixFits 0xDF44 px
  | .vscan _ px _ _ _ _ => prefixFits 0xDF45 px
  | .vsample _ px _ _ _ => prefixFits 0xDF46 px
  | .vpenal _ px _ _ _ _ => prefixFits 0xDF47 px
  | .vaccept _ px _ _ _ _ => prefixFits 0xDF48 px
  | .contextReady _ => true
  | .orderedStart _ => true
  | .accumulatorWaitEnd _ => true
  | .copyComplete _ _ => true
  | .copyStart _ _ _ => true
  | .nopRequest _ => true
  | .abort _ => true
  | .springCfg _ => true
  | .logRead _ => true
  | .ctxStart _ => true
  | .contextPlace _ => true
  | .workItemComplete _ => true
  | .progLoad _ _ _ => true
  | .progUnload _ => true
  | .allreduce _ => true
  | .reduceScatter _ => true
  | .allgather _ => true
  | .reduce _ => true
  | .broadcast _ => true
  | .alltoall _ => true
  | .step _ => true
  | .announceResend _ => true
  | .collSend _ _ _ _ => true
  | .collReduce _ _ => true
  | .collVerdict _ => true
  | .collVerdictTimeout _ => true
  | .collApply _ _ => true
  | .collResult _ _ _ _ => true
  | .collDeliver _ _ _ => true
  | .collStallExpiry _ => true
  | .collComplete _ _ => true
  | .genRegister _ => true
  | .genUpdate _ => true
  | .genDeregister _ => true
  | .genStep _ => true
  | .genDispatch _ => true
  | .genSample _ => true
  | .genOutputWrite _ => true
  | .kvAppend _ _ => true
  | .genKvmove _ _ => true
  | .wymArm _ => true
  | .wymDisarm _ => true
  | .wymPost _ => true
  | .wymSend _ => true
  | .wymAtomic _ => true
  | .peckCreate _ => true
  | .peckGrant _ => true
  | .peckRelease _ => true
  | .peckMint _ => true
  | .peckRevoke _ => true
  | .peckQuiesce _ => true
  | .peckQuiesced _ => true
  | .peckResume _ => true
  | .peckDisable _ => true
  | .peckReset _ => true
  | .peckRemove _ => true
  | .peckLogStart _ => true
  | .peckLogStop _ => true
  | .peckExport _ _ _ => true
  | .peckImport _ _ _ _ => true
  | .peckAttest _ => true
  | .peckHplace _ => true
  | .peckHderive _ => true
  | .peckHdrop _ => true
  | .feedStart _ => true
  | .feedAdvance _ => true
  | .feedStop _ => true
  | .feedBatch _ _ => true
  | .feedPositionRecord _ _ => true
  | .keyImport _ _ _ => true
  | .keyGenerate _ => true
  | .keyErase _ => true
  | .keyCqcfg _ => true
  | .keyInfo _ => true
  | .cbcEncrypt _ _ => true
  | .cbcDecrypt _ _ => true
  | .cfbEncrypt _ _ => true
  | .cfbDecrypt _ _ => true
  | .ctr _ _ => true
  | .ckptBegin _ => true
  | .ckptGuard _ => true
  | .ckptCancel _ => true
  | .ckptRestore _ => true
  | .ckptNotice _ => true
  | .ckptAtTime _ => true
  | .ckptCut _ => true
  | .ckptUnitCapture _ _ => true
  | .ckptMirrorUnit _ _ => true
  | .ckptStreamRecord _ => true
  | .ckptSeal _ => true
  | .ckptDeadlineExpiry _ => true
  | .ckptTakeoverStart _ => true
  | .fwStage _ _ _ => true
  | .fwActivate _ => true
  | .fwAbandon _ => true
  | .fwGroupSwitch _ => true
  | .fwDeferredStart => true
  | .fwProbationEnd => true
  | .fwFlashWrite _ => true
  | .rcvWarmreset _ => true
  | .rcvPowercycle _ => true
  | .pairJoin _ => true
  | .pairLeave _ => true
  | .vfDb _ _ _ _ => true
  | .ringMdb _ _ _ => true
  | .ringDispatch _ _ => true
  | .vfRreset _ _ _ _ => true
  | .ringReset _ _ _ => true
  | .ringCfgWrite _ _ _ _ => true
  | .ringWindowWrite _ off data _ => decide (data ≠ []) && decide (off + data.length ≤ 0xC0000)
  | .vfSprci _ _ _ _ => true
  | .sprgCiWrite _ _ _ => true
  | .sprgCfgWrite _ _ _ _ => true
  | .springDelayExpiry _ _ => true
  | .msixUnmask _ _ => true
  | .ringAttach _ _ => true
  | .ringHbeat _ _ => true
  | .ringDetach _ _ => true
  | .mgrHeartbeatTimeout => true
  | .engCtlReset _ _ _ => true
  | .engineResetComplete _ => true
  | .engBarWrite _ _ _ => true
  | .intgScrubStart _ _ => true
  | .scrubPassEnd => true
  | .targetedSelfTest _ _ => true
  | .storDrvRelease _ _ _ => true
  | .storVolWrite _ _ _ => true
  | .schQWrite _ _ _ _ => true
  | .schShaperWrite _ _ _ _ _ => true
  | .schGatectlSwitch _ _ _ => true
  | .schChainWrite _ _ _ _ _ => true
  | .gateEntryBoundary _ => true
  | .schTransmit _ => true
  | .wymSaKeyWrite _ _ _ _ => true
  | .wymHorizonWrite _ _ => true
  | .wymPortCfgWrite _ _ _ => true
  | .keyLimitWrite _ _ _ => true
  | .keyAlarmClear _ _ => true
  | .peckLogrdWrite _ _ _ => true
  | .peckMtrciWrite _ _ => true
  | .pwrLimitWrite _ _ => true
  | .timeStepWrite _ _ => true
  | .timeNowRead _ _ => true
  | .intcTestWrite _ _ => true
  | .devctlPortcfgWrite _ _ _ => true
  | .devctlVhcfgWrite _ _ _ => true
  | .ckptMircfgWrite _ _ => true
  | .pairAddressWrite _ _ _ => true
  | .registerWrite _ off _ _ _ => decide (off % 8 = 0) && decide (off < 0x2000000)
  | .registerAccessInvalid _ off len _ => decide (0 < len) && !((len == 8 && off % 8 == 0) || (len == 4 && off % 4 == 0))
  | .bar2Read off n => decide (0 < n) && decide (off + n ≤ 2 ^ 29)
  | .bar2Write off data _ => decide (data ≠ []) && decide (off + data.length ≤ 2 ^ 29)
  | .pcieReadCompletion _ _ ok _ data => ok || data.isEmpty
  | .pcieCompletionTimeout _ => true
  | .tagQuarantineExpiry _ => true
  | .atsInvalidation _ _ n => decide (0 < n)
  | .peerRequest _ rid _ _ n => decide (rid < 65536) && decide (0 < n)
  | .dpcTrigger _ => true
  | .dpcRelease _ => true
  | .vfBusMasterDisable _ => true
  | .vfFlr _ => true
  | .vfD3hot _ => true
  | .pf0Fence _ => true
  | .pf0D3hot => true
  | .d3coldEntry => true
  | .d3coldExit _ => true
  | .upstreamLinkLoss _ _ => true
  | .perstAssert _ => true
  | .pf1Fence _ _ => true
  | .nvmeControllerReset _ => true
  | .nvmeDeleteIoSq _ _ _ => true
  | .nvmeCreateIoSq _ _ _ _ _ _ _ => true
  | .nvmeGetLogPage _ _ _ dwords off _ _ => decide (0 < dwords) && decide (off % 4 = 0)
  | .nvmeDeleteIoCq _ _ _ => true
  | .nvmeCreateIoCq _ _ _ _ _ _ _ _ => true
  | .nvmeIdentify _ _ _ _ _ => true
  | .nvmeAbort _ _ _ _ => true
  | .nvmeSetFeatures _ _ _ _ => true
  | .nvmeGetFeatures _ _ _ => true
  | .nvmeAsyncEventRequest _ _ => true
  | .nvmeFlush _ _ _ _ => true
  | .nvmeWrite _ _ _ _ _ nlb data st => st != 0 || decide (data.length = (nlb.toNat + 1) * 4096)
  | .nvmeRead _ _ _ _ _ _ _ => true
  | .nvmeWriteZeroes _ _ _ _ _ _ => true
  | .nvmeDatasetManagement _ _ _ _ _ ranges _ => decide (1 ≤ ranges.length) && decide (ranges.length ≤ 256)
  | .volumeRequestStart _ => true
  | .driveCommandComplete _ _ _ _ => true
  | .driveCommandTimeout _ => true
  | .driveHotplug port _ _ _ => decide (port < 64)
  | .mirrorTimeout _ => true
  | .write _ p => p.fits
  | .send _ p => p.fits
  | .readreq _ p => p.fits
  | .readresp _ p => p.fits
  | .atomic _ p => p.fits
  | .atomicresp _ p => p.fits
  | .ack _ p => p.fits
  | .nak _ p => p.fits
  | .probe _ p => p.fits
  | .neighbourDiscovery _ _ _ _ => true
  | .arpRequest _ _ _ => true
  | .ptpMessage _ domain _ _ => decide (domain < 256)
  | .ethFrameInvalid _ => true
  | .wymPacingSlot _ _ _ => true
  | .wymSealRelease _ => true
  | .wymRtoExpiry _ => true
  | .wymHorizonExpiry _ => true
  | .wymAckdelayExpiry _ _ _ => true
  | .trackerLingerExpiry _ _ _ => true
  | .trackerIdleExpiry _ _ _ => true
  | .resultCacheExpiry _ _ _ => true
  | .pathAvoidExpiry _ _ _ => true
  | .pathProbeTimer _ _ _ => true
  | .wymHoldEnd _ => true
  | .ethLinkUp _ => true
  | .ethLinkDown _ => true
  | .pairLinkTrained _ _ => true
  | .pairLinkDown => true
  | .pairLaneErrors _ _ _ _ => true
  | .pairJoinRecord _ _ => true
  | .pairLeaveFlit _ => true
  | .pairHeartbeatTimeout => true
  | .pairHeartbeatSend => true
  | .pairRetryTimer => true
  | .pairTimeExchange _ => true
  | .pairBarrierFlit _ _ => true
  | .d2dLinkDown _ => true
  | .laneSparing _ _ _ _ _ => true
  | .boot _ => true
  | .deviceWarmReset _ => true
  | .boardPowerCycle => true
  | .powercycleRequestRepeat => true
  | .watchdogTrip _ held => held.all (· < 60)
  | .progressSample _ => true
  | .replayRun _ => true
  | .meterMinute => true
  | .tamperAlarm _ => true
  | .emergPwrAssert => true
  | .emergThmAssert => true
  | .emergencyClear _ _ => true
  | .thermalSensorCrossing _ t => decide (-273 ≤ t) && decide (t < 1000)
  | .railPgFall _ => true
  | .rootPllUnlock => true
  | .pwrSample _ _ _ => true
  | .avsPoll _ _ _ => true
  | .ppsEdge => true
  | .hbmSelfRefreshEntry _ _ => true
  | .entdaa _ => true
  | .setnewda _ => true
  | .rstdaa => true
  | .getpid => true
  | .getbcr => true
  | .getdcr => true
  | .getstatus => true
  | .enec _ => true
  | .disec _ => true
  | .getState => true
  | .notice _ _ => true
  | .wake => true
  | .getId => true
  | .i3cPrivateRead => true
  | .reservedEncoding _ => true
  | .fetchFault _ => true
  | .cpyRefused _ _ _ _ _ => true
  | .collectiveRefused _ => true
  | .cipherCommandRefused _ _ => true
  | .malformedPacket _ p => p.fits
  | .nvmeInvalidOpcode _ _ _ _ => true
  | .i3cReservedCommand => true
  | .pcieLinkTrained _ rate width _ => decide (rate ≤ 5) && decide (width ≤ 4)
  | .perstDeassert _ => true
  | .nvmeControllerEnable _ _ _ _ _ => true
  | .alarmSourceCleared _ => true
  | .quiesceWaitExpiry _ => true
  | .peckResetDone _ => true
  | .peckRemoveDone _ => true
  | .announceReceiptTimeout => true
  | .ptpDelayRequest => true

end Sys2Proof
end

