-- ==== Sys2Proof/Tests/Slice0.lean ====
section
/-!
SUPPORT. Tests: well-formedness refuses what each of its checks is for, words written out from the manual decode, and for every statement of
`Obligations.lean` a concrete state and operands that meet the hypotheses of each of its clauses.
-/

namespace Sys2Proof.Tests

open Sys2Proof Sys2Proof.Machine Sys2Proof.Spec

set_option Elab.async false

/-! ## A small device -/

/-- The context of the tests: engine 0, slot 0. -/
def c0 : CtxId := ⟨0, 0⟩

/-- A LOCAL region of Peck 1 with every right. -/
def region (base len : Word) : Region :=
  { Region.free with used := true, kind := .local_, peck := 1, base := base, len := len, rights := 0xFF }

/-- A handle of region `i` with every right. -/
def handle (i : Nat) : Word := mkHandle i 0 0xFF

/-- A READY context at ISA level 1 whose code is region 1 and whose H1 names region 2. -/
def context : Ctx :=
  { Ctx.free with state := .ready, peck := 1, isa := 1, code := handle 1, h := [(1, ⟨handle 2, Tag.handle⟩)] }

/-- Region 1 holds code at 0x1000, region 2 data at 0x2000; context c0 runs `code`, after `f` has prepared it. -/
def device (code : List Nat) (f : Ctx → Ctx) : State :=
  { State.reset with
    fw := { FwState.reset with flashA := none }
    regions := [(1, region 0x1000 64), (2, region 0x2000 4096)]
    mem := ⟨((code.zipIdx.map fun e => (0x1000 + e.2, BitVec.ofNat 8 e.1)).filter fun e => decide (e.2 ≠ 0)),
      (List.range 8).map fun k => (0x200 + k, Tag.code)⟩
    engines := [(0, { Engine.reset with peck := 1, ctxs := [(0, f context)] })] }

/-- The device about to run one instruction. -/
def about (w : Insn) (f : Ctx → Ctx) : State := device (encodeInsn w) f

/-- S1 and S2 hold INT64 words. -/
def ints (x y : Word) (k : Ctx) : Ctx := (k.setS 1 (TWord.int x)).setS 2 (TWord.int y)

/-! ## Well-formedness: a term that each check is for, refused, and one it lets pass -/

/-- A Wymwerk packet with `n` bytes of payload. -/
def packet (n : Nat) : Pkt :=
  { src := 1, dst := 2, dscp := 0, vlan := none, sport := 0, dport := 0, frame := true, ver := 1, typ := 1, flags := 0, path := 0, spi := 0, sid := 0, sendts := 0,
    msgid := 0, nonce := 0, rkey := 0, rgen := 0, ordgrp := 0, roff := 0, msglen := 0, pidx := 0, plen := 0, spec := 0, ext := none,
    payload := List.replicate n 0, tag := List.replicate 16 0 }

theorem test_wf_prefix_not_permitted : (Instr.vlane c0 ⟨none, none, none, true⟩ 1).wf = false ∧ (Instr.vlane c0 Px.none 1).wf = true := by decide +kernel
theorem test_wf_repeat_zero : (Instr.vand c0 ⟨none, none, some 0, false⟩ 1 2 3).wf = false ∧ (Instr.vand c0 ⟨none, none, some 2, false⟩ 1 2 3).wf = true := by
  decide +kernel
theorem fits_packet (n : Nat) : (packet n).fits = decide (n ≤ 8192) := by
  show (decide ((List.replicate n (0 : Byte)).length ≤ 8192) && (List.replicate 16 (0 : Byte)).length == 16) = _
  rw [List.length_replicate, List.length_replicate, beq_self_eq_true, Bool.and_true]

theorem test_wf_tag : (Instr.write 0 { packet 8 with tag := [] }).wf = false ∧ (Instr.write 0 (packet 8)).wf = true := ⟨rfl, fits_packet 8⟩

theorem test_wf_packet : (Instr.write 0 (packet 8193)).wf = false ∧ (Instr.write 0 (packet 8192)).wf = true :=
  ⟨fits_packet 8193, fits_packet 8192⟩
theorem test_wf_malformed_packet : (Instr.malformedPacket 0 (packet 8193)).wf = false ∧ (Instr.malformedPacket 0 (packet 3)).wf = true :=
  ⟨fits_packet 8193, fits_packet 3⟩
theorem test_wf_ring_window : (Instr.ringWindowWrite 0 0 [] false).wf = false ∧ (Instr.ringWindowWrite 0 0xBFFFF [1, 2] false).wf = false ∧
    (Instr.ringWindowWrite 0 0xBFFFE [1, 2] false).wf = true := by decide
theorem test_wf_register_write : (Instr.registerWrite 0 4 .full 0 false).wf = false ∧ (Instr.registerWrite 0 0x2000000 .full 0 false).wf = false ∧
    (Instr.registerWrite 0 8 .full 0 false).wf = true := by decide
theorem test_wf_register_access : (Instr.registerAccessInvalid 0 8 0 true).wf = false ∧ (Instr.registerAccessInvalid 0 8 8 true).wf = false ∧
    (Instr.registerAccessInvalid 0 4 4 true).wf = false ∧ (Instr.registerAccessInvalid 0 4 8 true).wf = true := by decide
theorem test_wf_bar2_read : (Instr.bar2Read 0 0).wf = false ∧ (Instr.bar2Read 0x1FFFFFFF 2).wf = false ∧ (Instr.bar2Read 0x1FFFFFFF 1).wf = true := by decide
theorem test_wf_bar2_write : (Instr.bar2Write 0 [] false).wf = false ∧ (Instr.bar2Write 0x20000000 [1] false).wf = false ∧
    (Instr.bar2Write 0 [1] false).wf = true := by decide
theorem test_wf_completion : (Instr.pcieReadCompletion 0 0 false false [1]).wf = false ∧ (Instr.pcieReadCompletion 0 0 false false []).wf = true := by decide
theorem test_wf_ats : (Instr.atsInvalidation 0 0 0).wf = false ∧ (Instr.atsInvalidation 0 0 1).wf = true := by decide
theorem test_wf_peer : (Instr.peerRequest 0 65536 false 0 4).wf = false ∧ (Instr.peerRequest 0 0 false 0 0).wf = false ∧
    (Instr.peerRequest 0 65535 false 0 4).wf = true := by decide
theorem test_wf_log_page : (Instr.nvmeGetLogPage 0 0 2 0 0 false []).wf = false ∧ (Instr.nvmeGetLogPage 0 0 2 1 2 false []).wf = false ∧
    (Instr.nvmeGetLogPage 0 0 2 1 4 false []).wf = true := by decide
theorem test_wf_nvme_write : (Instr.nvmeWrite 0 1 0 1 0 0 [1] 0).wf = false ∧ (Instr.nvmeWrite 0 1 0 1 0 0 [] 2).wf = true := by decide
theorem test_wf_ranges : (Instr.nvmeDatasetManagement 0 1 0 1 true [] 0).wf = false ∧ (Instr.nvmeDatasetManagement 0 1 0 1 true [(0, 1)] 0).wf = true := by decide
theorem test_wf_port : (Instr.driveHotplug 64 0 none false).wf = false ∧ (Instr.driveHotplug 63 0 none false).wf = true := by decide
theorem test_wf_ptp_domain : (Instr.ptpMessage 0 256 0 (.announce [])).wf = false ∧ (Instr.ptpMessage 0 255 0 (.announce [])).wf = true := by decide
theorem test_wf_watchdog : (Instr.watchdogTrip 0 [60]).wf = false ∧ (Instr.watchdogTrip 0 [59]).wf = true := by decide
theorem test_wf_temperature : (Instr.thermalSensorCrossing 0 (-274)).wf = false ∧ (Instr.thermalSensorCrossing 0 1000).wf = false ∧
    (Instr.thermalSensorCrossing 0 (-273)).wf = true := by decide
theorem test_wf_link : (Instr.pcieLinkTrained 0 6 0 false).wf = false ∧ (Instr.pcieLinkTrained 0 5 5 false).wf = false ∧
    (Instr.pcieLinkTrained 0 5 4 false).wf = true := by decide

/-! ## Words written out from the encodings of R85 to R90 -/

theorem test_decode_add : decodeInsn (fetchList [0x04, 3, 1, 2]) 1 = .ok (insn 0x04 [3, 1, 2] 0, 4) := rfl
theorem test_decode_negative_branch : decodeInsn (fetchList [0x50, 0xFB, 0xFF, 0xFF, 0xFF]) 1 = .ok (insn 0x50 [] 0xFFFFFFFB, 5) := rfl
theorem test_decode_ordered_semaphore : decodeInsn (fetchList [0xF9, 0xC3, 1, 5]) 1 = .ok (insnOrd 0xC3 true [1] 5, 4) := rfl
theorem test_decode_masked_repeat : decodeInsn (fetchList [0xF3, 0xF8, 2, 0x96, 1, 2, 3]) 1 = .ok (⟨0x96, ⟨none, some 3, some 2, false⟩, [1, 2, 3], 0⟩, 7) := rfl
theorem test_decode_barrier : decodeInsn (fetchList [0xC9, 0x07, 0x01]) 1 = .ok (insn 0xC9 [] 0x107, 3) := rfl

/-! ## The block's commands -/

/-- A device that is READY, prepared by `f`. -/
def ready (f : State → State) : State := f { State.reset with phase := 2, fw := { FwState.reset with flashA := none } }

/-- A dispatched request of type `t` from function `fn`, with body `b` and references `r`. -/
def request (fn : Nat) (t : BitVec 16) (b : List Word) (r : List Ref) : Item :=
  { id := 5, fn := fn, ring := 1, tag := 77, typ := t, spring := 3, body := b, refs := r, phase := .dispatched, wr := 0, open_ := 0, st := stOk, buf := [], t0 := 0 }

/-- A device that holds one request. -/
def asked (fn : Nat) (t : BitVec 16) (b : List Word) (r : List Ref) (f : State → State) : State :=
  ready fun s => f { s with items := [request fn t b r] }

/-- A device with an ACTIVE Peck 1 whose VF of PF0 is 7. -/
def peck1 (s : State) : State := s.setPeck 1 { Peck.reset with state := .active, vf0 := 7 }

/-- A HOST region for a reference. -/
def hostLoc (len : Word) : Loc := { Loc.none with index := 9, kind := .host, base := 0x10000, len := len }

/-- Ring k with 16 slots of which some hold items. -/
def ringAt (k : Nat) (pi ci : BitVec 32) (s : State) : State := s.setRing k { Ring.reset with en := true, log2 := 4, pi := pi, ci := ci }

/-- The length of an instruction in bytes. -/
def alen (w : Insn) : Nat := (encodeInsn w).length

/-- The device about to run `w`, word `v` at device address `a`. -/
def aboutM (w : Insn) (f : Ctx → Ctx) (a : Nat) (v : TWord) : State := { about w f with mem := (about w f).mem.setWord a v }

theorem wit_ResetAndIdle_8a : ∃ (s : State),
    s.pending = [] ∧ s.pwr.lock = true ∧ s.reg rTimeAdj = 0 ∧ s.clk.slew = 0 ∧ s.clk.frac = 0 ∧ s.atsInv = [] ∧ s.time + 2 < 2 ^ 64 ∧ (∀ e ∈ s.ports, e.2.link ≠ 2) ∧ s.phase ≠ 2 :=
  ⟨{ State.reset with fw := { FwState.reset with flashA := none }, pwr := { Power.reset with lock := true } }, by decide +kernel⟩

/-- A READY device whose engine 0 has work and leaves its gate. -/
def gatedDev (n : Nat) : State := { about (insn 0x04 [3, 1, 2] 0) (ints 7 9) with phase := 2, pwr := { Power.reset with lock := true, gated := 3, goal := n } }

theorem wit_ResetAndIdle_8b : ∃ (s : State),
    s.pending = [] ∧ s.pwr.lock = true ∧ s.reg rTimeAdj = 0 ∧ s.clk.slew = 0 ∧ s.clk.frac = 0 ∧ s.atsInv = [] ∧ s.time + 2 < 2 ^ 64 ∧ (∀ e ∈ s.ports, e.2.link ≠ 2) ∧ s.phase = 2 ∧ s.pwr.goal < s.pwr.n :=
  ⟨gatedDev 9, by decide +kernel⟩

theorem wit_ResetAndIdle_9a : ∃ (s t : State) (e : Nat), s.pending = [] ∧ step s = .next t ∧ s.pwr.gated.getLsbD e = true ∧ t.pwr.gated.getLsbD e = false :=
  ⟨gatedDev 16, tick (gatedDev 16), 0, rfl, rfl, by decide +kernel, by decide +kernel⟩

theorem wit_DecodeOfEncode_1a : ∃ (i : Insn) (isa : Nat) (_more : List Nat),
    i.wf = true ∧ 1 ≤ isa :=
  ⟨insn 0x04 [3, 1, 2] 0, 1, [7], by decide +kernel⟩

theorem wit_DecodingWords_11a : ∃ (f : Fetch) (b : Nat), f 0 = .ok b ∧ 0x2B ≤ b ∧ b ≤ 0x2F := ⟨fetchList [0x2B], 0x2B, rfl, by decide, by decide⟩

theorem wit_DecodingWords_11b : ∃ (f : Fetch) (b b2 : Nat), f 0 = .ok b ∧ b = 0xDF ∧ f 1 = .ok b2 ∧ 0x0B ≤ b2 ∧ b2 ≤ 0x1F :=
  ⟨fetchList [0xDF, 0x0B], 0xDF, 0x0B, rfl, rfl, rfl, by decide, by decide⟩

theorem wit_DecodingWords_11c : ∃ (f : Fetch) (b b2 : Nat), f 0 = .ok b ∧ 0xE0 ≤ b ∧ b ≤ 0xEC ∧ f 1 = .ok b2 ∧ 0xE0 ≤ b2 ∧ b2 ≤ 0xEC :=
  ⟨fetchList [0xE0, 0xEC], 0xE0, 0xEC, rfl, by decide, by decide, rfl, by decide, by decide⟩

theorem wit_DecodingWords_11d : ∃ (f : Fetch) (b b2 : Nat), f 0 = .ok b ∧ 0xF0 ≤ b ∧ b ≤ 0xF7 ∧ f 1 = .ok b2 ∧ 0xF0 ≤ b2 ∧ b2 ≤ 0xF7 :=
  ⟨fetchList [0xF0, 0xF7], 0xF0, 0xF7, rfl, by decide, by decide, rfl, by decide, by decide⟩

theorem wit_DecodingWords_11e : ∃ (f : Fetch) (b : Nat), f 0 = .ok b ∧ b = 0xF9 ∧ f 1 = .ok 0xF9 := ⟨fetchList [0xF9, 0xF9], 0xF9, rfl, rfl, rfl⟩

theorem wit_DecodingWords_11f : ∃ (f : Fetch) (b : Nat), f 0 = .ok b ∧ b = 0xF8 ∧ f 1 = .ok 0 := ⟨fetchList [0xF8, 0], 0xF8, rfl, rfl, rfl⟩

theorem wit_DecodingWords_11g : ∃ (f : Fetch) (b b1 b2 b3 b4 : Nat), f 0 = .ok b ∧ 0xE0 ≤ b ∧ 0xE0 ≤ b1 ∧ 0xE0 ≤ b2 ∧ 0xE0 ≤ b3 ∧ b ≠ 0xF8 ∧ b1 ≠ 0xF8 ∧ b2 ≠ 0xF8 ∧
    b3 ≠ 0xF8 ∧ f 1 = .ok b1 ∧ f 2 = .ok b2 ∧ f 3 = .ok b3 ∧ f 4 = .ok b4 ∧ 0xE0 ≤ b4 :=
  ⟨fetchList [0xE1, 0xF0, 0xF9, 0xE2, 0xE3], 0xE1, 0xF0, 0xF9, 0xE2, 0xE3, rfl, by decide, by decide, by decide, by decide, by decide, by decide, by decide,
    by decide, rfl, rfl, rfl, rfl, by decide⟩

theorem wit_ScalarArithmetic_1a : ∀ e ∈ arithOps, ∃ (s : State) (c : CtxId) (d : SReg) (a : SReg) (b : SReg) (x : Word) (y : Word) (len : Nat),
    Issues s c (insn e.op [d.val, a.val, b.val] 0) len ∧ HoldsInt s c a x ∧ HoldsInt s c b y :=
  fun e he => ⟨about (insn e.op [3, 1, 2] 0) (ints 7 9), c0, 3, 1, 2, 7, 9, alen (insn e.op [3, 1, 2] 0), (by decide +kernel : ∀ e ∈ arithOps, (fun (s : State) (c : CtxId) (d : SReg) (a : SReg) (b : SReg) (x : Word) (y : Word) (len : Nat) => Issues s c (insn e.op [d.val, a.val, b.val] 0) len ∧ HoldsInt s c a x ∧ HoldsInt s c b y) (about (insn e.op [3, 1, 2] 0) (ints 7 9)) (c0) (3) (1) (2) (7) (9) (alen (insn e.op [3, 1, 2] 0))) e he⟩

theorem wit_ScalarArithmetic_2a : ∀ e ∈ unaryOps, ∃ (s : State) (c : CtxId) (d : SReg) (a : SReg) (x : Word) (len : Nat),
    Issues s c (insn e.op [d.val, a.val] 0) len ∧ HoldsInt s c a x :=
  fun e he => ⟨about (insn e.op [3, 1] 0) (ints 7 9), c0, 3, 1, 7, alen (insn e.op [3, 1] 0), (by decide +kernel : ∀ e ∈ unaryOps, (fun (s : State) (c : CtxId) (d : SReg) (a : SReg) (x : Word) (len : Nat) => Issues s c (insn e.op [d.val, a.val] 0) len ∧ HoldsInt s c a x) (about (insn e.op [3, 1] 0) (ints 7 9)) (c0) (3) (1) (7) (alen (insn e.op [3, 1] 0))) e he⟩

theorem wit_ScalarArithmetic_3a : ∀ e ∈ immOps, ∃ (s : State) (c : CtxId) (d : SReg) (a : SReg) (imm : BitVec 32) (x : Word) (len : Nat),
    Issues s c (insn e.1 [d.val, a.val] imm.toNat) len ∧ HoldsInt s c a x :=
  fun e he => ⟨about (insn e.1 [3, 1] 5) (ints 7 9), c0, 3, 1, 5, 7, alen (insn e.1 [3, 1] 5), (by decide +kernel : ∀ e ∈ immOps, (fun (s : State) (c : CtxId) (d : SReg) (a : SReg) (imm : BitVec 32) (x : Word) (len : Nat) => Issues s c (insn e.1 [d.val, a.val] imm.toNat) len ∧ HoldsInt s c a x) (about (insn e.1 [3, 1] 5) (ints 7 9)) (c0) (3) (1) (5) (7) (alen (insn e.1 [3, 1] 5))) e he⟩

theorem wit_ScalarArithmetic_4a : ∃ (s : State) (c : CtxId) (a : SReg) (b : SReg) (x : Word) (y : Word) (len : Nat),
    HoldsInt s c a x ∧ HoldsInt s c b y ∧ Issues s c (insn 0x18 [a.val, b.val] 0) len :=
  ⟨about (insn 0x18 [1, 2] 0) (ints 7 9), c0, 1, 2, 7, 9, alen (insn 0x18 [1, 2] 0), by decide +kernel⟩

theorem wit_ScalarArithmetic_4b : ∃ (s : State) (c : CtxId) (a : SReg) (b : SReg) (x : Word) (y : Word) (len : Nat),
    HoldsInt s c a x ∧ HoldsInt s c b y ∧ Issues s c (insn 0x19 [a.val, b.val] 0) len :=
  ⟨about (insn 0x19 [1, 2] 0) (ints 7 9), c0, 1, 2, 7, 9, alen (insn 0x19 [1, 2] 0), by decide +kernel⟩

theorem wit_ScalarArithmetic_5a : ∃ (s : State) (c : CtxId) (a : SReg) (imm : BitVec 32) (x : Word) (len : Nat),
    HoldsInt s c a x ∧ Issues s c (insn 0x29 [a.val] imm.toNat) len :=
  ⟨about (insn 0x29 [1] 5) (ints 7 9), c0, 1, 5, 7, alen (insn 0x29 [1] 5), by decide +kernel⟩

theorem wit_ScalarArithmetic_5b : ∃ (s : State) (c : CtxId) (a : SReg) (imm : BitVec 32) (x : Word) (len : Nat),
    HoldsInt s c a x ∧ Issues s c (insn 0x2A [a.val] imm.toNat) len :=
  ⟨about (insn 0x2A [1] 5) (ints 7 9), c0, 1, 5, 7, alen (insn 0x2A [1] 5), by decide +kernel⟩

theorem wit_DivisionAndShifts_1a : ∀ e ∈ divOps, ∃ (s : State) (c : CtxId) (d : SReg) (a : SReg) (b : SReg) (x : Word) (y : Word) (len : Nat),
    Issues s c (insn e.op [d.val, a.val, b.val] 0) len ∧ HoldsInt s c a x ∧ HoldsInt s c b y :=
  fun e he => ⟨about (insn e.op [3, 1, 2] 0) (ints 7 9), c0, 3, 1, 2, 7, 9, alen (insn e.op [3, 1, 2] 0), (by decide +kernel : ∀ e ∈ divOps, (fun (s : State) (c : CtxId) (d : SReg) (a : SReg) (b : SReg) (x : Word) (y : Word) (len : Nat) => Issues s c (insn e.op [d.val, a.val, b.val] 0) len ∧ HoldsInt s c a x ∧ HoldsInt s c b y) (about (insn e.op [3, 1, 2] 0) (ints 7 9)) (c0) (3) (1) (2) (7) (9) (alen (insn e.op [3, 1, 2] 0))) e he⟩

theorem wit_DivisionAndShifts_2a : ∀ e ∈ shiftOps, ∃ (s : State) (c : CtxId) (d : SReg) (a : SReg) (b : SReg) (x : Word) (y : Word) (len : Nat),
    Issues s c (insn e.op [d.val, a.val, b.val] 0) len ∧ HoldsInt s c a x ∧ HoldsInt s c b y :=
  fun e he => ⟨about (insn e.op [3, 1, 2] 0) (ints 7 9), c0, 3, 1, 2, 7, 9, alen (insn e.op [3, 1, 2] 0), (by decide +kernel : ∀ e ∈ shiftOps, (fun (s : State) (c : CtxId) (d : SReg) (a : SReg) (b : SReg) (x : Word) (y : Word) (len : Nat) => Issues s c (insn e.op [d.val, a.val, b.val] 0) len ∧ HoldsInt s c a x ∧ HoldsInt s c b y) (about (insn e.op [3, 1, 2] 0) (ints 7 9)) (c0) (3) (1) (2) (7) (9) (alen (insn e.op [3, 1, 2] 0))) e he⟩

theorem wit_DivisionAndShifts_3a : ∀ e ∈ shiftImmOps, ∃ (s : State) (c : CtxId) (d : SReg) (a : SReg) (n : BitVec 6) (x : Word) (len : Nat),
    Issues s c (insn e.1 [d.val, a.val] n.toNat) len ∧ HoldsInt s c a x :=
  fun e he => ⟨about (insn e.1 [3, 1] 5) (ints 7 9), c0, 3, 1, 5, 7, alen (insn e.1 [3, 1] 5), (by decide +kernel : ∀ e ∈ shiftImmOps, (fun (s : State) (c : CtxId) (d : SReg) (a : SReg) (n : BitVec 6) (x : Word) (len : Nat) => Issues s c (insn e.1 [d.val, a.val] n.toNat) len ∧ HoldsInt s c a x) (about (insn e.1 [3, 1] 5) (ints 7 9)) (c0) (3) (1) (5) (7) (alen (insn e.1 [3, 1] 5))) e he⟩

theorem wit_MovesAndSystem_1a : ∃ (s : State) (c : CtxId) (d : SReg) (a : SReg) (_b : SReg) (_h : HReg) (len : Nat),
    Issues s c (insn 0x01 [d.val, a.val] 0) len :=
  ⟨about (insn 0x01 [3, 1] 0) (ints 7 9), c0, 3, 1, 2, 1, alen (insn 0x01 [3, 1] 0), by decide +kernel⟩

theorem wit_MovesAndSystem_1b : ∃ (s : State) (c : CtxId) (d : SReg) (_a : SReg) (_b : SReg) (_h : HReg) (len : Nat),
    Issues s c (insn 0x02 [d.val] (9 : BitVec 32).toNat) len :=
  ⟨about (insn 0x02 [3] 9) (ints 7 9), c0, 3, 1, 2, 1, alen (insn 0x02 [3] 9), by decide +kernel⟩

theorem wit_MovesAndSystem_1c : ∃ (s : State) (c : CtxId) (d : SReg) (_a : SReg) (_b : SReg) (_h : HReg) (len : Nat),
    Issues s c (insn 0x03 [d.val] (9 : BitVec 64).toNat) len :=
  ⟨about (insn 0x03 [3] 9) (ints 7 9), c0, 3, 1, 2, 1, alen (insn 0x03 [3] 9), by decide +kernel⟩

theorem wit_MovesAndSystem_1d : ∃ (s : State) (c : CtxId) (d : SReg) (a : SReg) (b : SReg) (_h : HReg) (len : Nat),
    Issues s c (insn 0x56 [d.val, a.val, b.val, (3 : BitVec 4).toNat] 0) len :=
  ⟨about (insn 0x56 [3, 1, 2, 3] 0) (ints 7 9), c0, 3, 1, 2, 1, alen (insn 0x56 [3, 1, 2, 3] 0), by decide +kernel⟩

theorem wit_MovesAndSystem_1e : ∃ (s : State) (c : CtxId) (d : SReg) (_a : SReg) (_b : SReg) (h : HReg) (len : Nat),
    Issues s c (insn 0x71 [d.val, h.val] 0) len :=
  ⟨about (insn 0x71 [3, 1] 0) (ints 7 9), c0, 3, 1, 2, 1, alen (insn 0x71 [3, 1] 0), by decide +kernel⟩

theorem wit_MovesAndSystem_1f : ∃ (s : State) (c : CtxId) (d : SReg) (a : SReg) (_b : SReg) (_h : HReg) (len : Nat),
    Issues s c (insn 0x37 [d.val, a.val] 0) len :=
  ⟨about (insn 0x37 [3, 1] 0) (ints 7 9), c0, 3, 1, 2, 1, alen (insn 0x37 [3, 1] 0), by decide +kernel⟩

theorem wit_MovesAndSystem_1g : ∃ (s : State) (c : CtxId) (d : SReg) (a : SReg) (_b : SReg) (_h : HReg) (len : Nat),
    Issues s c (insn 0x36 [d.val, a.val] Tag.fp32x2.toNat) len ∧ dataTag ((s.ctx c).sreg a.val).tag ∧ dataTag Tag.fp32x2 :=
  ⟨about (insn 0x36 [3, 1] 3) (ints 7 9), c0, 3, 1, 2, 1, alen (insn 0x36 [3, 1] 3), by decide +kernel⟩

theorem wit_MovesAndSystem_2a : ∃ (s : State) (c : CtxId) (d : SReg) (a : SReg) (t : Tag) (len : Nat),
    Issues s c (insn 0x36 [d.val, a.val] t.toNat) len ∧ ¬(dataTag ((s.ctx c).sreg a.val).tag ∧ dataTag t) :=
  ⟨about (insn 0x36 [3, 1] Tag.handle.toNat) (ints 7 9), c0, 3, 1, Tag.handle, alen (insn 0x36 [3, 1] Tag.handle.toNat), by decide +kernel⟩

theorem wit_MovesAndSystem_3a : ∃ (s : State) (c : CtxId) (d : SReg) (_a : SReg) (_x : Word) (len : Nat),
    Issues s c (insn 0x55 [d.val, (4 : BitVec 4).toNat] 0) len :=
  ⟨about (insn 0x55 [3, 4] 0) (ints 7 9), c0, 3, 1, 7, alen (insn 0x55 [3, 4] 0), by decide +kernel⟩

theorem wit_MovesAndSystem_3b : ∃ (s : State) (c : CtxId) (d : SReg) (_a : SReg) (_x : Word) (len : Nat),
    Issues s c (insn 0x57 [d.val] 0) len :=
  ⟨about (insn 0x57 [3] 0) (ints 7 9), c0, 3, 1, 7, alen (insn 0x57 [3] 0), by decide +kernel⟩

theorem wit_MovesAndSystem_3c : ∃ (s : State) (c : CtxId) (_d : SReg) (a : SReg) (x : Word) (len : Nat),
    HoldsInt s c a x ∧ Issues s c (insn 0x58 [a.val] 0) len :=
  ⟨about (insn 0x58 [1] 0) (ints 7 9), c0, 3, 1, 7, alen (insn 0x58 [1] 0), by decide +kernel⟩

theorem wit_MovesAndSystem_3d : ∃ (s : State) (c : CtxId) (_d : SReg) (_a : SReg) (_x : Word) (len : Nat),
    Issues s c (insn 0x59 [] (5 : BitVec 8).toNat) len :=
  ⟨about (insn 0x59 [] 5) (ints 7 9), c0, 3, 1, 7, alen (insn 0x59 [] 5), by decide +kernel⟩

theorem wit_MovesAndSystem_3e : ∃ (s : State) (c : CtxId) (_d : SReg) (_a : SReg) (_x : Word) (len : Nat),
    Issues s c (insn 0x00 [] 0) len :=
  ⟨about (insn 0x00 [] 0) (ints 7 9), c0, 3, 1, 7, alen (insn 0x00 [] 0), by decide +kernel⟩

theorem wit_MovesAndSystem_4a : ∃ (s : State) (c : CtxId) (d : SReg) (_a : SReg) (_x : Word) (len : Nat),
    Issues s c (insn 0xD0 [d.val] (4 : BitVec 16).toNat) len :=
  ⟨about (insn 0xD0 [3] 4) (ints 7 9), c0, 3, 1, 7, alen (insn 0xD0 [3] 4), by decide +kernel⟩

theorem wit_MovesAndSystem_4b : ∃ (s : State) (c : CtxId) (d : SReg) (_a : SReg) (_x : Word) (len : Nat),
    Issues s c (insn 0xD0 [d.val] (5 : BitVec 16).toNat) len :=
  ⟨about (insn 0xD0 [3] 5) (ints 7 9), c0, 3, 1, 7, alen (insn 0xD0 [3] 5), by decide +kernel⟩

theorem wit_MovesAndSystem_4c : ∃ (s : State) (c : CtxId) (_d : SReg) (a : SReg) (x : Word) (len : Nat),
    HoldsInt s c a x ∧ Issues s c (insn 0xD1 [a.val] 1) len :=
  ⟨about (insn 0xD1 [1] 1) (ints 7 9), c0, 3, 1, 7, alen (insn 0xD1 [1] 1), by decide +kernel⟩

theorem wit_MovesAndSystem_4d : ∃ (s : State) (c : CtxId) (_d : SReg) (a : SReg) (_x : Word) (len : Nat),
    Issues s c (insn 0xD1 [a.val] (2 : BitVec 16).toNat) len :=
  ⟨about (insn 0xD1 [1] 2) (ints 7 9), c0, 3, 1, 7, alen (insn 0xD1 [1] 2), by decide +kernel⟩

theorem wit_MovesAndSystem_4e : ∃ (s : State) (c : CtxId) (_d : SReg) (_a : SReg) (_x : Word) (len : Nat),
    Issues s c (insn 0xD2 [] 0) len :=
  ⟨about (insn 0xD2 [] 0) (ints 7 9), c0, 3, 1, 7, alen (insn 0xD2 [] 0), by decide +kernel⟩

theorem wit_MovesAndSystem_4f : ∃ (s : State) (c : CtxId) (d : SReg) (_a : SReg) (_x : Word) (len : Nat),
    Issues s c (insn 0xD4 [d.val] 0) len :=
  ⟨about (insn 0xD4 [3] 0) (ints 7 9), c0, 3, 1, 7, alen (insn 0xD4 [3] 0), by decide +kernel⟩

theorem wit_MovesAndSystem_4g : ∃ (s : State) (c : CtxId) (_d : SReg) (a : SReg) (_x : Word) (len : Nat),
    ((s.ctx c).sreg a.val).tag = Tag.int64 ∧ Issues s c (insn 0xD3 [a.val] 0) len :=
  ⟨about (insn 0xD3 [1] 0) (ints 7 9), c0, 3, 1, 7, alen (insn 0xD3 [1] 0), by decide +kernel⟩

theorem wit_MovesAndSystem_4h : ∃ (s : State) (c : CtxId) (d : SReg) (_a : SReg) (_x : Word) (len : Nat),
    Issues s c (insn 0xDF40 [d.val] 0) len :=
  ⟨about (insn 0xDF40 [3] 0) (ints 7 9), c0, 3, 1, 7, alen (insn 0xDF40 [3] 0), by decide +kernel⟩

theorem wit_MovesAndSystem_4i : ∃ (s : State) (c : CtxId) (_d : SReg) (a : SReg) (x : Word) (len : Nat),
    HoldsInt s c a x ∧ Issues s c (insn 0xDF41 [a.val] 0) len :=
  ⟨about (insn 0xDF41 [1] 0) (ints 7 9), c0, 3, 1, 7, alen (insn 0xDF41 [1] 0), by decide +kernel⟩

theorem wit_MovesAndSystem_4j : ∃ (s : State) (c : CtxId) (d : SReg) (_a : SReg) (_x : Word) (len : Nat),
    Issues s c (insn 0xDF40 [d.val] 1) len :=
  ⟨about (insn 0xDF40 [3] 1) (ints 7 9), c0, 3, 1, 7, alen (insn 0xDF40 [3] 1), by decide +kernel⟩

theorem wit_MovesAndSystem_4k : ∃ (s : State) (c : CtxId) (_d : SReg) (a : SReg) (x : Word) (len : Nat),
    HoldsInt s c a x ∧ Issues s c (insn 0xDF41 [a.val] 1) len :=
  ⟨about (insn 0xDF41 [1] 1) (ints 7 9), c0, 3, 1, 7, alen (insn 0xDF41 [1] 1), by decide +kernel⟩

theorem wit_MovesAndSystem_4l : ∃ (s : State) (c : CtxId) (d : SReg) (_a : SReg) (_x : Word) (len : Nat),
    Issues s c (insn 0xDF40 [d.val] 2) len :=
  ⟨about (insn 0xDF40 [3] 2) (ints 7 9), c0, 3, 1, 7, alen (insn 0xDF40 [3] 2), by decide +kernel⟩

theorem wit_MovesAndSystem_4m : ∃ (s : State) (c : CtxId) (_d : SReg) (a : SReg) (x : Word) (len : Nat),
    HoldsInt s c a x ∧ Issues s c (insn 0xDF41 [a.val] 2) len :=
  ⟨about (insn 0xDF41 [1] 2) (ints 7 9), c0, 3, 1, 7, alen (insn 0xDF41 [1] 2), by decide +kernel⟩

theorem wit_MovesAndSystem_4n : ∃ (s : State) (c : CtxId) (_d : SReg) (_a : SReg) (_x : Word) (len : Nat),
    Issues s c (insn 0xDF42 [] 0) len :=
  ⟨about (insn 0xDF42 [] 0) (ints 7 9), c0, 3, 1, 7, alen (insn 0xDF42 [] 0), by decide +kernel⟩

theorem wit_Branches_1a : ∃ (s : State) (c : CtxId) (_a : SReg) (disp : BitVec 32) (_x : Word) (len : Nat),
    Issues s c (insn (0x40 + (0 : BitVec 4).toNat) [] disp.toNat) len :=
  ⟨about (insn 0x40 [] 0xFFFFFFFC) (ints 7 9), c0, 1, 0xFFFFFFFC, 7, alen (insn 0x40 [] 0xFFFFFFFC), by decide +kernel⟩

theorem wit_Branches_1b : ∃ (s : State) (c : CtxId) (_a : SReg) (disp : BitVec 32) (_x : Word) (len : Nat),
    Issues s c (insn (0x40 + (15 : BitVec 4).toNat) [] disp.toNat) len :=
  ⟨about (insn 0x4F [] 0xFFFFFFFC) (ints 7 9), c0, 1, 0xFFFFFFFC, 7, alen (insn 0x4F [] 0xFFFFFFFC), by decide +kernel⟩

theorem wit_Branches_1c : ∃ (s : State) (c : CtxId) (_a : SReg) (disp : BitVec 32) (_x : Word) (len : Nat),
    Issues s c (insn 0x50 [] disp.toNat) len :=
  ⟨about (insn 0x50 [] 0xFFFFFFFC) (ints 7 9), c0, 1, 0xFFFFFFFC, 7, alen (insn 0x50 [] 0xFFFFFFFC), by decide +kernel⟩

theorem wit_Branches_1d : ∃ (s : State) (c : CtxId) (a : SReg) (_disp : BitVec 32) (x : Word) (len : Nat),
    HoldsInt s c a x ∧ Issues s c (insn 0x51 [a.val] 0) len :=
  ⟨about (insn 0x51 [1] 0) (ints 7 9), c0, 1, 0xFFFFFFFC, 7, alen (insn 0x51 [1] 0), by decide +kernel⟩

theorem wit_Branches_1e : ∃ (s : State) (c : CtxId) (a : SReg) (_disp : BitVec 32) (x : Word) (len : Nat),
    HoldsInt s c a x ∧ Issues s c (insn 0x52 [a.val] 0) len :=
  ⟨about (insn 0x52 [1] 0) (ints 7 9), c0, 1, 0xFFFFFFFC, 7, alen (insn 0x52 [1] 0), by decide +kernel⟩

theorem wit_Branches_1f : ∃ (s : State) (c : CtxId) (_a : SReg) (_disp : BitVec 32) (x : Word) (len : Nat),
    HoldsInt s c 30 x ∧ Issues s c (insn 0x53 [] 0) len :=
  ⟨about (insn 0x53 [] 0) (fun k => k.setS 30 (TWord.int 7)), c0, 1, 0xFFFFFFFC, 7, alen (insn 0x53 [] 0), by decide +kernel⟩

theorem wit_Branches_1g : ∃ (s : State) (c : CtxId) (a : SReg) (disp : BitVec 32) (x : Word) (len : Nat),
    HoldsInt s c a x ∧ x ≠ 1 ∧ Issues s c (insn 0x54 [a.val] disp.toNat) len :=
  ⟨about (insn 0x54 [1] 0xFFFFFFFC) (ints 7 9), c0, 1, 0xFFFFFFFC, 7, alen (insn 0x54 [1] 0xFFFFFFFC), by decide +kernel⟩

theorem wit_Branches_1h : ∃ (s : State) (c : CtxId) (a : SReg) (disp : BitVec 32) (x : Word) (len : Nat),
    HoldsInt s c a x ∧ x = 1 ∧ Issues s c (insn 0x54 [a.val] disp.toNat) len :=
  ⟨about (insn 0x54 [1] 0xFFFFFFFC) (ints 1 9), c0, 1, 0xFFFFFFFC, 1, alen (insn 0x54 [1] 0xFFFFFFFC), by decide +kernel⟩

theorem wit_OperandAndFetchFaults_1a : ∀ e ∈ op3s, ∃ (s : State) (c : CtxId) (d : SReg) (a : SReg) (b : SReg) (len : Nat) (st : Status),
    Issues s c (insn e.op [d.val, a.val, b.val] 0) len ∧ intFault ((s.ctx c).sreg a.val) = some st :=
  fun e he => ⟨about (insn e.op [3, 1, 2] 0) (fun k => ints 7 9 (k.setS 2 ⟨5, Tag.poison⟩) |>.setS 1 ⟨5, Tag.rsvd⟩), c0, 3, 1, 2, alen (insn e.op [3, 1, 2] 0), stPoison, (by decide +kernel : ∀ e ∈ op3s, (fun (s : State) (c : CtxId) (d : SReg) (a : SReg) (b : SReg) (len : Nat) (st : Status) => Issues s c (insn e.op [d.val, a.val, b.val] 0) len ∧ intFault ((s.ctx c).sreg a.val) = some st) (about (insn e.op [3, 1, 2] 0) (fun k => ints 7 9 (k.setS 2 ⟨5, Tag.poison⟩) |>.setS 1 ⟨5, Tag.rsvd⟩)) (c0) (3) (1) (2) (alen (insn e.op [3, 1, 2] 0)) (stPoison)) e he⟩

theorem wit_OperandAndFetchFaults_1b : ∀ e ∈ op3s, ∃ (s : State) (c : CtxId) (d : SReg) (a : SReg) (b : SReg) (len : Nat) (st : Status),
    Issues s c (insn e.op [d.val, a.val, b.val] 0) len ∧ intFault ((s.ctx c).sreg a.val) = none ∧ intFault ((s.ctx c).sreg b.val) = some st :=
  fun e he => ⟨about (insn e.op [3, 1, 2] 0) (fun k => (ints 7 9 k).setS 2 ⟨5, Tag.nil⟩), c0, 3, 1, 2, alen (insn e.op [3, 1, 2] 0), stTag, (by decide +kernel : ∀ e ∈ op3s, (fun (s : State) (c : CtxId) (d : SReg) (a : SReg) (b : SReg) (len : Nat) (st : Status) => Issues s c (insn e.op [d.val, a.val, b.val] 0) len ∧ intFault ((s.ctx c).sreg a.val) = none ∧ intFault ((s.ctx c).sreg b.val) = some st) (about (insn e.op [3, 1, 2] 0) (fun k => (ints 7 9 k).setS 2 ⟨5, Tag.nil⟩)) (c0) (3) (1) (2) (alen (insn e.op [3, 1, 2] 0)) (stTag)) e he⟩

theorem wit_OperandAndFetchFaults_2a : ∀ e ∈ unaryOps, ∃ (s : State) (c : CtxId) (d : SReg) (a : SReg) (len : Nat) (st : Status),
    Issues s c (insn e.op [d.val, a.val] 0) len ∧ intFault ((s.ctx c).sreg a.val) = some st :=
  fun e he => ⟨about (insn e.op [3, 1] 0) (fun k => k.setS 1 ⟨5, Tag.rsvd⟩), c0, 3, 1, alen (insn e.op [3, 1] 0), stPoison, (by decide +kernel : ∀ e ∈ unaryOps, (fun (s : State) (c : CtxId) (d : SReg) (a : SReg) (len : Nat) (st : Status) => Issues s c (insn e.op [d.val, a.val] 0) len ∧ intFault ((s.ctx c).sreg a.val) = some st) (about (insn e.op [3, 1] 0) (fun k => k.setS 1 ⟨5, Tag.rsvd⟩)) (c0) (3) (1) (alen (insn e.op [3, 1] 0)) (stPoison)) e he⟩

theorem wit_OperandAndFetchFaults_4a : ∃ (s : State) (c : CtxId),
    canIssue s c = true ∧ s.current (s.ctx c).code = none :=
  ⟨{ about (insn 0 [] 0) id with regions := [] }, c0, by decide +kernel⟩

theorem wit_OperandAndFetchFaults_4b : ∃ (s : State) (c : CtxId),
    canIssue s c = true ∧ (∃ r ∈ s.current (s.ctx c).code, r.len.toNat ≤ (s.ctx c).pc.toNat) :=
  ⟨about (insn 0 [] 0) fun k => { k with pc := 64 }, c0, by decide +kernel⟩

theorem wit_OperandAndFetchFaults_4c : ∃ (s : State) (c : CtxId), canIssue s c = true ∧ decodeAt s c = .error stUndef :=
  ⟨device [0x2B] id, c0, by decide +kernel, by rfl⟩

/-- H1 with displacement 8: device address 0x2008. -/
def ad : Addr := ⟨1, 0, none, 8⟩

/-- H1 indexed by S2 in words. -/
def adx : Addr := ⟨1, 1, some 2, 0⟩

theorem wit_Loads_1a : ∀ e ∈ loads, ∃ (s : State) (c : CtxId) (ord : Bool) (r : SReg) (a : Addr) (p : Nat) (len : Nat),
    Issues s c (insnOrd e.op ord (r.val :: addrBytes a) a.disp.toNat) len ∧ Reaches s c a 0 e.size e.size rightRd p ∧ dataTag (((issued s c len).settle p e.size).mem.tagAt p) :=
  fun e he => ⟨aboutM (insnOrd e.op false (3 :: addrBytes ad) ad.disp.toNat) (ints 7 9) 0x2008 ⟨0x8182838485868788, Tag.int64⟩, c0, false, 3, ad, 0x2008, alen (insnOrd e.op false (3 :: addrBytes ad) ad.disp.toNat), (by decide +kernel : ∀ e ∈ loads, (fun (s : State) (c : CtxId) (ord : Bool) (r : SReg) (a : Addr) (p : Nat) (len : Nat) => Issues s c (insnOrd e.op ord (r.val :: addrBytes a) a.disp.toNat) len ∧ Reaches s c a 0 e.size e.size rightRd p ∧ dataTag (((issued s c len).settle p e.size).mem.tagAt p)) (aboutM (insnOrd e.op false (3 :: addrBytes ad) ad.disp.toNat) (ints 7 9) 0x2008 ⟨0x8182838485868788, Tag.int64⟩) (c0) (false) (3) (ad) (0x2008) (alen (insnOrd e.op false (3 :: addrBytes ad) ad.disp.toNat))) e he⟩

theorem wit_Loads_1b : ∀ e ∈ loads, ∃ (s : State) (c : CtxId) (ord : Bool) (r : SReg) (a : Addr) (p : Nat) (len : Nat),
    Issues s c (insnOrd e.op ord (r.val :: addrBytes a) a.disp.toNat) len ∧ Reaches s c a 0 e.size e.size rightRd p ∧ dataTag (((issued s c len).settle p e.size).mem.tagAt p) :=
  fun e he => ⟨aboutM (insnOrd e.op false (3 :: addrBytes adx) adx.disp.toNat) (ints 7 1) 0x2008 ⟨0x8182838485868788, Tag.fp32x2⟩, c0, false, 3, adx, 0x2008, alen (insnOrd e.op false (3 :: addrBytes adx) adx.disp.toNat), (by decide +kernel : ∀ e ∈ loads, (fun (s : State) (c : CtxId) (ord : Bool) (r : SReg) (a : Addr) (p : Nat) (len : Nat) => Issues s c (insnOrd e.op ord (r.val :: addrBytes a) a.disp.toNat) len ∧ Reaches s c a 0 e.size e.size rightRd p ∧ dataTag (((issued s c len).settle p e.size).mem.tagAt p)) (aboutM (insnOrd e.op false (3 :: addrBytes adx) adx.disp.toNat) (ints 7 1) 0x2008 ⟨0x8182838485868788, Tag.fp32x2⟩) (c0) (false) (3) (adx) (0x2008) (alen (insnOrd e.op false (3 :: addrBytes adx) adx.disp.toNat))) e he⟩

theorem wit_Loads_2a : ∃ (s : State) (c : CtxId) (ord : Bool) (r : SReg) (_h : HReg) (a : Addr) (p : Nat) (len : Nat),
    Reaches s c a 0 8 8 rightRd p ∧ Issues s c (insnOrd 0x63 ord (r.val :: addrBytes a) a.disp.toNat) len :=
  ⟨aboutM (insnOrd 0x63 false (3 :: addrBytes ad) ad.disp.toNat) (ints 7 9) 0x2008 ⟨5, Tag.handle⟩, c0, false, 3, 4, ad, 0x2008, alen (insnOrd 0x63 false (3 :: addrBytes ad) ad.disp.toNat), by decide +kernel⟩

theorem wit_Loads_2b : ∃ (s : State) (c : CtxId) (ord : Bool) (_r : SReg) (h : HReg) (a : Addr) (p : Nat) (len : Nat),
    Reaches s c a 0 8 8 rightRd p ∧ Issues s c (insnOrd 0x6F ord (h.val :: addrBytes a) a.disp.toNat) len ∧ ((issued s c len).settle p 8).mem.tagAt p = Tag.handle :=
  ⟨aboutM (insnOrd 0x6F false (4 :: addrBytes ad) ad.disp.toNat) (ints 7 9) 0x2008 ⟨5, Tag.handle⟩, c0, false, 3, 4, ad, 0x2008, alen (insnOrd 0x6F false (4 :: addrBytes ad) ad.disp.toNat), by decide +kernel⟩

theorem wit_Loads_2c : ∃ (s : State) (c : CtxId) (ord : Bool) (_r : SReg) (h : HReg) (a : Addr) (p : Nat) (len : Nat),
    Reaches s c a 0 8 8 rightRd p ∧ Issues s c (insnOrd 0x6F ord (h.val :: addrBytes a) a.disp.toNat) len ∧ ((issued s c len).settle p 8).mem.tagAt p = Tag.poison :=
  ⟨aboutM (insnOrd 0x6F false (4 :: addrBytes ad) ad.disp.toNat) (ints 7 9) 0x2008 ⟨5, Tag.poison⟩, c0, false, 3, 4, ad, 0x2008, alen (insnOrd 0x6F false (4 :: addrBytes ad) ad.disp.toNat), by decide +kernel⟩

theorem wit_Loads_2d : ∃ (s : State) (c : CtxId) (ord : Bool) (_r : SReg) (h : HReg) (a : Addr) (p : Nat) (len : Nat),
    Reaches s c a 0 8 8 rightRd p ∧ Issues s c (insnOrd 0x6F ord (h.val :: addrBytes a) a.disp.toNat) len ∧ ((issued s c len).settle p 8).mem.tagAt p = Tag.int64 :=
  ⟨aboutM (insnOrd 0x6F false (4 :: addrBytes ad) ad.disp.toNat) (ints 7 9) 0x2008 ⟨5, Tag.int64⟩, c0, false, 3, 4, ad, 0x2008, alen (insnOrd 0x6F false (4 :: addrBytes ad) ad.disp.toNat), by decide +kernel⟩

theorem wit_Stores_1a : ∀ e ∈ stores, ∃ (s : State) (c : CtxId) (ord : Bool) (r : SReg) (a : Addr) (p : Nat) (len : Nat),
    Issues s c (insnOrd e.1 ord (r.val :: addrBytes a) a.disp.toNat) len ∧ dataTag ((s.ctx c).sreg r.val).tag ∧ Reaches s c a 0 e.2.2 e.2.2 rightWr p ∧ dataTag (((issued s c len).settle p e.2.2).mem.tagAt p) :=
  fun e he => ⟨aboutM (insnOrd e.1 false (1 :: addrBytes ad) ad.disp.toNat) (ints 0x1122334455667788 9) 0x2008 ⟨5, Tag.int64⟩, c0, false, 1, ad, 0x2008, alen (insnOrd e.1 false (1 :: addrBytes ad) ad.disp.toNat), (by decide +kernel : ∀ e ∈ stores, (fun (s : State) (c : CtxId) (ord : Bool) (r : SReg) (a : Addr) (p : Nat) (len : Nat) => Issues s c (insnOrd e.1 ord (r.val :: addrBytes a) a.disp.toNat) len ∧ dataTag ((s.ctx c).sreg r.val).tag ∧ Reaches s c a 0 e.2.2 e.2.2 rightWr p ∧ dataTag (((issued s c len).settle p e.2.2).mem.tagAt p)) (aboutM (insnOrd e.1 false (1 :: addrBytes ad) ad.disp.toNat) (ints 0x1122334455667788 9) 0x2008 ⟨5, Tag.int64⟩) (c0) (false) (1) (ad) (0x2008) (alen (insnOrd e.1 false (1 :: addrBytes ad) ad.disp.toNat))) e he⟩

theorem wit_Stores_1b : ∀ e ∈ stores, ∃ (s : State) (c : CtxId) (ord : Bool) (r : SReg) (a : Addr) (p : Nat) (len : Nat),
    Issues s c (insnOrd e.1 ord (r.val :: addrBytes a) a.disp.toNat) len ∧ dataTag ((s.ctx c).sreg r.val).tag ∧ Reaches s c a 0 e.2.2 e.2.2 rightWr p ∧ ((issued s c len).settle p e.2.2).mem.tagAt p = Tag.handle :=
  fun e he => ⟨aboutM (insnOrd e.1 false (1 :: addrBytes ad) ad.disp.toNat) (ints 0x1122334455667788 9) 0x2008 ⟨5, Tag.handle⟩, c0, false, 1, ad, 0x2008, alen (insnOrd e.1 false (1 :: addrBytes ad) ad.disp.toNat), (by decide +kernel : ∀ e ∈ stores, (fun (s : State) (c : CtxId) (ord : Bool) (r : SReg) (a : Addr) (p : Nat) (len : Nat) => Issues s c (insnOrd e.1 ord (r.val :: addrBytes a) a.disp.toNat) len ∧ dataTag ((s.ctx c).sreg r.val).tag ∧ Reaches s c a 0 e.2.2 e.2.2 rightWr p ∧ ((issued s c len).settle p e.2.2).mem.tagAt p = Tag.handle) (aboutM (insnOrd e.1 false (1 :: addrBytes ad) ad.disp.toNat) (ints 0x1122334455667788 9) 0x2008 ⟨5, Tag.handle⟩) (c0) (false) (1) (ad) (0x2008) (alen (insnOrd e.1 false (1 :: addrBytes ad) ad.disp.toNat))) e he⟩

theorem wit_Stores_1c : ∀ e ∈ stores, ∃ (s : State) (c : CtxId) (ord : Bool) (r : SReg) (a : Addr) (p : Nat) (len : Nat),
    Issues s c (insnOrd e.1 ord (r.val :: addrBytes a) a.disp.toNat) len ∧ dataTag ((s.ctx c).sreg r.val).tag ∧ Reaches s c a 0 e.2.2 e.2.2 rightWr p ∧ ((issued s c len).settle p e.2.2).mem.tagAt p = Tag.poison :=
  fun e he => ⟨aboutM (insnOrd e.1 false (1 :: addrBytes ad) ad.disp.toNat) (ints 0x1122334455667788 9) 0x2008 ⟨5, Tag.poison⟩, c0, false, 1, ad, 0x2008, alen (insnOrd e.1 false (1 :: addrBytes ad) ad.disp.toNat), (by decide +kernel : ∀ e ∈ stores, (fun (s : State) (c : CtxId) (ord : Bool) (r : SReg) (a : Addr) (p : Nat) (len : Nat) => Issues s c (insnOrd e.1 ord (r.val :: addrBytes a) a.disp.toNat) len ∧ dataTag ((s.ctx c).sreg r.val).tag ∧ Reaches s c a 0 e.2.2 e.2.2 rightWr p ∧ ((issued s c len).settle p e.2.2).mem.tagAt p = Tag.poison) (aboutM (insnOrd e.1 false (1 :: addrBytes ad) ad.disp.toNat) (ints 0x1122334455667788 9) 0x2008 ⟨5, Tag.poison⟩) (c0) (false) (1) (ad) (0x2008) (alen (insnOrd e.1 false (1 :: addrBytes ad) ad.disp.toNat))) e he⟩

theorem wit_Stores_1d : ∀ e ∈ stores, ∃ (s : State) (c : CtxId) (ord : Bool) (r : SReg) (a : Addr) (p : Nat) (len : Nat),
    Issues s c (insnOrd e.1 ord (r.val :: addrBytes a) a.disp.toNat) len ∧ dataTag ((s.ctx c).sreg r.val).tag ∧ Reaches s c a 0 e.2.2 e.2.2 rightWr p ∧ ((issued s c len).settle p e.2.2).mem.tagAt p = Tag.code :=
  fun e he => ⟨aboutM (insnOrd e.1 false (1 :: addrBytes ad) ad.disp.toNat) (ints 0x1122334455667788 9) 0x2008 ⟨5, Tag.code⟩, c0, false, 1, ad, 0x2008, alen (insnOrd e.1 false (1 :: addrBytes ad) ad.disp.toNat), (by decide +kernel : ∀ e ∈ stores, (fun (s : State) (c : CtxId) (ord : Bool) (r : SReg) (a : Addr) (p : Nat) (len : Nat) => Issues s c (insnOrd e.1 ord (r.val :: addrBytes a) a.disp.toNat) len ∧ dataTag ((s.ctx c).sreg r.val).tag ∧ Reaches s c a 0 e.2.2 e.2.2 rightWr p ∧ ((issued s c len).settle p e.2.2).mem.tagAt p = Tag.code) (aboutM (insnOrd e.1 false (1 :: addrBytes ad) ad.disp.toNat) (ints 0x1122334455667788 9) 0x2008 ⟨5, Tag.code⟩) (c0) (false) (1) (ad) (0x2008) (alen (insnOrd e.1 false (1 :: addrBytes ad) ad.disp.toNat))) e he⟩

theorem wit_Stores_2a : ∀ e ∈ stores, ∃ (s : State) (c : CtxId) (ord : Bool) (r : SReg) (a : Addr) (len : Nat),
    Issues s c (insnOrd e.1 ord (r.val :: addrBytes a) a.disp.toNat) len ∧ ((s.ctx c).sreg r.val).tag = Tag.poison :=
  fun e he => ⟨about (insnOrd e.1 false (1 :: addrBytes ad) ad.disp.toNat) (fun k => k.setS 1 ⟨5, Tag.poison⟩), c0, false, 1, ad, alen (insnOrd e.1 false (1 :: addrBytes ad) ad.disp.toNat), (by decide +kernel : ∀ e ∈ stores, (fun (s : State) (c : CtxId) (ord : Bool) (r : SReg) (a : Addr) (len : Nat) => Issues s c (insnOrd e.1 ord (r.val :: addrBytes a) a.disp.toNat) len ∧ ((s.ctx c).sreg r.val).tag = Tag.poison) (about (insnOrd e.1 false (1 :: addrBytes ad) ad.disp.toNat) (fun k => k.setS 1 ⟨5, Tag.poison⟩)) (c0) (false) (1) (ad) (alen (insnOrd e.1 false (1 :: addrBytes ad) ad.disp.toNat))) e he⟩

theorem wit_Stores_2b : ∀ e ∈ stores, ∃ (s : State) (c : CtxId) (ord : Bool) (r : SReg) (a : Addr) (len : Nat),
    Issues s c (insnOrd e.1 ord (r.val :: addrBytes a) a.disp.toNat) len ∧ ((s.ctx c).sreg r.val).tag = Tag.code :=
  fun e he => ⟨about (insnOrd e.1 false (1 :: addrBytes ad) ad.disp.toNat) (fun k => k.setS 1 ⟨5, Tag.code⟩), c0, false, 1, ad, alen (insnOrd e.1 false (1 :: addrBytes ad) ad.disp.toNat), (by decide +kernel : ∀ e ∈ stores, (fun (s : State) (c : CtxId) (ord : Bool) (r : SReg) (a : Addr) (len : Nat) => Issues s c (insnOrd e.1 ord (r.val :: addrBytes a) a.disp.toNat) len ∧ ((s.ctx c).sreg r.val).tag = Tag.code) (about (insnOrd e.1 false (1 :: addrBytes ad) ad.disp.toNat) (fun k => k.setS 1 ⟨5, Tag.code⟩)) (c0) (false) (1) (ad) (alen (insnOrd e.1 false (1 :: addrBytes ad) ad.disp.toNat))) e he⟩

theorem wit_Stores_3a : ∃ (s : State) (c : CtxId) (ord : Bool) (r : SReg) (_h : HReg) (a : Addr) (p : Nat) (len : Nat),
    Reaches s c a 0 8 8 rightWr p ∧ Issues s c (insnOrd 0x6A ord (r.val :: addrBytes a) a.disp.toNat) len ∧ (issued s c len).mem.tagAt p ≠ Tag.code :=
  ⟨aboutM (insnOrd 0x6A false (1 :: addrBytes ad) ad.disp.toNat) (ints 7 9) 0x2008 ⟨5, Tag.int64⟩, c0, false, 1, 1, ad, 0x2008, alen (insnOrd 0x6A false (1 :: addrBytes ad) ad.disp.toNat), by decide +kernel⟩

theorem wit_Stores_3b : ∃ (s : State) (c : CtxId) (ord : Bool) (r : SReg) (_h : HReg) (a : Addr) (p : Nat) (len : Nat),
    Reaches s c a 0 8 8 rightWr p ∧ Issues s c (insnOrd 0x6A ord (r.val :: addrBytes a) a.disp.toNat) len ∧ (issued s c len).mem.tagAt p = Tag.code :=
  ⟨aboutM (insnOrd 0x6A false (1 :: addrBytes ad) ad.disp.toNat) (ints 7 9) 0x2008 ⟨5, Tag.code⟩, c0, false, 1, 1, ad, 0x2008, alen (insnOrd 0x6A false (1 :: addrBytes ad) ad.disp.toNat), by decide +kernel⟩

theorem wit_Stores_3c : ∃ (s : State) (c : CtxId) (ord : Bool) (_r : SReg) (h : HReg) (a : Addr) (p : Nat) (len : Nat),
    Reaches s c a 0 8 8 rightWr p ∧ Issues s c (insnOrd 0x70 ord (h.val :: addrBytes a) a.disp.toNat) len ∧ (issued s c len).mem.tagAt p ≠ Tag.code :=
  ⟨aboutM (insnOrd 0x70 false (1 :: addrBytes ad) ad.disp.toNat) (ints 7 9) 0x2008 ⟨5, Tag.int64⟩, c0, false, 1, 1, ad, 0x2008, alen (insnOrd 0x70 false (1 :: addrBytes ad) ad.disp.toNat), by decide +kernel⟩

theorem wit_Stores_3d : ∃ (s : State) (c : CtxId) (ord : Bool) (_r : SReg) (h : HReg) (a : Addr) (p : Nat) (len : Nat),
    Reaches s c a 0 8 8 rightWr p ∧ Issues s c (insnOrd 0x70 ord (h.val :: addrBytes a) a.disp.toNat) len ∧ (issued s c len).mem.tagAt p = Tag.code :=
  ⟨aboutM (insnOrd 0x70 false (1 :: addrBytes ad) ad.disp.toNat) (ints 7 9) 0x2008 ⟨5, Tag.code⟩, c0, false, 1, 1, ad, 0x2008, alen (insnOrd 0x70 false (1 :: addrBytes ad) ad.disp.toNat), by decide +kernel⟩

theorem wit_Stores_4a : ∃ (s : State) (p : Nat) (_w : TWord),
    (∀ e ∈ s.cqs, e.2.base ≠ p) ∧ s.cqs = [] :=
  ⟨about (insn 0 [] 0) id, 0x2008, ⟨7, Tag.handle⟩, by decide +kernel⟩

theorem wit_Atomics_1a : ∀ e ∈ atomics, ∃ (s : State) (c : CtxId) (ord : Bool) (d : SReg) (b : SReg) (a : Addr) (y : Word) (p : Nat) (len : Nat),
    Issues s c (insnOrd e.1 ord (d.val :: (addrBytes a ++ [b.val])) a.disp.toNat) len ∧ HoldsInt s c b y ∧ Reaches s c a 0 8 8 rightAtom p ∧ ((issued s c len).settle p 8).mem.tagAt p = Tag.int64 :=
  fun e he => ⟨aboutM (insnOrd e.1 false (3 :: (addrBytes ad ++ [1])) ad.disp.toNat) (ints 7 9) 0x2008 ⟨5, Tag.int64⟩, c0, false, 3, 1, ad, 7, 0x2008, alen (insnOrd e.1 false (3 :: (addrBytes ad ++ [1])) ad.disp.toNat), (by decide +kernel : ∀ e ∈ atomics, (fun (s : State) (c : CtxId) (ord : Bool) (d : SReg) (b : SReg) (a : Addr) (y : Word) (p : Nat) (len : Nat) => Issues s c (insnOrd e.1 ord (d.val :: (addrBytes a ++ [b.val])) a.disp.toNat) len ∧ HoldsInt s c b y ∧ Reaches s c a 0 8 8 rightAtom p ∧ ((issued s c len).settle p 8).mem.tagAt p = Tag.int64) (aboutM (insnOrd e.1 false (3 :: (addrBytes ad ++ [1])) ad.disp.toNat) (ints 7 9) 0x2008 ⟨5, Tag.int64⟩) (c0) (false) (3) (1) (ad) (7) (0x2008) (alen (insnOrd e.1 false (3 :: (addrBytes ad ++ [1])) ad.disp.toNat))) e he⟩

theorem wit_Atomics_2a : ∃ (s : State) (c : CtxId) (ord : Bool) (d : SReg) (b : SReg) (a : Addr) (z : Word) (y : Word) (p : Nat) (len : Nat),
    Issues s c (insnOrd 0x7D ord (d.val :: (addrBytes a ++ [b.val])) a.disp.toNat) len ∧ HoldsInt s c d z ∧ HoldsInt s c b y ∧ Reaches s c a 0 8 8 rightAtom p ∧ ((issued s c len).settle p 8).mem.tagAt p = Tag.int64 :=
  ⟨aboutM (insnOrd 0x7D false (1 :: (addrBytes ad ++ [2])) ad.disp.toNat) (ints 5 9) 0x2008 ⟨5, Tag.int64⟩, c0, false, 1, 2, ad, 5, 9, 0x2008, alen (insnOrd 0x7D false (1 :: (addrBytes ad ++ [2])) ad.disp.toNat), by decide +kernel⟩

theorem wit_Atomics_2b : ∃ (s : State) (c : CtxId) (ord : Bool) (d : SReg) (b : SReg) (a : Addr) (z : Word) (y : Word) (p : Nat) (len : Nat),
    Issues s c (insnOrd 0x7D ord (d.val :: (addrBytes a ++ [b.val])) a.disp.toNat) len ∧ HoldsInt s c d z ∧ HoldsInt s c b y ∧ Reaches s c a 0 8 8 rightAtom p ∧ ((issued s c len).settle p 8).mem.tagAt p = Tag.int64 :=
  ⟨aboutM (insnOrd 0x7D false (1 :: (addrBytes ad ++ [2])) ad.disp.toNat) (ints 6 9) 0x2008 ⟨5, Tag.int64⟩, c0, false, 1, 2, ad, 6, 9, 0x2008, alen (insnOrd 0x7D false (1 :: (addrBytes ad ++ [2])) ad.disp.toNat), by decide +kernel⟩

theorem wit_Atomics_3a : ∃ (s : State) (c : CtxId) (ord : Bool) (t : Tag) (a : Addr) (p : Nat) (len : Nat),
    Issues s c (insnOrd 0x7E ord (t.toNat :: addrBytes a) a.disp.toNat) len ∧ Reaches s c a 0 8 8 rightWr p ∧ dataTag (((issued s c len).settle p 8).mem.tagAt p) ∧ dataTag t :=
  ⟨aboutM (insnOrd 0x7E false (Tag.fp32x2.toNat :: addrBytes ad) ad.disp.toNat) (ints 6 9) 0x2008 ⟨5, Tag.int64⟩, c0, false, Tag.fp32x2, ad, 0x2008, alen (insnOrd 0x7E false (Tag.fp32x2.toNat :: addrBytes ad) ad.disp.toNat), by decide +kernel⟩

theorem wit_Atomics_3b : ∃ (s : State) (c : CtxId) (ord : Bool) (t : Tag) (a : Addr) (p : Nat) (len : Nat),
    Issues s c (insnOrd 0x7E ord (t.toNat :: addrBytes a) a.disp.toNat) len ∧ Reaches s c a 0 8 8 rightWr p ∧ ¬(dataTag (((issued s c len).settle p 8).mem.tagAt p) ∧ dataTag t) :=
  ⟨aboutM (insnOrd 0x7E false (Tag.fp32x2.toNat :: addrBytes ad) ad.disp.toNat) (ints 6 9) 0x2008 ⟨5, Tag.poison⟩, c0, false, Tag.fp32x2, ad, 0x2008, alen (insnOrd 0x7E false (Tag.fp32x2.toNat :: addrBytes ad) ad.disp.toNat), by decide +kernel⟩

theorem wit_AddressChecksInOrder_1a : ∃ (s : State) (c : CtxId) (ord : Bool) (r : SReg) (_b : SReg) (h : HReg) (t : Tag) (a : Addr) (len : Nat),
    (∃ e ∈ addrFirst r h t, Issues s c (e.word ord a) len) ∧ ((s.ctx c).hreg a.h.val).tag = Tag.poison :=
  ⟨about (insnOrd 0x63 false (1 :: addrBytes ad) ad.disp.toNat) (fun k => (ints 7 9 k).setH 1 ⟨5, Tag.poison⟩), c0, false, 1, 2, 4, Tag.fp32x2, ad, alen (insnOrd 0x63 false (1 :: addrBytes ad) ad.disp.toNat), by decide +kernel⟩

theorem wit_AddressChecksInOrder_1b : ∃ (s : State) (c : CtxId) (ord : Bool) (r : SReg) (_b : SReg) (h : HReg) (t : Tag) (a : Addr) (len : Nat),
    (∃ e ∈ addrFirst r h t, Issues s c (e.word ord a) len) ∧ ((s.ctx c).hreg a.h.val).tag = Tag.nil :=
  ⟨about (insnOrd 0x63 false (1 :: addrBytes ad) ad.disp.toNat) (fun k => (ints 7 9 k).setH 1 ⟨5, Tag.nil⟩), c0, false, 1, 2, 4, Tag.fp32x2, ad, alen (insnOrd 0x63 false (1 :: addrBytes ad) ad.disp.toNat), by decide +kernel⟩

theorem wit_AddressChecksInOrder_1c : ∃ (s : State) (c : CtxId) (ord : Bool) (r : SReg) (_b : SReg) (h : HReg) (t : Tag) (a : Addr) (len : Nat),
    (∃ e ∈ addrFirst r h t, Issues s c (e.word ord a) len) ∧ ((s.ctx c).hreg a.h.val).tag = Tag.handle ∧ (∃ i ∈ a.idx, intFault ((s.ctx c).sreg i.val) = some stTag) :=
  ⟨about (insnOrd 0x63 false (1 :: addrBytes adx) adx.disp.toNat) (fun k => (ints 7 9 k).setS 2 ⟨5, Tag.nil⟩), c0, false, 1, 2, 4, Tag.fp32x2, adx, alen (insnOrd 0x63 false (1 :: addrBytes adx) adx.disp.toNat), by decide +kernel⟩

theorem wit_AddressChecksInOrder_1d : ∃ (s : State) (c : CtxId) (ord : Bool) (r : SReg) (_b : SReg) (h : HReg) (t : Tag) (a : Addr) (len : Nat),
    (∃ e ∈ addrFirst r h t, Issues s c (e.word ord a) len) ∧ ((s.ctx c).hreg a.h.val).tag = Tag.handle ∧ IndexOk s c a ∧ reachFault s ((s.ctx c).hreg a.h.val).bits (reachOff s c a 0) 8 rightRd = some stStale :=
  ⟨about (insnOrd 0x63 false (1 :: addrBytes ad) ad.disp.toNat) (fun k => (ints 7 9 k).setH 1 ⟨handle 3, Tag.handle⟩), c0, false, 1, 2, 4, Tag.fp32x2, ad, alen (insnOrd 0x63 false (1 :: addrBytes ad) ad.disp.toNat), by decide +kernel⟩

theorem wit_AddressChecksInOrder_1e : ∃ (s : State) (c : CtxId) (ord : Bool) (r : SReg) (_b : SReg) (h : HReg) (t : Tag) (a : Addr) (len : Nat),
    (∃ e ∈ addrFirst r h t, Issues s c (e.word ord a) len) ∧ ((s.ctx c).hreg a.h.val).tag = Tag.handle ∧ IndexOk s c a ∧ reachFault s ((s.ctx c).hreg a.h.val).bits (reachOff s c a 0) 8 rightRd = some stRights :=
  ⟨about (insnOrd 0x63 false (1 :: addrBytes adx) adx.disp.toNat) (fun k => (ints 7 600 k)), c0, false, 1, 2, 4, Tag.fp32x2, adx, alen (insnOrd 0x63 false (1 :: addrBytes adx) adx.disp.toNat), by decide +kernel⟩

theorem wit_AddressChecksInOrder_1f : ∃ (s : State) (c : CtxId) (ord : Bool) (r : SReg) (b : SReg) (h : HReg) (_t : Tag) (a : Addr) (len : Nat),
    ((s.ctx c).sreg r.val).tag = Tag.int64 ∧ ((s.ctx c).sreg b.val).tag = Tag.int64 ∧ (∃ e ∈ addrAndData r b, Issues s c (e.word ord a) len) ∧ ((s.ctx c).hreg a.h.val).tag = Tag.nil :=
  ⟨about (insnOrd 0x76 false (1 :: (addrBytes ad ++ [2])) ad.disp.toNat) (fun k => (ints 7 9 k).setH 1 ⟨5, Tag.nil⟩), c0, false, 1, 2, 4, Tag.fp32x2, ad, alen (insnOrd 0x76 false (1 :: (addrBytes ad ++ [2])) ad.disp.toNat), by decide +kernel⟩

theorem wit_HandleInstructions_1a : ∃ (s : State) (c : CtxId) (_d : SReg) (a : SReg) (h : HReg) (_mask : BitVec 8) (_w : Word) (_r : Region) (len : Nat),
    Issues s c (insn 0x72 [h.val, a.val] 0) len ∧ ((s.ctx c).sreg a.val).tag = Tag.handle :=
  ⟨about (insn 0x72 [1, 1] 0) (fun k => k.setS 1 ⟨handle 2, Tag.handle⟩), c0, 3, 1, 1, 3, handle 2, region 0x2000 4096, alen (insn 0x72 [1, 1] 0), by decide +kernel⟩

theorem wit_HandleInstructions_1b : ∃ (s : State) (c : CtxId) (_d : SReg) (a : SReg) (h : HReg) (_mask : BitVec 8) (_w : Word) (_r : Region) (len : Nat),
    Issues s c (insn 0x72 [h.val, a.val] 0) len ∧ ((s.ctx c).sreg a.val).tag = Tag.nil :=
  ⟨about (insn 0x72 [1, 1] 0) (fun k => k), c0, 3, 1, 1, 3, handle 2, region 0x2000 4096, alen (insn 0x72 [1, 1] 0), by decide +kernel⟩

theorem wit_HandleInstructions_1c : ∃ (s : State) (c : CtxId) (d : SReg) (_a : SReg) (h : HReg) (mask : BitVec 8) (w : Word) (r : Region) (len : Nat),
    Issues s c (insn 0x74 [d.val, h.val] mask.toNat) len ∧ HoldsHandle s c h w ∧ s.current w = some r :=
  ⟨about (insn 0x74 [3, 1] 3) (ints 7 9), c0, 3, 1, 1, 3, handle 2, region 0x2000 4096, alen (insn 0x74 [3, 1] 3), by decide +kernel⟩

theorem wit_HandleInstructions_1d : ∃ (s : State) (c : CtxId) (d : SReg) (_a : SReg) (h : HReg) (mask : BitVec 8) (_w : Word) (_r : Region) (len : Nat),
    Issues s c (insn 0x74 [d.val, h.val] mask.toNat) len ∧ ((s.ctx c).hreg h.val).tag ≠ Tag.handle :=
  ⟨about (insn 0x74 [3, 1] 3) (fun k => k.setH 1 ⟨0, Tag.nil⟩), c0, 3, 1, 1, 3, handle 2, region 0x2000 4096, alen (insn 0x74 [3, 1] 3), by decide +kernel⟩

theorem wit_HandleInstructions_1e : ∃ (s : State) (c : CtxId) (d : SReg) (_a : SReg) (h : HReg) (_mask : BitVec 8) (w : Word) (r : Region) (len : Nat),
    Issues s c (insn 0x75 [d.val, h.val] 0) len ∧ HoldsHandle s c h w ∧ s.current w = some r :=
  ⟨about (insn 0x75 [3, 1] 0) (ints 7 9), c0, 3, 1, 1, 3, handle 2, region 0x2000 4096, alen (insn 0x75 [3, 1] 0), by decide +kernel⟩

theorem wit_HandleInstructions_1f : ∃ (s : State) (c : CtxId) (d : SReg) (_a : SReg) (h : HReg) (_mask : BitVec 8) (_w : Word) (_r : Region) (len : Nat),
    Issues s c (insn 0x75 [d.val, h.val] 0) len ∧ ((s.ctx c).hreg h.val).tag = Tag.nil :=
  ⟨about (insn 0x75 [3, 1] 0) (fun k => k.setH 1 ⟨0, Tag.nil⟩), c0, 3, 1, 1, 3, handle 2, region 0x2000 4096, alen (insn 0x75 [3, 1] 0), by decide +kernel⟩

theorem wit_HandleInstructions_1g : ∃ (s : State) (c : CtxId) (d : SReg) (_a : SReg) (h : HReg) (_mask : BitVec 8) (w : Word) (_r : Region) (len : Nat),
    Issues s c (insn 0x75 [d.val, h.val] 0) len ∧ HoldsHandle s c h w ∧ s.current w = none :=
  ⟨about (insn 0x75 [3, 1] 0) (fun k => k.setH 1 ⟨handle 3, Tag.handle⟩), c0, 3, 1, 1, 3, handle 3, region 0x2000 4096, alen (insn 0x75 [3, 1] 0), by decide +kernel⟩

theorem wit_HandleDerivation_1a : ∃ (s : State) (c : CtxId) (hd : HReg) (hs : HReg) (a : SReg) (b : SReg) (mask : BitVec 8) (w : Word) (off : Word) (n : Word) (r : Region) (len : Nat),
    Issues s c (insn 0x73 [hd.val, hs.val, a.val, b.val] mask.toNat) len ∧ HoldsHandle s c hs w ∧ HoldsInt s c a off ∧ HoldsInt s c b n ∧ s.current w = some r ∧ hasRight w rightDrv = true ∧ derivable r off.toNat n.toNat ∧ off = 0 ∧ n = r.len :=
  ⟨(fun s : State => { s with deriveFill := [] }) (about (insn 0x73 [4, 1, 1, 2] 3) (ints 0 4096)), c0, 4, 1, 1, 2, 3, handle 2, 0, 4096, region 0x2000 4096, alen (insn 0x73 [4, 1, 1, 2] 3), by decide +kernel⟩

theorem wit_HandleDerivation_1b : ∃ (s : State) (c : CtxId) (hd : HReg) (hs : HReg) (a : SReg) (b : SReg) (mask : BitVec 8) (w : Word) (off : Word) (n : Word) (r : Region) (len : Nat),
    Issues s c (insn 0x73 [hd.val, hs.val, a.val, b.val] mask.toNat) len ∧ HoldsHandle s c hs w ∧ HoldsInt s c a off ∧ HoldsInt s c b n ∧ s.current w = some r ∧ hasRight w rightDrv = true ∧ derivable r off.toNat n.toNat ∧ ¬(off = 0 ∧ n = r.len) ∧ freeDerive s c = none :=
  ⟨(fun s : State => { s with deriveFill := (List.range 64).map fun k => (k, some none) }) (about (insn 0x73 [4, 1, 1, 2] 3) (ints 8 16)), c0, 4, 1, 1, 2, 3, handle 2, 8, 16, region 0x2000 4096, alen (insn 0x73 [4, 1, 1, 2] 3), by decide +kernel⟩

theorem wit_HandleDerivation_1c : ∃ (s : State) (c : CtxId) (hd : HReg) (hs : HReg) (a : SReg) (b : SReg) (mask : BitVec 8) (w : Word) (off : Word) (n : Word) (r : Region) (len : Nat),
    Issues s c (insn 0x73 [hd.val, hs.val, a.val, b.val] mask.toNat) len ∧ HoldsHandle s c hs w ∧ HoldsInt s c a off ∧ HoldsInt s c b n ∧ s.current w = some r ∧ hasRight w rightDrv = true ∧ derivable r off.toNat n.toNat ∧ ¬(off = 0 ∧ n = r.len) ∧ freeDerive s c = some 0x8000 :=
  ⟨(fun s : State => { s with deriveFill := [] }) (about (insn 0x73 [4, 1, 1, 2] 3) (ints 8 16)), c0, 4, 1, 1, 2, 3, handle 2, 8, 16, region 0x2000 4096, alen (insn 0x73 [4, 1, 1, 2] 3), by decide +kernel⟩

theorem wit_HandleDerivation_1d : ∃ (s : State) (c : CtxId) (hd : HReg) (hs : HReg) (a : SReg) (b : SReg) (mask : BitVec 8) (w : Word) (off : Word) (n : Word) (r : Region) (len : Nat),
    Issues s c (insn 0x73 [hd.val, hs.val, a.val, b.val] mask.toNat) len ∧ HoldsHandle s c hs w ∧ HoldsInt s c a off ∧ HoldsInt s c b n ∧ s.current w = some r ∧ hasRight w rightDrv = true ∧ ¬derivable r off.toNat n.toNat :=
  ⟨(fun s : State => { s with deriveFill := [] }) (about (insn 0x73 [4, 1, 1, 2] 3) (ints 4 16)), c0, 4, 1, 1, 2, 3, handle 2, 4, 16, region 0x2000 4096, alen (insn 0x73 [4, 1, 1, 2] 3), by decide +kernel⟩

/-- The state an outcome goes on in; `d` where it does not go on. -/
def goesTo (d : State) (o : Host.Outcome State Fault Refusal) : State :=
  match o with
  | .next t => t
  | _ => d

/-- Whether an outcome is a next state. -/
def goesOn (o : Host.Outcome State Fault Refusal) : Bool :=
  match o with
  | .next _ => true
  | _ => false

theorem next_of_goesOn {d : State} {o : Host.Outcome State Fault Refusal} (h : goesOn o = true) : o = .next (goesTo d o) := by
  cases o <;> simp_all [goesOn, goesTo]

/-- The device about to narrow the handle of H1. -/
def narrowing : State := about (insn 0x73 [4, 1, 1, 2] 3) (ints 0 4096)

theorem wit_RightsNeverWiden_1a : ∃ (s t : State) (c : CtxId) (hd hs : HReg) (a b : SReg) (mask : BitVec 8) (len right : Nat),
    Issues s c (insn 0x73 [hd.val, hs.val, a.val, b.val] mask.toNat) len ∧ exec (.hderive c hd hs a b mask) s = .next t ∧
    (t.ctx c).state = .running ∧ ((t.ctx c).hreg hd.val).tag = Tag.handle ∧ hasRight ((t.ctx c).hreg hd.val).bits right = true ∧ right < 8 :=
  ⟨narrowing, goesTo narrowing (exec (.hderive c0 4 1 1 2 3) narrowing), c0, 4, 1, 1, 2, 3, alen (insn 0x73 [4, 1, 1, 2] 3), 1,
    by decide +kernel, next_of_goesOn (by decide +kernel), by decide +kernel, by decide +kernel, by decide +kernel, by decide⟩

/-- A V register of format `f` whose lane j holds k + j. -/
def vval (f : Fmt) (k : Nat) : VVal := ⟨lanesOf fun j => k + j, 0, .fmt f⟩

/-- V1, V2 and V4 hold format `f`; V3 holds `g`. -/
def vecs (f g : Fmt) (x : Ctx) : Ctx := (((((x.setV 1 (vval f 0x3F800000)).setV 2 (vval f 0x40000000)).setV 3 (vval g 0)).setV 4 (vval f 0x40000003)).setM 1 0xFF).setS 1 (TWord.int 3)

theorem wit_VectorArithmetic_2a : ∀ e ∈ vArith, ∃ (s : State) (c : CtxId) (px : Px) (d : VReg) (a : VReg) (b : VReg) (rm : Rm) (f : Fmt) (len : Nat),
    Issues s c ⟨e.op, px, [d.val, a.val, b.val, rmCode rm], 0⟩ len ∧ px.rep = none ∧ FmtIs s c px a f ∧ HoldsFmt s c a f ∧ HoldsFmt s c b f ∧ fltFmt f :=
  fun e he => ⟨about (⟨e.op, Px.none, [3, 1, 2, 0], 0⟩ : Insn) (vecs .fp32 .fp32), c0, Px.none, 3, 1, 2, .rne, .fp32, alen (⟨e.op, Px.none, [3, 1, 2, 0], 0⟩ : Insn), (by decide +kernel : ∀ e ∈ vArith, (fun (s : State) (c : CtxId) (px : Px) (d : VReg) (a : VReg) (b : VReg) (rm : Rm) (f : Fmt) (len : Nat) => Issues s c ⟨e.op, px, [d.val, a.val, b.val, rmCode rm], 0⟩ len ∧ px.rep = none ∧ FmtIs s c px a f ∧ HoldsFmt s c a f ∧ HoldsFmt s c b f ∧ fltFmt f) (about (⟨e.op, Px.none, [3, 1, 2, 0], 0⟩ : Insn) (vecs .fp32 .fp32)) (c0) (Px.none) (3) (1) (2) (.rne) (.fp32) (alen (⟨e.op, Px.none, [3, 1, 2, 0], 0⟩ : Insn))) e he⟩

theorem wit_VectorArithmetic_2b : ∀ e ∈ vArith, ∃ (s : State) (c : CtxId) (px : Px) (d : VReg) (a : VReg) (b : VReg) (rm : Rm) (f : Fmt) (len : Nat),
    Issues s c ⟨e.op, px, [d.val, a.val, b.val, rmCode rm], 0⟩ len ∧ px.rep = none ∧ FmtIs s c px a f ∧ HoldsFmt s c a f ∧ HoldsFmt s c b f ∧ intFmt f :=
  fun e he => ⟨about (⟨e.op, Px.none, [3, 1, 2, 0], 0⟩ : Insn) (vecs .int32 .int32), c0, Px.none, 3, 1, 2, .rne, .int32, alen (⟨e.op, Px.none, [3, 1, 2, 0], 0⟩ : Insn), (by decide +kernel : ∀ e ∈ vArith, (fun (s : State) (c : CtxId) (px : Px) (d : VReg) (a : VReg) (b : VReg) (rm : Rm) (f : Fmt) (len : Nat) => Issues s c ⟨e.op, px, [d.val, a.val, b.val, rmCode rm], 0⟩ len ∧ px.rep = none ∧ FmtIs s c px a f ∧ HoldsFmt s c a f ∧ HoldsFmt s c b f ∧ intFmt f) (about (⟨e.op, Px.none, [3, 1, 2, 0], 0⟩ : Insn) (vecs .int32 .int32)) (c0) (Px.none) (3) (1) (2) (.rne) (.int32) (alen (⟨e.op, Px.none, [3, 1, 2, 0], 0⟩ : Insn))) e he⟩

theorem wit_VectorArithmetic_2c : ∀ e ∈ vArith, ∃ (s : State) (c : CtxId) (px : Px) (d : VReg) (a : VReg) (b : VReg) (rm : Rm) (f : Fmt) (len : Nat),
    Issues s c ⟨e.op, px, [d.val, a.val, b.val, rmCode rm], 0⟩ len ∧ px.rep = none ∧ FmtIs s c px a f ∧ HoldsFmt s c a f ∧ HoldsFmt s c b f ∧ intFmt f ∧ rm ≠ .rne :=
  fun e he => ⟨about (⟨e.op, Px.none, [3, 1, 2, 1], 0⟩ : Insn) (vecs .int32 .int32), c0, Px.none, 3, 1, 2, .rz, .int32, alen (⟨e.op, Px.none, [3, 1, 2, 1], 0⟩ : Insn), (by decide +kernel : ∀ e ∈ vArith, (fun (s : State) (c : CtxId) (px : Px) (d : VReg) (a : VReg) (b : VReg) (rm : Rm) (f : Fmt) (len : Nat) => Issues s c ⟨e.op, px, [d.val, a.val, b.val, rmCode rm], 0⟩ len ∧ px.rep = none ∧ FmtIs s c px a f ∧ HoldsFmt s c a f ∧ HoldsFmt s c b f ∧ intFmt f ∧ rm ≠ .rne) (about (⟨e.op, Px.none, [3, 1, 2, 1], 0⟩ : Insn) (vecs .int32 .int32)) (c0) (Px.none) (3) (1) (2) (.rz) (.int32) (alen (⟨e.op, Px.none, [3, 1, 2, 1], 0⟩ : Insn))) e he⟩

theorem wit_VectorArithmetic_3a : ∀ e ∈ vFused, ∃ (s : State) (c : CtxId) (px : Px) (d : VReg) (a : VReg) (b : VReg) (k : VReg) (rm : Rm) (f : Fmt) (len : Nat),
    Issues s c ⟨e.1, px, [d.val, a.val, b.val, k.val, rmCode rm], 0⟩ len ∧ px.rep = none ∧ FmtIs s c px a f ∧ fltFmt f ∧ HoldsFmt s c a f ∧ HoldsFmt s c b f ∧ HoldsFmt s c k f :=
  fun e he => ⟨about (⟨e.1, Px.none, [3, 1, 2, 4, 0], 0⟩ : Insn) (vecs .fp32 .fp32), c0, Px.none, 3, 1, 2, 4, .rne, .fp32, alen (⟨e.1, Px.none, [3, 1, 2, 4, 0], 0⟩ : Insn), (by decide +kernel : ∀ e ∈ vFused, (fun (s : State) (c : CtxId) (px : Px) (d : VReg) (a : VReg) (b : VReg) (k : VReg) (rm : Rm) (f : Fmt) (len : Nat) => Issues s c ⟨e.1, px, [d.val, a.val, b.val, k.val, rmCode rm], 0⟩ len ∧ px.rep = none ∧ FmtIs s c px a f ∧ fltFmt f ∧ HoldsFmt s c a f ∧ HoldsFmt s c b f ∧ HoldsFmt s c k f) (about (⟨e.1, Px.none, [3, 1, 2, 4, 0], 0⟩ : Insn) (vecs .fp32 .fp32)) (c0) (Px.none) (3) (1) (2) (4) (.rne) (.fp32) (alen (⟨e.1, Px.none, [3, 1, 2, 4, 0], 0⟩ : Insn))) e he⟩

theorem wit_VectorArithmetic_4a : ∀ e ∈ vRound1, ∃ (s : State) (c : CtxId) (px : Px) (d : VReg) (a : VReg) (rm : Rm) (f : Fmt) (len : Nat),
    Issues s c ⟨e.1, px, [d.val, a.val, rmCode rm], 0⟩ len ∧ px.rep = none ∧ FmtIs s c px a f ∧ fltFmt f ∧ HoldsFmt s c a f :=
  fun e he => ⟨about (⟨e.1, Px.none, [3, 1, 0], 0⟩ : Insn) (vecs .bf16 .bf16), c0, Px.none, 3, 1, .rne, .bf16, alen (⟨e.1, Px.none, [3, 1, 0], 0⟩ : Insn), (by decide +kernel : ∀ e ∈ vRound1, (fun (s : State) (c : CtxId) (px : Px) (d : VReg) (a : VReg) (rm : Rm) (f : Fmt) (len : Nat) => Issues s c ⟨e.1, px, [d.val, a.val, rmCode rm], 0⟩ len ∧ px.rep = none ∧ FmtIs s c px a f ∧ fltFmt f ∧ HoldsFmt s c a f) (about (⟨e.1, Px.none, [3, 1, 0], 0⟩ : Insn) (vecs .bf16 .bf16)) (c0) (Px.none) (3) (1) (.rne) (.bf16) (alen (⟨e.1, Px.none, [3, 1, 0], 0⟩ : Insn))) e he⟩

theorem wit_VectorArithmetic_5a : ∃ (s : State) (c : CtxId) (px : Px) (d : VReg) (a : VReg) (b : VReg) (f : Fmt) (len : Nat),
    px.rep = none ∧ FmtIs s c px a f ∧ numFmt f ∧ HoldsFmt s c a f ∧ HoldsFmt s c b f ∧ Issues s c ⟨0x86, px, [d.val, a.val, b.val], 0⟩ len :=
  ⟨about (⟨0x86, Px.none, [3, 1, 2], 0⟩ : Insn) (vecs .fp32 .fp32), c0, Px.none, 3, 1, 2, .fp32, alen (⟨0x86, Px.none, [3, 1, 2], 0⟩ : Insn), by decide +kernel⟩

theorem wit_VectorArithmetic_5b : ∃ (s : State) (c : CtxId) (px : Px) (d : VReg) (a : VReg) (b : VReg) (f : Fmt) (len : Nat),
    px.rep = none ∧ FmtIs s c px a f ∧ numFmt f ∧ HoldsFmt s c a f ∧ HoldsFmt s c b f ∧ Issues s c ⟨0x87, px, [d.val, a.val, b.val], 0⟩ len :=
  ⟨about (⟨0x87, Px.none, [3, 1, 2], 0⟩ : Insn) (vecs .fp32 .fp32), c0, Px.none, 3, 1, 2, .fp32, alen (⟨0x87, Px.none, [3, 1, 2], 0⟩ : Insn), by decide +kernel⟩

theorem wit_VectorArithmetic_5c : ∃ (s : State) (c : CtxId) (px : Px) (d : VReg) (a : VReg) (_b : VReg) (f : Fmt) (len : Nat),
    px.rep = none ∧ FmtIs s c px a f ∧ numFmt f ∧ HoldsFmt s c a f ∧ Issues s c ⟨0x88, px, [d.val, a.val], 0⟩ len :=
  ⟨about (⟨0x88, Px.none, [3, 1], 0⟩ : Insn) (vecs .fp32 .fp32), c0, Px.none, 3, 1, 2, .fp32, alen (⟨0x88, Px.none, [3, 1], 0⟩ : Insn), by decide +kernel⟩

theorem wit_VectorArithmetic_5d : ∃ (s : State) (c : CtxId) (px : Px) (d : VReg) (a : VReg) (_b : VReg) (f : Fmt) (len : Nat),
    px.rep = none ∧ FmtIs s c px a f ∧ numFmt f ∧ HoldsFmt s c a f ∧ Issues s c ⟨0x89, px, [d.val, a.val], 0⟩ len :=
  ⟨about (⟨0x89, Px.none, [3, 1], 0⟩ : Insn) (vecs .fp32 .fp32), c0, Px.none, 3, 1, 2, .fp32, alen (⟨0x89, Px.none, [3, 1], 0⟩ : Insn), by decide +kernel⟩

theorem wit_VectorArithmetic_6a : ∃ (s : State) (c : CtxId) (px : Px) (d : VReg) (a : VReg) (b : VReg) (rm : Rm) (f : Fmt) (len : Nat),
    Issues s c ⟨0x90, px, [d.val, a.val, b.val, rmCode rm], 0⟩ len ∧ px.rep = none ∧ FmtIs s c px a f ∧ HoldsFmt s c a f ∧ HoldsFmt s c b f ∧ f ≠ .fp32 ∧ f ≠ .int32 ∧ f ≠ .int8 ∧ HoldsFmt s c d .fp32 :=
  ⟨about (⟨0x90, Px.none, [3, 1, 2, 0], 0⟩ : Insn) (vecs .e4m3 .fp32), c0, Px.none, 3, 1, 2, .rne, .e4m3, alen (⟨0x90, Px.none, [3, 1, 2, 0], 0⟩ : Insn), by decide +kernel⟩

theorem wit_VectorArithmetic_6b : ∃ (s : State) (c : CtxId) (px : Px) (d : VReg) (a : VReg) (b : VReg) (rm : Rm) (f : Fmt) (len : Nat),
    Issues s c ⟨0x90, px, [d.val, a.val, b.val, rmCode rm], 0⟩ len ∧ px.rep = none ∧ FmtIs s c px a f ∧ HoldsFmt s c a f ∧ HoldsFmt s c b f ∧ f = .int8 ∧ rm = .rne ∧ HoldsFmt s c d .int32 :=
  ⟨about (⟨0x90, Px.none, [3, 1, 2, 0], 0⟩ : Insn) (vecs .int8 .int32), c0, Px.none, 3, 1, 2, .rne, .int8, alen (⟨0x90, Px.none, [3, 1, 2, 0], 0⟩ : Insn), by decide +kernel⟩

theorem wit_VectorArithmetic_6c : ∃ (s : State) (c : CtxId) (px : Px) (d : VReg) (a : VReg) (b : VReg) (rm : Rm) (f : Fmt) (len : Nat),
    Issues s c ⟨0x90, px, [d.val, a.val, b.val, rmCode rm], 0⟩ len ∧ px.rep = none ∧ FmtIs s c px a f ∧ HoldsFmt s c a f ∧ HoldsFmt s c b f ∧ f = .fp32 :=
  ⟨about (⟨0x90, Px.none, [3, 1, 2, 0], 0⟩ : Insn) (vecs .fp32 .fp32), c0, Px.none, 3, 1, 2, .rne, .fp32, alen (⟨0x90, Px.none, [3, 1, 2, 0], 0⟩ : Insn), by decide +kernel⟩

theorem wit_VectorArithmetic_7a : ∃ (s : State) (c : CtxId) (px : Px) (d : VReg) (a : VReg) (b : VReg) (rm : Rm) (len : Nat),
    Issues s c ⟨0x80, px, [d.val, a.val, b.val, rmCode rm], 0⟩ len ∧ px.rep = none ∧ px.fmt = some .e4m3 ∧ ¬numFmt .e4m3 :=
  ⟨about (⟨0x80, { Px.none with fmt := some .e4m3 }, [3, 1, 2, 0], 0⟩ : Insn) (vecs .fp32 .fp32), c0, { Px.none with fmt := some .e4m3 }, 3, 1, 2, .rne, alen (⟨0x80, { Px.none with fmt := some .e4m3 }, [3, 1, 2, 0], 0⟩ : Insn), by decide +kernel⟩

theorem wit_VectorArithmetic_7b : ∃ (s : State) (c : CtxId) (px : Px) (d : VReg) (a : VReg) (b : VReg) (rm : Rm) (len : Nat),
    Issues s c ⟨0x80, px, [d.val, a.val, b.val, rmCode rm], 0⟩ len ∧ px.rep = none ∧ px.fmt = none ∧ ((s.ctx c).vreg a.val).tag = .poison :=
  ⟨about (⟨0x80, Px.none, [3, 1, 2, 0], 0⟩ : Insn) (fun k => k.setV 1 ⟨0, 0, .poison⟩), c0, Px.none, 3, 1, 2, .rne, alen (⟨0x80, Px.none, [3, 1, 2, 0], 0⟩ : Insn), by decide +kernel⟩

theorem wit_VectorArithmetic_7c : ∃ (s : State) (c : CtxId) (px : Px) (d : VReg) (a : VReg) (b : VReg) (rm : Rm) (len : Nat),
    Issues s c ⟨0x80, px, [d.val, a.val, b.val, rmCode rm], 0⟩ len ∧ px.rep = none ∧ px.fmt = none ∧ ((s.ctx c).vreg a.val).tag = .nil :=
  ⟨about (⟨0x80, Px.none, [3, 1, 2, 0], 0⟩ : Insn) (fun k => k), c0, Px.none, 3, 1, 2, .rne, alen (⟨0x80, Px.none, [3, 1, 2, 0], 0⟩ : Insn), by decide +kernel⟩

theorem wit_VectorArithmetic_7d : ∃ (s : State) (c : CtxId) (px : Px) (d : VReg) (a : VReg) (b : VReg) (rm : Rm) (len : Nat),
    Issues s c ⟨0x80, px, [d.val, a.val, b.val, rmCode rm], 0⟩ len ∧ px.rep = none ∧ FmtIs s c px a .fp32 ∧ HoldsFmt s c a .fp32 ∧ HoldsFmt s c b .bf16 :=
  ⟨about (⟨0x80, Px.none, [3, 1, 2, 0], 0⟩ : Insn) (fun k => (vecs .fp32 .fp32 k).setV 2 (vval .bf16 0)), c0, Px.none, 3, 1, 2, .rne, alen (⟨0x80, Px.none, [3, 1, 2, 0], 0⟩ : Insn), by decide +kernel⟩

theorem wit_VectorLanesAndMasks_1a : ∀ e ∈ vBits, ∃ (s : State) (c : CtxId) (px : Px) (d : VReg) (a : VReg) (b : VReg) (f : Fmt) (len : Nat),
    Issues s c ⟨e.1, px, [d.val, a.val, b.val], 0⟩ len ∧ px.rep = none ∧ FmtIs s c px a f ∧ e.2.2.1 f = true ∧ HoldsFmt s c a f ∧ HoldsFmt s c b f :=
  fun e he => ⟨about (⟨e.1, Px.none, [3, 1, 2], 0⟩ : Insn) (vecs .int32 .int32), c0, Px.none, 3, 1, 2, .int32, alen (⟨e.1, Px.none, [3, 1, 2], 0⟩ : Insn), (by decide +kernel : ∀ e ∈ vBits, (fun (s : State) (c : CtxId) (px : Px) (d : VReg) (a : VReg) (b : VReg) (f : Fmt) (len : Nat) => Issues s c ⟨e.1, px, [d.val, a.val, b.val], 0⟩ len ∧ px.rep = none ∧ FmtIs s c px a f ∧ e.2.2.1 f = true ∧ HoldsFmt s c a f ∧ HoldsFmt s c b f) (about (⟨e.1, Px.none, [3, 1, 2], 0⟩ : Insn) (vecs .int32 .int32)) (c0) (Px.none) (3) (1) (2) (.int32) (alen (⟨e.1, Px.none, [3, 1, 2], 0⟩ : Insn))) e he⟩

theorem wit_VectorLanesAndMasks_2a : ∃ (s : State) (c : CtxId) (px : Px) (d : VReg) (a : VReg) (b : VReg) (m : MReg) (_n : BitVec 7) (f : Fmt) (len : Nat),
    px.rep = none ∧ FmtIs s c px a f ∧ fmtIsMx f = false ∧ HoldsFmt s c a f ∧ HoldsFmt s c b f ∧ Issues s c ⟨0x95, px, [d.val, a.val, b.val, m.val], 0⟩ len :=
  ⟨about (⟨0x95, Px.none, [3, 1, 2, 1], 0⟩ : Insn) (vecs .int32 .int32), c0, Px.none, 3, 1, 2, 1, 5, .int32, alen (⟨0x95, Px.none, [3, 1, 2, 1], 0⟩ : Insn), by decide +kernel⟩

theorem wit_VectorLanesAndMasks_2b : ∃ (s : State) (c : CtxId) (px : Px) (d : VReg) (a : VReg) (b : VReg) (_m : MReg) (_n : BitVec 7) (f : Fmt) (len : Nat),
    px.rep = none ∧ FmtIs s c px a f ∧ fmtIsMx f = false ∧ HoldsFmt s c a f ∧ HoldsFmt s c b .int32 ∧ Issues s c ⟨0xA4, px, [d.val, a.val, b.val], 0⟩ len :=
  ⟨about (⟨0xA4, Px.none, [3, 1, 2], 0⟩ : Insn) (vecs .int32 .int32), c0, Px.none, 3, 1, 2, 1, 5, .int32, alen (⟨0xA4, Px.none, [3, 1, 2], 0⟩ : Insn), by decide +kernel⟩

theorem wit_VectorLanesAndMasks_2c : ∃ (s : State) (c : CtxId) (px : Px) (d : VReg) (a : VReg) (_b : VReg) (_m : MReg) (n : BitVec 7) (f : Fmt) (len : Nat),
    px.rep = none ∧ FmtIs s c px a f ∧ fmtIsMx f = false ∧ HoldsFmt s c a f ∧ Issues s c ⟨0xA5, px, [d.val, a.val], n.toNat⟩ len :=
  ⟨about (⟨0xA5, Px.none, [3, 1], 5⟩ : Insn) (vecs .int32 .int32), c0, Px.none, 3, 1, 2, 1, 5, .int32, alen (⟨0xA5, Px.none, [3, 1], 5⟩ : Insn), by decide +kernel⟩

theorem wit_VectorLanesAndMasks_3a : ∃ (s : State) (c : CtxId) (px : Px) (d : VReg) (_a : VReg) (r : SReg) (_n : BitVec 7) (_imm : BitVec 32) (f : Fmt) (len : Nat),
    px.rep = none ∧ px.fmt = some f ∧ splatFmt f = true ∧ ((s.ctx c).sreg r.val).tag = fmtTag f ∧ Issues s c ⟨0x9D, px, [d.val, r.val], 0⟩ len :=
  ⟨about (⟨0x9D, { Px.none with fmt := some .int32 }, [3, 1], 0⟩ : Insn) (fun k => (vecs .int32 .int32 k).setS 1 ⟨9, fmtTag .int32⟩), c0, { Px.none with fmt := some .int32 }, 3, 1, 1, 5, 7, .int32, alen (⟨0x9D, { Px.none with fmt := some .int32 }, [3, 1], 0⟩ : Insn), by decide +kernel⟩

theorem wit_VectorLanesAndMasks_3b : ∃ (s : State) (c : CtxId) (px : Px) (d : VReg) (_a : VReg) (_r : SReg) (_n : BitVec 7) (imm : BitVec 32) (f : Fmt) (len : Nat),
    px.rep = none ∧ px.fmt = some f ∧ splatFmt f = true ∧ Issues s c ⟨0x9E, px, [d.val], imm.toNat⟩ len :=
  ⟨about (⟨0x9E, { Px.none with fmt := some .int32 }, [3], 7⟩ : Insn) (vecs .int32 .int32), c0, { Px.none with fmt := some .int32 }, 3, 1, 1, 5, 7, .int32, alen (⟨0x9E, { Px.none with fmt := some .int32 }, [3], 7⟩ : Insn), by decide +kernel⟩

theorem wit_VectorLanesAndMasks_3c : ∃ (s : State) (c : CtxId) (px : Px) (d : VReg) (_a : VReg) (_r : SReg) (_n : BitVec 7) (_imm : BitVec 32) (_f : Fmt) (len : Nat),
    px.rep = none ∧ Issues s c ⟨0x9F, px, [d.val], 0⟩ len :=
  ⟨about (⟨0x9F, Px.none, [3], 0⟩ : Insn) (vecs .int32 .int32), c0, Px.none, 3, 1, 1, 5, 7, .int32, alen (⟨0x9F, Px.none, [3], 0⟩ : Insn), by decide +kernel⟩

theorem wit_VectorLanesAndMasks_3d : ∃ (s : State) (c : CtxId) (px : Px) (d : VReg) (a : VReg) (_r : SReg) (_n : BitVec 7) (_imm : BitVec 32) (_f : Fmt) (len : Nat),
    px.rep = none ∧ ((s.ctx c).vreg a.val).tag ≠ .nil ∧ px.fmt = none ∧ Issues s c ⟨0x9C, px, [d.val, a.val], 0⟩ len :=
  ⟨about (⟨0x9C, Px.none, [3, 1], 0⟩ : Insn) (vecs .int32 .int32), c0, Px.none, 3, 1, 1, 5, 7, .int32, alen (⟨0x9C, Px.none, [3, 1], 0⟩ : Insn), by decide +kernel⟩

theorem wit_VectorLanesAndMasks_3e : ∃ (s : State) (c : CtxId) (px : Px) (_d : VReg) (a : VReg) (r : SReg) (n : BitVec 7) (_imm : BitVec 32) (f : Fmt) (len : Nat),
    FmtIs s c px a f ∧ splatFmt f = true ∧ HoldsFmt s c a f ∧ px.rep = none ∧ Issues s c ⟨0xA6, px, [r.val, a.val], n.toNat⟩ len :=
  ⟨about (⟨0xA6, Px.none, [1, 1], 5⟩ : Insn) (vecs .int32 .int32), c0, Px.none, 3, 1, 1, 5, 7, .int32, alen (⟨0xA6, Px.none, [1, 1], 5⟩ : Insn), by decide +kernel⟩

theorem wit_VectorLanesAndMasks_3f : ∃ (s : State) (c : CtxId) (px : Px) (d : VReg) (_a : VReg) (r : SReg) (n : BitVec 7) (_imm : BitVec 32) (f : Fmt) (len : Nat),
    FmtIs s c px d f ∧ splatFmt f = true ∧ ((s.ctx c).sreg r.val).tag = fmtTag f ∧ px.rep = none ∧ Issues s c ⟨0xA7, px, [d.val, r.val], n.toNat⟩ len :=
  ⟨about (⟨0xA7, Px.none, [3, 1], 5⟩ : Insn) (fun k => (vecs .int32 .int32 k).setS 1 ⟨9, fmtTag .int32⟩), c0, Px.none, 3, 1, 1, 5, 7, .int32, alen (⟨0xA7, Px.none, [3, 1], 5⟩ : Insn), by decide +kernel⟩

theorem wit_VectorLanesAndMasks_4a : ∀ e ∈ vCmps, ∃ (s : State) (c : CtxId) (px : Px) (m : MReg) (a : VReg) (b : VReg) (f : Fmt) (len : Nat),
    Issues s c ⟨e.1, px, [m.val, a.val, b.val], 0⟩ len ∧ px.rep = none ∧ FmtIs s c px a f ∧ HoldsFmt s c a f ∧ HoldsFmt s c b f ∧ f = .fp32 :=
  fun e he => ⟨about (⟨e.1, Px.none, [2, 1, 2], 0⟩ : Insn) (vecs .fp32 .fp32), c0, Px.none, 2, 1, 2, .fp32, alen (⟨e.1, Px.none, [2, 1, 2], 0⟩ : Insn), (by decide +kernel : ∀ e ∈ vCmps, (fun (s : State) (c : CtxId) (px : Px) (m : MReg) (a : VReg) (b : VReg) (f : Fmt) (len : Nat) => Issues s c ⟨e.1, px, [m.val, a.val, b.val], 0⟩ len ∧ px.rep = none ∧ FmtIs s c px a f ∧ HoldsFmt s c a f ∧ HoldsFmt s c b f ∧ f = .fp32) (about (⟨e.1, Px.none, [2, 1, 2], 0⟩ : Insn) (vecs .fp32 .fp32)) (c0) (Px.none) (2) (1) (2) (.fp32) (alen (⟨e.1, Px.none, [2, 1, 2], 0⟩ : Insn))) e he⟩

theorem wit_VectorLanesAndMasks_4b : ∀ e ∈ vCmps, ∃ (s : State) (c : CtxId) (px : Px) (m : MReg) (a : VReg) (b : VReg) (f : Fmt) (len : Nat),
    Issues s c ⟨e.1, px, [m.val, a.val, b.val], 0⟩ len ∧ px.rep = none ∧ FmtIs s c px a f ∧ HoldsFmt s c a f ∧ HoldsFmt s c b f ∧ f = .int32 :=
  fun e he => ⟨about (⟨e.1, Px.none, [2, 1, 2], 0⟩ : Insn) (vecs .int32 .int32), c0, Px.none, 2, 1, 2, .int32, alen (⟨e.1, Px.none, [2, 1, 2], 0⟩ : Insn), (by decide +kernel : ∀ e ∈ vCmps, (fun (s : State) (c : CtxId) (px : Px) (m : MReg) (a : VReg) (b : VReg) (f : Fmt) (len : Nat) => Issues s c ⟨e.1, px, [m.val, a.val, b.val], 0⟩ len ∧ px.rep = none ∧ FmtIs s c px a f ∧ HoldsFmt s c a f ∧ HoldsFmt s c b f ∧ f = .int32) (about (⟨e.1, Px.none, [2, 1, 2], 0⟩ : Insn) (vecs .int32 .int32)) (c0) (Px.none) (2) (1) (2) (.int32) (alen (⟨e.1, Px.none, [2, 1, 2], 0⟩ : Insn))) e he⟩

theorem wit_VectorLanesAndMasks_5a : ∃ (s : State) (c : CtxId) (px : Px) (d : SReg) (a : VReg) (f : Fmt) (len : Nat),
    px.rep = none ∧ FmtIs s c px a f ∧ (f = .fp32 ∨ f = .int32) ∧ HoldsFmt s c a f ∧ Issues s c ⟨0xA0, px, [d.val, a.val], 0⟩ len ∧ Extreme (worse true f s c a) (numbered s c px f a) 127 :=
  ⟨about (⟨0xA0, Px.none, [3, 1], 0⟩ : Insn) (vecs .int32 .int32), c0, Px.none, 3, 1, .int32, alen (⟨0xA0, Px.none, [3, 1], 0⟩ : Insn), by decide +kernel⟩

theorem wit_VectorLanesAndMasks_5b : ∃ (s : State) (c : CtxId) (px : Px) (d : SReg) (a : VReg) (f : Fmt) (len : Nat),
    px.rep = none ∧ FmtIs s c px a f ∧ (f = .fp32 ∨ f = .int32) ∧ HoldsFmt s c a f ∧ Issues s c ⟨0xA0, px, [d.val, a.val], 0⟩ len ∧ numbered s c px f a = [] :=
  ⟨about (⟨0xA0, { Px.none with mask := some 2 }, [3, 1], 0⟩ : Insn) (vecs .int32 .int32), c0, { Px.none with mask := some 2 }, 3, 1, .int32, alen (⟨0xA0, { Px.none with mask := some 2 }, [3, 1], 0⟩ : Insn), by decide +kernel⟩

theorem wit_VectorLanesAndMasks_5c : ∃ (s : State) (c : CtxId) (px : Px) (d : SReg) (a : VReg) (f : Fmt) (len : Nat),
    px.rep = none ∧ FmtIs s c px a f ∧ (f = .fp32 ∨ f = .int32) ∧ HoldsFmt s c a f ∧ Issues s c ⟨0xA1, px, [d.val, a.val], 0⟩ len ∧ Extreme (worse false f s c a) (numbered s c px f a) 0 :=
  ⟨about (⟨0xA1, Px.none, [3, 1], 0⟩ : Insn) (vecs .int32 .int32), c0, Px.none, 3, 1, .int32, alen (⟨0xA1, Px.none, [3, 1], 0⟩ : Insn), by decide +kernel⟩

theorem wit_VectorLanesAndMasks_5d : ∃ (s : State) (c : CtxId) (px : Px) (d : SReg) (a : VReg) (f : Fmt) (len : Nat),
    px.rep = none ∧ FmtIs s c px a f ∧ (f = .fp32 ∨ f = .int32) ∧ HoldsFmt s c a f ∧ Issues s c ⟨0xA1, px, [d.val, a.val], 0⟩ len ∧ numbered s c px f a = [] :=
  ⟨about (⟨0xA1, { Px.none with mask := some 2 }, [3, 1], 0⟩ : Insn) (vecs .int32 .int32), c0, { Px.none with mask := some 2 }, 3, 1, .int32, alen (⟨0xA1, { Px.none with mask := some 2 }, [3, 1], 0⟩ : Insn), by decide +kernel⟩

theorem wit_VectorLanesAndMasks_5e : ∃ (s : State) (c : CtxId) (px : Px) (d : SReg) (a : VReg) (f : Fmt) (len : Nat),
    px.rep = none ∧ FmtIs s c px a f ∧ (f = .fp32 ∨ f = .int32) ∧ HoldsFmt s c a f ∧ Issues s c ⟨0xA2, px, [d.val, a.val], 0⟩ len ∧ Extreme (worse true f s c a) (numbered s c px f a) 127 :=
  ⟨about (⟨0xA2, Px.none, [3, 1], 0⟩ : Insn) (vecs .int32 .int32), c0, Px.none, 3, 1, .int32, alen (⟨0xA2, Px.none, [3, 1], 0⟩ : Insn), by decide +kernel⟩

theorem wit_VectorLanesAndMasks_5f : ∃ (s : State) (c : CtxId) (px : Px) (d : SReg) (a : VReg) (f : Fmt) (len : Nat),
    px.rep = none ∧ FmtIs s c px a f ∧ (f = .fp32 ∨ f = .int32) ∧ HoldsFmt s c a f ∧ Issues s c ⟨0xA2, px, [d.val, a.val], 0⟩ len ∧ numbered s c px f a = [] :=
  ⟨about (⟨0xA2, { Px.none with mask := some 2 }, [3, 1], 0⟩ : Insn) (vecs .int32 .int32), c0, { Px.none with mask := some 2 }, 3, 1, .int32, alen (⟨0xA2, { Px.none with mask := some 2 }, [3, 1], 0⟩ : Insn), by decide +kernel⟩

theorem wit_VectorLanesAndMasks_5g : ∃ (s : State) (c : CtxId) (px : Px) (d : SReg) (a : VReg) (f : Fmt) (len : Nat),
    px.rep = none ∧ FmtIs s c px a f ∧ (f = .fp32 ∨ f = .int32) ∧ HoldsFmt s c a f ∧ Issues s c ⟨0xA3, px, [d.val, a.val], 0⟩ len ∧ Extreme (worse false f s c a) (numbered s c px f a) 0 :=
  ⟨about (⟨0xA3, Px.none, [3, 1], 0⟩ : Insn) (vecs .int32 .int32), c0, Px.none, 3, 1, .int32, alen (⟨0xA3, Px.none, [3, 1], 0⟩ : Insn), by decide +kernel⟩

theorem wit_VectorLanesAndMasks_5h : ∃ (s : State) (c : CtxId) (px : Px) (d : SReg) (a : VReg) (f : Fmt) (len : Nat),
    px.rep = none ∧ FmtIs s c px a f ∧ (f = .fp32 ∨ f = .int32) ∧ HoldsFmt s c a f ∧ Issues s c ⟨0xA3, px, [d.val, a.val], 0⟩ len ∧ numbered s c px f a = [] :=
  ⟨about (⟨0xA3, { Px.none with mask := some 2 }, [3, 1], 0⟩ : Insn) (vecs .int32 .int32), c0, { Px.none with mask := some 2 }, 3, 1, .int32, alen (⟨0xA3, { Px.none with mask := some 2 }, [3, 1], 0⟩ : Insn), by decide +kernel⟩

theorem wit_VectorLanesAndMasks_6a : ∃ (s : State) (c : CtxId) (d : MReg) (a : MReg) (b : MReg) (_r : SReg) (_n : BitVec 8) (_v : VReg) (len : Nat),
    Issues s c (insn 0xA8 [d.val, a.val, b.val] 0) len :=
  ⟨about (insn 0xA8 [2, 1, 3] 0) (vecs .int32 .int32), c0, 2, 1, 3, 5, 9, 1, alen (insn 0xA8 [2, 1, 3] 0), by decide +kernel⟩

theorem wit_VectorLanesAndMasks_6b : ∃ (s : State) (c : CtxId) (d : MReg) (a : MReg) (b : MReg) (_r : SReg) (_n : BitVec 8) (_v : VReg) (len : Nat),
    Issues s c (insn 0xA9 [d.val, a.val, b.val] 0) len :=
  ⟨about (insn 0xA9 [2, 1, 3] 0) (vecs .int32 .int32), c0, 2, 1, 3, 5, 9, 1, alen (insn 0xA9 [2, 1, 3] 0), by decide +kernel⟩

theorem wit_VectorLanesAndMasks_6c : ∃ (s : State) (c : CtxId) (d : MReg) (a : MReg) (b : MReg) (_r : SReg) (_n : BitVec 8) (_v : VReg) (len : Nat),
    Issues s c (insn 0xAA [d.val, a.val, b.val] 0) len :=
  ⟨about (insn 0xAA [2, 1, 3] 0) (vecs .int32 .int32), c0, 2, 1, 3, 5, 9, 1, alen (insn 0xAA [2, 1, 3] 0), by decide +kernel⟩

theorem wit_VectorLanesAndMasks_6d : ∃ (s : State) (c : CtxId) (d : MReg) (a : MReg) (_b : MReg) (_r : SReg) (_n : BitVec 8) (_v : VReg) (len : Nat),
    Issues s c (insn 0xAB [d.val, a.val] 0) len :=
  ⟨about (insn 0xAB [2, 1] 0) (vecs .int32 .int32), c0, 2, 1, 3, 5, 9, 1, alen (insn 0xAB [2, 1] 0), by decide +kernel⟩

theorem wit_VectorLanesAndMasks_6e : ∃ (s : State) (c : CtxId) (d : MReg) (_a : MReg) (_b : MReg) (_r : SReg) (n : BitVec 8) (_v : VReg) (len : Nat),
    Issues s c (insn 0xAC [d.val] n.toNat) len :=
  ⟨about (insn 0xAC [2] 9) (vecs .int32 .int32), c0, 2, 1, 3, 5, 9, 1, alen (insn 0xAC [2] 9), by decide +kernel⟩

theorem wit_VectorLanesAndMasks_6f : ∃ (s : State) (c : CtxId) (_d : MReg) (a : MReg) (_b : MReg) (r : SReg) (_n : BitVec 8) (_v : VReg) (len : Nat),
    Issues s c (insn 0xAD [r.val, a.val] 0) len :=
  ⟨about (insn 0xAD [5, 1] 0) (vecs .int32 .int32), c0, 2, 1, 3, 5, 9, 1, alen (insn 0xAD [5, 1] 0), by decide +kernel⟩

theorem wit_VectorLanesAndMasks_6g : ∃ (s : State) (c : CtxId) (_d : MReg) (a : MReg) (_b : MReg) (r : SReg) (_n : BitVec 8) (_v : VReg) (len : Nat),
    Issues s c (insn 0xAE [r.val, a.val] 0) len :=
  ⟨about (insn 0xAE [5, 1] 0) (vecs .int32 .int32), c0, 2, 1, 3, 5, 9, 1, alen (insn 0xAE [5, 1] 0), by decide +kernel⟩

theorem wit_VectorLanesAndMasks_6h : ∃ (s : State) (c : CtxId) (d : MReg) (_a : MReg) (_b : MReg) (_r : SReg) (_n : BitVec 8) (v : VReg) (len : Nat),
    HoldsFmt s c v .int32 ∧ Issues s c (insn 0xAF [d.val, v.val] 0) len :=
  ⟨about (insn 0xAF [2, 1] 0) (vecs .int32 .int32), c0, 2, 1, 3, 5, 9, 1, alen (insn 0xAF [2, 1] 0), by decide +kernel⟩

theorem wit_VectorLanesAndMasks_6i : ∃ (s : State) (c : CtxId) (d : MReg) (_a : MReg) (_b : MReg) (_r : SReg) (_n : BitVec 8) (v : VReg) (len : Nat),
    ((s.ctx c).vreg v.val).tag = .nil ∧ Issues s c (insn 0xAF [d.val, v.val] 0) len :=
  ⟨about (insn 0xAF [2, 1] 0) (id), c0, 2, 1, 3, 5, 9, 1, alen (insn 0xAF [2, 1] 0), by decide +kernel⟩

/-- H1 with displacement 0. -/
def ad0 : Addr := ⟨1, 0, none, 0⟩

/-- Words under a tag from 0x2000 on. -/
def tagged (t : Tag) (n : Nat) (s : State) : State := { s with mem := (List.range n).foldl (fun m k => m.setTag (0x2000 + 8 * k) t) s.mem }

theorem wit_VectorMemory_1a : ∃ (s : State) (c : CtxId) (px : Px) (v : VReg) (a : Addr) (f : Fmt) (p : Nat) (len : Nat),
    Issues s c ⟨0x6B, px, v.val :: addrBytes a, a.disp.toNat⟩ len ∧ px.rep = none ∧ px.fmt = some f ∧ Reaches s c a 0 (memVecBytes f) 8 rightRd p ∧ (∀ w ∈ wordsOf s c px f, (wordsRead s c len p (wordsOf s c px f)).mem.tagAt (p + 8 * w) = fmtTag f) :=
  ⟨tagged (fmtTag .fp32) 4 (about (⟨0x6B, { Px.none with fmt := some .fp32, mask := some 1 }, 1 :: addrBytes ad0, ad0.disp.toNat⟩ : Insn) (vecs .fp32 .fp32)), c0, { Px.none with fmt := some .fp32, mask := some 1 }, 1, ad0, .fp32, 0x2000, alen (⟨0x6B, { Px.none with fmt := some .fp32, mask := some 1 }, 1 :: addrBytes ad0, ad0.disp.toNat⟩ : Insn), by decide +kernel⟩

theorem wit_VectorMemory_1b : ∃ (s : State) (c : CtxId) (px : Px) (v : VReg) (a : Addr) (f : Fmt) (p : Nat) (len : Nat),
    Issues s c ⟨0x6B, px, v.val :: addrBytes a, a.disp.toNat⟩ len ∧ px.rep = none ∧ px.fmt = some f ∧ Reaches s c a 0 (memVecBytes f) 8 rightRd p ∧ badWord (wordsRead s c len p (wordsOf s c px f)).mem p (fmtTag f) (wordsOf s c px f) = some stPoison :=
  ⟨tagged Tag.poison 1 (about (⟨0x6B, { Px.none with fmt := some .fp32, mask := some 1 }, 1 :: addrBytes ad0, ad0.disp.toNat⟩ : Insn) (vecs .fp32 .fp32)), c0, { Px.none with fmt := some .fp32, mask := some 1 }, 1, ad0, .fp32, 0x2000, alen (⟨0x6B, { Px.none with fmt := some .fp32, mask := some 1 }, 1 :: addrBytes ad0, ad0.disp.toNat⟩ : Insn), by decide +kernel⟩

theorem wit_VectorMemory_2a : ∃ (s : State) (c : CtxId) (px : Px) (v : VReg) (a : Addr) (f : Fmt) (p : Nat) (len : Nat),
    Issues s c ⟨0x6C, px, v.val :: addrBytes a, a.disp.toNat⟩ len ∧ px.rep = none ∧ px.fmt = some f ∧ ((((s.ctx c).vreg v.val).tag = .poison ∨ HoldsFmt s c v f)) ∧ Reaches s c a 0 (memVecBytes f) 8 rightWr p ∧ (∀ w ∈ wordsOf s c px f, (wordsRead s c len p (partWords s c px f)).mem.tagAt (p + 8 * w) ≠ Tag.code) :=
  ⟨tagged (fmtTag .fp32) 4 (about (⟨0x6C, { Px.none with fmt := some .fp32, mask := some 1 }, 1 :: addrBytes ad0, ad0.disp.toNat⟩ : Insn) (vecs .fp32 .fp32)), c0, { Px.none with fmt := some .fp32, mask := some 1 }, 1, ad0, .fp32, 0x2000, alen (⟨0x6C, { Px.none with fmt := some .fp32, mask := some 1 }, 1 :: addrBytes ad0, ad0.disp.toNat⟩ : Insn), by decide +kernel⟩

theorem wit_VectorMemory_2b : ∃ (s : State) (c : CtxId) (px : Px) (v : VReg) (a : Addr) (f : Fmt) (p : Nat) (len : Nat),
    Issues s c ⟨0x6C, px, v.val :: addrBytes a, a.disp.toNat⟩ len ∧ px.rep = none ∧ px.fmt = some f ∧ ((((s.ctx c).vreg v.val).tag = .poison ∨ HoldsFmt s c v f)) ∧ Reaches s c a 0 (memVecBytes f) 8 rightWr p ∧ (∃ w ∈ wordsOf s c px f, (wordsRead s c len p (partWords s c px f)).mem.tagAt (p + 8 * w) = Tag.code) :=
  ⟨tagged Tag.code 1 (about (⟨0x6C, { Px.none with fmt := some .fp32, mask := some 1 }, 1 :: addrBytes ad0, ad0.disp.toNat⟩ : Insn) (vecs .fp32 .fp32)), c0, { Px.none with fmt := some .fp32, mask := some 1 }, 1, ad0, .fp32, 0x2000, alen (⟨0x6C, { Px.none with fmt := some .fp32, mask := some 1 }, 1 :: addrBytes ad0, ad0.disp.toNat⟩ : Insn), by decide +kernel⟩

theorem wit_VectorMemory_3a : ∃ (_s : State) (p : Nat) (_f : Fmt) (_v : VVal),
    p % 8 = 0 :=
  ⟨about (insn 0 [] 0) id, 0x2000, .mxfp4, vval .mxfp4 0, by decide +kernel⟩

theorem wit_VectorMemory_4a : ∃ (s : State) (c : CtxId) (px : Px) (v : VReg) (a : Addr) (f : Fmt) (p : Nat) (len : Nat),
    px.rep = none ∧ px.fmt = some f ∧ (fmtIsMx f = true ∧ Issues s c ⟨0x6D, px, v.val :: addrBytes a, a.disp.toNat⟩ len ∧ Reaches s c a 0 (scaleBytes f) 8 rightRd p ∧ (∀ w, w < scaleBytes f / 8 → ((issued s c len).settle p (scaleBytes f)).mem.tagAt (p + 8 * w) = fmtTag f)) :=
  ⟨tagged (fmtTag .mxfp8e4) 4 (about (⟨0x6D, { Px.none with fmt := some .mxfp8e4 }, 1 :: addrBytes ad0, ad0.disp.toNat⟩ : Insn) (vecs .fp32 .fp32)), c0, { Px.none with fmt := some .mxfp8e4 }, 1, ad0, .mxfp8e4, 0x2000, alen (⟨0x6D, { Px.none with fmt := some .mxfp8e4 }, 1 :: addrBytes ad0, ad0.disp.toNat⟩ : Insn), by decide +kernel⟩

theorem wit_VectorMemory_4b : ∃ (s : State) (c : CtxId) (px : Px) (v : VReg) (a : Addr) (f : Fmt) (p : Nat) (len : Nat),
    px.rep = none ∧ px.fmt = some f ∧ (fmtIsMx f = true ∧ Issues s c ⟨0x6E, px, v.val :: addrBytes a, a.disp.toNat⟩ len ∧ Reaches s c a 0 (scaleBytes f) 8 rightWr p ∧ HoldsFmt s c v f ∧ (∀ w, w < scaleBytes f / 8 → (issued s c len).mem.tagAt (p + 8 * w) ≠ Tag.code)) :=
  ⟨about (⟨0x6E, { Px.none with fmt := some .mxfp8e4 }, 1 :: addrBytes ad0, ad0.disp.toNat⟩ : Insn) (vecs .mxfp8e4 .fp32), c0, { Px.none with fmt := some .mxfp8e4 }, 1, ad0, .mxfp8e4, 0x2000, alen (⟨0x6E, { Px.none with fmt := some .mxfp8e4 }, 1 :: addrBytes ad0, ad0.disp.toNat⟩ : Insn), by decide +kernel⟩

theorem wit_VectorMemory_4c : ∃ (s : State) (c : CtxId) (px : Px) (v : VReg) (a : Addr) (f : Fmt) (_p : Nat) (len : Nat),
    px.rep = none ∧ px.fmt = some f ∧ fmtIsMx f = false ∧ Issues s c ⟨0x6D, px, v.val :: addrBytes a, a.disp.toNat⟩ len :=
  ⟨about (⟨0x6D, { Px.none with fmt := some .fp32 }, 1 :: addrBytes ad0, ad0.disp.toNat⟩ : Insn) (vecs .fp32 .fp32), c0, { Px.none with fmt := some .fp32 }, 1, ad0, .fp32, 0x2000, alen (⟨0x6D, { Px.none with fmt := some .fp32 }, 1 :: addrBytes ad0, ad0.disp.toNat⟩ : Insn), by decide +kernel⟩

theorem wit_VectorMemory_4d : ∃ (s : State) (c : CtxId) (px : Px) (v : VReg) (a : Addr) (f : Fmt) (_p : Nat) (len : Nat),
    px.rep = none ∧ px.fmt = some f ∧ fmtIsMx f = false ∧ Issues s c ⟨0x6E, px, v.val :: addrBytes a, a.disp.toNat⟩ len :=
  ⟨about (⟨0x6E, { Px.none with fmt := some .fp32 }, 1 :: addrBytes ad0, ad0.disp.toNat⟩ : Insn) (vecs .fp32 .fp32), c0, { Px.none with fmt := some .fp32 }, 1, ad0, .fp32, 0x2000, alen (⟨0x6E, { Px.none with fmt := some .fp32 }, 1 :: addrBytes ad0, ad0.disp.toNat⟩ : Insn), by decide +kernel⟩

theorem wit_VectorMemory_5a : ∃ (s : State) (c : CtxId) (px : Px) (d : VReg) (r : BitVec 8) (len : Nat),
    px.rep = some r ∧ Issues s c ⟨0x9F, px, [d.val], 0⟩ len :=
  ⟨about (⟨0x9F, { Px.none with rep := some 2 }, [5], 0⟩ : Insn) (id), c0, { Px.none with rep := some 2 }, 5, 2, alen (⟨0x9F, { Px.none with rep := some 2 }, [5], 0⟩ : Insn), by decide +kernel⟩

theorem wit_VectorMemory_6a : ∃ (s : State) (c : CtxId) (px : Px) (d : VReg) (a : VReg) (b : VReg) (r : BitVec 8) (len : Nat),
    px.rep = some r ∧ Issues s c ⟨0x96, px, [d.val, a.val, b.val], 0⟩ len ∧ ((∀ i, i < r.toNat → px.fmt = some .int32 ∧ ((s.ctx c).vreg (a.val + i)).tag = .fmt .int32 ∧ ((s.ctx c).vreg (b.val + i)).tag = .fmt .int32)) :=
  ⟨about (⟨0x96, { Px.none with rep := some 2, fmt := some .int32 }, [6, 1, 1], 0⟩ : Insn) (vecs .int32 .int32), c0, { Px.none with rep := some 2, fmt := some .int32 }, 6, 1, 1, 2, alen (⟨0x96, { Px.none with rep := some 2, fmt := some .int32 }, [6, 1, 1], 0⟩ : Insn), by decide +kernel⟩

theorem wit_ExactAddends_1a : ∃ (x : XAcc) (k : Int),
    x.limit = false ∧ x.cnt.toNat < 2 ^ 43 ∧ (units x + k).natAbs < 2 ^ 320 ∧ k ≠ 0 :=
  ⟨XAcc.clear, -5, by decide +kernel⟩

theorem wit_ExactAddends_2a : ∃ (x : XAcc),
    x.limit = false ∧ x.cnt.toNat < 2 ^ 43 :=
  ⟨XAcc.clear, by decide +kernel⟩

theorem wit_ExactAddends_3a : ∃ (x : XAcc) (_v : FVal),
    x.limit = false ∧ x.cnt.toNat = 2 ^ 43 :=
  ⟨{ XAcc.clear with cnt := 8796093022208 }, .nan, by decide +kernel⟩

theorem wit_ExactAddends_4a : ∃ (x : XAcc) (_v : FVal),
    x.limit = true :=
  ⟨{ XAcc.clear with limit := true }, .nan, by decide +kernel⟩

theorem wit_ExactAddends_5a : ∃ (x : XAcc) (j : Int) (k : Int),
    x.limit = false ∧ x.cnt.toNat + 2 ≤ 2 ^ 43 ∧ j ≠ 0 ∧ k ≠ 0 ∧ (units x).natAbs + j.natAbs + k.natAbs < 2 ^ 320 :=
  ⟨XAcc.clear, -5, 7, by decide +kernel⟩

theorem wit_ExactAddends_6a : ∃ (x : XAcc),
    x.poison = false ∧ ((x.sign = true → x.mag ≠ 0)) ∧ ((x.cnt.toNat ≤ 2 ^ 43 ∨ x.limit = true)) ∧ ((x.mag.toNat < x.cnt.toNat * 2 ^ 277 ∨ x.mag = 0 ∨ x.limit = true)) :=
  ⟨{ XAcc.clear with mag := 77, sign := true, cnt := 3, allneg0 := false }, by decide +kernel⟩

theorem wit_Accumulators_1a : ∃ (s : State) (c : CtxId) (px : Px) (x : XReg) (_y : XReg) (_a : VReg) (_b : VReg) (_r : SReg) (_f : Fmt) (_g : Fmt) (len : Nat),
    px.rep = none ∧ AccFree s c x.val ∧ Issues s c ⟨0xDF00, px, [x.val], 0⟩ len :=
  ⟨about (⟨0xDF00, Px.none, [2], 0⟩ : Insn) (vecs .fp32 .fp32), c0, Px.none, 2, 3, 1, 2, 1, .fp32, .fp32, alen (⟨0xDF00, Px.none, [2], 0⟩ : Insn), by decide +kernel⟩

theorem wit_Accumulators_1b : ∃ (s : State) (c : CtxId) (px : Px) (x : XReg) (_y : XReg) (a : VReg) (_b : VReg) (_r : SReg) (f : Fmt) (_g : Fmt) (len : Nat),
    px.rep = none ∧ AccFree s c x.val ∧ Issues s c ⟨0xDF01, px, [x.val, a.val], 0⟩ len ∧ AccSound s c x.val ∧ FmtIs s c px a f ∧ HoldsFmt s c a f :=
  ⟨about (⟨0xDF01, Px.none, [2, 1], 0⟩ : Insn) (vecs .fp32 .fp32), c0, Px.none, 2, 3, 1, 2, 1, .fp32, .fp32, alen (⟨0xDF01, Px.none, [2, 1], 0⟩ : Insn), by decide +kernel⟩

theorem wit_Accumulators_1c : ∃ (s : State) (c : CtxId) (px : Px) (x : XReg) (_y : XReg) (_a : VReg) (_b : VReg) (r : SReg) (_f : Fmt) (_g : Fmt) (len : Nat),
    px.rep = none ∧ AccFree s c x.val ∧ Issues s c ⟨0xDF02, px, [x.val, r.val], 0⟩ len ∧ AccSound s c x.val ∧ ((s.ctx c).sreg r.val).tag.toNat ∈ [1, 3, 4, 5, 6, 7] :=
  ⟨about (⟨0xDF02, Px.none, [2, 1], 0⟩ : Insn) (vecs .fp32 .fp32), c0, Px.none, 2, 3, 1, 2, 1, .fp32, .fp32, alen (⟨0xDF02, Px.none, [2, 1], 0⟩ : Insn), by decide +kernel⟩

theorem wit_Accumulators_1d : ∃ (s : State) (c : CtxId) (px : Px) (x : XReg) (_y : XReg) (a : VReg) (b : VReg) (_r : SReg) (f : Fmt) (g : Fmt) (len : Nat),
    px.rep = none ∧ AccFree s c x.val ∧ Issues s c ⟨0xDF03, px, [x.val, a.val, b.val], 0⟩ len ∧ AccSound s c x.val ∧ FmtIs s c px a f ∧ HoldsFmt s c a f ∧ HoldsFmt s c b g ∧ (f = .int8 ∧ g = .int8) :=
  ⟨about (⟨0xDF03, Px.none, [2, 1, 2], 0⟩ : Insn) (vecs .int8 .int8), c0, Px.none, 2, 3, 1, 2, 1, .int8, .int8, alen (⟨0xDF03, Px.none, [2, 1, 2], 0⟩ : Insn), by decide +kernel⟩

theorem wit_Accumulators_1e : ∃ (s : State) (c : CtxId) (px : Px) (x : XReg) (y : XReg) (_a : VReg) (_b : VReg) (_r : SReg) (_f : Fmt) (_g : Fmt) (len : Nat),
    px.rep = none ∧ AccFree s c x.val ∧ Issues s c ⟨0xDF04, px, [x.val, y.val], 0⟩ len ∧ AccFree s c y.val ∧ AccSound s c x.val ∧ AccSound s c y.val :=
  ⟨about (⟨0xDF04, Px.none, [2, 3], 0⟩ : Insn) (vecs .fp32 .fp32), c0, Px.none, 2, 3, 1, 2, 1, .fp32, .fp32, alen (⟨0xDF04, Px.none, [2, 3], 0⟩ : Insn), by decide +kernel⟩

theorem wit_Accumulators_1f : ∃ (s : State) (c : CtxId) (px : Px) (x : XReg) (y : XReg) (_a : VReg) (_b : VReg) (_r : SReg) (_f : Fmt) (_g : Fmt) (len : Nat),
    px.rep = none ∧ AccFree s c x.val ∧ Issues s c ⟨0xDF05, px, [x.val, y.val], 0⟩ len ∧ AccFree s c y.val ∧ AccSound s c y.val :=
  ⟨about (⟨0xDF05, Px.none, [2, 3], 0⟩ : Insn) (vecs .fp32 .fp32), c0, Px.none, 2, 3, 1, 2, 1, .fp32, .fp32, alen (⟨0xDF05, Px.none, [2, 3], 0⟩ : Insn), by decide +kernel⟩

/-- The image of an accumulator from 0x2000 on. -/
def imaged (x : XAcc) (s : State) : State := { s with mem := (accImage x).zipIdx.foldl (fun m e => m.setWord (0x2000 + 8 * e.2) (TWord.int e.1)) s.mem }

theorem wit_Accumulators_2a : ∃ (s : State) (c : CtxId) (px : Px) (x : XReg) (_d : SReg) (a : Addr) (_t : STarget) (_rm : Rm) (p : Nat) (len : Nat),
    px.rep = none ∧ AccFree s c x.val ∧ (Issues s c ⟨0xDF06, px, x.val :: addrBytes a, a.disp.toNat⟩ len ∧ Reaches s c a 0 48 8 rightRd p ∧ (∀ k, k < 6 → ((issued s c len).settle p 48).mem.tagAt (p + 8 * k) = Tag.int64) ∧ (accOfImage ((List.range 6).map fun k => (((issued s c len).settle p 48).mem.word (p + 8 * k)).bits)).isSome = true) :=
  ⟨imaged { XAcc.clear with mag := 77, cnt := 3, allneg0 := false } (about (⟨0xDF06, Px.none, 2 :: addrBytes ad0, ad0.disp.toNat⟩ : Insn) id), c0, Px.none, 2, 3, ad0, .fp32, .rne, 0x2000, alen (⟨0xDF06, Px.none, 2 :: addrBytes ad0, ad0.disp.toNat⟩ : Insn), by decide +kernel⟩

theorem wit_Accumulators_2b : ∃ (s : State) (c : CtxId) (px : Px) (x : XReg) (_d : SReg) (a : Addr) (_t : STarget) (_rm : Rm) (p : Nat) (len : Nat),
    px.rep = none ∧ AccFree s c x.val ∧ (Issues s c ⟨0xDF07, px, x.val :: addrBytes a, a.disp.toNat⟩ len ∧ AccSound s c x.val ∧ Reaches s c a 0 48 8 rightWr p ∧ (∀ k, k < 6 → (issued s c len).mem.tagAt (p + 8 * k) ≠ Tag.code)) :=
  ⟨about (⟨0xDF07, Px.none, 2 :: addrBytes ad0, ad0.disp.toNat⟩ : Insn) id, c0, Px.none, 2, 3, ad0, .fp32, .rne, 0x2000, alen (⟨0xDF07, Px.none, 2 :: addrBytes ad0, ad0.disp.toNat⟩ : Insn), by decide +kernel⟩

theorem wit_Accumulators_2c : ∃ (s : State) (c : CtxId) (px : Px) (x : XReg) (d : SReg) (_a : Addr) (t : STarget) (rm : Rm) (_p : Nat) (len : Nat),
    px.rep = none ∧ AccFree s c x.val ∧ Issues s c (insn 0xDF08 [d.val, x.val, sTargetCode t * 16 + rmCode rm] 0) len ∧ AccSound s c x.val :=
  ⟨about (insn 0xDF08 [3, 2, 16] 0) id, c0, Px.none, 2, 3, ad0, .fp32, .rne, 0x2000, alen (insn 0xDF08 [3, 2, 16] 0), by decide +kernel⟩

theorem wit_Accumulators_2d : ∃ (s : State) (c : CtxId) (px : Px) (x : XReg) (d : SReg) (_a : Addr) (_t : STarget) (_rm : Rm) (_p : Nat) (len : Nat),
    px.rep = none ∧ AccFree s c x.val ∧ Issues s c (insn 0xDF09 [d.val, x.val] 0) len ∧ AccSound s c x.val :=
  ⟨about (insn 0xDF09 [3, 2] 0) id, c0, Px.none, 2, 3, ad0, .fp32, .rne, 0x2000, alen (insn 0xDF09 [3, 2] 0), by decide +kernel⟩

theorem wit_Accumulators_2e : ∃ (s : State) (c : CtxId) (px : Px) (x : XReg) (d : SReg) (_a : Addr) (_t : STarget) (_rm : Rm) (_p : Nat) (len : Nat),
    px.rep = none ∧ AccFree s c x.val ∧ Issues s c (insn 0xDF0A [d.val, x.val] 0) len ∧ AccSound s c x.val :=
  ⟨about (insn 0xDF0A [3, 2] 0) id, c0, Px.none, 2, 3, ad0, .fp32, .rne, 0x2000, alen (insn 0xDF0A [3, 2] 0), by decide +kernel⟩

theorem wit_Accumulators_3a : ∃ (s : State) (c : CtxId) (px : Px) (x : XReg) (len : Nat),
    px.rep = none ∧ Issues s c ⟨0xDF00, px, [x.val], 0⟩ len ∧ (s.eng c.eng.val).occ.getLsbD x.val = true :=
  ⟨(about (⟨0xDF00, Px.none, [2], 0⟩ : Insn) id).updEng 0 fun x => { x with occ := 4 }, c0, Px.none, 2, alen (⟨0xDF00, Px.none, [2], 0⟩ : Insn), by decide +kernel⟩

theorem wit_Accumulators_3b : ∃ (s : State) (c : CtxId) (px : Px) (x : XReg) (_len : Nat),
    px.rep = none ∧ (s.ctx c).wait = .acc x.val :=
  ⟨about (⟨0xDF00, Px.none, [2], 0⟩ : Insn) (fun k => { k with wait := .acc 2 }), c0, Px.none, 2, alen (⟨0xDF00, Px.none, [2], 0⟩ : Insn), by decide +kernel⟩

theorem wit_ConversionsAndSampling_1a : ∃ (s : State) (c : CtxId) (px : Px) (d : VReg) (a : VReg) (_b : VReg) (f : Fmt) (t : Fmt) (w : Bool) (rm : Rm) (len : Nat),
    px.rep = none ∧ FmtIs s c px a f ∧ HoldsFmt s c a f ∧ Issues s c ⟨0xDF20, px, [d.val, a.val, fmtCode t * 16 + (if w then 8 else 0) + rmCode rm], 0⟩ len ∧ window f t (0 + w.toNat) = some (0, 128, 0) :=
  ⟨about (⟨0xDF20, Px.none, [3, 1, 16], 0⟩ : Insn) (vecs .fp32 .fp32), c0, Px.none, 3, 1, 2, .fp32, .bf16, false, .rne, alen (⟨0xDF20, Px.none, [3, 1, 16], 0⟩ : Insn), by decide +kernel⟩

theorem wit_ConversionsAndSampling_1b : ∃ (s : State) (c : CtxId) (px : Px) (d : VReg) (a : VReg) (_b : VReg) (f : Fmt) (t : Fmt) (w : Bool) (rm : Rm) (len : Nat),
    px.rep = none ∧ FmtIs s c px a f ∧ HoldsFmt s c a f ∧ Issues s c ⟨0xDF20, px, [d.val, a.val, fmtCode t * 16 + (if w then 8 else 0) + rmCode rm], 0⟩ len ∧ (window f t (0 + w.toNat)).isSome = true :=
  ⟨about (⟨0xDF20, Px.none, [3, 1, 24], 0⟩ : Insn) (vecs .fp32 .fp32), c0, Px.none, 3, 1, 2, .fp32, .bf16, true, .rne, alen (⟨0xDF20, Px.none, [3, 1, 24], 0⟩ : Insn), by decide +kernel⟩

theorem wit_ConversionsAndSampling_1c : ∃ (s : State) (c : CtxId) (px : Px) (d : VReg) (a : VReg) (_b : VReg) (f : Fmt) (t : Fmt) (w : Bool) (rm : Rm) (len : Nat),
    px.rep = none ∧ FmtIs s c px a f ∧ HoldsFmt s c a f ∧ Issues s c ⟨0xDF22, px, [d.val, a.val, fmtCode t * 16 + (if w then 8 else 0) + rmCode rm], 0⟩ len ∧ window f t (2 + w.toNat) = none :=
  ⟨about (⟨0xDF22, Px.none, [3, 1, 16], 0⟩ : Insn) (vecs .fp32 .fp32), c0, Px.none, 3, 1, 2, .fp32, .bf16, false, .rne, alen (⟨0xDF22, Px.none, [3, 1, 16], 0⟩ : Insn), by decide +kernel⟩

theorem wit_ConversionsAndSampling_1d : ∃ (s : State) (c : CtxId) (px : Px) (d : VReg) (a : VReg) (_b : VReg) (f : Fmt) (t : Fmt) (w : Bool) (rm : Rm) (len : Nat),
    px.rep = none ∧ FmtIs s c px a f ∧ HoldsFmt s c a f ∧ Issues s c ⟨0xDF22, px, [d.val, a.val, fmtCode t * 16 + (if w then 8 else 0) + rmCode rm], 0⟩ len ∧ (window f t (2 + w.toNat)).isSome = true :=
  ⟨about (⟨0xDF22, Px.none, [3, 1, 48], 0⟩ : Insn) (vecs .fp32 .fp32), c0, Px.none, 3, 1, 2, .fp32, .e4m3, false, .rne, alen (⟨0xDF22, Px.none, [3, 1, 48], 0⟩ : Insn), by decide +kernel⟩

theorem wit_ConversionsAndSampling_1e : ∃ (s : State) (c : CtxId) (px : Px) (d : VReg) (a : VReg) (b : VReg) (f : Fmt) (t : Fmt) (w : Bool) (rm : Rm) (len : Nat),
    px.rep = none ∧ FmtIs s c px a f ∧ HoldsFmt s c a f ∧ Issues s c ⟨0xDF21, px, [d.val, a.val, b.val, fmtCode t * 16 + (if w then 8 else 0) + rmCode rm], 0⟩ len ∧ HoldsFmt s c b f ∧ fmtLane f < fmtLane t ∧ fmtLane t < 8 * fmtLane f :=
  ⟨about (⟨0xDF21, Px.none, [3, 1, 2, 16], 0⟩ : Insn) (vecs .fp32 .fp32), c0, Px.none, 3, 1, 2, .fp32, .bf16, false, .rne, alen (⟨0xDF21, Px.none, [3, 1, 2, 16], 0⟩ : Insn), by decide +kernel⟩

theorem wit_ConversionsAndSampling_2a : ∃ (s : State) (c : CtxId) (d : SReg) (a : SReg) (t : STarget) (rm : Rm) (len : Nat),
    Issues s c (insn 0xDF23 [d.val, a.val, sTargetCode t * 16 + rmCode rm] 0) len ∧ ((s.ctx c).sreg a.val).tag.toNat ∈ [1, 3, 4, 5, 6, 7] :=
  ⟨about (insn 0xDF23 [3, 1, 0x60] 0) (fun k => k.setS 1 ⟨0x3F800000, Tag.fp32x2⟩), c0, 3, 1, .int64, .rne, alen (insn 0xDF23 [3, 1, 0x60] 0), by decide +kernel⟩

theorem wit_ConversionsAndSampling_2b : ∃ (s : State) (c : CtxId) (d : SReg) (a : SReg) (t : STarget) (rm : Rm) (len : Nat),
    Issues s c (insn 0xDF23 [d.val, a.val, sTargetCode t * 16 + rmCode rm] 0) len ∧ ((s.ctx c).sreg a.val).tag = Tag.fp64 :=
  ⟨about (insn 0xDF23 [3, 1, 0x60] 0) (fun k => k.setS 1 ⟨0x3FF0000000000000, Tag.fp64⟩), c0, 3, 1, .int64, .rne, alen (insn 0xDF23 [3, 1, 0x60] 0), by decide +kernel⟩

theorem wit_ConversionsAndSampling_2c : ∃ (s : State) (c : CtxId) (d : SReg) (a : SReg) (t : STarget) (rm : Rm) (len : Nat),
    Issues s c (insn 0xDF23 [d.val, a.val, sTargetCode t * 16 + rmCode rm] 0) len ∧ ((s.ctx c).sreg a.val).tag ∈ [Tag.mxfp8, Tag.mxfp6, Tag.mxfp4, Tag.mxint8] :=
  ⟨about (insn 0xDF23 [3, 1, 0x60] 0) (fun k => k.setS 1 ⟨0x3FF0000000000000, Tag.mxfp8⟩), c0, 3, 1, .int64, .rne, alen (insn 0xDF23 [3, 1, 0x60] 0), by decide +kernel⟩

theorem wit_ConversionsAndSampling_3a : ∃ (s : State) (c : CtxId) (px : Px) (d : VReg) (a : VReg) (_b : VReg) (_e : VReg) (_k : SReg) (_r : SReg) (_m : MReg) (_rm : Rm) (_f : Fmt) (len : Nat),
    px.rep = none ∧ Issues s c ⟨0xDF43, px, [d.val, a.val, (1 : BitVec 2).toNat], 0⟩ len ∧ HoldsFmt s c a .int32 :=
  ⟨about (⟨0xDF43, Px.none, [3, 1, 1], 0⟩ : Insn) (vecs .int32 .int32), c0, Px.none, 3, 1, 2, 4, 1, 5, 2, .rne, .int32, alen (⟨0xDF43, Px.none, [3, 1, 1], 0⟩ : Insn), by decide +kernel⟩

theorem wit_ConversionsAndSampling_3b : ∃ (s : State) (c : CtxId) (px : Px) (d : VReg) (a : VReg) (_b : VReg) (_e : VReg) (_k : SReg) (_r : SReg) (_m : MReg) (_rm : Rm) (_f : Fmt) (len : Nat),
    px.rep = none ∧ Issues s c ⟨0xDF43, px, [d.val, a.val, 4 + (1 : BitVec 2).toNat], 0⟩ len ∧ HoldsFmt s c a .int32 :=
  ⟨about (⟨0xDF43, Px.none, [3, 1, 5], 0⟩ : Insn) (vecs .int32 .int32), c0, Px.none, 3, 1, 2, 4, 1, 5, 2, .rne, .int32, alen (⟨0xDF43, Px.none, [3, 1, 5], 0⟩ : Insn), by decide +kernel⟩

theorem wit_ConversionsAndSampling_3c : ∃ (s : State) (c : CtxId) (px : Px) (d : VReg) (a : VReg) (_b : VReg) (_e : VReg) (_k : SReg) (_r : SReg) (_m : MReg) (_rm : Rm) (_f : Fmt) (len : Nat),
    px.rep = none ∧ Issues s c ⟨0xDF43, px, [d.val, a.val, 8 + (1 : BitVec 2).toNat], 0⟩ len ∧ HoldsFmt s c a .int32 :=
  ⟨about (⟨0xDF43, Px.none, [3, 1, 9], 0⟩ : Insn) (vecs .int32 .int32), c0, Px.none, 3, 1, 2, 4, 1, 5, 2, .rne, .int32, alen (⟨0xDF43, Px.none, [3, 1, 9], 0⟩ : Insn), by decide +kernel⟩

theorem wit_ConversionsAndSampling_3d : ∃ (s : State) (c : CtxId) (px : Px) (d : VReg) (a : VReg) (_b : VReg) (_e : VReg) (k : SReg) (_r : SReg) (_m : MReg) (_rm : Rm) (f : Fmt) (len : Nat),
    px.rep = none ∧ Issues s c ⟨0xDF44, px, [d.val, a.val, k.val], 0⟩ len ∧ FmtIs s c px a f ∧ HoldsFmt s c a f ∧ HoldsInt s c k (BitVec.ofInt 64 3) ∧ Ranked f ((s.ctx c).vreg a.val) (activeLanes s c px) (List.range 8).reverse :=
  ⟨about (⟨0xDF44, { Px.none with mask := some 1 }, [3, 1, 1], 0⟩ : Insn) (vecs .int32 .int32), c0, { Px.none with mask := some 1 }, 3, 1, 2, 4, 1, 5, 2, .rne, .int32, alen (⟨0xDF44, { Px.none with mask := some 1 }, [3, 1, 1], 0⟩ : Insn), by decide +kernel⟩

theorem wit_ConversionsAndSampling_3e : ∃ (s : State) (c : CtxId) (px : Px) (d : VReg) (a : VReg) (_b : VReg) (_e : VReg) (_k : SReg) (_r : SReg) (_m : MReg) (rm : Rm) (f : Fmt) (len : Nat),
    px.rep = none ∧ Issues s c ⟨0xDF45, px, [d.val, a.val, 8 + rmCode rm], 0⟩ len ∧ FmtIs s c px a f ∧ HoldsFmt s c a f ∧ f = .int32 :=
  ⟨about (⟨0xDF45, Px.none, [3, 1, 8], 0⟩ : Insn) (vecs .int32 .int32), c0, Px.none, 3, 1, 2, 4, 1, 5, 2, .rne, .int32, alen (⟨0xDF45, Px.none, [3, 1, 8], 0⟩ : Insn), by decide +kernel⟩

theorem wit_ConversionsAndSampling_3f : ∃ (s : State) (c : CtxId) (px : Px) (d : VReg) (a : VReg) (_b : VReg) (_e : VReg) (_k : SReg) (_r : SReg) (_m : MReg) (rm : Rm) (f : Fmt) (len : Nat),
    px.rep = none ∧ Issues s c ⟨0xDF45, px, [d.val, a.val, 0 + rmCode rm], 0⟩ len ∧ FmtIs s c px a f ∧ HoldsFmt s c a f ∧ f = .fp32 :=
  ⟨about (⟨0xDF45, Px.none, [3, 1, 0], 0⟩ : Insn) (vecs .fp32 .fp32), c0, Px.none, 3, 1, 2, 4, 1, 5, 2, .rne, .fp32, alen (⟨0xDF45, Px.none, [3, 1, 0], 0⟩ : Insn), by decide +kernel⟩

theorem wit_ConversionsAndSampling_3g : ∃ (s : State) (c : CtxId) (px : Px) (_d : VReg) (a : VReg) (b : VReg) (_e : VReg) (_k : SReg) (r : SReg) (_m : MReg) (_rm : Rm) (_f : Fmt) (len : Nat),
    px.rep = none ∧ Issues s c ⟨0xDF46, px, [r.val, a.val, b.val], 0⟩ len ∧ HoldsFmt s c a .fp32 ∧ HoldsFmt s c b .fp32 :=
  ⟨about (⟨0xDF46, Px.none, [5, 1, 2], 0⟩ : Insn) (vecs .fp32 .fp32), c0, Px.none, 3, 1, 2, 4, 1, 5, 2, .rne, .fp32, alen (⟨0xDF46, Px.none, [5, 1, 2], 0⟩ : Insn), by decide +kernel⟩

theorem wit_ConversionsAndSampling_3h : ∃ (s : State) (c : CtxId) (px : Px) (d : VReg) (a : VReg) (b : VReg) (_e : VReg) (_k : SReg) (_r : SReg) (_m : MReg) (rm : Rm) (_f : Fmt) (len : Nat),
    px.rep = none ∧ Issues s c ⟨0xDF47, px, [d.val, a.val, b.val, rmCode rm], 0⟩ len ∧ FmtIs s c px a .fp32 ∧ HoldsFmt s c a .fp32 ∧ HoldsFmt s c b .fp32 :=
  ⟨about (⟨0xDF47, Px.none, [3, 1, 2, 0], 0⟩ : Insn) (vecs .fp32 .fp32), c0, Px.none, 3, 1, 2, 4, 1, 5, 2, .rne, .fp32, alen (⟨0xDF47, Px.none, [3, 1, 2, 0], 0⟩ : Insn), by decide +kernel⟩

theorem wit_ConversionsAndSampling_3i : ∃ (s : State) (c : CtxId) (px : Px) (_d : VReg) (a : VReg) (b : VReg) (e : VReg) (_k : SReg) (_r : SReg) (m : MReg) (_rm : Rm) (_f : Fmt) (len : Nat),
    px.rep = none ∧ Issues s c ⟨0xDF48, px, [m.val, a.val, b.val, e.val], 0⟩ len ∧ FmtIs s c px a .fp32 ∧ HoldsFmt s c a .fp32 ∧ HoldsFmt s c b .fp32 ∧ HoldsFmt s c e .fp32 :=
  ⟨about (⟨0xDF48, Px.none, [2, 1, 2, 4], 0⟩ : Insn) (vecs .fp32 .fp32), c0, Px.none, 3, 1, 2, 4, 1, 5, 2, .rne, .fp32, alen (⟨0xDF48, Px.none, [2, 1, 2, 4], 0⟩ : Insn), by decide +kernel⟩

theorem wit_SemaphoresAndBarriers_1a : ∃ (s : State) (c : CtxId) (ord : Bool) (a : SReg) (n : BitVec 6) (v : Word) (len : Nat),
    HoldsInt s c a v ∧ Issues s c (insnOrd 0xC3 ord [a.val] n.toNat) len ∧ NoWaiter s c.eng n.toNat :=
  ⟨(about (insnOrd 0xC3 false [1] 5) (ints 7 9)).updEng 0 fun x => { x.setSem 5 4 with semQ := [] }, c0, false, 1, 5, 7, alen (insnOrd 0xC3 false [1] 5), by decide +kernel⟩

theorem wit_SemaphoresAndBarriers_1b : ∃ (s : State) (c : CtxId) (ord : Bool) (a : SReg) (n : BitVec 6) (v : Word) (len : Nat),
    HoldsInt s c a v ∧ Issues s c (insnOrd 0xC6 ord [a.val] n.toNat) len ∧ NoWaiter s c.eng n.toNat :=
  ⟨(about (insnOrd 0xC6 false [1] 5) (ints 7 9)).updEng 0 fun x => { x.setSem 5 4 with semQ := [] }, c0, false, 1, 5, 7, alen (insnOrd 0xC6 false [1] 5), by decide +kernel⟩

theorem wit_SemaphoresAndBarriers_1c : ∃ (s : State) (c : CtxId) (_ord : Bool) (a : SReg) (n : BitVec 6) (v : Word) (len : Nat),
    HoldsInt s c a v ∧ Issues s c (insn 0xC5 [a.val] n.toNat) len :=
  ⟨(about (insnOrd 0xC5 false [1] 5) (ints 7 9)).updEng 0 fun x => { x.setSem 5 4 with semQ := [] }, c0, false, 1, 5, 7, alen (insnOrd 0xC5 false [1] 5), by decide +kernel⟩

theorem wit_SemaphoresAndBarriers_1d : ∃ (s : State) (c : CtxId) (_ord : Bool) (a : SReg) (n : BitVec 6) (v : Word) (len : Nat),
    HoldsInt s c a v ∧ Issues s c (insn 0xC4 [a.val] n.toNat) len ∧ v = 0 :=
  ⟨(about (insnOrd 0xC4 false [1] 5) (ints 0 9)).updEng 0 fun x => { x.setSem 5 4 with semQ := [] }, c0, false, 1, 5, 0, alen (insnOrd 0xC4 false [1] 5), by decide +kernel⟩

theorem wit_SemaphoresAndBarriers_1e : ∃ (s : State) (c : CtxId) (_ord : Bool) (a : SReg) (n : BitVec 6) (v : Word) (len : Nat),
    HoldsInt s c a v ∧ Issues s c (insn 0xC4 [a.val] n.toNat) len ∧ v ≠ 0 ∧ v.toNat ≤ ((s.eng c.eng.val).sem n.toNat).toNat ∧ NoWaiter s c.eng n.toNat :=
  ⟨(about (insnOrd 0xC4 false [1] 5) (ints 7 9)).updEng 0 fun x => { x.setSem 5 7 with semQ := [] }, c0, false, 1, 5, 7, alen (insnOrd 0xC4 false [1] 5), by decide +kernel⟩

theorem wit_SemaphoresAndBarriers_1f : ∃ (s : State) (c : CtxId) (_ord : Bool) (a : SReg) (n : BitVec 6) (v : Word) (len : Nat),
    HoldsInt s c a v ∧ Issues s c (insn 0xC4 [a.val] n.toNat) len ∧ v ≠ 0 ∧ ((s.eng c.eng.val).sem n.toNat).toNat < v.toNat :=
  ⟨(about (insnOrd 0xC4 false [1] 5) (ints 7 9)).updEng 0 fun x => { x.setSem 5 6 with semQ := [] }, c0, false, 1, 5, 7, alen (insnOrd 0xC4 false [1] 5), by decide +kernel⟩

theorem wit_SemaphoresAndBarriers_1g : ∃ (s : State) (c : CtxId) (_ord : Bool) (a : SReg) (n : BitVec 6) (v : Word) (len : Nat),
    HoldsInt s c a v ∧ Issues s c (insn 0xC4 [a.val] n.toNat) len ∧ v ≠ 0 ∧ ¬NoWaiter s c.eng n.toNat :=
  ⟨(about (insnOrd 0xC4 false [1] 5) (ints 7 9)).updEng 0 fun x => { x.setSem 5 7 with semQ := [⟨2, 5, 9⟩] }, c0, false, 1, 5, 7, alen (insnOrd 0xC4 false [1] 5), by decide +kernel⟩

/-- Slots 1 and 2 of engine 0 wait on semaphore 5. -/
def semDev (v : Word) : State := (device [] id).setEng 0 { Engine.reset.setSem 5 v with peck := 1, ctxs := [(1, { context with state := .waitSem, wait := .sem 5 }), (2, { context with state := .waitSem, wait := .sem 5 })], semQ := [⟨1, 5, 4⟩, ⟨2, 5, 4⟩] }

theorem wit_SemaphoresAndBarriers_2a : ∃ (s : State) (e : Fin 128) (n : Nat) (w : SemWaiter) (ws : List SemWaiter),
    (s.eng e.val).semQ = w :: ws ∧ w.sem = n ∧ w.slot < 8 ∧ ((s.eng e.val).sem n).toNat < w.need.toNat :=
  ⟨semDev 3, 0, 5, ⟨1, 5, 4⟩, [⟨2, 5, 4⟩], by decide +kernel⟩

theorem wit_SemaphoresAndBarriers_2b : ∃ (s : State) (e : Fin 128) (n : Nat) (w : SemWaiter) (ws : List SemWaiter),
    (s.eng e.val).semQ = w :: ws ∧ w.sem = n ∧ w.slot < 8 ∧ (w.need.toNat ≤ ((s.eng e.val).sem n).toNat ∧ w ∉ ws ∧ (∀ v ∈ ws, v.sem = n → ((s.eng e.val).sem n - w.need).toNat < v.need.toNat)) :=
  ⟨semDev 7, 0, 5, ⟨1, 5, 4⟩, [⟨2, 5, 4⟩], by decide +kernel⟩

theorem wit_SemaphoresAndBarriers_3a : ∃ (s : State) (c : CtxId) (u : BarUnit) (len : Nat),
    BarReady s c (unitNo c.eng u) ∧ (s.bar (unitNo c.eng u)).arrived.toNat + 1 < (s.bar (unitNo c.eng u)).count.toNat ∧ Issues s c (insn 0xC7 [] (unitImm u)) len :=
  ⟨{ about (insn 0xC7 [] 0x107) (id) with barriers := [(7, { Barrier.reset with peck := 1, count := 3, arrived := 1 })] }, c0, .device 7, alen (insn 0xC7 [] 0x107), by decide +kernel⟩

theorem wit_SemaphoresAndBarriers_3b : ∃ (s : State) (c : CtxId) (u : BarUnit) (len : Nat),
    BarReady s c (unitNo c.eng u) ∧ (s.bar (unitNo c.eng u)).arrived.toNat + 1 < (s.bar (unitNo c.eng u)).count.toNat ∧ Issues s c (insn 0xC9 [] (unitImm u)) len :=
  ⟨{ about (insn 0xC9 [] 0x107) (id) with barriers := [(7, { Barrier.reset with peck := 1, count := 3, arrived := 1 })] }, c0, .device 7, alen (insn 0xC9 [] 0x107), by decide +kernel⟩

theorem wit_SemaphoresAndBarriers_3c : ∃ (s : State) (c : CtxId) (u : BarUnit) (len : Nat),
    BarReady s c (unitNo c.eng u) ∧ Issues s c (insn 0xC8 [] (unitImm u)) len :=
  ⟨{ about (insn 0xC8 [] 0x107) (id) with barriers := [(7, { Barrier.reset with peck := 1, count := 3, arrived := 1 })] }, c0, .device 7, alen (insn 0xC8 [] 0x107), by decide +kernel⟩

theorem wit_SemaphoresAndBarriers_3d : ∃ (s : State) (c : CtxId) (u : BarUnit) (len : Nat),
    (s.bar (unitNo c.eng u)).peck = (s.ctx c).peck ∧ (s.bar (unitNo c.eng u)).pair = false ∧ tblGet false (s.ctx c).arrived (unitNo c.eng u) = true ∧ Issues s c (insn 0xC8 [] (unitImm u)) len :=
  ⟨{ about (insn 0xC8 [] 0x107) (fun k => { k with arrived := [(7, true)] }) with barriers := [(7, { Barrier.reset with peck := 1, count := 3, arrived := 1 })] }, c0, .device 7, alen (insn 0xC8 [] 0x107), by decide +kernel⟩

theorem wit_SemaphoresAndBarriers_3e : ∃ (s : State) (c : CtxId) (u : BarUnit) (len : Nat),
    (s.bar (unitNo c.eng u)).peck ≠ (s.ctx c).peck ∧ Issues s c (insn 0xC7 [] (unitImm u)) len :=
  ⟨{ about (insn 0xC7 [] 0x107) (id) with barriers := [(7, { Barrier.reset with peck := 2 })] }, c0, .device 7, alen (insn 0xC7 [] 0x107), by decide +kernel⟩

theorem wit_SemaphoresAndBarriers_4a : ∃ (s : State) (u : Nat),
    (s.bar u).pair = false ∧ (s.bar u).remote = 0 ∧ (s.bar u).held = none ∧ (s.bar u).arrived.toNat < (s.bar u).count.toNat :=
  ⟨{ (device [] id).setEng 0 { Engine.reset with peck := 1, ctxs := [(1, { context with state := .waitBar, wait := .bar 7 false })] } with barriers := [(7, { Barrier.reset with peck := 1, count := 3, arrived := 2 })] }, 7, by decide +kernel⟩

theorem wit_SemaphoresAndBarriers_4b : ∃ (s : State) (u : Nat),
    (s.bar u).pair = false ∧ (s.bar u).remote = 0 ∧ (s.bar u).held = none ∧ (s.bar u).count.toNat ≤ (s.bar u).arrived.toNat ∧ (s.ctx ⟨0, 1⟩).wait = .bar u false :=
  ⟨{ (device [] id).setEng 0 { Engine.reset with peck := 1, ctxs := [(1, { context with state := .waitBar, wait := .bar 7 false })] } with barriers := [(7, { Barrier.reset with peck := 1, count := 3, arrived := 3 })] }, 7, by decide +kernel⟩

/-- A descriptor of 16 bytes of region 2 (R170). -/
def descr (op : CopyOp) : List TWord :=
  let h : TWord := ⟨handle 2, Tag.handle⟩
  match op with
  | .copy => [TWord.int 0x100, h, TWord.int 0, h, TWord.int 64, TWord.int 16, TWord.int 0, TWord.int 0]
  | .copy2d => [TWord.int 0x10100, h, TWord.int 0, h, TWord.int 64, TWord.int 16, TWord.int 1, TWord.int 0]
  | .fill => [TWord.int 0x20100, TWord.zero, TWord.int 0, h, TWord.int 64, TWord.int 16, TWord.int 0, TWord.int 0]

/-- The device about to run cpy, the words `ws` at 0x2000. -/
def copying (ord : Bool) (ws : List TWord) : State :=
  let s := about (insnOrd 0xC0 ord [0, 1, 1] 0) (ints 0 9)
  { s with mem := ws.zipIdx.foldl (fun m e => m.setWord (0x2000 + 8 * e.2) e.1) s.mem }

/-- Whether an answer is the success `x`, with an argument that has decidable equality. -/
def isOk {α : Type} [DecidableEq α] (x : α) (r : Except Status α) : Bool :=
  match r with
  | .ok y => decide (y = x)
  | .error _ => false

theorem ok_of_isOk {α : Type} [DecidableEq α] {x : α} {r : Except Status α} (h : isOk x r = true) : r = .ok x := by
  cases r <;> simp_all [isOk]

/-- Whether an answer is the error `e`. -/
def isErr {α : Type} (e : Status) (r : Except Status α) : Bool :=
  match r with
  | .ok _ => false
  | .error d => decide (d = e)

theorem err_of_isErr {α : Type} {e : Status} {r : Except Status α} (h : isErr e r = true) : r = .error e := by
  cases r <;> simp_all [isErr]

/-- The copy a descriptor at 0x2000 describes. -/
def described (s : State) : Copy :=
  match checkDesc s (descWords s 0x2000) with
  | .ok k => k
  | .error _ => copyOf .copy [] none Loc.none

theorem wit_CopyInstructions_1a : ∀ e ∈ copyRowsOf, ∃ (s : State) (c : CtxId) (ord : Bool) (q : Fin 4) (h : HReg) (a : SReg) (p len : Nat) (k : Copy),
    Issues s c (insnOrd 0xC0 ord [q.val, h.val, a.val] 0) len ∧ DescAt s c h a p ∧ (∀ k, k < 8 → Clean s (p + 8 * k)) ∧
    descOp (descWords (issued s c len) p) = .ok e.2 ∧ descOp (descWords s p) = .ok e.2 ∧ (issued s c len).settle p 64 = issued s c len ∧
    (s.settle p 64).mem = s.mem ∧ checkDesc s (descWords (issued s c len) p) = .ok k ∧ k.dst.kind ≠ .remote ∧ ((s.eng c.eng.val).queue q.val).length < 64 ∧
    (∀ w ∈ (s.eng c.eng.val).queueQ, w.2 ≠ q.val) ∧ ord = true := by
  intro e he
  refine ⟨copying true (descr e.2), c0, true, 0, 1, 1, 0x2000, alen (insnOrd 0xC0 true [0, 1, 1] 0), described (copying true (descr e.2)), ?_, ?_, ?_, ok_of_isOk ?_, ok_of_isOk ?_, ?_, ?_, ok_of_isOk ?_, ?_, ?_, ?_, ?_⟩ <;>
    (revert e; decide +kernel)

theorem wit_CopyInstructions_1b : ∀ e ∈ copyRowsOf, ∃ (s : State) (c : CtxId) (ord : Bool) (q : Fin 4) (h : HReg) (a : SReg) (p len : Nat) (st : Status),
    Issues s c (insnOrd 0xC0 ord [q.val, h.val, a.val] 0) len ∧ DescAt s c h a p ∧ (∀ k, k < 8 → Clean s (p + 8 * k)) ∧
    descOp (descWords (issued s c len) p) = .ok e.2 ∧ descOp (descWords s p) = .ok e.2 ∧ (issued s c len).settle p 64 = issued s c len ∧
    (s.settle p 64).mem = s.mem ∧ checkDesc s (descWords (issued s c len) p) = .error st := by
  intro e he
  refine ⟨copying true ((descr e.2).set 4 (TWord.int 4088)), c0, true, 0, 1, 1, 0x2000, alen (insnOrd 0xC0 true [0, 1, 1] 0), stRights, ?_, ?_, ?_, ok_of_isOk ?_, ok_of_isOk ?_, ?_, ?_, err_of_isErr ?_⟩ <;>
    (revert e; decide +kernel)

theorem wit_CopyInstructions_2a : ∃ ws : List TWord, ws.length = 8 ∧ ∃ w ∈ ws, w.tag = Tag.poison ∨ w.tag = Tag.rsvd :=
  ⟨(descr .fill).set 1 ⟨0, Tag.poison⟩, by decide +kernel⟩

theorem wit_CopyInstructions_2b : ∃ ws : List TWord, ws.length = 8 ∧ (∀ w ∈ ws, w.tag ≠ Tag.poison ∧ w.tag ≠ Tag.rsvd) ∧
    ∃ i ∈ [0, 2, 4, 5, 6, 7], (ws.getD i TWord.zero).tag ≠ Tag.int64 ∧ (ws.getD i TWord.zero).tag ≠ Tag.nil :=
  ⟨(descr .fill).set 5 ⟨0, Tag.handle⟩, by decide +kernel⟩

theorem wit_CopyInstructions_2c : ∃ ws : List TWord, ws.length = 8 ∧ (∀ w ∈ ws, w.tag ≠ Tag.poison ∧ w.tag ≠ Tag.rsvd) ∧
    (∀ i ∈ [0, 2, 4, 5, 6, 7], (ws.getD i TWord.zero).tag = Tag.int64 ∨ (ws.getD i TWord.zero).tag = Tag.nil) ∧
    2 < ((ws.getD 0 TWord.zero).bits.extractLsb' 16 8).toNat :=
  ⟨(descr .fill).set 0 (TWord.int 0x30100), by decide +kernel⟩

theorem wit_CopyInstructions_3a : ∃ (s : State) (c : CtxId) (ord : Bool) (q : Fin 4) (h : HReg) (a : SReg) (p len : Nat) (st : Status),
    Issues s c (insnOrd 0xC0 ord [q.val, h.val, a.val] 0) len ∧ DescAt s c h a p ∧ descOp (descWords (s.settle p 64) p) = .error st ∧
    descOp (descWords ((issued s c len).settle p 64) p) = .error st :=
  ⟨copying false ((descr .fill).set 0 (TWord.int 0x30100)), c0, false, 0, 1, 1, 0x2000, alen (insnOrd 0xC0 false [0, 1, 1] 0), stUndef, by decide +kernel, by decide +kernel,
    err_of_isErr (by decide +kernel), err_of_isErr (by decide +kernel)⟩

/-- A copy of slot 0 waits on queue 1 of engine 0. -/
def copyOpen (s : State) : State := s.updEng 0 fun x => x.setQueue 1 [copyOf .fill (descr .fill) none Loc.none]

theorem wit_CopyInstructions_4a : ∃ (s : State) (c : CtxId) (d : SReg) (q : Fin 4) (len : Nat),
    Issues s c (insn 0xC1 [d.val] q.val) len :=
  ⟨(fun s => s) (about (insn 0xC1 [3] 1) id), c0, 3, 1, alen (insn 0xC1 [3] 1), by decide +kernel⟩

theorem wit_CopyInstructions_4b : ∃ (s : State) (c : CtxId) (_d : SReg) (q : Fin 4) (len : Nat),
    Issues s c (insn 0xC2 [] q.val) len ∧ (∀ x ∈ (s.eng c.eng.val).queue q.val, x.slot ≠ c.slot.val) :=
  ⟨(fun s => s) (about (insn 0xC2 [] 1) id), c0, 3, 1, alen (insn 0xC2 [] 1), by decide +kernel⟩

theorem wit_CopyInstructions_4c : ∃ (s : State) (c : CtxId) (_d : SReg) (q : Fin 4) (len : Nat),
    Issues s c (insn 0xC2 [] q.val) len ∧ (∃ x ∈ (s.eng c.eng.val).queue q.val, x.slot = c.slot.val) :=
  ⟨(copyOpen) (about (insn 0xC2 [] 1) id), c0, 3, 1, alen (insn 0xC2 [] 1), by decide +kernel⟩

theorem wit_CopyInstructions_4d : ∃ (s : State) (c : CtxId) (_d : SReg) (_q : Fin 4) (len : Nat),
    Issues s c (insn 0xCA [] 0) len ∧ copiesOpen s c = false :=
  ⟨(fun s => s) (about (insn 0xCA [] 0) id), c0, 3, 1, alen (insn 0xCA [] 0), by decide +kernel⟩

theorem wit_CopyInstructions_4e : ∃ (s : State) (c : CtxId) (_d : SReg) (_q : Fin 4) (len : Nat),
    Issues s c (insn 0xCA [] 0) len ∧ copiesOpen s c = true :=
  ⟨(copyOpen) (about (insn 0xCA [] 0) id), c0, 3, 1, alen (insn 0xCA [] 0), by decide +kernel⟩

theorem wit_CopyInstructions_5o : ∃ (s : State) (c : CtxId) (a : SReg) (n : BitVec 6) (len : Nat), canIssue s c = true ∧
    decodeAt s c = .ok (insnOrd 0xC3 true [a.val] n.toNat, len) ∧ copiesOpen s c = true :=
  ⟨copyOpen (about (insnOrd 0xC3 true [1] 5) (ints 7 9)), c0, 1, 5, alen (insnOrd 0xC3 true [1] 5), by decide +kernel,
    ok_of_isOk (by decide +kernel), by decide +kernel⟩

theorem wit_CopyInstructions_5a : ∃ (s : State) (c : CtxId),
    (s.ctx c).wait = .order ∧ copiesOpen s c = false :=
  ⟨id (about (insn 0 [] 0) (fun k => { k with state := .waitCopy, wait := .order })), c0, by decide +kernel⟩

theorem wit_CopyInstructions_5b : ∃ (s : State) (c : CtxId),
    (s.ctx c).wait = .done :=
  ⟨id (about (insn 0 [] 0) (fun k => { k with state := .waitCopy, wait := .done })), c0, by decide +kernel⟩

theorem wit_CopyInstructions_5c : ∃ (s : State) (c : CtxId),
    (s.ctx c).wait = .fence ∧ copiesOpen s c = true :=
  ⟨copyOpen (about (insn 0 [] 0) (fun k => { k with state := .waitCopy, wait := .fence })), c0, by decide +kernel⟩

theorem wit_CopyInstructions_5d : ∃ (s : State) (c : CtxId),
    (s.ctx c).wait = .fence ∧ copiesOpen s c = false :=
  ⟨id (about (insn 0 [] 0) (fun k => { k with state := .waitCopy, wait := .fence })), c0, by decide +kernel⟩

/-- The device with a store of its context at the front of the queue. -/
def storing : State := { about (insnOrd 0x67 false (1 :: addrBytes ad0) 0) (ints 7 9) with pending := [.stB c0 false 1 ad0] }

theorem wit_MemoryStaysCanonical_1a : ∃ s t : State, (∀ c ∈ s.pending.head?, ofContext c = true) ∧ s.Inv ∧ step s = .next t ∧
    t.mem.byte 0x2000 = 7 :=
  ⟨storing, goesTo storing (step storing), by decide +kernel, by unfold State.Inv; decide +kernel, next_of_goesOn (by decide +kernel),
    by decide +kernel⟩

theorem wit_RingCommands_1a : ∃ (r : Fin 4) (part : RegPart) (_v : Word) (s : State),
    Ready s ∧ part ≠ .high ∧ (s.ring r.val).en = false :=
  ⟨1, .full, 3, ready id, by decide +kernel⟩

theorem wit_RingCommands_1b : ∃ (r : Fin 4) (part : RegPart) (v : Word) (s : State),
    Ready s ∧ part ≠ .high ∧ (s.ring r.val).pi = v.setWidth 32 :=
  ⟨1, .low, 3, ready (ringAt 1 3 2), by decide +kernel⟩

theorem wit_RingCommands_1c : ∃ (r : Fin 4) (part : RegPart) (_v : Word) (s : State),
    Ready s ∧ part ≠ .high ∧ (s.ring r.val).en = true :=
  ⟨1, .full, 18, ready (ringAt 1 3 2), by decide +kernel⟩

theorem wit_RingCommands_1d : ∃ (r : Fin 4) (part : RegPart) (_v : Word) (s : State),
    Ready s ∧ part ≠ .high ∧ (s.ring r.val).en = true :=
  ⟨1, .full, 19, ready (ringAt 1 3 2), by decide +kernel⟩

theorem wit_RingCommands_1e : ∃ (r : Fin 4) (part : RegPart) (_v : Word) (s : State),
    Ready s ∧ part ≠ .high ∧ (s.ring r.val).en = true :=
  ⟨1, .full, 0x100000004, ready (ringAt 1 3 2), by decide +kernel⟩

theorem wit_RingCommands_3a : ∃ (vf : Fin 256) (r : Fin 16) (part : RegPart) (_v : Word) (p : Nat) (s : State),
    Ready s ∧ part ≠ .high ∧ s.vfPeck vf.val = some p ∧ p ≠ 0 ∧ (s.ring (16 * p + r.val)).en = true :=
  ⟨7, 2, .full, 17, 1, ready (peck1 ∘ ringAt 18 3 2), by decide +kernel⟩

theorem wit_RingCommands_3b : ∃ (vf : Fin 256) (r : Fin 16) (part : RegPart) (_v : Word) (p : Nat) (s : State),
    Ready s ∧ part ≠ .high ∧ s.vfPeck vf.val = some p ∧ p ≠ 0 ∧ (s.ring (16 * p + r.val)).en = true :=
  ⟨7, 2, .full, 2, 1, ready (peck1 ∘ ringAt 18 3 2), by decide +kernel⟩

theorem wit_RingCommands_5a : ∃ (p : Fin 256) (r : Fin 16) (n : BitVec 32) (ns : List (BitVec 32)) (s : State),
    canDispatch s p.val r.val = true ∧ (s.ring (16 * p.val + r.val)).waiting = n :: ns :=
  ⟨1, 2, 2, [], ready (peck1 ∘ ringAt 18 3 2), by decide +kernel⟩

theorem wit_RingCommands_5b : ∃ (p : Fin 256) (r : Fin 16) (n : BitVec 32) (ns : List (BitVec 32)) (s : State),
    canDispatch s p.val r.val = true ∧ (s.ring (16 * p.val + r.val)).waiting = n :: ns ∧ (s.ring 18).word 2 0 = ⟨0x0001_01_00, Tag.nil⟩ :=
  ⟨1, 2, 2, [], ready fun s => (peck1 s).setRing 18 { Ring.reset with en := true, log2 := 4, pi := 3, ci := 2, words := [(16, ⟨0x0001_01_00, Tag.nil⟩)] }, by decide +kernel⟩

theorem wit_RingCommands_5c : ∃ (p : Fin 256) (r : Fin 16) (n : BitVec 32) (ns : List (BitVec 32)) (s : State),
    canDispatch s p.val r.val = true ∧ (s.ring (16 * p.val + r.val)).waiting = n :: ns ∧ ((s.ring 18).word 2 1).tag = Tag.poison :=
  ⟨1, 2, 2, [], ready fun s => (peck1 s).setRing 18 { Ring.reset with en := true, log2 := 4, pi := 3, ci := 2, words := [(16, ⟨0x0001_01_00, Tag.nil⟩), (17, ⟨0, Tag.poison⟩)] }, by decide +kernel⟩

theorem wit_RingCommands_6a : ∃ (vf : Fin 256) (_r : Fin 16) (part : RegPart) (v : Word) (p : Nat) (s : State),
    Ready s ∧ s.vfPeck vf.val = some p ∧ fld (ovr part 0 v) 0 1 = 1 ∧ (s.ring 18).waiting = [2, 3] :=
  ⟨7, 2, .full, 1, 1, ready (peck1 ∘ ringAt 18 4 2), by decide +kernel⟩

theorem wit_RingCommands_7a : ∃ (_r : Fin 4) (part : RegPart) (v : Word) (s : State),
    Ready s ∧ fld (ovr part 0 v) 5 1 = 1 :=
  ⟨2, .full, 0x20, ready (ringAt 2 4 2), by decide +kernel⟩

theorem wit_RingCommands_8a : ∃ (p : Fin 256) (r : Fin 16) (part : RegPart) (v : Word) (s : State),
    Ready s ∧ ((p.val ≠ 0 ∨ (r.val < 4 ∧ fld (ovr part 0 v) 5 1 = 0))) ∧ ringCfgOk s p.val r.val { Ring.reset with log2 := 4, en := true, offset := 5 } = true :=
  ⟨1, 2, .full, 0x514, ready peck1, by decide +kernel⟩

theorem wit_RingCommands_8b : ∃ (p : Fin 256) (r : Fin 16) (part : RegPart) (v : Word) (s : State),
    Ready s ∧ ((p.val ≠ 0 ∨ (r.val < 4 ∧ fld (ovr part 0 v) 5 1 = 0))) ∧ (s.ring (16 * p.val + r.val)).waiting ≠ [] :=
  ⟨1, 2, .full, 0x514, ready (peck1 ∘ ringAt 18 4 2), by decide +kernel⟩

theorem wit_RingCommands_8c : ∃ (p : Fin 256) (r : Fin 16) (part : RegPart) (v : Word) (s : State),
    Ready s ∧ ((p.val ≠ 0 ∨ (r.val < 4 ∧ fld (ovr part 0 v) 5 1 = 0))) :=
  ⟨0, 3, .full, 0x1C, ready id, by decide +kernel⟩

theorem wit_RingCommands_9a : ∃ (vf : Fin 256) (off : Nat) (k : Nat) (j : Nat) (data : List Byte) (p : Nat) (s : State),
    Ready s ∧ ((vf.val = 0 ∧ p = 0 ∨ vf.val ≠ 0 ∧ s.vfPeck vf.val = some p)) ∧ data.length = 8 ∧ off % 8 = 0 ∧ windowSlot s p off = some (k, j) :=
  ⟨7, 0, 18, 0, [1, 2, 3, 4, 5, 6, 7, 8], 1, ready (peck1 ∘ ringAt 18 4 2), by decide +kernel⟩

theorem wit_RingCommands_9b : ∃ (vf : Fin 256) (off : Nat) (k : Nat) (j : Nat) (data : List Byte) (p : Nat) (s : State),
    Ready s ∧ ((vf.val = 0 ∧ p = 0 ∨ vf.val ≠ 0 ∧ s.vfPeck vf.val = some p)) ∧ data.length = 8 ∧ off % 8 = 0 ∧ windowSlot s p off = some (k, j) :=
  ⟨0, 0x8078, 2, 15, [1, 2, 3, 4, 5, 6, 7, 8], 0, ready (ringAt 2 4 2), by decide +kernel⟩

theorem wit_RingCommands_10a : ∃ (vf : Fin 256) (_off : Nat) (_data : List Byte) (s : State),
    Ready s ∧ vf.val = 0 :=
  ⟨0, 0x8078, [1], ready id, by decide +kernel⟩

theorem wit_RingCommands_11a : ∃ (id : Nat) (i : Item) (s : State),
    Request s id 0x0001 i :=
  ⟨5, request 1 0x0001 [] [], asked 1 0x0001 [] [] peck1, by decide +kernel⟩

theorem wit_RingCommands_12a : ∃ (id : Nat) (i : Item) (s : State),
    Request s id 0x0004 i ∧ (i.w 2).toNat = 1 ∧ s.logpi = 2 :=
  ⟨5, request 0 0x0004 [0x4000, 1, 1] [], asked 0 0x0004 [0x4000, 1, 1] [] fun s => (s.logRec ⟨2, 1, 0, 5, 6, 7, 8⟩).logRec ⟨2, 1, 0, 5, 6, 7, 9⟩, by decide +kernel⟩

theorem wit_RingCommands_12b : ∃ (id : Nat) (i : Item) (s : State),
    Request s id 0x0004 i ∧ s.logpi ≤ (i.w 1).toNat :=
  ⟨5, request 0 0x0004 [0x4000, 2, 1] [], asked 0 0x0004 [0x4000, 2, 1] [] fun s => (s.logRec ⟨2, 1, 0, 5, 6, 7, 8⟩).logRec ⟨2, 1, 0, 5, 6, 7, 9⟩, by decide +kernel⟩

theorem wit_SpringAndVectorCommands_1a : ∃ (vf : Fin 256) (_sp : Fin 16) (part : RegPart) (_v : Word) (p : Nat) (s : State),
    Ready s ∧ s.vfPeck vf.val = some p ∧ part ≠ .high :=
  ⟨7, 2, .full, 3, 1, ready fun s => (peck1 s).setSpring 18 { Spring.reset with pi := 5 }, by decide +kernel⟩

theorem wit_SpringAndVectorCommands_2a : ∃ (_sp : Fin 16) (part : RegPart) (_v : Word) (s : State),
    Ready s ∧ part ≠ .high :=
  ⟨2, .low, 3, ready fun s => s.setSpring 2 { Spring.reset with pi := 5 }, by decide +kernel⟩

theorem wit_SpringAndVectorCommands_3a : ∃ (sp : Fin 16) (_part : RegPart) (_v : Word) (s : State),
    Ready s ∧ (s.spring sp.val).en = false :=
  ⟨2, .low, 0x12345, ready id, by decide +kernel⟩

theorem wit_SpringAndVectorCommands_3b : ∃ (sp : Fin 16) (_part : RegPart) (_v : Word) (s : State),
    Ready s ∧ (s.spring sp.val).en = true :=
  ⟨2, .low, 0x12345, ready fun s => s.setSpring 2 { Spring.reset with en := true }, by decide +kernel⟩

theorem wit_SpringAndVectorCommands_4a : ∃ (sp : Fin 16) (_v : Word) (s : State),
    Ready s ∧ (s.spring sp.val).en = false :=
  ⟨2, 0x0001000100030601, ready id, by decide +kernel⟩

theorem wit_SpringAndVectorCommands_4b : ∃ (_sp : Fin 16) (v : Word) (s : State),
    Ready s ∧ fld v 8 5 = 5 :=
  ⟨2, 0x0001000100030501, ready id, by decide +kernel⟩

theorem wit_SpringAndVectorCommands_4c : ∃ (_sp : Fin 16) (v : Word) (s : State),
    Ready s ∧ fld v 0 1 = 0 :=
  ⟨2, 0x0001000100030500, ready id, by decide +kernel⟩

theorem wit_SpringAndVectorCommands_5a : ∃ (p : Fin 256) (sp : Fin 16) (t0 : Nat) (s : State),
    (s.spring (16 * p.val + sp.val)).first = some t0 ∧ t0 + (s.spring (16 * p.val + sp.val)).delay * 1000 ≤ s.time :=
  ⟨1, 2, 100, ready fun s => { (peck1 s).setSpring 18 { Spring.reset with first := some 100, delay := 3 } with time := 3100 }, by decide +kernel⟩

theorem wit_SpringAndVectorCommands_5b : ∃ (p : Fin 256) (sp : Fin 16) (t0 : Nat) (s : State),
    (s.spring (16 * p.val + sp.val)).first = some t0 ∧ t0 + (s.spring (16 * p.val + sp.val)).delay * 1000 ≤ s.time :=
  ⟨0, 2, 100, ready fun s => { (s.setFn 0 { Fn.reset with msixEn := true, bme := true, vecs := [(0, ⟨1, 2, false, false⟩)] }).setSpring 2 { Spring.reset with first := some 100, delay := 3 } with time := 3100 }, by decide +kernel⟩

theorem wit_SpringAndVectorCommands_6a : ∃ (id : Nat) (i : Item) (s : State),
    Request s id 0x0003 i ∧ fld (i.w 0) 8 1 = 0 :=
  ⟨5, request 1 0x0003 [3] [], asked 1 0x0003 [3] [] peck1, by decide +kernel⟩

theorem wit_SpringAndVectorCommands_6b : ∃ (id : Nat) (i : Item) (s : State),
    Request s id 0x0003 i ∧ (i.ref 0).st = stStale :=
  ⟨5, request 1 0x0003 [0x060100000103, 0, 0] [⟨stStale, 0, Loc.none⟩], asked 1 0x0003 [0x060100000103, 0, 0] [⟨stStale, 0, Loc.none⟩] peck1, by decide +kernel⟩

theorem wit_SpringAndVectorCommands_6c : ∃ (id : Nat) (i : Item) (s : State),
    Request s id 0x0003 i ∧ (i.ref 0).st = stOk :=
  ⟨5, request 1 0x0003 [0x060100000103, 0, 0] [⟨stOk, handle 9, hostLoc 2047⟩], asked 1 0x0003 [0x060100000103, 0, 0] [⟨stOk, handle 9, hostLoc 2047⟩] peck1, by decide +kernel⟩

theorem wit_SpringAndVectorCommands_6d : ∃ (id : Nat) (i : Item) (s : State),
    Request s id 0x0003 i ∧ (i.ref 0).loc.len = 2048 :=
  ⟨5, request 1 0x0003 [0x060100000103, 0, 0] [⟨stOk, handle 9, hostLoc 2048⟩], asked 1 0x0003 [0x060100000103, 0, 0] [⟨stOk, handle 9, hostLoc 2048⟩] peck1, by decide +kernel⟩

theorem wit_SpringAndVectorCommands_8a : ∃ (f : Nat) (v : Nat) (_addr : Word) (_data : BitVec 32) (s : State),
    f ≠ 0 ∧ s.pfPeck f = none ∧ (s.fn f).vecs = [(v, ⟨0, 0, true, true⟩)] ∧ (s.fn f).msixEn = true ∧ (s.fn f).fmask = false ∧ (s.fn f).bme = true ∧ (s.fn f).d3 = false :=
  ⟨8, 3, 0x1000, 5, ready fun s => s.setFn 8 { Fn.reset with msixEn := true, bme := true, vecs := [(3, ⟨0, 0, true, true⟩)] }, by decide +kernel⟩

theorem wit_SpringAndVectorCommands_9a : ∃ (part : RegPart) (v : Word) (s : State),
    Ready s ∧ part ≠ .high ∧ fld v 0 11 = 64 :=
  ⟨.full, 0x70040, ready fun s => s.setFn 7 { Fn.reset with enabled := true }, by decide +kernel⟩

theorem wit_SpringAndVectorCommands_9b : ∃ (part : RegPart) (v : Word) (s : State),
    Ready s ∧ part ≠ .high ∧ fld v 0 11 = 63 :=
  ⟨.full, 0x7003F, ready fun s => s.setFn 7 { Fn.reset with enabled := true }, by decide +kernel⟩

theorem wit_ManagerDriver_1a : ∃ (_part : RegPart) (_v : Word) (s : State),
    Ready s ∧ s.attached = true :=
  ⟨.full, 5, ready fun s => { s with attached := true }, by decide +kernel⟩

theorem wit_ManagerDriver_2a : ∃ (part : RegPart) (v : Word) (s : State),
    Ready s ∧ s.attached = false ∧ ((fld (ovr part 0 v) 0 32 = 0 ∨ fld (ovr part 0 v) 0 32 = fld (s.reg rMgrStat) 32 32)) :=
  ⟨.full, 0, ready id, by decide +kernel⟩

theorem wit_ManagerDriver_3a : ∃ (part : RegPart) (v : Word) (s : State),
    Ready s ∧ s.attached = false ∧ fld (ovr part 0 v) 0 32 ≠ 0 ∧ fld (ovr part 0 v) 0 32 ≠ fld (s.reg rMgrStat) 32 32 ∧ fld v 32 1 = 0 :=
  ⟨.full, 9, ready (ringAt 2 4 2), by decide +kernel⟩

theorem wit_ManagerDriver_3b : ∃ (part : RegPart) (v : Word) (s : State),
    Ready s ∧ s.attached = false ∧ fld (ovr part 0 v) 0 32 ≠ 0 ∧ fld (ovr part 0 v) 0 32 ≠ fld (s.reg rMgrStat) 32 32 ∧ fld v 32 1 = 1 :=
  ⟨.full, 0x100000009, ready (ringAt 2 4 2), by decide +kernel⟩

theorem wit_ManagerDriver_4a : ∃ (_part : RegPart) (_v : Word) (s : State),
    Ready s :=
  ⟨.high, 9, ready fun s => { s with attached := true, time := 7 }, by decide +kernel⟩

theorem wit_ManagerDriver_5a : ∃ (part : RegPart) (v : Word) (s : State),
    Ready s ∧ s.attached = true ∧ fld (ovr part 0 v) 0 1 = 1 :=
  ⟨.low, 1, ready fun s => { s with attached := true, time := 7 }, by decide +kernel⟩

theorem wit_ManagerDriver_6a : ∃ (s : State),
    s.attached = true ∧ s.hbeat + fld (s.reg rHbCfg) 0 14 * 1000000 ≤ s.time :=
  ⟨ready fun s => { s with attached := true, time := 10000000000 }, by decide +kernel⟩

theorem wit_ManagerDriver_7a : ∃ (s : State),
    s.attached = true ∧ s.time < s.hbeat + fld (s.reg rHbCfg) 0 14 * 1000000 :=
  ⟨ready fun s => { s with attached := true, time := 9999999 }, by decide +kernel⟩

theorem wit_RingCommands_2a : ∃ (_r : Fin 4) (_v : Word) (s : State),
    Ready s :=
  ⟨1, 3, ready (ringAt 1 3 2), by decide +kernel⟩

theorem wit_RingCommands_4a : ∃ (_vf : Fin 256) (_r : Fin 16) (_v : Word) (s : State),
    Ready s :=
  ⟨7, 2, 3, ready (peck1 ∘ ringAt 18 3 2), by decide +kernel⟩

/-- A read request under tag 4 for function 7. -/
def aRead (host : Bool) (q : Option Nat) : ReadReq := ⟨4, 0, 7, 0x5000, 8, .none, 0, 100, q, host⟩

theorem wit_ReadsAndRouting_1a : ∃ (tag : Nat) (_f : Nat) (_ok : Bool) (_ep : Bool) (_data : List Byte) (s : State),
    (∀ r ∈ s.reads, r.tag ≠ tag) :=
  ⟨4, 7, true, false, [], ready id, by decide +kernel⟩

theorem wit_ReadsAndRouting_2a : ∃ (tag : Nat) (_f : Nat) (t0 : Nat) (_ok : Bool) (_ep : Bool) (_data : List Byte) (r : ReadReq) (s : State),
    s.reads = [r] ∧ r.tag = tag ∧ r.quar = some t0 ∧ s.atsInv = [] :=
  ⟨4, 7, 9, true, false, [], aRead true (some 9), ready fun s => { s with reads := [aRead true (some 9)] }, by decide +kernel⟩

theorem wit_ReadsAndRouting_3a : ∃ (tag : Nat) (_f : Nat) (data : List Byte) (r : ReadReq) (s : State),
    s.reads = [r] ∧ r.tag = tag ∧ r.quar = none ∧ s.atsInv = [] ∧ data.length = r.len :=
  ⟨4, 7, [1, 2, 3, 4, 5, 6, 7, 8], aRead true none, ready fun s => { s with reads := [aRead true none] }, by decide +kernel⟩

theorem wit_ReadsAndRouting_4a : ∃ (tag : Nat) (_f : Nat) (data : List Byte) (r : ReadReq) (s : State),
    s.reads = [r] ∧ r.tag = tag ∧ r.quar = none ∧ s.atsInv = [] ∧ data.length = r.len :=
  ⟨4, 7, [1, 2, 3, 4, 5, 6, 7, 8], aRead true none, ready fun s => { s with reads := [aRead true none] }, by decide +kernel⟩

theorem wit_ReadsAndRouting_5a : ∃ (tag : Nat) (_f : Nat) (_ep : Bool) (_data : List Byte) (r : ReadReq) (s : State),
    s.reads = [r] ∧ r.tag = tag ∧ r.quar = none ∧ s.atsInv = [] :=
  ⟨4, 7, true, [], aRead true none, ready fun s => { s with reads := [aRead true none] }, by decide +kernel⟩

theorem wit_ReadsAndRouting_6a : ∃ (tag : Nat) (r : ReadReq) (s : State),
    s.reads = [r] ∧ r.tag = tag ∧ r.quar = none ∧ s.atsInv = [] ∧ r.host = true ∧ r.sent + (s.fn r.fn).cto * 1000 ≤ s.time :=
  ⟨4, aRead true none, ready fun s => { s with reads := [aRead true none], time := 40000100 }, by decide +kernel⟩

theorem wit_ReadsAndRouting_7a : ∃ (tag : Nat) (t0 : Nat) (r : ReadReq) (s : State),
    s.reads = [r] ∧ r.tag = tag ∧ r.quar = some t0 ∧ t0 ≤ s.time ∧ s.atsInv = [] :=
  ⟨4, 9, aRead true (some 9), ready fun s => { s with reads := [aRead true (some 9)], time := 9 }, by decide +kernel⟩

theorem wit_ReadsAndRouting_8a : ∃ (_f : Nat) (_page : Nat) (_n : Nat) (s : State),
    s.reads = [] ∧ s.atsInv = [] :=
  ⟨7, 5, 1, ready fun s => { s with ats := [(7, 5), (7, 6)] }, by decide +kernel⟩

theorem wit_ReadsAndRouting_9a : ∃ (f : Nat) (page : Nat) (n : Nat) (r : ReadReq) (s : State),
    s.reads = [r] ∧ s.atsInv = [] ∧ r.host = true ∧ r.fn = f ∧ r.quar = none ∧ 0 < r.len ∧ r.len ≤ 4096 ∧ page * 4096 ≤ r.iova.toNat ∧ r.iova.toNat + r.len ≤ (page + n) * 4096 :=
  ⟨7, 5, 1, aRead true none, ready fun s => { s with reads := [aRead true none], ats := [(7, 5), (7, 6)] }, by decide +kernel⟩

/-- Lane group 0 carries two x8 ports, the first UP and downstream. -/
def ports2 (s : State) : State := (s.setReg (rPortCfg 0) 2).setReg (rPortStat 0) 2

theorem wit_ReadsAndRouting_10a : ∃ (port : Fin 64) (_rid : Nat) (_tr : Bool) (_a : Nat) (_n : Nat) (s : State),
    portThere s port.val = true ∧ portUpstream (cfgOf s port.val) (port.val % 4) = false ∧ pcieLink s port.val = 2 :=
  ⟨0, 0x100, false, 0x1000, 8, ready ports2, by decide +kernel⟩

theorem wit_ReadsAndRouting_10b : ∃ (port : Fin 64) (rid : Nat) (tr : Bool) (a : Nat) (n : Nat) (s : State),
    portThere s port.val = true ∧ portUpstream (cfgOf s port.val) (port.val % 4) = false ∧ pcieLink s port.val = 2 ∧ peerRoute s port.val rid tr a n = 67 :=
  ⟨0, 0x100, false, 0x1000, 8, ready fun s => { ports2 s with pcie := { Pcie.reset with acs := [(0, 0x5C)] } }, by decide +kernel⟩

theorem wit_ReadsAndRouting_10c : ∃ (port : Fin 64) (rid : Nat) (tr : Bool) (a : Nat) (n : Nat) (s : State),
    portThere s port.val = true ∧ portUpstream (cfgOf s port.val) (port.val % 4) = false ∧ pcieLink s port.val = 2 ∧ peerRoute s port.val rid tr a n = 1 :=
  ⟨0, 0x100, false, 0x1000, 8, ready fun s => { ports2 s with windows := [(1, 0x1000, 0x2000)], pcie := { Pcie.reset with acs := [(0, 0x58)] } }, by decide +kernel⟩

theorem wit_MereWindow_1a : ∃ (off : Nat) (n : Nat) (s : State),
    0 < n ∧ off + n ≤ 0x20000000 ∧ s.phase ≠ 2 :=
  ⟨0, 3, ready fun s => { s with phase := 1 }, by decide +kernel⟩

theorem wit_MereWindow_2a : ∃ (off : Nat) (s : State),
    Ready s ∧ off < 0x20000000 ∧ bar2Closed s off = true ∧ s.settle (mereBase + off) 1 = s :=
  ⟨0x3C00000, ready id, by decide +kernel⟩

theorem wit_MereWindow_3a : ∃ (off : Nat) (s : State),
    Ready s ∧ off < 0x20000000 ∧ bar2Closed s off = false ∧ s.settle (mereBase + off) 1 = s ∧ s.mem.tagAt (mereBase + off) = Tag.poison :=
  ⟨8, ready fun s => { s with mem := s.mem.setTag (mereBase + 8) Tag.poison }, by decide +kernel⟩

theorem wit_MereWindow_4a : ∃ (off : Nat) (s : State),
    Ready s ∧ off < 0x20000000 ∧ bar2Closed s off = false ∧ s.settle (mereBase + off) 1 = s ∧ s.mem.tagAt (mereBase + off) ≠ Tag.poison ∧ s.mem.tagAt (mereBase + off) ≠ Tag.rsvd :=
  ⟨8, ready fun s => { s with mem := s.mem.setByte (mereBase + 8) 5 }, by decide +kernel⟩

theorem wit_MereWindow_5a : ∃ (off : Nat) (data : List Byte) (s : State),
    Ready s ∧ off + data.length ≤ 0x20000000 ∧ data ≠ [] :=
  ⟨8, [1], ready id, by decide +kernel⟩

theorem wit_MereWindow_6a : ∃ (off : Nat) (data : List Byte) (s : State),
    Ready s ∧ off + 8 ≤ 0x20000000 ∧ off % 8 = 0 ∧ data.length = 8 ∧ bar2Closed s off = true :=
  ⟨0x3C00000, [1, 2, 3, 4, 5, 6, 7, 8], ready id, by decide +kernel⟩

theorem wit_MereWindow_7a : ∃ (off : Nat) (data : List Byte) (s : State),
    Ready s ∧ off + 8 ≤ 0x20000000 ∧ off % 8 = 0 ∧ data.length = 8 ∧ bar2Closed s off = false ∧ s.mem.tagAt (mereBase + off) ≠ Tag.code :=
  ⟨8, [1, 2, 3, 4, 5, 6, 7, 8], ready id, by decide +kernel⟩

theorem wit_PortsAndFences_1a : ∃ (g : Fin 16) (v : Word) (s : State),
    s.reg (rPortCfg g.val) = 0 ∧ fld v 0 3 ≤ 4 ∧ fld v 8 16 = 0 ∧ ((∀ k, k < 4 → pcieLink s (4 * g.val + k) = 0 ∨ 4 * g.val + k ∈ s.pcie.disabled)) :=
  ⟨3, 2, ready id, by decide +kernel⟩

theorem wit_PortsAndFences_2a : ∃ (_g : Fin 16) (v : Word) (_s : State),
    5 ≤ fld v 0 3 :=
  ⟨3, 5, ready id, by decide +kernel⟩

theorem wit_PortsAndFences_3a : ∃ (_vh : Fin 4) (v : Word) (_s : State),
    ((fld v 0 8 = 0 ∨ fld v 16 8 = 0 ∨ 256 < fld v 0 8 + fld v 8 8 ∨ 256 < fld v 16 8 + fld v 24 8)) :=
  ⟨1, 0x00010000, ready id, by decide +kernel⟩

theorem wit_PortsAndFences_4a : ∃ (vh : Fin 4) (v : Word) (s : State),
    1 ≤ fld v 0 8 ∧ 1 ≤ fld v 16 8 ∧ fld v 0 8 + fld v 8 8 ≤ 256 ∧ fld v 16 8 + fld v 24 8 ≤ 256 ∧ (s.fn (if vh.val = 0 then 0 else 512 + vh.val)).enabled = false ∧ (s.fn (if vh.val = 0 then 256 else 516 + vh.val)).enabled = false ∧ s.pecks = [] ∧ ((∀ u : Fin 4, u ≠ vh → fld (s.reg (rVhCfg u.val)) 8 8 = 0 ∧ fld (s.reg (rVhCfg u.val)) 24 8 = 0)) :=
  ⟨1, 0x08010801, ready fun s => s.setReg (rVhCfg 0) 0x00010001, by decide +kernel⟩

theorem wit_PortsAndFences_5a : ∃ (port : Fin 64) (rate : Nat) (width : Nat) (top : Nat) (flit : Bool) (s : State),
    s.pcie.next = [] ∧ portWidth (cfgOf s port.val) (port.val % 4) = some top ∧ portUpstream (cfgOf s port.val) (port.val % 4) = false ∧ pcieLink s port.val = 1 ∧ s.pcie.disabled = [] ∧ s.pcie.refused = false ∧ s.phase = 2 ∧ width ≤ top ∧ rate ≤ 5 ∧ ((flit = true ∨ rate ≤ 4)) :=
  ⟨0, 5, 3, 3, true, ready fun s => (s.setReg (rPortCfg 0) 2).setReg (rPortStat 0) 1, by decide +kernel⟩

theorem wit_PortsAndFences_6a : ∃ (port : Fin 64) (s : State),
    portThere s port.val = true ∧ portUpstream (cfgOf s port.val) (port.val % 4) = false ∧ pcieLink s port.val = 2 :=
  ⟨0, ready ports2, by decide +kernel⟩

theorem wit_PortsAndFences_7a : ∃ (port : Fin 64) (s : State),
    pcieLink s port.val = 3 :=
  ⟨1, ready fun s => s.setReg (rPortStat 0) 0x30000, by decide +kernel⟩

theorem wit_PortsAndFences_8a : ∃ (f : Fin 512) (p : Nat) (s : State),
    0 < f.val ∧ f.val < 256 ∧ s.pfPeck f.val = some p ∧ (s.peck p).state = .active :=
  ⟨7, 1, ready peck1, by decide +kernel⟩

theorem wit_PortsAndFences_9a : ∃ (f : Fin 512) (s : State),
    0 < f.val ∧ f.val < 256 ∧ s.pfPeck f.val = none :=
  ⟨7, ready id, by decide +kernel⟩

theorem wit_PortsAndFences_10a : ∃ (s : State),
    s.attached = true ∧ s.items = [] :=
  ⟨ready fun s => ringAt 2 4 2 { s with attached := true }, by decide +kernel⟩

theorem wit_PortsAndFences_12a : ∃ (s : State),
    s.attached = true :=
  ⟨ready fun s => { s with attached := true }, by decide +kernel⟩

theorem wit_PortsAndFences_16a : ∃ (vh : Fin 4) (s : State),
    upPort s vh.val = none :=
  ⟨1, ready fun s => { s with pcie := { Pcie.reset with up := [(1, 5)] } }, by decide +kernel⟩

theorem wit_PortsAndFences_17a : ∃ (vh : Fin 4) (p : Nat) (s : State),
    (∀ e ∈ s.pcie.up, e.1 ≠ vh.val) ∧ upPort s vh.val = some p ∧ pcieLink s p = 0 ∧ s.pcie.refused = false :=
  ⟨0, 0, ready fun s => s.setReg (rPortCfg 0) 0x101, by decide +kernel⟩

theorem wit_PortsAndFences_14a : ∃ (vh : Fin 4) (_down : Bool) (p : Nat) (s : State),
    upPort s vh.val = some p :=
  ⟨0, true, 0, ready fun s => { s.setReg (rPortCfg 0) 0x101 with attached := true, windows := [(0, 5, 9)] }, by decide +kernel⟩

theorem wit_PortsAndFences_15a : ∃ (vh : Fin 4) (p : Nat) (s : State),
    upPort s vh.val = some p :=
  ⟨0, 0, ready fun s => { s.setReg (rPortCfg 0) 0x101 with attached := true, windows := [(0, 5, 9)] }, by decide +kernel⟩

/-- Peck 1 in a state, with root entries to use. -/
def peckIn (st : PeckState) (s : State) : State := s.setPeck 1 { Peck.reset with state := st, vf0 := 7, roots := 4 }

/-- A manager command of type `t`. -/
def mgr (t : BitVec 16) (b : List Word) : Item := request 0 t b []

/-- A device that holds one manager command. -/
def mgrAsked (t : BitVec 16) (b : List Word) (f : State → State) : State := asked 0 t b [] f

theorem wit_PeckCommands_1a : ∃ (id : Nat) (i : Item) (s : State),
    id = 5 ∧ Request s id 0x0500 i ∧ cmdTurn s i = true :=
  ⟨5, mgr 0x0500 [], mgrAsked 0x0500 [] id, by decide +kernel⟩

theorem wit_PeckCommands_1b : ∃ (id : Nat) (i : Item) (s : State),
    Request s id 0x0507 i ∧ cmdTurn s i = true :=
  ⟨5, mgr 0x0507 [], mgrAsked 0x0507 [] id, by decide +kernel⟩

theorem wit_PeckCommands_1c : ∃ (id : Nat) (i : Item) (s : State),
    Request s id 0x050C i ∧ cmdTurn s i = true :=
  ⟨5, mgr 0x050C [], mgrAsked 0x050C [] id, by decide +kernel⟩

theorem wit_PeckCommands_2a : ∃ (id : Nat) (i : Item) (p : Nat) (s : State),
    PeckCmd s id 0x0500 i p :=
  ⟨5, mgr 0x0500 [1], 1, mgrAsked 0x0500 [1] (peckIn .active), by decide +kernel⟩

theorem wit_PeckCommands_2b : ∃ (id : Nat) (i : Item) (p : Nat) (s : State),
    PeckCmd s id 0x0505 i p :=
  ⟨5, mgr 0x0505 [1], 1, mgrAsked 0x0505 [1] (peckIn .quiesced), by decide +kernel⟩

theorem wit_PeckCommands_2c : ∃ (id : Nat) (i : Item) (p : Nat) (s : State),
    PeckCmd s id 0x0508 i p :=
  ⟨5, mgr 0x0508 [1], 1, mgrAsked 0x0508 [1] (peckIn .active), by decide +kernel⟩

theorem wit_PeckCommands_2d : ∃ (id : Nat) (i : Item) (p : Nat) (s : State),
    PeckCmd s id 0x050B i p :=
  ⟨5, mgr 0x050B [1], 1, mgrAsked 0x050B [1] (peckIn .active), by decide +kernel⟩

theorem wit_PeckCommands_3a : ∃ (id : Nat) (i : Item) (p : Nat) (s : State),
    PeckCmd s id 0x0500 i p ∧ (s.peck p).state = .free ∧ vfOwned s (fld (i.w 0) 8 8) 0 = false :=
  ⟨5, mgr 0x0500 [0x701], 1, mgrAsked 0x0500 [0x701] fun s => s.setReg (rVhCfg 0) 0x00010201, by decide +kernel⟩

theorem wit_PeckCommands_4a : ∃ (id : Nat) (i : Item) (p : Nat) (s : State),
    PeckCmd s id 0x0500 i p ∧ (s.peck p).state = .free ∧ ((∀ e ∈ s.pecks, e.1 ≠ p → e.2.state = .free)) ∧ vfOwned s (fld (i.w 0) 8 8) 0 = true ∧ ((fld (i.w 0) 16 8 = 0 ∨ vfOwned s (fld (i.w 0) 16 8) 16 = true)) :=
  ⟨5, mgr 0x0500 [0x701], 1, mgrAsked 0x0500 [0x701] fun s => s.setReg (rVhCfg 0) 0x00010901, by decide +kernel⟩

theorem wit_PeckCommands_5a : ∃ (id : Nat) (i : Item) (p : Nat) (n : Nat) (s : State),
    PeckCmd s id 0x0501 i p ∧ (s.peck p).state = .quiesced ∧ fld (i.w 0) 8 8 = 1 ∧ (i.w 1).toNat = n ∧ i.w 2 = 1 ∧ n < 196608 ∧ unitPeck s .grains n ≠ p ∧ unitFree s .grains n = true :=
  ⟨5, mgr 0x0501 [0x101, 3, 1], 1, 3, mgrAsked 0x0501 [0x101, 3, 1] (peckIn .quiesced), by decide +kernel⟩

theorem wit_PeckCommands_6a : ∃ (s : State) (n : Nat) (p : Nat),
    p ≠ 0 ∧ unitPeck s .grains n = 0 ∧ (s.peck p).grains.testBit n = false :=
  ⟨ready fun s => { peckIn .quiesced s with mem := s.mem.setByte 0x600000 5 }, 3, 1, by decide +kernel⟩

theorem wit_PeckCommands_7a : ∃ (id : Nat) (i : Item) (p : Nat) (n : Nat) (s : State),
    PeckCmd s id 0x0502 i p ∧ (s.peck p).state = .quiesced ∧ fld (i.w 0) 8 8 = 1 ∧ (i.w 1).toNat = n ∧ i.w 2 = 1 ∧ n < 196608 ∧ unitPeck s .grains n = p :=
  ⟨5, mgr 0x0502 [0x101, 3, 1], 1, 3, mgrAsked 0x0502 [0x101, 3, 1] fun s => s.setPeck 1 { Peck.reset with state := .quiesced, grains := 8 }, by decide +kernel⟩

theorem wit_PeckCommands_7b : ∃ (id : Nat) (i : Item) (p : Nat) (n : Nat) (s : State),
    PeckCmd s id 0x0502 i p ∧ (s.peck p).state = .quiesced ∧ fld (i.w 0) 8 8 = 1 ∧ (i.w 1).toNat = n ∧ i.w 2 = 1 ∧ n < 196608 ∧ unitPeck s .grains n ≠ p :=
  ⟨5, mgr 0x0502 [0x101, 3, 1], 1, 3, mgrAsked 0x0502 [0x101, 3, 1] (peckIn .quiesced), by decide +kernel⟩

theorem wit_PeckCommands_8a : ∃ (id : Nat) (i : Item) (p : Nat) (s : State),
    PeckCmd s id 0x0503 i p ∧ (s.peck p).state = .active ∧ (s.dirWord p (fld (i.w 0) 16 16)).tag ≠ Tag.nil :=
  ⟨5, mgr 0x0503 [0x030101], 1, mgrAsked 0x0503 [0x030101] fun s => { peckIn .active s with mem := s.mem.setTag (dirBase 1 + 24) Tag.handle }, by decide +kernel⟩

theorem wit_PeckCommands_9a : ∃ (id : Nat) (i : Item) (p : Nat) (k : Nat) (s : State),
    PeckCmd s id 0x0503 i p ∧ (s.peck p).state = .active ∧ fld (i.w 0) 8 8 = 1 ∧ (s.dirWord p (fld (i.w 0) 16 16)).tag = Tag.nil ∧ (i.w 1).toNat + (i.w 2).toNat ≤ 2 ^ 64 ∧ fld (i.w 0) 34 1 = 0 ∧ fld (i.w 0) 37 1 = 0 ∧ rootsUsed s p < (s.peck p).roots ∧ freeRoot s = some k :=
  ⟨5, mgr 0x0503 [0x0300030101, 0x5000, 64], 1, 1, mgrAsked 0x0503 [0x0300030101, 0x5000, 64] (peckIn .active), by decide +kernel⟩

theorem wit_PeckCommands_10a : ∃ (id : Nat) (i : Item) (p : Nat) (s : State),
    PeckCmd s id 0x0503 i p ∧ (s.peck p).state = .active ∧ fld (i.w 0) 8 8 = 0 ∧ (s.dirWord p (fld (i.w 0) 16 16)).tag = Tag.nil ∧ rangeExists (i.w 1).toNat (i.w 2).toNat = false :=
  ⟨5, mgr 0x0503 [0x0300030001, 0x7000000000, 64], 1, mgrAsked 0x0503 [0x0300030001, 0x7000000000, 64] (peckIn .active), by decide +kernel⟩

theorem wit_PeckCommands_11a : ∃ (id : Nat) (i : Item) (p : Nat) (s : State),
    PeckCmd s id 0x0504 i p ∧ s.revokes = [] ∧ (s.peck p).state = .active ∧ (s.dirWord p 3).tag = Tag.nil :=
  ⟨5, mgr 0x0504 [0x030001], 1, mgrAsked 0x0504 [0x030001] (peckIn .active), by decide +kernel⟩

theorem wit_PeckCommands_11b : ∃ (id : Nat) (i : Item) (p : Nat) (s : State),
    PeckCmd s id 0x0504 i p ∧ s.revokes = [] ∧ (s.peck p).state = .active ∧ (s.dirWord p 3).tag = Tag.handle :=
  ⟨5, mgr 0x0504 [0x030001], 1, mgrAsked 0x0504 [0x030001] fun s => ((peckIn .active s).setRegion 2 (region 0x2000 64)).putWord (dirBase 1 + 24) ⟨handle 2, Tag.handle⟩, by decide +kernel⟩

theorem wit_PeckCommands_13a : ∃ (id : Nat) (i : Item) (_r : Region) (s : State),
    Request s id 0x0510 i ∧ i.fn ≠ 0 ∧ s.revokes = [] ∧ s.settle (dirBase i.fn + 8 * fld (i.w 0) 0 12) 8 = s ∧ (s.dirWord i.fn 3).tag = Tag.handle ∧ (i.ref 0).st = stOk :=
  ⟨5, request 1 0x0510 [3, 0, 8] [⟨stOk, handle 2, locOf (handle 2) (region 0x2000 64)⟩], region 0x2000 64, asked 1 0x0510 [3, 0, 8] [⟨stOk, handle 2, locOf (handle 2) (region 0x2000 64)⟩] fun s => ((peckIn .active s).setRegion 2 (region 0x2000 64)).putWord (dirBase 1 + 24) ⟨handle 2, Tag.handle⟩, by decide +kernel⟩

theorem wit_PeckCommands_14a : ∃ (id : Nat) (k : Nat) (i : Item) (_r : Region) (s : State),
    Request s id 0x0511 i ∧ s.revokes = [] ∧ s.settle (dirBase i.fn + 8 * fld (i.w 0) 0 12) 8 = s ∧ (s.dirWord i.fn 3).tag = Tag.handle ∧ freeRoot s = some k :=
  ⟨5, 1, request 1 0x0511 [0x0F00040003, 8, 16] [], region 0x2000 64, asked 1 0x0511 [0x0F00040003, 8, 16] [] fun s => ((peckIn .active s).setRegion 2 (region 0x2000 64)).putWord (dirBase 1 + 24) ⟨handle 2, Tag.handle⟩, by decide +kernel⟩

theorem wit_PeckCommands_15a : ∃ (id : Nat) (i : Item) (s : State),
    Request s id 0x0512 i ∧ s.revokes = [] ∧ s.settle (dirBase i.fn + 8 * fld (i.w 0) 0 12) 8 = s ∧ (s.dirWord i.fn 3).tag = Tag.nil :=
  ⟨5, request 1 0x0512 [3] [], asked 1 0x0512 [3] [] (peckIn .active), by decide +kernel⟩

theorem wit_PeckCommands_15b : ∃ (id : Nat) (i : Item) (s : State),
    Request s id 0x0512 i ∧ s.revokes = [] ∧ s.settle (dirBase i.fn + 8 * fld (i.w 0) 0 12) 8 = s ∧ (s.dirWord i.fn 3).tag = Tag.handle :=
  ⟨5, request 1 0x0512 [3] [], asked 1 0x0512 [3] [] fun s => ((peckIn .active s).setRegion 2 (region 0x2000 64)).putWord (dirBase 1 + 24) ⟨handle 2, Tag.handle⟩, by decide +kernel⟩

theorem wit_PeckTransitions_1a : ∃ (id : Nat) (i : Item) (p : Nat) (s : State),
    PeckCmd s id 0x0505 i p ∧ (s.peck p).state = .active :=
  ⟨5, mgr 0x0505 [0xA00000001], 1, mgrAsked 0x0505 [0xA00000001] (peckIn .active), by decide +kernel⟩

theorem wit_PeckTransitions_2a : ∃ (p : Fin 256) (id : Nat) (t0 : Nat) (i : Item) (s : State),
    (s.peck p.val).state = .quiescing ∧ drained s p.val = true ∧ (s.peck p.val).quiesce = some (id, t0) ∧ s.item id = some i :=
  ⟨1, 5, 9, mgr 0x0505 [1], mgrAsked 0x0505 [1] fun s => s.setPeck 1 { Peck.reset with state := .quiescing, quiesce := some (5, 9) }, by decide +kernel⟩

theorem wit_PeckTransitions_3a : ∃ (p : Fin 256) (s : State),
    (s.peck p.val).state ≠ .quiescing :=
  ⟨1, ready (peckIn .active), by decide +kernel⟩

theorem wit_PeckTransitions_4a : ∃ (p : Fin 256) (id : Nat) (t0 : Nat) (s : State),
    (s.peck p.val).state = .quiescing ∧ (s.peck p.val).quiesce = some (id, t0) :=
  ⟨1, 5, 0, mgrAsked 0x0505 [1] fun s => s.setPeck 1 { Peck.reset with state := .quiescing, quiesce := some (5, 0) }, by decide +kernel⟩

theorem wit_PeckTransitions_5a : ∃ (id : Nat) (i : Item) (p : Nat) (s : State),
    PeckCmd s id 0x0506 i p ∧ (s.peck p).state = .quiesced :=
  ⟨5, mgr 0x0506 [1], 1, mgrAsked 0x0506 [1] (peckIn .quiesced), by decide +kernel⟩

theorem wit_PeckTransitions_6a : ∃ (id : Nat) (i : Item) (p : Nat) (s : State),
    PeckCmd s id 0x0507 i p ∧ (s.peck p).state = .active :=
  ⟨5, mgr 0x0507 [1], 1, mgrAsked 0x0507 [1] (peckIn .active), by decide +kernel⟩

theorem wit_PeckTransitions_7a : ∃ (id : Nat) (i : Item) (p : Nat) (s : State),
    PeckCmd s id 0x0508 i p ∧ (s.peck p).state = .disabled :=
  ⟨5, mgr 0x0508 [1], 1, mgrAsked 0x0508 [1] (peckIn .disabled), by decide +kernel⟩

theorem wit_PeckTransitions_8a : ∃ (id : Nat) (i : Item) (p : Nat) (s : State),
    PeckCmd s id 0x0509 i p ∧ (s.peck p).state = .quiesced :=
  ⟨5, mgr 0x0509 [1], 1, mgrAsked 0x0509 [1] (peckIn .quiesced), by decide +kernel⟩

theorem wit_PeckTransitions_10a : ∃ (p : Fin 256) (s : State),
    (s.peck p.val).state = .resetting :=
  ⟨1, ready (peckIn .resetting), by decide +kernel⟩

theorem wit_PeckTransitions_11a : ∃ (p : Fin 256) (s : State),
    (s.peck p.val).state = .removing :=
  ⟨1, ready (peckIn .removing), by decide +kernel⟩

theorem wit_PeckTransitions_12a : ∃ (p : Fin 256) (s : State),
    (s.peck p.val).state = .active :=
  ⟨1, ready (peckIn .active), by decide +kernel⟩

theorem wit_PeckTransitions_14a : ∃ (id : Nat) (i : Item) (p : Nat) (s : State),
    PeckCmd s id 0x050A i p ∧ (s.peck p).state = .active ∧ fld (i.w 0) 8 8 = 0 :=
  ⟨5, mgr 0x050A [0xC00000001, 0x8000], 1, mgrAsked 0x050A [0xC00000001, 0x8000] (peckIn .active), by decide +kernel⟩

theorem wit_PeckTransitions_15a : ∃ (id : Nat) (i : Item) (p : Nat) (s : State),
    PeckCmd s id 0x050A i p ∧ (s.peck p).state = .active ∧ fld (i.w 0) 8 8 = 1 :=
  ⟨5, mgr 0x050A [0x101], 1, mgrAsked 0x050A [0x101] (peckIn .active), by decide +kernel⟩

theorem wit_PeckTransitions_16a : ∃ (p : Fin 256) (_v : Word) (s : State),
    Ready s ∧ p.val ≠ 0 :=
  ⟨1, 0x700000005, ready (peckIn .active), by decide +kernel⟩

theorem wit_PeckServices_1a : ∃ (id : Nat) (i : Item) (s : State),
    Request s id 0x050D i ∧ i.fn = 0 ∧ cmdTurn s i = true :=
  ⟨5, mgr 0x050D [1], mgrAsked 0x050D [1] (peckIn .active), by decide +kernel⟩

theorem wit_PeckServices_2a : ∃ (id : Nat) (i : Item) (s : State),
    Request s id 0x050D i ∧ i.fn ≠ 0 ∧ ((i.ref 0).check [.host] [rightWr] ≠ stOk) :=
  ⟨5, request 1 0x050D [0, 3] [⟨stStale, 0, Loc.none⟩], asked 1 0x050D [0, 3] [⟨stStale, 0, Loc.none⟩] (peckIn .active), by decide +kernel⟩

theorem wit_PeckServices_3a : ∃ (id : Nat) (i : Item) (p : Nat) (_pub : List Byte) (_st : BitVec 16) (s : State),
    PeckCmd s id 0x050B i p ∧ (s.peck p).state = .quiesced ∧ ringsEmpty s p = true :=
  ⟨5, mgr 0x050B [1], 1, [], stRights, mgrAsked 0x050B [1] (peckIn .quiesced), by decide +kernel⟩

theorem wit_PeckServices_3b : ∃ (id : Nat) (i : Item) (p : Nat) (pub : List Byte) (_st : BitVec 16) (s : State),
    PeckCmd s id 0x050B i p ∧ (s.peck p).state = .quiesced ∧ ringsEmpty s p = true ∧ onP384 (recNum pub 0 48) (recNum pub 48 48) = false :=
  ⟨5, mgr 0x050B [1], 1, [], stOk, mgrAsked 0x050B [1] (peckIn .quiesced), by decide +kernel⟩

theorem wit_PeckServices_4a : ∃ (id : Nat) (i : Item) (p : Nat) (_data : List Byte) (_pub : List Byte) (s : State),
    PeckCmd s id 0x050C i p ∧ (s.peck p).state = .quiesced ∧ ringsEmpty s p = true ∧ rootsUsed s p = 0 :=
  ⟨5, mgr 0x050C [1], 1, [], [], mgrAsked 0x050C [1] (peckIn .quiesced), by decide +kernel⟩

theorem wit_PeckServices_5a : ∃ (s : State),
    s.time / 60000000000 ≤ s.minute :=
  ⟨ready id, by decide +kernel⟩

theorem wit_PeckServices_6a : ∃ (s : State),
    s.minute < s.time / 60000000000 :=
  ⟨ready fun s => { peckIn .active s with time := 60000000000 }, by decide +kernel⟩

theorem wit_PeckServices_7a : ∃ (_v : Word) (s : State),
    Ready s ∧ s.mtr = [] :=
  ⟨0x500000003, ready id, by decide +kernel⟩

theorem wit_PeckServices_8a : ∃ (id : Nat) (i : Item) (j : Item) (s : State),
    Request s id 0x0002 i ∧ (s.items.find? fun j => j.fn == i.fn && j.ring == fld (i.w 1) 0 4 && j.tag == i.w 0 && j.id != i.id) = some j :=
  ⟨5, request 1 0x0002 [88, 1] [], { request 1 0x0403 [] [] with id := 4, tag := 88 }, ready fun s => { peckIn .active s with items := [request 1 0x0002 [88, 1] [], { request 1 0x0403 [] [] with id := 4, tag := 88 }] }, by decide +kernel⟩

theorem wit_PeckServices_9a : ∃ (s : State) (j : Item),
    j.typ = 0x0403#16 ∧ s.msgs = [] ∧ j.phase = .committed :=
  ⟨ready id, { request 1 0x0403 [] [] with phase := .committed }, by decide +kernel⟩

theorem wit_PeckServices_10a : ∃ (id : Nat) (i : Item) (n : BitVec 32) (s : State),
    Request s id 0x0002 i ∧ (s.items.find? fun j => j.fn == i.fn && j.ring == fld (i.w 1) 0 4 && j.tag == i.w 0 && j.id != i.id) = none ∧ ((s.ring 17).waiting.find? fun n => (itemOf i.fn 1 (s.ring 17) n).tag == i.w 0) = some n :=
  ⟨5, request 1 0x0002 [88, 1] [], 2, asked 1 0x0002 [88, 1] [] fun s => (peckIn .active s).setRing 17 { Ring.reset with en := true, log2 := 4, pi := 4, ci := 2, words := [(17, ⟨88, Tag.nil⟩)] }, by decide +kernel⟩

theorem wit_PeckServices_11a : ∃ (e : Fin 128) (v : Word) (s : State),
    Ready s ∧ v.getLsbD 0 = true ∧ (s.eng e.val).resetting = false ∧ (s.peck (s.eng e.val).peck.toNat).state = .active :=
  ⟨0, 1, ready fun s => peckIn .active (s.setEng 0 { Engine.reset with peck := 1 }), by decide +kernel⟩

theorem wit_PeckServices_12a : ∃ (e : Fin 128) (s : State),
    (s.eng e.val).resetting = true ∧ (s.peck (s.eng e.val).peck.toNat).state = .active ∧ fld (s.reg (rIntgPool e.val)) 55 1 = 0 ∧ (s.eng e.val).poolBad = false ∧ s.rcv.escals = [] :=
  ⟨0, ready fun s => peckIn .active (s.setEng 0 { Engine.reset with peck := 1, resetting := true }), by decide +kernel⟩

theorem wit_PeckServices_13a : ∃ (_u : Fin 384) (v : Word) (s : State),
    Ready s ∧ fld v 0 8 ≠ 0 ∧ (s.peck (fld v 0 8)).state = .free :=
  ⟨0, 0x10001, ready id, by decide +kernel⟩

theorem wit_PeckServices_14a : ∃ (u : Fin 384) (v : Word) (s : State),
    Ready s ∧ (s.peck (fld v 0 8)).state = .active ∧ fld v 0 8 ≠ (s.bar u.val).peck.toNat ∧ s.pair.joined = false ∧ s.engines = [] ∧ 1 ≤ fld v 16 12 ∧ fld v 16 12 ≤ (if u.val < 256 then (if v.getLsbD 8 then 2048 else 1024) else 128) :=
  ⟨0, 0x8000101, ready (peckIn .active), by decide +kernel⟩

theorem wit_PeckServices_14b : ∃ (u : Fin 384) (v : Word) (s : State),
    Ready s ∧ (s.peck (fld v 0 8)).state = .active ∧ fld v 0 8 ≠ (s.bar u.val).peck.toNat ∧ s.pair.joined = false ∧ s.engines = [] ∧ 1 ≤ fld v 16 12 ∧ fld v 16 12 ≤ (if u.val < 256 then (if v.getLsbD 8 then 2048 else 1024) else 128) :=
  ⟨256, 0x800001, ready (peckIn .active), by decide +kernel⟩

theorem wit_PeckCommands_11c : ∃ (id : Nat) (i : Item) (p : Nat) (s : State),
    PeckCmd s id 0x0504 i p ∧ s.revokes = [] ∧ (s.peck p).state = .active ∧ (s.dirWord p 3).tag = Tag.handle ∧ s.current (s.dirWord p 3).bits = none :=
  ⟨5, mgr 0x0504 [0x030001], 1, mgrAsked 0x0504 [0x030001] fun s => (peckIn .active s).putWord (dirBase 1 + 24) ⟨handle 2, Tag.handle⟩, by decide +kernel⟩

theorem wit_PeckCommands_12a : ∃ (id : Nat) (p : Nat) (dir : Nat) (es : List (Nat × BitVec 16)) (i : Item) (s : State),
    s.revokes = [⟨id, p, dir, es⟩] ∧ s.item id = some i ∧ es.any (entryInUse s) = false :=
  ⟨5, 1, 3, [(2, 0)], mgr 0x0504 [0x030001], mgrAsked 0x0504 [0x030001] fun s => { peckIn .active s with revokes := [⟨5, 1, 3, [(2, 0)]⟩] }, by decide +kernel⟩

theorem wit_PeckCommands_15c : ∃ (id : Nat) (i : Item) (s : State),
    Request s id 0x0512 i ∧ s.revokes = [] ∧ s.settle (dirBase i.fn + 8 * fld (i.w 0) 0 12) 8 = s ∧ (s.dirWord i.fn 3).tag = Tag.handle ∧ s.current (s.dirWord i.fn 3).bits = none :=
  ⟨5, request 1 0x0512 [3] [], asked 1 0x0512 [3] [] fun s => (peckIn .active s).putWord (dirBase 1 + 24) ⟨handle 2, Tag.handle⟩, by decide +kernel⟩

theorem wit_PeckCommands_15d : ∃ (id : Nat) (i : Item) (s : State),
    Request s id 0x0512 i ∧ s.revokes = [] ∧ s.settle (dirBase i.fn + 8 * fld (i.w 0) 0 12) 8 = s ∧ (s.dirWord i.fn 3).tag = Tag.handle ∧ (s.region 2).parent = some 1 ∧ isRoot 2 = true :=
  ⟨5, request 1 0x0512 [3] [], asked 1 0x0512 [3] [] fun s => ((peckIn .active s).setRegion 2 { region 0x2000 64 with parent := some 1 }).putWord (dirBase 1 + 24) ⟨handle 2, Tag.handle⟩, by decide +kernel⟩

/-- The key of slot 3. -/
def theKey : List Byte := (List.range 32).map (BitVec.ofNat 8)

/-- SA 0 of Peck 1 under key slot 3, armed region 2, and port 0 up. -/
def fabric (s : State) : State :=
  let s := (((peckIn .active s).updPeck 1 fun x => { x with trk := 4, cache := 4, keys := 8 }).setRegion 2 (region 0x2000 64)).setArm 2 ⟨0, 7, Tag.nil⟩
  let s := ((s.setReg (rSaKey 0) 0x12003).setReg (rSaId 0) 5).setKey 3 { KeySlot.reset with state := .loaded, peck := 1, key := theKey }
  (s.setPort 0 { Port.reset with link := 2 }).setReg (rWymPort 0) 1

/-- A packet of a type for the device of the tests, without its GCM tag. -/
def pkt (typ : BitVec 8) (pay : List Byte) (spec : Word) : Pkt :=
  { src := 9, dst := 0, dscp := 0, vlan := none, sport := 0xC000, dport := 7214, frame := true, ver := 0x10, typ := typ, flags := 0, path := 0, spi := 5,
    sid := 0, sendts := 3, msgid := 4, nonce := 0, rkey := 2, rgen := 0, ordgrp := 0, roff := 0, msglen := 8, pidx := 0,
    plen := BitVec.ofNat 16 pay.length, spec := spec, ext := none, payload := pay, tag := List.replicate 16 0 }

/-- A packet with the tag that the key gives it. -/
def sealed (p : Pkt) : Pkt := { p with tag := (sealPkt theKey p).2 }

def eight : List Byte := [1, 2, 3, 4, 5, 6, 7, 8]

/-- A tracker of message 4. -/
def trkOf (bits : Nat) (d : Option Nat) : Trk := ⟨9, 4, 1, 1, bits, 0, d, 0, some 0, pkt 1 eight 10, 0, 0⟩

theorem wit_PacketsDropped_1a : ∃ (_port : Fin 16) (p : Pkt) (s : State),
    p.typ.toNat = 1 ∧ portUp s 0 = false :=
  ⟨0, sealed (pkt 1 eight 10), ready id, by decide +kernel⟩

theorem wit_PacketsDropped_1b : ∃ (_port : Fin 16) (p : Pkt) (s : State),
    p.typ.toNat = 2 ∧ portUp s 0 = true ∧ p.dst = 1 :=
  ⟨0, sealed { pkt 2 eight 10 with dst := 1 }, ready fabric, by decide +kernel⟩

theorem wit_PacketsDropped_1c : ∃ (_port : Fin 16) (p : Pkt) (s : State),
    p.typ.toNat = 3 ∧ portUp s 0 = true ∧ p.ver = 0x20 :=
  ⟨0, sealed { pkt 3 eight 10 with ver := 0x20 }, ready fabric, by decide +kernel⟩

theorem wit_PacketsDropped_1d : ∃ (_port : Fin 16) (p : Pkt) (s : State),
    p.typ.toNat = 7 ∧ portUp s 0 = true ∧ saBySpi s p.spi.toNat = none :=
  ⟨0, sealed { pkt 7 [] 0 with spi := 6 }, ready fabric, by decide +kernel⟩

theorem wit_PacketsDropped_1e : ∃ (_port : Fin 16) (p : Pkt) (s : State),
    p.typ.toNat = 9 ∧ TakenUp s 0 p ∧ p.tag ≠ (sealPkt (s.key 3).key p).2 :=
  ⟨0, pkt 9 [] 0, ready fabric, by decide +kernel⟩

theorem wit_PacketsDropped_1f : ∃ (_port : Fin 16) (p : Pkt) (s : State),
    p.typ.toNat = 1 ∧ portUp s 0 = true ∧ p.dport = 1 :=
  ⟨0, sealed { pkt 1 eight 10 with dport := 1 }, ready fabric, by decide +kernel⟩

theorem wit_PacketsDropped_2a : ∃ (port : Fin 16) (p : Pkt) (s : State),
    TakenUp s port.val p ∧ pktBad p = true :=
  ⟨0, sealed { pkt 3 eight 10 with ver := 0x20 }, ready fabric, by decide +kernel⟩

theorem wit_PacketsDropped_3a : ∃ (_port : Fin 16) (p : Pkt) (_s : State),
    pktBad p = false :=
  ⟨0, sealed (pkt 3 eight 10), ready fabric, by decide +kernel⟩

theorem wit_PacketsReceived_1a : ∃ (port : Fin 16) (p : Pkt) (sa : Nat) (_t0 : Trk) (s : State),
    Arrives s port.val p 1 sa ∧ Unpoliced s port.val (saPeck (counted s port.val) sa) ∧ (s.trk 0 p.src p.msgid).isSome = true :=
  ⟨0, sealed (pkt 1 eight 10), 0, trkOf 1 (some 0), ready fun s => (fabric s).setInst 0 { Inst.reset with trks := [trkOf 1 (some 0)] }, by decide +kernel⟩

theorem wit_PacketsReceived_2a : ∃ (port : Fin 16) (p : Pkt) (sa : Nat) (_st : Status) (s : State),
    Arrives s port.val p 1 sa ∧ Unpoliced s port.val (saPeck (counted s port.val) sa) ∧ s.arm p.rkey.toNat = none :=
  ⟨0, sealed { pkt 1 eight 10 with rkey := 3 }, 0, stStale, ready fabric, by decide +kernel⟩

theorem wit_PacketsReceived_3a : ∃ (port : Fin 16) (p : Pkt) (sa : Nat) (_r : Region) (s : State),
    Arrives s port.val p 1 sa ∧ Unpoliced s port.val (saPeck (counted s port.val) sa) ∧ p.ext = none ∧ p.roff = 56 :=
  ⟨0, sealed { pkt 1 eight 10 with roff := 56 }, 0, region 0x2000 64, ready fabric, by decide +kernel⟩

theorem wit_PacketsReceived_4a : ∃ (s : State) (_sa : Nat) (p : Pkt) (_right : Nat) (_shape : Bool) (a : Arm),
    s.arm p.rkey.toNat = some a ∧ (s.region 2).gen ≠ p.rgen :=
  ⟨ready fabric, 0, sealed { pkt 1 eight 10 with rgen := 1 }, 1, true, ⟨0, 7, Tag.nil⟩, by decide +kernel⟩

theorem wit_PacketsReceived_4b : ∃ (s : State) (_sa : Nat) (p : Pkt) (_right : Nat) (_shape : Bool) (a : Arm),
    s.arm p.rkey.toNat = some a ∧ p.roff.toNat + p.msglen.toNat = 65 :=
  ⟨ready fabric, 0, sealed { pkt 1 eight 10 with roff := 57 }, 1, true, ⟨0, 7, Tag.nil⟩, by decide +kernel⟩

theorem wit_PacketsReceived_4c : ∃ (s : State) (_sa : Nat) (p : Pkt) (_right : Nat) (_shape : Bool) (a : Arm),
    s.arm p.rkey.toNat = some a ∧ p.roff.toNat + p.msglen.toNat = 64 :=
  ⟨ready fabric, 0, sealed { pkt 1 eight 10 with roff := 56 }, 1, true, ⟨0, 7, Tag.nil⟩, by decide +kernel⟩

theorem wit_PacketsReceived_5a : ∃ (port : Fin 16) (p : Pkt) (sa : Nat) (s : State),
    Arrives s port.val p 2 sa ∧ Unpoliced s port.val (saPeck (counted s port.val) sa) ∧ p.ext = none ∧ (s.ep 2).posts = [] :=
  ⟨0, sealed (pkt 2 eight 10), 0, ready fun s => (fabric s).setEp 2 { Endpoint.reset with peck := 1 }, by decide +kernel⟩

theorem wit_PacketsReceived_6a : ∃ (port : Fin 16) (p : Pkt) (sa : Nat) (b : Post) (rest : List Post) (s : State),
    Arrives s port.val p 2 sa ∧ Unpoliced s port.val (saPeck (counted s port.val) sa) ∧ p.ext = none ∧ (s.ep 2).posts = b :: rest :=
  ⟨0, sealed (pkt 2 eight 10), 0, ⟨locOf (handle 2) (region 0x2000 64), 0, 8, 77, Tag.nil, 3⟩, [], ready fun s => (fabric s).setEp 2 { Endpoint.reset with peck := 1, posts := [⟨locOf (handle 2) (region 0x2000 64), 0, 8, 77, Tag.nil, 3⟩] }, by decide +kernel⟩

theorem wit_PacketsReceived_7a : ∃ (port : Fin 16) (p : Pkt) (sa : Nat) (c : CacheEnt) (st : Status) (old : Word) (s : State),
    Arrives s port.val p 5 sa ∧ Unpoliced s port.val (saPeck (counted s port.val) sa) ∧ (s.cached 0 p.src p.msgid) = some c ∧ c.kind = .atomic st old :=
  ⟨0, sealed (pkt 5 (eight ++ eight) 0), 0, ⟨9, 4, 1, 0, .atomic stOk 12⟩, stOk, 12, ready fun s => (fabric s).setInst 0 { Inst.reset with cache := [⟨9, 4, 1, 0, .atomic stOk 12⟩] }, by decide +kernel⟩

theorem wit_PacketsReceived_8a : ∃ (port : Fin 16) (p : Pkt) (sa : Nat) (_r : Region) (s : State),
    Arrives s port.val p 5 sa ∧ Unpoliced s port.val (saPeck (counted s port.val) sa) ∧ (s.cached 0 p.src p.msgid) = none :=
  ⟨0, sealed (pkt 5 (eight ++ eight) 0), 0, region 0x2000 64, ready fabric, by decide +kernel⟩

theorem wit_PacketsReceived_9a : ∃ (s : State) (_r : Region) (p : Pkt) (old : Word),
    fld p.spec 0 8 = 6 ∧ s.mem.word 0x2000 = TWord.int old :=
  ⟨ready fun s => { s with mem := s.mem.setWord 0x2000 (TWord.int 12) }, region 0x2000 64, sealed (pkt 5 (eight ++ eight) 6), 12, by decide +kernel⟩

theorem wit_PacketsReceived_9b : ∃ (s : State) (_r : Region) (p : Pkt) (old : Word),
    fld p.spec 0 8 = 0 ∧ s.mem.word 0x2000 = TWord.int old :=
  ⟨ready fun s => { s with mem := s.mem.setWord 0x2000 (TWord.int 12) }, region 0x2000 64, sealed (pkt 5 (eight ++ eight) 0), 12, by decide +kernel⟩

theorem wit_PacketsReceived_10a : ∃ (port : Fin 16) (p : Pkt) (sa : Nat) (_q : Nat) (_r : Region) (s : State),
    Arrives s port.val p 3 sa ∧ Unpoliced s port.val (saPeck (counted s port.val) sa) ∧ fld (s.reg (rSchQ 0 3)) 0 16 = 0x101 :=
  ⟨0, sealed (pkt 3 [1, 0, 0, 0, 0, 0, 0, 0, 0, 0, 0, 0, 0, 0, 0, 0] 10), 0, 3, region 0x2000 64, ready fun s => (fabric s).setReg (rSchQ 0 3) 0x10101, by decide +kernel⟩

theorem wit_PacketsReceived_11a : ∃ (port : Fin 16) (p : Pkt) (sa : Nat) (_r : Region) (s : State),
    Arrives s port.val p 3 sa ∧ Unpoliced s port.val (saPeck (counted s port.val) sa) :=
  ⟨0, sealed (pkt 3 [1, 0, 0, 0, 0, 0, 0, 0, 0, 0, 0, 0, 0, 0, 0, 0] 10), 0, region 0x2000 64, ready fabric, by decide +kernel⟩

theorem wit_PacketsReceived_12a : ∃ (port : Fin 16) (p : Pkt) (sa : Nat) (s : State),
    Arrives s port.val p 9 sa ∧ s.trk (port.val / 4) p.src p.msgid = none :=
  ⟨0, sealed (pkt 9 [] 0), 0, ready fabric, by decide +kernel⟩

/-- A message of instance 0 to address 9 in flight. -/
def msg (kind : MsgKind) : Msg :=
  { key := 6, inst := 0, dealer := 0, kind := kind, peck := 1, sa := 0, queue := 3, dst := 9, rkey := 0, ordgrp := 0, roff := 0, len := 8, psize := 1024, wr := none,
    sealed := false, held := false, coll := none, user := .item 5, off := 0, src := .none, begun := true, paths := [0], msgid := some 4, t0 := some 0, acked := 0,
    pkts := [(0, ⟨.flight 0, 0, 0, false, 0⟩)] }

theorem wit_AnswersReceived_1a : ∃ (port : Fin 16) (p : Pkt) (sa : Nat) (s : State),
    Arrives s port.val p 4 sa ∧ Unpoliced s port.val (saPeck (counted s port.val) sa) ∧ s.msgs = [] :=
  ⟨0, sealed (pkt 4 eight 10), 0, ready fabric, by decide +kernel⟩

theorem wit_AnswersReceived_2a : ∃ (port : Fin 16) (p : Pkt) (sa : Nat) (s : State),
    Arrives s port.val p 6 sa ∧ s.msgs = [] :=
  ⟨0, sealed (pkt 6 eight 10), 0, ready fabric, by decide +kernel⟩

theorem wit_AnswersReceived_3a : ∃ (port : Fin 16) (p : Pkt) (sa : Nat) (m : Msg) (s : State),
    Arrives s port.val p 7 sa ∧ answered (counted s port.val) port.val p = some m :=
  ⟨0, sealed { pkt 7 [] 0 with roff := 1 }, 0, msg .write, ready fun s => { fabric s with msgs := [msg .write] }, by decide +kernel⟩

theorem wit_AnswersReceived_4a : ∃ (port : Fin 16) (p : Pkt) (sa : Nat) (m : Msg) (s : State),
    Arrives s port.val p 8 sa ∧ p.flags.getLsbD 4 = false ∧ s.msgs = [m] :=
  ⟨0, sealed (pkt 8 [] 0x1234), 0, msg .write, ready fun s => { fabric s with msgs := [msg .write] }, by decide +kernel⟩

theorem wit_AnswersReceived_5a : ∃ (port : Fin 16) (p : Pkt) (sa : Nat) (m : Msg) (s : State),
    Arrives s port.val p 8 sa ∧ p.flags.getLsbD 4 = true ∧ s.msgs = [m] :=
  ⟨0, sealed { pkt 8 [] 0 with flags := 0x10 }, 0, msg .write, ready fun s => { fabric s with msgs := [msg .write] }, by decide +kernel⟩

theorem wit_AnswersReceived_6a : ∃ (port : Fin 16) (p : Pkt) (sa : Nat) (m : Msg) (s : State),
    Arrives s port.val p 4 sa ∧ Unpoliced s port.val (saPeck (counted s port.val) sa) ∧ s.msgs = [m] :=
  ⟨0, sealed (pkt 4 eight 10), 0, msg .read, ready fun s => { fabric s with msgs := [msg .read] }, by decide +kernel⟩

theorem wit_AnswersReceived_7a : ∃ (port : Fin 16) (p : Pkt) (sa : Nat) (m : Msg) (s : State),
    Arrives s port.val p 6 sa ∧ s.msgs = [m] :=
  ⟨0, sealed (pkt 6 eight 10), 0, msg .atomic, ready fun s => { fabric s with msgs := [msg .atomic] }, by decide +kernel⟩

theorem wit_AnswersReceived_8a : ∃ (s : State) (m : Msg) (_st : Status),
    m.wr = none ∧ s.ports = [] ∧ m.user ≠ .none :=
  ⟨ready id, msg .write, stOk, by decide +kernel⟩

/-- A LOCAL reference to region 2 with every right, and a REMOTE one. -/
def locRef : Ref := ⟨stOk, handle 2, locOf (handle 2) (region 0x2000 64)⟩

def remRef (ep : Bool) : Ref := ⟨stOk, handle 6, { Loc.none with index := 6, kind := .remote, len := 64, aux := if ep then 0x31000 else 0x30000, rkey := 2, raddr := 9 }⟩

def armItem : Item := request 1 0x0400 [3, 5, 0x02] [locRef]

theorem wit_TransportRequests_1a : ∃ (id : Nat) (sa : Nat) (i : Item) (s : State),
    Request s id 0x0400 i ∧ armStatus s i = stOk ∧ saBySpi s (i.w 1).toNat = some sa :=
  ⟨5, 0, armItem, asked 1 0x0400 [3, 5, 0x02] [locRef] fun s => { fabric s with arms := [] }, by decide +kernel⟩

theorem wit_TransportRequests_2a : ∃ (id : Nat) (i : Item) (s : State),
    Request s id 0x0400 i ∧ armStatus s i ≠ stOk ∧ armStatus s i ≠ stRearmTooSoon ∧ armStatus s i = stDuplicate :=
  ⟨5, armItem, asked 1 0x0400 [3, 5, 0x02] [locRef] fabric, by decide +kernel⟩

theorem wit_TransportRequests_3a : ∃ (_s : State) (i : Item),
    (i.ref 0).st ≠ stOk :=
  ⟨ready id, request 1 0x0400 [3, 5, 0x02] [⟨stStale, 0, Loc.none⟩], by decide +kernel⟩

theorem wit_TransportRequests_5a : ∃ (s : State) (n : Nat),
    n ≠ 0 ∧ s.springs = [] ∧ s.bindings = [] ∧ s.landed = [] ∧ (∀ e ∈ s.regions, e.2.parent ≠ some n) :=
  ⟨ready fabric, 2, by decide +kernel⟩

theorem wit_TransportRequests_6a : ∃ (id : Nat) (i : Item) (s : State),
    Request s id 0x0401 i ∧ (i.ref 0).st = stOk :=
  ⟨5, request 1 0x0401 [3] [locRef], asked 1 0x0401 [3] [locRef] fabric, by decide +kernel⟩

theorem wit_TransportRequests_6b : ∃ (id : Nat) (i : Item) (s : State),
    Request s id 0x0401 i ∧ (i.ref 0).st ≠ stOk :=
  ⟨5, request 1 0x0401 [3] [⟨stStale, 0, Loc.none⟩], asked 1 0x0401 [3] [⟨stStale, 0, Loc.none⟩] fabric, by decide +kernel⟩

theorem wit_TransportRequests_7a : ∃ (id : Nat) (i : Item) (s : State),
    Request s id 0x0402 i ∧ (s.ep 2).peck = i.fn ∧ i.w 2 = 64 :=
  ⟨5, request 1 0x0402 [3, 0, 64, 77, 2] [locRef], asked 1 0x0402 [3, 0, 64, 77, 2] [locRef] fun s => (fabric s).setEp 2 { Endpoint.reset with peck := 1 }, by decide +kernel⟩

theorem wit_TransportRequests_8a : ∃ (id : Nat) (i : Item) (s : State),
    Request s id 0x0403 i ∧ sendStatus s i ≠ stOk ∧ i.w 2 = 7 :=
  ⟨5, request 1 0x0403 [3, 0, 7, 4, 0, 0] [locRef, remRef true], asked 1 0x0403 [3, 0, 7, 4, 0, 0] [locRef, remRef true] fabric, by decide +kernel⟩

theorem wit_TransportRequests_9a : ∃ (id : Nat) (i : Item) (s : State),
    Request s id 0x0403 i ∧ sendStatus s i = stOk ∧ anyUp s = true ∧ scopeFits s i.fn (BitVec.ofNat 16 (fld (i.w 5) 0 16)) (i.ref 1).loc.raddr = true ∧ (i.ref 0).loc.kind = .local_ :=
  ⟨5, request 1 0x0403 [3, 0, 72, 4, 0, 0] [locRef, remRef true], asked 1 0x0403 [3, 0, 72, 4, 0, 0] [locRef, remRef true] fabric, by decide +kernel⟩

theorem wit_TransportRequests_10a : ∃ (id : Nat) (i : Item) (s : State),
    Request s id 0x0404 i ∧ 8 ≤ fld (i.w 5) 32 8 :=
  ⟨5, request 1 0x0404 [4, 0, 0, 0, 3, 0x800000000] [remRef false, locRef], asked 1 0x0404 [4, 0, 0, 0, 3, 0x800000000] [remRef false, locRef] fabric, by decide +kernel⟩

theorem wit_TransportRequests_11a : ∃ (id : Nat) (i : Item) (s : State),
    Request s id 0x0404 i ∧ fld (i.w 5) 32 8 < 8 ∧ (i.ref 0).check [.remote] [rightWr] = stOk ∧ (i.ref 1).check [.local_] [rightWr] = stOk ∧ remIsEp (i.ref 0).loc = false ∧ (i.ref 0).loc.holds (i.w 1) 8 8 = true ∧ (i.ref 1).loc.holds (BitVec.ofNat 64 (fld (i.w 5) 0 32)) 8 8 = true ∧ anyUp s = true :=
  ⟨5, request 1 0x0404 [4, 56, 0, 0, 3, 0x700000038] [remRef false, locRef], asked 1 0x0404 [4, 56, 0, 0, 3, 0x700000038] [remRef false, locRef] fabric, by decide +kernel⟩

theorem wit_TransportRequests_12a : ∃ (s : State) (d : Nat) (j : Nat) (_base : BitVec 128) (m : Msg),
    dealNext s d = some j ∧ m.kind = .atomic ∧ fld (s.reg (rSchQ j m.queue)) 0 1 = 1 ∧ fld (s.reg (rSchQ j m.queue)) 8 8 = m.peck :=
  ⟨ready fun s => (fabric s).setReg (rSchQ 0 3) 0x10101, 5, 0, 9, msg .atomic, by decide +kernel⟩

theorem wit_TransportRequests_13a : ∃ (key : Nat) (m : Msg) (s : State),
    s.msg key = some m ∧ m.held = true ∧ sealFree s m = true :=
  ⟨6, { msg .write with held := true }, ready fun s => { fabric s with msgs := [{ msg .write with held := true }] }, by decide +kernel⟩

def pacing (s : State) : State := { fabric s with msgs := [{ msg .write with pkts := [(0, ⟨.ready, 0, 0, false, 0⟩)] }] }.setInst 0 { Inst.reset with hold := some 0, dests := [⟨9, 0, []⟩] }

theorem wit_TransportRequests_14a : ∃ (i : Fin 4) (dst : BitVec 128) (path : Fin 128) (m : Msg) (k : Nat) (pk : MsgPkt) (u : State) (s : State),
    s.resps = [] ∧ s.msgs = [m] ∧ m.inst = i.val ∧ msgTarget s m = dst ∧ m.pkts = [(k, pk)] ∧ pktDue s m pk = true ∧ pk.tried = false ∧ bestPath s i.val dst none = some path.val ∧ ensureDest s i.val dst = some u ∧ (u.path i.val dst path.val).next ≤ u.time ∧ (tblGet PQueue.reset (u.port (4 * i.val + path.val / 32)).qs m.queue).ents.length < 256 :=
  ⟨0, 9, 0, { msg .write with pkts := [(0, ⟨.ready, 0, 0, false, 0⟩)] }, 0, ⟨.ready, 0, 0, false, 0⟩, ready pacing, ready pacing, by decide +kernel⟩

theorem wit_TransportTimers_1a : ∃ (i : Fin 4) (src : BitVec 128) (msgid : Word) (t0 : Trk) (f : Nat) (s : State),
    s.trk i.val src msgid = some t0 ∧ t0.first = some f :=
  ⟨0, 9, 4, trkOf 1 none, 0, ready fun s => { (fabric s).setInst 0 { Inst.reset with trks := [trkOf 1 none] } with time := 100000 }, by decide +kernel⟩

theorem wit_TransportTimers_2a : ∃ (i : Fin 4) (src : BitVec 128) (msgid : Word) (t0 : Trk) (d : Nat) (s : State),
    s.trk i.val src msgid = some t0 ∧ t0.done = some d :=
  ⟨0, 9, 4, trkOf 1 (some 0), 0, ready fun s => { (fabric s).setInst 0 { Inst.reset with trks := [trkOf 1 (some 0)] } with time := 100000000 }, by decide +kernel⟩

theorem wit_TransportTimers_2b : ∃ (i : Fin 4) (src : BitVec 128) (msgid : Word) (t0 : Trk) (d : Nat) (s : State),
    s.trk i.val src msgid = some t0 ∧ t0.done = some d ∧ s.time = 0 :=
  ⟨0, 9, 4, trkOf 1 (some 0), 0, ready fun s => (fabric s).setInst 0 { Inst.reset with trks := [trkOf 1 (some 0)] }, by decide +kernel⟩

theorem wit_TransportTimers_3a : ∃ (i : Fin 4) (src : BitVec 128) (msgid : Word) (t0 : Trk) (s : State),
    s.trk i.val src msgid = some t0 ∧ t0.done = none :=
  ⟨0, 9, 4, trkOf 1 none, ready fun s => { (fabric s).setInst 0 { Inst.reset with trks := [trkOf 1 none] } with time := 1000000000 }, by decide +kernel⟩

theorem wit_TransportTimers_4a : ∃ (i : Fin 4) (src : BitVec 128) (msgid : Word) (c : CacheEnt) (s : State),
    (s.inst i.val).cache = [c] ∧ c.src = src ∧ c.msgid = msgid :=
  ⟨0, 9, 4, ⟨9, 4, 1, 0, .atomic stOk 12⟩, ready fun s => { (fabric s).setInst 0 { Inst.reset with cache := [⟨9, 4, 1, 0, .atomic stOk 12⟩] } with time := 100000000 }, by decide +kernel⟩

theorem wit_TransportTimers_5a : ∃ (key : Nat) (m : Msg) (k : Nat) (q : Nat) (pk : MsgPkt) (s : State),
    s.msg key = some m ∧ m.pkts = [(k, pk)] ∧ pk.phase = .flight q :=
  ⟨6, msg .write, 0, 0, ⟨.flight 0, 0, 0, false, 0⟩, ready fun s => { fabric s with msgs := [msg .write], time := 100000000 }, by decide +kernel⟩

theorem wit_TransportTimers_6a : ∃ (key : Nat) (m : Msg) (t0 : Nat) (s : State),
    s.msg key = some m ∧ m.t0 = some t0 :=
  ⟨6, msg .write, 0, ready fun s => { fabric s with msgs := [msg .write], time := 100000000 }, by decide +kernel⟩

def onPath (ph : PathPhase) (s : State) : State := (fabric s).setInst 0 { Inst.reset with hold := some 0, dests := [⟨9, 0, [(2, { Path.none with phase := ph, srtt := 50, probed := 0 })]⟩] }

theorem wit_TransportTimers_7a : ∃ (i : Fin 4) (dst : BitVec 128) (path : Fin 128) (t0 : Nat) (s : State),
    (s.path i.val dst path.val).phase = .avoided t0 :=
  ⟨0, 9, 2, 5, ready fun s => { onPath (.avoided 5) s with time := 5 }, by decide +kernel⟩

theorem wit_TransportTimers_8a : ∃ (i : Fin 4) (dst : BitVec 128) (path : Fin 128) (g : Nat) (sa : Nat) (s : State),
    (s.path i.val dst path.val).phase = .probing g ∧ probeSa s = some sa ∧ s.time < (s.path i.val dst path.val).probed + (s.path i.val dst path.val).srtt ∧ (s.path i.val dst path.val).probed ≠ 0 :=
  ⟨0, 9, 2, 1, 0, ready fun s => { (fabric s).setInst 0 { Inst.reset with dests := [⟨9, 0, [(2, { Path.none with phase := .probing 1, srtt := 50, probed := 3 })]⟩] } with time := 5 }, by decide +kernel⟩

theorem wit_TransportTimers_9a : ∃ (i : Fin 4) (dst : BitVec 128) (path : Fin 128) (g : Nat) (sa : Nat) (s : State),
    (s.path i.val dst path.val).phase = .probing g ∧ probeSa s = some sa ∧ (s.path i.val dst path.val).probed = 0 ∧ (s.port (4 * i.val + path.val / 32)).ctl = [] :=
  ⟨0, 9, 2, 1, 0, ready fun s => { onPath (.probing 1) s with time := 5 }, by decide +kernel⟩

theorem wit_TransportTimers_10a : ∃ (i : Fin 4) (t0 : Nat) (s : State),
    (s.inst i.val).hold = some t0 ∧ t0 ≠ 0 :=
  ⟨0, 5, ready fun s => { s.setInst 0 { Inst.reset with hold := some 5 } with time := 5 }, by decide +kernel⟩

theorem wit_PortsAndScheduler_1a : ∃ (port : Fin 16) (s : State),
    fld (s.reg (rWymPort port.val)) 0 1 = 1 ∧ (s.port port.val).link ≠ 2 ∧ (s.inst (port.val / 4)).hold = some 0 ∧ s.msgs = [] ∧ Quiet s :=
  ⟨1, ready fun s => (s.setReg (rWymPort 1) 3).setInst 0 { Inst.reset with hold := some 0 }, by decide +kernel⟩

theorem wit_PortsAndScheduler_2a : ∃ (port : Fin 16) (s : State),
    fld (s.reg (rWymPort port.val)) 0 1 = 1 ∧ (s.port port.val).link ≠ 2 ∧ (s.inst (port.val / 4)).hold = none ∧ s.msgs = [] ∧ Quiet s :=
  ⟨1, ready fun s => s.setReg (rWymPort 1) 3, by decide +kernel⟩

theorem wit_PortsAndScheduler_3a : ∃ (port : Fin 16) (s : State),
    (s.port port.val).link = 2 ∧ (s.port port.val).qs = [] ∧ fld (s.reg (rWymPort port.val)) 0 1 = 1 ∧ (∀ a ∈ (s.port port.val).ctl, a.1.typ.toNat = 9) :=
  ⟨0, ready fabric, by decide +kernel⟩

theorem wit_PortsAndScheduler_5a : ∃ (port : Fin 16) (s : State),
    Ready s ∧ s.reg (rWymPort port.val) = 0 :=
  ⟨1, ready id, by decide +kernel⟩

theorem wit_PortsAndScheduler_6a : ∃ (port : Fin 16) (target : BitVec 128) (_mac : BitVec 48) (s : State),
    portUp s port.val = true ∧ target = instAddr (fabricBase s) 0 :=
  ⟨0, 0, 3, ready fabric, by decide +kernel⟩

theorem wit_PortsAndScheduler_6b : ∃ (port : Fin 16) (target : BitVec 128) (_mac : BitVec 48) (s : State),
    portUp s port.val = true ∧ target ≠ instAddr (fabricBase s) 0 :=
  ⟨0, 1, 3, ready fabric, by decide +kernel⟩

theorem wit_PortsAndScheduler_7a : ∃ (port : Fin 16) (target : BitVec 128) (_mac : BitVec 48) (s : State),
    portUp s port.val = true ∧ target.toNat = nextHop s port.val :=
  ⟨0, 0, 3, ready fabric, by decide +kernel⟩

theorem wit_PortsAndScheduler_8a : ∃ (port : Fin 16) (_target : BitVec 32) (s : State),
    portUp s port.val = true :=
  ⟨0, 3, ready fabric, by decide +kernel⟩

theorem wit_PortsAndScheduler_9a : ∃ (port : Fin 16) (s : State),
    portUp s port.val = true :=
  ⟨0, ready fabric, by decide +kernel⟩

theorem wit_PortsAndScheduler_10a : ∃ (_v : Word) (s : State),
    Ready s ∧ portsOff s = false :=
  ⟨5, ready fabric, by decide +kernel⟩

theorem wit_PortsAndScheduler_11a : ∃ (v : Word) (s : State),
    Ready s ∧ portsOff s = true ∧ 2 ≤ fld v 0 7 ∧ fld v 0 7 ≤ 100 ∧ 1 ≤ fld v 8 8 ∧ fld v 8 8 ≤ 100 ∧ 10 ≤ fld v 16 14 ∧ fld v 16 14 ≤ 10000 ∧ 1 ≤ fld v 32 10 ∧ fld v 32 10 ≤ 1000 ∧ fld v 8 8 * 2 ≤ fld v 0 7 * 10 :=
  ⟨0x1000A0A02, ready id, by decide +kernel⟩

theorem wit_PortsAndScheduler_12a : ∃ (n : Fin 1024) (v : Word) (s : State),
    Ready s ∧ fld v 0 32 ≠ 0 ∧ saValid s n.val = true :=
  ⟨0, 5, ready fabric, by decide +kernel⟩

theorem wit_PortsAndScheduler_12b : ∃ (n : Fin 1024) (v : Word) (s : State),
    Ready s ∧ fld v 0 32 ≠ 0 ∧ saValid s n.val = false :=
  ⟨1, 5, ready fabric, by decide +kernel⟩

theorem wit_PortsAndScheduler_14a : ∃ (n : Fin 1024) (v : Word) (s : State),
    Ready s ∧ saValid s n.val = false ∧ fld v 13 1 = 1 ∧ saSpi s n.val = 0 ∧ fld v 16 8 ≠ 0 :=
  ⟨1, 0x12003, ready fabric, by decide +kernel⟩

theorem wit_PortsAndScheduler_15a : ∃ (n : Fin 1024) (v : Word) (s : State),
    Ready s ∧ saValid s n.val = false ∧ fld v 13 1 = 1 ∧ saSpi s n.val ≠ 0 ∧ saBySpi s (saSpi s n.val) = none ∧ fld v 16 8 ≠ 0 ∧ (s.peck (fld v 16 8)).state = .active ∧ (s.peck (fld v 16 8)).keys.testBit (fld v 0 12) = true :=
  ⟨1, 0x13003, ready fun s => (fabric s).setReg (rSaId 1) 6, by decide +kernel⟩

theorem wit_PortsAndScheduler_16a : ∃ (d : Fin 4) (q : Fin 4096) (v : Word) (s : State),
    Ready s ∧ Quiet s ∧ s.reg (rSchQ d.val q.val) = 0 ∧ fld v 0 1 = 1 ∧ (s.peck (fld v 8 8)).state = .active ∧ fld v 8 8 ≠ 0 ∧ fld v 16 16 ≠ 0 :=
  ⟨0, 3, 0x10101, ready fabric, by decide +kernel⟩

theorem wit_PortsAndScheduler_17a : ∃ (_d : Fin 4) (_q : Fin 4096) (v : Word) (s : State),
    Ready s ∧ Quiet s ∧ fld v 8 8 ≠ 0 ∧ (s.peck (fld v 8 8)).state = .free :=
  ⟨0, 3, 0x10201, ready fabric, by decide +kernel⟩

theorem wit_PortsAndScheduler_18a : ∃ (_r : ShReg) (_port : Fin 16) (k : Fin 256) (v : Word) (s : State),
    Ready s ∧ k.val ≠ 0 ∧ fld v 20 16 < 0x24 :=
  ⟨.polP, 0, 1, 0x2300000, ready fabric, by decide +kernel⟩

theorem wit_PortsAndScheduler_19a : ∃ (_port : Fin 16) (_k : Fin 256) (v : Word) (s : State),
    Ready s ∧ 0x24 ≤ fld v 20 16 ∧ fld v 0 20 ≤ 800000 :=
  ⟨0, 0, 0x2400000, ready fabric, by decide +kernel⟩

theorem wit_PortsAndScheduler_20a : ∃ (port : Fin 16) (s : State),
    (s.port port.val).switch_ = true ∧ (s.port port.val).swAt ≤ s.time ∧ Quiet s :=
  ⟨0, ready fun s => s.setPort 0 { Port.reset with switch_ := true }, by decide +kernel⟩

theorem wit_PortsAndScheduler_21a : ∃ (port : Fin 16) (v : Word) (s : State),
    Ready s ∧ fld v 2 1 = 0 ∧ (s.port port.val).switch_ = false :=
  ⟨0, 1, ready fabric, by decide +kernel⟩

theorem wit_PortsAndScheduler_22a : ∃ (port : Fin 16) (v : Word) (s : State),
    Ready s ∧ fld v 2 1 = 1 ∧ (s.port port.val).switch_ = false :=
  ⟨0, 5, ready fun s => ((s.setReg (rSwitchAt 0) 9).setReg (rSchNent 0 1) 1).setReg (rChain 0 1 0) 1000, by decide +kernel⟩

theorem wit_PortsAndScheduler_24a : ∃ (port : Fin 16) (bank : Fin 2) (_r : ChainReg) (_v : Word) (s : State),
    Ready s ∧ gatesOn s port.val = true ∧ bankAt s port.val s.time = bank.val :=
  ⟨0, 0, .base, 7, ready fun s => s.setReg (rGateCtl 0) 1, by decide +kernel⟩

theorem wit_PortsAndScheduler_25a : ∃ (port : Fin 16) (_bank : Fin 2) (_v : Word) (s : State),
    Ready s ∧ gatesOn s port.val = false :=
  ⟨0, 0, 7, ready id, by decide +kernel⟩

theorem wit_PortsAndScheduler_26a : ∃ (port : Fin 16) (s : State),
    portUp s port.val = true ∧ s.mono * 100 < (s.port port.val).busy :=
  ⟨0, ready fun s => (fabric s).setPort 0 { Port.reset with link := 2, busy := 5 }, by decide +kernel⟩

theorem wit_PortsAndScheduler_27a : ∃ (port : Fin 16) (what : String) (fs : List Nat) (len : Nat) (s : State),
    portUp s port.val = true ∧ (s.port port.val).busy ≤ s.mono * 100 ∧ Quiet s ∧ (s.port port.val).nhop = none ∧ (s.port port.val).fw = [(what, fs, len)] ∧ 0 < (ctlTok s port.val).n ∧ gatesOn s port.val = false ∧ what ≠ "PTP_DELAY_REQ" ∧ (s.port port.val).switch_ = false :=
  ⟨0, "ARP_REPLY", [3], 64, ready fun s => (fabric s).setPort 0 { Port.reset with link := 2, fw := [("ARP_REPLY", [3], 64)], ctlTok := ⟨9, 0⟩ }, by decide +kernel⟩

theorem wit_TransportRequests_4a : ∃ (id : Nat) (t0 : Nat) (i : Item) (s : State),
    Request s id 0x0400 i ∧ armStatus s i = stRearmTooSoon ∧ wymHold s = false ∧ (s.region (i.ref 0).loc.index).gen ≠ 0xFFFF ∧ s.retired = [((i.ref 0).loc.index, (s.region (i.ref 0).loc.index).gen + 1, t0)] :=
  ⟨5, 3, armItem, asked 1 0x0400 [3, 5, 0x02] [locRef] fun s => { fabric s with arms := [], retired := [(2, 1, 3)] }, by decide +kernel⟩

/-- A READRESP of message 4 and the device that owes it. -/
def respOf : Resp := ⟨1, 0, pkt 3 eight 0, 0, 0, 1, some 0x2000, [], false⟩
def respond (s : State) : State := { ((fabric s).setReg (rSchQ 0 3) 0x10101).setInst 0 { Inst.reset with hold := some 0, dests := [⟨9, 0, []⟩] } with resps := [respOf] }

theorem wit_TransportRequests_15a : ∃ (i : Fin 4) (dst : BitVec 128) (path : Fin 128) (r : Resp) (q : Nat) (u : State) (s : State),
    s.resps = [r] ∧ r.wait = false ∧ r.port / 4 = i.val ∧ r.req.src = dst ∧ r.path = path.val ∧ ensureDest s i.val dst = some u ∧ (u.path i.val dst path.val).next ≤ u.time ∧ respQueue { u with resps := [] } i.val r.peck = some q ∧ (tblGet PQueue.reset (u.port r.port).qs q).ents.length < 256 :=
  ⟨0, 9, 0, respOf, 3, ready respond, ready respond, by decide +kernel⟩

def ackPkt : Pkt := pkt 7 [] 0

theorem wit_PortsAndScheduler_4a : ∃ (port : Fin 16) (to_ : Fin 16) (a : Pkt × Nat) (s : State),
    (s.port port.val).link = 2 ∧ (s.port port.val).qs = [] ∧ (s.port port.val).ctl = [a] ∧ a.1.typ.toNat ≠ 9 ∧ to_.val / 4 = port.val / 4 ∧ to_ ≠ port ∧ portUp s to_.val = true ∧ ((∀ k < 4, 4 * (port.val / 4) + k < to_.val → 4 * (port.val / 4) + k ≠ port.val → portUp s (4 * (port.val / 4) + k) = false)) :=
  ⟨0, 1, (ackPkt, 3), ready fun s => (((fabric s).setReg (rWymPort 1) 3).setPort 1 { Port.reset with link := 2 }).setPort 0 { Port.reset with link := 2, ctl := [(ackPkt, 3)] }, by decide +kernel⟩

theorem wit_PortsAndScheduler_13a : ∃ (n : Fin 1024) (v : Word) (s : State),
    Ready s ∧ fld v 0 32 = 0 ∧ saValid s n.val = false :=
  ⟨1, 0x700000000, ready fabric, by decide +kernel⟩

theorem wit_PortsAndScheduler_23a : ∃ (port : Fin 16) (v : Word) (s : State),
    Ready s ∧ fld v 2 1 = 1 ∧ s.time < (s.port port.val).swAt :=
  ⟨0, 5, ready fun s => s.setPort 0 { Port.reset with switch_ := true, swAt := 5 }, by decide +kernel⟩

/-- A copy of `n` bytes to 0x2000. -/
def cpyOf (src : Option Loc) (n : Nat) (ph : CopyPhase) : Copy :=
  ⟨7, 0, 1, false, .copy, Tag.int64, false, false, 3, 0, src, 5, { Loc.none with kind := .local_, base := 0x2000, len := 64 }, 0, n, 1, 9, 0, 0, ph, 0, [], [], false, stOk, 0, none, [], 0, 0⟩

/-- Engine 0 of Peck 1 with `k` in its copy queue 2. -/
def queued (k : Copy) (s : State) : State := { (peck1 s).setEng 0 { Engine.reset with peck := 1, queues := [(2, [k])] } with mem := (((s.mem.setWord 0x2000 ⟨3, Tag.int64⟩).setWord 0x2008 ⟨4, Tag.handle⟩).setWord 0x2010 ⟨5, Tag.int64⟩) }

def localSrc : Loc := { Loc.none with kind := .local_, base := 0x1FFB, len := 64 }

theorem wit_CopiesRun_1a : ∃ (e : Fin 128) (q : Fin 4) (_deny : List Nat) (k : Copy) (s : State),
    CopyAlone s e q k ∧ k.src = none ∧ k.dst.kind = .local_ ∧ k.status = stOk :=
  ⟨0, 2, [], cpyOf none 16 .queued, ready (queued (cpyOf none 16 .queued)), by decide +kernel⟩

theorem wit_CopiesRun_2a : ∃ (e : Fin 128) (q : Fin 4) (_deny : List Nat) (k : Copy) (l : Loc) (s : State),
    CopyAlone s e q k ∧ k.src = some l ∧ l.kind = .local_ ∧ k.dst.kind = .local_ ∧ k.status = stOk ∧ k.rows ≤ 1 ∧ k.len % 8 = 0 ∧ Settled s ∧ (s.mem.word 0x2008).tag = Tag.handle :=
  ⟨0, 2, [], { cpyOf (some localSrc) 16 .queued with dstOff := 8 }, localSrc, ready (queued { cpyOf (some localSrc) 16 .queued with dstOff := 8 }), by decide +kernel⟩

theorem wit_CopiesRun_3a : ∃ (e : Fin 128) (q : Fin 4) (k : Copy) (ks : List Copy) (s : State),
    (s.eng e.val).queue q.val = k :: ks ∧ (∀ x ∈ ks, x.id ≠ k.id) ∧ k.phase = .moving ∧ k.open_ = 0 ∧ k.todo = [] ∧ k.reading = false ∧ k.sig = false ∧ k.slot < 8 :=
  ⟨0, 2, cpyOf none 16 .moving, [], ready (queued (cpyOf none 16 .moving)), by decide +kernel⟩

theorem wit_CopiesRun_3b : ∃ (e : Fin 128) (q : Fin 4) (k : Copy) (ks : List Copy) (s : State),
    (s.eng e.val).queue q.val = k :: ks ∧ (∀ x ∈ ks, x.id ≠ k.id) ∧ k.phase = .moving ∧ k.open_ = 0 ∧ k.todo = [] ∧ k.reading = false ∧ k.sig = false ∧ k.slot < 8 :=
  ⟨0, 2, { cpyOf none 16 .moving with status := stTag }, [], ready (queued { cpyOf none 16 .moving with status := stTag }), by decide +kernel⟩

theorem wit_CopiesRun_4a : ∃ (e : Fin 128) (q : Fin 4) (k : Copy) (s : State),
    (s.eng e.val).queue q.val = [k] ∧ k.phase = .moving ∧ k.open_ = 0 ∧ k.todo = [] ∧ k.reading = false ∧ k.sig = true ∧ k.status = stOk ∧ (s.eng e.val).semQ = [] :=
  ⟨0, 2, { cpyOf none 16 .moving with sig := true }, ready (queued { cpyOf none 16 .moving with sig := true }), by decide +kernel⟩

theorem wit_CopiesRun_5a : ∃ (e : Fin 128) (q : Fin 4) (k : Copy) (s : State),
    (s.eng e.val).queue q.val = [k] ∧ (k.phase = .queued ∨ k.open_ ≠ 0) :=
  ⟨0, 2, cpyOf none 16 .queued, ready (queued (cpyOf none 16 .queued)), by decide +kernel⟩

def codeRef : Ref := ⟨stOk, handle 2, locOf (handle 2) (region 0x2000 64)⟩

def progItem (k : HKind) (n : Word) : Item := request 1 0x0101 [3, 0, 4, 32, n] [⟨stOk, handle 2, { locOf (handle 2) (region 0x2000 64) with kind := k }⟩, codeRef]

def words2 (s : State) : State := { s with mem := (s.mem.setWord 0x2000 ⟨3, Tag.int64⟩).setWord 0x2008 ⟨4, Tag.int64⟩ }

theorem wit_WorkItems_1a : ∃ (id : Nat) (_data : List Byte) (_st : Status) (i : Item) (s : State),
    Request s id 0x0101 i ∧ progLoadStatus s i ≠ stOk :=
  ⟨5, [], 0, progItem .local_ 12, asked 1 0x0101 [3, 0, 4, 32, 12] (progItem .local_ 12).refs words2, by decide +kernel⟩

theorem wit_WorkItems_2a : ∃ (id : Nat) (_data : List Byte) (_st : Status) (i : Item) (s : State),
    Request s id 0x0101 i ∧ progLoadStatus s i = stOk ∧ (i.ref 0).loc.kind = .local_ ∧ Settled s ∧ (i.w 4).toNat = 16 :=
  ⟨5, [], 0, progItem .local_ 16, asked 1 0x0101 [3, 0, 4, 32, 16] (progItem .local_ 16).refs words2, by decide +kernel⟩

theorem wit_WorkItems_3a : ∃ (id : Nat) (data : List Byte) (st : Status) (i : Item) (s : State),
    Request s id 0x0101 i ∧ progLoadStatus s i = stOk ∧ (i.ref 0).loc.kind ≠ .local_ ∧ data.length = (i.w 4).toNat ∧ st = stOk :=
  ⟨5, [1, 2, 3, 4, 5, 6, 7, 8], 0, progItem .host 8, asked 1 0x0101 [3, 0, 4, 32, 8] (progItem .host 8).refs words2, by decide +kernel⟩

theorem wit_WorkItems_3b : ∃ (id : Nat) (_data : List Byte) (st : Status) (i : Item) (s : State),
    Request s id 0x0101 i ∧ progLoadStatus s i = stOk ∧ (i.ref 0).loc.kind ≠ .local_ ∧ st ≠ stOk :=
  ⟨5, [1, 2, 3, 4, 5, 6, 7, 8], stRights, progItem .host 16, asked 1 0x0101 [3, 0, 4, 32, 16] (progItem .host 16).refs words2, by decide +kernel⟩

theorem wit_WorkItems_4a : ∃ (ws : List TWord) (a : Nat) (_s : State) (j : Nat),
    a % 8 = 0 ∧ j < ws.length :=
  ⟨[TWord.int 3, TWord.int 4], 0x2000, ready id, 1, by decide +kernel⟩

def unload (r : Ref) (s : State) : State := { s with items := [request 1 0x0102 [3] [r]], mem := s.mem.setWord 0x2008 ⟨4, Tag.code⟩ }

theorem wit_WorkItems_5a : ∃ (id : Nat) (i : Item) (s : State),
    Request s id 0x0102 i ∧ (i.ref 0).check [.local_] [rightWr, rightEx] = stOk ∧ s.allCtx = [] :=
  ⟨5, request 1 0x0102 [3] [codeRef], ready (unload codeRef), by decide +kernel⟩

theorem wit_WorkItems_5b : ∃ (id : Nat) (i : Item) (s : State),
    Request s id 0x0102 i ∧ (i.ref 0).check [.local_] [rightWr, rightEx] ≠ stOk :=
  ⟨5, request 1 0x0102 [3] [⟨stStale, 0, Loc.none⟩], ready (unload ⟨stStale, 0, Loc.none⟩), by decide +kernel⟩

/-- A start record at 0x2000 for engine 0 of Peck 1, its code handle `h`. -/
def startAt (h : TWord) (ph : ItemPhase) (k : Ctx) (s : State) : State :=
  let s := (peck1 s).setEng 0 { Engine.reset with peck := 1, ctxs := [(0, k)] }
  { s with regions := [(1, region 0x1000 64), (2, region 0x2000 4096)], items := [{ request 1 0x0100 [3, 0] [⟨stOk, handle 2, locOf (handle 2) (region 0x2000 4096)⟩] with phase := ph }],
           mem := (((s.mem.setWord 0x2000 (TWord.int 0x2010100)).setWord 0x2008 h).setWord 0x2010 (TWord.int 16)).setWord 0x20C8 ⟨5, Tag.int64⟩ }

def startItem (ph : ItemPhase) : Item := { request 1 0x0100 [3, 0] [⟨stOk, handle 2, locOf (handle 2) (region 0x2000 4096)⟩] with phase := ph }

def code1 : TWord := ⟨handle 1, Tag.handle⟩

theorem wit_WorkItems_7a : ∃ (id : Nat) (i : Item) (s : State),
    Request s id 0x0100 i ∧ (i.ref 0).check [.local_] [rightRd] = stOk ∧ (i.ref 0).loc.holds (i.w 1) 256 64 = true ∧ Settled s :=
  ⟨5, startItem .dispatched, ready (startAt (TWord.int 1) .dispatched context), by decide +kernel⟩

theorem wit_WorkItems_8a : ∃ (id : Nat) (i : Item) (_e : Fin 128) (_k : Fin 8) (s : State),
    Request s id 0x0100 i ∧ s.items = [i] ∧ i.id = id ∧ (i.ref 0).check [.local_] [rightRd] = stOk ∧ (i.ref 0).loc.holds (i.w 1) 256 64 = true ∧ Settled s :=
  ⟨5, startItem .dispatched, 0, 1, ready (startAt code1 .dispatched context), by decide +kernel⟩

theorem wit_WorkItems_9a : ∃ (id : Nat) (i : Item) (s : State),
    Request s id 0x0100 i ∧ (i.ref 0).check [.local_] [rightRd] = stOk ∧ (i.ref 0).loc.holds (i.w 1) 256 64 = true ∧ Settled s ∧ (s.eng 0).resetting = true :=
  ⟨5, startItem .dispatched, ready fun s => (startAt code1 .dispatched context s).updEng 0 fun x => { x with resetting := true }, by decide +kernel⟩

def waitCtx : Ctx := { context with start := [TWord.int 0x2010100, code1] }

theorem wit_WorkItems_10a : ∃ (id : Nat) (i : Item) (x : Ctx) (s : State),
    s.items = [i] ∧ i.id = id ∧ i.typ.toNat = 0x0100 ∧ i.phase = .waiting ∧ s.starts = [(id, x)] ∧ startHeld s i.fn 0x2010100 = true :=
  ⟨5, startItem .waiting, waitCtx, ready fun s => { (startAt code1 .waiting context s).updEng 0 fun x => { x with resetting := true } with starts := [(5, waitCtx)] }, by decide +kernel⟩

theorem wit_WorkItems_10b : ∃ (id : Nat) (i : Item) (x : Ctx) (s : State),
    s.items = [i] ∧ i.id = id ∧ i.typ.toNat = 0x0100 ∧ i.phase = .waiting ∧ s.starts = [(id, x)] ∧ startHeld s i.fn 0x2010100 = false :=
  ⟨5, startItem .waiting, waitCtx, ready fun s => { (startAt code1 .waiting context s).updEng 0 fun x => { x with peck := 2 } with starts := [(5, waitCtx)] }, by decide +kernel⟩

theorem wit_WorkItems_11a : ∃ (id : Nat) (i : Item) (x : Ctx) (_e : Fin 128) (_k : Fin 8) (s : State),
    s.items = [i] ∧ i.id = id ∧ i.typ.toNat = 0x0100 ∧ i.phase = .waiting ∧ s.starts = [(id, x)] :=
  ⟨5, startItem .waiting, waitCtx, 0, 1, ready fun s => { startAt code1 .waiting context s with starts := [(5, waitCtx)] }, by decide +kernel⟩

theorem wit_WorkItems_12a : ∃ (c : CtxId) (i : Item) (s : State),
    (s.ctx c).state = .halted ∧ copiesOpen s c = false ∧ (s.ctx c).held = false ∧ (s.ctx c).replay = false ∧ (s.ctx c).item = some i.id ∧ s.item i.id = some i ∧ (s.ctx c).save = none ∧ (s.ctx c).result = 8 :=
  ⟨⟨0, 0⟩, startItem .active, ready (startAt code1 .active { context with state := .halted, item := some 5, result := 8 }), by decide +kernel⟩

theorem wit_WorkItems_14a : ∃ (c : CtxId) (s : State),
    (s.ctx c).state = .running :=
  ⟨⟨0, 0⟩, ready (startAt code1 .active { context with state := .running }), by decide +kernel⟩

theorem wit_WorkItems_15a : ∃ (s : State) (_k : Fin 8) (x : Ctx) (l : Loc) (_st : CtxState),
    x.save = some l ∧ l.base.toNat % 8 = 0 ∧ NoCode s l.base.toNat 4432 :=
  ⟨ready id, 0, { Ctx.free with save := some { localSrc with base := 0x2000 }, pc := 3 }, { localSrc with base := 0x2000 }, .halted, by decide +kernel⟩

/-- A record of 16 words: OP, flags, members, sources and destinations, COUNT, CHUNK; this device is member 0, the group 9. -/
def recOf (op flags nmem nsrc ndst count chunk : Nat) : List TWord :=
  (([0x100 + op * 2 ^ 16 + flags * 2 ^ 48, nmem + nsrc * 2 ^ 32 + ndst * 2 ^ 40, count, chunk + 9 * 2 ^ 32, 0, 0, 0].map fun n => TWord.int (BitVec.ofNat 64 n)) ++
    (List.range 9).map fun k => if k = 2 then ⟨handle 2, Tag.handle⟩ else TWord.zero)

def recItem : Item := request 1 0x0200 [3, 0] [⟨stOk, handle 2, locOf (handle 2) (region 0x2000 4096)⟩]

/-- A device asked for the collective that `ws` describes. -/
def collAsk (ws : List TWord) : State := ready fun s =>
  let s := peck1 s
  { s.setReg (rRedPeck 1) 0x10001 with regions := [(1, region 0x1000 64), (2, region 0x2000 65536)], items := [recItem], mem := ws.zipIdx.foldl (fun (m : Memory) e => m.setWord (0x2000 + 8 * e.2) e.1) s.mem }

/-- A collective of the group 9 with a record. -/
def collOf (ws : List TWord) (run : Bool) : Coll :=
  { newColl (ready id) recItem ws ⟨[TWord.zero, TWord.zero], [], [], []⟩ [] with id := 4, digest := 0xD16, landing := { Loc.none with index := 2, kind := .local_, base := 0x8000, len := 65536 }, running := run, engs := [0] }

def group9 (done : Nat) : Group := ⟨1, 9, done, 1, []⟩

/-- A device in which the collective runs; everything sent to it has landed. -/
def collRun1 (c : Coll) (f : State → State) : State := ready fun s => f { (peck1 s).setEng 0 { Engine.reset with peck := 1 } with colls := [c], groups := [group9 0], items := [{ recItem with phase := .active }], landed := [⟨2, 0, 0, 100000⟩], mem := (s.mem.setWord (0x8000 + 128 + 8) (TWord.int c.digest)).setWord (0x8000 + 4096) ⟨0x3F80000040000000, Tag.fp32x2⟩ }

def two (op flags : Nat) (f : Coll → Coll) : Coll := f (collOf (recOf op flags 2 1 0 4 4) true)

def one : List TWord := (recOf 0 0 1 0 0 256 256).set 7 ⟨handle 2, Tag.handle⟩

/-- A record of each OP that passes the field checks, with the count 512 of two members or (OP 5) 8 rows. -/
def whole9 (op : Nat) : List TWord := ((recOf op 0 1 0 0 256 256).set 7 ⟨handle 1, Tag.handle⟩).set 9 ⟨handle 2, Tag.handle⟩

theorem wit_CollectiveRequests_1a : ∀ e ∈ collectives, ∃ (id : Nat) (i : Item) (ws : List TWord) (s : State),
    CollAsked s id i ws ∧ wordPoison (wd ws 0) = false ∧ crOp ws = e.2 ∧ Quiet s ∧ anyPoison ws = true :=
  fun e he => ⟨5, recItem, (whole9 e.2).set 5 ⟨0, Tag.poison⟩, collAsk ((whole9 e.2).set 5 ⟨0, Tag.poison⟩), (by decide +kernel : ∀ e ∈ collectives, (fun (id : Nat) (i : Item) (ws : List TWord) (s : State) => CollAsked s id i ws ∧ wordPoison (wd ws 0) = false ∧ crOp ws = e.2 ∧ Quiet s ∧ anyPoison ws = true) (5) (recItem) ((whole9 e.2).set 5 ⟨0, Tag.poison⟩) (collAsk ((whole9 e.2).set 5 ⟨0, Tag.poison⟩))) e he⟩

theorem wit_CollectiveRequests_1b : ∀ e ∈ collectives, ∃ (id : Nat) (i : Item) (ws : List TWord) (s : State),
    CollAsked s id i ws ∧ wordPoison (wd ws 0) = false ∧ crOp ws = e.2 ∧ Quiet s ∧ anyPoison ws = false ∧ crFieldsOk ws = false :=
  fun e he => ⟨5, recItem, recOf e.2 0 0 0 0 256 256, collAsk (recOf e.2 0 0 0 0 256 256), (by decide +kernel : ∀ e ∈ collectives, (fun (id : Nat) (i : Item) (ws : List TWord) (s : State) => CollAsked s id i ws ∧ wordPoison (wd ws 0) = false ∧ crOp ws = e.2 ∧ Quiet s ∧ anyPoison ws = false ∧ crFieldsOk ws = false) (5) (recItem) (recOf e.2 0 0 0 0 256 256) (collAsk (recOf e.2 0 0 0 0 256 256))) e he⟩

theorem wit_CollectiveRequests_1_accepted : ∃ (id : Nat) (i : Item) (ws : List TWord) (s : State) (l : CrLists), CollAsked s id i ws ∧ crOp ws = 0 ∧ Quiet s ∧
    anyPoison ws = false ∧ anyPoison l.words = false ∧ crStatus s i.fn ws l [] = stOk ∧ (crLists s ws).2 = l :=
  ⟨5, recItem, whole9 0, collAsk (whole9 0), (crLists (collAsk (whole9 0)) (whole9 0)).2, by decide +kernel, by decide +kernel, by decide +kernel, by decide +kernel, by decide +kernel, by decide +kernel, rfl⟩

theorem wit_CollectiveRequests_1_refused : ∃ (id : Nat) (i : Item) (ws : List TWord) (s : State) (l : CrLists), CollAsked s id i ws ∧ crOp ws = 0 ∧ Quiet s ∧
    anyPoison ws = false ∧ anyPoison l.words = false ∧ crStatus s i.fn ws l [] = stTag ∧ (crLists s ws).2 = l :=
  ⟨5, recItem, (whole9 0).set 7 TWord.zero, collAsk ((whole9 0).set 7 TWord.zero), (crLists (collAsk ((whole9 0).set 7 TWord.zero)) ((whole9 0).set 7 TWord.zero)).2, by decide +kernel, by decide +kernel, by decide +kernel, by decide +kernel, by decide +kernel, by decide +kernel, rfl⟩

theorem wit_CollectiveRequests_2a : ∀ e ∈ collectives, ∃ (id : Nat) (i : Item) (ws : List TWord) (s : State),
    CollAsked s id i ws ∧ crOp ws ≠ e.2 ∧ Quiet s :=
  fun e he => ⟨5, recItem, recOf 7 0 0 0 0 256 256, collAsk (recOf 7 0 0 0 0 256 256), (by decide +kernel : ∀ e ∈ collectives, (fun (id : Nat) (i : Item) (ws : List TWord) (s : State) => CollAsked s id i ws ∧ crOp ws ≠ e.2 ∧ Quiet s) (5) (recItem) (recOf 7 0 0 0 0 256 256) (collAsk (recOf 7 0 0 0 0 256 256))) e he⟩

theorem wit_CollectiveRequests_3a : ∃ (s : State) (c : Coll),
    s.groups = [] ∧ s.bindings = [] ∧ s.colls = [] ∧ crSeq c.rec_ = 0 ∧ s.landed = [] :=
  ⟨ready id, collOf one false, by decide +kernel⟩

theorem wit_CollectiveRequests_5a : ∃ (s : State) (c : Coll),
    s.groups = [⟨c.peck, crGroup c.rec_, (crSeq c.rec_).toNat, (crSeq c.rec_).toNat + 1, []⟩] ∧ s.colls = [c] ∧ c.running = false ∧ crNmem c.rec_ = 1 ∧ crSelf c.rec_ = 0 ∧ crVerdict c.rec_ = false ∧ crNorm c.rec_ = false ∧ crReverse c.rec_ = false ∧ Settled s :=
  ⟨ready fun s => { s with colls := [collOf one false], groups := [group9 0] }, collOf one false, by decide +kernel⟩

theorem wit_CollectiveRequests_6a : ∃ (s : State) (c : Coll) (g : Group),
    s.groups = [g] ∧ g.peck = c.peck ∧ g.group = crGroup c.rec_ ∧ s.colls = [c] ∧ g.done ≠ (crSeq c.rec_).toNat :=
  ⟨ready fun s => { s with colls := [collOf one false], groups := [group9 1] }, collOf one false, group9 1, by decide +kernel⟩

theorem wit_CollectiveRequests_7a : ∃ (id : Nat) (i : Item) (s : State),
    Request s id 0x0200 i ∧ Quiet s ∧ (i.ref 0).check [.local_] [rightRd] ≠ stOk :=
  ⟨5, request 1 0x0200 [3, 0] [⟨stStale, 0, Loc.none⟩], asked 1 0x0200 [3, 0] [⟨stStale, 0, Loc.none⟩] id, by decide +kernel⟩

theorem wit_CollectiveRequests_8a : ∃ (id : Nat) (i : Item) (s : State),
    Request s id 0x0200 i ∧ Quiet s ∧ (i.ref 0).check [.local_] [rightRd] = stOk ∧ (i.ref 0).loc.holds (i.w 1) 128 128 = false :=
  ⟨5, { recItem with body := [3, 4096] }, ready fun s => { s with items := [{ recItem with body := [3, 4096] }] }, by decide +kernel⟩

theorem wit_CollectiveRequests_9a : ∃ (id : Nat) (i : Item) (ws : List TWord) (s : State),
    CollAsked s id i ws ∧ Quiet s ∧ 6 < crOp ws :=
  ⟨5, recItem, recOf 7 0 1 0 0 256 256, collAsk (recOf 7 0 1 0 0 256 256), by decide +kernel⟩

theorem wit_CollectiveRequests_9b : ∃ (id : Nat) (i : Item) (ws : List TWord) (s : State),
    CollAsked s id i ws ∧ Quiet s ∧ (wd ws 0).tag = Tag.poison :=
  ⟨5, recItem, one.set 0 ⟨0, Tag.poison⟩, collAsk (one.set 0 ⟨0, Tag.poison⟩), by decide +kernel⟩

theorem wit_CollectivePhases_1a : ∃ (id : Nat) (c : Coll) (js : List Nat) (s : State),
    CollRuns s id c ∧ js = (others c.rec_).filter (fun j => !announced s c j) ∧ js ≠ [] :=
  ⟨4, two 0 0 id, [1], collRun1 (two 0 0 id) fun s => { s with landed := [], time := 5 }, by decide +kernel⟩

theorem wit_CollectivePhases_2a : ∃ (id : Nat) (c : Coll) (s : State) (_js : List Nat),
    s.coll id = some c ∧ crOp c.rec_ ≠ 5 :=
  ⟨4, two 0 0 id, collRun1 (two 0 0 id) fun s => { s with landed := [], time := 5 }, [1], by decide +kernel⟩

theorem wit_CollectivePhases_3a : ∃ (id : Nat) (_j : Nat) (_off : Nat) (bs : List Byte) (c : Coll) (s : State),
    s.coll id = some c ∧ s.colls = [c] ∧ msgPieces (wymPsize s) bs.length = [(0, bs.length)] :=
  ⟨4, 1, 128, [1, 2], two 0 0 id, collRun1 (two 0 0 id) fun s => { s with landed := [], time := 5 }, by decide +kernel⟩

theorem wit_CollectivePhases_4a : ∃ (id : Nat) (k : Nat) (j : Nat) (_deny : List Nat) (c : Coll) (l : Loc) (off : Word) (s : State),
    CollRuns s id c ∧ s.colls = [c] ∧ mayStart c k = true ∧ (k, j) ∉ c.sends ∧ j ≠ crSelf c.rec_ ∧ j < crNmem c.rec_ ∧ k < crChunks c.rec_ ∧ announced s c j = true ∧ crReduces c.rec_ = true ∧ crTree c.rec_ = false ∧ crSrcSplit c.rec_ = false ∧ c.srcs = [(l, off)] ∧ crNsrc c.rec_ = 1 ∧ l.kind = .local_ ∧ 0 < pieceLen c.rec_ k j * crSi c.rec_ :=
  ⟨4, 0, 1, [], two 0 0 fun c => { c with srcs := [(localSrc, 5)] }, localSrc, 5, collRun1 (two 0 0 fun c => { c with srcs := [(localSrc, 5)] }) id, by decide +kernel⟩

theorem wit_CollectivePhases_6a : ∃ (id : Nat) (k : Nat) (c : Coll) (s : State),
    CollRuns s id c ∧ s.colls = [c] ∧ PieceReady s c k ∧ crOp c.rec_ ≠ 6 :=
  ⟨4, 0, two 0 0 id, collRun1 (two 0 0 id) id, by decide +kernel⟩

def voted (dig1 : Word) (fl : Word) (s : State) : State := { s with mem := (((s.mem.setWord (0x8000 + 256 + 8) (TWord.int (two 0 1 id).digest)).setWord (0x8000 + 384 + 8) (TWord.int dig1)).setWord (0x8000 + 384) (TWord.int fl)) }

def withVote (v : Option Nat) : Coll := two 0 1 fun c => { c with voted := some 0, verdict := v }

theorem wit_CollectivePhases_7a : ∃ (id : Nat) (c : Coll) (v : Nat) (s : State),
    CollRuns s id c ∧ c.voted = some v ∧ c.verdict = none ∧ votesHeld s c = true ∧ Settled s ∧ (∀ e ∈ s.mem.tags, e.2 ≠ Tag.poison) ∧ crNorm c.rec_ = false ∧ crVerdict c.rec_ = true :=
  ⟨4, withVote none, 0, collRun1 (withVote none) (voted (two 0 1 id).digest 0), by decide +kernel⟩

theorem wit_CollectivePhases_7b : ∃ (id : Nat) (c : Coll) (v : Nat) (s : State),
    CollRuns s id c ∧ c.voted = some v ∧ c.verdict = none ∧ votesHeld s c = true ∧ Settled s ∧ (∀ e ∈ s.mem.tags, e.2 ≠ Tag.poison) ∧ crNorm c.rec_ = false ∧ crVerdict c.rec_ = true :=
  ⟨4, withVote none, 0, collRun1 (withVote none) (voted (two 0 1 id).digest 0x10000000000), by decide +kernel⟩

theorem wit_CollectivePhases_7c : ∃ (id : Nat) (c : Coll) (v : Nat) (s : State),
    CollRuns s id c ∧ c.voted = some v ∧ c.verdict = none ∧ votesHeld s c = true ∧ Settled s ∧ (∀ e ∈ s.mem.tags, e.2 ≠ Tag.poison) ∧ crNorm c.rec_ = false ∧ crVerdict c.rec_ = true :=
  ⟨4, withVote none, 0, collRun1 (withVote none) (voted 3 0), by decide +kernel⟩

theorem wit_CollectivePhases_8a : ∃ (id : Nat) (c : Coll) (v : Nat) (s : State),
    CollRuns s id c ∧ c.voted = some v ∧ c.verdict = none ∧ votesHeld s c = false ∧ v + c.vlim * 1000000 ≤ s.time :=
  ⟨4, { withVote none with vlim := 2 }, 0, collRun1 { withVote none with vlim := 2 } fun s => { s with landed := [⟨2, 0, 0, 260⟩], time := 5000000 }, by decide +kernel⟩

/-- A STEP whose gradient piece is reduced and whose state block has its tags. -/
def stepColl : Coll := two 6 0 fun c => { c with red := [(0, [0, 0, 128, 63])], hyper := (List.range 8).map (fun _ => TWord.zero), state_ := { Loc.none with kind := .local_, base := 0x10000, len := 65536 } }

def stepState (s : State) : State := { s with mem := (List.range 256).foldl (fun m k => m.setTag (0x11000 + 8 * k) (if k < 128 then Tag.fp32x2 else Tag.bf16x4)) s.mem }

theorem wit_CollectivePhases_9a : ∃ (id : Nat) (k : Nat) (c : Coll) (g : List Byte) (s : State),
    CollRuns s id c ∧ s.colls = [c] ∧ c.red = [(k, g)] ∧ c.res = [] ∧ crOp c.rec_ = 6 ∧ collOpen c = true ∧ hyTenant c.hyper = false ∧ (jobPlace s c.peck c.engs 7).isSome = true ∧ Settled s ∧ (∀ e ∈ s.mem.tags, e.2 ≠ Tag.poison) :=
  ⟨4, 0, stepColl, [0, 0, 128, 63], collRun1 stepColl stepState, by decide +kernel⟩

theorem wit_CollectivePhases_10a : ∃ (h : List TWord) (_t : Nat) (_sgn : FVal) (_w : FVal) (_m : FVal) (_v : FVal) (_g : FVal),
    hyProg h = 0 :=
  ⟨(List.range 8).map fun _ => TWord.zero, 1, .zero false, .num false 1 0, .num false 1 1, .zero false, .num false 3 0, by decide +kernel⟩

theorem wit_CollectivePhases_11a : ∃ (s : State) (id : Nat) (c : Coll),
    s.coll id = some c ∧ crOp c.rec_ = 6 ∧ (∀ k ∈ ownedChunks c.rec_, c.res.any (fun e => e.1 == k) = true) ∧ c.state_.base.toNat % 8 = 0 :=
  ⟨collRun1 { stepColl with res := [(0, [])] } id, 4, { stepColl with res := [(0, [])] }, by decide +kernel⟩

theorem wit_CollectivePhases_12a : ∃ (id : Nat) (k : Nat) (_deny : List Nat) (c : Coll) (b : List Byte) (lo : Nat) (n : Nat) (s : State),
    CollRuns s id c ∧ s.colls = [c] ∧ c.fwd = [] ∧ collOpen c = true ∧ crReduces c.rec_ = true ∧ resUnit c.rec_ k (crSelf c.rec_) = some (lo, n) ∧ ownRes c k = some b ∧ (∀ j ∈ resTargets c.rec_ (crSelf c.rec_), announced s c j = true) :=
  ⟨4, 0, [], two 0 0 fun c => { c with red := [(0, [0, 0, 128, 63])] }, [0, 0, 128, 63], 0, 2, collRun1 (two 0 0 fun c => { c with red := [(0, [0, 0, 128, 63])] }) id, by decide +kernel⟩

theorem wit_CollectivePhases_13a : ∃ (id : Nat) (k : Nat) (_deny : List Nat) (c : Coll) (s : State),
    CollRuns s id c ∧ s.colls = [c] ∧ c.done = [] ∧ k < crChunks c.rec_ ∧ collOpen c = true ∧ crOp c.rec_ ≠ 5 ∧ crNdst c.rec_ = 0 :=
  ⟨4, 0, [], two 0 0 id, collRun1 (two 0 0 id) id, by decide +kernel⟩

def twoDst : Coll := { collOf (recOf 0 0 2 1 1 4 4) true with dsts := [({ localSrc with base := 0x20000 }, 8)] }

theorem wit_CollectivePhases_14a : ∃ (id : Nat) (k : Nat) (_deny : List Nat) (c : Coll) (l : Loc) (off : Word) (s : State),
    CollRuns s id c ∧ s.colls = [c] ∧ c.done = [] ∧ k < crChunks c.rec_ ∧ collOpen c = true ∧ crOp c.rec_ ∉ [1, 5] ∧ crNdst c.rec_ = 1 ∧ c.dsts = [(l, off)] ∧ l.kind = .local_ ∧ crDstSplit c.rec_ = false :=
  ⟨4, 0, [], twoDst, { localSrc with base := 0x20000 }, 8, collRun1 twoDst id, by decide +kernel⟩

theorem wit_CollectivePhases_15a : ∃ (id : Nat) (c : Coll) (s : State),
    CollRuns s id c ∧ c.t0 + c.stall * 1000000 ≤ s.time :=
  ⟨4, two 0 0 fun c => { c with stall := 0 }, collRun1 (two 0 0 fun c => { c with stall := 0 }) fun s => { s with landed := [] }, by decide +kernel⟩

theorem wit_CollectivePhases_16a : ∃ (_lost : Nat) (c : Coll) (i : Item) (st : Status) (s : State),
    CollAlone s c ∧ c.endSt = some st ∧ st ≠ stOk ∧ s.item c.item = some i ∧ crVerdict c.rec_ = false ∧ crNorm c.rec_ = false :=
  ⟨0, two 0 0 fun c => { c with endSt := some stRedShape }, { recItem with phase := .active }, stRedShape, collRun1 (two 0 0 fun c => { c with endSt := some stRedShape }) fun s => { s with landed := [] }, by decide +kernel⟩

def whole : Coll := two 1 0 fun c => { c with sends := [(0, 0), (0, 1)], red := [(0, [])], done := [0] }

theorem wit_CollectivePhases_17a : ∃ (_lost : Nat) (c : Coll) (i : Item) (s : State),
    CollAlone s c ∧ c.endSt = none ∧ collAllDone c = true ∧ crOp c.rec_ ∉ [5, 6] ∧ s.item c.item = some i :=
  ⟨0, whole, { recItem with phase := .active }, collRun1 whole fun s => { s with landed := [] }, by decide +kernel⟩

def whole5 : Coll := two 5 0 fun c => { c with sends := [(0, 0), (0, 1)], done := [0], dropped := 2 }

theorem wit_CollectivePhases_18a : ∃ (_lost : Nat) (c : Coll) (i : Item) (s : State),
    CollAlone s c ∧ c.endSt = none ∧ collAllDone c = true ∧ crOp c.rec_ = 5 ∧ crReverse c.rec_ = false ∧ s.item c.item = some i :=
  ⟨3, whole5, { recItem with phase := .active }, collRun1 whole5 fun s => { s with landed := [] }, by decide +kernel⟩

theorem wit_CollectivePhases_19a : ∃ (_lost : Nat) (c : Coll) (s : State),
    s.coll c.id = some c ∧ Quiet s ∧ (c.sent ≠ 0 ∨ c.xfers ≠ []) ∧ c.sent ≠ 0 :=
  ⟨0, two 0 0 fun c => { c with sent := 1 }, collRun1 (two 0 0 fun c => { c with sent := 1 }) id, by decide +kernel⟩

def row9 : Coll := { collOf one false with rowsAt := 0, rowsLen := 256 }

theorem wit_CollectiveRequests_4a : ∃ (s : State) (c : Coll) (x : Landed) (k : Nat),
    s.landed = [x] ∧ x.index = c.landing.index ∧ x.seq = c.seq ∧ c.rowsAt ≤ x.off ∧ x.off + x.len ≤ c.rowsAt + c.rowsLen ∧ (c.landing.base.toNat + x.off) % 8 = 0 ∧ k < x.len / 8 ∧ (s.mem.word (c.landing.base.toNat + x.off + 8 * k)).tag ≠ Tag.poison :=
  ⟨ready fun s => { s with landed := [⟨2, 0, 128, 128⟩], mem := s.mem.setWord 0x8088 ⟨7, Tag.handle⟩ }, row9, ⟨2, 0, 128, 128⟩, 1, by decide +kernel⟩

theorem wit_CollectiveRequests_1c : ∀ e ∈ collectives, ∃ (id : Nat) (i : Item) (ws : List TWord) (s : State),
    CollAsked s id i ws ∧ wordPoison (wd ws 0) = false ∧ crOp ws = e.2 ∧ Quiet s ∧ anyPoison ws = false ∧ anyPoison (crLists s ws).2.words = true :=
  fun e he => ⟨5, recItem, whole9 e.2, { collAsk (whole9 e.2) with mem := (collAsk (whole9 e.2)).mem.setWord 0x1000 ⟨0, Tag.poison⟩ }, (by decide +kernel : ∀ e ∈ collectives, (fun (id : Nat) (i : Item) (ws : List TWord) (s : State) => CollAsked s id i ws ∧ wordPoison (wd ws 0) = false ∧ crOp ws = e.2 ∧ Quiet s ∧ anyPoison ws = false ∧ anyPoison (crLists s ws).2.words = true) (5) (recItem) (whole9 e.2) ({ collAsk (whole9 e.2) with mem := (collAsk (whole9 e.2)).mem.setWord 0x1000 ⟨0, Tag.poison⟩ })) e he⟩

theorem wit_CollectiveRequests_10a : ∃ (g : Group) (n : Nat) (m : Nat),
    g.done = n ∧ n < m ∧ g.gone = [] :=
  ⟨group9 0, 0, 2, by decide +kernel⟩

theorem wit_CollectiveRequests_11a : ∃ (g : Group) (n : Nat),
    g.done = n ∧ g.gone = [n + 1] :=
  ⟨{ group9 0 with gone := [1] }, 0, by decide +kernel⟩

theorem wit_CollectivePhases_5a : ∃ (c : Coll) (k : Nat),
    crReduces c.rec_ = true ∧ crSrcSplit c.rec_ = false ∧ c.sends.map (·.1) = List.range k ∧ k < crChunks c.rec_ ∧ collOpen c = true ∧ c.done = [] :=
  ⟨{ collOf (recOf 0 0 2 1 1 40 4) true with sends := [(0, 1)] }, 1, by decide +kernel⟩

/-- A sequence record of 16 words: full vocabulary 16, FP32 logits, greedy, tag rules kept; its INPUT is region 3, OUTPUT region 4. -/
def seqRec : List TWord := [TWord.int 0x1000000100, TWord.int 0, ⟨0x3F80000000000000, Tag.fp32x2⟩, ⟨0x3F80000000000000, Tag.fp32x2⟩, TWord.int 9, TWord.int 0, TWord.int 5,
  ⟨handle 3, Tag.handle⟩, ⟨handle 4, Tag.handle⟩] ++ List.replicate 7 TWord.zero

def accelRegion (base : Word) : Region := { region base 65536 with kind := .accel, aux := 1 }

def seqItem (t : BitVec 16) (b : List Word) : Item := request 1 t b [⟨stOk, handle 2, locOf (handle 2) (region 0x2000 4096)⟩]

/-- A device with a sequence record at 0x2000 and the sequences `q`, asked for `i`. -/
def genDev (r : List TWord) (q : List GenSeq) (i : List Item) : State := ready fun s =>
  let s := peck1 s
  { (s.setReg (rGenPeck 1) 0x20001).setEng 3 { Engine.reset with peck := 1 } with regions := [(2, region 0x2000 4096), (3, accelRegion 0), (4, accelRegion 0x10000)], windows := [(0, 0, 0x1000000), (4, 0, 0x1000000)], seqs := q, items := i, mem := r.zipIdx.foldl (fun (m : Memory) e => m.setWord (0x2000 + 8 * e.2) e.1) s.mem }

def seqAt (n : Nat) (st : Option GenStep) (q : List Nat) : GenSeq := ⟨n, 1, seqRec, 5, false, st, q, none⟩

theorem wit_SequenceTable_1a : ∃ (id : Nat) (i : Item) (s : State),
    Request s id 0x0300 i ∧ (i.ref 0).check [.local_] [rightRd] ≠ stOk :=
  ⟨5, request 1 0x0300 [3, 0] [⟨stStale, 0, Loc.none⟩], asked 1 0x0300 [3, 0] [⟨stStale, 0, Loc.none⟩] id, by decide +kernel⟩

theorem wit_SequenceTable_2a : ∃ (id : Nat) (i : Item) (r : List TWord) (s : State),
    Request s id 0x0300 i ∧ RecordAt s i (i.w 1) r ∧ genStatus s r ≠ stOk :=
  ⟨5, seqItem 0x0300 [3, 0], seqRec.set 0 TWord.zero, genDev (seqRec.set 0 TWord.zero) [] [seqItem 0x0300 [3, 0]], by decide +kernel⟩

theorem wit_SequenceTable_3a : ∃ (id : Nat) (i : Item) (r : List TWord) (s : State),
    Request s id 0x0300 i ∧ RecordAt s i (i.w 1) r ∧ genStatus s r = stOk ∧ s.seqs.length < 16384 ∧ fld (s.reg (rGenPeck i.fn)) 16 15 ≤ (s.seqs.filter fun e => e.peck == i.fn).length :=
  ⟨5, seqItem 0x0300 [3, 0], seqRec, genDev seqRec [seqAt 0 none [], seqAt 1 none []] [seqItem 0x0300 [3, 0]], by decide +kernel⟩

theorem wit_SequenceTable_3b : ∃ (id : Nat) (i : Item) (r : List TWord) (s : State),
    Request s id 0x0300 i ∧ RecordAt s i (i.w 1) r ∧ genStatus s r = stOk ∧ s.seqs.length < 16384 ∧ fld (s.reg (rGenPeck i.fn)) 0 8 = 0 :=
  ⟨5, seqItem 0x0300 [3, 0], seqRec, (genDev seqRec [seqAt 0 none []] [seqItem 0x0300 [3, 0]]).setReg (rGenPeck 1) 0x20000, by decide +kernel⟩

theorem wit_SequenceTable_4a : ∃ (id : Nat) (q : Nat) (i : Item) (r : List TWord) (s : State),
    Request s id 0x0300 i ∧ RecordAt s i (i.w 1) r ∧ genStatus s r = stOk ∧ s.seqs.length < 16384 ∧ (s.seqs.filter fun e => e.peck == i.fn).length < fld (s.reg (rGenPeck i.fn)) 16 15 ∧ fld (s.reg (rGenPeck i.fn)) 0 8 ≠ 0 ∧ q < 16384 ∧ s.seq q = none ∧ (∀ j ∈ List.range q, (s.seq j).isSome = true) :=
  ⟨5, 1, seqItem 0x0300 [3, 0], seqRec, genDev seqRec [seqAt 0 none []] [seqItem 0x0300 [3, 0]], by decide +kernel⟩

theorem wit_SequenceTable_5a : ∃ (id : Nat) (i : Item) (s : State),
    Request s id 0x0301 i ∧ seqOf s i.fn (fld (i.w 0) 0 16) = none :=
  ⟨5, seqItem 0x0301 [2, 3, 0], genDev seqRec [seqAt 0 none []] [seqItem 0x0301 [2, 3, 0]], by decide +kernel⟩

theorem wit_SequenceTable_6a : ∃ (id : Nat) (i : Item) (e : GenSeq) (r : List TWord) (s : State),
    Request s id 0x0301 i ∧ s.seqs = [e] ∧ e.peck = i.fn ∧ e.index = fld (i.w 0) 0 16 ∧ RecordAt s i (i.w 2) r ∧ genStatus s r = stOk ∧ fld (i.w 0) 16 1 = 1 :=
  ⟨5, seqItem 0x0301 [0x10002, 3, 0], seqAt 2 none [], seqRec, genDev seqRec [seqAt 2 none []] [seqItem 0x0301 [0x10002, 3, 0]], by decide +kernel⟩

theorem wit_SequenceTable_6b : ∃ (id : Nat) (i : Item) (e : GenSeq) (r : List TWord) (s : State),
    Request s id 0x0301 i ∧ s.seqs = [e] ∧ e.peck = i.fn ∧ e.index = fld (i.w 0) 0 16 ∧ RecordAt s i (i.w 2) r ∧ genStatus s r = stOk ∧ fld (i.w 0) 16 1 = 0 :=
  ⟨5, seqItem 0x0301 [2, 3, 0], { seqAt 2 none [] with kvfault := true }, seqRec.set 6 (TWord.int 9), genDev (seqRec.set 6 (TWord.int 9)) [{ seqAt 2 none [] with kvfault := true }] [seqItem 0x0301 [2, 3, 0]], by decide +kernel⟩

theorem wit_SequenceTable_6c : ∃ (id : Nat) (i : Item) (e : GenSeq) (r : List TWord) (s : State),
    Request s id 0x0301 i ∧ s.seqs = [e] ∧ e.peck = i.fn ∧ e.index = fld (i.w 0) 0 16 ∧ RecordAt s i (i.w 2) r ∧ genStatus s r ≠ stOk :=
  ⟨5, seqItem 0x0301 [2, 3, 0], seqAt 2 none [], seqRec.set 0 TWord.zero, genDev (seqRec.set 0 TWord.zero) [seqAt 2 none []] [seqItem 0x0301 [2, 3, 0]], by decide +kernel⟩

theorem wit_SequenceTable_7a : ∃ (s : State) (a : Nat) (_f : Bool) (_st : Status),
    a % 8 = 0 ∧ s.mem.tagAt a ≠ Tag.code ∧ s.mem.tagAt (a + 8) ≠ Tag.code ∧ s.cqs = [] :=
  ⟨genDev seqRec [] [], 0x2000, true, stTag, by decide +kernel⟩

theorem wit_SequenceTable_8a : ∃ (id : Nat) (i : Item) (s : State),
    Request s id 0x0302 i ∧ seqOf s i.fn (i.w 0).toNat = none :=
  ⟨5, seqItem 0x0302 [2], genDev seqRec [seqAt 1 none []] [seqItem 0x0302 [2]], by decide +kernel⟩

theorem wit_SequenceTable_9a : ∃ (id : Nat) (i : Item) (e : GenSeq) (s : State),
    Request s id 0x0302 i ∧ s.seqs = [e] ∧ e.peck = i.fn ∧ e.index = (i.w 0).toNat ∧ e.queue = [] ∧ e.step = none :=
  ⟨5, seqItem 0x0302 [2], seqAt 2 none [], genDev seqRec [seqAt 2 none []] [seqItem 0x0302 [2]], by decide +kernel⟩

def stepIt (b0 : Word) : Item := { request 1 0x0303 [b0, 5, 0, 128, 0, 0x77] [] with id := 6 }

/-- The region of an output record. -/
def locRegOut : Loc := locOf (handle 4) (region 0x10000 4096)

/-- A step in a phase. -/
def stepOf (ph : GenPhase) (st : Status) (toks : List Nat) : GenStep :=
  ⟨6, ph, seqRec, [0, 0, 128, 63, 0, 0, 0, 64] ++ List.replicate 248 0, true, st, toks, 0, none, 5, false, [3], { locRegOut with kind := .accel }, locRegOut, locRegOut, locRegOut⟩

theorem wit_SequenceTable_9b : ∃ (id : Nat) (i : Item) (e : GenSeq) (s : State),
    Request s id 0x0302 i ∧ s.seqs = [e] ∧ e.peck = i.fn ∧ e.index = (i.w 0).toNat ∧ e.queue = [] ∧ e.step ≠ none :=
  ⟨5, seqItem 0x0302 [2], seqAt 2 (some (stepOf .pull 0 [])) [], genDev seqRec [seqAt 2 (some (stepOf .pull 0 [])) []] [seqItem 0x0302 [2]], by decide +kernel⟩

theorem wit_DecodeSteps_1a : ∃ (id : Nat) (i : Item) (s : State),
    Request s id 0x0303 i ∧ seqOf s i.fn (fld (i.w 0) 0 16) = none :=
  ⟨6, stepIt 2, genDev seqRec [] [stepIt 2], by decide +kernel⟩

theorem wit_DecodeSteps_2a : ∃ (id : Nat) (i : Item) (e : GenSeq) (s : State),
    Request s id 0x0303 i ∧ s.seqs = [e] ∧ e.peck = i.fn ∧ e.index = fld (i.w 0) 0 16 ∧ stepFieldsOk e i.body = false :=
  ⟨6, stepIt 0x110002, seqAt 2 none [], { genDev seqRec [seqAt 2 none []] [stepIt 0x110002] with regions := [] }, by decide +kernel⟩

theorem wit_DecodeSteps_2b : ∃ (id : Nat) (i : Item) (e : GenSeq) (s : State),
    Request s id 0x0303 i ∧ s.seqs = [e] ∧ e.peck = i.fn ∧ e.index = fld (i.w 0) 0 16 ∧ stepFieldsOk e i.body = true ∧ fld (s.reg rGenCfg) 0 3 + (if e.step = none then 1 else 0) ≤ e.queue.length :=
  ⟨6, stepIt 2, seqAt 2 none [1, 2, 3, 4, 5], { genDev seqRec [seqAt 2 none [1, 2, 3, 4, 5]] [stepIt 2] with regions := [] }, by decide +kernel⟩

theorem wit_DecodeSteps_2c : ∃ (id : Nat) (i : Item) (e : GenSeq) (s : State),
    Request s id 0x0303 i ∧ s.seqs = [e] ∧ e.peck = i.fn ∧ e.index = fld (i.w 0) 0 16 ∧ stepFieldsOk e i.body = true ∧ e.queue.length < fld (s.reg rGenCfg) 0 3 + (if e.step = none then 1 else 0) :=
  ⟨6, stepIt 2, seqAt 2 none [1], genDev seqRec [seqAt 2 none [1]] [stepIt 2], by decide +kernel⟩

theorem wit_DecodeSteps_3a : ∃ (q : Nat) (id : Nat) (rest : List Nat) (e : GenSeq) (i : Item) (s : State),
    s.seqs = [e] ∧ e.index = q ∧ e.step = none ∧ e.queue = id :: rest ∧ ckptHoldsSeqs s e.peck = false ∧ s.item id = some i ∧ fld (i.w 0) 24 1 = 0 ∧ Quiet s ∧ dispatchStatus { s with seqs := [{ e with queue := rest }] } e i = stOk :=
  ⟨2, 6, [7], seqAt 2 none [6, 7], stepIt 2, genDev seqRec [seqAt 2 none [6, 7]] [stepIt 2], by decide +kernel⟩

theorem wit_DecodeSteps_3b : ∃ (q : Nat) (id : Nat) (rest : List Nat) (e : GenSeq) (i : Item) (s : State),
    s.seqs = [e] ∧ e.index = q ∧ e.step = none ∧ e.queue = id :: rest ∧ ckptHoldsSeqs s e.peck = false ∧ s.item id = some i ∧ fld (i.w 0) 24 1 = 0 ∧ Quiet s ∧ dispatchStatus { s with seqs := [{ e with queue := rest }] } e i ≠ stOk :=
  ⟨2, 6, [7], { seqAt 2 none [6, 7] with kvfault := true }, stepIt 2, { genDev seqRec [{ seqAt 2 none [6, 7] with kvfault := true }] [stepIt 2] with regions := [] }, by decide +kernel⟩

theorem wit_DecodeSteps_5a : ∃ (_s : State) (e : GenSeq) (i : Item),
    stepFieldsOk e i.body = true ∧ i.w 1 ≠ e.pos :=
  ⟨genDev seqRec [] [], { seqAt 2 none [] with pos := 4 }, stepIt 2, by decide +kernel⟩

theorem wit_DecodeSteps_6a : ∃ (_s : State) (e : GenSeq) (i : Item),
    stepFieldsOk e i.body = true ∧ i.w 1 = e.pos ∧ e.kvfault = true :=
  ⟨genDev seqRec [] [], { seqAt 2 none [] with kvfault := true }, stepIt 2, by decide +kernel⟩

theorem wit_DecodeSteps_7a : ∃ (q : Nat) (e : GenSeq) (s : State),
    s.seqs = [e] ∧ e.index = q ∧ (e.step ≠ none ∨ e.queue = []) ∧ Quiet s ∧ e.step ≠ none :=
  ⟨2, seqAt 2 (some (stepOf .pull 0 [])) [6], genDev seqRec [seqAt 2 (some (stepOf .pull 0 [])) [6]] [], by decide +kernel⟩

theorem wit_DecodeSteps_8a : ∃ (q : Nat) (e : GenSeq) (g : GenStep) (i : Item) (x : Nat) (u : State) (ts : List Nat) (s : State),
    Stepping s q e g i ∧ g.phase = .pull ∧ g.here = true ∧ gsTenant g.rec_ = false ∧ g.engs = [x] ∧ (s.eng x).peck.toNat = e.peck ∧ (s.eng x).resetting = false ∧ ((s.eng x).ctx 6).state = .free ∧ (sampler s g i.body).1 = u ∧ (sampler s g i.body).2.toOption = some ts ∧ Quiet u ∧ u.seqs = s.seqs :=
  ⟨2, seqAt 2 (some (stepOf .pull 0 [])) [], stepOf .pull 0 [], stepIt 2, 3, genDev seqRec [seqAt 2 (some (stepOf .pull 0 [])) []] [stepIt 2], [1], genDev seqRec [seqAt 2 (some (stepOf .pull 0 [])) []] [stepIt 2], by decide +kernel⟩

theorem wit_DecodeSteps_9a : ∃ (_s : State) (g : GenStep) (b : List Word),
    inputOk g.rec_ b g.input = false :=
  ⟨genDev seqRec [] [], { stepOf .pull 0 [] with input := [0, 0, 192, 127] }, [2, 5, 0, 128, 0, 0x77], by decide +kernel⟩

theorem wit_DecodeSteps_10a : ∃ (_s : State) (g : GenStep) (b : List Word) (es : List (Nat × FVal)) (t : Nat),
    inputOk g.rec_ b g.input = true ∧ gtDraft b = 0 ∧ rb g.rec_ 28 4 = 0x3F800000 ∧ (gsInvtemp g.rec_).isZero = true ∧ es = (rowEnts g.rec_ b g.input 0).map (fun e => (e.1, r32 e.2)) ∧ (∀ e ∈ es, badLogit e.2 = false) ∧ greedy es = some t :=
  ⟨genDev seqRec [] [], stepOf .pull 0 [], [2, 5, 0, 128, 0, 0x77], (rowEnts seqRec [2, 5, 0, 128, 0, 0x77] (stepOf .pull 0 []).input 0).map (fun e => (e.1, r32 e.2)), 1, by decide +kernel⟩

theorem wit_DecodeSteps_11a : ∃ (es : List (Nat × FVal)) (t : Nat),
    (∀ e ∈ es, e.2.isNan = false) ∧ greedy es = some t :=
  ⟨[(3, .num false 1 0), (2, .num false 1 1), (1, .zero true)], 2, by decide +kernel⟩

def outDone (toks : List Nat) (b : Word) : State := genDev seqRec [seqAt 2 (some (stepOf .sampled 0 toks)) []] [stepIt b]

def outAfter (s : State) (toks : List Nat) : State := (putOutput s 1 { locRegOut with kind := .accel } 128 (outputRecord stOk toks.length 0 0x77 (5 + BitVec.ofNat 64 toks.length) toks)).1

theorem wit_DecodeSteps_12a : ∃ (q : Nat) (e : GenSeq) (g : GenStep) (i : Item) (u : State) (s : State),
    Stepping s q e g i ∧ g.phase = .sampled ∧ g.st = stOk ∧ gsHist g.rec_ = 0 ∧ e.leaving = none ∧ putOutput s e.peck g.out (i.w 3).toNat (outputRecord stOk g.toks.length g.nacc (fld (i.w 5) 0 32) (g.pos + BitVec.ofNat 64 g.toks.length) g.toks) = (u, stOk) ∧ u.seqs = s.seqs ∧ u.items = s.items ∧ Quiet u ∧ g.toks.length ≤ 17 ∧ g.nacc ≤ 16 ∧ fld (i.w 0) 25 1 = 1 :=
  ⟨2, seqAt 2 (some (stepOf .sampled 0 [3])) [], stepOf .sampled 0 [3], stepIt 0x2000002, outAfter (outDone [3] 0x2000002) [3], outDone [3] 0x2000002, by decide +kernel⟩

theorem wit_DecodeSteps_12b : ∃ (q : Nat) (e : GenSeq) (g : GenStep) (i : Item) (u : State) (s : State),
    Stepping s q e g i ∧ g.phase = .sampled ∧ g.st = stOk ∧ gsHist g.rec_ = 0 ∧ e.leaving = none ∧ putOutput s e.peck g.out (i.w 3).toNat (outputRecord stOk g.toks.length g.nacc (fld (i.w 5) 0 32) (g.pos + BitVec.ofNat 64 g.toks.length) g.toks) = (u, stOk) ∧ u.seqs = s.seqs ∧ u.items = s.items ∧ Quiet u ∧ g.toks.length ≤ 17 ∧ g.nacc ≤ 16 ∧ fld (i.w 0) 24 1 = 1 :=
  ⟨2, seqAt 2 (some (stepOf .sampled 0 [3])) [], stepOf .sampled 0 [3], stepIt 0x1000002, outAfter (outDone [3] 0x1000002) [3], outDone [3] 0x1000002, by decide +kernel⟩

theorem wit_DecodeSteps_12c : ∃ (q : Nat) (e : GenSeq) (g : GenStep) (i : Item) (u : State) (s : State),
    Stepping s q e g i ∧ g.phase = .sampled ∧ g.st = stOk ∧ gsHist g.rec_ = 0 ∧ e.leaving = none ∧ putOutput s e.peck g.out (i.w 3).toNat (outputRecord stOk g.toks.length g.nacc (fld (i.w 5) 0 32) (g.pos + BitVec.ofNat 64 g.toks.length) g.toks) = (u, stOk) ∧ u.seqs = s.seqs ∧ u.items = s.items ∧ Quiet u ∧ g.toks.length ≤ 17 ∧ g.nacc ≤ 16 ∧ fld (i.w 0) 24 2 = 0 :=
  ⟨2, seqAt 2 (some (stepOf .sampled 0 [3])) [], stepOf .sampled 0 [3], stepIt 2, outAfter (outDone [3] 2) [3], outDone [3] 2, by decide +kernel⟩

def failed : State := genDev seqRec [seqAt 2 (some (stepOf .sampled stTag [])) []] [stepIt 2]

theorem wit_DecodeSteps_13a : ∃ (q : Nat) (e : GenSeq) (g : GenStep) (i : Item) (u : State) (s : State) (st : Status),
    Stepping s q e g i ∧ g.phase = .sampled ∧ g.st ≠ stOk ∧ e.leaving = none ∧ putOutput s e.peck g.out (i.w 3).toNat (outputRecord g.st 0 0 (fld (i.w 5) 0 32) g.pos []) = (u, st) ∧ u.seqs = s.seqs ∧ u.items = s.items ∧ Quiet u :=
  ⟨2, seqAt 2 (some (stepOf .sampled stTag [])) [], stepOf .sampled stTag [], stepIt 2, (putOutput failed 1 { locRegOut with kind := .accel } 128 (outputRecord stTag 0 0 0x77 5 [])).1, failed, stOk, by decide +kernel⟩

theorem wit_DecodeSteps_15a : ∃ (q : Nat) (_deny : List Nat) (e : GenSeq) (g : GenStep) (i : Item) (s : State),
    Stepping s q e g i ∧ g.phase = .written :=
  ⟨2, [], seqAt 2 (some (stepOf .written 0 [])) [], stepOf .written 0 [], stepIt 2, genDev seqRec [seqAt 2 (some (stepOf .written 0 [])) []] [stepIt 2], by decide +kernel⟩

theorem wit_DecodeSteps_16a : ∃ (id : Nat) (_deny : List Nat) (i : Item) (s : State),
    Request s id 0x0304 i ∧ Quiet s ∧ seqOf s i.fn (fld (i.w 0) 0 16) = none :=
  ⟨5, [], seqItem 0x0304 [0x10002, 3, 0], genDev seqRec [] [seqItem 0x0304 [0x10002, 3, 0]], by decide +kernel⟩

def moveRec : List TWord := ((seqRec.set 13 (TWord.int 8)).set 10 ⟨handle 2, Tag.handle⟩)

def moveSeq : GenSeq := { seqAt 2 none [] with rec_ := moveRec }

def moveList : List TWord := [⟨handle 3, Tag.handle⟩, TWord.int 1]

theorem wit_DecodeSteps_17a : ∃ (id : Nat) (_deny : List Nat) (i : Item) (e : GenSeq) (w : TWord) (s : State),
    Request s id 0x0304 i ∧ Quiet s ∧ seqOf s i.fn (fld (i.w 0) 0 16) = some e ∧ (i.ref 0).check [.local_] [rightRd] = stOk ∧ fld (i.w 0) 16 7 = 1 ∧ (i.ref 0).loc.holds (i.w 2) 16 16 = true ∧ gsKv e.rec_ ≠ 0 ∧ e.step = none ∧ Settled s ∧ isStale s (wd e.rec_ 10) = false :=
  ⟨5, [], seqItem 0x0304 [0x10002, 3, 0], moveSeq, ⟨handle 3, Tag.handle⟩, genDev moveList [moveSeq] [seqItem 0x0304 [0x10002, 3, 0]], by decide +kernel⟩

theorem wit_DecodeSteps_18a : ∃ (s : State) (_p : Nat) (_e : GenSeq) (id : Nat) (i : Item) (t : Loc) (w : TWord) (n : Nat) (_deny : List Nat),
    kvMoveStatus s t w n ≠ stOk ∧ s.item id = some i ∧ i.open_ = 1 ∧ i.st = stOk :=
  ⟨genDev moveList [moveSeq] [{ seqItem 0x0304 [0x10002, 3, 0] with open_ := 1 }], 1, moveSeq, 5, { seqItem 0x0304 [0x10002, 3, 0] with open_ := 1 }, locRegOut, ⟨handle 3, Tag.handle⟩, 0, [], by decide +kernel⟩

theorem wit_DecodeSteps_19a : ∃ (s : State) (m : KvMove) (a : Nat),
    a = m.kvt.base.toNat + 16 * m.page ∧ a % 8 = 0 ∧ s.mem.tagAt a ≠ Tag.code ∧ s.mem.tagAt (a + 8) ≠ Tag.code ∧ m.hword.tag ≠ Tag.code ∧ s.cqs = [] ∧ s.item m.item = none :=
  ⟨genDev moveList [moveSeq] [], ⟨3, 5, 2, 1, ⟨handle 3, Tag.handle⟩, locRegOut, { locRegOut with base := 0x3000 }, 0, stOk⟩, 0x3010, by decide +kernel⟩

theorem wit_DecodeSteps_4a : ∃ (_s : State) (e : GenSeq) (i : Item),
    stepFieldsOk e i.body = false :=
  ⟨genDev seqRec [] [], seqAt 2 none [], stepIt 0x110002, by decide +kernel⟩

theorem wit_SequenceTable_9c : ∃ (id : Nat) (i : Item) (e : GenSeq) (s : State),
    Request s id 0x0302 i ∧ s.seqs = [e] ∧ e.peck = i.fn ∧ e.index = (i.w 0).toNat ∧ e.queue = [] ∧ e.leaving ≠ none :=
  ⟨5, seqItem 0x0302 [2], { seqAt 2 none [] with leaving := some 4 }, genDev seqRec [{ seqAt 2 none [] with leaving := some 4 }] [seqItem 0x0302 [2]], by decide +kernel⟩

def movedStep : GenStep := { stepOf .sampled 0 [3] with moved := true }

def movedDev : State := genDev seqRec [{ seqAt 2 (some movedStep) [] with pos := 9 }] [stepIt 0x2000002]

theorem wit_DecodeSteps_12d : ∃ (q : Nat) (e : GenSeq) (g : GenStep) (i : Item) (u : State) (s : State),
    Stepping s q e g i ∧ g.phase = .sampled ∧ g.st = stOk ∧ gsHist g.rec_ = 0 ∧ e.leaving = none ∧ putOutput s e.peck g.out (i.w 3).toNat (outputRecord stOk g.toks.length g.nacc (fld (i.w 5) 0 32) (g.pos + BitVec.ofNat 64 g.toks.length) g.toks) = (u, stOk) ∧ u.seqs = s.seqs ∧ u.items = s.items ∧ Quiet u ∧ g.toks.length ≤ 17 ∧ g.nacc ≤ 16 ∧ g.moved = true :=
  ⟨2, { seqAt 2 (some movedStep) [] with pos := 9 }, movedStep, stepIt 0x2000002, outAfter movedDev [3], movedDev, by decide +kernel⟩

/-- A feed record: feed 2, one file and one destination, 16 tokens of 4 bytes a batch, 4 documents; its lists lie in region 2. -/
def feedRec : List TWord := [TWord.int 0x00010104_00020100, TWord.int 0x100000010, TWord.int 4, TWord.int 9, TWord.int 0xFFFFFFFF] ++
  ([3, 4, 5, 6].map fun k => (⟨handle k, Tag.handle⟩ : TWord)) ++ [TWord.int 1, TWord.int 7] ++ List.replicate 5 TWord.zero

def feedRegs : List (Nat × Region) := [(2, region 0x2000 4096), (3, region 0x3000 4096), (4, region 0x4000 4096), (5, region 0x5000 4096), (6, region 0x6000 4096), (7, { region 0 65536 with kind := .volume })]

def feedDev (ws : List TWord) (i : List Item) (f : List Feed) : State := ready fun s =>
  let s := (peck1 s).setEng 3 { Engine.reset with peck := 1 }
  { s with regions := feedRegs, items := i, feeds := f, mem := (ws.zipIdx.foldl (fun (m : Memory) e => m.setWord (0x2000 + 8 * e.2) e.1) ((s.mem.setWord 0x4000 ⟨handle 7, Tag.handle⟩).setWord 0x5000 ⟨handle 2, Tag.handle⟩)) }

def feedItem : Item := seqItem 0x0600 [3, 0]

def feedOf (ph : FeedPhase) : Feed := ⟨1, 2, 9, 3, 0, feedRec, 7, false, 1, 0, 0, 0, 1, ph, 0, stOk⟩

theorem wit_DataFeed_1a : ∃ (id : Nat) (i : Item) (s : State),
    Request s id 0x0600 i ∧ (i.ref 0).check [.local_] [rightRd] ≠ stOk :=
  ⟨5, request 1 0x0600 [3, 0] [⟨stStale, 0, Loc.none⟩], asked 1 0x0600 [3, 0] [⟨stStale, 0, Loc.none⟩] id, by decide +kernel⟩

theorem wit_DataFeed_2a : ∃ (id : Nat) (i : Item) (ws : List TWord) (s : State),
    Request s id 0x0600 i ∧ RecordAt s i (i.w 1) ws ∧ feedStatus s ws ≠ stOk :=
  ⟨5, feedItem, feedRec.set 0 TWord.zero, feedDev (feedRec.set 0 TWord.zero) [feedItem] [], by decide +kernel⟩

theorem wit_DataFeed_2b : ∃ (id : Nat) (i : Item) (ws : List TWord) (s : State),
    Request s id 0x0600 i ∧ RecordAt s i (i.w 1) ws ∧ feedStatus s ws = stOk ∧ (s.feed i.fn (fld (wd ws 0).bits 16 4)).isSome :=
  ⟨5, feedItem, feedRec, feedDev feedRec [feedItem] [feedOf .idle], by decide +kernel⟩

theorem wit_DataFeed_2c : ∃ (id : Nat) (i : Item) (ws : List TWord) (s : State),
    Request s id 0x0600 i ∧ RecordAt s i (i.w 1) ws ∧ feedStatus s ws = stOk ∧ s.feed i.fn (fld (wd ws 0).bits 16 4) = none ∧ (placeFor s i.fn (BitVec.ofNat 64 (2 ^ 47))).isSome :=
  ⟨5, feedItem, feedRec, feedDev feedRec [feedItem] [], by decide +kernel⟩

theorem wit_DataFeed_2d : ∃ (id : Nat) (i : Item) (ws : List TWord) (s : State),
    Request s id 0x0600 i ∧ RecordAt s i (i.w 1) ws ∧ (placeFor s i.fn (BitVec.ofNat 64 (2 ^ 47))).isNone :=
  ⟨5, feedItem, feedRec, (feedDev feedRec [feedItem] []).setEng 3 Engine.reset, by decide +kernel⟩

theorem wit_DataFeed_3a : ∃ (id : Nat) (i : Item) (f : Feed) (s : State),
    Request s id 0x0601 i ∧ s.feeds = [f] ∧ f.peck = i.fn ∧ f.id = (i.w 0).toNat :=
  ⟨5, seqItem 0x0601 [2, 9], feedOf .idle, feedDev feedRec [seqItem 0x0601 [2, 9]] [feedOf .idle], by decide +kernel⟩

theorem wit_DataFeed_4a : ∃ (id : Nat) (i : Item) (s : State),
    Request s id 0x0601 i ∧ s.feed i.fn (i.w 0).toNat = none :=
  ⟨5, seqItem 0x0601 [3, 9], feedDev feedRec [seqItem 0x0601 [3, 9]] [feedOf .idle], by decide +kernel⟩

theorem wit_DataFeed_5a : ∃ (id : Nat) (i : Item) (s : State),
    Request s id 0x0602 i ∧ s.feed i.fn (i.w 0).toNat = none :=
  ⟨5, seqItem 0x0602 [3], feedDev feedRec [seqItem 0x0602 [3]] [feedOf .idle], by decide +kernel⟩

theorem wit_DataFeed_6a : ∃ (id : Nat) (i : Item) (f : Feed) (s : State),
    Request s id 0x0602 i ∧ s.feeds = [f] ∧ f.peck = i.fn ∧ f.id = (i.w 0).toNat ∧ f.phase = .idle :=
  ⟨5, seqItem 0x0602 [2], feedOf .idle, feedDev feedRec [seqItem 0x0602 [2]] [feedOf .idle], by decide +kernel⟩

theorem wit_DataFeed_6b : ∃ (id : Nat) (i : Item) (f : Feed) (s : State),
    Request s id 0x0602 i ∧ s.feeds = [f] ∧ f.peck = i.fn ∧ f.id = (i.w 0).toNat ∧ f.phase ≠ .idle :=
  ⟨5, seqItem 0x0602 [2], feedOf .reading, feedDev feedRec [seqItem 0x0602 [2]] [feedOf .reading], by decide +kernel⟩

def feedHeld : Item := { feedItem with id := 9, phase := .active }

theorem wit_DataFeed_7a : ∃ (f : Feed) (i : Item) (_st : Status) (s : State),
    s.feeds = [f] ∧ s.msgs = [] ∧ s.reads = [] ∧ s.vreqs = [] ∧ Quiet s ∧ s.item f.item = some i ∧ f.eng < 128 ∧ f.slot < 8 :=
  ⟨feedOf .idle, feedHeld, stTag, feedDev feedRec [feedHeld] [feedOf .idle], by decide +kernel⟩

theorem wit_DataFeed_8a : ∃ (p : Fin 256) (id : Fin 16) (f : Feed) (s : State),
    s.feeds = [f] ∧ f.peck = p.val ∧ f.id = id.val ∧ f.phase = .idle ∧ Quiet s ∧ f.batch < f.limit :=
  ⟨1, 2, feedOf .idle, feedDev feedRec [feedHeld] [feedOf .idle], by decide +kernel⟩

theorem wit_DataFeed_8b : ∃ (p : Fin 256) (id : Fin 16) (f : Feed) (s : State),
    s.feeds = [f] ∧ f.peck = p.val ∧ f.id = id.val ∧ f.phase = .idle ∧ Quiet s ∧ f.stop = true :=
  ⟨1, 2, { feedOf .idle with stop := true }, feedDev feedRec [feedHeld] [{ feedOf .idle with stop := true }], by decide +kernel⟩

def feedWrote : State := feedDev feedRec [feedHeld] [feedOf .reading]

theorem wit_DataFeed_9a : ∃ (p : Fin 256) (id : Fin 16) (f : Feed) (u : State) (st : Status) (s : State),
    s.feeds = [f] ∧ f.peck = p.val ∧ f.id = id.val ∧ f.phase = .reading ∧ f.open_ = 0 ∧ f.st = stOk ∧ feedWrite s f ((feedPack s f).flatMap fun t => bytesOf 4 t) = (u, st) ∧ u.feeds = s.feeds :=
  ⟨1, 2, feedOf .reading, (feedWrite feedWrote (feedOf .reading) ((feedPack feedWrote (feedOf .reading)).flatMap fun t => bytesOf 4 t)).1, (feedWrite feedWrote (feedOf .reading) ((feedPack feedWrote (feedOf .reading)).flatMap fun t => bytesOf 4 t)).2, feedWrote, by decide +kernel⟩

theorem wit_DataFeed_10a : ∃ (p : Fin 256) (id : Fin 16) (f : Feed) (s : State),
    s.feeds = [f] ∧ f.peck = p.val ∧ f.id = id.val ∧ f.phase = .written ∧ f.stop = false ∧ fdEpochs f.rec_ = 0 ∧ s.cqs = [] :=
  ⟨1, 2, feedOf .written, feedDev feedRec [feedHeld] [feedOf .written], by decide +kernel⟩

theorem wit_DataFeed_11a : ∃ (seed : Word) (e : Nat) (h : Nat) (x : Nat) (y : Nat),
    x < 2 ^ (2 * h) ∧ y < 2 ^ (2 * h) ∧ feedF seed e h x = feedF seed e h y :=
  ⟨9, 1, 2, 7, 7, by decide +kernel⟩

def keyItem (t : BitVec 16) (b : List Word) (r : List Ref) : Item := request 1 t b r

def outRef : Ref := ⟨stOk, handle 3, locOf (handle 3) { region 0x2000 4096 with kind := .host }⟩

/-- Peck 1 holds key slot 3. -/
def keyDev (i : Item) (k : KeySlot) : State := ready fun s => ((s.setPeck 1 { Peck.reset with state := .active, vf0 := 7, keys := 8 }).setKey 3 k) |> fun s => { s with items := [i] }

def slot3 (st : KeyState) : KeySlot := { KeySlot.reset with state := st, peck := 1, count := 4, kind := 2, use := 63, limit := 9, key := if st = .loaded then [1, 2] else [] }

theorem wit_KeySlots_1a : ∃ (id : Nat) (_data : List Byte) (_st : Status) (i : Item) (s : State),
    Request s id 0x0700 i ∧ (i.ref 0).check [.local_, .host, .accel, .remote, .volume] [if (i.ref 0).loc.kind = .local_ then rightRd else rightCpin] = stOk ∧ (i.ref 0).loc.holds (i.w 2) 256 8 = true ∧ loadStatus s i.fn (fld (i.w 0) 0 12) ≠ stOk :=
  ⟨5, [], 0, keyItem 0x0700 [3, 0, 0] [outRef], keyDev (keyItem 0x0700 [3, 0, 0] [outRef]) (slot3 .loaded), by decide +kernel⟩

theorem wit_KeySlots_2a : ∃ (id : Nat) (data : List Byte) (st : Status) (i : Item) (s : State),
    Request s id 0x0700 i ∧ (i.ref 0).loc.kind ≠ .local_ ∧ (i.ref 0).check [.host, .accel, .remote, .volume] [rightCpin] = stOk ∧ (i.ref 0).loc.holds (i.w 2) 256 8 = true ∧ st = stOk ∧ data.length = 256 ∧ importFieldsOk data = false :=
  ⟨5, List.replicate 256 0, 0, keyItem 0x0700 [3, 0, 0] [outRef], keyDev (keyItem 0x0700 [3, 0, 0] [outRef]) (slot3 .empty), by decide +kernel⟩

theorem wit_KeySlots_2b : ∃ (id : Nat) (_data : List Byte) (st : Status) (i : Item) (s : State),
    Request s id 0x0700 i ∧ (i.ref 0).loc.kind ≠ .local_ ∧ (i.ref 0).check [.host, .accel, .remote, .volume] [rightCpin] = stOk ∧ (i.ref 0).loc.holds (i.w 2) 256 8 = true ∧ st ≠ stOk :=
  ⟨5, [], stCplTimeout, keyItem 0x0700 [3, 0, 0] [outRef], keyDev (keyItem 0x0700 [3, 0, 0] [outRef]) (slot3 .empty), by decide +kernel⟩

def importRec : List Byte := [0, 1, 1, 1] ++ List.replicate 108 0 ++ [24, 0] ++ List.replicate 142 0

theorem wit_KeySlots_2c : ∃ (id : Nat) (data : List Byte) (st : Status) (i : Item) (s : State),
    Request s id 0x0700 i ∧ (i.ref 0).loc.kind ≠ .local_ ∧ (i.ref 0).check [.host, .accel, .remote, .volume] [rightCpin] = stOk ∧ (i.ref 0).loc.holds (i.w 2) 256 8 = true ∧ st = stOk ∧ data.length = 256 ∧ importFieldsOk data = true :=
  ⟨5, importRec, 0, keyItem 0x0700 [3, 0, 0] [outRef], keyDev (keyItem 0x0700 [3, 0, 0] [outRef]) (slot3 .empty), by decide +kernel⟩

theorem wit_KeySlots_4a : ∃ (id : Nat) (i : Item) (s : State),
    Request s id 0x0701 i ∧ loadStatus s i.fn (fld (i.w 0) 0 12) ≠ stOk :=
  ⟨5, keyItem 0x0701 [4] [], keyDev (keyItem 0x0701 [4] []) (slot3 .empty), by decide +kernel⟩

theorem wit_KeySlots_5a : ∃ (id : Nat) (i : Item) (s : State),
    Request s id 0x0701 i ∧ loadStatus s i.fn (fld (i.w 0) 0 12) = stOk ∧ 1 ≤ fld (i.w 0) 16 8 ∧ fld (i.w 0) 16 8 ≤ 3 ∧ 1 ≤ fld (i.w 0) 24 8 ∧ fld (i.w 0) 24 8 ≤ 63 :=
  ⟨5, keyItem 0x0701 [0x01020003] [], keyDev (keyItem 0x0701 [0x01020003] []) (slot3 .empty), by decide +kernel⟩

theorem wit_KeySlots_6a : ∃ (id : Nat) (i : Item) (s : State),
    s.item id = some i ∧ i.typ.toNat = 0x0702 ∧ slotHeld s i.fn (fld (i.w 0) 0 12) = true ∧ slotBusy s (fld (i.w 0) 0 12) = false :=
  ⟨5, keyItem 0x0702 [3] [], keyDev (keyItem 0x0702 [3] []) (slot3 .loaded), by decide +kernel⟩

theorem wit_KeySlots_6b : ∃ (id : Nat) (i : Item) (s : State),
    s.item id = some i ∧ i.typ.toNat = 0x0702 ∧ i.phase = .dispatched ∧ slotHeld s i.fn (fld (i.w 0) 0 12) = false :=
  ⟨5, keyItem 0x0702 [4] [], keyDev (keyItem 0x0702 [4] []) (slot3 .loaded), by decide +kernel⟩

theorem wit_KeySlots_7a : ∃ (id : Nat) (i : Item) (s : State),
    Request s id 0x0704 i ∧ i.fn = 0 :=
  ⟨5, request 0 0x0704 [0, 0x1000] [], asked 0 0x0704 [0, 0x1000] [] id, by decide +kernel⟩

theorem wit_KeySlots_8a : ∃ (id : Nat) (i : Item) (s : State),
    Request s id 0x0704 i ∧ i.fn ≠ 0 ∧ (i.ref 0).check [.host, .local_] [rightWr] = stOk :=
  ⟨5, keyItem 0x0704 [0, 3, 0] [outRef], keyDev (keyItem 0x0704 [0, 3, 0] [outRef]) (slot3 .loaded), by decide +kernel⟩

theorem wit_KeySlots_8b : ∃ (id : Nat) (i : Item) (s : State),
    Request s id 0x0704 i ∧ i.fn ≠ 0 ∧ (i.ref 0).check [.host, .local_] [rightWr] ≠ stOk :=
  ⟨5, keyItem 0x0704 [0, 3, 0] [⟨stTag, 0, Loc.none⟩], keyDev (keyItem 0x0704 [0, 3, 0] [⟨stTag, 0, Loc.none⟩]) (slot3 .loaded), by decide +kernel⟩

theorem wit_KeySlots_9a : ∃ (_n : Fin 4096) (_part : RegPart) (_v : Word) (s : State),
    Ready s :=
  ⟨3, .low, 7, keyDev feedItem (slot3 .loaded), by decide +kernel⟩

theorem wit_KeySlots_9b : ∃ (_n : Fin 4096) (_part : RegPart) (_v : Word) (s : State),
    Ready s :=
  ⟨3, .high, 0x700000000, keyDev feedItem (slot3 .loaded), by decide +kernel⟩

theorem wit_KeySlots_10a : ∃ (_v : Word) (s : State),
    Ready s :=
  ⟨3, { keyDev feedItem (slot3 .loaded) with alarmLive := 2 }.setReg rKeyAlarm 7, by decide +kernel⟩

theorem wit_KeySlots_11a : ∃ (_src : Fin 4) (s : State),
    s.keys.Pairwise (fun a b => a.1 ≠ b.1) :=
  ⟨2, keyDev feedItem (slot3 .loaded), by decide +kernel⟩

def cqItem (b : List Word) : Item := keyItem 0x0703 b [codeRef]

theorem wit_CipherQueues_1a : ∃ (id : Nat) (i : Item) (s : State),
    Request s id 0x0703 i ∧ fld (i.w 0) 8 1 = 0 :=
  ⟨5, cqItem [1], keyDev (cqItem [1]) (slot3 .loaded), by decide +kernel⟩

def bigRef : Ref := ⟨stOk, handle 2, locOf (handle 2) (region 0x2000 4096)⟩

theorem wit_CipherQueues_2a : ∃ (id : Nat) (i : Item) (s : State),
    Request s id 0x0703 i ∧ fld (i.w 0) 8 1 = 1 ∧ s.cqs = [] ∧ (i.ref 0).check [.local_] [rightRd, rightWr] = stOk ∧ (i.ref 0).loc.holds (i.w 2) (64 + 64 * 2 ^ fld (i.w 3) 0 8) 64 = true :=
  ⟨5, keyItem 0x0703 [0x101, 3, 0, 4] [bigRef], keyDev (keyItem 0x0703 [0x101, 3, 0, 4] [bigRef]) (slot3 .loaded), by decide +kernel⟩

/-- Queue 1 of Peck 1 at 0x2000 with a command at 0x2040 whose mode is `m`. -/
def cqDev (w0 : TWord) : State := { keyDev feedItem (slot3 .loaded) with cqs := [(5, ⟨true, 0x2000, 4, 1, 0, false⟩)], mem := Memory.empty.setWord 0x2040 w0 }

def modeWord (m : Option Nat) : TWord := TWord.int (BitVec.ofNat 64 (0x100 + m.getD 5 * 65536))

theorem wit_CipherQueues_3a : ∀ e ∈ ([(.cbcEncrypt, some 0), (.cbcDecrypt, some 1), (.cfbEncrypt, some 2), (.cfbDecrypt, some 3), (.ctr, some 4), (.cipherCommandRefused, none)] :
      List ((Fin 256 → Fin 4 → Instr) × Option Nat)), ∃ (p : Fin 256) (q : Fin 4) (a : Nat) (s : State),
    nextCipher s p.val q.val = some a ∧ Settled s ∧ e.2 = (if (s.mem.word a).tag = Tag.int64 ∧ fld (s.mem.word a).bits 16 8 ≤ 4 then some (fld (s.mem.word a).bits 16 8) else none) :=
  fun e he => ⟨1, 1, 0x2040, cqDev (modeWord e.2), (by decide +kernel : ∀ e ∈ ([(.cbcEncrypt, some 0), (.cbcDecrypt, some 1), (.cfbEncrypt, some 2), (.cfbDecrypt, some 3), (.ctr, some 4), (.cipherCommandRefused, none)] :
      List ((Fin 256 → Fin 4 → Instr) × Option Nat)), (fun (p : Fin 256) (q : Fin 4) (a : Nat) (s : State) => nextCipher s p.val q.val = some a ∧ Settled s ∧ e.2 = (if (s.mem.word a).tag = Tag.int64 ∧ fld (s.mem.word a).bits 16 8 ≤ 4 then some (fld (s.mem.word a).bits 16 8) else none)) (1) (1) (0x2040) (cqDev (modeWord e.2))) e he⟩

theorem wit_CipherQueues_3b : ∀ e ∈ ([(.cbcEncrypt, some 0), (.cbcDecrypt, some 1), (.cfbEncrypt, some 2), (.cfbDecrypt, some 3), (.ctr, some 4), (.cipherCommandRefused, none)] :
      List ((Fin 256 → Fin 4 → Instr) × Option Nat)), ∃ (p : Fin 256) (q : Fin 4) (a : Nat) (s : State),
    nextCipher s p.val q.val = some a ∧ Settled s ∧ e.2 ≠ (if (s.mem.word a).tag = Tag.int64 ∧ fld (s.mem.word a).bits 16 8 ≤ 4 then some (fld (s.mem.word a).bits 16 8) else none) :=
  fun e he => ⟨1, 1, 0x2040, cqDev (modeWord (if e.2 = some 0 then some 1 else some 0)), (by decide +kernel : ∀ e ∈ ([(.cbcEncrypt, some 0), (.cbcDecrypt, some 1), (.cfbEncrypt, some 2), (.cfbDecrypt, some 3), (.ctr, some 4), (.cipherCommandRefused, none)] :
      List ((Fin 256 → Fin 4 → Instr) × Option Nat)), (fun (p : Fin 256) (q : Fin 4) (a : Nat) (s : State) => nextCipher s p.val q.val = some a ∧ Settled s ∧ e.2 ≠ (if (s.mem.word a).tag = Tag.int64 ∧ fld (s.mem.word a).bits 16 8 ≤ 4 then some (fld (s.mem.word a).bits 16 8) else none)) (1) (1) (0x2040) (cqDev (modeWord (if e.2 = some 0 then some 1 else some 0)))) e he⟩

theorem wit_CipherQueues_4a : ∀ e ∈ ([(.cbcEncrypt, some 0), (.cbcDecrypt, some 1), (.cfbEncrypt, some 2), (.cfbDecrypt, some 3), (.ctr, some 4), (.cipherCommandRefused, none)] :
      List ((Fin 256 → Fin 4 → Instr) × Option Nat)), ∃ (p : Fin 256) (q : Fin 4) (s : State),
    nextCipher s p.val q.val = none :=
  fun e he => ⟨1, 2, cqDev (modeWord (some 0)), (by decide +kernel : ∀ e ∈ ([(.cbcEncrypt, some 0), (.cbcDecrypt, some 1), (.cfbEncrypt, some 2), (.cfbDecrypt, some 3), (.ctr, some 4), (.cipherCommandRefused, none)] :
      List ((Fin 256 → Fin 4 → Instr) × Option Nat)), (fun (p : Fin 256) (q : Fin 4) (s : State) => nextCipher s p.val q.val = none) (1) (2) (cqDev (modeWord (some 0)))) e he⟩

theorem wit_CipherQueues_5a : ∃ (_p : Nat) (a : Nat) (ws : List TWord) (s : State),
    a % 8 = 0 ∧ Settled s ∧ ws = (List.range 8).map (fun k => s.mem.word (a + 8 * k)) ∧ anyPoison ws = false ∧ cipherFieldsOk ws = false :=
  ⟨1, 0x2040, modeWord (some 0) :: List.replicate 7 TWord.zero, cqDev (modeWord (some 0)), by decide +kernel⟩

theorem wit_CipherQueues_5b : ∃ (_p : Nat) (a : Nat) (ws : List TWord) (s : State),
    a % 8 = 0 ∧ Settled s ∧ ws = (List.range 8).map (fun k => s.mem.word (a + 8 * k)) ∧ anyPoison ws = true :=
  ⟨1, 0x2040, ⟨0, Tag.poison⟩ :: List.replicate 7 TWord.zero, cqDev ⟨0, Tag.poison⟩, by decide +kernel⟩

def cmdWords : List TWord := [modeWord (some 0), TWord.zero, TWord.zero, TWord.zero, TWord.zero, ⟨16, Tag.nil⟩, TWord.zero, TWord.zero]

theorem wit_CipherQueues_5c : ∃ (_p : Nat) (a : Nat) (ws : List TWord) (s : State),
    a % 8 = 0 ∧ Settled s ∧ ws = (List.range 8).map (fun k => s.mem.word (a + 8 * k)) ∧ anyPoison ws = false ∧ cipherFieldsOk ws = true ∧ cipherTagsOk ws = false :=
  ⟨1, 0x2040, cmdWords, { cqDev (modeWord (some 0)) with mem := (Memory.empty.setWord 0x2040 (modeWord (some 0))).setWord 0x2068 ⟨16, Tag.nil⟩ }, by decide +kernel⟩

theorem wit_CipherQueues_6a : ∃ (p : Nat) (q : Nat) (a : Nat) (_st : Status) (s : State),
    a % 8 = 0 ∧ (s.cq (4 * p + q)).base % 8 = 0 ∧ (s.mem.word a).tag = Tag.int64 ∧ s.mem.tagAt ((s.cq (4 * p + q)).base + 8) ≠ Tag.code ∧ s.cqs = [(4 * p + q, { s.cq (4 * p + q) with en := true, stopped := false })] ∧ (s.cq (4 * p + q)).base ≠ a ∧ (s.cq (4 * p + q)).base + 8 ≠ a :=
  ⟨1, 1, 0x2040, stTag, cqDev (modeWord (some 0)), by decide +kernel⟩

theorem wit_CipherQueues_7a : ∃ (_key : List Nat) (bs : List (List Nat)) (_iv : List Nat),
    (∀ b ∈ bs, b.length = 16) :=
  ⟨List.replicate 16 3, [List.replicate 16 1, List.replicate 16 9], List.replicate 16 7, by decide +kernel⟩

theorem wit_CipherQueues_8a : ∃ (_key : List Nat) (bs : List (List Nat)) (_iv : List Nat),
    (∀ b ∈ bs, b.length = 16) :=
  ⟨List.replicate 16 3, [List.replicate 16 1, List.replicate 16 9], List.replicate 16 7, by decide +kernel⟩

/-- A checkpoint of Peck 1 in a phase, with one section of one unit that begins at byte 0 of region 2. -/
def ckptOf (ph : Nat) (out : OutPhase) : Ckpt :=
  ⟨1, some 9, ph, [TWord.int 0x0000000100000100], [(locRef.loc, [TWord.zero, TWord.int 0, TWord.int 16])], { locRef.loc with base := 0x8000 }, { Loc.none with kind := .remote, base := 0x10000, len := 0x100000 }, 0, Memory.empty, [], [⟨7, 0, 0xF, 16, 0, 1, true, false, [], 0⟩],
    3, 1, out, [], [], [], [], [], 0, 0, 0, [], 0x20000, 4096, 3, []⟩

def ckptHeld : Item := { seqItem 0x0800 [3, 0] with id := 9, phase := .active }

def ckptDev (c : List Ckpt) (i : List Item) (f : State → State) : State := ready fun s => f { peck1 s with ckpts := c, items := i }

/-- A checkpoint record at 0x2000 with the list at 0x2100, of one LOCAL source. -/
def ckptRec (flags : Nat) : List TWord := [TWord.int (BitVec.ofNat 64 (0x100 + flags * 65536 + 2 ^ 32 + 3 * 2 ^ 48)), TWord.int 0, TWord.int 5, TWord.int 0x10000, ⟨handle 3, Tag.handle⟩, ⟨handle 4, Tag.handle⟩, ⟨handle 7, Tag.handle⟩] ++ List.replicate 9 TWord.zero

def ckptList : List TWord := [⟨handle 2, Tag.handle⟩, TWord.int 0, TWord.int 16, TWord.int 0xF0000000007, TWord.zero, TWord.zero, TWord.zero, TWord.zero]

def ckptAsk (r : List TWord) : State := ready fun s =>
  let s := (s.setPeck 1 { Peck.reset with state := .active, vf0 := 7, keys := 8 }).setKey 3 (slot3 .loaded)
  { s with regions := [(2, region 0x2000 4096), (3, region 0x3000 4096), (4, region 0x100000 0x2000000), (7, { region 0 0x1000000 with kind := .volume })], items := [seqItem 0x0800 [3, 0]], mem := ckptList.zipIdx.foldl (fun (m : Memory) e => m.setWord (0x3000 + 8 * e.2) e.1) (r.zipIdx.foldl (fun (m : Memory) e => m.setWord (0x2000 + 8 * e.2) e.1) s.mem) }

theorem wit_CheckpointRequests_1a : ∃ (id : Nat) (i : Item) (s : State),
    Request s id 0x0800 i ∧ (i.ref 0).check [.local_] [rightRd] ≠ stOk :=
  ⟨5, request 1 0x0800 [3, 0] [⟨stStale, 0, Loc.none⟩], asked 1 0x0800 [3, 0] [⟨stStale, 0, Loc.none⟩] id, by decide +kernel⟩

theorem wit_CheckpointRequests_2a : ∃ (id : Nat) (i : Item) (ws : List TWord) (es : List (List TWord)) (s : State),
    Request s id 0x0800 i ∧ (i.ref 0).check [.local_] [rightRd] = stOk ∧ (i.ref 0).loc.holds (i.w 1) 128 128 = true ∧ Settled s ∧ ws = (List.range 16).map (fun k => s.mem.word ((i.ref 0).loc.base.toNat + (i.w 1).toNat + 8 * k)) ∧ es = (if anyPoison ws = false ∧ ckNsrc ws ≤ 256 ∧ recRegion s (wd ws 4) [rightRd] (64 * ckNsrc ws) = stOk then srcEntries (memWords s.mem (regionBase s (wd ws 4)) (8 * ckNsrc ws)) (ckNsrc ws) else []) ∧ ckptStatus s i.fn ws es (stateHeads s es).2 = stOk :=
  ⟨5, seqItem 0x0800 [3, 0], ckptRec 0, [ckptList], ckptAsk (ckptRec 0), by decide +kernel⟩

theorem wit_CheckpointRequests_2b : ∃ (id : Nat) (i : Item) (ws : List TWord) (es : List (List TWord)) (s : State),
    Request s id 0x0800 i ∧ (i.ref 0).check [.local_] [rightRd] = stOk ∧ (i.ref 0).loc.holds (i.w 1) 128 128 = true ∧ Settled s ∧ ws = (List.range 16).map (fun k => s.mem.word ((i.ref 0).loc.base.toNat + (i.w 1).toNat + 8 * k)) ∧ es = (if anyPoison ws = false ∧ ckNsrc ws ≤ 256 ∧ recRegion s (wd ws 4) [rightRd] (64 * ckNsrc ws) = stOk then srcEntries (memWords s.mem (regionBase s (wd ws 4)) (8 * ckNsrc ws)) (ckNsrc ws) else []) ∧ ckptStatus s i.fn ws es (stateHeads s es).2 = stUndef :=
  ⟨5, seqItem 0x0800 [3, 0], (ckptRec 0).set 3 (TWord.int 1), [ckptList], ckptAsk ((ckptRec 0).set 3 (TWord.int 1)), by decide +kernel⟩

theorem wit_CheckpointRequests_3a : ∃ (id : Nat) (i : Item) (s : State),
    Request s id 0x0801 i ∧ s.ckpt i.fn true = none :=
  ⟨5, seqItem 0x0801 [7, 0, 8], ckptDev [] [seqItem 0x0801 [7, 0, 8]] id, by decide +kernel⟩

theorem wit_CheckpointRequests_4a : ∃ (id : Nat) (i : Item) (c : Ckpt) (s : State),
    Request s id 0x0801 i ∧ CkptIs s i.fn c ∧ c.phase ≠ 3 :=
  ⟨5, seqItem 0x0801 [7, 0, 8], ckptOf 4 .idle, ckptDev [ckptOf 4 .idle] [seqItem 0x0801 [7, 0, 8]] id, by decide +kernel⟩

theorem wit_CheckpointRequests_4b : ∃ (id : Nat) (i : Item) (c : Ckpt) (s : State),
    Request s id 0x0801 i ∧ CkptIs s i.fn c ∧ c.phase = 3 ∧ guardUnits c i = none :=
  ⟨5, seqItem 0x0801 [8, 0, 8], ckptOf 3 .idle, ckptDev [ckptOf 3 .idle] [seqItem 0x0801 [8, 0, 8]] id, by decide +kernel⟩

theorem wit_CheckpointRequests_4c : ∃ (id : Nat) (i : Item) (c : Ckpt) (s : State),
    Request s id 0x0801 i ∧ CkptIs s i.fn c ∧ c.phase = 3 ∧ guardUnits c i = some [0] :=
  ⟨5, seqItem 0x0801 [7, 0, 8], ckptOf 3 .idle, ckptDev [ckptOf 3 .idle] [seqItem 0x0801 [7, 0, 8]] id, by decide +kernel⟩

def guardIt : Item := { seqItem 0x0801 [7, 0, 8] with phase := .active }

theorem wit_CheckpointRequests_5a : ∃ (i : Item) (c : Ckpt) (us : List Nat) (s : State),
    CkptIs s i.fn c ∧ c.phase = 3 ∧ s.items = [i] ∧ i.typ.toNat = 0x0801 ∧ i.phase = .active ∧ guardUnits c i = some us :=
  ⟨guardIt, { ckptOf 3 .idle with done := [0] }, [0], ckptDev [{ ckptOf 3 .idle with done := [0] }] [guardIt] id, by decide +kernel⟩

theorem wit_CheckpointRequests_5b : ∃ (i : Item) (c : Ckpt) (us : List Nat) (s : State),
    CkptIs s i.fn c ∧ c.phase = 3 ∧ s.items = [i] ∧ i.typ.toNat = 0x0801 ∧ i.phase = .active ∧ guardUnits c i = some us :=
  ⟨guardIt, ckptOf 3 .idle, [0], ckptDev [ckptOf 3 .idle] [guardIt] id, by decide +kernel⟩

theorem wit_CheckpointRequests_6a : ∃ (id : Nat) (i : Item) (s : State),
    Request s id 0x0802 i ∧ s.ckpt i.fn true = none :=
  ⟨5, seqItem 0x0802 [0], ckptDev [] [seqItem 0x0802 [0]] id, by decide +kernel⟩

theorem wit_CheckpointRequests_7a : ∃ (id : Nat) (i : Item) (c : Ckpt) (s : State),
    Request s id 0x0802 i ∧ CkptIs s i.fn c ∧ c.phase ≤ 3 :=
  ⟨5, seqItem 0x0802 [0], ckptOf 3 .idle, ckptDev [ckptOf 3 .idle] [seqItem 0x0802 [0], ckptHeld] id, by decide +kernel⟩

theorem wit_CheckpointRequests_7b : ∃ (id : Nat) (i : Item) (c : Ckpt) (s : State),
    Request s id 0x0802 i ∧ CkptIs s i.fn c ∧ 3 < c.phase :=
  ⟨5, seqItem 0x0802 [0], ckptOf 4 .idle, ckptDev [ckptOf 4 .idle] [seqItem 0x0802 [0], ckptHeld] id, by decide +kernel⟩

theorem wit_CheckpointRequests_8a : ∃ (p : Nat) (c : Ckpt) (i : Item) (_st : Status) (s : State),
    CkptIs s p c ∧ c.item = some i.id ∧ s.item i.id = some i ∧ Still s ∧ c.mir = 0 ∧ NoGuards s p :=
  ⟨1, ckptOf 3 .idle, ckptHeld, stTag, ckptDev [ckptOf 3 .idle] [ckptHeld] id, by decide +kernel⟩

theorem wit_CheckpointRequests_9a : ∃ (id : Nat) (i : Item) (s : State),
    Request s id 0x0804 i ∧ fld (i.w 0) 0 8 = 1 ∧ (s.peck 1).state ≠ .free :=
  ⟨5, request 0 0x0804 [1, 20] [], ckptDev [{ ckptOf 1 .idle with rec_ := ckptRec 4 }] [request 0 0x0804 [1, 20] []] fun s => { s with notices := [(1, 7), (2, 5)] }, by decide +kernel⟩

theorem wit_CheckpointRequests_9b : ∃ (id : Nat) (i : Item) (s : State),
    Request s id 0x0804 i ∧ fld (i.w 0) 0 8 = 0 :=
  ⟨5, request 0 0x0804 [0, 20] [], ckptDev [] [request 0 0x0804 [0, 20] []] id, by decide +kernel⟩

theorem wit_CheckpointRequests_11a : ∃ (p : Fin 256) (t : Nat) (c : Ckpt) (s : State),
    s.notices = [(p.val, t)] ∧ CkptIs s p.val c ∧ t ≤ s.time ∧ c.phase ≤ 3 :=
  ⟨1, 7, ckptOf 3 .idle, ckptDev [ckptOf 3 .idle] [ckptHeld] fun s => { s with notices := [(1, 7)], time := 7 }, by decide +kernel⟩

theorem wit_CheckpointRequests_11b : ∃ (p : Fin 256) (t : Nat) (c : Ckpt) (s : State),
    s.notices = [(p.val, t)] ∧ CkptIs s p.val c ∧ t ≤ s.time ∧ 3 < c.phase :=
  ⟨1, 7, ckptOf 4 .idle, ckptDev [ckptOf 4 .idle] [ckptHeld] fun s => { s with notices := [(1, 7)], time := 7 }, by decide +kernel⟩

theorem wit_CheckpointRequests_12a : ∃ (p : Fin 256) (t : Nat) (s : State),
    s.notices = [(p.val, t)] ∧ s.ckpt p.val true = none ∧ t ≤ s.time :=
  ⟨1, 7, ckptDev [] [] fun s => { s with notices := [(1, 7)], time := 7 }, by decide +kernel⟩

/-- A mirror of the partner's Peck 1. -/
def mirrorOf : Mirror := ⟨1, 0x40000, 2, [], [], [], 3, 1, 4096, 5, 3, false, [], 0, false, some 0⟩

theorem wit_CheckpointRequests_13a : ∃ (_part : RegPart) (_v : Word) (s : State),
    Ready s ∧ s.mirrors ≠ [] :=
  ⟨.full, 7, ckptDev [] [] fun s => { s with mirrors := [mirrorOf] }, by decide +kernel⟩

theorem wit_CheckpointRequests_14a : ∃ (v : Word) (s : State),
    Ready s ∧ s.mirrors = [] ∧ 196608 < fld v 0 18 + fld v 32 18 :=
  ⟨0x3000000030000, ckptDev [] [] id, by decide +kernel⟩

theorem wit_CheckpointRequests_15a : ∃ (v : Word) (s : State),
    Ready s ∧ s.mirrors = [] ∧ fld v 0 18 + fld v 32 18 ≤ 98048 ∧ (∀ e ∈ s.pecks, ∀ k ∈ List.range (fld v 32 18), e.2.grains.testBit (fld v 0 18 + k) = false) :=
  ⟨0x200000005, ckptDev [] [] id, by decide +kernel⟩

theorem wit_CheckpointPhases_1a : ∃ (p : Fin 256) (c : Ckpt) (s : State),
    CkptIs s p.val c ∧ (c.phase ≠ 2 ∨ cutWaits s c = true) ∧ c.phase ≠ 2 :=
  ⟨1, ckptOf 3 .idle, ckptDev [ckptOf 3 .idle] [] id, by decide +kernel⟩

theorem wit_CheckpointPhases_2a : ∃ (p : Fin 256) (c : Ckpt) (s : State),
    CkptIs s p.val c ∧ c.phase = 2 ∧ cutWaits s c = false ∧ Settled s ∧ Quiet s ∧ fld (wd c.rec_ 0).bits 16 1 = 0 ∧ c.dest.kind = .remote ∧ anyUp s = false :=
  ⟨1, ckptOf 2 .idle, ckptDev [ckptOf 2 .idle] [ckptHeld] fun s => { s with time := 44 }, by decide +kernel⟩

theorem wit_CheckpointPhases_3a : ∃ (p : Fin 256) (_deny : List Nat) (c : Ckpt) (u : Nat) (s : State),
    CkptIs s p.val c ∧ c.phase = 3 ∧ nextUnit c = some u :=
  ⟨1, [], ckptOf 3 .idle, 0, ckptDev [ckptOf 3 .idle] [ckptHeld] id, by decide +kernel⟩

theorem wit_CheckpointPhases_4a : ∃ (p : Fin 256) (_deny : List Nat) (c : Ckpt) (s : State),
    CkptIs s p.val c ∧ (c.phase ≠ 3 ∨ nextUnit c = none) ∧ nextUnit c = none :=
  ⟨1, [], { ckptOf 3 .idle with done := [0] }, ckptDev [{ ckptOf 3 .idle with done := [0] }] [ckptHeld] id, by decide +kernel⟩

theorem wit_CheckpointPhases_5a : ∃ (_s : State) (c : Ckpt) (u : Nat) (k : Nat) (j : Nat) (x : Sect) (l : Loc) (e : List TWord) (_deny : List Nat),
    unitSect c u = some (k, x, j) ∧ c.srcs[k]? = some (l, e) ∧ l.kind = .local_ :=
  ⟨ckptDev [ckptOf 3 .idle] [ckptHeld] id, ckptOf 3 .idle, 0, 0, 0, ⟨7, 0, 0xF, 16, 0, 1, true, false, [], 0⟩, locRef.loc, [TWord.zero, TWord.int 0, TWord.int 16], [], by decide +kernel⟩

theorem wit_CheckpointPhases_6a : ∃ (p : Fin 256) (c : Ckpt) (s : State),
    CkptIs s p.val c ∧ 3 ≤ c.phase ∧ (c.out_ = .idle ∨ c.out_ = .records) ∧ c.out_ = .idle :=
  ⟨1, ckptOf 3 .idle, ckptDev [ckptOf 3 .idle] [ckptHeld] id, by decide +kernel⟩

theorem wit_CheckpointPhases_6b : ∃ (p : Fin 256) (c : Ckpt) (s : State),
    CkptIs s p.val c ∧ 3 ≤ c.phase ∧ (c.out_ = .idle ∨ c.out_ = .records) ∧ c.out_ = .records :=
  ⟨1, ckptOf 3 .records, ckptDev [ckptOf 3 .records] [ckptHeld] id, by decide +kernel⟩

theorem wit_CheckpointPhases_7a : ∃ (_s : State) (c : Ckpt) (k : Nat) (j : Nat) (x : Sect),
    (recordList c.sects)[c.data.length]? = some (k, x, j) ∧ x.skind ≠ 4 ∧ c.item.isSome = true ∧ c.done.contains (x.unit0 + j) = false :=
  ⟨ckptDev [ckptOf 3 .records] [ckptHeld] id, ckptOf 3 .records, 0, 0, ⟨7, 0, 0xF, 16, 0, 1, true, false, [], 0⟩, by decide +kernel⟩

def recorded : Ckpt := { ckptOf 4 .records with data := [(0, [1])], dest := { Loc.none with kind := .volume, len := 0x100000 } }

theorem wit_CheckpointPhases_8a : ∃ (p : Fin 256) (c : Ckpt) (s : State),
    CkptIs s p.val c ∧ c.phase = 4 ∧ c.out_ = .records ∧ c.open_ = 0 ∧ c.data.length = (recordList c.sects).length ∧ c.dest.kind = .volume :=
  ⟨1, recorded, ckptDev [recorded] [ckptHeld] id, by decide +kernel⟩

theorem wit_CheckpointPhases_9a : ∃ (p : Nat) (c : Ckpt) (i : Item) (s : State),
    CkptIs s p c ∧ c.item = some i.id ∧ s.item i.id = some i ∧ Still s ∧ c.mir = 0 ∧ NoGuards s p :=
  ⟨1, ckptOf 5 .sealing, ckptHeld, ckptDev [ckptOf 5 .sealing] [ckptHeld] id, by decide +kernel⟩

theorem wit_CheckpointPhases_10a : ∃ (_p : Fin 256) (_m : MirMsg) (s : State),
    s.pair.joined = false :=
  ⟨1, .free, ckptDev [] [] fun s => { s with mirrors := [mirrorOf] }, by decide +kernel⟩

def joined (s : State) : State := { s with pair := { s.pair with state := 2 } }

theorem wit_CheckpointPhases_11a : ∃ (_p : Fin 256) (s : State),
    s.pair.joined = true ∧ Quiet s :=
  ⟨1, ckptDev [] [] fun s => joined { s with mirrors := [mirrorOf] }, by decide +kernel⟩

theorem wit_CheckpointPhases_12a : ∃ (p : Fin 256) (c : Ckpt) (s : State),
    s.pair.joined = true ∧ Quiet s ∧ CkptIs s p.val c ∧ c.mir = 2 :=
  ⟨1, { ckptOf 4 .idle with mir := 2 }, ckptDev [{ ckptOf 4 .idle with mir := 2 }] [] joined, by decide +kernel⟩

theorem wit_CheckpointPhases_13a : ∃ (p : Fin 256) (_u : Nat) (c : Ckpt) (s : State),
    s.pair.joined = true ∧ Quiet s ∧ CkptIs s p.val c ∧ c.phase = 5 ∧ c.mir = 1 :=
  ⟨1, 0, { ckptOf 5 .table with mir := 1 }, ckptDev [{ ckptOf 5 .table with mir := 1 }] [] joined, by decide +kernel⟩

theorem wit_CheckpointPhases_14a : ∃ (p : Fin 256) (u : Nat) (_ws : List TWord) (m : Mirror) (s : State),
    s.pair.joined = true ∧ Quiet s ∧ s.mirrors = [m] ∧ m.peck = p.val ∧ u < m.nunits ∧ m.got.contains u = false ∧ (∃ k ∈ List.range m.nunits, k ≠ u ∧ m.got.contains k = false) :=
  ⟨1, 1, [TWord.int 3, ⟨4, Tag.handle⟩], mirrorOf, ckptDev [] [] fun s => joined { s with mirrors := [mirrorOf] }, by decide +kernel⟩

theorem wit_CheckpointPhases_14b : ∃ (p : Fin 256) (u : Nat) (_ws : List TWord) (m : Mirror) (s : State),
    s.pair.joined = true ∧ Quiet s ∧ s.mirrors = [m] ∧ m.peck = p.val ∧ m.nunits ≤ u :=
  ⟨1, 2, [TWord.int 3], mirrorOf, ckptDev [] [] fun s => joined { s with mirrors := [mirrorOf] }, by decide +kernel⟩

theorem wit_CheckpointPhases_15a : ∃ (p : Fin 256) (m : Mirror) (t : Nat) (s : State),
    s.mirrors = [m] ∧ m.peck = p.val ∧ m.split = some t ∧ s.ckpts = [] ∧ s.time < t + max (wymH s) ((s.reg rCto).toNat * 1000) :=
  ⟨1, mirrorOf, 0, ckptDev [] [] fun s => { s with mirrors := [mirrorOf] }, by decide +kernel⟩

theorem wit_CheckpointPhases_16a : ∃ (p : Fin 256) (m : Mirror) (t : Nat) (s : State),
    s.mirrors = [m] ∧ m.peck = p.val ∧ m.split = some t ∧ s.ckpts = [] ∧ Still s ∧ t + max (wymH s) ((s.reg rCto).toNat * 1000) ≤ s.time ∧ mirrorGood s m = false :=
  ⟨1, mirrorOf, 0, ckptDev [] [] fun s => { s with mirrors := [mirrorOf], time := 1000000000 }, by decide +kernel⟩

/-- This device may take the mirror over: key slot 3 and a volume under index 5 of Peck 1's directory. -/
def goodMirror (s : State) : State := { ((s.setPeck 1 { Peck.reset with state := .active, vf0 := 7, keys := 8 }).setKey 3 (slot3 .loaded)).putWord (dirBase 1 + 40) ⟨handle 7, Tag.handle⟩ with
  regions := [(7, { region 0 0x1000000 with kind := .volume })], mirrors := [mirrorOf], time := 1000000000 }

theorem wit_CheckpointPhases_17a : ∃ (p : Fin 256) (m : Mirror) (t : Nat) (s : State),
    s.mirrors = [m] ∧ m.peck = p.val ∧ m.split = some t ∧ s.ckpts = [] ∧ t + max (wymH s) ((s.reg rCto).toNat * 1000) ≤ s.time ∧ mirrorGood s m = true :=
  ⟨1, mirrorOf, 0, ckptDev [] [] goodMirror, by decide +kernel⟩

def restItem (w2 : Word) (ph : ItemPhase) : Item := { request 1 0x0803 [3, 1, w2, 0x10003, 4, 0] [⟨stOk, handle 7, locOf (handle 7) { region 0 0x1000000 with kind := .volume }⟩, bigRef] with phase := ph }

theorem wit_CheckpointPhases_18a : ∃ (id : Nat) (i : Item) (s : State),
    Request s id 0x0803 i ∧ i.open_ = 0 ∧ ((i.w 5).toNat % 32 ≠ 0 ∨ fld (i.w 3) 12 4 ≠ 0 ∨ (i.w 2).toNat % 4096 ≠ 0 ∨ i.w 2 = 0) ∧ i.w 2 = 7 :=
  ⟨5, restItem 7 .dispatched, ckptDev [] [restItem 7 .dispatched] id, by decide +kernel⟩

def restList1 : List TWord := [TWord.int 7, ⟨handle 2, Tag.handle⟩, TWord.int 0, TWord.int 0]

def restDev (ph : ItemPhase) (h : TWord) : State := ready fun s =>
  let s := (s.setPeck 1 { Peck.reset with state := .active, vf0 := 7, keys := 8 }).setKey 3 (slot3 .loaded)
  { s with regions := [(2, region 0x2000 4096), (7, { region 0 0x1000000 with kind := .volume })], items := [restItem 8192 ph], mem := (restList1.set 1 h).zipIdx.foldl (fun (m : Memory) e => m.setWord (0x2000 + 8 * e.2) e.1) s.mem }

theorem wit_CheckpointPhases_19a : ∃ (id : Nat) (i : Item) (es : List (List TWord)) (s : State),
    Request s id 0x0803 i ∧ i.open_ = 0 ∧ (i.w 5).toNat % 32 = 0 ∧ fld (i.w 3) 12 4 = 0 ∧ (i.w 2).toNat % 4096 = 0 ∧ i.w 2 ≠ 0 ∧ (i.ref 0).check [.volume, .remote] [rightRd] = stOk ∧ (i.ref 1).check [.local_] [rightRd] = stOk ∧ (i.ref 1).loc.holds (i.w 5) (32 * fld (i.w 3) 16 16) 32 = true ∧ (i.ref 0).loc.kind = .volume ∧ Settled s ∧ es = restEntries (memWords s.mem ((i.ref 1).loc.base.toNat + (i.w 5).toNat) (4 * fld (i.w 3) 16 16)) (fld (i.w 3) 16 16) ∧ restStatus s i es = stOk :=
  ⟨5, restItem 8192 .dispatched, [restList1], restDev .dispatched ⟨handle 2, Tag.handle⟩, by decide +kernel⟩

theorem wit_CheckpointPhases_19b : ∃ (id : Nat) (i : Item) (es : List (List TWord)) (s : State),
    Request s id 0x0803 i ∧ i.open_ = 0 ∧ (i.w 5).toNat % 32 = 0 ∧ fld (i.w 3) 12 4 = 0 ∧ (i.w 2).toNat % 4096 = 0 ∧ i.w 2 ≠ 0 ∧ (i.ref 0).check [.volume, .remote] [rightRd] = stOk ∧ (i.ref 1).check [.local_] [rightRd] = stOk ∧ (i.ref 1).loc.holds (i.w 5) (32 * fld (i.w 3) 16 16) 32 = true ∧ (i.ref 0).loc.kind = .volume ∧ Settled s ∧ es = restEntries (memWords s.mem ((i.ref 1).loc.base.toNat + (i.w 5).toNat) (4 * fld (i.w 3) 16 16)) (fld (i.w 3) 16 16) ∧ restStatus s i es = stTag :=
  ⟨5, restItem 8192 .dispatched, [restList1.set 1 TWord.zero], restDev .dispatched TWord.zero, by decide +kernel⟩

theorem wit_CheckpointPhases_20a : ∃ (id : Nat) (i : Item) (s : State),
    s.item id = some i ∧ i.typ.toNat = 0x0803 ∧ i.open_ = 0 ∧ i.phase = .active ∧ Quiet s ∧ i.w 1 = 1 ∧ manifestSealed (restBytes i 0 512) = false :=
  ⟨5, restItem 8192 .active, restDev .active TWord.zero, by decide +kernel⟩

def restDone : State := restDev .committed TWord.zero

def restIt : Item := restItem 8192 .committed

theorem wit_CheckpointPhases_21a : ∃ (id : Nat) (i : Item) (es : List (List TWord)) (_u : State) (_st : Status) (s : State),
    s.item id = some i ∧ i.typ.toNat = 0x0803 ∧ i.open_ = 0 ∧ i.phase = .committed ∧ Settled s ∧ es = restEntries (memWords s.mem ((i.ref 1).loc.base.toNat + (i.w 5).toNat) (4 * fld (i.w 3) 16 16)) (fld (i.w 3) 16 16) :=
  ⟨5, restIt, [restList1.set 1 TWord.zero], (restRun restDone restIt (restBytes restIt 0 512) (restBytes restIt 512 (recNum (restBytes restIt 0 512) 48 8 - 0x1000)) [restList1.set 1 TWord.zero]).1, (restRun restDone restIt (restBytes restIt 0 512) (restBytes restIt 512 (recNum (restBytes restIt 0 512) 48 8 - 0x1000)) [restList1.set 1 TWord.zero]).2, restDone, by decide +kernel⟩

/-- A staged bundle of version v, good in every check. -/
def bundleOf (v : Nat) (ok : Bool) : Bundle := ⟨v, 0, 1, 1, 1, true, [], none, ok⟩

def fwDev (f : FwState → FwState) (i : List Item) : State := ready fun s => { s with fw := f s.fw, items := i }

def stageItem : Item := request 0 0x0900 [0x1000, 600, 1] []

def actItem : Item := request 0 0x0901 [0] []

def abItem : Item := request 0 0x0902 [] []

/-- Component table of six components, one byte string each, from offset 512 on. -/
def bundleTable : List Byte := (List.range 6).flatMap fun k => [BitVec.ofNat 8 (k + 1), 0, 0, 0, BitVec.ofNat 8 (k * 8), 2, 0, 0] ++ List.replicate 32 0

/-- The bytes of a bundle whose header is well formed. -/
def bundleBytes : List Byte := [0x42, 0x4E, 0x44, 0x4C, 0, 1, 6, 0, 0, 0, 2, 0, 0, 0, 0, 0, 1, 1, 1, 0] ++ List.replicate 12 0 ++ bundleTable ++ List.replicate 308 0

theorem wit_FirmwareUpdate_1a : ∃ (id : Nat) (i : Item) (_bs : List Byte) (_st : BitVec 16) (s : State),
    Request s id 0x0900 i ∧ s.fw.staged.isSome = true :=
  ⟨5, stageItem, [], stOk, fwDev (fun f => { f with staged := some (bundleOf 9 true) }) [stageItem], by decide +kernel⟩

theorem wit_FirmwareUpdate_1b : ∃ (id : Nat) (i : Item) (_bs : List Byte) (st : BitVec 16) (s : State),
    Request s id 0x0900 i ∧ s.fw.staged = none ∧ s.fw.activating = false ∧ st ≠ stOk :=
  ⟨5, stageItem, [], stPoison, fwDev id [stageItem], by decide +kernel⟩

theorem wit_FirmwareUpdate_1c : ∃ (id : Nat) (i : Item) (bs : List Byte) (st : BitVec 16) (s : State),
    Request s id 0x0900 i ∧ s.fw.staged = none ∧ s.fw.activating = false ∧ st = stOk ∧ parseBundle (bs.take (i.w 1).toNat) = none :=
  ⟨5, stageItem, [], stOk, fwDev id [stageItem], by decide +kernel⟩

theorem bundle_parses : ∃ b, parseBundle (bundleBytes.take ((stageItem.w 1).toNat)) = some b :=
  Option.isSome_iff_exists.mp (by decide +kernel)

/-- The rest of clause 2's hypotheses hold beside `bundle_parses`. -/
theorem bundle_asked : Request (fwDev id [stageItem]) 5 0x0900 stageItem ∧ (fwDev id [stageItem]).fw.staged = none ∧ (fwDev id [stageItem]).fw.activating = false :=
  by decide +kernel

theorem wit_FirmwareUpdate_2a : ∃ (id : Nat) (i : Item) (bs : List Byte) (b : Bundle) (s : State), Request s id 0x0900 i ∧ s.fw.staged = none ∧
    s.fw.activating = false ∧ parseBundle (bs.take (i.w 1).toNat) = some b :=
  bundle_parses.elim fun b hb => ⟨5, stageItem, bundleBytes, b, fwDev id [stageItem], bundle_asked.1, bundle_asked.2.1, bundle_asked.2.2, hb⟩

theorem wit_FirmwareUpdate_3a : ∃ (id : Nat) (i : Item) (s : State),
    Request s id 0x0902 i ∧ s.fw.staged = none :=
  ⟨5, abItem, fwDev id [abItem], by decide +kernel⟩

theorem wit_FirmwareUpdate_3b : ∃ (id : Nat) (i : Item) (s : State),
    Request s id 0x0902 i ∧ s.fw.staged.isSome = true ∧ s.fw.activating = false :=
  ⟨5, abItem, fwDev (fun f => { f with staged := some (bundleOf 9 true) }) [abItem], by decide +kernel⟩

theorem wit_FirmwareUpdate_4a : ∃ (id : Nat) (i : Item) (s : State),
    Request s id 0x0901 i ∧ (s.fw.staged = none ∨ s.fw.activating = true) :=
  ⟨5, actItem, fwDev id [actItem], by decide +kernel⟩

theorem wit_FirmwareUpdate_5a : ∃ (id : Nat) (i : Item) (b : Bundle) (s : State),
    Request s id 0x0901 i ∧ s.fw.staged = some b ∧ s.fw.activating = false ∧ s.pair.joined = true ∧ b.ver / 65536 ≠ fwVer s / 65536 ∧ fld (i.w 0) 0 1 = 0 :=
  ⟨5, actItem, bundleOf 0x30000 true, joined (fwDev (fun f => { f with staged := some (bundleOf 0x30000 true) }) [actItem]), by decide +kernel⟩

theorem wit_FirmwareUpdate_5b : ∃ (id : Nat) (i : Item) (b : Bundle) (s : State),
    Request s id 0x0901 i ∧ s.fw.staged = some b ∧ s.fw.activating = false ∧ s.pair.joined = false ∧ s.pwr.epwr = true :=
  ⟨5, actItem, bundleOf 0x30000 true, (fun s : State => { s with pwr := { s.pwr with epwr := true } }) (fwDev (fun f => { f with staged := some (bundleOf 0x30000 true) }) [actItem]), by decide +kernel⟩

theorem wit_FirmwareUpdate_5c : ∃ (id : Nat) (i : Item) (b : Bundle) (s : State),
    Request s id 0x0901 i ∧ s.fw.staged = some b ∧ s.fw.activating = false ∧ s.pair.joined = false ∧ s.pwr.epwr = false ∧ s.pwr.ethm = false :=
  ⟨5, actItem, bundleOf 0x30000 true, fwDev (fun f => { f with staged := some (bundleOf 0x30000 true) }) [actItem], by decide +kernel⟩

theorem wit_FirmwareUpdate_7a : ∃ (g : Fin 7) (s : State),
    Ready s ∧ s.fw.activating = true ∧ g.val = s.fw.switched.length + 1 ∧ s.pwr.epwr = false ∧ s.pwr.ethm = false ∧ (s.pwr.cleared ≤ s.fw.began ∨ s.pwr.cleared + 1000000000 ≤ s.time) :=
  ⟨1, fwDev (fun f => { f with staged := some (bundleOf 9 true), activating := true }) [], by decide +kernel⟩

theorem wit_FirmwareUpdate_7b : ∃ (g : Fin 7) (s : State),
    Ready s ∧ s.fw.activating = true ∧ g.val = s.fw.switched.length + 1 ∧ s.pwr.epwr = false ∧ s.pwr.ethm = false ∧ (s.pwr.cleared ≤ s.fw.began ∨ s.pwr.cleared + 1000000000 ≤ s.time) :=
  ⟨3, fwDev (fun f => { f with staged := some (bundleOf 9 true), activating := true, switched := [1, 2] }) [], by decide +kernel⟩

theorem wit_FirmwareUpdate_8a : ∃ (g : Fin 7) (s : State),
    (s.fw.activating = false ∨ g.val ≠ s.fw.switched.length + 1 ∨ s.pwr.epwr = true ∨ s.pwr.ethm = true) ∧ s.fw.activating = false :=
  ⟨3, fwDev id [], by decide +kernel⟩

def probDev : State := fwDev (fun f => { f with staged := some (bundleOf 9 true), activating := true, probation := true, switched := [1, 2, 3, 4, 5, 6], flash := true }) []

theorem wit_FirmwareUpdate_9a : ∃ (b : Bundle) (s : State),
    s.fw.staged = some b ∧ s.fw.activating = true ∧ s.fw.switched.length = 6 ∧ 2000000000 ≤ s.time :=
  ⟨bundleOf 9 true, { probDev with time := 2000000000 }, by decide +kernel⟩

theorem wit_FirmwareUpdate_9b : ∃ (b : Bundle) (s : State),
    s.fw.staged = some b ∧ s.fw.activating = true ∧ s.fw.switched.length = 6 ∧ s.time < 2000000000 :=
  ⟨bundleOf 9 true, { probDev with time := 1999999999 }, by decide +kernel⟩

theorem wit_FirmwareUpdate_10a : ∃ (b : Bundle) (s : State),
    s.fw.toFlash = some b :=
  ⟨bundleOf 9 true, fwDev (fun f => { f with toFlash := some (bundleOf 9 true) }) [], by decide +kernel⟩

theorem wit_FirmwareUpdate_11a : ∃ (b : Bundle) (s : State),
    s.fw.toFlash = some b :=
  ⟨bundleOf 9 true, fwDev (fun f => { f with toFlash := some (bundleOf 9 true) }) [], by decide +kernel⟩

theorem wit_FirmwareUpdate_12a : ∃ (_ok : Bool) (s : State),
    s.fw.toFlash = none :=
  ⟨true, fwDev id [], by decide +kernel⟩

theorem wit_FirmwareUpdate_13a : ∃ (n : Fin 60) (_held : List Nat) (s : State),
    (s.core n.val).state = 0 :=
  ⟨7, [], fwDev id [], by decide +kernel⟩

def coreDev (l : Option Nat) (f : FwState → FwState) : State := fwDev (fun w => f { w with cores := [(7, ⟨1, 3, l⟩)] }) []

theorem wit_FirmwareUpdate_14a : ∃ (n : Fin 60) (_held : List Nat) (s : State),
    (s.core n.val).state ≠ 0 ∧ s.fw.probation = true ∧ s.fw.switched.contains (coreGroup n.val) = true :=
  ⟨7, [], coreDev none (fun f => { f with probation := true, switched := [5] }), by decide +kernel⟩

theorem wit_FirmwareUpdate_15a : ∃ (_n : Nat) (s : State),
    s.fw.switched.contains 1 = false :=
  ⟨7, coreDev none (fun f => { f with probation := true, switched := [5] }), by decide +kernel⟩

theorem wit_FirmwareUpdate_16a : ∃ (n : Fin 60) (_held : List Nat) (s : State),
    (s.core n.val).state ≠ 0 ∧ s.fw.probation = false ∧ (s.core n.val).last = none :=
  ⟨7, [], coreDev none id, by decide +kernel⟩

theorem wit_FirmwareUpdate_17a : ∃ (n : Fin 60) (_held : List Nat) (t0 : Nat) (s : State),
    (s.core n.val).state ≠ 0 ∧ s.fw.probation = false ∧ (s.core n.val).last = some t0 ∧ s.time ≤ t0 + fld (s.reg rRcvCfg) 52 10 * 1000000 ∧ n.val < 56 ∧ s.rcv.warm = none ∧ fld (s.reg rRcvPcreq) 0 1 = 0 ∧ recentWarms s < fld (s.reg rRcvCfg) 48 3 :=
  ⟨7, [], 3, { coreDev (some 3) id with time := 4 }, by decide +kernel⟩

/-- A device before its boot, with `a` in slot A and `b` in slot B. -/
def cold (a b : Option Bundle) : State := { State.reset with fw := { FwState.reset with flashA := a, flashB := b } }

def bootIn : BootIn := ⟨false, none, [], false, [], []⟩

theorem wit_BootAndRecovery_1a : ∃ (_b : BootIn) (s : State),
    (s.phase ≠ 0 ∨ s.d3cold = true) ∧ s.phase ≠ 0 :=
  ⟨bootIn, fwDev id [], by decide +kernel⟩

theorem wit_BootAndRecovery_2a : ∃ (_b : BootIn) (s : State),
    s.phase = 0 ∧ s.d3cold = false :=
  ⟨{ bootIn with rail := some 2 }, cold (some (bundleOf 9 true)) none, by decide +kernel⟩

theorem wit_BootAndRecovery_3a : ∃ (_b : BootIn) (s : State),
    (slotBad s (if s.fw.active then s.fw.flashB else s.fw.flashA)).isSome = true ∧ (slotBad s (if s.fw.active then s.fw.flashA else s.fw.flashB)).isSome = true :=
  ⟨bootIn, cold none (some (bundleOf 9 false)), by decide +kernel⟩

theorem wit_BootAndRecovery_4a : ∃ (b : BootIn) (r : Fin 5) (s : State),
    slotBad s (if s.fw.active then s.fw.flashB else s.fw.flashA) = none ∧ b.rail = some r :=
  ⟨{ bootIn with rail := some 2 }, 2, cold (some (bundleOf 9 true)) none, by decide +kernel⟩

theorem wit_BootAndRecovery_5a : ∃ (b : BootIn) (s : State),
    slotBad s (if s.fw.active then s.fw.flashB else s.fw.flashA) = none ∧ b.rail = none ∧ s.intg.out_ = [] ∧ b.lanes = [] ∧ (if s.fw.active then s.fw.flashB else s.fw.flashA).bind (·.board) = none ∧ b.links ≠ [] :=
  ⟨{ bootIn with links := [3] }, cold (some (bundleOf 9 true)) none, by decide +kernel⟩

theorem wit_BootAndRecovery_5b : ∃ (b : BootIn) (s : State),
    slotBad s (if s.fw.active then s.fw.flashB else s.fw.flashA) = none ∧ b.rail = none ∧ s.intg.out_ = [] ∧ b.lanes = [] ∧ (if s.fw.active then s.fw.flashB else s.fw.flashA).bind (·.board) = none ∧ b.links = [] ∧ b.hbm = true :=
  ⟨{ bootIn with hbm := true }, cold (some (bundleOf 9 true)) none, by decide +kernel⟩

theorem wit_BootAndRecovery_5c : ∃ (b : BootIn) (s : State),
    slotBad s (if s.fw.active then s.fw.flashB else s.fw.flashA) = none ∧ b.rail = none ∧ s.intg.out_ = [] ∧ b.lanes = [] ∧ (if s.fw.active then s.fw.flashB else s.fw.flashA).bind (·.board) = none ∧ b.links = [] ∧ b.hbm = false ∧ s.intg.soft = [] ∧ s.intg.faults = [] :=
  ⟨bootIn, cold (some (bundleOf 9 true)) none, by decide +kernel⟩

theorem wit_BootAndRecovery_6a : ∃ (b : BootIn) (s : State),
    slotBad s s.fw.flashA = some 1 ∧ s.fw.active = false ∧ slotBad s s.fw.flashB = none ∧ b.rail = some 0 :=
  ⟨{ bootIn with rail := some 0 }, cold (some (bundleOf 9 false)) (some (bundleOf 9 true)), by decide +kernel⟩

theorem wit_BootAndRecovery_7a : ∃ (u : ProgUnit) (s : State),
    s.rcv.escals = [] ∧ s.replays = [] ∧ watched s u = false :=
  ⟨.mgrRing 0, fwDev id [], by decide +kernel⟩

/-- The manager is attached and its ring 1 has an item to take; the ring's samples are `l`. -/
def hangDev (l : List (Nat × Nat)) : State := ringAt 1 3 2 (ready fun s => { s with attached := true, time := 16000000, watches := [⟨0x103, l, none⟩] })

def stuck8 : List (Nat × Nat) := (List.range 8).map fun k => (15000000 - 125000 * k, 2)

theorem wit_BootAndRecovery_8a : ∃ (u : ProgUnit) (w : Watch) (l : List (Nat × Nat)) (s : State),
    s.rcv.escals = [] ∧ s.replays = [] ∧ watched s u = true ∧ w = s.watch (unitCode s u) ∧ (w.samples.all fun p => decide (p.1 + spanOf s u * 125000 ≤ s.time)) = true ∧ l = ((s.time, counterOf s u) :: w.samples).take 9 :=
  ⟨.mgrRing 1, ⟨0x103, stuck8, none⟩, (16000000, 2) :: stuck8, { hangDev stuck8 with regs := [(rRcvCfg, 0x100000000)] }, by decide +kernel⟩

theorem wit_BootAndRecovery_8b : ∃ (u : ProgUnit) (w : Watch) (l : List (Nat × Nat)) (s : State),
    s.rcv.escals = [] ∧ s.replays = [] ∧ watched s u = true ∧ w = s.watch (unitCode s u) ∧ (w.samples.all fun p => decide (p.1 + spanOf s u * 125000 ≤ s.time)) = true ∧ l = ((s.time, counterOf s u) :: w.samples).take 9 :=
  ⟨.mgrRing 1, ⟨0x103, [], none⟩, [(16000000, 2)], { hangDev [] with regs := [(rRcvCfg, 0x100000000)] }, by decide +kernel⟩

theorem wit_BootAndRecovery_9a : ∃ (u : ProgUnit) (p : Nat × Nat) (s : State),
    s.rcv.escals = [] ∧ s.replays = [] ∧ watched s u = true ∧ (s.watch (unitCode s u)).samples.head? = some p ∧ s.time < p.1 + spanOf s u * 125000 :=
  ⟨.mgrRing 1, (15999999, 2), { hangDev [(15999999, 2)] with regs := [(rRcvCfg, 0x100000000)] }, by decide +kernel⟩

theorem wit_BootAndRecovery_10a : ∃ (r : Fin 4) (s : State),
    (s.watch (unitCode s (.mgrRing r))).acted = none :=
  ⟨1, hangDev stuck8, by decide +kernel⟩

theorem wit_BootAndRecovery_11a : ∃ (e : Fin 128) (s : State),
    (s.replay e.val = none ∨ (s.replay e.val).any (fun r => r.run.isSome) = true) ∧ s.replay e.val = none :=
  ⟨0, fwDev id [], by decide +kernel⟩

def replayOf (l : List Nat) : Replay := ⟨0, l, l, [], none, []⟩

theorem wit_BootAndRecovery_12a : ∃ (e : Fin 128) (r : Replay) (s : State),
    s.replay e.val = some r ∧ r.run = none ∧ r.left = [] :=
  ⟨0, replayOf [], { fwDev id [] with replays := [replayOf []] }, by decide +kernel⟩

def replayDev : State := { ready peck1 with replays := [replayOf [0]], engines := [(0, { Engine.reset with peck := 1, ctxs := [(0, { Ctx.free with state := .running, peck := 1, isa := 1, item := some 5, start := [TWord.zero, TWord.zero] })] })] }

theorem wit_BootAndRecovery_13a : ∃ (e : Fin 128) (k : Fin 8) (i : Item) (r : Replay) (s : State),
    s.replay e.val = some r ∧ r.run = none ∧ r.left.head? = some k.val ∧ (s.ctx ⟨e, k⟩).item = some i.id ∧ s.item i.id = some i ∧ startFlag (s.ctx ⟨e, k⟩).start 3 = false :=
  ⟨0, 0, seqItem 0x0100 [0], replayOf [0], { replayDev with items := [seqItem 0x0100 [0]] }, by decide +kernel⟩

theorem wit_BootAndRecovery_14a : ∃ (id : Nat) (i : Item) (s : State),
    Request s id 0x0940 i :=
  ⟨5, request 0 0x0940 [] [], fwDev id [request 0 0x0940 [] []], by decide +kernel⟩

theorem wit_BootAndRecovery_15a : ∃ (id : Nat) (i : Item) (s : State),
    Request s id 0x0941 i :=
  ⟨5, request 0 0x0941 [] [], fwDev id [request 0 0x0941 [] []], by decide +kernel⟩

theorem wit_BootAndRecovery_16a : ∃ (_cause : Nat) (_code : Word) (s : State),
    fld (s.reg rRcvPcreq) 0 1 = 0 ∧ s.rcv.warm = none ∧ recentWarms s < fld (s.reg rRcvCfg) 48 3 :=
  ⟨3, 0x104, { fwDev id [] with regs := [(rRcvCfg, 0x1000000000000)] }, by decide +kernel⟩

theorem wit_BootAndRecovery_16b : ∃ (_cause : Nat) (_code : Word) (s : State),
    fld (s.reg rRcvPcreq) 0 1 = 0 ∧ s.rcv.warm = none ∧ fld (s.reg rRcvCfg) 48 3 ≤ recentWarms s :=
  ⟨3, 0x104, { fwDev id [] with regs := [(rRcvCfg, 0x1000000000000)], warms := [0] }, by decide +kernel⟩

theorem wit_BootAndRecovery_18a : ∃ (_b : BootIn) (s : State),
    s.rcv.reserve = false ∧ s.rcv.warm = none :=
  ⟨bootIn, fwDev id [], by decide +kernel⟩

def warmDue : State := { fwDev id [] with rcv := { State.reset.rcv with warm := some 3 } }

theorem wit_BootAndRecovery_19a : ∃ (_b : BootIn) (cause : Nat) (s : State),
    s.rcv.reserve = false ∧ s.rcv.warm = some cause :=
  ⟨bootIn, 3, warmDue, by decide +kernel⟩

theorem wit_BootAndRecovery_23a : ∃ (s : State),
    (s.d3cold = true ∨ s.phase = 0) ∧ s.phase = 0 :=
  ⟨cold none none, by decide +kernel⟩

theorem wit_BootAndRecovery_24a : ∃ (s : State),
    s.d3cold = false ∧ s.phase ≠ 0 ∧ s.pecks = [] :=
  ⟨fwDev id [], by decide +kernel⟩

theorem wit_BootAndRecovery_25a : ∃ (_b : BootIn) (s : State),
    s.d3cold = false :=
  ⟨bootIn, fwDev id [], by decide +kernel⟩

theorem wit_BootAndRecovery_26a : ∃ (_b : BootIn) (s : State),
    s.d3cold = true :=
  ⟨bootIn, { cold none none with d3cold := true }, by decide +kernel⟩

def pairDev (p : PairState) (i : List Item) (f : State → State) : State := ready fun s => f { s with pair := p, items := i }

/-- A pair in a state, both halves up. -/
def pst (n c : Nat) : PairState := { PairState.reset with state := n, cause := c, low := true, high := true }

theorem wit_PairStates_1a : ∃ (low : Bool) (high : Bool) (s : State),
    pairLive s = true ∧ (low = true ∨ high = true) ∧ (s.pair.state ≠ 3 ∨ s.pair.cause ≠ 9) :=
  ⟨true, false, pairDev (pst 0 0) [] id, by decide +kernel⟩

theorem wit_PairStates_1b : ∃ (low : Bool) (high : Bool) (s : State),
    pairLive s = true ∧ (low = true ∨ high = true) ∧ (s.pair.state ≠ 3 ∨ s.pair.cause ≠ 9) :=
  ⟨true, true, pairDev (pst 3 7) [] id, by decide +kernel⟩

theorem wit_PairStates_2a : ∃ (low : Bool) (high : Bool) (s : State),
    pairLive s = true ∧ (low = true ∨ high = true) ∧ s.pair.state = 3 ∧ s.pair.cause = 9 :=
  ⟨true, false, pairDev (pst 3 9) [] id, by decide +kernel⟩

theorem wit_PairStates_3a : ∃ (low : Bool) (high : Bool) (s : State),
    (pairLive s = false ∨ (low = false ∧ high = false)) ∧ low = false ∧ high = false :=
  ⟨false, false, pairDev (pst 3 9) [] id, by decide +kernel⟩

theorem wit_PairStates_4a : ∃ (s : State),
    (s.pair.state = 0 ∨ s.pair.state = 3) ∧ s.pair.state = 3 :=
  ⟨pairDev (pst 3 9) [] id, by decide +kernel⟩

theorem wit_PairStates_5a : ∃ (s : State),
    s.pair.state = 1 ∧ s.pair.was = false ∧ s.items = [] :=
  ⟨pairDev (pst 1 0) [] id, by decide +kernel⟩

theorem wit_PairStates_6a : ∃ (s : State),
    s.pair.state = 2 ∧ s.items = [] ∧ s.barriers = [] ∧ s.ckpts = [] :=
  ⟨pairDev (pst 2 0) [] fun s => { s with mirrors := [{ mirrorOf with confirmed := true, split := none }] }, by decide +kernel⟩

theorem wit_PairStates_7a : ∃ (_l : Fin 16) (e : Nat) (_r : Nat) (_p : Nat) (s : State),
    s.pair.up = true ∧ e ≤ fld (s.reg rIntgCfg) 0 16 :=
  ⟨3, 2, 5, 1, pairDev (pst 2 0) [] fun s => { s with regs := [(rIntgCfg, 2)] }, by decide +kernel⟩

theorem wit_PairStates_8a : ∃ (_l : Fin 16) (e : Nat) (_r : Nat) (_p : Nat) (s : State),
    s.pair.low = true ∧ s.pair.high = true ∧ fld (s.reg rIntgCfg) 0 16 < e :=
  ⟨3, 3, 5, 1, pairDev (pst 2 0) [] fun s => { s with regs := [(rIntgCfg, 2)] }, by decide +kernel⟩

theorem wit_PairStates_8b : ∃ (_l : Fin 16) (e : Nat) (_r : Nat) (_p : Nat) (s : State),
    s.pair.low = true ∧ s.pair.high = true ∧ fld (s.reg rIntgCfg) 0 16 < e :=
  ⟨8, 3, 5, 1, pairDev (pst 2 0) [] fun s => { s with regs := [(rIntgCfg, 2)] }, by decide +kernel⟩

theorem wit_PairStates_9a : ∃ (_l : Fin 16) (_e : Nat) (_r : Nat) (_p : Nat) (s : State),
    s.pair.up = false :=
  ⟨3, 3, 5, 1, pairDev { pst 1 0 with low := false, high := false } [] id, by decide +kernel⟩

def peerRec : JoinRec := ⟨true, 1, 0, 1, 0, 0x123456, 0⟩

theorem wit_PairStates_10a : ∃ (r : JoinRec) (s : State),
    pairLive s = true ∧ s.pair.up = true ∧ s.pair.state = 1 ∧ joinCause (joinRec s) r = 0 ∧ s.barriers = [] ∧ s.items = [] :=
  ⟨peerRec, pairDev (pst 1 0) [] fun s => { s with regs := [(rEpoch, 0)] }, by decide +kernel⟩

theorem wit_PairStates_11a : ∃ (r : JoinRec) (s : State),
    pairLive s = true ∧ s.pair.up = true ∧ s.pair.state = 1 ∧ s.pair.was = false ∧ joinCause (joinRec s) r ≠ 0 ∧ s.items = [] :=
  ⟨{ peerRec with wymver := 2 }, pairDev (pst 1 0) [] id, by decide +kernel⟩

theorem wit_PairStates_13a : ∃ (_r : JoinRec) (answer : Bool) (s : State),
    (pairLive s = false ∨ s.pair.up = false ∨ (answer = true ∧ s.pair.state ≠ 1)) ∧ s.pair.up = false :=
  ⟨peerRec, false, pairDev { pst 0 0 with low := false, high := false } [] id, by decide +kernel⟩

theorem wit_PairStates_15a : ∃ (s : State),
    s.pair.state = 2 ∧ s.pair.hbIn + fld (s.reg rPairCfg) 0 10 * 1000000 ≤ s.time :=
  ⟨pairDev (pst 2 0) [] fun s => { s with time := 25000000, regs := [(rPairCfg, 25)] }, by decide +kernel⟩

theorem wit_PairStates_15b : ∃ (s : State),
    s.pair.state = 2 ∧ s.time < s.pair.hbIn + fld (s.reg rPairCfg) 0 10 * 1000000 :=
  ⟨pairDev (pst 2 0) [] fun s => { s with time := 24999999, regs := [(rPairCfg, 25)] }, by decide +kernel⟩

theorem wit_PairStates_16a : ∃ (s : State),
    s.pair.state ≠ 2 :=
  ⟨pairDev (pst 1 0) [] id, by decide +kernel⟩

theorem wit_PairStates_17a : ∃ (s : State),
    s.pair.joined = true ∧ s.pair.hbOut + 100000 ≤ s.time :=
  ⟨pairDev (pst 2 0) [] fun s => { s with time := 100000 }, by decide +kernel⟩

theorem wit_PairStates_18a : ∃ (s : State),
    s.pair.state = 3 ∧ s.pair.tried + fld (s.reg rPairCfg) 16 10 * 1000000 ≤ s.time ∧ fld (s.reg rPairCfg) 32 1 = 1 :=
  ⟨pairDev (pst 3 7) [] fun s => { s with time := 100000000, regs := [(rPairCfg, 0x100640019)] }, by decide +kernel⟩

def joinItem : Item := request 0 0x0980 [] []

def leaveItem : Item := request 0 0x0981 [] []

theorem wit_PairStates_19a : ∃ (id : Nat) (i : Item) (s : State),
    Request s id 0x0980 i ∧ s.pair.state = 2 :=
  ⟨5, joinItem, pairDev (pst 2 0) [joinItem] id, by decide +kernel⟩

theorem wit_PairStates_19b : ∃ (id : Nat) (i : Item) (s : State),
    Request s id 0x0980 i ∧ s.pair.state ≠ 2 ∧ s.pair.up = false :=
  ⟨5, joinItem, pairDev PairState.reset [joinItem] id, by decide +kernel⟩

theorem wit_PairStates_19c : ∃ (id : Nat) (i : Item) (s : State),
    Request s id 0x0980 i ∧ s.pair.state ≠ 2 ∧ s.pair.up = true :=
  ⟨5, joinItem, pairDev (pst 1 0) [joinItem] id, by decide +kernel⟩

theorem wit_PairStates_20a : ∃ (id : Nat) (i : Item) (s : State),
    Request s id 0x0981 i ∧ (s.pair.state = 3 ∨ s.pair.state = 0) ∧ s.pair.state = 3 :=
  ⟨5, leaveItem, pairDev (pst 3 7) [leaveItem] id, by decide +kernel⟩

theorem wit_PairStates_21a : ∃ (id : Nat) (i : Item) (s : State),
    Request s id 0x0981 i ∧ s.pair.state = 1 ∧ s.pair.was = false ∧ s.items = [i] ∧ s.pair.up = true :=
  ⟨5, leaveItem, pairDev (pst 1 0) [leaveItem] id, by decide +kernel⟩

theorem wit_PairStates_22a : ∃ (_u : Fin 256) (_f : BarFlit) (s : State),
    s.pair.joined = false :=
  ⟨7, .arrival, pairDev (pst 1 0) [] id, by decide +kernel⟩

def barDev (sec : Bool) : State := pairDev (pst 2 0) [] fun s => { s with secondary := sec, barriers := [(7, { Barrier.reset with peck := 1, pair := true, count := 2, arrived := 1 })] }

theorem wit_PairStates_23a : ∃ (u : Fin 256) (s : State),
    s.pair.joined = true ∧ (s.bar u.val).pair = true :=
  ⟨7, barDev false, by decide +kernel⟩

theorem wit_PairStates_24a : ∃ (u : Fin 256) (_n : BitVec 12) (s : State),
    s.pair.joined = true ∧ (s.bar u.val).pair = true ∧ s.secondary = true :=
  ⟨7, 3, barDev true, by decide +kernel⟩

theorem wit_PairStates_25a : ∃ (u : Fin 256) (p : Bool) (_k : BitVec 8) (_n : BitVec 12) (s : State),
    s.pair.joined = true ∧ (s.bar u.val).pair = true ∧ p = true ∧ s.secondary = true :=
  ⟨7, true, 2, 9, barDev true, by decide +kernel⟩

theorem wit_PairStates_26a : ∃ (_ps : Int) (s : State),
    s.pair.joined = false :=
  ⟨5, pairDev (pst 1 0) [] id, by decide +kernel⟩

theorem wit_PairStates_27a : ∃ (_ps : Int) (s : State),
    s.pair.joined = true ∧ s.secondary = false :=
  ⟨2000, pairDev { pst 2 0 with good := 15 } [] id, by decide +kernel⟩

theorem wit_PairStates_27b : ∃ (_ps : Int) (s : State),
    s.pair.joined = true ∧ s.secondary = false :=
  ⟨-2001, pairDev { pst 2 0 with good := 15, tlock := true } [] id, by decide +kernel⟩

theorem wit_PairStates_28a : ∃ (ps : Int) (s : State),
    s.pair.joined = true ∧ s.secondary = true ∧ ps.natAbs ≤ 1000000 :=
  ⟨-7000, pairDev (pst 2 0) [] fun s => { s with secondary := true }, by decide +kernel⟩

theorem wit_PairStates_28b : ∃ (ps : Int) (s : State),
    s.pair.joined = true ∧ s.secondary = true ∧ 1000000 < ps.natAbs :=
  ⟨-7000000, pairDev (pst 2 0) [] fun s => { s with secondary := true, time := 99 }, by decide +kernel⟩

def busDev (d : Option (BitVec 7)) (f : State → State) : State := ready fun s => f { s with i3c := ⟨d, false, stTag, [1, 2]⟩ }

theorem wit_ManagementBus_1a : ∃ (da : BitVec 7) (s : State),
    s.i3c.da = none :=
  ⟨9, busDev none id, by decide +kernel⟩

theorem wit_ManagementBus_2a : ∃ (a : BitVec 7) (da : BitVec 7) (s : State),
    s.i3c.da = some a :=
  ⟨8, 9, busDev (some 8) id, by decide +kernel⟩

theorem wit_ManagementBus_4a : ∃ (a : BitVec 7) (_b : Byte) (s : State),
    s.i3c.da = some a :=
  ⟨8, 1, busDev (some 8) id, by decide +kernel⟩

theorem wit_ManagementBus_5a : ∃ (a : BitVec 7) (s : State),
    s.i3c.da = some a :=
  ⟨8, busDev (some 8) fun s => { s with alarmLive := 5, secondary := true, regs := [(rRcvPcreq, 0x501), (rKeyAlarm, 3), (rAlive, 0x1234)] }, by decide +kernel⟩

theorem wit_ManagementBus_6a : ∃ (a : BitVec 7) (_p : Fin 256) (_ms : BitVec 32) (s : State),
    s.i3c.da = some a ∧ s.phase ≠ 2 :=
  ⟨8, 1, 7, { busDev (some 8) id with phase := 1 }, by decide +kernel⟩

theorem wit_ManagementBus_6b : ∃ (a : BitVec 7) (p : Fin 256) (_ms : BitVec 32) (s : State),
    s.i3c.da = some a ∧ s.phase = 2 ∧ p.val = 0 :=
  ⟨8, 0, 7, busDev (some 8) id, by decide +kernel⟩

theorem wit_ManagementBus_6c : ∃ (a : BitVec 7) (p : Fin 256) (_ms : BitVec 32) (s : State),
    s.i3c.da = some a ∧ s.phase = 2 ∧ p.val ≠ 0 ∧ (s.peck p.val).state ≠ .free :=
  ⟨8, 1, 7, busDev (some 8) peck1, by decide +kernel⟩

theorem wit_ManagementBus_7a : ∃ (a : BitVec 7) (s : State),
    s.i3c.da = some a ∧ s.d3cold = true :=
  ⟨8, busDev (some 8) fun s => { s with d3cold := true }, by decide +kernel⟩

theorem wit_ManagementBus_8a : ∃ (a : BitVec 7) (s : State),
    s.i3c.da = some a :=
  ⟨8, busDev (some 8) id, by decide +kernel⟩

theorem wit_ManagementBus_9a : ∀ c ∈ ([Instr.setnewda 9, Instr.getpid, Instr.getbcr, Instr.getdcr, Instr.getstatus, Instr.enec 1, Instr.disec 1, Instr.getState, Instr.notice 1 0,
    Instr.wake, Instr.getId, Instr.i3cReservedCommand, Instr.i3cPrivateRead] : List Instr), ∃ (s : State),
    s.i3c.da = none :=
  fun c he => ⟨busDev none id, (by decide +kernel : ∀ c ∈ ([Instr.setnewda 9, Instr.getpid, Instr.getbcr, Instr.getdcr, Instr.getstatus, Instr.enec 1, Instr.disec 1, Instr.getState, Instr.notice 1 0,
    Instr.wake, Instr.getId, Instr.i3cReservedCommand, Instr.i3cPrivateRead] : List Instr), (fun (s : State) => s.i3c.da = none) (busDev none id)) c he⟩

theorem wit_ManagementBus_10a : ∃ (_r : AddrReg) (_part : RegPart) (_v : Word) (s : State),
    Ready s ∧ portsOff s = false :=
  ⟨.mac, .full, 7, busDev none fun s => { s with regs := [(rWymPort 3, 1)] }, by decide +kernel⟩

theorem wit_ManagementBus_11a : ∃ (part : RegPart) (v : Word) (s : State),
    Ready s ∧ portsOff s = true ∧ fld (ovr part (s.reg (rFabric 0)) v) 0 8 = 0xFF :=
  ⟨.low, 0x2FF, busDev none id, by decide +kernel⟩

theorem wit_ManagementBus_11b : ∃ (part : RegPart) (v : Word) (s : State),
    Ready s ∧ portsOff s = true ∧ ovr part (s.reg (rFabric 0)) v = 7 :=
  ⟨.full, 7, busDev none id, by decide +kernel⟩

theorem wit_ManagementBus_12a : ∃ (_part : RegPart) (_v : Word) (s : State),
    Ready s ∧ portsOff s = true :=
  ⟨.full, 0xFF00000000000001, busDev none id, by decide +kernel⟩

theorem wit_ManagementBus_13a : ∃ (part : RegPart) (v : Word) (s : State),
    Ready s ∧ portsOff s = true ∧ fld (ovr part (s.reg rPairMac) v) 0 1 = 1 :=
  ⟨.full, 1, busDev none id, by decide +kernel⟩

theorem wit_ManagementBus_13b : ∃ (part : RegPart) (v : Word) (s : State),
    Ready s ∧ portsOff s = true ∧ fld (ovr part (s.reg rPairMac) v) 0 1 = 0 :=
  ⟨.full, 0xFFFF50A2C3D4E6F0, busDev none id, by decide +kernel⟩

theorem wit_ManagementBus_14a : ∃ (_p : Fin 16) (_h : Fin 2) (_part : RegPart) (_v : Word) (s : State),
    Ready s ∧ portsOff s = true :=
  ⟨3, 1, .high, 0x500000007, busDev none id, by decide +kernel⟩

def pwrDev (p : Power) (l : List (Nat × Word)) (f : State → State) : State := ready fun s => f { s with pwr := p, regs := l }

def up : Power := { Power.reset with pg := 0x1F, en := 0xF, lock := true, vcore := 750, n := 16, want := 16 }

theorem wit_PowerEvents_1a : ∃ (s : State),
    Ready s ∧ s.pwr.epwr = false ∧ s.pwr.ethm = false :=
  ⟨pwrDev up [] id, by decide +kernel⟩

theorem wit_PowerEvents_2a : ∃ (s : State),
    Ready s ∧ s.pwr.epwr = false ∧ s.pwr.ethm = true :=
  ⟨pwrDev { up with ethm := true } [] id, by decide +kernel⟩

theorem wit_PowerEvents_3a : ∃ (s : State),
    Ready s ∧ s.pwr.epwr = true ∧ s.pwr.ethm = false :=
  ⟨pwrDev { up with epwr := true } [] id, by decide +kernel⟩

theorem wit_PowerEvents_4a : ∃ (s : State),
    s.phase ≠ 2 :=
  ⟨{ pwrDev { up with epwr := true } [] id with phase := 1 }, by decide +kernel⟩

theorem wit_PowerEvents_5a : ∃ (pwr : Bool) (_thm : Bool) (s : State),
    ((s.pwr.epwr = false ∧ s.pwr.ethm = false) ∨ s.pwr.temps.any (fun x : Nat × Int => decide (x.2 > (fld (s.reg rThmLimits) 8 8 : Int) - 5)) = true) ∧ s.pwr.epwr = false ∧ s.pwr.ethm = false :=
  ⟨true, true, pwrDev up [] id, by decide +kernel⟩

/-- HOT 100, WARN 90. -/
def hotRegs : List (Nat × Word) := [(rThmLimits, 0x645A)]

theorem wit_PowerEvents_5b : ∃ (pwr : Bool) (_thm : Bool) (s : State),
    ((s.pwr.epwr = false ∧ s.pwr.ethm = false) ∨ s.pwr.temps.any (fun x : Nat × Int => decide (x.2 > (fld (s.reg rThmLimits) 8 8 : Int) - 5)) = true) ∧ (fld (s.reg rThmLimits) 8 8 = 100) :=
  ⟨true, true, pwrDev { up with epwr := true, temps := [(3, 96)] } hotRegs id, by decide +kernel⟩

theorem wit_PowerEvents_6a : ∃ (pwr : Bool) (_thm : Bool) (s : State),
    s.pwr.epwr = true ∧ s.pwr.ethm = false ∧ s.pwr.temps.any (fun x : Nat × Int => decide (x.2 > (fld (s.reg rThmLimits) 8 8 : Int) - 5)) = false ∧ pwr = true :=
  ⟨true, false, pwrDev { up with epwr := true, temps := [(3, 95)], limit := some 700 } hotRegs fun s => { s with time := 5000 }, by decide +kernel⟩

theorem wit_PowerEvents_6b : ∃ (pwr : Bool) (_thm : Bool) (s : State),
    s.pwr.epwr = true ∧ s.pwr.ethm = false ∧ s.pwr.temps.any (fun x : Nat × Int => decide (x.2 > (fld (s.reg rThmLimits) 8 8 : Int) - 5)) = false ∧ pwr = true :=
  ⟨true, false, pwrDev { up with epwr := true, temps := [(3, 95)] } hotRegs fun s => { s with time := 5000 }, by decide +kernel⟩

theorem wit_PowerEvents_6c : ∃ (pwr : Bool) (_thm : Bool) (s : State),
    s.pwr.epwr = true ∧ s.pwr.ethm = false ∧ s.pwr.temps.any (fun x : Nat × Int => decide (x.2 > (fld (s.reg rThmLimits) 8 8 : Int) - 5)) = false ∧ pwr = false :=
  ⟨false, false, pwrDev { up with epwr := true, temps := [(3, 95)] } hotRegs id, by decide +kernel⟩

theorem wit_PowerEvents_7a : ∃ (_i : Fin 54) (_t : Int) (s : State),
    s.phase ≠ 2 :=
  ⟨3, 60, { pwrDev up hotRegs id with phase := 1 }, by decide +kernel⟩

theorem wit_PowerEvents_8a : ∃ (_i : Fin 54) (t : Int) (s : State),
    Ready s ∧ fld (s.reg rThmLimits) 0 8 ≤ fld (s.reg rThmLimits) 8 8 ∧ t < (fld (s.reg rThmLimits) 0 8 : Int) ∧ t < 115 :=
  ⟨3, 89, pwrDev up hotRegs id, by decide +kernel⟩

theorem wit_PowerEvents_9a : ∃ (i : Fin 54) (t : Int) (s : State),
    Ready s ∧ tblGet 0 s.pwr.temps i.val < (fld (s.reg rThmLimits) 0 8 : Int) ∧ (fld (s.reg rThmLimits) 0 8 : Int) ≤ t ∧ t < (fld (s.reg rThmLimits) 8 8 : Int) ∧ t < 115 :=
  ⟨3, 90, pwrDev { up with temps := [(3, 89)] } hotRegs id, by decide +kernel⟩

theorem wit_PowerEvents_10a : ∃ (_i : Fin 54) (t : Int) (s : State),
    Ready s ∧ s.pwr.ethm = false ∧ (fld (s.reg rThmLimits) 8 8 : Int) ≤ t ∧ t < 115 :=
  ⟨50, 100, pwrDev up hotRegs id, by decide +kernel⟩

theorem wit_PowerEvents_11a : ∃ (i : Fin 54) (t : Int) (s : State),
    Ready s ∧ tblGet 0 s.pwr.temps i.val < 115 ∧ 115 ≤ t ∧ i.val < 46 ∧ fld (s.reg rRcvPcreq) 0 1 = 0 :=
  ⟨45, 115, pwrDev up hotRegs id, by decide +kernel⟩

theorem wit_PowerEvents_12a : ∃ (r : Fin 5) (s : State),
    (s.phase = 0 ∨ s.d3cold = true ∨ s.pwr.pg.getLsbD r.val = false) ∧ s.pwr.pg.getLsbD r.val = false :=
  ⟨3, pwrDev { up with pg := 0x17 } hotRegs id, by decide +kernel⟩

theorem wit_PowerEvents_13a : ∃ (r : Fin 5) (s : State),
    s.phase ≠ 0 ∧ s.d3cold = false ∧ s.pwr.pg.getLsbD r.val = true ∧ fld (s.reg rRcvPcreq) 0 1 = 0 :=
  ⟨3, pwrDev up hotRegs id, by decide +kernel⟩

theorem wit_PowerEvents_14a : ∃ (s : State),
    s.pwr.lock = false :=
  ⟨pwrDev { up with lock := false } [] id, by decide +kernel⟩

theorem wit_PowerEvents_15a : ∃ (s : State),
    s.pwr.lock = true ∧ fld (s.reg rRcvPcreq) 0 1 = 0 :=
  ⟨pwrDev up [] id, by decide +kernel⟩

theorem wit_PowerEvents_16a : ∃ (_a : Nat) (_b : Nat) (_c : Nat) (s : State),
    (s.phase ≠ 2 ∨ s.time < s.pwr.sampled + 10000) ∧ s.time < s.pwr.sampled + 10000 :=
  ⟨5, 6, 7, pwrDev up [] fun s => { s with time := 9999 }, by decide +kernel⟩

theorem wit_PowerEvents_17a : ∃ (_a : Nat) (_b : Nat) (c : Nat) (s : State),
    Ready s ∧ s.pwr.sampled + 10000 ≤ s.time ∧ s.pwr.epwr = false ∧ s.pwr.ethm = false ∧ c > fld (s.reg rPwrLimit) 0 11 ∧ 4 < s.pwr.n :=
  ⟨5, 6, 701, pwrDev up [(rPwrLimit, 700)] fun s => { s with time := 10000 }, by decide +kernel⟩

theorem wit_PowerEvents_17b : ∃ (_a : Nat) (_b : Nat) (_c : Nat) (s : State),
    Ready s ∧ s.pwr.sampled + 10000 ≤ s.time ∧ s.pwr.epwr = true :=
  ⟨5, 6, 701, pwrDev { up with epwr := true } [(rPwrLimit, 700)] fun s => { s with time := 10000 }, by decide +kernel⟩

/-- 500 W is below every limit. -/
theorem low_limit : 500 ≤ (if Config.lowPower then 860 else 1150) := by split <;> decide

theorem wit_PowerEvents_18a : ∃ (a c : Nat) (s : State), Ready s ∧ s.pwr.sampled + 10000 ≤ s.time ∧ s.pwr.epwr = false ∧ s.pwr.ethm = false ∧ s.pwr.n ≤ 16 ∧
    a ≤ fld (s.reg rPwrLimit) 0 11 ∧ a ≤ (if Config.lowPower then 860 else 1150) ∧ c ≤ fld (s.reg rPwrLimit) 0 11 ∧ s.pwr.amps ≤ vrMax s :=
  ⟨500, 500, pwrDev up [(rPwrLimit, 700)] fun s => { s with time := 10000 }, by decide +kernel, by decide +kernel, by decide +kernel, by decide +kernel,
    by decide +kernel, by decide +kernel, low_limit, by decide +kernel, by decide +kernel⟩

theorem wit_PowerEvents_19a : ∃ (_mv : Nat) (_amps : Nat) (_temp : Int) (s : State),
    s.phase ≠ 2 ∧ s.phase ≠ 2 :=
  ⟨5, 6, 7, { pwrDev up [] id with phase := 1 }, by decide +kernel⟩

theorem wit_PowerEvents_21a : ∃ (mv : Nat) (amps : Nat) (_temp : Int) (s : State),
    Ready s ∧ s.pwr.epwr = false ∧ s.pwr.ethm = false ∧ amps ≤ vrMax s ∧ s.pwr.vcore ≤ mv :=
  ⟨750, 6, 7, pwrDev { up with n := 5, want := 9 } [] id, by decide +kernel⟩

theorem wit_PowerEvents_21b : ∃ (mv : Nat) (amps : Nat) (_temp : Int) (s : State),
    Ready s ∧ s.pwr.epwr = false ∧ s.pwr.ethm = false ∧ amps ≤ vrMax s ∧ mv < s.pwr.vcore :=
  ⟨749, 6, 7, pwrDev { up with n := 5, want := 9 } [] id, by decide +kernel⟩

theorem wit_PowerEvents_22a : ∃ (_mv : Nat) (amps : Nat) (_temp : Int) (s : State),
    Ready s ∧ s.pwr.epwr = false ∧ s.pwr.ethm = false ∧ vrMax s < amps ∧ 4 < s.pwr.n :=
  ⟨749, 1101, 7, pwrDev up [] id, by decide +kernel⟩

theorem wit_PowerEvents_23a : ∃ (_h : Fin 2) (s : State),
    Ready s :=
  ⟨1, pwrDev up [(rPwrWake, 5000)] id, by decide +kernel⟩

theorem wit_PowerEvents_24a : ∃ (part : RegPart) (v : Word) (s : State),
    Ready s ∧ fld (ovr part (s.reg rPwrLimit) v) 0 11 = 700 :=
  ⟨.full, 700, pwrDev up [] id, by decide +kernel⟩

/-- A device in a time mode: PTP takes part on port 3 in domain 5. -/
def timeDev (w : Word) (f : State → State) : State := ready fun s => f { s with regs := [(rTimeCfg, w)] }

theorem wit_DeviceTime_1a : ∃ (_part : RegPart) (_v : Word) (s : State),
    Ready s ∧ (fld (s.reg rTimeCfg) 0 2 ≠ 2 ∨ (s.secondary = true ∧ s.pair.joined = true)) ∧ fld (s.reg rTimeCfg) 0 2 ≠ 2 :=
  ⟨.full, 7, timeDev 1 id, by decide +kernel⟩

theorem wit_DeviceTime_2a : ∃ (_part : RegPart) (_v : Word) (s : State),
    Ready s ∧ fld (s.reg rTimeCfg) 0 2 = 2 ∧ (s.secondary = false ∨ s.pair.joined = false) ∧ s.secondary = false :=
  ⟨.full, 7, timeDev 2 id, by decide +kernel⟩

theorem wit_DeviceTime_3a : ∃ (_d : Int) (s : State),
    s.pecks = [] :=
  ⟨-3, timeDev 2 id, by decide +kernel⟩

theorem wit_DeviceTime_4a : ∃ (_f : Fin 512) (s : State),
    Ready s :=
  ⟨7, timeDev 2 fun s => { s with time := 0x500000007 }, by decide +kernel⟩

theorem wit_DeviceTime_5a : ∃ (f : Fin 512) (h : Nat) (s : State),
    Ready s ∧ s.clk.latch.find? (fun x => x.1 == f.val) = some (f.val, h) :=
  ⟨7, 9, timeDev 2 fun s => { s with time := 0x500000007, clk := { s.clk with latch := [(6, 1), (7, 9)] } }, by decide +kernel⟩

theorem wit_DeviceTime_6a : ∃ (_f : Fin 512) (s : State),
    s.phase ≠ 2 :=
  ⟨7, { timeDev 2 id with phase := 1 }, by decide +kernel⟩

theorem wit_DeviceTime_7a : ∃ (s : State),
    s.time / 1000000000 > s.clk.pps ∧ fld (s.reg rTimeCfg) 27 1 = 1 :=
  ⟨timeDev 0x8000000 fun s => { s with time := 3000000001 }, by decide +kernel⟩

theorem wit_DeviceTime_8a : ∃ (port : Fin 16) (domain : Nat) (_ident : Nat) (_m : PtpMsg) (s : State),
    (s.phase ≠ 2 ∨ fld (s.reg rTimeCfg) 0 2 ≠ 1 ∨ fld (s.reg rTimeCfg) (10 + port.val) 1 = 0 ∨ domain ≠ fld (s.reg rTimeCfg) 2 8) ∧ fld (s.reg rTimeCfg) 0 2 ≠ 1 :=
  ⟨3, 5, 9, .announce [], timeDev 2 id, by decide +kernel⟩

/-- TIME_CFG of PTP in domain 5 on port 3, end to end. -/
def ptpCfg : Word := 0x2015

def ptpDev (p2p : Bool) (f : State → State) : State := timeDev (ptpCfg + if p2p then 0x4000000 else 0) f

def picked (s : State) : State := { s with time := 5000, clk := { s.clk with chosen := some (3, 9), req := some (4, 4000), ms := some 700, sync := some (8, 4400), resp := some (4500, 4100), masters := [⟨3, 9, [1], 2⟩] } }

theorem wit_DeviceTime_9a : ∃ (port : Fin 16) (_ident : Nat) (_prio : List Nat) (s : State),
    Ready s ∧ fld (s.reg rTimeCfg) 0 2 = 1 ∧ fld (s.reg rTimeCfg) (10 + port.val) 1 = 1 ∧ s.clk.masters = [] ∧ s.clk.chosen = none :=
  ⟨3, 9, [1, 2], ptpDev false id, by decide +kernel⟩

theorem wit_DeviceTime_10a : ∃ (port : Fin 16) (ident : Nat) (prio : List Nat) (s : State),
    Ready s ∧ fld (s.reg rTimeCfg) 0 2 = 1 ∧ fld (s.reg rTimeCfg) (10 + port.val) 1 = 1 ∧ s.clk.masters = [⟨port.val, ident, prio, 1⟩] ∧ s.clk.chosen = none :=
  ⟨3, 9, [1, 2], ptpDev false fun s => { s with clk := { s.clk with masters := [⟨3, 9, [1, 2], 1⟩] } }, by decide +kernel⟩

theorem wit_DeviceTime_11a : ∃ (port : Fin 16) (ident : Nat) (_seq : Nat) (_o : Int) (_corr : Int) (s : State),
    Ready s ∧ fld (s.reg rTimeCfg) 0 2 = 1 ∧ fld (s.reg rTimeCfg) (10 + port.val) 1 = 1 ∧ s.clk.chosen = some (port.val, ident) :=
  ⟨3, 9, 7, 400, 5, ptpDev false picked, by decide +kernel⟩

theorem wit_DeviceTime_11b : ∃ (port : Fin 16) (ident : Nat) (_seq : Nat) (_o : Int) (_corr : Int) (s : State),
    Ready s ∧ fld (s.reg rTimeCfg) 0 2 = 1 ∧ fld (s.reg rTimeCfg) (10 + port.val) 1 = 1 ∧ s.clk.chosen ≠ some (port.val, ident) :=
  ⟨3, 8, 7, 400, 5, ptpDev false picked, by decide +kernel⟩

theorem wit_DeviceTime_12a : ∃ (port : Fin 16) (ident : Nat) (seq : Nat) (a : Nat) (_o : Int) (_corr : Int) (s : State),
    Ready s ∧ fld (s.reg rTimeCfg) 0 2 = 1 ∧ fld (s.reg rTimeCfg) (10 + port.val) 1 = 1 ∧ s.clk.chosen = some (port.val, ident) ∧ s.clk.sync = some (seq, a) :=
  ⟨3, 9, 8, 4400, 400, 5, ptpDev false picked, by decide +kernel⟩

theorem wit_DeviceTime_13a : ∃ (port : Fin 16) (ident : Nat) (seq : Nat) (dep : Nat) (ms : Int) (_r : Int) (_corr : Int) (s : State),
    Ready s ∧ fld (s.reg rTimeCfg) 0 2 = 1 ∧ fld (s.reg rTimeCfg) (10 + port.val) 1 = 1 ∧ s.clk.chosen = some (port.val, ident) ∧ fld (s.reg rTimeCfg) 26 1 = 0 ∧ s.clk.req = some (seq, dep) ∧ s.clk.ms = some ms :=
  ⟨3, 9, 4, 4000, 700, 6000, 5, ptpDev false picked, by decide +kernel⟩

theorem wit_DeviceTime_14a : ∃ (port : Fin 16) (_ident : Nat) (seq : Nat) (dep : Nat) (_r : Int) (_corr : Int) (s : State),
    Ready s ∧ fld (s.reg rTimeCfg) 0 2 = 1 ∧ fld (s.reg rTimeCfg) (10 + port.val) 1 = 1 ∧ fld (s.reg rTimeCfg) 26 1 = 1 ∧ s.clk.req = some (seq, dep) :=
  ⟨3, 9, 4, 4000, 6000, 5, ptpDev true picked, by decide +kernel⟩

theorem wit_DeviceTime_15a : ∃ (port : Fin 16) (_ident : Nat) (seq : Nat) (dep : Nat) (a : Nat) (r : Int) (_o : Int) (_corr : Int) (s : State),
    Ready s ∧ fld (s.reg rTimeCfg) 0 2 = 1 ∧ fld (s.reg rTimeCfg) (10 + port.val) 1 = 1 ∧ fld (s.reg rTimeCfg) 26 1 = 1 ∧ s.clk.req = some (seq, dep) ∧ s.clk.resp = some (a, r) :=
  ⟨3, 9, 4, 4000, 4500, 4100, 4300, 5, ptpDev true picked, by decide +kernel⟩

theorem wit_DeviceTime_16a : ∃ (m : Int) (d : Int) (s : State),
    s.clk.ms = some m ∧ s.clk.delay = some d ∧ s.secondary = true ∧ s.pair.joined = true :=
  ⟨700, 300, ptpDev false fun s => joined { picked s with secondary := true, clk := { (picked s).clk with delay := some 300 } }, by decide +kernel⟩

theorem wit_DeviceTime_17a : ∃ (m : Int) (d : Int) (s : State),
    s.clk.ms = some m ∧ s.clk.delay = some d ∧ s.secondary = false ∧ (m - d).natAbs ≤ 1000 :=
  ⟨700, 300, ptpDev false fun s => { picked s with clk := { (picked s).clk with delay := some 300 } }, by decide +kernel⟩

theorem wit_DeviceTime_18a : ∃ (s : State),
    (s.clk.ms = none ∨ s.clk.delay = none) ∧ s.clk.delay = none :=
  ⟨ptpDev false picked, by decide +kernel⟩

theorem wit_DeviceTime_19a : ∃ (s : State),
    s.clk.chosen = none :=
  ⟨ptpDev false id, by decide +kernel⟩

theorem wit_DeviceTime_20a : ∃ (p : Nat) (i : Nat) (n : Nat) (prio : List Nat) (s : State),
    s.clk.chosen = some (p, i) ∧ s.clk.masters = [⟨p, i, prio, n⟩] :=
  ⟨3, 9, 2, [1], ptpDev false picked, by decide +kernel⟩

theorem wit_DeviceTime_21a : ∃ (p : Nat) (i : Nat) (s : State),
    Ready s ∧ s.clk.chosen = some (p, i) ∧ fld (s.reg rTimeCfg) 0 2 = 1 :=
  ⟨3, 9, ptpDev true picked, by decide +kernel⟩

def scrubDev (l : List (Nat × Word)) (f : State → State) : State := ready fun s => f { s with regs := l }

theorem wit_IntegrityAndRegisters_1a : ∃ (part : RegPart) (v : Word) (s : State),
    Ready s ∧ fld (ovr part 0 v) 0 1 = 0 :=
  ⟨.high, 1, scrubDev [] id, by decide +kernel⟩

theorem wit_IntegrityAndRegisters_2a : ∃ (part : RegPart) (v : Word) (s : State),
    Ready s ∧ fld (ovr part 0 v) 0 1 = 1 ∧ (s.intg.scrub.isSome = true ∨ fld (s.reg rScrubBase) 0 40 % 64 ≠ 0 ∨ fld (s.reg rScrubLen) 0 41 % 64 ≠ 0 ∨ fld (s.reg rScrubLen) 0 41 = 0 ∨ 2 ^ 40 < fld (s.reg rScrubLen) 0 41 ∨ rangeExists (fld (s.reg rScrubBase) 0 40) (fld (s.reg rScrubLen) 0 41) = false) ∧ fld (s.reg rScrubLen) 0 41 = 0 :=
  ⟨.full, 1, scrubDev [(rScrubLen, 0)] id, by decide +kernel⟩

theorem wit_IntegrityAndRegisters_3a : ∃ (a : Nat) (n : Nat) (part : RegPart) (v : Word) (s : State),
    Ready s ∧ fld (ovr part 0 v) 0 1 = 1 ∧ s.intg.scrub = none ∧ a = fld (s.reg rScrubBase) 0 40 ∧ n = fld (s.reg rScrubLen) 0 41 ∧ a % 64 = 0 ∧ n % 64 = 0 ∧ 0 < n ∧ n ≤ 2 ^ 40 ∧ rangeExists a n = true :=
  ⟨0, 64, .full, 1, scrubDev [(rScrubBase, 0), (rScrubLen, 64)] fun s => { s with mem := s.mem.setWord 8 ⟨5, Tag.poison⟩ }, by decide +kernel⟩

theorem wit_IntegrityAndRegisters_4a : ∃ (_a : Nat) (_n : Nat) (s : State),
    s.latent = [] :=
  ⟨0, 64, scrubDev [] id, by decide +kernel⟩

theorem wit_IntegrityAndRegisters_5a : ∃ (s : State),
    s.intg.scrub = none :=
  ⟨scrubDev [] id, by decide +kernel⟩

theorem wit_IntegrityAndRegisters_6a : ∃ (corr : Nat) (n : Nat) (a : Nat) (s : State),
    s.intg.scrub = some (corr, n, [a]) :=
  ⟨4, 1, 8, scrubDev [] fun s => { s with intg := { s.intg with scrub := some (4, 1, [8]) } }, by decide +kernel⟩

theorem wit_IntegrityAndRegisters_7a : ∃ (a : Nat) (_fail : Bool) (_s : State),
    addrExists a = false :=
  ⟨0xFFFFFFFFFF, true, scrubDev [] id, by decide +kernel⟩

theorem wit_IntegrityAndRegisters_8a : ∃ (a : Nat) (_fail : Bool) (s : State),
    addrExists a = true ∧ s.intg.faults = [] :=
  ⟨12, true, scrubDev [] id, by decide +kernel⟩

def faulty (f : Intg → Intg) : State := scrubDev [] fun s => { s with intg := f { s.intg with faults := [8] } }

theorem wit_IntegrityAndRegisters_9a : ∃ (a : Nat) (s : State),
    addrExists a = true ∧ s.intg.faults = [a / 8 * 8] ∧ s.intg.passes = [] :=
  ⟨12, faulty id, by decide +kernel⟩

theorem wit_IntegrityAndRegisters_10a : ∃ (a : Nat) (s : State),
    addrExists a = true ∧ s.intg.faults = [a / 8 * 8] :=
  ⟨12, faulty id, by decide +kernel⟩

theorem wit_IntegrityAndRegisters_11a : ∃ (a : Nat) (s : State),
    poolBase ≤ a ∧ fld (s.reg (unitOf a).1) 48 6 = 3 :=
  ⟨poolBase, scrubDev [((unitOf poolBase).1, 0x3000000000000)] id, by decide +kernel⟩

theorem wit_IntegrityAndRegisters_11b : ∃ (a : Nat) (s : State),
    poolBase ≤ a ∧ fld (s.reg (unitOf a).1) 48 6 = 0 :=
  ⟨poolBase, scrubDev [((unitOf poolBase).1, 0)] id, by decide +kernel⟩

theorem wit_IntegrityAndRegisters_12a : ∃ (e : Fin 128) (_fail : Bool) (s : State),
    residents s e.val ≠ 0 :=
  ⟨0, true, ready (startAt (TWord.int 1) .active { context with state := .running }), by decide +kernel⟩

theorem wit_IntegrityAndRegisters_13a : ∃ (l : Fin 17) (s : State),
    fld (s.reg (rLink l.val)) 0 2 = 0 :=
  ⟨3, scrubDev [(rLink 3, 0)] id, by decide +kernel⟩

theorem wit_IntegrityAndRegisters_14a : ∃ (l : Fin 17) (s : State),
    fld (s.reg (rLink l.val)) 0 2 ≠ 0 ∧ fld (s.reg rRcvPcreq) 0 1 = 0 :=
  ⟨3, scrubDev [(rLink 3, 0x202)] id, by decide +kernel⟩

theorem wit_IntegrityAndRegisters_15a : ∃ (l : Fin 17) (m : Fin 16) (_d : Bool) (_e : Nat) (_r : Nat) (_w : List (List Nat)) (s : State),
    (linkModules l.val ≤ m.val ∨ s.intg.out_.contains (l.val * 16 + m.val) = true ∨ fld (s.reg (rLink l.val)) 0 2 < 2) ∧ linkModules l.val ≤ m.val :=
  ⟨3, 2, true, 1, 1, [], scrubDev [(rLink 3, 0x202)] id, by decide +kernel⟩

theorem wit_IntegrityAndRegisters_17a : ∃ (l : Fin 17) (m : Fin 16) (_d : Bool) (e : Nat) (_r : Nat) (s : State),
    m.val < linkModules l.val ∧ s.intg.out_.contains (l.val * 16 + m.val) = false ∧ 2 ≤ fld (s.reg (rLink l.val)) 0 2 ∧ fld (s.reg rIntgCfg) 0 16 ≤ e ∧ tblGet 0 s.intg.lanes ((l.val * 16 + m.val) * 2 + 1) < 4 :=
  ⟨3, 1, true, 16, 1, scrubDev [(rLink 3, 0x100202), (rIntgCfg, 16)] id, by decide +kernel⟩

theorem wit_IntegrityAndRegisters_17b : ∃ (l : Fin 17) (m : Fin 16) (_d : Bool) (e : Nat) (_r : Nat) (s : State),
    m.val < linkModules l.val ∧ s.intg.out_.contains (l.val * 16 + m.val) = false ∧ 2 ≤ fld (s.reg (rLink l.val)) 0 2 ∧ fld (s.reg rIntgCfg) 0 16 ≤ e ∧ tblGet 0 s.intg.lanes ((l.val * 16 + m.val) * 2 + 1) = 4 ∧ 1 < fld (s.reg (rLink l.val)) 8 5 :=
  ⟨3, 1, true, 16, 1, scrubDev [(rLink 3, 0x202), (rIntgCfg, 16)] fun s => { s with intg := { s.intg with lanes := [(99, 4)] } }, by decide +kernel⟩

theorem wit_IntegrityAndRegisters_21a : ∃ (f : Fin 512) (off : Nat) (_part : RegPart) (_v : Word) (s : State),
    off % 8 = 0 ∧ f.val < 256 ∧ (f.val ≠ 0 ∨ (s.phase ≠ 2 ∧ 0x20000 ≤ off ∧ (off < 0xB00000 ∨ 0xC00000 ≤ off))) ∧ f.val ≠ 0 :=
  ⟨7, rCto, .full, 8, scrubDev [] id, by decide +kernel⟩

theorem wit_IntegrityAndRegisters_22a : ∃ (off : Nat) (_part : RegPart) (_v : Word) (fs : List RegField) (s : State),
    Ready s ∧ off % 8 = 0 ∧ plainFields off = some fs :=
  ⟨rCto, .full, 80, [⟨0, 20, 50, 1000000⟩], scrubDev [] id, by decide +kernel⟩

theorem wit_IntegrityAndRegisters_23a : ∃ (off : Nat) (lo : Nat) (w : Nat) (least : Nat) (_most : Nat) (part : RegPart) (v : Word) (s : State),
    least ≤ fld (ovr part (s.reg off) v) lo w :=
  ⟨rCto, 0, 20, 50, 1000000, .full, 80, scrubDev [] id, by decide +kernel⟩

theorem wit_IntegrityAndRegisters_23b : ∃ (off : Nat) (lo : Nat) (w : Nat) (least : Nat) (_most : Nat) (part : RegPart) (v : Word) (s : State),
    fld (ovr part (s.reg off) v) lo w < least :=
  ⟨rCto, 0, 20, 50, 1000000, .full, 49, scrubDev [] id, by decide +kernel⟩

theorem wit_IntegrityAndRegisters_24a : ∃ (_part : RegPart) (_v : Word) (s : State),
    Ready s ∧ fld (s.reg rTimeCfg) 0 2 = 2 :=
  ⟨.full, 80, timeDev 2 id, by decide +kernel⟩

theorem wit_IntegrityAndRegisters_25a : ∃ (n : Fin 1024) (_part : RegPart) (_v : Word) (s : State),
    Ready s ∧ fld (s.reg (rVol n.val)) 0 1 = 0 :=
  ⟨3, .full, 80, scrubDev [] id, by decide +kernel⟩

theorem wit_IntegrityAndRegisters_26a : ∃ (_f : Fin 512) (off : Nat) (len : Nat) (_s : State),
    ¬(len = 8 ∧ off % 8 = 0) ∧ ¬(len = 4 ∧ off % 4 = 0) :=
  ⟨7, 6, 4, scrubDev [] id, by decide +kernel⟩

theorem wit_IntegrityAndRegisters_16a : ∃ (l : Fin 17) (m : Fin 16) (_d : Bool) (e : Nat) (_r : Nat) (a : Nat) (s : State),
    m.val < linkModules l.val ∧ s.intg.out_.contains (l.val * 16 + m.val) = false ∧ 2 ≤ fld (s.reg (rLink l.val)) 0 2 ∧ e < fld (s.reg rIntgCfg) 0 16 ∧ a % 8 = 0 ∧ rangeExists a 8 = true :=
  ⟨3, 1, true, 15, 1, 0x2000, scrubDev [(rLink 3, 0x202), (rIntgCfg, 16)] id, by decide +kernel⟩

theorem wit_IntegrityAndRegisters_19a : ∃ (_f : Fin 512) (off : Nat) (_part : RegPart) (_v : Word) (_s : State),
    off % 8 ≠ 0 :=
  ⟨0, 4, .full, 8, scrubDev [] id, by decide +kernel⟩

theorem wit_IntegrityAndRegisters_20a : ∃ (f : Fin 512) (off : Nat) (_part : RegPart) (_v : Word) (_s : State),
    off % 8 = 0 ∧ 256 ≤ f.val :=
  ⟨300, 0x1000, .high, 8, scrubDev [] id, by decide +kernel⟩

theorem wit_PowerEvents_20a : ∃ (_mv : Nat) (_amps : Nat) (_temp : Int) (s : State),
    Ready s ∧ (s.pwr.epwr = true ∨ s.pwr.ethm = true) ∧ s.pwr.n = s.pwr.want ∧ s.pwr.epwr = true :=
  ⟨5, 6, 7, pwrDev { up with epwr := true, n := 4, want := 4 } [] id, by decide +kernel⟩

/-- A volume device: registers `l`, drive 2 READY with 1,000 blocks. -/
def volDev (l : List (Nat × Word)) (f : State → State) : State := ready fun s => f { peck1 s with regs := l, drives := [(2, { Drive.reset with state := .ready, port := 6, blocks := 1000, ident := some 44 })] }

/-- Volume 0: enabled, held by Peck 1, one member, stripes of 16 blocks, on drive 2 from block 100. -/
def vol0 : List (Nat × Word) := [(rVol 0, 0x4000101), (rVol2 0, 400), (rExt 0 0, 0x20000000064)]

/-- The same volume disabled. -/
def vol0Off : List (Nat × Word) := [(rVol 0, 0x4000100), (rVol2 0, 400), (rExt 0 0, 0x20000000064)]

def online (s : State) : State := s.setVol 0 { s.vol 0 with state := .online }

theorem wit_StorageEvents_1a : ∃ (_d : Fin 32) (part : RegPart) (v : Word) (s : State),
    Ready s ∧ fld (ovr part 0 v) 32 1 = 0 :=
  ⟨2, .low, 0x100000000, volDev [] id, by decide +kernel⟩

theorem wit_StorageEvents_2a : ∃ (d : Fin 32) (part : RegPart) (v : Word) (s : State),
    Ready s ∧ fld (ovr part 0 v) 32 1 = 1 ∧ (volsOnDrive s d.val ≠ [] ∨ (s.drive d.val).state = .ready ∨ (s.drive d.val).state = .unsuitable) ∧ (s.drive d.val).state = .ready :=
  ⟨2, .full, 0x100000000, volDev [] id, by decide +kernel⟩

theorem wit_StorageEvents_3a : ∃ (d : Fin 32) (part : RegPart) (v : Word) (s : State),
    Ready s ∧ fld (ovr part 0 v) 32 1 = 1 ∧ volsOnDrive s d.val = [] ∧ ((s.drive d.val).state = .absent ∨ (s.drive d.val).state = .failed) ∧ (s.drive d.val).state = .absent :=
  ⟨3, .full, 0x100000000, volDev [] id, by decide +kernel⟩

theorem wit_StorageEvents_4a : ∃ (n : Fin 1024) (part : RegPart) (w : Word) (s : State),
    Ready s ∧ volEn s n.val = true ∧ (fld (ovr part (s.reg (rVol n.val)) w) 0 1 = 1 ∨ volNamed s n.val = true) ∧ volNamed s n.val = true :=
  ⟨0, .full, 0, volDev vol0 fun s => { s with regions := [(7, { region 0 0x1000 with kind := .volume })] }, by decide +kernel⟩

theorem wit_StorageEvents_5a : ∃ (n : Fin 1024) (part : RegPart) (w : Word) (s : State),
    Ready s ∧ volEn s n.val = true ∧ fld (ovr part (s.reg (rVol n.val)) w) 0 1 = 0 ∧ volNamed s n.val = false ∧ nvReady s (volPeck s n.val) = false :=
  ⟨0, .full, 0x4000100, volDev vol0 online, by decide +kernel⟩

theorem wit_StorageEvents_6a : ∃ (n : Fin 1024) (v : Word) (w : Word) (s : State),
    Ready s ∧ volEn s n.val = false ∧ fld v 0 1 = 0 ∧ 4 ≤ fld v 24 4 ∧ fld v 24 4 ≤ 8 ∧ w = v &&& 0x00000FFF0F1FFF07 :=
  ⟨0, 0xFFFFFFFFF4FFFFFE, 0x00000FFF041FFF06, volDev [] id, by decide +kernel⟩

theorem wit_StorageEvents_7a : ∃ (n : Fin 1024) (v : Word) (w : Word) (t : State) (s : State),
    Ready s ∧ volEn s n.val = false ∧ fld v 0 1 = 1 ∧ 4 ≤ fld v 24 4 ∧ fld v 24 4 ≤ 8 ∧ w = v &&& 0x00000FFF0F1FFF07 ∧ t = s.setReg (rVol n.val) w ∧ volCanEnable t n.val = true :=
  ⟨0, 0x4000101, 0x4000101, (volDev vol0Off id).setReg (rVol 0) 0x4000101, volDev vol0Off id, by decide +kernel⟩

theorem wit_StorageEvents_7b : ∃ (n : Fin 1024) (v : Word) (w : Word) (t : State) (s : State),
    Ready s ∧ volEn s n.val = false ∧ fld v 0 1 = 1 ∧ 4 ≤ fld v 24 4 ∧ fld v 24 4 ≤ 8 ∧ w = v &&& 0x00000FFF0F1FFF07 ∧ t = s.setReg (rVol n.val) w ∧ volCanEnable t n.val = false :=
  ⟨0, 0x4000101, 0x4000101, (volDev [] id).setReg (rVol 0) 0x4000101, volDev [] id, by decide +kernel⟩

def vreqOf (k : VKind) (w : Bool) : VReq := { id := 8, vol := 0, kind := k, blk := 5, n := 1, data := [], user := .item 3, off := 4096, waiting := w, open_ := 0, st := stOk, bad := none, mirror := none, raw := false, dead := false, lost := false }

theorem wit_StorageEvents_8a : ∃ (id : Nat) (s : State),
    Quiet s ∧ s.vreq id = none :=
  ⟨8, volDev vol0 id, by decide +kernel⟩

theorem wit_StorageEvents_9a : ∃ (id : Nat) (r : VReq) (s : State),
    Quiet s ∧ s.vreq id = some r ∧ (r.waiting = false ∨ vreqBlocked s r = true) ∧ r.waiting = false :=
  ⟨8, vreqOf .read false, volDev vol0 fun s => { s with vreqs := [vreqOf .read false] }, by decide +kernel⟩

theorem wit_StorageEvents_10a : ∃ (id : Nat) (r : VReq) (s : State),
    s.vreq id = some r ∧ r.waiting = true ∧ vreqBlocked s r = false :=
  ⟨8, vreqOf .read true, volDev vol0 fun s => online { s with vreqs := [vreqOf .read true] }, by decide +kernel⟩

theorem wit_StorageEvents_12a : ∃ (id : Nat) (r : VReq) (s : State),
    s.vreqs = [r] ∧ r.id = id ∧ volEn s r.vol = true ∧ (s.vol r.vol).state = .online ∧ r.blk + r.n ≤ volBlocks s r.vol ∧ volEnc s r.vol = false ∧ r.kind = .read ∧ r.n = 1 ∧ r.open_ = 0 ∧ r.mirror = none ∧ (s.drive (blockAt s r.vol r.blk).1).state = .ready :=
  ⟨8, vreqOf .read true, volDev vol0 fun s => online { s with vreqs := [vreqOf .read true] }, by decide +kernel⟩

theorem wit_StorageEvents_13a : ∃ (id : Nat) (r : VReq) (s : State),
    s.vreqs = [r] ∧ r.id = id ∧ r.dead = false ∧ r.open_ = 0 ∧ r.mirror = none ∧ r.st = stOk ∧ r.bad = none ∧ (volEn s r.vol = false ∨ (s.vol r.vol).state = .off ∨ (s.vol r.vol).state = .failed ∨ volBlocks s r.vol < r.blk + r.n) ∧ (s.vol r.vol).state = .off :=
  ⟨8, vreqOf .read true, volDev vol0 fun s => { s with vreqs := [vreqOf .read true] }, by decide +kernel⟩

theorem wit_StorageEvents_14a : ∃ (v : Nat) (_n : Nat) (u : Nat) (w : Nat) (s : State),
    u = volU s v ∧ w = volW s v :=
  ⟨0, 21, 16, 1, volDev vol0 id, by decide +kernel⟩

def dcmd : DriveCmd := ⟨4, 2, 8, 5, 1, 0⟩

def driving (r : VReq) (f : State → State) : State := volDev vol0 fun s => f (online { s with vreqs := [r], dcmds := [dcmd] })

def reading : VReq := { vreqOf .read false with open_ := 1 }

theorem wit_StorageEvents_15a : ∃ (id : Nat) (_e : Option (BitVec 16)) (_fatal : Bool) (_data : List Byte) (s : State),
    s.dcmds.find? (fun c => c.id == id) = none :=
  ⟨5, none, false, [], driving reading id, by decide +kernel⟩

theorem wit_StorageEvents_16a : ∃ (id : Nat) (_e : Option (BitVec 16)) (_data : List Byte) (c : DriveCmd) (s : State),
    s.dcmds.find? (fun c => c.id == id) = some c :=
  ⟨4, some 7, [], dcmd, driving reading id, by decide +kernel⟩

theorem wit_StorageEvents_17a : ∃ (id : Nat) (_e : BitVec 16) (_data : List Byte) (c : DriveCmd) (r : VReq) (s : State),
    s.dcmds.find? (fun c => c.id == id) = some c ∧ s.vreq c.req = some r :=
  ⟨4, 7, [], dcmd, reading, driving reading id, by decide +kernel⟩

theorem wit_StorageEvents_18a : ∃ (id : Nat) (data : List Byte) (c : DriveCmd) (r : VReq) (s : State),
    s.dcmds.find? (fun c => c.id == id) = some c ∧ s.vreq c.req = some r ∧ r.kind = .read ∧ data.length ≠ c.n * 4096 :=
  ⟨4, [1], dcmd, reading, driving reading id, by decide +kernel⟩

theorem wit_StorageEvents_18b : ∃ (id : Nat) (_data : List Byte) (c : DriveCmd) (r : VReq) (s : State),
    s.dcmds.find? (fun c => c.id == id) = some c ∧ s.vreq c.req = some r ∧ r.kind ≠ .read :=
  ⟨4, [], dcmd, { vreqOf .write false with open_ := 1 }, driving { vreqOf .write false with open_ := 1 } id, by decide +kernel⟩

theorem wit_StorageEvents_19a : ∃ (_data : List Byte) (c : DriveCmd) (r : VReq) (s : State),
    s.vreqs = [r] ∧ s.dcmds = [c] ∧ c.req = r.id ∧ r.kind = .read ∧ r.dead = false ∧ r.lost = false ∧ volEnc s r.vol = false ∧ r.open_ = 1 ∧ r.waiting = false ∧ r.mirror = none ∧ r.bad = none :=
  ⟨[1, 2], dcmd, reading, driving reading id, by decide +kernel⟩

theorem wit_StorageEvents_20a : ∃ (c : DriveCmd) (r : VReq) (st : Status) (s : State),
    s.vreqs = [r] ∧ s.dcmds = [c] ∧ c.req = r.id ∧ r.dead = false ∧ r.open_ = 1 ∧ r.waiting = false ∧ r.mirror = none ∧ r.bad = none ∧ r.st = stOk :=
  ⟨dcmd, reading, stStorMedia, driving reading id, by decide +kernel⟩

theorem wit_StorageEvents_21a : ∃ (d : Nat) (_n : Nat) (s : State),
    (s.drive d).state = .ready ∧ s.dcmds = [] ∧ volsOnDrive s d = [] :=
  ⟨2, 5, volDev [] id, by decide +kernel⟩

theorem wit_StorageEvents_22a : ∃ (id : Nat) (c : DriveCmd) (s : State),
    s.dcmds.find? (fun c => c.id == id) = some c ∧ c.sent + (s.reg rCto).toNat * 1000 ≤ s.time :=
  ⟨4, dcmd, driving reading fun s => { s with time := 50000000000 }, by decide +kernel⟩

theorem wit_StorageEvents_22b : ∃ (id : Nat) (c : DriveCmd) (s : State),
    s.dcmds.find? (fun c => c.id == id) = some c ∧ s.time < c.sent + (s.reg rCto).toNat * 1000 :=
  ⟨4, dcmd, driving reading id, by decide +kernel⟩

theorem wit_StorageEvents_23a : ∃ (_port : Nat) (_ident : Nat) (_size : Option Nat) (s : State),
    Quiet s ∧ s.drives = [] :=
  ⟨6, 44, some 1000, ready id, by decide +kernel⟩

theorem wit_StorageEvents_24a : ∃ (port : Nat) (d : Nat) (_ident : Nat) (_size : Option Nat) (x : Drive) (s : State),
    s.drives = [(d, x)] ∧ x.port = port ∧ x.state = .ready :=
  ⟨6, 2, 44, none, { Drive.reset with state := .ready, port := 6, blocks := 1000, ident := some 44 }, volDev [] id, by decide +kernel⟩

theorem wit_StorageEvents_25a : ∃ (id : Nat) (r : VReq) (s : State),
    s.vreq id = some r ∧ r.mirror = none :=
  ⟨8, reading, driving reading id, by decide +kernel⟩

def mirrored : VReq := { vreqOf .write false with mirror := some (3, 0) }

theorem wit_StorageEvents_26a : ∃ (id : Nat) (num : Nat) (t : Nat) (r : VReq) (s : State),
    s.vreq id = some r ∧ r.mirror = some (num, t) ∧ t + fld (s.reg rStorCfg) 0 14 * 1000000 ≤ s.time :=
  ⟨8, 3, 0, mirrored, driving mirrored fun s => { s with time := 20000000000 }, by decide +kernel⟩

theorem wit_StorageEvents_27a : ∃ (num : Nat) (t : Nat) (r : VReq) (s : State),
    s.vreqs = [r] ∧ r.mirror = some (num, t) ∧ r.open_ = 0 ∧ r.waiting = false ∧ r.dead = false ∧ r.bad = none ∧ (s.vol r.vol).state = .degraded :=
  ⟨3, 0, mirrored, volDev vol0 fun s => { s.setVol 0 { s.vol 0 with state := .degraded } with vreqs := [mirrored] }, by decide +kernel⟩

/-- Peck 1's controller runs: admin queue pair 0, I/O queue pair 1; function 258. -/
def nvOf (f : Nvme → Nvme) : Nvme := f { Nvme.reset with en := true, sqs := [(0, ⟨0x1000, 8, 0, 7⟩), (1, ⟨0x2000, 8, 1, 3⟩)], cqs := [(0, ⟨0x3000, 8, 0, true, 9, 9, []⟩), (1, ⟨0x4000, 8, 0, false, 0, 0, []⟩)] }

def nvDev (f : Nvme → Nvme) (l : List (Nat × Word)) (g : State → State) : State := volDev l fun s => g (((s.setPeck 1 { Peck.reset with state := .active, vf0 := 7, vf1 := 2 }).setNvme 1 (nvOf f)).setFn 258 { Fn.reset with enabled := true, bme := true })

def sq0 : NvSq := ⟨0x1000, 8, 0, 7⟩

def sq1 : NvSq := ⟨0x2000, 8, 1, 3⟩

def took (s : State) (q : Nat) (sq : NvSq) : State := s.setNvme 1 ((s.nvme 1).setSq q { sq with head := (sq.head + 1) % max 1 sq.size })

theorem wit_NvmeCommands_1a : ∃ (p : Fin 256) (_a : Word) (_c : Word) (_m : Nat) (_n : Nat) (s : State),
    Ready s ∧ nvExists s p.val = true ∧ (s.nvme p.val).en = false ∧ (s.peck p.val).state ≠ .disabled :=
  ⟨1, 0x1000, 0x3000, 8, 16, nvDev (fun x => { x with en := false }) [] id, by decide +kernel⟩

theorem wit_NvmeCommands_1b : ∃ (p : Fin 256) (_a : Word) (_c : Word) (_m : Nat) (_n : Nat) (s : State),
    Ready s ∧ nvExists s p.val = true ∧ (s.nvme p.val).en = false ∧ (s.peck p.val).state = .disabled :=
  ⟨1, 0x1000, 0x3000, 8, 16, (fun s : State => s.updPeck 1 fun x => { x with state := .disabled }) (nvDev (fun x => { x with en := false }) [] id), by decide +kernel⟩

theorem wit_NvmeCommands_2a : ∃ (p : Fin 256) (_a : Word) (_c : Word) (_m : Nat) (_n : Nat) (s : State),
    (nvExists s p.val = false ∨ (s.nvme p.val).en = true ∨ s.phase ≠ 2) ∧ (s.nvme p.val).en = true :=
  ⟨1, 0x1000, 0x3000, 8, 16, nvDev id [] id, by decide +kernel⟩

theorem wit_NvmeCommands_3a : ∃ (p : Fin 256) (s : State),
    nvExists s p.val = false :=
  ⟨2, nvDev id [] id, by decide +kernel⟩

theorem wit_NvmeCommands_4a : ∃ (p : Fin 256) (s : State),
    nvExists s p.val = true ∧ Quiet s ∧ s.vreqs = [] :=
  ⟨1, nvDev id [] id, by decide +kernel⟩

theorem wit_NvmeCommands_5a : ∃ (p : Fin 256) (_cid : BitVec 16) (q : BitVec 16) (_vec : BitVec 16) (_size : Nat) (_base : Word) (_contig : Bool) (_ien : Bool) (sq : NvSq) (s : State) (u : State),
    Taken s u p.val 0 sq ∧ p.val ≠ 0 ∧ 1 ≤ q.toNat ∧ q.toNat ≤ 16 ∧ (u.nvme p.val).cq q.toNat = none :=
  ⟨1, 9, 2, 16, 4096, 0x5000, true, true, sq0, nvDev id [] id, took (nvDev id [] id) 0 sq0, by decide +kernel⟩

theorem wit_NvmeCommands_5b : ∃ (p : Fin 256) (_cid : BitVec 16) (q : BitVec 16) (_vec : BitVec 16) (_size : Nat) (_base : Word) (_contig : Bool) (_ien : Bool) (sq : NvSq) (s : State) (u : State),
    Taken s u p.val 0 sq ∧ q = 17 :=
  ⟨1, 9, 17, 16, 4096, 0x5000, true, true, sq0, nvDev id [] id, took (nvDev id [] id) 0 sq0, by decide +kernel⟩

theorem wit_NvmeCommands_6a : ∃ (p : Fin 256) (_cid : BitVec 16) (q : BitVec 16) (cq : BitVec 16) (_size : Nat) (_base : Word) (_contig : Bool) (sq : NvSq) (s : State) (u : State),
    Taken s u p.val 0 sq ∧ ((u.nvme p.val).cq cq.toNat).isSome = true ∧ (u.nvme p.val).sq q.toNat = none :=
  ⟨1, 9, 2, 1, 4096, 0x5000, true, sq0, nvDev id [] id, took (nvDev id [] id) 0 sq0, by decide +kernel⟩

theorem wit_NvmeCommands_6b : ∃ (p : Fin 256) (_cid : BitVec 16) (q : BitVec 16) (_cq : BitVec 16) (_size : Nat) (_base : Word) (_contig : Bool) (sq : NvSq) (s : State) (u : State),
    Taken s u p.val 0 sq ∧ q = 1 :=
  ⟨1, 9, 1, 1, 4096, 0x5000, true, sq0, nvDev id [] id, took (nvDev id [] id) 0 sq0, by decide +kernel⟩

theorem wit_NvmeCommands_6c : ∃ (p : Fin 256) (_cid : BitVec 16) (q : BitVec 16) (cq : BitVec 16) (_size : Nat) (_base : Word) (_contig : Bool) (sq : NvSq) (s : State) (u : State),
    Taken s u p.val 0 sq ∧ (u.nvme p.val).cq cq.toNat = none ∧ (u.nvme p.val).sq q.toNat = none :=
  ⟨1, 9, 2, 3, 4096, 0x5000, true, sq0, nvDev id [] id, took (nvDev id [] id) 0 sq0, by decide +kernel⟩

theorem wit_NvmeCommands_7a : ∃ (p : Fin 256) (_cid : BitVec 16) (q : BitVec 16) (sq : NvSq) (s : State) (u : State),
    Taken s u p.val 0 sq ∧ ((u.nvme p.val).sq q.toNat).isSome = true ∧ (u.nvme p.val).cmds = [] ∧ q ≠ 0 :=
  ⟨1, 9, 1, sq0, nvDev id [] id, took (nvDev id [] id) 0 sq0, by decide +kernel⟩

theorem wit_NvmeCommands_7b : ∃ (p : Fin 256) (_cid : BitVec 16) (q : BitVec 16) (sq : NvSq) (s : State) (u : State),
    Taken s u p.val 0 sq ∧ (u.nvme p.val).sq q.toNat = none :=
  ⟨1, 9, 2, sq0, nvDev id [] id, took (nvDev id [] id) 0 sq0, by decide +kernel⟩

theorem wit_NvmeCommands_8a : ∃ (p : Fin 256) (_cid : BitVec 16) (q : BitVec 16) (sq : NvSq) (s : State) (u : State),
    Taken s u p.val 0 sq ∧ (∃ e ∈ (u.nvme p.val).sqs, e.2.cq = q.toNat) ∧ q ≠ 0 :=
  ⟨1, 9, 1, sq0, nvDev id [] id, took (nvDev id [] id) 0 sq0, by decide +kernel⟩

def moreCq (x : Nvme) : Nvme := { x with cqs := x.cqs ++ [(2, ⟨0x6000, 8, 0, false, 0, 0, []⟩)] }

theorem wit_NvmeCommands_8b : ∃ (p : Fin 256) (_cid : BitVec 16) (q : BitVec 16) (sq : NvSq) (s : State) (u : State),
    Taken s u p.val 0 sq ∧ (∀ e ∈ (u.nvme p.val).sqs, e.2.cq ≠ q.toNat) ∧ ((u.nvme p.val).cq q.toNat).isSome = true :=
  ⟨1, 9, 2, sq0, nvDev moreCq [] id, took (nvDev moreCq [] id) 0 sq0, by decide +kernel⟩

theorem wit_NvmeCommands_8c : ∃ (p : Fin 256) (_cid : BitVec 16) (q : BitVec 16) (sq : NvSq) (s : State) (u : State),
    Taken s u p.val 0 sq ∧ (u.nvme p.val).cq q.toNat = none :=
  ⟨1, 9, 3, sq0, nvDev id [] id, took (nvDev id [] id) 0 sq0, by decide +kernel⟩

theorem wit_NvmeCommands_9a : ∃ (p : Fin 256) (_cid : BitVec 16) (cns : BitVec 8) (nsid : BitVec 32) (_prp : List Word) (st : NvSt) (bs : List Byte) (sq : NvSq) (s : State) (u : State),
    Taken s u p.val 0 sq ∧ nvIdentify u p.val cns.toNat nsid.toNat = (st, bs) :=
  ⟨1, 9, 0, 0, [0x8000], (0, 0x0B), [], sq0, nvDev id [] id, took (nvDev id [] id) 0 sq0, by decide +kernel⟩

theorem pair_eta {α β : Type} (x : α × β) : x = (x.1, x.2) := rfl

def nvList1 : NvSt × List Byte := nvIdentify (took (nvDev id vol0 id) 0 sq0) (1 : Fin 256).val (2 : BitVec 8).toNat (0 : BitVec 32).toNat

theorem wit_NvmeCommands_9c : ∃ (p : Fin 256) (cns : BitVec 8) (nsid : BitVec 32) (st : NvSt) (bs : List Byte) (sq : NvSq) (s u : State),
    Taken s u p.val 0 sq ∧ nvIdentify u p.val cns.toNat nsid.toNat = (st, bs) ∧ st = (0, 0) :=
  ⟨1, 2, 0, nvList1.1, nvList1.2, sq0, nvDev id vol0 id, took (nvDev id vol0 id) 0 sq0, by decide +kernel, pair_eta nvList1, by decide +kernel⟩

theorem wit_NvmeCommands_10a : ∃ (_p : Nat) (n : Nat) (_s : State),
    (n = 0 ∨ 1024 < n) ∧ n = 0 :=
  ⟨1, 0, nvDev id vol0 id, by decide +kernel⟩

theorem wit_NvmeCommands_11a : ∃ (p : Nat) (n : Nat) (s : State),
    1 ≤ n ∧ n ≤ 1024 ∧ (nvActive s p).contains n = true :=
  ⟨1, 1, nvDev id vol0 id, by decide +kernel⟩

theorem wit_NvmeCommands_12a : ∃ (p : Fin 256) (_cid : BitVec 16) (_dw : Nat) (_off : Nat) (_retain : Bool) (_prp : List Word) (sq : NvSq) (s : State) (u : State),
    Taken s u p.val 0 sq :=
  ⟨1, 9, 4, 0, false, [0x8000], sq0, nvDev (fun x => { x with changed := [3] }) [] id, took (nvDev (fun x => { x with changed := [3] }) [] id) 0 sq0, by decide +kernel⟩

theorem wit_NvmeCommands_13a : ∃ (p : Fin 256) (_cid : BitVec 16) (lid : BitVec 8) (_dw : Nat) (_off : Nat) (_retain : Bool) (_prp : List Word) (sq : NvSq) (s : State) (u : State),
    Taken s u p.val 0 sq ∧ lid ≠ 1 ∧ lid ≠ 2 ∧ lid ≠ 4 :=
  ⟨1, 9, 5, 4, 0, false, [0x8000], sq0, nvDev id [] id, took (nvDev id [] id) 0 sq0, by decide +kernel⟩

def waits (x : Nvme) : Nvme := { x with aers := [30, 31] }

theorem wit_NvmeCommands_14a : ∃ (p : Fin 256) (_cid : BitVec 16) (q : BitVec 16) (target : BitVec 16) (sq : NvSq) (s : State) (u : State),
    Taken s u p.val 0 sq ∧ q = 0 ∧ (u.nvme p.val).aers.contains target.toNat = true :=
  ⟨1, 9, 0, 31, sq0, nvDev waits [] id, took (nvDev waits [] id) 0 sq0, by decide +kernel⟩

theorem wit_NvmeCommands_14b : ∃ (p : Fin 256) (_cid : BitVec 16) (q : BitVec 16) (_target : BitVec 16) (sq : NvSq) (s : State) (u : State),
    Taken s u p.val 0 sq ∧ q ≠ 0 :=
  ⟨1, 9, 1, 31, sq0, nvDev waits [] id, took (nvDev waits [] id) 0 sq0, by decide +kernel⟩

theorem wit_NvmeCommands_15a : ∃ (p : Fin 256) (_cid : BitVec 16) (fid : BitVec 8) (_v : BitVec 32) (sq : NvSq) (s : State) (u : State),
    Taken s u p.val 0 sq ∧ fid.toNat ∉ [1, 2, 7, 8, 11] :=
  ⟨1, 9, 3, 31, sq0, nvDev waits [] id, took (nvDev waits [] id) 0 sq0, by decide +kernel⟩

theorem wit_NvmeCommands_15b : ∃ (p : Fin 256) (_cid : BitVec 16) (fid : BitVec 8) (v : BitVec 32) (sq : NvSq) (s : State) (u : State),
    Taken s u p.val 0 sq ∧ fid = 7 ∧ v.toNat % 65536 ≠ 65535 ∧ v.toNat / 65536 ≠ 65535 :=
  ⟨1, 9, 7, 31, sq0, nvDev waits [] id, took (nvDev waits [] id) 0 sq0, by decide +kernel⟩

theorem wit_NvmeCommands_15c : ∃ (p : Fin 256) (_cid : BitVec 16) (fid : BitVec 8) (_v : BitVec 32) (sq : NvSq) (s : State) (u : State),
    Taken s u p.val 0 sq ∧ fid.toNat ∈ [1, 8, 11] ∧ fid.toNat ∈ [1, 2, 8, 11] :=
  ⟨1, 9, 8, 31, sq0, nvDev waits [] id, took (nvDev waits [] id) 0 sq0, by decide +kernel⟩

theorem wit_NvmeCommands_15d : ∃ (p : Fin 256) (_cid : BitVec 16) (fid : BitVec 8) (v : BitVec 32) (sq : NvSq) (s : State) (u : State),
    Taken s u p.val 0 sq ∧ fid = 2 ∧ v.toNat % 32 ≠ 0 :=
  ⟨1, 9, 2, 31, sq0, nvDev waits [] id, took (nvDev waits [] id) 0 sq0, by decide +kernel⟩

theorem wit_NvmeCommands_16a : ∃ (p : Fin 256) (_cid : BitVec 16) (sq : NvSq) (s : State) (u : State),
    Taken s u p.val 0 sq ∧ (u.nvme p.val).event = false :=
  ⟨1, 9, sq0, nvDev waits [] id, took (nvDev waits [] id) 0 sq0, by decide +kernel⟩

theorem wit_NvmeCommands_17a : ∃ (p : Fin 256) (_cid : BitVec 16) (sq : NvSq) (s : State) (u : State),
    Taken s u p.val 0 sq ∧ (u.nvme p.val).event = true ∧ (u.nvme p.val).aers = [] :=
  ⟨1, 9, sq0, nvDev (fun x => { x with event := true }) [] id, took (nvDev (fun x => { x with event := true }) [] id) 0 sq0, by decide +kernel⟩

theorem wit_NvmeCommands_18a : ∃ (p : Fin 256) (q : BitVec 16) (_cid : BitVec 16) (nsid : BitVec 32) (sq : NvSq) (s : State) (u : State),
    q ≠ 0 ∧ Taken s u p.val q.toNat sq ∧ ((nsid = 0xFFFFFFFF#32 ∨ (nvActive u p.val).contains nsid.toNat = true) ∧ (u.nvme p.val).cmds = []) :=
  ⟨1, 1, 9, 0xFFFFFFFF, sq1, nvDev waits [] id, took (nvDev waits [] id) 1 sq1, by decide +kernel⟩

theorem wit_NvmeCommands_18b : ∃ (p : Fin 256) (q : BitVec 16) (_cid : BitVec 16) (nsid : BitVec 32) (sq : NvSq) (s : State) (u : State),
    q ≠ 0 ∧ Taken s u p.val q.toNat sq ∧ ((nsid = 0xFFFFFFFF#32 ∨ (nvActive u p.val).contains nsid.toNat = true) ∧ (u.nvme p.val).cmds = []) :=
  ⟨1, 1, 9, 1, sq1, nvDev id vol0 online, took (nvDev id vol0 online) 1 sq1, by decide +kernel⟩

theorem wit_NvmeCommands_18c : ∃ (p : Fin 256) (q : BitVec 16) (_cid : BitVec 16) (nsid : BitVec 32) (sq : NvSq) (s : State) (u : State),
    q ≠ 0 ∧ Taken s u p.val q.toNat sq ∧ nsid ≠ 0xFFFFFFFF#32 ∧ (nvActive u p.val).contains nsid.toNat = false :=
  ⟨1, 1, 9, 3, sq1, nvDev waits [] id, took (nvDev waits [] id) 1 sq1, by decide +kernel⟩

theorem wit_NvmeCommands_19a : ∃ (p : Fin 256) (q k : BitVec 16) (data : List Byte) (sq : NvSq) (s u : State), q ≠ 0 ∧ Taken s u p.val q.toNat sq ∧
    data.length = (k.toNat + 1) * 4096 :=
  ⟨1, 1, 0, List.replicate 4096 7, sq1, nvDev id vol0 online, took (nvDev id vol0 online) 1 sq1, by decide, by decide +kernel, List.length_replicate⟩

theorem wit_NvmeCommands_20a : ∃ (p : Fin 256) (q : BitVec 16) (_cid : BitVec 16) (k : BitVec 16) (_nsid : BitVec 32) (_b : Word) (_data : List Byte) (sq : NvSq) (s : State) (u : State),
    q ≠ 0 ∧ Taken s u p.val q.toNat sq ∧ k.toNat + 1 ≤ 512 :=
  ⟨1, 1, 9, 5, 1, 7, [], sq1, nvDev id vol0 online, took (nvDev id vol0 online) 1 sq1, by decide +kernel⟩

theorem wit_NvmeCommands_21a : ∃ (p : Fin 256) (q : BitVec 16) (_cid : BitVec 16) (_k : BitVec 16) (_nsid : BitVec 32) (_b : Word) (_prp : List Word) (sq : NvSq) (s : State) (u : State),
    q ≠ 0 ∧ Taken s u p.val q.toNat sq :=
  ⟨1, 1, 9, 0, 1, 5, [0x8000], sq1, nvDev id vol0 online, took (nvDev id vol0 online) 1 sq1, by decide +kernel⟩

theorem wit_NvmeCommands_21b : ∃ (p : Fin 256) (q : BitVec 16) (_cid : BitVec 16) (_k : BitVec 16) (_nsid : BitVec 32) (_b : Word) (_prp : List Word) (sq : NvSq) (s : State) (u : State),
    q ≠ 0 ∧ Taken s u p.val q.toNat sq :=
  ⟨1, 1, 9, 512, 1, 5, [0x8000], sq1, nvDev id [] online, took (nvDev id [] online) 1 sq1, by decide +kernel⟩

theorem wit_NvmeCommands_22a : ∃ (p : Fin 256) (q : BitVec 16) (_cid : BitVec 16) (_nsid : BitVec 32) (_ad : Bool) (_rs : List (Nat × Nat)) (sq : NvSq) (s : State) (u : State),
    q ≠ 0 ∧ Taken s u p.val q.toNat sq :=
  ⟨1, 1, 9, 1, true, [(5, 1)], sq1, nvDev id vol0 online, took (nvDev id vol0 online) 1 sq1, by decide +kernel⟩

theorem wit_NvmeCommands_23a : ∃ (_p : Nat) (_q : Nat) (_cid : Nat) (n : Nat) (_kind : VKind) (_rs : List (Nat × Nat)) (_prp : List Word) (_data : List Byte) (_s : State),
    n = 0 :=
  ⟨1, 1, 9, 0, .read, [(5, 1)], [0x8000], [], nvDev id vol0 online, by decide +kernel⟩

theorem wit_NvmeCommands_23b : ∃ (p : Nat) (_q : Nat) (_cid : Nat) (n : Nat) (_kind : VKind) (rs : List (Nat × Nat)) (_prp : List Word) (_data : List Byte) (s : State),
    volEn s (n - 1) = true ∧ volPeck s (n - 1) = p ∧ (∃ r ∈ rs, volBlocks s (n - 1) < r.1 + r.2) :=
  ⟨1, 1, 9, 1, .read, [(400, 1)], [0x8000], [], nvDev id vol0 online, by decide +kernel⟩

theorem wit_NvmeCommands_24a : ∃ (p : Nat) (_q : Nat) (_cid : Nat) (n : Nat) (b : Nat) (k : Nat) (_kind : VKind) (_prp : List Word) (_data : List Byte) (s : State),
    1 ≤ n ∧ n ≤ 1024 ∧ volEn s (n - 1) = true ∧ volPeck s (n - 1) = p ∧ 1 ≤ k ∧ k ≤ 16 ∧ b + k ≤ volBlocks s (n - 1) :=
  ⟨1, 1, 9, 1, 399, 1, .read, [0x8000], [], nvDev id vol0 online, by decide +kernel⟩

theorem wit_NvmeCommands_25a : ∃ (p : Fin 256) (q : BitVec 16) (_cid : BitVec 16) (_field : Bool) (sq : NvSq) (s : State) (u : State),
    Taken s u p.val q.toNat sq :=
  ⟨1, 1, 9, true, sq1, nvDev id vol0 online, took (nvDev id vol0 online) 1 sq1, by decide +kernel⟩

theorem wit_NvmeCommands_25b : ∃ (p : Fin 256) (q : BitVec 16) (_cid : BitVec 16) (_field : Bool) (sq : NvSq) (s : State) (u : State),
    Taken s u p.val q.toNat sq :=
  ⟨1, 0, 9, false, sq0, nvDev id vol0 online, took (nvDev id vol0 online) 0 sq0, by decide +kernel⟩

theorem wit_NvmeCommands_26a : ∃ (p : Nat) (q : Nat) (_cid : Nat) (_dw0 : Nat) (_st : NvSt) (sq : NvSq) (cq : NvCq) (s : State),
    (s.nvme p).sq q = some sq ∧ (s.nvme p).cq sq.cq = some cq ∧ cq.ien = false ∧ cq.held = [] ∧ cq.tail - cq.head + 1 < cq.size :=
  ⟨1, 1, 9, 5, (0, 2), sq1, ⟨0x4000, 8, 0, false, 0, 0, []⟩, nvDev id vol0 online, by decide +kernel⟩

def fullCq (x : Nvme) : Nvme := { x with cqs := [(1, ⟨0x4000, 8, 0, false, 7, 0, []⟩)] }

theorem wit_NvmeCommands_27a : ∃ (p : Nat) (q : Nat) (_cid : Nat) (_dw0 : Nat) (_st : NvSt) (sq : NvSq) (cq : NvCq) (s : State),
    (s.nvme p).sq q = some sq ∧ (s.nvme p).cq sq.cq = some cq ∧ cq.size ≤ cq.tail - cq.head + 1 :=
  ⟨1, 1, 9, 5, (0, 2), sq1, ⟨0x4000, 8, 0, false, 7, 0, []⟩, nvDev fullCq vol0 online, by decide +kernel⟩

theorem wit_NvmeCommands_28a : ∃ (f : Fin 512) (p : Nat) (q : Nat) (h : Nat) (cq : NvCq) (s : State),
    256 ≤ f.val ∧ nvOfFn s f.val = some p ∧ (s.nvme p).cq q = some cq ∧ cq.held = [] ∧ cq.head = 0 ∧ h ≤ cq.tail ∧ h < cq.size ∧ h < 65536 ∧ nvReady s p = true :=
  ⟨258, 1, 1, 3, ⟨0x4000, 8, 0, false, 7, 0, []⟩, nvDev fullCq vol0 online, by decide +kernel⟩


end Sys2Proof.Tests
end

section
/-!
The clause of `Obligations.IntegrityAndRegisters` about D2D_LINK_DOWN is false of a state that holds work on memory the device does not have. The clause
takes every state. Its fence of the whole device (R20, R526) hands over what waits, and a part of a word that arrives for a copy reads the word first
(R52): a latent error of the word is counted in its unit register (R433). Behind the last Pool, in the place of a 513th one, that unit register is the
register of die-to-die link 0, so the count brings STATE of the link, just cleared, to 1.
-/

namespace Sys2Proof.Proofs

open Sys2Proof.Machine Sys2Proof.Spec

/-- The address 512 Pools behind the first: `addrExists` is false of it, and `unitOf` counts its errors at `rIntgPool 512`, which is `rLink 0`. -/
def strayAddr : Nat := poolBase + 512 * 0x200000

/-- A copy whose source is still being read, into one word at `strayAddr`. -/
def strayCopy : Copy :=
  { id := 0, slot := 0, seq := 0, ordered := false, op := .copy, imp := Tag.nil, sig := false, sealed := false, sem := 0, ordgrp := 0
    src := none, srcOff := 0, dst := { Loc.none with base := BitVec.ofNat 64 strayAddr, len := 8 }, dstOff := 0, len := 1, rows := 1, sigval := 0
    sstride := 0, dstride := 0, phase := .moving, open_ := 1, todo := [], buf := [], reading := true, status := stOk, fault := 0
    wordAt := none, parts := [], moved := 0, wr := 0 }

/-- A READY device with die-to-die link 0 UP, no power cycle requested, `strayCopy` in queue 0 of engine 0, one byte for it on its way, and a flipped
parity bit in the word that the byte goes to. -/
def strayDevice : State :=
  { State.reset with
    phase := 2
    regs := [(rLink 0, 2)]
    engines := [(0, { Engine.reset with queues := [(0, [strayCopy])] })]
    latent := [(strayAddr / 8, { ErrPat.none with row := 1 })]
    arrivals := [(.copy 0 0 0, 0, [1])] }

theorem exec_d2dLinkDown_strayDevice : exec (.d2dLinkDown 0) strayDevice = .next (d2dDown strayDevice 0) := by
  have hup : bitsOf (strayDevice.reg (rLink 0)) 0 2 ≠ 0 := by decide
  show execD2dLinkDown 0 strayDevice = _
  exact congrArg Host.Outcome.next (if_neg hup)

/-- The fence counts the corrected word in the register of the link. -/
theorem d2dDown_strayDevice_link : (d2dDown strayDevice 0).reg (rLink 0) = 1 := by decide +kernel

/-- Refutes O58: after D2D_LINK_DOWN of link 0 on `strayDevice`, STATE of the link reads 1 and not 0 (DOWN). The clause has no
hypothesis that keeps the latent errors of the state within the address space of R27. -/
theorem not_integrityAndRegisters : ¬ Obligations.IntegrityAndRegisters := by
  unfold Obligations.IntegrityAndRegisters
  rintro ⟨-, -, -, -, -, -, -, -, -, -, -, -, -, hdown, -⟩
  have hup : fld (strayDevice.reg (rLink 0)) 0 2 ≠ 0 := by decide
  have hpower : fld (strayDevice.reg rRcvPcreq) 0 1 = 0 := by decide
  obtain ⟨t, ht, hstate, -⟩ := hdown 0 strayDevice hup hpower
  obtain rfl : d2dDown strayDevice 0 = t := Host.Outcome.next.inj (exec_d2dLinkDown_strayDevice.symm.trans ht)
  rw [show ((0 : Fin 17).val) = 0 from rfl, d2dDown_strayDevice_link] at hstate
  exact absurd hstate (by decide)

end Sys2Proof.Proofs
end

section
/-!
The NVMe controllers of PF1 (R418 to R421): rules of the controller table and of a command that a controller takes, one fact for each command, and
the proof of `Obligations.NvmeCommands`.
-/

open Sys2Proof.Spec

namespace Sys2Proof.Machine

/-! ## A key of a table that is written twice -/

section Tables

variable {α : Type}

theorem tblErase_of_no_key (t : List (Nat × α)) (k : Nat) (h : ∀ e ∈ t, e.1 ≠ k) : tblErase t k = t := by
  induction t with
  | nil => rfl
  | cons e t ih =>
    obtain ⟨i, v⟩ := e
    have hi : i ≠ k := h _ (List.mem_cons_self ..)
    simp only [tblErase, hi, if_false, ih fun e he => h e (List.mem_cons_of_mem _ he)]

theorem tblErase_tblInsert (t : List (Nat × α)) (k : Nat) (v : α) : tblErase (tblInsert t k v) k = tblErase t k := by
  induction t with
  | nil => simp [tblInsert, tblErase]
  | cons e t ih =>
    obtain ⟨i, w⟩ := e
    by_cases h : k < i
    · simp [tblInsert, tblErase, h]
    · simp only [tblInsert, h, if_false, tblErase, ih]

/-- The later of two writes of a key stands. -/
theorem tblSet_tblSet [DecidableEq α] (d : α) (t : List (Nat × α)) (k : Nat) (v w : α) :
    tblSet d (tblSet d t k v) k w = tblSet d t k w := by
  have h : tblErase (tblSet d t k v) k = tblErase t k := by
    unfold tblSet
    split
    · exact tblErase_of_no_key _ _ (tblErase_no_key t k)
    · rw [tblErase_tblInsert, tblErase_of_no_key _ _ (tblErase_no_key t k)]
  rw [tblSet.eq_def d (tblSet d t k v), h, tblSet]

theorem find?_tblInsert (t : List (Nat × α)) (k : Nat) (v : α) (h : ∀ e ∈ t, e.1 ≠ k) :
    (tblInsert t k v).find? (fun e => e.1 == k) = some (k, v) := by
  induction t with
  | nil => simp [tblInsert]
  | cons e t ih =>
    obtain ⟨i, w⟩ := e
    have hi : i ≠ k := h _ (List.mem_cons_self ..)
    by_cases hlt : k < i
    · simp [tblInsert, hlt]
    · simp only [tblInsert, hlt, if_false, List.find?_cons, beq_eq_false_iff_ne.mpr hi]
      exact ih fun e he => h e (List.mem_cons_of_mem _ he)

end Tables

/-! ## The controller table -/

@[simp] theorem State.nvme_setNvme (s : State) (p : Nat) (x : Nvme) : (s.setNvme p x).nvme p = x := tblGet_set_self _ _ _ _

@[simp] theorem State.setNvme_setNvme (s : State) (p : Nat) (x y : Nvme) : (s.setNvme p x).setNvme p y = s.setNvme p y := by
  simp only [State.setNvme, tblSet_tblSet]

@[simp] theorem Nvme.cq_setCq (x : Nvme) (q : Nat) (y : NvCq) : (x.setCq q y).cq q = some y := by
  simp [Nvme.cq, Nvme.setCq, find?_tblInsert _ q y (tblErase_no_key x.cqs q)]

/-- Whether a controller is ready depends on the table by its EN alone. -/
theorem nvReady_setNvme (s : State) (p : Nat) (x : Nvme) (h : x.en = (s.nvme p).en) : nvReady (s.setNvme p x) p = nvReady s p := by
  unfold nvReady
  rw [State.nvme_setNvme, h]
  rfl

/-! ## A command that a controller takes -/

theorem nvReady_of_taken {s u : State} {p q : Nat} {sq : NvSq} (h : Taken s u p q sq) : nvReady u p = true := by
  obtain ⟨hr, -, rfl⟩ := h
  rw [nvReady_setNvme s p _ (by rfl), hr]

theorem nvTake_of_taken {s u : State} {p q : Nat} {sq : NvSq} {admin : Bool} (k : State → State) (h : Taken s u p q sq)
    (ha : q = 0 ↔ admin = true) : nvTake s p q admin k = k u := by
  obtain ⟨hr, hq, rfl⟩ := h
  unfold nvTake
  rw [if_neg (by simp [hr, ha]), hq]

/-- A taken admin command completes on the admin queue with what its body answers. -/
theorem nvAdmin_of_taken {s u : State} {p cid : Nat} {sq : NvSq} (k : State → Nat × NvSt × State) (h : Taken s u p 0 sq) :
    nvAdmin s p cid k = nvDone (k u).2.2 p 0 cid (k u).1 (k u).2.1 :=
  nvTake_of_taken _ h (by simp)

/-- A taken I/O command runs its body. -/
theorem nvTake_io {s u : State} {p : Nat} {q : BitVec 16} {sq : NvSq} (k : State → State) (hq : q ≠ 0) (h : Taken s u p q.toNat sq) :
    nvTake s p q.toNat false k = k u :=
  nvTake_of_taken k h (by simpa using fun e => hq (BitVec.eq_of_toNat_eq e))

/-- The guard of a command that names a queue: the queue is an I/O queue, and it exists. -/
theorem not_noQueue {α : Type} {q : BitVec 16} {o : Option α} (hq : q ≠ 0) (ho : o.isSome = true) : ¬(q = 0 ∨ o.isNone = true) := by
  rintro (h | h)
  · exact hq h
  · rw [Option.isNone_iff_eq_none.mp h] at ho
    cases ho

theorem within_iff {lo hi n : Nat} : within lo hi n = true ↔ lo ≤ n ∧ n ≤ hi := by simp [within]

theorem nvSizeOk_iff {n : Nat} : nvSizeOk n = true ↔ 2 ≤ n ∧ n ≤ 4096 := within_iff

/-- The identifiers of I/O queues are 1 to 16 (R418). -/
theorem not_ioQueueId_iff {q : BitVec 16} : (!within 1 16 q.toNat) = true ↔ q = 0 ∨ 16 < q.toNat := by
  have h0 : q = 0 ↔ q.toNat = 0 := ⟨fun h => by simp [h], fun h => BitVec.eq_of_toNat_eq h⟩
  simp only [Bool.not_eq_true', Bool.eq_false_iff, ne_eq, within_iff, h0]
  omega

/-! ## Enable, reset and fence (R418, R421) -/

theorem settleOut_of_none {s : State} (ha : s.arrivals = []) (ho : s.outcomes = []) : settleOut s = s := by
  simp [settleOut, settleLoop, ha, ho]

theorem tblGet_default_or_entry {α : Type} (d : α) (t : List (Nat × α)) (k : Nat) : tblGet d t k = d ∨ ∃ e ∈ t, e.2 = tblGet d t k := by
  induction t with
  | nil => exact .inl rfl
  | cons e t ih =>
    obtain ⟨i, v⟩ := e
    by_cases h : i = k
    · exact .inr ⟨(i, v), List.mem_cons_self .., by simp [tblGet, h]⟩
    · simp only [tblGet, h, if_false]
      exact ih.imp_right fun ⟨e, he, hv⟩ => ⟨e, List.mem_cons_of_mem _ he, hv⟩

theorem headTests_of_empty {s : State} (h : ∀ e ∈ s.ports, e.2.qs = []) (p : Nat) : headTests s p = s := by
  have hq : (s.port p).qs = [] := by
    obtain hd | ⟨e, he, hv⟩ := tblGet_default_or_entry Port.reset s.ports p
    · rw [State.port, hd]; rfl
    · rw [State.port, ← hv]; exact h e he
  simp [headTests, hq]

theorem testHeads_of_empty {s : State} (h : ∀ e ∈ s.ports, e.2.qs = []) : testHeads s = s := by
  unfold testHeads
  generalize s.ports = l
  induction l with
  | nil => rfl
  | cons e l ih => rw [List.foldl_cons, headTests_of_empty h, ih]

/-- Where nothing waits, nothing is handed over. -/
theorem settleAll_of_quiet {s : State} (h : Quiet s) : settleAll s = s := by
  obtain ⟨ha, ho, hp⟩ := h
  rw [settleAll, settleOut_of_none ha ho, testHeads_of_empty hp, settleOut_of_none ha ho]

/-- A reset of a controller, where nothing waits, clears its entry and no more. -/
theorem nvReset_of_quiet {s : State} (p : Nat) (h : Quiet s) (hv : s.vreqs = []) :
    settleAll (nvReset s p) = { s with nvmes := tblErase s.nvmes p } := by
  obtain ⟨ha, ho, hp⟩ := h
  have he : nvReset s p = { s with nvmes := tblErase s.nvmes p } := by
    simp only [nvReset, dropVreqs, hv, ha, ho, List.filterMap_nil, List.filter_nil]
  rw [he]
  exact settleAll_of_quiet ⟨ha, ho, hp⟩

theorem nvmeControllerEnable_answers (p : Fin 256) (a c : Word) (m n : Nat) (s : State) (hs : Ready s) (he : nvExists s p.val = true)
    (hn : (s.nvme p.val).en = false) :
    ((s.peck p.val).state = .disabled → exec (.nvmeControllerEnable p a c m n) s = .next (s.setNvme p.val { s.nvme p.val with cfs := true })) ∧
    ((s.peck p.val).state ≠ .disabled → 2 ≤ m → m ≤ 4096 → 2 ≤ n → n ≤ 4096 →
      exec (.nvmeControllerEnable p a c m n) s =
        .next (s.setNvme p.val (({ Nvme.reset with en := true }.setSq 0 ⟨a, m, 0, 0⟩).setCq 0 ⟨c, n, 0, true, 0, 0, []⟩))) := by
  have hg : ¬(nvExists s p.val = false ∨ (s.nvme p.val).en = true ∨ s.phase ≠ 2) := by simp [he, hn, hs]
  rw [show exec (.nvmeControllerEnable p a c m n) s = execNvmeControllerEnable p a c m n s from rfl, execNvmeControllerEnable, if_neg hg]
  constructor
  · intro hd
    rw [if_pos hd]
  · intro hd hm hm' hn hn'
    rw [if_neg hd, if_neg (by simp [nvSizeOk_iff.mpr ⟨hm, hm'⟩, nvSizeOk_iff.mpr ⟨hn, hn'⟩])]

theorem nvmeControllerEnable_ignored (p : Fin 256) (a c : Word) (m n : Nat) (s : State)
    (h : nvExists s p.val = false ∨ (s.nvme p.val).en = true ∨ s.phase ≠ 2) : exec (.nvmeControllerEnable p a c m n) s = .next s := by
  show execNvmeControllerEnable p a c m n s = _
  rw [execNvmeControllerEnable, if_pos h]

theorem nvmeControllerReset_absent (p : Fin 256) (s : State) (h : nvExists s p.val = false) : exec (.nvmeControllerReset p) s = .next s := by
  show execNvmeControllerReset p s = _
  rw [execNvmeControllerReset, if_neg (by simp [h])]

theorem pf1Fence_absent (p : Fin 256) (flr : Bool) (s : State) (h : nvExists s p.val = false) : exec (.pf1Fence p flr) s = .next s := by
  show execPf1Fence p flr s = _
  rw [execPf1Fence, if_pos h]

theorem nvmeControllerReset_clears (p : Fin 256) (s : State) (h : nvExists s p.val = true) (hq : Quiet s) (hv : s.vreqs = []) :
    exec (.nvmeControllerReset p) s = .next { s with nvmes := tblErase s.nvmes p.val } := by
  show execNvmeControllerReset p s = _
  rw [execNvmeControllerReset, if_pos h, nvReset_of_quiet p.val hq hv]

theorem pf1Fence_clears (p : Fin 256) (flr : Bool) (s : State) (h : nvExists s p.val = true) (hq : Quiet s) (hv : s.vreqs = []) :
    exec (.pf1Fence p flr) s = .next ({ s with nvmes := tblErase s.nvmes p.val }.setFn (nvFn s p.val)
      (if flr then { Fn.reset with enabled := (s.fn (nvFn s p.val)).enabled } else { s.fn (nvFn s p.val) with bme := false })) := by
  show execPf1Fence p flr s = _
  rw [execPf1Fence, if_neg (by simp [h]), nvReset_of_quiet p.val hq hv]
  rfl

/-! ## Commands and events that a controller holds -/

theorem nvDropQueue_of_none {s : State} {p : Nat} (q : Nat) (h : (s.nvme p).cmds = []) : nvDropQueue s p q = s := by simp [nvDropQueue, h]
theorem nvFlush_of_none {s : State} {p : Nat} (h : (s.nvme p).cmds = []) : nvFlush s p = s := by simp [nvFlush, h]

/-- A Flush that no earlier write of the controller holds back completes at once. -/
theorem nvFlush_nvAdd {s : State} {p : Nat} (q cid : Nat) (h : (s.nvme p).cmds = []) :
    nvFlush (nvAdd s p q cid false true [] 0) p = nvDone (s.setNvme p { s.nvme p with next := (s.nvme p).next + 1 }) p q cid 0 nvOk := by
  simp [nvFlush, nvAdd, h]

theorem nvAen_of_no_event {s : State} {p : Nat} (h : (s.nvme p).event = false) : nvAen s p = s := by
  unfold nvAen
  dsimp only
  split
  · simp [h]
  · rfl

/-- A pending event is reported to the oldest request that a ready controller holds. -/
theorem nvAen_reports {s : State} {p cid : Nat} {rest : List Nat} (ha : (s.nvme p).aers = cid :: rest) (he : (s.nvme p).event = true)
    (hr : nvReady s p = true) :
    nvAen s p = nvDone (s.setNvme p { s.nvme p with event := false, aers := rest }) p 0 cid (2 + 4 * 65536) nvOk := by
  unfold nvAen
  dsimp only
  rw [ha, he, hr]
  rfl

/-! ## The admin set (R419) -/

section Admin

variable {p : Fin 256} {cid q : BitVec 16} {sq : NvSq} {s u : State}

theorem nvmeCreateIoCq_answers (vec : BitVec 16) (size : Nat) (base : Word) (contig ien : Bool) (h : Taken s u p.val 0 sq) :
    (p.val = 0 ∨ q = 0 ∨ 16 < q.toNat ∨ ((u.nvme p.val).cq q.toNat).isSome = true →
      exec (.nvmeCreateIoCq p cid q size base contig ien vec) s = .next (nvDone u p.val 0 cid.toNat 0 (1, 1))) ∧
    (p.val ≠ 0 → 1 ≤ q.toNat → q.toNat ≤ 16 → (u.nvme p.val).cq q.toNat = none → 2 ≤ size → size ≤ 4096 → contig = true → vec.toNat < 17 →
      exec (.nvmeCreateIoCq p cid q size base contig ien vec) s = .next (
        nvDone (u.setNvme p.val ((u.nvme p.val).setCq q.toNat ⟨base, size, vec.toNat, ien, 0, 0, []⟩)) p.val 0 cid.toNat 0 (0, 0))) := by
  rw [show exec (.nvmeCreateIoCq p cid q size base contig ien vec) s = execNvmeCreateIoCq p cid q size base contig ien vec s from rfl,
    execNvmeCreateIoCq, nvAdmin_of_taken _ h]
  dsimp only
  constructor
  · intro hc
    rw [← or_assoc (a := q = 0), ← not_ioQueueId_iff] at hc
    rw [if_pos hc]
    rfl
  · intro hp hq hq' hn hs hs' hcontig hv
    rw [if_neg (by simp [hp, within_iff.mpr ⟨hq, hq'⟩, hn]), if_neg (by simp [nvSizeOk_iff.mpr ⟨hs, hs'⟩]), if_neg (by simp [hcontig]),
      if_neg (by omega)]
    rfl

theorem nvmeCreateIoSq_answers (cq : BitVec 16) (size : Nat) (base : Word) (contig : Bool) (h : Taken s u p.val 0 sq) :
    (p.val = 0 ∨ q = 0 ∨ 16 < q.toNat ∨ ((u.nvme p.val).sq q.toNat).isSome = true →
      exec (.nvmeCreateIoSq p cid q size base contig cq) s = .next (nvDone u p.val 0 cid.toNat 0 (1, 1))) ∧
    (p.val ≠ 0 → 1 ≤ q.toNat → q.toNat ≤ 16 → (u.nvme p.val).sq q.toNat = none → 2 ≤ size → size ≤ 4096 →
      (cq = 0 ∨ (u.nvme p.val).cq cq.toNat = none →
        exec (.nvmeCreateIoSq p cid q size base contig cq) s = .next (nvDone u p.val 0 cid.toNat 0 (1, 0))) ∧
      (cq ≠ 0 → ((u.nvme p.val).cq cq.toNat).isSome = true → contig = true →
        exec (.nvmeCreateIoSq p cid q size base contig cq) s = .next (
          nvDone (u.setNvme p.val ((u.nvme p.val).setSq q.toNat ⟨base, size, cq.toNat, 0⟩)) p.val 0 cid.toNat 0 (0, 0)))) := by
  rw [show exec (.nvmeCreateIoSq p cid q size base contig cq) s = execNvmeCreateIoSq p cid q size base contig cq s from rfl,
    execNvmeCreateIoSq, nvAdmin_of_taken _ h]
  dsimp only
  constructor
  · intro hc
    rw [← or_assoc (a := q = 0), ← not_ioQueueId_iff] at hc
    rw [if_pos hc]
    rfl
  · intro hp hq hq' hn hs hs'
    rw [if_neg (by simp [hp, within_iff.mpr ⟨hq, hq'⟩, hn]), if_neg (by simp [nvSizeOk_iff.mpr ⟨hs, hs'⟩])]
    constructor
    · intro hc
      rw [if_pos (by simpa using hc)]
      rfl
    · intro hc hsome hcontig
      rw [if_neg (not_noQueue hc hsome), if_neg (by simp [hcontig])]
      rfl

theorem nvmeDeleteIoSq_answers (h : Taken s u p.val 0 sq) :
    (q = 0 ∨ (u.nvme p.val).sq q.toNat = none → exec (.nvmeDeleteIoSq p cid q) s = .next (nvDone u p.val 0 cid.toNat 0 (1, 1))) ∧
    (q ≠ 0 → ((u.nvme p.val).sq q.toNat).isSome = true → (u.nvme p.val).cmds = [] → exec (.nvmeDeleteIoSq p cid q) s = .next (
      nvDone (u.setNvme p.val { u.nvme p.val with sqs := tblErase (u.nvme p.val).sqs q.toNat }) p.val 0 cid.toNat 0 (0, 0))) := by
  rw [show exec (.nvmeDeleteIoSq p cid q) s = execNvmeDeleteIoSq p cid q s from rfl, execNvmeDeleteIoSq, nvAdmin_of_taken _ h]
  constructor
  · intro hc
    rw [if_pos (by simpa using hc)]
    rfl
  · intro hq hsome hcmds
    rw [if_neg (not_noQueue hq hsome), nvDropQueue_of_none _ hcmds, nvFlush_of_none hcmds]
    rfl

theorem nvmeDeleteIoCq_answers (h : Taken s u p.val 0 sq) :
    (q = 0 ∨ (u.nvme p.val).cq q.toNat = none → exec (.nvmeDeleteIoCq p cid q) s = .next (nvDone u p.val 0 cid.toNat 0 (1, 1))) ∧
    (q ≠ 0 → ((u.nvme p.val).cq q.toNat).isSome = true → (∃ e ∈ (u.nvme p.val).sqs, e.2.cq = q.toNat) →
      exec (.nvmeDeleteIoCq p cid q) s = .next (nvDone u p.val 0 cid.toNat 0 (1, 0x0C))) ∧
    (q ≠ 0 → ((u.nvme p.val).cq q.toNat).isSome = true → (∀ e ∈ (u.nvme p.val).sqs, e.2.cq ≠ q.toNat) →
      exec (.nvmeDeleteIoCq p cid q) s = .next (
        nvDone (u.setNvme p.val { u.nvme p.val with cqs := tblErase (u.nvme p.val).cqs q.toNat }) p.val 0 cid.toNat 0 (0, 0))) := by
  rw [show exec (.nvmeDeleteIoCq p cid q) s = execNvmeDeleteIoCq p cid q s from rfl, execNvmeDeleteIoCq, nvAdmin_of_taken _ h]
  dsimp only
  refine ⟨fun hc => ?_, fun hq hsome hused => ?_, fun hq hsome hfree => ?_⟩
  · rw [if_pos (by simpa using hc)]
    rfl
  · rw [if_neg (not_noQueue hq hsome), if_pos (by simpa using hused)]
    rfl
  · rw [if_neg (not_noQueue hq hsome), if_neg (by simpa using hfree)]
    rfl

theorem nvmeIdentify_answers (cns : BitVec 8) (nsid : BitVec 32) (prp : List Word) {st : NvSt} {bs : List Byte} (h : Taken s u p.val 0 sq)
    (hi : nvIdentify u p.val cns.toNat nsid.toNat = (st, bs)) :
    exec (.nvmeIdentify p cid cns nsid prp) s =
      .next (nvDone (if st = (0, 0) then nvWrite u p.val prp 0 bs else u) p.val 0 cid.toNat 0 st) := by
  show execNvmeIdentify p cid cns nsid prp s = _
  rw [execNvmeIdentify, nvAdmin_of_taken _ h, hi]
  rfl

theorem nvmeGetLogPage_changed (dw off : Nat) (retain : Bool) (prp : List Word) (h : Taken s u p.val 0 sq) :
    let v := nvWrite u p.val prp 0 (((nvList (u.nvme p.val).changed).drop off).take (min (dw * 4) (512 * 4096)))
    exec (.nvmeGetLogPage p cid 4 dw off retain prp) s = .next (
      nvDone (if retain then v else v.setNvme p.val { u.nvme p.val with changed := [] }) p.val 0 cid.toNat 0 (0, 0)) := by
  show execNvmeGetLogPage p cid 4 dw off retain prp s = _
  rw [execNvmeGetLogPage, nvAdmin_of_taken _ h]
  rfl

theorem nvmeGetLogPage_other (lid : BitVec 8) (dw off : Nat) (retain : Bool) (prp : List Word) (h : Taken s u p.val 0 sq) (h1 : lid ≠ 1)
    (h2 : lid ≠ 2) (h4 : lid ≠ 4) : exec (.nvmeGetLogPage p cid lid dw off retain prp) s = .next (nvDone u p.val 0 cid.toNat 0 (0, 2)) := by
  have hne : ∀ k : BitVec 8, lid ≠ k → lid.toNat ≠ k.toNat := fun k hk he => hk (BitVec.eq_of_toNat_eq he)
  show execNvmeGetLogPage p cid lid dw off retain prp s = _
  rw [execNvmeGetLogPage, nvAdmin_of_taken _ h]
  dsimp only
  split
  · exact absurd ‹_› (hne 1 h1)
  · exact absurd ‹_› (hne 2 h2)
  · exact absurd ‹_› (hne 4 h4)
  · rfl

theorem nvmeAbort_answers (target : BitVec 16) (h : Taken s u p.val 0 sq) :
    (q ≠ 0 ∨ (u.nvme p.val).aers.contains target.toNat = false →
      exec (.nvmeAbort p cid q target) s = .next (nvDone u p.val 0 cid.toNat 1 (0, 0))) ∧
    (q = 0 → (u.nvme p.val).aers.contains target.toNat = true → exec (.nvmeAbort p cid q target) s = .next (
      nvDone (nvDone (u.setNvme p.val { u.nvme p.val with aers := (u.nvme p.val).aers.erase target.toNat }) p.val 0 target.toNat 0 (0, 7))
        p.val 0 cid.toNat 0 (0, 0))) := by
  rw [show exec (.nvmeAbort p cid q target) s = execNvmeAbort p cid q target s from rfl, execNvmeAbort, nvAdmin_of_taken _ h]
  dsimp only
  constructor
  · intro hc
    rw [if_neg fun ⟨hq, ha⟩ => hc.elim (· hq) fun hn => Bool.false_ne_true (hn.symm.trans ha)]
    rfl
  · intro hq ha
    rw [if_pos ⟨hq, ha⟩]
    rfl

theorem nvmeSetFeatures_refused (fid : BitVec 8) (v : BitVec 32) (h : Taken s u p.val 0 sq)
    (hc : fid.toNat ∉ [1, 2, 7, 8, 11] ∨ (fid = 2 ∧ v.toNat % 32 ≠ 0)) :
    exec (.nvmeSetFeatures p cid fid v) s = .next (nvDone u p.val 0 cid.toNat 0 (0, 2)) := by
  show execNvmeSetFeatures p cid fid v s = _
  rw [execNvmeSetFeatures, nvAdmin_of_taken _ h]
  dsimp only
  rw [if_pos (by simpa [nvFeature] using hc)]
  rfl

/-- Number of Queues is out of sequence once an I/O queue exists. -/
theorem nvmeSetFeatures_queues (v : BitVec 32) (h : Taken s u p.val 0 sq) (hs : v.toNat % 65536 ≠ 65535) (hc : v.toNat / 65536 ≠ 65535) :
    exec (.nvmeSetFeatures p cid 7 v) s = .next (
      if (u.nvme p.val).sqs.any (fun e => e.1 != 0) = true ∨ (u.nvme p.val).cqs.any (fun e => e.1 != 0) = true then
        nvDone u p.val 0 cid.toNat 0 (0, 0x0C)
      else nvDone u p.val 0 cid.toNat 0xF000F (0, 0)) := by
  show execNvmeSetFeatures p cid 7 v s = _
  rw [execNvmeSetFeatures, nvAdmin_of_taken _ h]
  dsimp only
  rw [if_neg (by simp [nvFeature]), if_pos rfl, if_neg (by simp [hs, hc])]
  split <;> rfl

theorem nvmeSetFeatures_stored (fid : BitVec 8) (v : BitVec 32) (h : Taken s u p.val 0 sq) (hf : fid.toNat ∈ [1, 8, 11]) :
    exec (.nvmeSetFeatures p cid fid v) s = .next (
      nvDone (u.setNvme p.val { u.nvme p.val with feats := tblSet 0 (u.nvme p.val).feats fid.toNat v.toNat }) p.val 0 cid.toNat 0 (0, 0)) := by
  have h2 : fid ≠ 2 := by rintro rfl; simp at hf
  have h7 : fid ≠ 7 := by rintro rfl; simp at hf
  have hn : nvFeature fid.toNat = true := by simp [nvFeature] at hf ⊢; omega
  show execNvmeSetFeatures p cid fid v s = _
  rw [execNvmeSetFeatures, nvAdmin_of_taken _ h]
  dsimp only
  rw [if_neg (by rw [hn]; simpa using fun h => absurd h h2), if_neg h7]
  rfl

theorem nvmeGetFeatures_queues (h : Taken s u p.val 0 sq) :
    exec (.nvmeGetFeatures p cid 7) s = .next (nvDone u p.val 0 cid.toNat 0xF000F (0, 0)) := by
  show execNvmeGetFeatures p cid 7 s = _
  rw [execNvmeGetFeatures, nvAdmin_of_taken _ h]
  rfl

theorem nvmeGetFeatures_stored (fid : BitVec 8) (h : Taken s u p.val 0 sq) (hf : fid.toNat ∈ [1, 2, 8, 11]) :
    exec (.nvmeGetFeatures p cid fid) s = .next (nvDone u p.val 0 cid.toNat (tblGet 0 (u.nvme p.val).feats fid.toNat) (0, 0)) := by
  have h7 : fid ≠ 7 := by rintro rfl; simp at hf
  have hn : nvFeature fid.toNat = true := by simp [nvFeature] at hf ⊢; omega
  show execNvmeGetFeatures p cid fid s = _
  rw [execNvmeGetFeatures, nvAdmin_of_taken _ h, if_neg (by simp [hn])]
  dsimp only
  rw [if_neg h7]
  rfl

theorem nvmeAsyncEventRequest_held (h : Taken s u p.val 0 sq) (he : (u.nvme p.val).event = false) :
    exec (.nvmeAsyncEventRequest p cid) s = .next (u.setNvme p.val { u.nvme p.val with aers := (u.nvme p.val).aers ++ [cid.toNat] }) := by
  show execNvmeAsyncEventRequest p cid s = _
  rw [execNvmeAsyncEventRequest, nvTake_of_taken _ h (by simp), nvAen_of_no_event (by simp [he])]

theorem nvmeAsyncEventRequest_reports (h : Taken s u p.val 0 sq) (he : (u.nvme p.val).event = true) (ha : (u.nvme p.val).aers = []) :
    exec (.nvmeAsyncEventRequest p cid) s = .next (
      nvDone (u.setNvme p.val { u.nvme p.val with event := false }) p.val 0 cid.toNat (2 + 4 * 65536) (0, 0)) := by
  have hr : nvReady (u.setNvme p.val { u.nvme p.val with aers := [cid.toNat] }) p.val = true :=
    (nvReady_setNvme u p.val _ (by rfl)).trans (nvReady_of_taken h)
  show execNvmeAsyncEventRequest p cid s = _
  rw [execNvmeAsyncEventRequest, nvTake_of_taken _ h (by simp), ha, List.nil_append, nvAen_reports (cid := cid.toNat) (rest := []) (by simp) (by simpa using he) hr,
    State.nvme_setNvme, State.setNvme_setNvme, ← ha]
  rfl

end Admin

/-! ## What Identify answers (R418, R419) -/

theorem nvIdentify_no_namespace (p n : Nat) (s : State) (h : n = 0 ∨ 1024 < n) : (nvIdentify s p 0 n).1 = (0, 0x0B) := by
  simp only [nvIdentify, gt_iff_lt, if_pos h]
  rfl

theorem nvPage_length (id p n : Nat) (known : List (Nat × List Byte)) : (nvPage id p n known).length = n := by simp [nvPage]

/-- The first field of a page stands at its place. -/
theorem nvPage_take (id p : Nat) {n k : Nat} (bs : List Byte) (rest : List (Nat × List Byte)) (hk : k ≤ bs.length) (hn : k ≤ n) :
    (nvPage id p n ((0, bs) :: rest)).take k = bs.take k := by
  apply List.ext_getElem
  · simp [nvPage_length, hk, hn]
  · intro i h1 h2
    have hi : i < bs.length := by simp at h2; omega
    simp [nvPage, hi]

theorem nvIdentify_active (p n : Nat) (s : State) (h1 : 1 ≤ n) (h2 : n ≤ 1024) (ha : (nvActive s p).contains n = true) :
    (nvIdentify s p 0 n).1 = (0, 0) ∧ (nvIdentify s p 0 n).2.length = 4096 ∧ (nvIdentify s p 0 n).2.take 8 = bytesOf 8 (volBlocks s (n - 1)) := by
  have hr : ¬(n = 0 ∨ n > 1024) := by omega
  simp only [nvIdentify, if_neg hr, ha, Bool.not_true, Bool.false_eq_true, if_false]
  refine ⟨rfl, nvPage_length _ _ _ _, ?_⟩
  rw [nvPage_take _ _ _ _ (by simp [bytesOf_length]) (by omega), List.append_assoc, List.take_left' (bytesOf_length _ _)]

/-! ## The I/O set (R419, R420) -/

section Io

variable {p : Fin 256} {q cid : BitVec 16} {sq : NvSq} {s u : State}

theorem nvmeFlush_answers (nsid : BitVec 32) (hq : q ≠ 0) (h : Taken s u p.val q.toNat sq) :
    (nsid ≠ 0xFFFFFFFF#32 → (nvActive u p.val).contains nsid.toNat = false →
      exec (.nvmeFlush p q cid nsid) s = .next (nvDone u p.val q.toNat cid.toNat 0 (0, 0x0B))) ∧
    (nsid = 0xFFFFFFFF#32 ∨ (nvActive u p.val).contains nsid.toNat = true → (u.nvme p.val).cmds = [] → exec (.nvmeFlush p q cid nsid) s = .next (
      nvDone (u.setNvme p.val { u.nvme p.val with next := (u.nvme p.val).next + 1 }) p.val q.toNat cid.toNat 0 (0, 0))) := by
  rw [show exec (.nvmeFlush p q cid nsid) s = execNvmeFlush p q cid nsid s from rfl, execNvmeFlush, nvTake_io _ hq h]
  constructor
  · intro hn ha
    rw [if_neg (by simp only [hn, ha]; simp)]
    rfl
  · intro hn hc
    rw [if_pos hn, nvFlush_nvAdd _ _ hc]
    rfl

/-- A Write whose data has come, or was refused with a status, runs its body. -/
theorem exec_nvmeWrite (nsid : BitVec 32) (b : Word) (k : BitVec 16) (data : List Byte) (st : BitVec 16) (hq : q ≠ 0)
    (h : Taken s u p.val q.toNat sq) (hd : st = stOk → data.length = (k.toNat + 1) * 4096) :
    exec (.nvmeWrite p q cid nsid b k data st) s = .next (settleAll (
      if 512 < k.toNat + 1 then nvDone u p.val q.toNat cid.toNat 0 (0, 2)
      else if st ≠ stOk then nvDone u p.val q.toNat cid.toNat 0 (nvStatus st true)
      else nvRun u p.val q.toNat cid.toNat nsid.toNat .write [(b.toNat, k.toNat + 1)] [] data)) := by
  show execNvmeWrite p q cid nsid b k data st s = _
  rw [execNvmeWrite, if_neg (fun hc => hc.2 (hd hc.1)), nvTake_io _ hq h]
  rfl

theorem nvmeWrite_runs (k : BitVec 16) (nsid : BitVec 32) (b : Word) (data : List Byte) (hq : q ≠ 0) (h : Taken s u p.val q.toNat sq)
    (hd : data.length = (k.toNat + 1) * 4096) :
    exec (.nvmeWrite p q cid nsid b k data stOk) s = .next (settleAll (
      if 512 < k.toNat + 1 then nvDone u p.val q.toNat cid.toNat 0 (0, 2)
      else nvRun u p.val q.toNat cid.toNat nsid.toNat .write [(b.toNat, k.toNat + 1)] [] data)) := by
  rw [exec_nvmeWrite _ _ _ _ _ hq h fun _ => hd, if_neg (show ¬(stOk ≠ stOk) from fun hc => hc rfl)]

theorem nvmeWrite_refused (k : BitVec 16) (nsid : BitVec 32) (b : Word) (data : List Byte) (hq : q ≠ 0) (h : Taken s u p.val q.toNat sq)
    (hk : k.toNat + 1 ≤ 512) {st : BitVec 16} (hst : st ≠ stOk) :
    exec (.nvmeWrite p q cid nsid b k data st) s = .next (settleAll (nvDone u p.val q.toNat cid.toNat 0 (nvStatus st true))) := by
  rw [exec_nvmeWrite _ _ _ _ _ hq h fun hc => absurd hc hst, if_neg (by omega), if_pos hst]

theorem nvmeRead_runs (k : BitVec 16) (nsid : BitVec 32) (b : Word) (prp : List Word) (hq : q ≠ 0) (h : Taken s u p.val q.toNat sq) :
    exec (.nvmeRead p q cid nsid b k prp) s = .next (settleAll (
      if 512 < k.toNat + 1 then nvDone u p.val q.toNat cid.toNat 0 (0, 2)
      else nvRun u p.val q.toNat cid.toNat nsid.toNat .read [(b.toNat, k.toNat + 1)] prp [])) := by
  show execNvmeRead p q cid nsid b k prp s = _
  rw [execNvmeRead, nvTake_io _ hq h]
  rfl

theorem nvmeWriteZeroes_runs (k : BitVec 16) (nsid : BitVec 32) (b : Word) (hq : q ≠ 0) (h : Taken s u p.val q.toNat sq) :
    exec (.nvmeWriteZeroes p q cid nsid b k) s = .next (settleAll (
      nvRun u p.val q.toNat cid.toNat nsid.toNat .zeroes [(b.toNat, k.toNat + 1)] [] [])) := by
  show execNvmeWriteZeroes p q cid nsid b k s = _
  rw [execNvmeWriteZeroes, nvTake_io _ hq h]

theorem exec_nvmeDatasetManagement (nsid : BitVec 32) (ad : Bool) (rs : List (Nat × Nat)) (st : BitVec 16) (hq : q ≠ 0)
    (h : Taken s u p.val q.toNat sq) :
    exec (.nvmeDatasetManagement p q cid nsid ad rs st) s = .next (settleAll (
      if st ≠ stOk then nvDone u p.val q.toNat cid.toNat 0 (nvStatus st true)
      else if 256 < rs.length then nvDone u p.val q.toNat cid.toNat 0 (0, 2)
      else nvRun u p.val q.toNat cid.toNat nsid.toNat .dealloc (if ad then rs else []) [] [])) := by
  show execNvmeDatasetManagement p q cid nsid ad rs st s = _
  rw [execNvmeDatasetManagement, nvTake_io _ hq h]
  rfl

theorem nvmeInvalidOpcode_answers (field : Bool) (h : Taken s u p.val q.toNat sq) :
    exec (.nvmeInvalidOpcode p q cid field) s = .next (nvDone u p.val q.toNat cid.toNat 0 (if field then (0, 2) else (0, 1))) := by
  have hq : q.toNat = 0 ↔ (q == 0) = true := by
    rw [beq_iff_eq]
    exact ⟨fun e => BitVec.eq_of_toNat_eq e, fun e => by simp [e]⟩
  show execNvmeInvalidOpcode p q cid field s = _
  rw [execNvmeInvalidOpcode, nvTake_of_taken _ h hq]
  rfl

end Io

/-! ## Requests to the volume of a namespace (R418, R420) -/

section Run

variable {p q cid n : Nat} {kind : VKind} {prp : List Word} {data : List Byte} {s : State}

theorem nvRun_no_namespace {rs : List (Nat × Nat)} (h : n = 0 ∨ 1024 < n ∨ volEn s (n - 1) = false ∨ volPeck s (n - 1) ≠ p) :
    nvRun s p q cid n kind rs prp data = nvDone s p q cid 0 (0, 0x0B) := by
  rw [nvRun]
  dsimp only
  rw [if_pos h]
  rfl

theorem nvRun_out_of_range {rs : List (Nat × Nat)} (h1 : 1 ≤ n) (h2 : n ≤ 1024) (he : volEn s (n - 1) = true) (hp : volPeck s (n - 1) = p)
    (hr : ∃ r ∈ rs, volBlocks s (n - 1) < r.1 + r.2) : nvRun s p q cid n kind rs prp data = nvDone s p q cid 0 (0, 0x80) := by
  rw [nvRun]
  dsimp only
  rw [if_neg (by simp [he, hp]; omega), if_pos (by simpa using hr)]
  rfl

/-- A run of 1 to 16 blocks is one request. -/
theorem vreqRun_one (v : Nat) (us : User) {b k : Nat} (off : Nat) (h1 : 1 ≤ k) (h2 : k ≤ 16) :
    (vreqRun kind v us (k + 1) b k data off s).1 = vreqAdd s v kind b k (data.take (k * 4096)) us off false := by
  obtain ⟨j, rfl⟩ : ∃ j, k = j + 1 := ⟨k - 1, by omega⟩
  have hmin : min (j + 1) vreqMax = j + 1 := Nat.min_eq_left h2
  simp [vreqRun, hmin]

theorem nvRun_one {b k : Nat} (h1 : 1 ≤ n) (h2 : n ≤ 1024) (he : volEn s (n - 1) = true) (hp : volPeck s (n - 1) = p) (hk : 1 ≤ k) (hk' : k ≤ 16)
    (hb : b + k ≤ volBlocks s (n - 1)) :
    nvRun s p q cid n kind [(b, k)] prp data =
      vreqAdd (nvAdd s p q cid (kind != .read) false prp 1) (n - 1) kind b k (data.take (k * 4096)) (.nvme p q cid) 0 false := by
  have htotal : npktOf k vreqMax = 1 := by unfold npktOf vreqMax; omega
  rw [nvRun]
  dsimp only
  rw [if_neg (by simp [he, hp]; omega), if_neg (by simpa using hb)]
  simp only [List.foldl_cons, List.foldl_nil, htotal, Nat.zero_add, Nat.one_ne_zero, if_false, List.drop_zero]
  exact vreqRun_one _ _ _ hk hk'

end Run

/-! ## Completion entries and the head doorbell (R2, R418) -/

/-- What the Routing ID of a controller's function depends on: the registers, the buses, and the VF of PF1 of each Peck. -/
structure SameIds (s t : State) : Prop where
  regs : t.regs = s.regs
  pcie : t.pcie = s.pcie
  vf1  : ∀ j, (t.peck j).vf1 = (s.peck j).vf1

theorem sameIds_setPeck (s : State) (p : Nat) (x : Peck) (h : x.vf1 = (s.peck p).vf1) : SameIds s (s.setPeck p x) := by
  refine ⟨rfl, rfl, fun j => ?_⟩
  rw [State.peck_setPeck]
  split
  · subst j; exact h
  · rfl

theorem sameIds_logPage (s : State) (p page : Nat) : SameIds s (s.logPage p page) := by
  unfold State.logPage
  dsimp only
  split
  · exact ⟨rfl, rfl, fun _ => rfl⟩
  · split
    · exact sameIds_setPeck s p _ rfl
    · obtain ⟨hr, hp, hv⟩ := sameIds_setPeck s p { s.peck p with
        logwr := (s.peck p).logwr + 1
        filter := if (s.peck p).filter.length < 65536 then page :: (s.peck p).filter else (s.peck p).filter } rfl
      exact ⟨hr, hp, hv⟩

theorem sameIds_logRange (s : State) (p : Nat) (iova : Word) (len : Nat) : SameIds s (s.logRange p iova len) := by
  unfold State.logRange
  split
  · exact ⟨rfl, rfl, fun _ => rfl⟩
  · generalize List.range _ = l
    suffices ∀ t, SameIds s t → SameIds s (l.foldl (fun s i => s.logPage p (iova.toNat / 4096 + i)) t) from this s ⟨rfl, rfl, fun _ => rfl⟩
    induction l with
    | nil => exact fun t h => h
    | cons i l ih =>
      intro t h
      obtain ⟨hr, hp, hv⟩ := sameIds_logPage t p (iova.toNat / 4096 + i)
      exact ih _ ⟨hr.trans h.regs, hp.trans h.pcie, fun j => (hv j).trans (h.vf1 j)⟩

theorem SameIds.nvFn {s t : State} (h : SameIds s t) (p : Nat) : nvFn t p = nvFn s p := by
  simp only [Machine.nvFn, h.vf1]

theorem SameIds.rid {s t : State} (h : SameIds s t) (f : Nat) : t.rid f = s.rid f := by
  unfold State.rid State.vhOfVf State.reg
  rw [h.regs, h.pcie]

section Completion

variable {p q : Nat} {cq : NvCq} {s : State}

/-- A completion entry takes the slot at its queue's tail, with the phase bit of the pass. -/
theorem nvDone_posts (cid dw0 : Nat) (st : NvSt) {sq : NvSq} (hs : (s.nvme p).sq q = some sq) (hc : (s.nvme p).cq sq.cq = some cq)
    (hi : cq.ien = false) (hh : cq.held = []) (hf : cq.tail - cq.head + 1 < cq.size) :
    let a := cq.base + BitVec.ofNat 64 (cq.tail % cq.size * 16)
    let u := (s.setNvme p ((s.nvme p).setCq sq.cq { cq with tail := cq.tail + 1 })).logRange p a 16
    nvDone s p q cid dw0 st = { u with out := .hostWrite (nvFn u p) (u.rid (nvFn u p)) a (bytesOf 4 dw0 ++ bytesOf 4 0 ++ bytesOf 4 (sq.head + q * 65536) ++
      bytesOf 4 (cid % 65536 + (cq.tail / cq.size + 1) % 2 * 2 ^ 16 + st.2 * 2 ^ 17 + st.1 * 2 ^ 25)) false :: u.out } := by
  intro a u
  have hsize : max 1 cq.size = cq.size := by omega
  have hfull : cq.full = false := by simp [NvCq.full]; omega
  have hids : SameIds (s.setNvme p ((s.nvme p).setCq sq.cq { cq with tail := cq.tail + 1 })) u := sameIds_logRange _ _ _ _
  rw [hids.rid, hids.nvFn]
  simp only [nvDone, hs, hc]
  rw [if_neg (by simp [hfull, hh]), nvPost]
  dsimp only
  rw [if_neg (show ¬cq.ien = true by simp [hi]), hsize]
  rfl

theorem nvDone_holds (cid dw0 : Nat) (st : NvSt) {sq : NvSq} (hs : (s.nvme p).sq q = some sq) (hc : (s.nvme p).cq sq.cq = some cq)
    (hf : cq.size ≤ cq.tail - cq.head + 1) :
    nvDone s p q cid dw0 st = s.setNvme p ((s.nvme p).setCq sq.cq { cq with held := cq.held ++ [⟨q, sq.head, cid, dw0, st.1, st.2⟩] }) := by
  have hfull : cq.full = true := by simp [NvCq.full]; omega
  simp [nvDone, hs, hc, hfull]

/-- A queue that holds no entry is left by a drain as it is. -/
theorem nvDrain_of_none_held (fuel : Nat) (hc : (s.nvme p).cq q = some cq) (hh : cq.held = []) : nvDrain p q fuel s = s := by
  cases fuel <;> simp [nvDrain, hc, hh]

theorem nvHead_moves {h : Nat} (hc : (s.nvme p).cq q = some cq) (hh : cq.held = []) (h0 : cq.head = 0) (ht : h ≤ cq.tail) (hs : h < cq.size)
    (hr : nvReady s p = true) : nvHead s p q h = s.setNvme p ((s.nvme p).setCq q { cq with head := h }) := by
  have hsize : max 1 cq.size = cq.size := by omega
  have hto : cq.head + (h + cq.size - cq.head % cq.size) % cq.size = h := by
    rw [h0, Nat.zero_mod, Nat.sub_zero, Nat.add_mod_right, Nat.mod_eq_of_lt hs, Nat.zero_add]
  have hg : ¬(nvReady s p = false ∨ h ≥ cq.size ∨ h > cq.tail) := by simp [hr]; omega
  simp only [nvHead, hc, hsize, hto, if_neg hg]
  exact nvDrain_of_none_held (cq := { cq with head := h }) _ (by simp) hh

theorem nvmeHeadDoorbell_moves {f : Fin 512} {h : Nat} (hf : 256 ≤ f.val) (hp : nvOfFn s f.val = some p) (hc : (s.nvme p).cq q = some cq)
    (hh : cq.held = []) (h0 : cq.head = 0) (ht : h ≤ cq.tail) (hs : h < cq.size) (hw : h < 65536) (hr : nvReady s p = true) :
    exec (.registerWrite f (0x1000 + 8 * q) .high (BitVec.ofNat 64 (h * 2 ^ 32)) false) s =
      .next (s.setNvme p ((s.nvme p).setCq q { cq with head := h })) := by
  have hv : bitsOf (BitVec.ofNat 64 (h * 2 ^ 32)) 32 16 = h := by
    rw [bitsOf, BitVec.toNat_ofNat, Nat.mod_eq_of_lt (by omega)]
    omega
  have hg : ¬(0x1000 + 8 * q < 0x1000 ∨ RegPart.high = .low) := by simp
  show execRegisterWrite f (0x1000 + 8 * q) .high (BitVec.ofNat 64 (h * 2 ^ 32)) false s = _
  rw [execRegisterWrite, if_neg (by simp), if_neg (by omega), if_pos hf, nvDoorbell, hp]
  dsimp only
  rw [if_neg hg, hv, show (0x1000 + 8 * q - 0x1000) / 8 = q by omega, nvHead_moves hc hh h0 ht hs hr]

end Completion

end Sys2Proof.Machine

namespace Sys2Proof.Proofs

open Sys2Proof.Machine

/-- Settles O60, command by command. -/
theorem nvmeCommands : Obligations.NvmeCommands := by
  unfold Obligations.NvmeCommands
  refine ⟨nvmeControllerEnable_answers, nvmeControllerEnable_ignored,
    fun p s h => ⟨nvmeControllerReset_absent p s h, fun flr _ => pf1Fence_absent p flr s h⟩,
    fun p s h hq hv => ⟨nvmeControllerReset_clears p s h hq hv, pf1Fence_clears p true s h hq hv, pf1Fence_clears p false s h hq hv⟩,
    fun p cid q vec size base contig ien sq s u h => nvmeCreateIoCq_answers vec size base contig ien h,
    fun p cid q cq size base contig sq s u h => nvmeCreateIoSq_answers cq size base contig h,
    fun p cid q sq s u h => nvmeDeleteIoSq_answers h,
    fun p cid q sq s u h => nvmeDeleteIoCq_answers h,
    fun p cid cns nsid prp st bs sq s u h hi => nvmeIdentify_answers cns nsid prp h hi,
    nvIdentify_no_namespace, nvIdentify_active,
    fun p cid dw off retain prp sq s u h => nvmeGetLogPage_changed dw off retain prp h,
    fun p cid lid dw off retain prp sq s u h => nvmeGetLogPage_other lid dw off retain prp h,
    fun p cid q target sq s u h => nvmeAbort_answers target h,
    fun p cid fid v sq s u h => ⟨nvmeSetFeatures_refused fid v h, ?_, ?_, nvmeGetFeatures_stored fid h, nvmeSetFeatures_stored fid v h⟩,
    fun p cid sq s u h => nvmeAsyncEventRequest_held h,
    fun p cid sq s u h => nvmeAsyncEventRequest_reports h,
    fun p q cid nsid sq s u hq h => nvmeFlush_answers nsid hq h,
    fun p q cid k nsid b data sq s u hq h => nvmeWrite_runs k nsid b data hq h,
    fun p q cid k nsid b data sq s u hq h hk => ⟨?_, ?_⟩,
    fun p q cid k nsid b prp sq s u hq h => ⟨nvmeRead_runs k nsid b prp hq h, nvmeWriteZeroes_runs k nsid b hq h⟩,
    fun p q cid nsid ad rs sq s u hq h => ⟨?_, ?_⟩,
    fun p q cid n kind rs prp data s => ⟨nvRun_no_namespace, nvRun_out_of_range⟩,
    fun p q cid n b k kind prp data s => nvRun_one,
    fun p q cid field sq s u h => nvmeInvalidOpcode_answers field h,
    fun p q cid dw0 st sq cq s => nvDone_posts cid dw0 st,
    fun p q cid dw0 st sq cq s => nvDone_holds cid dw0 st,
    fun f p q h cq s => nvmeHeadDoorbell_moves⟩
  · rintro rfl
    exact nvmeGetFeatures_queues h
  · rintro rfl
    exact nvmeSetFeatures_queues v h
  · exact nvmeWrite_refused k nsid b data hq h hk (by decide)
  · exact nvmeWrite_refused k nsid b data hq h hk (by decide)
  · exact exec_nvmeDatasetManagement nsid ad rs stOk hq h
  · exact exec_nvmeDatasetManagement nsid ad rs stFenced hq h

end Sys2Proof.Proofs
end

section
/-!
Boot, hang detection, replay, escalation and resets (R31, R371, R498, R509 to R528): what a manager event leaves alone, boot stage by stage, one fact for
each command, and the proof of `Obligations.BootAndRecovery`.
-/

open Sys2Proof.Spec

namespace Sys2Proof.Machine

/-! ## What register writes and the delivery of records leave alone -/

/-- `t` is `s` but for registers outside `P` and for what the delivery of a record changes: functions, Springs, Pecks, the log and the outputs. -/
structure Keeps (P : Nat → Prop) (s t : State) : Prop where
  rest : t = { s with regs := t.regs, fns := t.fns, springs := t.springs, pecks := t.pecks, log := t.log, logpi := t.logpi, out := t.out }
  reg : ∀ a, P a → t.reg a = s.reg a

/-- No register is named: the frame of what a state holds beside its registers. -/
abbrev NoReg : Nat → Prop := fun _ => False

namespace Keeps

variable {P : Nat → Prop} {s t u : State}

theorem refl (s : State) : Keeps P s s := ⟨rfl, fun _ _ => rfl⟩

theorem trans (h : Keeps P s t) (k : Keeps P t u) : Keeps P s u :=
  ⟨k.rest.trans (by rw [h.rest]), fun a ha => (k.reg a ha).trans (h.reg a ha)⟩

theorem foldl {α : Type} {f : State → α → State} {l : List α} (h : ∀ x ∈ l, ∀ s, Keeps P s (f s x)) (s : State) : Keeps P s (l.foldl f s) := by
  induction l generalizing s with
  | nil => exact refl s
  | cons x l ih => exact (h x (List.mem_cons_self ..) s).trans (ih (fun y hy => h y (List.mem_cons_of_mem _ hy)) _)

theorem setReg (s : State) {a : Nat} (v : Word) (h : ¬P a) : Keeps P s (s.setReg a v) :=
  ⟨rfl, fun b hb => by rw [State.reg_setReg, if_neg fun e : b = a => h (e ▸ hb)]⟩

theorem emit (s : State) (o : Out) : Keeps P s (s.emit o) := ⟨rfl, fun _ _ => rfl⟩
theorem setFn (s : State) (f : Nat) (x : Fn) : Keeps P s (s.setFn f x) := ⟨rfl, fun _ _ => rfl⟩
theorem setPeck (s : State) (p : Nat) (x : Peck) : Keeps P s (s.setPeck p x) := ⟨rfl, fun _ _ => rfl⟩
theorem setSpring (s : State) (k : Nat) (x : Spring) : Keeps P s (s.setSpring k x) := ⟨rfl, fun _ _ => rfl⟩
theorem logRec (s : State) (r : Rec) : Keeps P s (s.logRec r) := ⟨rfl, fun _ _ => rfl⟩

theorem ibi (s : State) (b x : Nat) : Keeps P s (s.ibi b x) := by
  unfold State.ibi
  split
  · exact emit _ _
  · exact refl s

theorem logPage (s : State) (p page : Nat) : Keeps P s (s.logPage p page) := by
  unfold State.logPage
  dsimp only
  split
  · exact refl s
  · split
    · exact setPeck ..
    · exact (emit _ _).trans (setPeck ..)

theorem hostWrite (s : State) (p : Nat) (iova : Word) (bs : List Byte) (ep : Bool) : Keeps P s (s.hostWrite p iova bs ep) := by
  refine Keeps.trans ?_ (emit _ _)
  unfold State.logRange
  split
  · exact refl s
  · exact foldl (fun i _ s => logPage s p _) s

/-! MSGS and HELD are the only registers that the delivery of a record counts in (R369). -/

section Delivery

variable (hm : ¬P rMsgs) (hh : ¬P rHeld)
include hm hh

theorem signalVec (s : State) (f v : Nat) : Keeps P s (s.signalVec f v) := by
  unfold State.signalVec
  dsimp only
  split
  · exact (setFn ..).trans (setReg _ _ hh)
  · exact (emit _ _).trans (setReg _ _ hm)

theorem drainSpring (p fuel : Nat) (s : State) (k : Nat) : Keeps P s (Machine.drainSpring p fuel s k) := by
  induction fuel generalizing s with
  | zero => exact refl s
  | succ n ih =>
    unfold Machine.drainSpring
    dsimp only
    split
    · exact refl s
    · split
      · refine Keeps.trans ?_ (ih _)
        split
        · exact ((((setPeck ..).trans (hostWrite ..)).trans (hostWrite ..)).trans (setSpring ..)).trans (signalVec hm hh ..)
        · exact (((setPeck ..).trans (hostWrite ..)).trans (hostWrite ..)).trans (setSpring ..)
      · exact refl s

theorem toSpring (s : State) (f sp : Nat) (r : Rec) : Keeps P s (s.toSpring f sp r) := by
  unfold State.toSpring
  dsimp only
  split
  · exact setSpring ..
  · exact (setSpring ..).trans (drainSpring hm hh ..)

theorem logEvent (s : State) (sev : Nat) (ty : BitVec 16) (a b : Word) : Keeps P s (s.logEvent sev ty a b) := by
  unfold State.logEvent
  dsimp only
  split
  · exact (logRec ..).trans (signalVec hm hh ..)
  · exact logRec ..

theorem mgrEvent (s : State) (sev : Nat) (ty : BitVec 16) (a b : Word) : Keeps P s (s.mgrEvent sev ty a b) := by
  unfold State.mgrEvent
  split
  · exact toSpring hm hh ..
  · dsimp only
    split
    · exact (logEvent hm hh ..).trans (emit _ _)
    · exact logEvent hm hh ..

end Delivery

section Fields

variable (h : Keeps P s t)
include h

theorem phase : t.phase = s.phase := by rw [h.rest]
theorem fw : t.fw = s.fw := by rw [h.rest]
theorem pwr : t.pwr = s.pwr := by rw [h.rest]
theorem intg : t.intg = s.intg := by rw [h.rest]
theorem rcv : t.rcv = s.rcv := by rw [h.rest]
theorem time : t.time = s.time := by rw [h.rest]
theorem mem : t.mem = s.mem := by rw [h.rest]
theorem keys : t.keys = s.keys := by rw [h.rest]

end Fields

end Keeps

/-! ## Fields of a register -/

theorem fld_eq_bitsOf (x : Word) (lo w : Nat) : fld x lo w = bitsOf x lo w := by rw [fld, bitsOf, Nat.shiftRight_eq_div_pow]

/-- STATE of a die-to-die link, bits [1:0] of its register (R447). -/
theorem fld_setD2d_self (s : State) (l st n : Nat) : fld ((setD2d s l st n).reg (rLink l)) 0 2 = st % 4 := by
  simp only [setD2d, State.setRegField, State.reg_setReg_self, putField, fld_eq_bitsOf, bitsOf, BitVec.toNat_ofNat]
  generalize s.reg (rLink l) = x
  have := x.isLt
  omega

theorem rLink_injective {l j : Nat} (h : rLink l = rLink j) : l = j := by
  unfold rLink at h
  omega

theorem reg_setD2d_ne (s : State) {l j : Nat} (st n : Nat) (h : j ≠ l) : (setD2d s l st n).reg (rLink j) = s.reg (rLink j) := by
  have hne : rLink j ≠ rLink l := fun e => h (rLink_injective e)
  simp only [setD2d, State.setRegField, State.reg_setReg, if_neg hne]

theorem keeps_setD2d {P : Nat → Prop} (s : State) {l : Nat} (st n : Nat) (h : ¬P (rLink l)) : Keeps P s (setD2d s l st n) :=
  (Keeps.setReg _ _ h).trans (Keeps.setReg _ _ h)

/-! ## The ROM's choice of a slot (R498, step 2) -/

/-- The bundle in slot B or in slot A. -/
def flashSlot (s : State) (b : Bool) : Option Bundle := if b then s.fw.flashB else s.fw.flashA

theorem flashSlot_not_active (s : State) : flashSlot s (!s.fw.active) = if s.fw.active then s.fw.flashA else s.fw.flashB := by
  unfold flashSlot
  cases s.fw.active <;> rfl

/-- The error registers of the last boot are clear. -/
def errCleared (s : State) : State := { s with fw := { s.fw with errStep := 0, errCause := 0, errSlot := false } }

/-- The slot in use was refused for a cause. -/
def slotRefused (s : State) (c : Nat) : State := { s with fw := { s.fw with errStep := 2, errCause := c, errSlot := s.fw.active } }

/-- The device runs slot `b`, and nothing of an update is left. -/
def slotTaken (s : State) (b : Bool) : State :=
  { s with fw := { s.fw with
      booted := b, boot := flashSlot s b, run := flashSlot s b, switched := [], staged := none, flash := false, activating := false
      probation := false, deferred := false, group := 0, toFlash := none } }

/-- The slot in use is refused, and the other one runs. -/
def slotFallback (s : State) (c : Nat) : State :=
  (slotTaken (slotRefused s c) !s.fw.active).mgrEvent sevWarn evFwBootFallback (BitVec.ofNat 64 (!s.fw.active).toNat)
    (BitVec.ofNat 64 (2 + c * 2 ^ 8 + s.fw.active.toNat * 2 ^ 16))

theorem bootSlot_eq (s : State) : bootSlot s =
    match slotBad s (flashSlot s s.fw.active) with
    | none => (true, slotTaken (errCleared s) s.fw.active)
    | some c => match slotBad s (flashSlot s !s.fw.active) with
      | none => (true, slotFallback (errCleared s) c)
      | some _ => (false, halt (slotRefused (errCleared s) c) 2 1) := by
  rfl

theorem bootSlot_active {s : State} (h : slotBad s (flashSlot s s.fw.active) = none) :
    bootSlot s = (true, slotTaken (errCleared s) s.fw.active) := by
  rw [bootSlot_eq, h]

theorem bootSlot_other {s : State} {c : Nat} (h : slotBad s (flashSlot s s.fw.active) = some c) (h' : slotBad s (flashSlot s !s.fw.active) = none) :
    bootSlot s = (true, slotFallback (errCleared s) c) := by
  rw [bootSlot_eq, h, h']

theorem bootSlot_none {s : State} {c d : Nat} (h : slotBad s (flashSlot s s.fw.active) = some c) (h' : slotBad s (flashSlot s !s.fw.active) = some d) :
    bootSlot s = (false, halt (slotRefused (errCleared s) c) 2 1) := by
  rw [bootSlot_eq, h, h']

/-! ## A boot that halts (R498) -/

/-- The error registers say where and why, and nothing else of the device changes. -/
theorem halt_keeps (s : State) (step cause : Nat) :
    Keeps NoReg { s with phase := 3, fw := { s.fw with errStep := step, errCause := cause, errSlot := s.fw.booted } } (halt s step cause) := Keeps.ibi ..

@[simp] theorem halt_phase (s : State) (step cause : Nat) : (halt s step cause).phase = 3 := (halt_keeps ..).phase
@[simp] theorem halt_fw (s : State) (step cause : Nat) :
    (halt s step cause).fw = { s.fw with errStep := step, errCause := cause, errSlot := s.fw.booted } := (halt_keeps ..).fw
@[simp] theorem halt_pwr (s : State) (step cause : Nat) : (halt s step cause).pwr = s.pwr := (halt_keeps ..).pwr
@[simp] theorem halt_mem (s : State) (step cause : Nat) : (halt s step cause).mem = s.mem := (halt_keeps ..).mem

/-! ## Rails and links (R498, steps 3 and 4) -/

/-- The guard die's cores run, and the first `up` rails are good (R552). -/
def railsUp (s : State) (up : Nat) : State :=
  { s with
    fw := { s.fw with cores := (List.range 60).map fun n => (n, ⟨if n < 56 then 0 else 1, 0, none⟩) }
    pwr := { s.pwr with en := BitVec.ofNat 4 (2 ^ min up 4 - 1), pg := BitVec.ofNat 5 (2 ^ up - 1), vcore := 750, n := 16, want := 16 } }

/-- The clock is locked, and device time starts at 0 (R562). -/
def clockLocked (s : State) : State :=
  { s with time := 0, pwr := { s.pwr with lock := true, fallback := false }, pcie := { s.pcie with wake := false } }

/-- A link does not train: the board says so, or no module of it is left (R20). -/
def linkDead (b : BootIn) (s : State) (l : Nat) : Bool :=
  (b.links.any fun x => x.val == l) || decide (linkModules l ≤ (s.intg.out_.filter fun k => k / 16 == l).length)

/-- One link at training, `dead` naming those that stay down (R18). -/
def trainLink (dead : Nat → Bool) (s : State) (l : Nat) : State :=
  if dead l then (setD2d s l 0 0).mgrEvent sevFatal evLinkDown (BitVec.ofNat 64 l) 0
  else
    let out := (s.intg.out_.filter fun k => k / 16 == l).length
    setD2d s l (if out = 0 then 2 else 3) (linkModules l - out)

/-- Steps 4 to 8, from links that are about to be trained. -/
def linkBoot (b : BootIn) (s : State) : State :=
  let t := (List.range 17).foldl (trainLink (linkDead b s)) s
  if (List.range 17).any (linkDead b s) then halt t 4 2 else bootTail (takeBoard t) b

/-- Steps 3 to 8, the first `up` rails being good. -/
def railBoot (b : BootIn) (s : State) (up : Nat) : State :=
  if up < 5 ∨ boardOk (railsUp s up) = false then halt (railsUp s up) 3 4
  else linkBoot b (spareAtTraining (clockLocked (railsUp s up)) b.lanes)

theorem coldBoot_eq (s : State) (b : BootIn) : coldBoot s b =
    match bootSlot s with
    | (false, u) => u
    | (true, u) => railBoot b u (match b.rail with
      | some r => r.val
      | none => 5) := by
  rfl

theorem coldBoot_no_slot {s u : State} (b : BootIn) (h : bootSlot s = (false, u)) : coldBoot s b = u := by
  rw [coldBoot_eq, h]

theorem coldBoot_rail {s u : State} {b : BootIn} {r : Fin 5} (h : bootSlot s = (true, u)) (hr : b.rail = some r) :
    coldBoot s b = halt (railsUp u r.val) 3 4 := by
  rw [coldBoot_eq, h, hr]
  exact if_pos (.inl r.isLt)

theorem coldBoot_rails_good {s u : State} {b : BootIn} (h : bootSlot s = (true, u)) (hr : b.rail = none) (hb : boardOk (railsUp u 5) = true) :
    coldBoot s b = linkBoot b (spareAtTraining (clockLocked (railsUp u 5)) b.lanes) := by
  rw [coldBoot_eq, h, hr]
  exact if_neg (by simp [hb])

/-! ### Every module in service -/

theorem linkModules_pos (l : Nat) : 0 < linkModules l := by
  unfold linkModules
  repeat' split
  all_goals decide

/-- With every module in service a link is dead only where the board says so. -/
theorem linkDead_of_none_out (b : BootIn) {s : State} (l : Nat) (h : s.intg.out_ = []) : linkDead b s l = b.links.any fun x => x.val == l := by
  have := linkModules_pos l
  simp only [linkDead, h, List.filter_nil, List.length_nil, Bool.or_eq_left_iff_imp, decide_eq_true_eq]
  omega

theorem linkBoot_dead {b : BootIn} (s : State) (h : b.links ≠ []) : ∃ t, linkBoot b s = halt t 4 2 := by
  obtain ⟨x, hx⟩ := List.exists_mem_of_ne_nil _ h
  have hdead : linkDead b s x.val = true := by
    rw [linkDead, Bool.or_eq_true, List.any_eq_true]
    exact .inl ⟨x, hx, beq_self_eq_true _⟩
  exact ⟨_, if_pos (List.any_eq_true.mpr ⟨x.val, List.mem_range.mpr x.isLt, hdead⟩)⟩

/-- Links come UP with every module. -/
def linksUp (s : State) (ls : List Nat) : State := ls.foldl (fun s l => setD2d s l 2 (linkModules l)) s

theorem trainLink_alive {s : State} (l : Nat) (h : s.intg.out_ = []) : trainLink (fun _ => false) s l = setD2d s l 2 (linkModules l) := by
  simp [trainLink, h]

theorem foldl_trainLink_alive {s : State} (ls : List Nat) (h : s.intg.out_ = []) : ls.foldl (trainLink fun _ => false) s = linksUp s ls := by
  induction ls generalizing s with
  | nil => rfl
  | cons l ls ih =>
    rw [List.foldl_cons, trainLink_alive l h]
    exact ih h

theorem linkBoot_alive {b : BootIn} {s : State} (h : b.links = []) (ho : s.intg.out_ = []) :
    linkBoot b s = bootTail (takeBoard (linksUp s (List.range 17))) b := by
  have hdead : linkDead b s = fun _ => false := by
    funext l
    rw [linkDead_of_none_out b l ho, h, List.any_nil]
  simp only [linkBoot, hdead, foldl_trainLink_alive _ ho]
  exact if_neg (by decide)

theorem linksUp_keeps (s : State) (ls : List Nat) : Keeps NoReg s (linksUp s ls) :=
  Keeps.foldl (fun _ _ s => keeps_setD2d s _ _ id) s

/-- A link that is UP stays so while the others come up. -/
theorem fld_linksUp_of_up {s : State} {j : Nat} (ls : List Nat) (h : fld (s.reg (rLink j)) 0 2 = 2) :
    fld ((linksUp s ls).reg (rLink j)) 0 2 = 2 := by
  induction ls generalizing s with
  | nil => exact h
  | cons l ls ih =>
    refine ih (s := setD2d s l 2 (linkModules l)) ?_
    by_cases hj : j = l
    · rw [hj, fld_setD2d_self]
    · rw [reg_setD2d_ne _ _ _ hj, h]

theorem fld_linksUp {s : State} {j : Nat} {ls : List Nat} (h : j ∈ ls) : fld ((linksUp s ls).reg (rLink j)) 0 2 = 2 := by
  induction ls generalizing s with
  | nil => cases h
  | cons l ls ih =>
    obtain rfl | hj := List.mem_cons.mp h
    · exact fld_linksUp_of_up ls (fld_setD2d_self s j 2 _)
    · exact ih hj

/-! ## The board record (R569), and steps 5, 7 and 8 of boot -/

theorem boardField_of_no_board {s : State} (h : s.fw.boot.bind (·.board) = none) (a n : Nat) : boardField s a n = none := by
  rw [boardField, h, Option.map_none]

theorem boardOk_of_no_board {s : State} (h : s.fw.boot.bind (·.board) = none) : boardOk s = true := by
  simp [boardOk, boardField_of_no_board h]

/-- The configuration of a lane group is taken from the board record. -/
def takePort (s : State) (g : Nat) : State :=
  let w := BitVec.ofNat 64 ((boardField s (8 + 8 * g) 8).getD 0)
  s.setReg (rPortCfg g) (BitVec.ofNat 64 (bitsOf w 0 3 + bitsOf w 8 16 * 256))

theorem takePorts_keeps {P : Nat → Prop} (h : ∀ g < 16, ¬P (rPortCfg g)) (s : State) : Keeps P s ((List.range 16).foldl takePort s) :=
  Keeps.foldl (fun g hg s => Keeps.setReg s _ (h g (List.mem_range.mp hg))) s

theorem takeBoard_of_no_board {s : State} (h : s.fw.boot.bind (·.board) = none) :
    ∃ o, takeBoard s =
      let t := (List.range 16).foldl takePort (s.setReg rPwrLimit (BitVec.ofNat 64 pwrFused))
      { t with pcie := { t.pcie with refused := false } }.emit o := by
  have hp : ((List.range 16).foldl takePort (s.setReg rPwrLimit (BitVec.ofNat 64 pwrFused))).fw = s.fw :=
    (takePorts_keeps (P := NoReg) (fun _ _ => id) _).fw
  have h138 : boardField s 138 2 = none := boardField_of_no_board h _ _
  have h140 : boardField (s.setReg rPwrLimit (BitVec.ofNat 64 pwrFused)) 140 1 = none := boardField_of_no_board h _ _
  have h0 : boardField ((List.range 16).foldl takePort (s.setReg rPwrLimit (BitVec.ofNat 64 pwrFused))) 0 1 = none :=
    boardField_of_no_board (by rw [hp, h]) _ _
  unfold takePort at h0
  simp only [takeBoard, h138, Option.getD_none, h140, h0]
  exact ⟨_, rfl⟩

/-- Without a board record, boot takes the fused limit and no lane group, and refuses nothing. -/
theorem takeBoard_keeps {P : Nat → Prop} {s : State} (h : s.fw.boot.bind (·.board) = none) (hw : ¬P rPwrLimit) (hp : ∀ g < 16, ¬P (rPortCfg g)) :
    ∃ t, Keeps P s t ∧ Keeps P { t with pcie := { t.pcie with refused := false } } (takeBoard s) := by
  obtain ⟨o, ho⟩ := takeBoard_of_no_board h
  exact ⟨_, (Keeps.setReg s _ hw).trans (takePorts_keeps hp _), ho ▸ Keeps.emit _ o⟩

/-- The cores of the list run. -/
def coresStarted (s : State) (ns : List Nat) : State := ns.foldl (fun s n => s.setCore n ⟨1, 0, none⟩) s

theorem coresStarted_eq (s : State) (ns : List Nat) : ∃ c, coresStarted s ns = { s with fw := { s.fw with cores := c } } := by
  induction ns generalizing s with
  | nil => exact ⟨s.fw.cores, rfl⟩
  | cons n ns ih => exact ih (s.setCore n ⟨1, 0, none⟩)

theorem bootTail_hbm (s : State) {b : BootIn} (h : b.hbm = true) : ∃ t, bootTail s b = halt t 7 3 := ⟨_, if_pos h⟩

/-- With nothing to repair and no fault to test again, the cores run and the device is READY. -/
theorem bootTail_ready {s : State} {b : BootIn} (h : b.hbm = false) (hs : s.intg.soft = []) (hf : s.intg.faults = []) :
    ∃ c, bootTail s b = { s with fw := { s.fw with cores := c }, intg := { s.intg with soft := [] }, phase := 2 } := by
  obtain ⟨c, hc⟩ := coresStarted_eq s (List.range 56)
  unfold coresStarted at hc
  refine ⟨c, ?_⟩
  simp only [bootTail, hc, h, hs, hf, List.foldl_nil, Bool.false_eq_true, if_false]

/-- Without a board record and with nothing to repair, steps 5 to 8 keep time, power and the links as they are. -/
theorem bootTail_takeBoard {s : State} {b : BootIn} (h : s.fw.boot.bind (·.board) = none) (hm : b.hbm = false) (hs : s.intg.soft = [])
    (hf : s.intg.faults = []) :
    (bootTail (takeBoard s) b).phase = 2 ∧ (bootTail (takeBoard s) b).time = s.time ∧ (bootTail (takeBoard s) b).fw.run = s.fw.run ∧
      (bootTail (takeBoard s) b).pwr = s.pwr ∧ ∀ l, (bootTail (takeBoard s) b).reg (rLink l) = s.reg (rLink l) := by
  have hlimit : ¬∃ l, rPwrLimit = rLink l := by
    rintro ⟨l, hl⟩
    simp only [rPwrLimit, rLink] at hl
    omega
  have hport : ∀ g < 16, ¬∃ l, rPortCfg g = rLink l := by
    rintro g hg ⟨l, hl⟩
    simp only [rPortCfg, rLink] at hl
    omega
  obtain ⟨t, ht, hv⟩ := takeBoard_keeps (P := fun a => ∃ l, a = rLink l) h hlimit hport
  generalize takeBoard s = v at hv
  have hi : v.intg = s.intg := hv.intg.trans ht.intg
  obtain ⟨c, hc⟩ := bootTail_ready hm (hi ▸ hs) (hi ▸ hf)
  rw [hc]
  exact ⟨rfl, hv.time.trans ht.time, (congrArg FwState.run (hv.fw.trans ht.fw) :), hv.pwr.trans ht.pwr,
    fun l => (hv.reg _ ⟨l, rfl⟩).trans (ht.reg _ ⟨l, rfl⟩)⟩

/-! ## Cold boot (R498) -/

/-- What a device whose slot in use boots, and whose rails are good, brings to the training of its links. -/
def bootedRails (s : State) : State := clockLocked (railsUp (slotTaken (errCleared s) s.fw.active) 5)

theorem bootedRails_intg (s : State) : (bootedRails s).intg = s.intg := by
  simp only [bootedRails, clockLocked, railsUp, slotTaken, errCleared]

theorem bootedRails_boot (s : State) : (bootedRails s).fw.boot = flashSlot s s.fw.active := by
  simp only [bootedRails, clockLocked, railsUp, slotTaken]
  rfl

theorem bootedRails_run (s : State) : (bootedRails s).fw.run = flashSlot s s.fw.active := by
  simp only [bootedRails, clockLocked, railsUp, slotTaken]
  rfl

theorem bootedRails_pwr (s : State) : (bootedRails s).pwr.pg = 0x1F ∧ (bootedRails s).pwr.en = 0xF := by
  simp only [bootedRails, clockLocked, railsUp]
  decide

section ColdBoot

variable {s : State} {b : BootIn}

theorem coldBoot_no_bundle (h : (slotBad s (flashSlot s s.fw.active)).isSome = true) (h' : (slotBad s (flashSlot s !s.fw.active)).isSome = true) :
    (coldBoot s b).phase = 3 ∧ (coldBoot s b).fw.errStep = 2 ∧ (coldBoot s b).fw.errCause = 1 ∧ (coldBoot s b).mem = s.mem := by
  obtain ⟨c, hc⟩ := Option.isSome_iff_exists.mp h
  obtain ⟨d, hd⟩ := Option.isSome_iff_exists.mp h'
  rw [coldBoot_no_slot b (bootSlot_none hc hd), halt_phase, halt_fw, halt_mem]
  exact ⟨rfl, rfl, rfl, rfl⟩

theorem coldBoot_rail_bad {r : Fin 5} (h : slotBad s (flashSlot s s.fw.active) = none) (hr : b.rail = some r) :
    (coldBoot s b).phase = 3 ∧ (coldBoot s b).fw.errStep = 3 ∧ (coldBoot s b).fw.errCause = 4 ∧
      (coldBoot s b).pwr.pg = BitVec.ofNat 5 (2 ^ r.val - 1) := by
  rw [coldBoot_rail (bootSlot_active h) hr, halt_phase, halt_fw, halt_pwr]
  exact ⟨rfl, rfl, rfl, rfl⟩

/-- Slot A is bad and slot B boots; that rail 0 stays off shows the state right after the choice. -/
theorem coldBoot_fallback {c : Nat} {r : Fin 5} (h : slotBad s s.fw.flashA = some c) (ha : s.fw.active = false) (h' : slotBad s s.fw.flashB = none)
    (hr : b.rail = some r) : (coldBoot s b).fw.run = s.fw.flashB ∧ (coldBoot s b).fw.booted = true := by
  have hs : bootSlot s = (true, slotFallback (errCleared s) c) :=
    bootSlot_other (by rw [ha]; exact h) (by rw [ha]; exact h')
  have hfw : (slotFallback (errCleared s) c).fw = (slotTaken (slotRefused (errCleared s) c) !s.fw.active).fw :=
    (Keeps.mgrEvent (P := NoReg) id id ..).fw
  rw [coldBoot_rail hs hr, halt_fw, railsUp, hfw, ha]
  exact ⟨rfl, rfl⟩

section Links

variable (h : slotBad s (flashSlot s s.fw.active) = none) (hr : b.rail = none) (hl : b.lanes = [])
  (hb : (flashSlot s s.fw.active).bind (·.board) = none)
include h hr hl hb

theorem coldBoot_links : coldBoot s b = linkBoot b (bootedRails s) := by
  rw [coldBoot_rails_good (bootSlot_active h) hr (boardOk_of_no_board hb), hl]
  rfl

theorem coldBoot_link_bad (hk : b.links ≠ []) :
    (coldBoot s b).phase = 3 ∧ (coldBoot s b).fw.errStep = 4 ∧ (coldBoot s b).fw.errCause = 2 := by
  obtain ⟨t, ht⟩ := linkBoot_dead (bootedRails s) hk
  rw [coldBoot_links h hr hl hb, ht, halt_phase, halt_fw]
  exact ⟨rfl, rfl, rfl⟩

variable (hk : b.links = []) (ho : s.intg.out_ = [])
include hk ho

theorem coldBoot_tail : coldBoot s b = bootTail (takeBoard (linksUp (bootedRails s) (List.range 17))) b := by
  rw [coldBoot_links h hr hl hb, linkBoot_alive hk (by rw [bootedRails_intg, ho])]

theorem coldBoot_hbm_bad (hm : b.hbm = true) :
    (coldBoot s b).phase = 3 ∧ (coldBoot s b).fw.errStep = 7 ∧ (coldBoot s b).fw.errCause = 3 := by
  obtain ⟨t, ht⟩ := bootTail_hbm (takeBoard (linksUp (bootedRails s) (List.range 17))) hm
  rw [coldBoot_tail h hr hl hb hk ho, ht, halt_phase, halt_fw]
  exact ⟨rfl, rfl, rfl⟩

theorem coldBoot_ready (hm : b.hbm = false) (hs : s.intg.soft = []) (hf : s.intg.faults = []) :
    (coldBoot s b).phase = 2 ∧ (coldBoot s b).time = 0 ∧ (coldBoot s b).fw.run = flashSlot s s.fw.active ∧ (coldBoot s b).pwr.pg = 0x1F ∧
      (coldBoot s b).pwr.en = 0xF ∧ ∀ l ∈ List.range 17, fld ((coldBoot s b).reg (rLink l)) 0 2 = 2 := by
  have hu := linksUp_keeps (bootedRails s) (List.range 17)
  have hi : (linksUp (bootedRails s) (List.range 17)).intg = s.intg := hu.intg.trans (bootedRails_intg s)
  obtain ⟨hphase, htime, hrun, hpwr, hreg⟩ := bootTail_takeBoard (s := linksUp (bootedRails s) (List.range 17)) (b := b)
    (by rw [hu.fw, bootedRails_boot, hb]) hm (by rw [hi, hs]) (by rw [hi, hf])
  rw [coldBoot_tail h hr hl hb hk ho, hphase, htime, hrun, hpwr, hu.time, hu.fw, hu.pwr]
  exact ⟨rfl, rfl, bootedRails_run s, (bootedRails_pwr s).1, (bootedRails_pwr s).2, fun l hl => by rw [hreg, fld_linksUp hl]⟩

end Links

end ColdBoot

/-! ## Boot as a command (R498, R532) -/

theorem boot_ignored (b : BootIn) (s : State) (h : s.phase ≠ 0 ∨ s.d3cold = true) : exec (.boot b) s = .next s :=
  congrArg Host.Outcome.next (if_pos h)

theorem boot_boots (b : BootIn) (s : State) (hp : s.phase = 0) (hd : s.d3cold = false) :
    exec (.boot b) s = .next (settleAll (coldBoot { s with secondary := b.strap, phase := 1 } b)) :=
  congrArg Host.Outcome.next (if_neg (by simp [hp, hd]))

/-! ## Samples and hangs (R509, R510, R512) -/

section Sample

variable {u : ProgUnit} {s : State}

/-- A sample of a unit, as it is when no reset has outlasted its limit and no engine is under replay. -/
def sampled (u : ProgUnit) (s : State) : State :=
  let w := s.watch (unitCode s u)
  if !watched s u then s.setWatch { w with samples := [] }
  else if ((w.samples.head?).any fun (p : Nat × Nat) => decide (s.time < p.1 + spanOf s u * 125000)) then s
  else
    let l := ((s.time, counterOf s u) :: w.samples).take 9
    if l.length = 9 ∧ (l.map (·.2)).getLast? = some (counterOf s u) then hang s u else s.setWatch { w with samples := l }

theorem exec_progressSample (he : s.rcv.escals = []) (hr : s.replays = []) : exec (.progressSample u) s = .next (sampled u s) := by
  have hov : overdue s = s := by rw [overdue, he, List.foldl_nil]
  have hreplay : ∀ e, s.replay e = none := fun e => by rw [State.replay, hr, List.find?_nil]
  show execProgressSample u s = _
  unfold execProgressSample
  rw [hov]
  cases u with
  | engine e =>
    simp only [hreplay, Option.bind_none]
    rfl
  | peckRing | mgrRing | core | inst => rfl

theorem progressSample_unwatched (he : s.rcv.escals = []) (hr : s.replays = []) (hw : watched s u = false) :
    exec (.progressSample u) s = .next (s.setWatch { s.watch (unitCode s u) with samples := [] }) := by
  rw [exec_progressSample he hr, sampled]
  exact congrArg _ (if_pos (by simp [hw]))

theorem progressSample_early {p : Nat × Nat} (he : s.rcv.escals = []) (hr : s.replays = []) (hw : watched s u = true)
    (hp : (s.watch (unitCode s u)).samples.head? = some p) (ht : s.time < p.1 + spanOf s u * 125000) : exec (.progressSample u) s = .next s := by
  have hearly : ((s.watch (unitCode s u)).samples.head?.any fun p => decide (s.time < p.1 + spanOf s u * 125000)) = true := by
    rw [hp, Option.any_some]
    exact decide_eq_true ht
  rw [exec_progressSample he hr, sampled]
  exact congrArg _ ((if_neg (by simp [hw])).trans (if_pos hearly))

theorem progressSample_samples {w : Watch} {l : List (Nat × Nat)} (he : s.rcv.escals = []) (hr : s.replays = []) (hw : watched s u = true)
    (hs : w = s.watch (unitCode s u)) (ht : (w.samples.all fun p => decide (p.1 + spanOf s u * 125000 ≤ s.time)) = true)
    (hl : l = ((s.time, counterOf s u) :: w.samples).take 9) :
    exec (.progressSample u) s =
      .next (if l.length = 9 ∧ (l.map (·.2)).getLast? = some (counterOf s u) then hang s u else s.setWatch { w with samples := l }) := by
  subst hs hl
  have hdue : ¬((s.watch (unitCode s u)).samples.head?.any fun p => decide (s.time < p.1 + spanOf s u * 125000)) = true := by
    cases hh : (s.watch (unitCode s u)).samples with
    | nil => simp
    | cons p ps =>
      have hp := of_decide_eq_true (List.all_eq_true.mp ht p (by simp [hh]))
      rw [List.head?_cons, Option.any_some]
      exact fun hlt => absurd (of_decide_eq_true hlt) (Nat.not_lt.mpr hp)
  rw [exec_progressSample he hr, sampled]
  exact congrArg _ ((if_neg (by simp [hw])).trans (if_neg hdue))

end Sample

@[simp] theorem State.watch_setWatch_self (s : State) (w : Watch) : (s.setWatch w).watch w.code = w := by
  have hnone : (s.watches.filter fun x => x.code ≠ w.code).find? (fun x => x.code == w.code) = none := by
    rw [List.find?_eq_none]
    intro x hx
    simpa using (List.mem_filter.mp hx).2
  simp only [State.setWatch, State.watch, List.find?_append, hnone, Option.none_or, List.find?_cons, beq_self_eq_true, Option.getD_some]

/-- A hang of a unit that is neither an engine nor a Peck's: counted, kept as the last one, and reported. -/
def hangReported (s : State) (u : ProgUnit) : State :=
  let w := BitVec.ofNat 64 (unitCode s u)
  let s := ((s.bump rRcvHangs 1).setReg rRcvLast w).setReg rRcvLastTime (BitVec.ofNat 64 s.time)
  s.mgrEvent sevWarn evHangDetected w (BitVec.ofNat 64 (spanOf s u))

theorem unitCode_mgrRing (s : State) (r : Fin 4) : unitCode s (.mgrRing r) / 2 ^ 16 = 0 := by
  have := r.isLt
  simp only [unitCode]
  omega

theorem hang_mgrRing {r : Fin 4} {s : State} (h : (s.watch (unitCode s (.mgrRing r))).acted = none) :
    hang s (.mgrRing r) = (hangReported s (.mgrRing r)).setWatch ⟨unitCode s (.mgrRing r), [], some (hangReported s (.mgrRing r)).time⟩ := by
  simp only [hang, unitCode_mgrRing, if_true, h, Bool.false_eq_true, if_false]
  rfl

theorem hangReported_keeps (s : State) (u : ProgUnit) :
    Keeps (fun a => a = rRcvHangs) (s.bump rRcvHangs 1) (hangReported s u) :=
  ((Keeps.setReg _ _ (by decide)).trans (Keeps.setReg _ _ (by decide))).trans (Keeps.mgrEvent (by decide) (by decide) ..)

theorem hang_mgrRing_counts (r : Fin 4) (s : State) (h : (s.watch (unitCode s (.mgrRing r))).acted = none) :
    (hang s (.mgrRing r)).reg rRcvHangs = (s.bump rRcvHangs 1).reg rRcvHangs ∧ (hang s (.mgrRing r)).rcv = s.rcv ∧
      (hang s (.mgrRing r)).mem = s.mem ∧ ((hang s (.mgrRing r)).watch (unitCode s (.mgrRing r))).acted = some s.time := by
  have hk := hangReported_keeps s (.mgrRing r)
  rw [hang_mgrRing h]
  refine ⟨hk.reg _ rfl, hk.rcv, hk.mem, ?_⟩
  have hw := State.watch_setWatch_self (hangReported s (.mgrRing r)) ⟨unitCode s (.mgrRing r), [], some (hangReported s (.mgrRing r)).time⟩
  rw [hw, hk.time, State.bump_time]

/-! ## Replay (R516 to R519) -/

section Replay

variable {e : Fin 128} {r : Replay} {s : State}

theorem replayRun_idle (h : s.replay e.val = none ∨ (s.replay e.val).any (fun r => r.run.isSome) = true) : exec (.replayRun e) s = .next s := by
  show execReplayRun e s = _
  unfold execReplayRun
  cases hr : s.replay e.val with
  | none => rfl
  | some r =>
    obtain ⟨k, hk⟩ : ∃ k, r.run = some k := Option.isSome_iff_exists.mp (by simpa [hr] using h)
    simp only [hk]

theorem replayRun_ends (hr : s.replay e.val = some r) (hn : r.run = none) (hl : r.left = []) : exec (.replayRun e) s = .next (replayEnd s r) := by
  show execReplayRun e s = _
  simp only [execReplayRun, hr, hn, hl]

theorem replayRun_restarts {k : Fin 8} {i : Item} (hr : s.replay e.val = some r) (hn : r.run = none) (hl : r.left.head? = some k.val)
    (hc : (s.ctx ⟨e, k⟩).item = some i.id) (hi : s.item i.id = some i) (hf : startFlag (s.ctx ⟨e, k⟩).start 3 = false) :
    let u := startCtx s i (s.ctx ⟨e, k⟩).start []
    let v := (freeCtx (fenceCopies s e (some k.val) stFenced) ⟨e, k⟩).setCtx ⟨e, k⟩ { u with replay := true, arrived := (s.ctx ⟨e, k⟩).arrived }
    exec (.replayRun e) s = .next (v.updReplay e.val fun r => { r with run := some k.val, samples := [(v.time, engCounter v e.val)] }) := by
  obtain ⟨ks, hks⟩ : ∃ ks, r.left = k.val :: ks := List.head?_eq_some_iff.mp hl
  have hk : Fin.ofNat 8 k.val = k := Fin.ofNat_val_eq_self k
  have hb : (s.ctx ⟨e, k⟩).item.bind s.item = some i := by rw [hc, Option.bind_some, hi]
  intro u v
  show execReplayRun e s = _
  simp only [execReplayRun, hr, hn, hks, hk, hb, hf, Bool.false_eq_true, if_false]
  rfl

end Replay

/-! ## Escalation and requests of the manager (R523, R524, R526, R528) -/

theorem State.request_of {s : State} {id t : Nat} {i : Item} (k : Item → State) (h : Request s id t i) : s.request id t k = k i := by
  obtain ⟨hi, ht, hp⟩ := h
  rw [State.request, hi]
  exact if_pos ⟨ht, hp⟩

theorem rcvWarmreset_acts (id : Nat) (i : Item) (s : State) (h : Request s id 0x0940 i) :
    exec (.rcvWarmreset id) s = .next (warmLevel (completes s i stOk 0) 1 0) :=
  congrArg Host.Outcome.next (State.request_of _ h)

theorem rcvPowercycle_acts (id : Nat) (i : Item) (s : State) (h : Request s id 0x0941 i) :
    exec (.rcvPowercycle id) s = .next (powerLevel (completes s i stOk 0) 5 0) :=
  congrArg Host.Outcome.next (State.request_of _ h)

theorem escalate_keeps (s : State) (level : Nat) (code : Word) : Keeps NoReg s (escalate s level code) :=
  ((Keeps.setReg _ _ id).trans (Keeps.setReg _ _ id)).trans (Keeps.mgrEvent id id ..)

section Levels

variable {s : State} {cause : Nat} {code : Word} (h : fld (s.reg rRcvPcreq) 0 1 = 0)
include h

theorem powerLevel_requests : powerLevel s cause code = requestPowerCycle (escalate s 4 code) cause := by
  rw [fld_eq_bitsOf] at h
  exact if_neg (by omega)

theorem warmLevel_due (hw : s.rcv.warm = none) (hn : recentWarms s < fld (s.reg rRcvCfg) 48 3) :
    (warmLevel s cause code).rcv.warm = some cause ∧ (warmLevel s cause code).mem = s.mem := by
  rw [fld_eq_bitsOf] at h hn
  rw [warmLevel, if_neg (by simp [hw, h]), if_neg (by omega)]
  exact ⟨rfl, (escalate_keeps ..).mem⟩

theorem warmLevel_too_many (hw : s.rcv.warm = none) (hn : fld (s.reg rRcvCfg) 48 3 ≤ recentWarms s) :
    warmLevel s cause code = powerLevel s 1 code := by
  rw [fld_eq_bitsOf] at h hn
  rw [warmLevel, if_neg (by simp [hw, h]), if_pos (by omega)]

end Levels

theorem exec_powercycleRequestRepeat (s : State) : exec .powercycleRequestRepeat s = .next (
    if fld (s.reg rRcvPcreq) 0 1 = 1 ∧ (s.pwr.fallback = true ∨ s.rcv.asked + 1000000000 ≤ s.time) then askPower s else s) := by
  rw [fld_eq_bitsOf]
  rfl

/-! ## Device warm reset (R525) -/

theorem deviceWarmReset_idle (b : BootIn) {s : State} (hr : s.rcv.reserve = false) (hw : s.rcv.warm = none) :
    exec (.deviceWarmReset b) s = .next s := by
  show execDeviceWarmReset b s = _
  rw [execDeviceWarmReset, hr]
  simp only [Bool.false_eq_true, if_false, hw]

theorem deviceWarmReset_resets (b : BootIn) {cause : Nat} {s : State} (hr : s.rcv.reserve = false) (hw : s.rcv.warm = some cause) :
    exec (.deviceWarmReset b) s = .next (settleAll (warmBoot (warmState s cause) b)) := by
  show execDeviceWarmReset b s = _
  rw [execDeviceWarmReset, hr]
  simp only [Bool.false_eq_true, if_false, hw]

/-- What a warm reset clears whatever the device was doing. The registers that it writes last leave it so. -/
theorem warmState_cleared (cause : Nat) (s : State) :
    (warmState s cause).attached = false ∧ (warmState s cause).colls = [] ∧ (warmState s cause).ckpts = [] ∧ (warmState s cause).seqs = [] ∧
      (warmState s cause).feeds = [] ∧ (warmState s cause).rcv.warm = none ∧ (warmState s cause).watches = [] := by
  unfold warmState
  extract_lets s1 s2 s3 s4 s5 s6 s7 s8 s9 s10 s11 s12 cleared nvmeReset scrubEnded counted
  have hscrub : Keeps NoReg nvmeReset scrubEnded := by
    unfold scrubEnded
    split
    · exact (Keeps.setReg _ _ id).trans (Keeps.setReg _ _ id)
    · exact Keeps.refl _
  have hregs : Keeps NoReg nvmeReset (counted.setRegField rAlive 0 16 (bitsOf (counted.reg rAlive) 0 16 + 1)) :=
    (hscrub.trans (Keeps.setReg _ _ id)).trans (Keeps.setReg _ _ id)
  rw [hregs.rest]
  exact ⟨rfl, rfl, rfl, rfl, rfl, rfl, rfl⟩

/-! ## Power (R31, R371) -/

/-- What a power cycle leaves beside registers: flash and fuses keep what they hold, and everything else is as at power-on. -/
def coldRest (s : State) : State :=
  { State.reset with
    pending := s.pending, free := s.free, out := s.out, secondary := s.secondary
    intg := { Intg.reset with faults := s.intg.faults, grains := s.intg.grains, gills := s.intg.gills, soft := s.intg.soft, lanes := s.intg.lanes
                              out_ := s.intg.out_ }
    engines := s.engines.foldl (fun t (e, x) => tblSet Engine.reset t e { Engine.reset with avail := x.avail, poolBad := x.poolBad, badRows := x.badRows }) []
    fw := { FwState.reset with flashA := s.fw.flashA, flashB := s.fw.flashB, active := s.fw.active, minsec := s.fw.minsec } }

theorem coldState_keeps (s : State) : Keeps NoReg (coldRest s) (coldState s) := by
  have hspares : ∀ (off : Nat → Nat) (lo w : Nat) (ns : List Nat) (t : State),
      Keeps NoReg t (ns.foldl (fun t n => t.setRegField (off n) lo w (bitsOf (s.reg (off n)) lo w)) t) :=
    fun off lo w ns t => Keeps.foldl (fun _ _ t => Keeps.setReg t _ id) t
  exact ((((hspares rIntgPool 48 8 _ _).trans (hspares rIntgMere 48 10 _ _)).trans (hspares rIntgHbm 48 12 _ _)).trans
    (hspares rLink 16 8 _ _)).trans (Keeps.setReg _ _ id)

theorem coldState_kept (s : State) :
    (coldState s).phase = 0 ∧ (coldState s).mem = State.reset.mem ∧ (coldState s).items = [] ∧ (coldState s).regions = State.reset.regions ∧
      (coldState s).keys = State.reset.keys ∧ (coldState s).fw.flashA = s.fw.flashA ∧ (coldState s).fw.flashB = s.fw.flashB ∧
      (coldState s).fw.active = s.fw.active ∧ (coldState s).fw.minsec = s.fw.minsec ∧ (coldState s).intg.grains = s.intg.grains ∧
      (coldState s).intg.gills = s.intg.gills ∧ (coldState s).intg.faults = s.intg.faults ∧ (coldState s).pending = s.pending := by
  rw [(coldState_keeps s).rest]
  exact ⟨rfl, rfl, rfl, rfl, rfl, rfl, rfl, rfl, rfl, rfl, rfl, rfl, rfl⟩

/-- The cold device with the registers that the guard die keeps (R34). -/
def guardKept (s : State) : State := [rKeyAlarm, rKeyErasures, rRcvWarm, rRcvPcreq, rUnlocks].foldl (fun t off => t.setReg off (s.reg off)) (coldState s)

theorem guardKept_keeps (s : State) : Keeps NoReg (coldRest s) (guardKept s) :=
  (coldState_keeps s).trans (Keeps.foldl (fun _ _ t => Keeps.setReg t _ id) _)

theorem guardKept_pcreq (s : State) : (guardKept s).reg rRcvPcreq = s.reg rRcvPcreq := by
  simp only [guardKept, List.foldl_cons, List.foldl_nil]
  rw [State.reg_setReg, if_neg (by decide), State.reg_setReg_self]

/-- `t` in D3cold, with the guard die's own state from `s` (R34, R371). -/
def inD3cold (t s : State) : State :=
  { t with
    d3cold := true, mtr := s.mtr, alarmLive := s.alarmLive, i3c := s.i3c
    pwr := { Power.reset with highs := s.pwr.highs, temps := s.pwr.temps } }

/-- `t` is `s` in D3cold: keys and memory are lost; the flash, the meter, the management bus and a pending request for a power cycle are not. -/
def Asleep (s t : State) : Prop :=
  t.d3cold = true ∧ t.phase = 0 ∧ t.keys = State.reset.keys ∧ t.mem = State.reset.mem ∧ t.mtr = s.mtr ∧
    t.fw.flashA = s.fw.flashA ∧ t.i3c = s.i3c ∧ t.reg rRcvPcreq = s.reg rRcvPcreq

theorem asleep_inD3cold {s t : State} (hk : Keeps NoReg (coldRest s) t) (hr : t.reg rRcvPcreq = s.reg rRcvPcreq) : Asleep s (inD3cold t s) :=
  ⟨rfl, hk.phase, hk.keys, hk.mem, rfl, (congrArg FwState.flashA hk.fw :), rfl, hr⟩

theorem asleep_assertWake {s t : State} (h : Asleep s t) : Asleep s (assertWake t) := by
  unfold assertWake
  split
  · exact h
  · exact h

theorem livePecks_of_none {s : State} (h : s.pecks = []) : livePecks s = [] := by
  have hp : ∀ p, (s.peck p).state = .free := fun p => by rw [State.peck, h]; rfl
  simp [livePecks, hp]

theorem d3coldEntry_ignored (s : State) (h : s.d3cold = true ∨ s.phase = 0) : exec .d3coldEntry s = .next s :=
  congrArg Host.Outcome.next (if_pos h)

theorem d3coldEntry_enters {s : State} (hd : s.d3cold = false) (hp : s.phase ≠ 0) (hn : s.pecks = []) :
    exec .d3coldEntry s = .next (
      if (inD3cold (guardKept s) s).mtr.length ≥ 768 then assertWake (inD3cold (guardKept s) s) else inD3cold (guardKept s) s) := by
  show execD3coldEntry s = _
  rw [execD3coldEntry, if_neg (by simp [hd, hp]), livePecks_of_none hn, List.foldl_nil]
  rfl

theorem d3coldEntry_keeps (s : State) (hd : s.d3cold = false) (hp : s.phase ≠ 0) (hn : s.pecks = []) :
    Gives .d3coldEntry s fun t => t.d3cold = true ∧ t.phase = 0 ∧ t.keys = State.reset.keys ∧ t.mem = State.reset.mem ∧ t.mtr = s.mtr ∧
      t.fw.flashA = s.fw.flashA ∧ t.i3c = s.i3c ∧ t.reg rRcvPcreq = s.reg rRcvPcreq := by
  have hasleep := asleep_inD3cold (guardKept_keeps s) (guardKept_pcreq s)
  refine ⟨_, d3coldEntry_enters hd hp hn, ?_⟩
  split
  · exact asleep_assertWake hasleep
  · exact hasleep

theorem d3coldExit_ignored (b : BootIn) (s : State) (h : s.d3cold = false) : exec (.d3coldExit b) s = .next s :=
  congrArg Host.Outcome.next (if_neg (by simp [h]))

theorem d3coldExit_boots (b : BootIn) (s : State) (h : s.d3cold = true) :
    exec (.d3coldExit b) s = .next (settleAll (coldBoot { s with d3cold := false, phase := 1 } b)) :=
  congrArg Host.Outcome.next (if_pos h)

end Sys2Proof.Machine

namespace Sys2Proof.Proofs

open Sys2Proof.Machine

/-- Settles O53, clause by clause. -/
theorem bootAndRecovery : Obligations.BootAndRecovery := by
  unfold Obligations.BootAndRecovery
  refine ⟨boot_ignored, boot_boots,
    fun b s h h' => coldBoot_no_bundle h (by rwa [flashSlot_not_active]),
    fun b r s h hr => coldBoot_rail_bad h hr,
    fun b s h hr ho hl hb => ⟨coldBoot_link_bad h hr hl hb, fun hk => coldBoot_hbm_bad h hr hl hb hk ho,
      fun hk hm hs hf => coldBoot_ready h hr hl hb hk ho hm hs hf⟩,
    fun b s h ha h' hr => coldBoot_fallback h ha h' hr,
    fun u s he hr hw => progressSample_unwatched he hr hw,
    fun u w l s => progressSample_samples,
    fun u p s => progressSample_early,
    hang_mgrRing_counts,
    fun e s => replayRun_idle,
    fun e r s => replayRun_ends,
    fun e k i r s => replayRun_restarts,
    rcvWarmreset_acts, rcvPowercycle_acts,
    fun cause code s h => ⟨powerLevel_requests h, warmLevel_due h, warmLevel_too_many h⟩,
    exec_powercycleRequestRepeat,
    fun b s => deviceWarmReset_idle b,
    fun b cause s => deviceWarmReset_resets b,
    warmState_cleared, fun s => rfl, coldState_kept, d3coldEntry_ignored, d3coldEntry_keeps, d3coldExit_ignored, d3coldExit_boots⟩

end Sys2Proof.Proofs
end
